-- ==== Sys2Proof/Word.lean ====
section
/-!
DEFINITION. The word types of the block and their plainest names (spec/00_scope.md R9, R11, R13).
-/
namespace Sys2Proof

/-- One byte of memory. -/
abbrev Byte := BitVec 8

/-- One control-space register word (R13). -/
abbrev Word := BitVec 32

/-- A 64-bit counter or identity, two consecutive register words (R13). -/
abbrev DWord := BitVec 64

/-- A stream ring index, r = 24 × die + 3 × slot + s (R121). -/
abbrev RingId := Fin 48

/-- A job slot number (R34). -/
abbrev SlotId := Fin 8

/-- A die: 0 West, 1 East (R6). -/
abbrev Die := Fin 2

/-- A Sprig, by the model's number: 0 to 7 the port Sprigs, 8 to 15 West's general Sprigs, 16 to 23 East's (R245, R248).
-/
abbrev SprigId := Fin 24

end Sys2Proof
end

