-- ==== Sys2Proof/Syntax.lean ====
section
/-!
DEFINITION. The commands of the block: one constructor of `Instr` for each row of spec/opcode_table.json, with the
row's operands. What a sensor, a pin, a peer or a sender brings into a step is an operand of the command.
-/
namespace Sys2Proof

/-- What a Kalec request's header and path bring (R369 to R373): the mailbox reached, the frame's own fields, and
for a UDP mailbox the sender's address and the port of arrival; and whether the frame's length, CRC and LEN hold (R373
step 1). -/
structure KHdr where
  mbox     : Fin 16
  ver      : Nat
  kind     : Nat
  frameMb  : Nat
  reqSeq   : Word
  agent    : DWord
  otok     : Word
  peerIp   : BitVec 128
  peerPort : BitVec 16
  port     : Fin 8
  sound    : Bool
  reserved : Option (BitVec 16)   -- a CMD the frame carries in place of the row's, where R376 lists none of that number
  deriving DecidableEq, Repr

/-- The QP_BIND payload of R376. -/
structure QpArgs where
  qp      : BitVec 16
  slot    : BitVec 8
  base    : BitVec 48
  bytes   : BitVec 48
  mtu     : BitVec 16
  port    : BitVec 8
  destQpn : BitVec 24
  destGid : BitVec 128
  sqPsn   : BitVec 24
  rqPsn   : BitVec 24
  rkey    : Word
  retry   : BitVec 8
  deriving DecidableEq, Repr

/-- A Kalec command with its payload, as R376 lists them. -/
inductive KCmd where
  | hello
  | readReg (addr : Word) (count : BitVec 16)
  | ownerInfo
  | readEvents (fromDseq : Word) (max : BitVec 16) (boot : Option Word)
  | slagRead (index : Word) (count : BitVec 16)
  | configRead (offset : BitVec 16)
  | quote (nonce : BitVec 256)
  | claim (priority : Byte)
  | yield (successor : DWord) (reserve : Byte)
  | keepalive
  | forceVacate (hold : Byte)
  | writeReg (writes : List (Word × Word))
  | configWrite (expectSeq : DWord) (apply : Byte) (entries : List (Word × Word))
  | slotOpen (slot : Byte) (stateAddr : BitVec 48)
  | slotStart (slot : Byte)
  | slotStop (slot : Byte)
  | slotClose (slot : Byte)
  | streamResume (ring : Byte)
  | stepMark (slot : Byte)
  | qpBind (a : QpArgs)
  | qpUnbind (qp : BitVec 16)
  | pageClear (page : Word)
  | setCap (watts : BitVec 16)
  | setPhaseOp (phase op : Byte)
  | setGroupOp (op : Byte)
  | resume
  | fwStage (fslot : Byte) (offset : Word) (data : List Byte)
  | fwCommit (fslot : Byte) (length : Word)
  | fwActivate (fslot : Byte)
  | debugToken (offset : Word) (final : Byte) (data : List Byte)
  deriving DecidableEq, Repr

/-- Who makes a control-space write: a Kalec sender with its identity and token (R373, R377), a direct I3C write
(R367), or a DBGACC write at FULL (R484). -/
inductive Writer where
  | kalec (agent : DWord) (otok : Word)
  | i3c
  | debug
  deriving DecidableEq, Repr

/-- A droop-detected domain of R404. -/
inductive DroopDomain where
  | anv (n : Fin 4)
  | sprig (d : Die)
  | fab (d : Die)
  deriving DecidableEq, Repr

/-- What the module measures over one cap-loop period of 25 µs (R406, R410 to R413, R424). Temperatures of the
coolant are in units of 0.25 °C, energies in microjoules. -/
structure CapSample where
  watts      : Nat
  peakClear  : Bool
  inlet      : Nat
  outlet     : Nat
  vin        : BitVec 16
  tjAnvil    : Vector Nat 4
  tjWest     : Nat
  tjEast     : Nat
  energy     : Nat
  energyAnv  : Vector Nat 4
  deriving DecidableEq, Repr

/-- What of a tile depends on timing: whether it followed no other tile without a gap, so that it pays the fill of the array
(R50, R56), and cycles (R45 to R48, R52, R54, R167); `early` are those, not held, that it ran before the present duty took
effect (R407). -/
structure TileTiming where
  gap       : Bool
  dryA      : Nat
  dryB      : Nat
  dryBoth   : Nat
  dryEvents : Nat
  late      : Nat
  holdWait  : Nat
  early     : Nat
  deriving DecidableEq, Repr

/-- A wrong value in an Anvil's array while it works a tile: the physical row and column of the cell, 512 naming the
checksum row and column, the chunk counted from 0, and by how much the cell's register is off (R58, R118). For BF16 and
FP16 the code of the final accumulator, or of a checksum cell's sum, is off by `delta` (R61). -/
structure CellFault where
  row   : Nat
  col   : Nat
  chunk : Nat
  delta : Int
  deriving DecidableEq, Repr

/-- A PLL locked: its Anvil, and the cycles for which that was gated while its only PLL relocked (R449). -/
structure PllLocked where
  anvil : Fin 4
  gated : Nat
  deriving DecidableEq, Repr

/-- The start of a tile: the Anvil, and what its array gets wrong while it works the tile. -/
structure TileEntry where
  anvil  : Fin 4
  faults : List CellFault
  deriving DecidableEq, Repr

/-- A received transport packet (R332) with what the MAC found of it, whether its UDP checksum is right, whether its
TYPE is reserved, and its source address. `tag` is the receive tag of R346, for which the header table has no field. -/
structure Packet where
  fcsOk   : Bool
  udpOk   : Bool
  badType : Bool
  srcIp   : BitVec 128
  crcOk   : Bool
  vid     : BitVec 12
  bytes   : Nat
  ce      : Bool
  ver     : Nat
  cls     : Fin 4
  last    : Bool
  poison  : Bool
  epoch   : BitVec 16
  srcDev  : BitVec 16
  dstDev  : BitVec 16
  psn     : Word
  opId    : Word
  offset  : Word
  unit    : BitVec 16
  aux     : Word
  code    : Byte
  tag     : Word
  addr    : BitVec 48
  data    : List Byte
  deriving DecidableEq, Repr

/-- A received RoCEv2 request (R356, R357). -/
structure RoceReq where
  port   : Fin 8
  vid    : BitVec 12
  bytes  : Nat
  icrcOk : Bool
  ce     : Bool
  qp     : BitVec 24
  psn    : BitVec 24
  rkey   : Word
  addr   : BitVec 48
  length : Nat
  data   : List Byte
  deriving DecidableEq, Repr

/-- A received answer to a RoCEv2 request of a checkpoint (R356, R436, R439). -/
structure RoceResp where
  port   : Fin 8
  vid    : BitVec 12
  bytes  : Nat
  icrcOk : Bool
  ce     : Bool
  qp     : BitVec 24
  nak    : Bool
  data   : List Byte
  deriving DecidableEq, Repr

/-- A received CNP (R356). -/
structure Cnp where
  port   : Fin 8
  vid    : BitVec 12
  bytes  : Nat
  icrcOk : Bool
  qp     : BitVec 24
  deriving DecidableEq, Repr

/-- A word outside the memories of Bellows: on a path of the die, in a Sprig's L1, in the Trough, or in a Sprig's
instruction memory (R445, R447). -/
inductive OnDie where
  | path (lineAddr : Nat)
  | l1 (n : SprigId) (lineAddr : Nat)
  | trough (lineAddr : Nat)
  | imem (n : SprigId)
  deriving DecidableEq, Repr

/-- Where an error lies (R298 to R300, R305, R445, R447). -/
inductive ErrPlace where
  | near (frame : Nat)
  | deep (frame : Nat)
  | tile (frame : Nat)
  | cache (set : Nat) (lineAddr : Nat)
  | ring (frame : Nat) (lineAddr : Nat)
  | map (frame : Nat)
  | onDie (w : OnDie)
  deriving DecidableEq, Repr

/-- An error found by an access (R298): its die, place, and the line within the page. -/
structure ErrLoc where
  die   : Die
  place : ErrPlace
  line  : Fin 4096
  slot  : Option SlotId
  add   : Bool        -- the access is the read half of a Crucible add (R181)
  deriving DecidableEq, Repr

/-- Whether an error lies in the memories of Bellows. -/
def ErrLoc.inMemory (e : ErrLoc) : Bool := match e.place with
  | .onDie _ => false
  | _ => true

/-- What patrol scrub finds in a line (R452). -/
inductive ScrubFind where
  | clean
  | corrected
  | uncorrectable
  deriving DecidableEq, Repr

/-- How the retraining of a channel ends (R454). -/
inductive RetrainEnd where
  | installed
  | abandoned
  | repaired
  | noSpare
  deriving DecidableEq, Repr

/-- How a handler runs: step by step through Sprig commands, or the reference rule's whole pass at once (R258). -/
inductive HandlerRun where
  | stepwise
  | reference
  deriving DecidableEq, Repr

/-- A compare condition of FCMP (R246); `un` holds when either operand is NaN. -/
inductive FCond where
  | eq | ne | lt | le | gt | ge | un
  deriving DecidableEq, Repr

/-- A conversion of CVT (R246). -/
inductive CvtKind where
  | toBf16 | fromBf16 | toFp16 | fromFp16
  deriving DecidableEq, Repr

/-- A memory element format of the Sprig loads and stores (R246). -/
inductive LaneFmt where
  | fp32 | bf16 | fp16
  deriving DecidableEq, Repr

/-- A predicate register that guards a vector instruction, or none (R246). -/
abbrev Pred := Option (Fin 8)

/-- An operation of the integer arithmetic of a Sprig, on 64 bits; a shift takes the low six bits of its amount (R246). -/
inductive IntOp where
  | add | sub | mul | and | or | xor | shl | shr
  deriving DecidableEq, Repr

/-- A special register of a Sprig (R245). -/
inductive Special where
  | pivf | nonfin | uratio
  deriving DecidableEq, Repr

/-- An instruction of R246's Scalar class other than RET. A branch or a loop decides which commands its Sprig is sent
next. -/
inductive Scalar where
  | int (op : IntOp) (sd sa sb : Fin 32)
  | imm (sd : Fin 32) (value : DWord)
  | branch (ss : Fin 32)
  | get (r : Special) (sd : Fin 32)
  | clearPivf
  | putUratio (ss : Fin 32)
  deriving DecidableEq, Repr

/-- The Sprig of a command, and the scalar instructions that its code executed since the Sprig's last command. The opcode
table has no row for them. -/
structure SprigAt where
  n      : SprigId
  before : List Scalar
  deriving DecidableEq, Repr

/-- The commands of the block, one constructor for each row of spec/opcode_table.json. -/
inductive Instr where
  -- power, pins and clocks
  | powerOn (addrSel slotIdStrap : BitVec 3)
  | vinFault (high : Bool)
  | pwrEnFall
  | vioLoss
  | modResetAssert
  | modResetRelease
  | flowOkFilterPass
  | quenchEnter
  | thermtrip
  | refclkWindow (edges : Nat)
  | droopFire (d : DroopDomain)
  | droopRelease (d : DroopDomain) (suppressed : Nat)
  | peakLimit (watts : Nat)
  | capLoopStep (m : CapSample)
  | pllLock (e : PllLocked)
  | pllSwitch (a : Fin 4)
  | pllSwitchDeferExpire (a : Fin 4)
  | pllLockFail (a : Fin 4)
  | guardbandStep (anvilRail : Bool)
  | laneMarginCheck (lane : Fin 64) (bitErrors : Nat)
  | bridgeRetrain (dir : Fin 2) (group : Fin 8)
  | bridgeRetrainDone (dir : Fin 2) (group : Fin 8) (good : Bool)
  | linkDown (p : Fin 8)
  | linkUp (p : Fin 8)
  | preemptVerify (p : Fin 8)
  -- I3C
  | entdaa (da : BitVec 7)
  | setdasa (target : BitVec 7) (da : BitVec 7)
  | rstdaa
  | enec (events : Byte)
  | disec (events : Byte)
  | getpid
  | getbcr
  | getdcr
  | i3cPrivateWrite (data : List Byte)
  -- the TAP
  | tapReset
  | idcode
  | samplePreload (scan : BitVec 16)
  | extest
  | clamp
  | highz
  | bypass
  | dbgacc (dr : BitVec 84)
  | dbgaccDone
  -- Kalec commands and the timers of the control processor
  | hello (h : KHdr)
  | readReg (h : KHdr) (addr : Word) (count : BitVec 16)
  | ownerInfo (h : KHdr)
  | readEvents (h : KHdr) (fromDseq : Word) (max : BitVec 16) (boot : Option Word)
  | slagRead (h : KHdr) (index : Word) (count : BitVec 16)
  | configRead (h : KHdr) (offset : BitVec 16)
  | quote (h : KHdr) (nonce : BitVec 256)
  | claim (h : KHdr) (priority : Byte)
  | claimWindowClose
  | yield (h : KHdr) (successor : DWord) (reserve : Byte)
  | keepalive (h : KHdr)
  | forceVacate (h : KHdr) (hold : Byte)
  | leaseExpire
  | reservationElapse
  | writeReg (h : KHdr) (writes : List (Word × Word))
  | configWrite (h : KHdr) (expectSeq : DWord) (apply : Byte) (entries : List (Word × Word))
  | configCopyWritten
  | slotOpen (h : KHdr) (slot : Byte) (stateAddr : BitVec 48)
  | slotStart (h : KHdr) (slot : Byte)
  | slotStop (h : KHdr) (slot : Byte)
  | slotClose (h : KHdr) (slot : Byte)
  | streamResume (h : KHdr) (ring : Byte)
  | stepMarkCmd (h : KHdr) (slot : Byte)
  | qpBind (h : KHdr) (a : QpArgs)
  | qpUnbind (h : KHdr) (qp : BitVec 16)
  | pageClear (h : KHdr) (page : Word)
  | setCap (h : KHdr) (watts : BitVec 16)
  | setPhaseOp (h : KHdr) (phase op : Byte)
  | setGroupOp (h : KHdr) (op : Byte)
  | resume (h : KHdr)
  | fwStage (h : KHdr) (fslot : Byte) (offset : Word) (data : List Byte)
  | fwCommit (h : KHdr) (fslot : Byte) (length : Word)
  | fwActivate (h : KHdr) (fslot : Byte)
  | fwHandoff (accepted : Bool)
  | kalecWatchdogExpire (memoryError : Bool)
  | kalecRestartDone (thirdInWindow : Bool)
  | debugToken (h : KHdr) (offset : Word) (final : Byte) (data : List Byte)
  | tokenObserve
  | tokenBscan
  | tokenDebug
  | tokenReturn
  | tokenFloor
  | lifecycleReset
  | lendephorBoot
  | configLoad
  | bootReady (degraded : List (Die × Bool × Nat))
  -- register writes with behaviour of their own
  | ringConfigWrite (w : Writer) (r : RingId) (reg : Fin 3) (value : Word)
  | itabLoad (w : Writer) (d : Die) (value : Word)
  | itabLoadDone (d : Die)
  | crucibleEnable (w : Writer) (n : Fin 16)
  | crucibleReady (n : Fin 16)
  | crucibleDisable (w : Writer) (n : Fin 16)
  | kvPoolEnable (w : Writer) (n : Fin 16) (stallLimit : BitVec 16)
  | kvPoolDisable (w : Writer) (n : Fin 16) (stallLimit : BitVec 16)
  | tsPartitionWrite (w : Writer) (d : Die) (value : Word)
  | tsPartitionDone (d : Die)
  | alloc (w : Writer) (flags : BitVec 2) (die : BitVec 2)
  | free (w : Writer) (flags : BitVec 2) (die : BitVec 2)
  | setflags (w : Writer) (flags : BitVec 2) (die : BitVec 2)
  | allocDone
  | unprotect (w : Writer) (value : Word)
  | weightRangeEnable (w : Writer) (n : Fin 16) (tiled : Bool)
  | weightRangeDisable (w : Writer) (n : Fin 16) (tiled : Bool)
  | disarm (w : Writer) (slots : Byte)
  | fiArm (w : Writer) (p : Fin 8) (value : Word)
  | fiDisarm (w : Writer) (p : Fin 8) (value : Word)
  | netDevIdWrite (w : Writer) (value : Word)
  | portCfgWrite (w : Writer) (p : Fin 8) (value : Word)
  | epochWrite (w : Writer) (u : Fin 88) (value : Word)
  | stateReqRun (w : Writer)
  | stateReqDoze (w : Writer)
  | stateReqSlumber (w : Writer)
  | wake (source : Fin 5)
  | padRelease (w : Writer) (groups : BitVec 7)
  | wakeDelayArm (w : Writer) (delay : BitVec 24)
  | wakeDelayExpire
  | auxFuncWrite (w : Writer) (value : Word)
  | captureArm (w : Writer) (d : Die) (value : Word)
  | captureDisarm (w : Writer) (d : Die) (value : Word)
  | auxCaptureEdge (pin : Fin 2)
  | capturePostExpire (d : Die)
  | captureDump (w : Writer) (d : Die) (value : Word)
  | captureDumpDone (d : Die)
  | close (w : Writer)
  | reseal (w : Writer)
  | sampleEnable (w : Writer) (value : Word)
  | telemetrySample
  | leadWrite (w : Writer) (lead : BitVec 3)
  | registerWrite (w : Writer) (addr : BitVec 24) (value : Word)
  -- rings and macro-ops
  | doorbell (line : Fin 4096) (off : Fin 64) (data : List Byte)
  | descriptorRead (r : RingId)
  | gemm (r : RingId)
  | gemmTa (r : RingId)
  | gemmTb (r : RingId)
  | gemmAcc (r : RingId)
  | attnF (r : RingId)
  | attnB (r : RingId)
  | attnD (r : RingId)
  | dispatch (r : RingId)
  | combine (r : RingId)
  | move (r : RingId)
  | quant (r : RingId)
  | send (r : RingId)
  | recv (r : RingId)
  | reduceScatter (r : RingId)
  | allReduce (r : RingId)
  | allGather (r : RingId)
  | update (r : RingId)
  | runSprig (r : RingId)
  | signal (r : RingId)
  | wait (r : RingId)
  | waitPoll (r : RingId)
  | fence (r : RingId)
  | stepMark (r : RingId)
  | ckptDrain (r : RingId)
  | ckptFill (r : RingId)
  | ckptDigest (r : RingId)
  | kvFree (r : RingId)
  | macroOpComplete (r : RingId) (k : Nat)
  -- tiles, interleave, fences
  | tileStart (e : TileEntry)
  | tileEnd (a : Fin 4) (t : TileTiming)
  | tileCheckDone (a : Fin 4) (pathUe : Bool)
  | fenceRowProgrammed
  | itabEntryEnd (a : Fin 4) (gated : Nat)
  -- key-value append
  | kvAppend (p : Fin 16)
  | kvAppendResume (p : Fin 16) (cycles : Nat)
  | kvStallExpire (p : Fin 16) (cycles : Nat)
  | kvFreeReturn (p : Fin 16)
  -- the update engine
  | chunkArrival (entry : BitVec 48) (chunk : Nat)
  | chunkHandler (entry : BitVec 48) (run : HandlerRun)
  | statsAllreduce (entry : BitVec 48)
  | statsAllreduceDone (entry : BitVec 48)
  | applyHandler (entry : BitVec 48) (run : HandlerRun) (holdCycles readerCycles : Nat)
  | layerOutcome (entry : BitVec 48)
  | ckptHoldRelease (r : RingId) (k : Nat) (e : Nat)
  | qpError (qp : Fin 256)
  -- Sprig instructions
  | fadd (sp : SprigAt) (vd va vb : Fin 32) (p : Pred)
  | fsub (sp : SprigAt) (vd va vb : Fin 32) (p : Pred)
  | fmul (sp : SprigAt) (vd va vb : Fin 32) (p : Pred)
  | fma (sp : SprigAt) (vd va vb vc : Fin 32) (p : Pred)
  | fmin (sp : SprigAt) (vd va vb : Fin 32) (p : Pred)
  | fmax (sp : SprigAt) (vd va vb : Fin 32) (p : Pred)
  | fabs (sp : SprigAt) (vd va : Fin 32) (p : Pred)
  | fneg (sp : SprigAt) (vd va : Fin 32) (p : Pred)
  | fdiv (sp : SprigAt) (vd va vb : Fin 32) (p : Pred)
  | fsqrt (sp : SprigAt) (vd va : Fin 32) (p : Pred)
  | frsq (sp : SprigAt) (vd va : Fin 32) (p : Pred)
  | fexp (sp : SprigAt) (vd va : Fin 32) (p : Pred)
  | fln (sp : SprigAt) (vd va : Fin 32) (p : Pred)
  | fred (sp : SprigAt) (sd va : Fin 32) (p : Pred)
  | fcmp (sp : SprigAt) (c : FCond) (pd : Fin 8) (va vb : Fin 32) (p : Pred)
  | pand (sp : SprigAt) (pd pa pb : Fin 8)
  | por (sp : SprigAt) (pd pa pb : Fin 8)
  | pnot (sp : SprigAt) (pd pa : Fin 8)
  | cvt (sp : SprigAt) (k : CvtKind) (vd va : Fin 32) (p : Pred)
  | vld (sp : SprigAt) (f : LaneFmt) (vd sa : Fin 32) (p : Pred)
  | vst (sp : SprigAt) (f : LaneFmt) (vs sa : Fin 32) (p : Pred)
  | vlds (sp : SprigAt) (f : LaneFmt) (vd sa st : Fin 32) (p : Pred)
  | vsts (sp : SprigAt) (f : LaneFmt) (vs sa st : Fin 32) (p : Pred)
  | ldacq (sp : SprigAt) (wide : Bool) (scope : Fin 4) (sd sa : Fin 32)
  | strel (sp : SprigAt) (wide : Bool) (scope : Fin 4) (ss sa : Fin 32)
  | qblk (sp : SprigAt) (smd sgr sgc vs : Fin 32)
  | pivot (sp : SprigAt) (vd vs st : Fin 32) (p : Pred)
  | ret (sp : SprigAt)
  -- Bellows and memory errors
  | bellowsSweep (d : Die)
  | migrationSwing (page : Nat)
  | windowFill (d : Die)
  | memoryCe (e : ErrLoc)
  | memoryUe (e : ErrLoc)
  | scrub (e : ErrLoc) (f : ScrubFind)
  | phyRetrain (d : Die) (deepTier : Bool) (channel : Nat) (res : RetrainEnd)
  -- transport and RoCEv2
  | dataReceive (p : Fin 8) (k : Packet)
  | msgReceive (p : Fin 8) (k : Packet)
  | reduceReceive (p : Fin 8) (k : Packet)
  | ackReceive (p : Fin 8) (k : Packet)
  | nakReceive (p : Fin 8) (k : Packet)
  | ackTimer (srcDev : BitVec 16) (cls : Fin 4)
  | rtoExpire (dstDev : BitVec 16) (cls : Fin 4) (psn : Word)
  | rateRaise (dstDev : BitVec 16)
  | reorderRelease (p : Fin 8)
  | rdmaWriteReceive (q : RoceReq)
  | rdmaReadReceive (q : RoceReq)
  | roceResponseReceive (q : RoceResp)
  | cnpReceive (k : Cnp)
  | arpRequest (p : Fin 8) (target : BitVec 32) (vid : Option (BitVec 12))
  | neighborSolicitation (p : Fin 8) (target : BitVec 128) (vid : Option (BitVec 12))
  -- completions of longer steps
  | dozeEntered
  | slumberEntered
  | roceAckTimeout (qp : Fin 256)
  | quoteSigned
  deriving DecidableEq, Repr

end Sys2Proof
end

