-- ==== Sys2Proof/Decode.lean ====
section
/-!
DEFINITION. The decoder of the block. No row of spec/opcode_table.json gives bits: a command is no word, so no word
spells one.
-/
namespace Sys2Proof

/-- The command that a word spells by the table's bits: none, for no row of the table gives bits. -/
def decodeTableWord (_nbits _w : Nat) : Option Instr := none

end Sys2Proof
end

