-- ==== Sys2Proof/Machine/Float.lean ====
section
/-!
DEFINITION. Number formats (spec/03_number_formats.md) and exact arithmetic with one rounding: values are dyadic
rationals, a result is handed to the rounding as a question it can ask (the floor of the magnitude on a grid), so that
quotients, square roots and scales with the factor √2 (R85, R109) are decided exactly.
-/
namespace Sys2Proof.Machine

/-- How a format spends its largest exponent (R72). -/
inductive FKind where
  | ieee | e4m3 | finite
  deriving DecidableEq, Repr

/-- An element format of R72. -/
structure FFmt where
  width : Nat
  mant  : Nat
  bias  : Nat
  kind  : FKind
  deriving DecidableEq, Repr

def fp32 : FFmt := ⟨32, 23, 127, .ieee⟩
def bf16 : FFmt := ⟨16, 7, 127, .ieee⟩
def fp16 : FFmt := ⟨16, 10, 15, .ieee⟩
def e4m3 : FFmt := ⟨8, 3, 7, .e4m3⟩
def e5m2 : FFmt := ⟨8, 2, 15, .ieee⟩
def e3m2 : FFmt := ⟨6, 2, 3, .finite⟩
def e2m3 : FFmt := ⟨6, 3, 1, .finite⟩
def e2m1 : FFmt := ⟨4, 1, 1, .finite⟩

/-- The FMT field of R82; a reserved code gives none. -/
def fmtOf : Nat → Option FFmt
  | 0 => some fp32
  | 1 => some bf16
  | 2 => some fp16
  | 3 => some e4m3
  | 4 => some e5m2
  | 5 => some e3m2
  | 6 => some e2m3
  | 7 => some e2m1
  | _ => none

namespace FFmt

/-- The magnitude bits' number of codes, the sign bit's weight. -/
def signW (f : FFmt) : Nat := 2 ^ (f.width - 1)

/-- The magnitude code of Inf, where the format has one; else the first code past the largest finite one. -/
def infCode (f : FFmt) : Nat :=
  match f.kind with
  | .ieee => f.signW - 2 ^ f.mant
  | .e4m3 => f.signW - 1
  | .finite => f.signW

/-- The magnitude code of the largest finite value (R72). -/
def maxCode (f : FFmt) : Nat := f.infCode - 1

/-- The canonical NaN of R75. -/
def nanCode (f : FFmt) : Nat :=
  match f.kind with
  | .ieee => if f.width = 8 then 0x7F else f.infCode + 2 ^ (f.mant - 1)
  | _ => f.signW - 1

/-- The exponent of the grid of subnormals. -/
def emin (f : FFmt) : Int := 1 - (f.bias : Int) - f.mant

end FFmt

/-- A number: NaN, an infinity, or (−1)^neg · m · 2^e. -/
inductive Val where
  | nan
  | inf (neg : Bool)
  | fin (neg : Bool) (m : Nat) (e : Int)
  deriving DecidableEq, Repr

/-- The magnitude of a finite magnitude code (R73). -/
def FFmt.magOf (f : FFmt) (c : Nat) : Nat × Int :=
  let x := c / 2 ^ f.mant
  if x = 0 then (c, f.emin) else (2 ^ f.mant + c % 2 ^ f.mant, f.emin + ((x : Int) - 1))

/-- The value of a code (R73). -/
def FFmt.decode (f : FFmt) (code : Nat) : Val :=
  let neg := bit code (f.width - 1)
  let c := code % f.signW
  let fin := let (m, e) := f.magOf c; Val.fin neg m e
  match f.kind with
  | .ieee => if c = f.infCode then .inf neg else if f.infCode < c then .nan else fin
  | .e4m3 => if c = f.infCode then .nan else fin
  | .finite => fin

/-- The largest finite magnitude of a format as m · 2^e. -/
def FFmt.fmax (f : FFmt) : Nat × Int := f.magOf f.maxCode

/-- Whether a · 2^x ≤ b · 2^y. -/
def dyLe (a : Nat) (x : Int) (b : Nat) (y : Int) : Bool :=
  if y ≤ x then decide (a <<< (x - y).toNat ≤ b) else decide (a ≤ b <<< (y - x).toNat)

/-- The floor of the square root, found bit by bit from bit `k`. -/
def isqrtFrom : Nat → Nat → Nat → Nat
  | 0, r, n => if (r + 1) * (r + 1) ≤ n then r + 1 else r
  | k + 1, r, n => let r' := r + 2 ^ (k + 1); isqrtFrom k (if r' * r' ≤ n then r' else r) n

/-- The floor of the square root. -/
def isqrt (n : Nat) : Nat := isqrtFrom (n.log2 / 2 + 1) 0 n

/-- What a rounding asks of a magnitude: its floor on the grid 2^q, and whether it lies on the grid. -/
abbrev Oracle := Int → Nat × Bool

/-- The magnitude m · 2^e. -/
def dyadic (m : Nat) (e : Int) : Oracle := fun q =>
  if q ≤ e then (m <<< (e - q).toNat, true) else (m >>> (q - e).toNat, m % 2 ^ (q - e).toNat == 0)

/-- The magnitude whose square is m · 2^e. -/
def sqrtOf (m : Nat) (e : Int) : Oracle := fun q =>
  let (x, exact) := dyadic m e (2 * q)
  let n := isqrt x
  (n, exact && n * n == x)

/-- The magnitude a / b · 2^e. -/
def ratio (a b : Nat) (e : Int) : Oracle := fun q =>
  if q ≤ e then let x := a <<< (e - q).toNat; (x / b, x % b == 0)
  else let y := b <<< (q - e).toNat; (a / y, a % y == 0)

/-- A magnitude known to be irrational, approximated from below by m · 2^e. -/
def approx (m : Nat) (e : Int) : Oracle := fun q => ((dyadic m e q).1, false)

/-- The floor of the base-2 logarithm of a magnitude, given as a guess at most one too high. -/
def lgOf (o : Oracle) (guess : Int) : Int := if 1 ≤ (o guess).1 then guess else guess - 1

/-- A rounding mode: to nearest even (R88), stochastic with its 16-bit random integer (R89), toward zero (R98). -/
inductive RMode where
  | nearest
  | stochastic (u : Nat)
  | toZero
  deriving DecidableEq, Repr

/-- The magnitude code nearest to a magnitude whose logarithm's floor is `lg`; codes from `infCode` on are above the
largest finite value (R88, R89). -/
def FFmt.roundMag (f : FFmt) (mode : RMode) (lg : Int) (o : Oracle) : Nat :=
  let q := max (lg - f.mant) f.emin
  let n :=
    match mode with
    | .nearest =>
      let (k, exact) := o (q - 1)
      if k % 2 = 0 then k / 2 else if exact then k / 2 + (k / 2) % 2 else k / 2 + 1
    | .stochastic u =>
      let (k, _) := o (q - 16)
      if u < k % 65536 then k / 65536 + 1 else k / 65536
    | .toZero => (o q).1
  (q - f.emin).toNat * 2 ^ f.mant + n

/-- The code of a sign and a magnitude code. -/
def FFmt.withSign (f : FFmt) (neg : Bool) (c : Nat) : Nat := if neg then f.signW + c else c

/-- The floor of the base-2 logarithm of m · 2^e. -/
def lgDy (m : Nat) (e : Int) : Int := (m.log2 : Int) + e

/-- A number rounded to nearest even in a format that has infinities. -/
def FFmt.round (f : FFmt) : Val → Nat
  | .nan => f.nanCode
  | .inf neg => f.withSign neg f.infCode
  | .fin neg m e =>
    if m = 0 then f.withSign neg 0
    else f.withSign neg (min (f.roundMag .nearest (lgDy m e) (dyadic m e)) f.infCode)

namespace Val

def isNan : Val → Bool
  | .nan => true
  | _ => false

def isFin : Val → Bool
  | .fin .. => true
  | _ => false

def isZero : Val → Bool
  | .fin _ m _ => m == 0
  | _ => false

def neg : Val → Val
  | .nan => .nan
  | .inf s => .inf (!s)
  | .fin s m e => .fin (!s) m e

def abs : Val → Val
  | .nan => .nan
  | .inf _ => .inf false
  | .fin _ m e => .fin false m e

/-- The exact sum; an exact zero is −0 only where both zeros are −0 (IEEE 754, nearest even). -/
def add : Val → Val → Val
  | .nan, _ => .nan
  | _, .nan => .nan
  | .inf s, .inf t => if s = t then .inf s else .nan
  | .inf s, _ => .inf s
  | _, .inf t => .inf t
  | .fin s m e, .fin t n g =>
    if m = 0 && n = 0 then .fin (s && t) 0 0
    else
      let b := min e g
      let x : Int := (if s then -1 else 1) * ((m <<< (e - b).toNat : Nat) : Int)
      let y : Int := (if t then -1 else 1) * ((n <<< (g - b).toNat : Nat) : Int)
      if x + y = 0 then .fin false 0 0 else .fin (x + y < 0) (x + y).natAbs b

/-- The exact product (IEEE 754). -/
def mul : Val → Val → Val
  | .nan, _ => .nan
  | _, .nan => .nan
  | .inf s, .inf t => .inf (s != t)
  | .inf s, .fin t n _ => if n = 0 then .nan else .inf (s != t)
  | .fin s m _, .inf t => if m = 0 then .nan else .inf (s != t)
  | .fin s m e, .fin t n g => .fin (s != t) (m * n) (e + g)

/-- Whether x < y as numbers; false where either is NaN. -/
def lt : Val → Val → Bool
  | .nan, _ => false
  | _, .nan => false
  | .inf s, .inf t => s && !t
  | .inf s, _ => s
  | _, .inf t => !t
  | .fin s m e, .fin t n g =>
    let s' := s && m != 0
    let t' := t && n != 0
    match s', t' with
    | true, false => true
    | false, true => false
    | false, false => !dyLe n g m e
    | true, true => !dyLe m e n g

/-- Whether x = y as numbers; false where either is NaN. -/
def eq (x y : Val) : Bool := !x.isNan && !y.isNan && !lt x y && !lt y x

/-- Whether a finite value is an integral power of two, and its exponent. -/
def pow2? : Val → Option Int
  | .fin false m e => if m ≠ 0 && 2 ^ m.log2 = m then some (m.log2 + e) else none
  | _ => none

end Val

/-- The value of an FP32 code. -/
def f32 (c : Nat) : Val := fp32.decode c

/-- A NaN made canonical (R75), any other code itself. -/
def f32Canon (x : Nat) : Nat := if (f32 x).isNan then fp32.nanCode else x

/-- FP32 operations on codes, each rounded once to nearest even. -/
def f32Add (a b : Nat) : Nat := fp32.round ((f32 a).add (f32 b))
def f32Sub (a b : Nat) : Nat := fp32.round ((f32 a).add (f32 b).neg)
def f32Mul (a b : Nat) : Nat := fp32.round ((f32 a).mul (f32 b))
def f32Fma (a b c : Nat) : Nat := fp32.round (((f32 a).mul (f32 b)).add (f32 c))

/-- The magnitude code of an oracle's magnitude in FP32, Inf past the largest finite value. -/
def f32Mag (guess : Int) (o : Oracle) : Nat := min (fp32.roundMag .nearest (lgOf o guess) o) fp32.infCode

/-- FP32 division (IEEE 754). -/
def f32Div (a b : Nat) : Nat :=
  match f32 a, f32 b with
  | .nan, _ => fp32.nanCode
  | _, .nan => fp32.nanCode
  | .inf _, .inf _ => fp32.nanCode
  | .inf s, .fin t _ _ => fp32.withSign (s != t) fp32.infCode
  | .fin s _ _, .inf t => fp32.withSign (s != t) 0
  | .fin s m e, .fin t n g =>
    if n = 0 then (if m = 0 then fp32.nanCode else fp32.withSign (s != t) fp32.infCode)
    else if m = 0 then fp32.withSign (s != t) 0
    else fp32.withSign (s != t) (f32Mag ((m.log2 : Int) - n.log2 + (e - g)) (ratio m n (e - g)))

/-- FP32 square root (IEEE 754): −0 gives −0, other negative values NaN. -/
def f32Sqrt (a : Nat) : Nat :=
  match f32 a with
  | .nan => fp32.nanCode
  | .inf s => if s then fp32.nanCode else fp32.infCode
  | .fin s m e =>
    if m = 0 then fp32.withSign s 0
    else if s then fp32.nanCode
    else f32Mag (lgDy m e / 2) (sqrtOf m e)

/-- The magnitude whose square is 2^w / (n · 2^g), for a wide w. -/
def rsqrtOf (n : Nat) (g : Int) : Oracle := fun q =>
  let (x, exact) := ratio 1 n (-g) (2 * q)
  let r := isqrt x
  (r, exact && r * r == x)

/-- FP32 reciprocal square root: ±0 gives the infinity of its sign, negative values NaN. -/
def f32Rsqrt (a : Nat) : Nat :=
  match f32 a with
  | .nan => fp32.nanCode
  | .inf s => if s then fp32.nanCode else 0
  | .fin s m e =>
    if m = 0 then fp32.withSign s fp32.infCode
    else if s then fp32.nanCode
    else f32Mag (-(lgDy m e / 2)) (rsqrtOf m e)

/-- Fixed-point bits of the exponential and logarithm series. -/
def seriesBits : Nat := 256

/-- 2 · atanh(a / b) in fixed point by its series, for a / b at most 1/3: the sum of z^(2k+1) / (2k+1). -/
def atanh2From : Nat → Nat → Nat → Nat → Nat
  | 0, _, _, _ => 0
  | n + 1, k, t, z2 => 2 * t / (2 * k + 1) + atanh2From n (k + 1) (t * z2 / 2 ^ seriesBits) z2

/-- 2 · atanh(a / b) in fixed point. -/
def atanh2 (a b : Nat) : Nat :=
  let z := (a <<< seriesBits) / b
  atanh2From 90 0 z (z * z / 2 ^ seriesBits)

/-- ln 2 in fixed point. -/
def ln2Fix : Nat := atanh2 1 3

/-- The series of e^r in fixed point for 0 ≤ r < 1: terms r^k / k!. -/
def expSeries : Nat → Nat → Nat → Nat → Nat
  | 0, _, _, _ => 0
  | n + 1, k, t, r => t + expSeries n (k + 1) (t * r / 2 ^ seriesBits / (k + 1)) r

/-- e^x of an FP32 code, rounded once to nearest even (R246). -/
def f32Exp (a : Nat) : Nat :=
  match f32 a with
  | .nan => fp32.nanCode
  | .inf s => if s then 0 else fp32.infCode
  | .fin s m e =>
    if m = 0 then 0x3F800000
    else if !dyLe m e 128 0 then (if s then 0 else fp32.infCode)
    else
      let x := (dyadic m e (-(seriesBits : Int))).1
      let k := if s then -((x / ln2Fix + 1 : Nat) : Int) else ((x / ln2Fix : Nat) : Int)
      let r := if s then (x / ln2Fix + 1) * ln2Fix - x else x % ln2Fix
      let y := expSeries 70 0 (2 ^ seriesBits) r
      f32Mag (lgDy y (k - seriesBits)) (approx y (k - seriesBits))

/-- ln x of an FP32 code, rounded once to nearest even (R246): ±0 gives −Inf, negative values NaN. -/
def f32Ln (a : Nat) : Nat :=
  match f32 a with
  | .nan => fp32.nanCode
  | .inf s => if s then fp32.nanCode else fp32.infCode
  | .fin s m e =>
    if m = 0 then fp32.withSign true fp32.infCode
    else if s then fp32.nanCode
    else
      let g := lgDy m e
      let p := 2 ^ m.log2
      let lf := atanh2 (m - p) (m + p)
      let v : Int := g * (ln2Fix : Int) + lf
      if v = 0 then 0
      else fp32.withSign (v < 0) (f32Mag (lgDy v.natAbs (-(seriesBits : Int))) (approx v.natAbs (-(seriesBits : Int))))

/-- The FP32 code of a signed integer, rounded once. -/
def f32OfInt (x : Int) : Nat := fp32.round (.fin (x < 0) x.natAbs 0)

/-- An exact source value of a conversion, given by the square sq · 2^se of its magnitude, so that a scale with the
factor √2 stays exact (R85). -/
inductive SVal where
  | nan
  | inf (neg : Bool)
  | fin (neg : Bool) (sq : Nat) (se : Int)
  deriving DecidableEq, Repr

/-- A number as a source value, scaled by 2^(h/2) (R78, R79). -/
def Val.scaled (v : Val) (h : Int) : SVal :=
  match v with
  | .nan => .nan
  | .inf s => .inf s
  | .fin s m e => .fin s (m * m) (2 * e + h)

/-- Scale codes of R82's SENC: 1 E8M0, 2 HS8; the half-step exponent of a code (R78, R108). -/
def halfSteps (senc s : Nat) : Int := if senc = 1 then 2 * ((s : Int) - 127) else (s : Int) - 127

/-- The block scale of R84 for the largest finite magnitude's square a · 2^x and the per-tensor scale 2^lt. -/
def chooseScale (f : FFmt) (senc : Nat) (lt : Int) (a : Nat) (x : Int) : Nat :=
  if a = 0 then 0
  else
    let (fm, fe) := f.fmax
    let b := fm * fm
    let y := x - 2 * fe - 2 * lt
    let o := ratio a b y
    let e := lgOf o ((a.log2 : Int) - b.log2 + y) / 2
    let isOne := dyLe a (y - 2 * e) b 0
    let leSqrt2 := dyLe a (y - 2 * e) (2 * b) 0
    let s : Int :=
      if senc = 1 then 127 + e + (if isOne then 0 else 1)
      else 127 + 2 * e + (if isOne then 0 else if leSqrt2 then 1 else 2)
    min s.toNat 254

/-- The heritage scale of R119: s = 127 + floor(log2 amax) − emax. -/
def chooseScaleHeritage (f : FFmt) (a : Nat) (x : Int) : Nat :=
  if a = 0 then 0
  else min ((127 : Int) + lgDy a x / 2 - (if f.kind = .e4m3 then 8 else 15)).toNat 254

/-- What one converted element reports (R101). -/
structure ConvNote where
  saturated : Bool
  overflow  : Bool
  flushed   : Bool
  infIn     : Bool
  nanIn     : Bool
  deriving DecidableEq, Repr

def ConvNote.none : ConvNote := ⟨false, false, false, false, false⟩

/-- A source value written in a wide format FP32, BF16 or FP16 (R87, R92), with heritage rules where asked: a result below
2^−126 becomes zero, as FP32's and BF16's subnormals are (R119). That BF16's are flushed too, and those of FP16 and the
narrow formats kept, is a DESIGN CHOICE: the row of R119 is headed FP32 subnormal results (log entry 174). -/
def convWide (f : FFmt) (mode : RMode) (heritage : Bool) (v : SVal) : Nat × ConvNote :=
  match v with
  | .nan => (if heritage then f.signW + f.nanCode else f.nanCode, { ConvNote.none with nanIn := true })
  | .inf s => (f.withSign s f.infCode, { ConvNote.none with infIn := true })
  | .fin s q e =>
    if q = 0 then (f.withSign s 0, .none)
    else
      let o := sqrtOf q e
      let lg := lgDy q e / 2
      let rne := f.roundMag .nearest lg o
      let (fm, fe) := f.fmax
      let above := !dyLe q e (fm * fm) (2 * fe)
      match mode with
      | .stochastic _ =>
        if above then
          (f.withSign s (if f.infCode ≤ rne then f.infCode else f.maxCode), { ConvNote.none with overflow := true })
        else
          let c := f.roundMag mode lg o
          (f.withSign s c, { ConvNote.none with flushed := c == 0 })
      | _ =>
        let c := min rne f.infCode
        let tiny := (f.width == 32 && decide (c < 2 ^ 23)) || (f.width == 16 && f.bias == 127 && decide (c < 2 ^ 7))
        let c := if heritage && tiny then 0 else c
        (f.withSign s c, { ConvNote.none with overflow := f.infCode ≤ rne && f.width != 32, flushed := c == 0 })

/-- ±m · 2^x plus ±the root of r · 2^g, which is irrational, rounded once to FP32. -/
def addRoot (s : Bool) (m : Nat) (x : Int) (t : Bool) (r : Nat) (g : Int) : Nat :=
  let rootMore := dyLe (m * m) (2 * x) r g
  let o : Oracle := fun q =>
    let p := min q x
    let a := m <<< (x - p).toNat
    let (n, exact) := sqrtOf r g p
    let k := if s = t then a + n else if rootMore then n - a else if exact then a - n else a - n - 1
    (k >>> (q - p).toNat, exact && k % 2 ^ (q - p).toNat == 0)
  let low := max (lgDy m x) (lgDy r g / 2) - 200
  let lg := low + (o low).1.log2
  fp32.withSign (if s = t || rootMore then t else s) (min (fp32.roundMag .nearest lg o) fp32.infCode)

/-- The sum of two source values, each ±m · 2^(e/2) by its square m² · 2^e, rounded once to FP32. -/
def SVal.sum32 (a b : SVal) : Nat :=
  match a, b with
  | .nan, _ => fp32.nanCode
  | _, .nan => fp32.nanCode
  | .inf s, .inf t => if s = t then fp32.withSign s fp32.infCode else fp32.nanCode
  | .inf s, _ => fp32.withSign s fp32.infCode
  | _, .inf t => fp32.withSign t fp32.infCode
  | .fin s q e, .fin t r g =>
    if q = 0 && r = 0 then fp32.withSign (s && t) 0
    else if q = 0 then (convWide fp32 .nearest false b).1
    else if r = 0 then (convWide fp32 .nearest false a).1
    else if (e - g) % 2 = 0 then
      let h := e % 2
      (convWide fp32 .nearest false ((Val.add (.fin s (isqrt q) ((e - h) / 2)) (.fin t (isqrt r) ((g - h) / 2))).scaled h)).1
    else if e % 2 = 0 then addRoot s (isqrt q) (e / 2) t r g
    else addRoot t (isqrt r) (g / 2) s q e

/-- A source value written in a narrow format under half-step exponent `h` of its scale and per-tensor scale 2^lt
(R85, R86, R92). -/
def convNarrow (f : FFmt) (mode : RMode) (h lt : Int) (v : SVal) : Nat × ConvNote :=
  match v with
  | .nan => (f.nanCode, { ConvNote.none with nanIn := true })
  | .inf s => (if f.kind = .ieee then f.withSign s f.infCode else f.nanCode, { ConvNote.none with infIn := true })
  | .fin s q e =>
    if q = 0 then (f.withSign s 0, .none)
    else
      let e' := e - h - 2 * lt
      let (fm, fe) := f.fmax
      let c := min (f.roundMag mode (lgDy q e' / 2) (sqrtOf q e')) f.maxCode
      (f.withSign s c, { ConvNote.none with saturated := !dyLe q e' (fm * fm) (2 * fe), flushed := c == 0 })

end Sys2Proof.Machine
end

