-- ==== Sys2Proof/Machine/Crypto.lean ====
section
/-!
DEFINITION. The checks and ciphers the spec names by their standards: AES-128 (FIPS 197, R91), SHA-256 (FIPS 180-4),
the CRC-32C of frames, records and packets, and the bytes of a configuration copy that are hashed and signed.
-/
namespace Sys2Proof.Machine

/-- The substitution box of FIPS 197, entry x in byte x of one number. -/
def aesSboxTable : Nat :=
  0x16BB54B00F2D99416842E6BF0D89A18CDF2855CEE9871E9B948ED9691198F8E19E1DC186B95735610EF6034866B53E708A8BBD4B1F74DDE8C6B4A61C2E2578BA08AE7A65EAF4566CA94ED58D6D37C8E779E4959162ACD3C25C2406490A3A32E0DB0B5EDE14B8EE4688902A22DC4F816073195D643D7EA7C41744975FEC130CCDD2F3FF1021DAB6BCF5389D928F40A351A89F3C507F02F94585334D43FBAAEFD0CF584C4A39BECB6A5BB1FC20ED00D153842FE329B3D63B52A05A6E1B1A2C830975B227EBE28012079A059618C323C7041531D871F1E5A534CCF73F362693FDB7C072A49CAFA2D4ADF04759FA7DC982CA76ABD7FE2B670130C56F6BF27B777C63

/-- SubBytes of one byte. -/
def aesSbox (x : Nat) : Nat := bits aesSboxTable (8 * x + 7) (8 * x)

/-- Multiplication by x in the field of FIPS 197. -/
def aesXtime (a : Nat) : Nat := if a < 128 then 2 * a else (2 * a % 256) ^^^ 0x1B

/-- RotWord, SubWord and Rcon of the key schedule, on a word whose byte 0 is its lowest. -/
def aesKeyWord (t rcon : Nat) : Nat :=
  aesSbox (bits t 15 8) ^^^ rcon ||| aesSbox (bits t 23 16) * 2 ^ 8 ||| aesSbox (bits t 31 24) * 2 ^ 16 |||
    aesSbox (bits t 7 0) * 2 ^ 24

/-- The next round key from one round key. -/
def aesNextKey (k rcon : Nat) : Nat :=
  let w0 := bits k 31 0 ^^^ aesKeyWord (bits k 127 96) rcon
  let w1 := bits k 63 32 ^^^ w0
  let w2 := bits k 95 64 ^^^ w1
  let w3 := bits k 127 96 ^^^ w2
  w0 + w1 * 2 ^ 32 + w2 * 2 ^ 64 + w3 * 2 ^ 96

/-- Byte i of a state. -/
def aesByte (x i : Nat) : Nat := bits x (8 * i + 7) (8 * i)

/-- A state from its sixteen bytes. -/
def aesOfBytes (f : Nat → Nat) : Nat := (List.range 16).foldl (fun acc i => acc + f i * 2 ^ (8 * i)) 0

/-- SubBytes and ShiftRows: byte r + 4c comes from column c + r. -/
def aesSubShift (x : Nat) : Nat := aesOfBytes fun i => aesSbox (aesByte x ((i + 4 * (i % 4)) % 16))

/-- MixColumns. -/
def aesMix (x : Nat) : Nat := aesOfBytes fun i =>
  let c := 4 * (i / 4)
  let a := aesByte x i
  let b := aesByte x (c + (i + 1) % 4)
  aesXtime a ^^^ aesXtime b ^^^ b ^^^ aesByte x (c + (i + 2) % 4) ^^^ aesByte x (c + (i + 3) % 4)

/-- Rounds 1 to 9 with their keys, and the key of round 10. -/
def aesRounds : List Nat → Nat → Nat → Nat × Nat
  | [], k, x => (k, x)
  | rc :: rcs, k, x =>
    let k' := aesNextKey k rc
    aesRounds rcs k' (aesMix (aesSubShift x) ^^^ k')

/-- AES-128 encryption, key, input and output as little-endian 128-bit integers (R91). -/
def aes128 (key x : Nat) : Nat :=
  let (k, y) := aesRounds [1, 2, 4, 8, 16, 32, 64, 128, 0x1B] key (x ^^^ key)
  aesSubShift y ^^^ aesNextKey k 0x36

/-- The round constants of FIPS 180-4, constant i in word i of one number. -/
def shaKTable : Nat :=
  0xC67178F2BEF9A3F7A4506CEB90BEFFFA8CC7020884C8781478A5636F748F82EE682E6FF35B9CCA4F4ED8AA4A391C0CB334B0BCB52748774C1E376C0819A4C116106AA070F40E3585D6990624D192E819C76C51A3C24B8B70A81A664BA2BFE8A192722C8581C2C92E766A0ABB650A735453380D134D2C6DFC2E1B213827B70A851429296706CA6351D5A79147C6E00BF3BF597FC7B00327C8A831C66D983E515276F988DA5CB0A9DC4A7484AA2DE92C6F240CA1CC0FC19DC6EFBE4786E49B69C1C19BF1749BDC06A780DEB1FE72BE5D74550C7DC3243185BE12835B01D807AA98AB1C5ED5923F82A459F111F13956C25BE9B5DBA5B5C0FBCF71374491428A2F98

/-- The starting hash value of SHA-256, word i in word i of one number. -/
def shaInit : List Nat := (List.range 8).map fun i => bits
  0x5BE0CD191F83D9AB9B05688C510E527FA54FF53A3C6EF372BB67AE856A09E667
  (32 * i + 31) (32 * i)

/-- Rotation of a 32-bit word to the right. -/
def ror32 (x n : Nat) : Nat := (x >>> n) ||| (x <<< (32 - n)) % 2 ^ 32

/-- The message schedule, newest word first. -/
def shaExpand : Nat → List Nat → List Nat
  | 0, w => w
  | n + 1, w =>
    let w2 := w.getD 1 0
    let w15 := w.getD 14 0
    let s1 := ror32 w2 17 ^^^ ror32 w2 19 ^^^ (w2 >>> 10)
    let s0 := ror32 w15 7 ^^^ ror32 w15 18 ^^^ (w15 >>> 3)
    shaExpand n (((s1 + w.getD 6 0 + s0 + w.getD 15 0) % 2 ^ 32) :: w)

/-- One round of the compression on the working words a to h. -/
def shaRound (h : List Nat) (k w : Nat) : List Nat :=
  match h with
  | [a, b, c, d, e, f, g, hh] =>
    let t1 := hh + (ror32 e 6 ^^^ ror32 e 11 ^^^ ror32 e 25) + ((e &&& f) ^^^ ((2 ^ 32 - 1 - e) &&& g)) + k + w
    let t2 := (ror32 a 2 ^^^ ror32 a 13 ^^^ ror32 a 22) + ((a &&& b) ^^^ (a &&& c) ^^^ (b &&& c))
    [(t1 + t2) % 2 ^ 32, a, b, c, (d + t1) % 2 ^ 32, e, f, g]
  | other => other

/-- The compression of one block given as sixteen big-endian words. -/
def shaBlock (h ws : List Nat) : List Nat :=
  let w := (shaExpand 48 ws.reverse).reverse
  let h' := ((List.range 64).zip w).foldl (fun st (i, x) => shaRound st (bits shaKTable (32 * i + 31) (32 * i)) x) h
  List.zipWith (fun a b => (a + b) % 2 ^ 32) h h'

/-- The value of big-endian bytes. -/
def ofBytesBE (bs : List Byte) : Nat := bs.foldl (fun acc b => acc * 256 + b.toNat) 0

/-- `n` big-endian bytes of a number. -/
def toBytesBE (n x : Nat) : List Byte := (toBytes n x).reverse

/-- The words of a block from its bytes. -/
def shaWords : Nat → List Byte → List Nat
  | 0, _ => []
  | n + 1, bs => ofBytesBE (bs.take 4) :: shaWords n (bs.drop 4)

/-- The compression over the first `n` blocks of a padded message. -/
def shaBlocks : Nat → List Byte → List Nat → List Nat
  | 0, _, h => h
  | n + 1, bs, h => shaBlocks n (bs.drop 64) (shaBlock h (shaWords 16 bs))

/-- SHA-256 of a byte string, as its 32 bytes in order (FIPS 180-4). -/
def sha256 (m : List Byte) : List Byte :=
  let padLen := (119 - m.length % 64) % 64
  let p := m ++ (0x80 : Byte) :: List.replicate padLen 0 ++ toBytesBE 8 (8 * m.length)
  (shaBlocks (p.length / 64) p shaInit).flatMap (toBytesBE 4)

/-- SHA-256 as a little-endian number of its bytes. -/
def sha256N (m : List Byte) : Nat := ofBytes (sha256 m)

/-- CRC-32C of one byte (reflected, polynomial 0x82F63B78). -/
def crcByte (c : Nat) (b : Byte) : Nat :=
  (List.range 8).foldl (fun x _ => if x % 2 = 1 then (x / 2) ^^^ 0x82F63B78 else x / 2) (c ^^^ b.toNat)

/-- CRC-32C of a byte string. -/
def crc32c (m : List Byte) : Nat := (m.foldl crcByte 0xFFFFFFFF) ^^^ 0xFFFFFFFF

/-! The bytes of a configuration copy (R390). -/

/-- The bytes of configuration entries. -/
def entryBytes (es : List (Word × Word)) : List Byte := es.flatMap fun (e : Word × Word) => toBytes 4 e.1.toNat ++ toBytes 4 e.2.toNat

/-- DIGEST of configuration entries. -/
def entryDigest (es : List (Word × Word)) : BitVec 256 := BitVec.ofNat 256 (sha256N (entryBytes es))

/-- The 64-byte header of SEQ, ENTRIES and DIGEST. -/
def headerBytes (seq : DWord) (n : Nat) (digest : BitVec 256) : List Byte :=
  toBytes 8 seq.toNat ++ toBytes 2 n ++ [1] ++ toBytes 5 0 ++ toBytes 32 digest.toNat ++ toBytes 16 0

/-- What the signature of a copy is made over: the header and the entries. -/
def signedBytes (seq : DWord) (es : List (Word × Word)) (digest : BitVec 256) : List Byte :=
  headerBytes seq es.length digest ++ entryBytes es

end Sys2Proof.Machine
end

