-- ==== Sys2Proof/Config.lean ====
section
/-!
DEFINITION. What the spec leaves open, as constants without a body (log entries 2, 8 and 9): free values drawn with a
counter of State, Lendephor's random source, and the keys and signatures of FIPS 205. No proof can see what they are.
-/
namespace Sys2Proof.Config

/-- A free choice, drawn with the counter: the model takes it modulo the number of choices the spec allows. -/
opaque choice : Nat → Nat

/-- A free word, drawn with the counter. -/
opaque freeWord : Nat → Word

/-- A free byte, drawn with the counter. -/
opaque freeByte : Nat → Byte

/-- The memory channel that a frame of a tier and die lies behind (R454). -/
opaque channelOf : Nat → Nat → Nat → Nat

/-- Lendephor's random source (R471): 256 bits, drawn with the counter. -/
opaque random : Nat → BitVec 256

/-- The next state of a port's maximal-length LFSR, whose taps the spec does not give (R360). -/
opaque lfsrNext : Word → Word

/-- The 16-bit value that a draw gives for action i: 0 DROP, 1 CORRUPT, 2 REORDER (R359). -/
opaque fiDraw : Word → Nat → BitVec 16

/-- The payload bit that a draw of CORRUPT chooses, taken modulo the payload's bits (R359). -/
opaque fiBit : Word → Nat

/-- The Maeldoix manufacturer code shown by GETPID (R365). -/
opaque mipiCode : BitVec 15

/-- The Maeldoix JEDEC manufacturer code of IDCODE (R482). -/
opaque jedecCode : BitVec 11

/-- The public key that SLH-DSA-SHA2-128s derives from SK.seed, SK.prf and PK.seed (R469). -/
opaque slhPublic : List Byte → BitVec 256

/-- The public key that SLH-DSA-SHA2-128f derives from SK.seed, SK.prf and PK.seed (R469). -/
opaque slhPublicFast : List Byte → BitVec 256

/-- An SLH-DSA-SHA2-128s signature, 7,856 bytes, of a message under a key pair's seeds. -/
opaque slhSign : List Byte → List Byte → List Byte

/-- Whether a signature of a message verifies under a public key. -/
opaque slhVerify : BitVec 256 → List Byte → List Byte → Bool

/-- SEED, fused in manufacture (R468). -/
opaque seed : BitVec 256

/-- The VERSION that the header of a staged firmware image holds; the spec does not place the header (R394, R395). -/
opaque fwVersionOf : List Byte → Word

/-- FW_PK, the public key that signs firmware (R468). -/
opaque fwKey : BitVec 256

/-- Whether LENGTH, the digest and the signature of a firmware image verify under a key (R394, R395). -/
opaque fwVerifies : BitVec 256 → List Byte → Bool

/-- The SEQ that the header of a firmware image holds (R394). -/
opaque fwSeqOf : List Byte → DWord

/-- The firmware slot and image byte that a debug write of a control-space address reaches while no slot is valid: R474
names no address. -/
opaque imagePort : Nat → Option (Fin 2 × Nat)

/-- Whether a flash block of the journal fails its erase, by its place and how many blocks were begun before (R457). -/
opaque eraseFails : Nat → Nat → Bool

/-- Whether a flash block of the journal fails the verification of a program, by its place, how many blocks were begun and
how many records it holds (R457). -/
opaque programFails : Nat → Nat → Nat → Bool

/-- An SLH-DSA-SHA2-128f signature, 17,088 bytes, of a message under a key pair's seeds. -/
opaque slhSignFast : List Byte → List Byte → List Byte

/-- The public key of Maeldoix's debug authority (R468, R485). -/
opaque debugKey : BitVec 256

/-- The issuer's public key of the identity certificate, that of Maeldoix's device authority (R470). -/
opaque deviceAuthority : BitVec 256

/-- The signature bytes of the identity certificate (R470). -/
opaque certIdSig : Nat → Byte

/-- What the boot ROM and the fused patch words hash to (R472). -/
opaque romDigest : BitVec 256

/-- The silicon stepping of IDCODE (R482). -/
opaque stepping : BitVec 4

/-- The levels that the tray gives the pins of the boundary register (R483), drawn with the counter. -/
opaque pinSample : Nat → BitVec 16

/-- The bits that the tester scans into the boundary register under EXTEST, none where it scans none (R482), drawn with
the counter. -/
opaque scanIn : Nat → Option (BitVec 16)

/-- The DEVICE_ID fused in manufacture (R468). -/
opaque deviceId : BitVec 128

end Sys2Proof.Config
end

