-- ==== Sys2Proof/Machine/Regs.lean ====
section
/-!
DEFINITION. The control-space register tables of the spec (R12 to R20): one `Field` for each row with a field, named
REGISTER_FIELD, its bank's addresses, its bits, its access code and its Reset value. A register wider than 32 bits
occupies consecutive words (R13), and a field's bits count from its first word.
-/
namespace Sys2Proof.Machine

/-- The access codes of R15. -/
inductive Acc where
  | ro | ow | ow1c | hw
  deriving DecidableEq, Repr

/-- One field of a register bank: the register of index i starts at base + stride · i. -/
structure Field where
  base   : Nat
  stride : Nat
  count  : Nat
  lo     : Nat
  len    : Nat
  acc    : Acc
  reset  : Nat
  deriving DecidableEq, Repr

namespace Reg

/-! HRT_ registers. -/

-- HRT_CLK_STATUS (section 01, R32)
def HRT_CLK_STATUS_RUNNING : Field := ⟨0x000040, 0x4, 1, 0, 25, .hw, 3⟩
def HRT_CLK_STATUS_REF_FALLBACK : Field := ⟨0x000040, 0x4, 1, 30, 1, .hw, 0⟩
-- HRT_I3C (section 13, R368)
def HRT_I3C_DA : Field := ⟨0x000080, 0x4, 1, 0, 7, .hw, 0⟩
def HRT_I3C_DA_VALID : Field := ⟨0x000080, 0x4, 1, 7, 1, .hw, 0⟩
def HRT_I3C_SA : Field := ⟨0x000080, 0x4, 1, 8, 7, .hw, 0⟩
def HRT_I3C_SA_VALID : Field := ⟨0x000080, 0x4, 1, 15, 1, .hw, 0⟩
def HRT_I3C_IBI_EN : Field := ⟨0x000080, 0x4, 1, 16, 1, .hw, 0⟩
-- HRT_OWNER (section 13, R385)
def HRT_OWNER_STATE : Field := ⟨0x000100, 0x4, 1, 0, 2, .hw, 0⟩
def HRT_OWNER_PRIORITY : Field := ⟨0x000100, 0x4, 1, 2, 4, .hw, 0⟩
def HRT_OWNER_VIA_I3C : Field := ⟨0x000100, 0x4, 1, 6, 1, .hw, 0⟩
def HRT_OWNER_MBOX : Field := ⟨0x000100, 0x4, 1, 8, 4, .hw, 0⟩
def HRT_OWNER_CHANGES : Field := ⟨0x000100, 0x4, 1, 12, 20, .hw, 0⟩
-- HRT_OWNER_ID (section 13, R385)
def HRT_OWNER_ID_AGENT_ID : Field := ⟨0x000104, 0x8, 1, 0, 64, .hw, 0⟩
-- HRT_LEASE (section 13, R385)
def HRT_LEASE_LEASE_S : Field := ⟨0x00010C, 0x4, 1, 0, 12, .ow, 10⟩
-- HRT_CFG_SEQ (section 13, R392)
def HRT_CFG_SEQ_SEQ : Field := ⟨0x000118, 0x8, 1, 0, 64, .hw, 0⟩
-- HRT_FW (section 13, R396)
def HRT_FW_RUNNING : Field := ⟨0x000110, 0x4, 1, 0, 1, .hw, 0⟩
def HRT_FW_ACTIVATING : Field := ⟨0x000110, 0x4, 1, 1, 1, .hw, 0⟩
def HRT_FW_COMMITTED : Field := ⟨0x000110, 0x4, 1, 2, 1, .hw, 0⟩
def HRT_FW_ACTIVATIONS : Field := ⟨0x000110, 0x4, 1, 16, 16, .hw, 0⟩
-- HRT_FW_VER (section 13, R396)
def HRT_FW_VER_VERSION : Field := ⟨0x000114, 0x4, 1, 0, 32, .hw, 0⟩
-- HRT_PAD_HOLD (section 14, R426)
def HRT_PAD_HOLD_GROUPS : Field := ⟨0x000140, 0x4, 1, 0, 7, .hw, 0⟩
-- HRT_PAD_RELEASE (section 14, R426)
def HRT_PAD_RELEASE_GROUPS : Field := ⟨0x000144, 0x4, 1, 0, 7, .ow, 0⟩
-- HRT_WAKE_SRC (section 14, R426)
def HRT_WAKE_SRC_LAST : Field := ⟨0x000148, 0x4, 1, 0, 3, .hw, 0⟩
-- HRT_WAKE_CNT (section 14, R426)
def HRT_WAKE_CNT_COUNT : Field := ⟨0x00014C, 0x4, 1, 0, 32, .hw, 0⟩
-- HRT_WAKE_DELAY (section 14, R426)
def HRT_WAKE_DELAY_DELAY : Field := ⟨0x000150, 0x4, 1, 0, 24, .ow, 0⟩
def HRT_WAKE_DELAY_ARM : Field := ⟨0x000150, 0x4, 1, 24, 1, .ow, 0⟩
-- HRT_CD_HOLD (section 16, R462)
def HRT_CD_HOLD_CD0 : Field := ⟨0x000180, 0x4, 1, 0, 2, .hw, 1⟩
def HRT_CD_HOLD_CD1 : Field := ⟨0x000180, 0x4, 1, 2, 2, .hw, 0⟩
def HRT_CD_HOLD_CD2 : Field := ⟨0x000180, 0x4, 1, 4, 2, .hw, 0⟩
def HRT_CD_HOLD_CD3 : Field := ⟨0x000180, 0x4, 1, 6, 2, .hw, 0⟩
-- HRT_AUX (section 16, R462)
def HRT_AUX_FUNC0 : Field := ⟨0x000184, 0x4, 1, 0, 3, .ow, 0⟩
def HRT_AUX_FUNC1 : Field := ⟨0x000184, 0x4, 1, 4, 3, .ow, 0⟩
def HRT_AUX_TRIPPED : Field := ⟨0x000184, 0x4, 1, 8, 1, .hw, 0⟩
-- HRT_BOOT (section 20, R522)
def HRT_BOOT_STAGE : Field := ⟨0x000020, 0x4, 1, 0, 3, .hw, 0⟩
def HRT_BOOT_FLOW_WAIT : Field := ⟨0x000020, 0x4, 1, 3, 1, .hw, 0⟩
def HRT_BOOT_CFG_NONE : Field := ⟨0x000020, 0x4, 1, 4, 1, .hw, 0⟩
def HRT_BOOT_PHY_DEGRADED : Field := ⟨0x000020, 0x4, 1, 5, 1, .hw, 0⟩
def HRT_BOOT_LINKS : Field := ⟨0x000020, 0x4, 1, 8, 8, .hw, 0⟩

/-- The HRT_ rows of the register tables. -/
def hrtFields : List Field :=
  [HRT_CLK_STATUS_RUNNING, HRT_CLK_STATUS_REF_FALLBACK, HRT_I3C_DA,
   HRT_I3C_DA_VALID, HRT_I3C_SA, HRT_I3C_SA_VALID,
   HRT_I3C_IBI_EN, HRT_OWNER_STATE, HRT_OWNER_PRIORITY,
   HRT_OWNER_VIA_I3C, HRT_OWNER_MBOX, HRT_OWNER_CHANGES,
   HRT_OWNER_ID_AGENT_ID, HRT_LEASE_LEASE_S, HRT_CFG_SEQ_SEQ,
   HRT_FW_RUNNING, HRT_FW_ACTIVATING, HRT_FW_COMMITTED,
   HRT_FW_ACTIVATIONS, HRT_FW_VER_VERSION, HRT_PAD_HOLD_GROUPS,
   HRT_PAD_RELEASE_GROUPS, HRT_WAKE_SRC_LAST, HRT_WAKE_CNT_COUNT,
   HRT_WAKE_DELAY_DELAY, HRT_WAKE_DELAY_ARM, HRT_CD_HOLD_CD0,
   HRT_CD_HOLD_CD1, HRT_CD_HOLD_CD2, HRT_CD_HOLD_CD3] ++
  [HRT_AUX_FUNC0, HRT_AUX_FUNC1, HRT_AUX_TRIPPED,
   HRT_BOOT_STAGE, HRT_BOOT_FLOW_WAIT, HRT_BOOT_CFG_NONE,
   HRT_BOOT_PHY_DEGRADED, HRT_BOOT_LINKS]

/-! STR_ registers. -/

-- STR_SLOT_STATE (section 01, R36)
def STR_SLOT_STATE_STATE : Field := ⟨0x020000, 0x4, 8, 0, 3, .hw, 0⟩
def STR_SLOT_STATE_HALTED : Field := ⟨0x020000, 0x4, 8, 4, 6, .hw, 0⟩
-- STR_RING_BASE_LO (section 05, R128)
def STR_RING_BASE_LO_BASE_LO : Field := ⟨0x021000, 0x40, 48, 12, 20, .ow, 0⟩
-- STR_RING_BASE_HI (section 05, R128)
def STR_RING_BASE_HI_BASE_HI : Field := ⟨0x021004, 0x40, 48, 0, 9, .ow, 0⟩
-- STR_RING_CFG (section 05, R128)
def STR_RING_CFG_LOG2N : Field := ⟨0x021008, 0x40, 48, 0, 5, .ow, 0⟩
-- STR_RING_TAIL (section 05, R128)
def STR_RING_TAIL_COUNT : Field := ⟨0x02100C, 0x40, 48, 0, 32, .hw, 0⟩
-- STR_RING_HEAD (section 05, R128)
def STR_RING_HEAD_COUNT : Field := ⟨0x021010, 0x40, 48, 0, 32, .hw, 0⟩
-- STR_RING_DONE (section 05, R128)
def STR_RING_DONE_COUNT : Field := ⟨0x021014, 0x40, 48, 0, 32, .hw, 0⟩
-- STR_RING_STAT (section 05, R128)
def STR_RING_STAT_HALTED : Field := ⟨0x021018, 0x40, 48, 0, 1, .hw, 0⟩
def STR_RING_STAT_HALT_CODE : Field := ⟨0x021018, 0x40, 48, 1, 3, .hw, 0⟩
def STR_RING_STAT_INFLIGHT : Field := ⟨0x021018, 0x40, 48, 8, 7, .hw, 0⟩
def STR_RING_STAT_BADDB : Field := ⟨0x021018, 0x40, 48, 16, 16, .hw, 0⟩
-- STR_RING_HALTSEQ (section 05, R128)
def STR_RING_HALTSEQ_SEQ : Field := ⟨0x02101C, 0x40, 48, 0, 32, .hw, 0⟩
-- STR_BND (section 05, R128)
def STR_BND_VALUE : Field := ⟨0x024000, 0x4, 3072, 0, 32, .ow, 0⟩
-- STR_ITAB_ADDR_LO (section 05, R158)
def STR_ITAB_ADDR_LO_ADDR_LO : Field := ⟨0x020100, 0x40, 2, 6, 26, .ow, 0⟩
-- STR_ITAB_ADDR_HI (section 05, R158)
def STR_ITAB_ADDR_HI_ADDR_HI : Field := ⟨0x020104, 0x40, 2, 0, 9, .ow, 0⟩
-- STR_ITAB_CTRL (section 05, R158)
def STR_ITAB_CTRL_LEN : Field := ⟨0x020108, 0x40, 2, 0, 13, .ow, 24⟩
def STR_ITAB_CTRL_LEND : Field := ⟨0x020108, 0x40, 2, 13, 1, .ow, 1⟩
def STR_ITAB_CTRL_LOAD : Field := ⟨0x020108, 0x40, 2, 14, 1, .ow, 0⟩
-- STR_ITAB_STATUS (section 05, R158)
def STR_ITAB_STATUS_ACTIVE_LEN : Field := ⟨0x02010C, 0x40, 2, 0, 13, .hw, 24⟩
def STR_ITAB_STATUS_ACTIVE_LEND : Field := ⟨0x02010C, 0x40, 2, 13, 1, .hw, 1⟩
def STR_ITAB_STATUS_PENDING : Field := ⟨0x02010C, 0x40, 2, 14, 1, .hw, 0⟩
def STR_ITAB_STATUS_LOAD_ERR : Field := ⟨0x02010C, 0x40, 2, 15, 1, .ow1c, 0⟩
def STR_ITAB_STATUS_LOADS : Field := ⟨0x02010C, 0x40, 2, 16, 16, .hw, 0⟩
-- STR_ITAB_POS (section 05, R158)
def STR_ITAB_POS_POS_LO : Field := ⟨0x020110, 0x40, 2, 0, 12, .hw, 0⟩
def STR_ITAB_POS_POS_HI : Field := ⟨0x020110, 0x40, 2, 16, 12, .hw, 0⟩
-- STR_TRK_STATUS (section 05, R158)
def STR_TRK_STATUS_IN_USE : Field := ⟨0x020114, 0x40, 2, 0, 7, .hw, 0⟩
def STR_TRK_STATUS_PEAK : Field := ⟨0x020114, 0x40, 2, 8, 7, .hw, 0⟩
-- STR_TRK_FULL_CYC (section 05, R158)
def STR_TRK_FULL_CYC_COUNT : Field := ⟨0x020118, 0x40, 2, 0, 64, .hw, 0⟩
-- STR_CURSOR_LO (section 15, R428)
def STR_CURSOR_LO_BASE_LO : Field := ⟨0x028200, 0x8, 8, 12, 20, .ow, 0⟩
-- STR_CURSOR_HI (section 15, R428)
def STR_CURSOR_HI_BASE_HI : Field := ⟨0x028204, 0x8, 8, 0, 9, .ow, 0⟩
-- STR_COND_ROUTED (section 07, R207)
def STR_COND_ROUTED_COUNT : Field := ⟨0x028000, 0x40, 8, 0, 64, .hw, 0⟩
-- STR_COND_SPILLED (section 07, R207)
def STR_COND_SPILLED_COUNT : Field := ⟨0x028008, 0x40, 8, 0, 64, .hw, 0⟩
-- STR_COND_DROPPED (section 07, R207)
def STR_COND_DROPPED_COUNT : Field := ⟨0x028010, 0x40, 8, 0, 64, .hw, 0⟩
-- STR_COND_SKIPPED (section 07, R207)
def STR_COND_SKIPPED_COUNT : Field := ⟨0x028018, 0x40, 8, 0, 64, .hw, 0⟩
-- STR_COND_BADIDX (section 07, R207)
def STR_COND_BADIDX_COUNT : Field := ⟨0x028020, 0x40, 8, 0, 64, .hw, 0⟩

/-- The STR_ rows of the register tables. -/
def strFields : List Field :=
  [STR_SLOT_STATE_STATE, STR_SLOT_STATE_HALTED, STR_RING_BASE_LO_BASE_LO,
   STR_RING_BASE_HI_BASE_HI, STR_RING_CFG_LOG2N, STR_RING_TAIL_COUNT,
   STR_RING_HEAD_COUNT, STR_RING_DONE_COUNT, STR_RING_STAT_HALTED,
   STR_RING_STAT_HALT_CODE, STR_RING_STAT_INFLIGHT, STR_RING_STAT_BADDB,
   STR_RING_HALTSEQ_SEQ, STR_BND_VALUE, STR_ITAB_ADDR_LO_ADDR_LO,
   STR_ITAB_ADDR_HI_ADDR_HI, STR_ITAB_CTRL_LEN, STR_ITAB_CTRL_LEND,
   STR_ITAB_CTRL_LOAD, STR_ITAB_STATUS_ACTIVE_LEN, STR_ITAB_STATUS_ACTIVE_LEND,
   STR_ITAB_STATUS_PENDING, STR_ITAB_STATUS_LOAD_ERR, STR_ITAB_STATUS_LOADS,
   STR_ITAB_POS_POS_LO, STR_ITAB_POS_POS_HI, STR_TRK_STATUS_IN_USE,
   STR_TRK_STATUS_PEAK, STR_TRK_FULL_CYC_COUNT, STR_CURSOR_LO_BASE_LO] ++
  [STR_CURSOR_HI_BASE_HI, STR_COND_ROUTED_COUNT, STR_COND_SPILLED_COUNT,
   STR_COND_DROPPED_COUNT, STR_COND_SKIPPED_COUNT, STR_COND_BADIDX_COUNT]

/-! ANV_ registers. -/

-- ANV_STATUS (section 02, R69)
def ANV_STATUS_STATE : Field := ⟨0x050000, 0x1000, 4, 0, 2, .hw, 0⟩
def ANV_STATUS_DRY : Field := ⟨0x050000, 0x1000, 4, 2, 1, .hw, 0⟩
def ANV_STATUS_DRAIN_WAIT : Field := ⟨0x050000, 0x1000, 4, 3, 1, .hw, 0⟩
def ANV_STATUS_LIVE_STRIPES : Field := ⟨0x050000, 0x1000, 4, 8, 4, .hw, 8⟩
def ANV_STATUS_SLOT : Field := ⟨0x050000, 0x1000, 4, 12, 3, .hw, 0⟩
def ANV_STATUS_STREAM : Field := ⟨0x050000, 0x1000, 4, 15, 2, .hw, 3⟩
def ANV_STATUS_DIE_OF_STREAM : Field := ⟨0x050000, 0x1000, 4, 17, 1, .hw, 0⟩
-- ANV_FENCE (section 02, R69)
def ANV_FENCE_STRIPE : Field := ⟨0x050004, 0x1000, 4, 0, 8, .hw, 0⟩
def ANV_FENCE_WITHDRAWN : Field := ⟨0x050004, 0x1000, 4, 8, 1, .hw, 0⟩
def ANV_FENCE_PERSISTED : Field := ⟨0x050004, 0x1000, 4, 16, 8, .hw, 0⟩
def ANV_FENCE_WD_PERSISTED : Field := ⟨0x050004, 0x1000, 4, 24, 1, .hw, 0⟩
-- ANV_FAULT_LOC (section 02, R69)
def ANV_FAULT_LOC_ROW : Field := ⟨0x050008, 0x1000, 4, 0, 9, .hw, 0⟩
def ANV_FAULT_LOC_COL : Field := ⟨0x050008, 0x1000, 4, 9, 9, .hw, 0⟩
def ANV_FAULT_LOC_STRIPE : Field := ⟨0x050008, 0x1000, 4, 18, 3, .hw, 0⟩
def ANV_FAULT_LOC_VALID : Field := ⟨0x050008, 0x1000, 4, 21, 1, .ow1c, 0⟩
def ANV_FAULT_LOC_UNLOCATED : Field := ⟨0x050008, 0x1000, 4, 22, 1, .ow1c, 0⟩
def ANV_FAULT_LOC_NARROW : Field := ⟨0x050008, 0x1000, 4, 23, 1, .hw, 0⟩
def ANV_FAULT_LOC_COUNT : Field := ⟨0x050008, 0x1000, 4, 24, 8, .hw, 0⟩
-- ANV_FAULT_EXT (section 02, R532)
def ANV_FAULT_EXT_NOROW : Field := ⟨0x05000C, 0x1000, 4, 0, 1, .hw, 0⟩
def ANV_FAULT_EXT_COUNT : Field := ⟨0x05000C, 0x1000, 4, 8, 8, .hw, 0⟩
-- ANV_BUSY_CYC (section 02, R532)
def ANV_BUSY_CYC_COUNT : Field := ⟨0x050010, 0x1000, 4, 0, 64, .hw, 0⟩
-- ANV_DRY_A_CYC (section 02, R532)
def ANV_DRY_A_CYC_COUNT : Field := ⟨0x050018, 0x1000, 4, 0, 64, .hw, 0⟩
-- ANV_DRY_B_CYC (section 02, R532)
def ANV_DRY_B_CYC_COUNT : Field := ⟨0x050020, 0x1000, 4, 0, 64, .hw, 0⟩
-- ANV_DRY_EVENTS (section 02, R532)
def ANV_DRY_EVENTS_COUNT : Field := ⟨0x050028, 0x1000, 4, 0, 64, .hw, 0⟩
-- ANV_DRAIN_WAIT_CYC (section 02, R532)
def ANV_DRAIN_WAIT_CYC_COUNT : Field := ⟨0x050030, 0x1000, 4, 0, 64, .hw, 0⟩
-- ANV_ZSKIP_CHUNKS (section 02, R532)
def ANV_ZSKIP_CHUNKS_COUNT : Field := ⟨0x050038, 0x1000, 4, 0, 64, .hw, 0⟩
-- ANV_CHK_MISMATCH (section 02, R532)
def ANV_CHK_MISMATCH_COUNT : Field := ⟨0x050040, 0x1000, 4, 0, 64, .hw, 0⟩
-- ANV_CHK_RETRY_PASS (section 02, R532)
def ANV_CHK_RETRY_PASS_COUNT : Field := ⟨0x050048, 0x1000, 4, 0, 64, .hw, 0⟩
-- ANV_CHK_EXCLUDED (section 02, R532)
def ANV_CHK_EXCLUDED_COUNT : Field := ⟨0x050050, 0x1000, 4, 0, 64, .hw, 0⟩
-- ANV_TONGS_TILES (section 06, R170)
def ANV_TONGS_TILES_COUNT : Field := ⟨0x050058, 0x1000, 4, 0, 64, .hw, 0⟩
-- ANV_TONGS_RQ_BLOCKS (section 06, R170)
def ANV_TONGS_RQ_BLOCKS_COUNT : Field := ⟨0x050060, 0x1000, 4, 0, 64, .hw, 0⟩
-- ANV_TONGS_EXPAND (section 06, R170)
def ANV_TONGS_EXPAND_COUNT : Field := ⟨0x050068, 0x1000, 4, 0, 64, .hw, 0⟩
-- ANV_TONGS_LATE_CYC (section 06, R170)
def ANV_TONGS_LATE_CYC_COUNT : Field := ⟨0x050070, 0x1000, 4, 0, 64, .hw, 0⟩
-- ANV_META_BAD (section 07, R207)
def ANV_META_BAD_COUNT : Field := ⟨0x050078, 0x1000, 4, 0, 64, .hw, 0⟩
-- ANV_ATTN_SKIP (section 08, R244)
def ANV_ATTN_SKIP_COUNT : Field := ⟨0x050080, 0x1000, 4, 0, 64, .hw, 0⟩
-- ANV_ATTN_NANROW (section 08, R244)
def ANV_ATTN_NANROW_COUNT : Field := ⟨0x050088, 0x1000, 4, 0, 64, .hw, 0⟩
-- ANV_PATH_UE (section 16, R445)
def ANV_PATH_UE_COUNT : Field := ⟨0x050090, 0x1000, 4, 0, 64, .hw, 0⟩

/-- The ANV_ rows of the register tables. -/
def anvFields : List Field :=
  [ANV_STATUS_STATE, ANV_STATUS_DRY, ANV_STATUS_DRAIN_WAIT,
   ANV_STATUS_LIVE_STRIPES, ANV_STATUS_SLOT, ANV_STATUS_STREAM,
   ANV_STATUS_DIE_OF_STREAM, ANV_FENCE_STRIPE, ANV_FENCE_WITHDRAWN,
   ANV_FENCE_PERSISTED, ANV_FENCE_WD_PERSISTED, ANV_FAULT_LOC_ROW,
   ANV_FAULT_LOC_COL, ANV_FAULT_LOC_STRIPE, ANV_FAULT_LOC_VALID,
   ANV_FAULT_LOC_UNLOCATED, ANV_FAULT_LOC_NARROW, ANV_FAULT_LOC_COUNT,
   ANV_FAULT_EXT_NOROW, ANV_FAULT_EXT_COUNT, ANV_BUSY_CYC_COUNT,
   ANV_DRY_A_CYC_COUNT, ANV_DRY_B_CYC_COUNT, ANV_DRY_EVENTS_COUNT,
   ANV_DRAIN_WAIT_CYC_COUNT, ANV_ZSKIP_CHUNKS_COUNT, ANV_CHK_MISMATCH_COUNT,
   ANV_CHK_RETRY_PASS_COUNT, ANV_CHK_EXCLUDED_COUNT, ANV_TONGS_TILES_COUNT] ++
  [ANV_TONGS_RQ_BLOCKS_COUNT, ANV_TONGS_EXPAND_COUNT, ANV_TONGS_LATE_CYC_COUNT,
   ANV_META_BAD_COUNT, ANV_ATTN_SKIP_COUNT, ANV_ATTN_NANROW_COUNT,
   ANV_PATH_UE_COUNT]

/-! MEM_ registers. -/

-- MEM_CRU_BASE_LO (section 06, R182)
def MEM_CRU_BASE_LO_BASE_LO : Field := ⟨0x078000, 0x20, 16, 18, 14, .ow, 0⟩
-- MEM_CRU_BASE_HI (section 06, R182)
def MEM_CRU_BASE_HI_BASE_HI : Field := ⟨0x078004, 0x20, 16, 0, 9, .ow, 0⟩
-- MEM_CRU_PAGES (section 06, R182)
def MEM_CRU_PAGES_PAGES : Field := ⟨0x078008, 0x20, 16, 0, 22, .ow, 0⟩
-- MEM_CRU_CTRL (section 06, R182)
def MEM_CRU_CTRL_EN : Field := ⟨0x07800C, 0x20, 16, 0, 1, .ow, 0⟩
-- MEM_CRU_STATUS (section 06, R182)
def MEM_CRU_STATUS_READY : Field := ⟨0x078010, 0x20, 16, 0, 1, .hw, 0⟩
def MEM_CRU_STATUS_ZEROING : Field := ⟨0x078010, 0x20, 16, 1, 1, .hw, 0⟩
def MEM_CRU_STATUS_PARTIAL : Field := ⟨0x078010, 0x20, 16, 2, 1, .ow1c, 0⟩
def MEM_CRU_STATUS_POISONED : Field := ⟨0x078010, 0x20, 16, 3, 1, .hw, 0⟩
def MEM_CRU_STATUS_PARTIAL_COUNT : Field := ⟨0x078010, 0x20, 16, 16, 16, .hw, 0⟩
-- MEM_CRU_ADDS (section 06, R182)
def MEM_CRU_ADDS_COUNT : Field := ⟨0x078018, 0x20, 16, 0, 64, .hw, 0⟩
-- MEM_KV_BASE_LO (section 08, R243)
def MEM_KV_BASE_LO_BASE_LO : Field := ⟨0x079000, 0x40, 16, 12, 20, .ow, 0⟩
-- MEM_KV_BASE_HI (section 08, R243)
def MEM_KV_BASE_HI_BASE_HI : Field := ⟨0x079004, 0x40, 16, 0, 9, .ow, 0⟩
-- MEM_KV_CFG (section 08, R243)
def MEM_KV_CFG_NFRAMES : Field := ⟨0x079008, 0x40, 16, 0, 24, .ow, 0⟩
def MEM_KV_CFG_DCODE : Field := ⟨0x079008, 0x40, 16, 24, 3, .ow, 0⟩
def MEM_KV_CFG_FMT : Field := ⟨0x079008, 0x40, 16, 27, 1, .ow, 0⟩
def MEM_KV_CFG_SLOT : Field := ⟨0x079008, 0x40, 16, 28, 3, .ow, 0⟩
-- MEM_KV_CTRL (section 08, R243)
def MEM_KV_CTRL_EN : Field := ⟨0x07900C, 0x40, 16, 0, 1, .ow, 0⟩
def MEM_KV_CTRL_STALL_LIMIT : Field := ⟨0x07900C, 0x40, 16, 16, 16, .ow, 1024⟩
-- MEM_KV_STATUS (section 08, R243)
def MEM_KV_STATUS_FREE : Field := ⟨0x079010, 0x40, 16, 0, 24, .hw, 0⟩
def MEM_KV_STATUS_READY : Field := ⟨0x079010, 0x40, 16, 24, 1, .hw, 0⟩
def MEM_KV_STATUS_EXHAUSTED : Field := ⟨0x079010, 0x40, 16, 25, 1, .ow1c, 0⟩
def MEM_KV_STATUS_BADPTE : Field := ⟨0x079010, 0x40, 16, 26, 1, .ow1c, 0⟩
-- MEM_KV_LIMBO (section 08, R243)
def MEM_KV_LIMBO_LIMBO : Field := ⟨0x079014, 0x40, 16, 0, 24, .hw, 0⟩
-- MEM_TS_PART (section 10, R268)
def MEM_TS_PART_MSC : Field := ⟨0x070000, 0x4, 2, 0, 6, .ow, 32⟩
def MEM_TS_PART_WIN : Field := ⟨0x070000, 0x4, 2, 8, 8, .ow, 64⟩
def MEM_TS_PART_STAGE : Field := ⟨0x070000, 0x4, 2, 16, 6, .ow, 16⟩
def MEM_TS_PART_FCAP : Field := ⟨0x070000, 0x4, 2, 24, 4, .ow, 2⟩
def MEM_TS_PART_APPLYING : Field := ⟨0x070000, 0x4, 2, 31, 1, .hw, 0⟩
-- MEM_ALLOC_BASE_LO (section 10, R276)
def MEM_ALLOC_BASE_LO_BASE_LO : Field := ⟨0x070100, 0x4, 1, 18, 14, .ow, 0⟩
-- MEM_ALLOC_BASE_HI (section 10, R276)
def MEM_ALLOC_BASE_HI_BASE_HI : Field := ⟨0x070104, 0x4, 1, 0, 9, .ow, 0⟩
-- MEM_ALLOC_PAGES (section 10, R276)
def MEM_ALLOC_PAGES_PAGES : Field := ⟨0x070108, 0x4, 1, 0, 23, .ow, 0⟩
-- MEM_ALLOC_CTRL (section 10, R276)
def MEM_ALLOC_CTRL_OP : Field := ⟨0x07010C, 0x4, 1, 0, 2, .ow, 0⟩
def MEM_ALLOC_CTRL_FLAGS : Field := ⟨0x07010C, 0x4, 1, 2, 2, .ow, 0⟩
def MEM_ALLOC_CTRL_DIE : Field := ⟨0x07010C, 0x4, 1, 4, 2, .ow, 0⟩
def MEM_ALLOC_CTRL_GO : Field := ⟨0x07010C, 0x4, 1, 6, 1, .ow, 0⟩
-- MEM_ALLOC_STATUS (section 10, R276)
def MEM_ALLOC_STATUS_BUSY : Field := ⟨0x070110, 0x4, 1, 0, 1, .hw, 0⟩
def MEM_ALLOC_STATUS_DONE : Field := ⟨0x070110, 0x4, 1, 1, 1, .ow1c, 0⟩
def MEM_ALLOC_STATUS_CONFLICT : Field := ⟨0x070110, 0x4, 1, 2, 23, .hw, 0⟩
-- MEM_BELLOWS_CFG0 (section 10, R281)
def MEM_BELLOWS_CFG0_PROM_T : Field := ⟨0x070200, 0x4, 1, 0, 16, .ow, 256⟩
def MEM_BELLOWS_CFG0_TS_T : Field := ⟨0x070200, 0x4, 1, 16, 16, .ow, 4096⟩
-- MEM_BELLOWS_CFG1 (section 10, R281)
def MEM_BELLOWS_CFG1_PERIOD : Field := ⟨0x070204, 0x4, 1, 0, 16, .ow, 256⟩
def MEM_BELLOWS_CFG1_MIG_MAX : Field := ⟨0x070204, 0x4, 1, 16, 16, .ow, 256⟩
-- MEM_BELLOWS_CFG2 (section 10, R281)
def MEM_BELLOWS_CFG2_LOW_WATER : Field := ⟨0x070208, 0x4, 1, 0, 20, .ow, 8192⟩
def MEM_BELLOWS_CFG2_CE_T : Field := ⟨0x070208, 0x4, 1, 20, 8, .ow, 16⟩
-- MEM_WR_BASE_LO (section 10, R282)
def MEM_WR_BASE_LO_BASE_LO : Field := ⟨0x071000, 0x10, 16, 18, 14, .ow, 0⟩
-- MEM_WR_BASE_HI (section 10, R282)
def MEM_WR_BASE_HI_BASE_HI : Field := ⟨0x071004, 0x10, 16, 0, 9, .ow, 0⟩
-- MEM_WR_PAGES (section 10, R282)
def MEM_WR_PAGES_PAGES : Field := ⟨0x071008, 0x10, 16, 0, 23, .ow, 0⟩
-- MEM_WR_CTRL (section 10, R282)
def MEM_WR_CTRL_EN : Field := ⟨0x07100C, 0x10, 16, 0, 1, .ow, 0⟩
def MEM_WR_CTRL_TILED : Field := ⟨0x07100C, 0x10, 16, 1, 1, .ow, 0⟩
-- MEM_ARB_CFG (section 10, R297)
def MEM_ARB_CFG_N : Field := ⟨0x070300, 0x4, 1, 0, 7, .ow, 8⟩
def MEM_ARB_CFG_BG_SHARE : Field := ⟨0x070300, 0x4, 1, 8, 6, .ow, 4⟩
def MEM_ARB_CFG_KEEP_WAYS : Field := ⟨0x070300, 0x4, 1, 16, 4, .ow, 8⟩
def MEM_ARB_CFG_UNPROTECT : Field := ⟨0x070300, 0x4, 1, 20, 1, .ow, 0⟩
-- MEM_ERR_LOG0 (section 10, R305)
def MEM_ERR_LOG0_TIER : Field := ⟨0x070400, 0x4, 1, 0, 2, .hw, 0⟩
def MEM_ERR_LOG0_DIE : Field := ⟨0x070400, 0x4, 1, 2, 1, .hw, 0⟩
def MEM_ERR_LOG0_UE : Field := ⟨0x070400, 0x4, 1, 3, 1, .hw, 0⟩
def MEM_ERR_LOG0_ACTION : Field := ⟨0x070400, 0x4, 1, 4, 3, .hw, 0⟩
def MEM_ERR_LOG0_VALID : Field := ⟨0x070400, 0x4, 1, 7, 1, .ow1c, 0⟩
def MEM_ERR_LOG0_FRAME : Field := ⟨0x070400, 0x4, 1, 8, 22, .hw, 0⟩
-- MEM_ERR_LOG1 (section 10, R305)
def MEM_ERR_LOG1_PAGE : Field := ⟨0x070404, 0x4, 1, 0, 23, .hw, 0⟩
-- MEM_ERR_LOG2 (section 10, R305)
def MEM_ERR_LOG2_LINE : Field := ⟨0x070408, 0x4, 1, 0, 12, .hw, 0⟩
def MEM_ERR_LOG2_SLOTS : Field := ⟨0x070408, 0x4, 1, 12, 8, .hw, 0⟩
-- MEM_FCAP_CTRL (section 16, R460)
def MEM_FCAP_CTRL_SRC : Field := ⟨0x070500, 0x20, 2, 0, 4, .ow, 0⟩
def MEM_FCAP_CTRL_ARM : Field := ⟨0x070500, 0x20, 2, 4, 1, .ow, 0⟩
def MEM_FCAP_CTRL_AUXTRIG : Field := ⟨0x070500, 0x20, 2, 5, 1, .ow, 0⟩
def MEM_FCAP_CTRL_DUMP : Field := ⟨0x070500, 0x20, 2, 6, 1, .ow, 0⟩
def MEM_FCAP_CTRL_POST : Field := ⟨0x070500, 0x20, 2, 8, 8, .ow, 0⟩
def MEM_FCAP_CTRL_TRIG_CODE : Field := ⟨0x070500, 0x20, 2, 16, 16, .ow, 0⟩
-- MEM_FCAP_STATUS (section 16, R460)
def MEM_FCAP_STATUS_TRIGGERED : Field := ⟨0x070504, 0x20, 2, 0, 1, .hw, 0⟩
def MEM_FCAP_STATUS_UNREAD : Field := ⟨0x070504, 0x20, 2, 1, 1, .hw, 0⟩
def MEM_FCAP_STATUS_DUMPING : Field := ⟨0x070504, 0x20, 2, 2, 1, .hw, 0⟩
def MEM_FCAP_STATUS_DROPPED : Field := ⟨0x070504, 0x20, 2, 3, 1, .hw, 0⟩
def MEM_FCAP_STATUS_RECORDS : Field := ⟨0x070504, 0x20, 2, 8, 19, .hw, 0⟩
-- MEM_FCAP_DST (section 16, R460)
def MEM_FCAP_DST_DST : Field := ⟨0x070508, 0x20, 2, 6, 35, .ow, 0⟩
-- MEM_KV_ALLOC (section 08, R244)
def MEM_KV_ALLOC_COUNT : Field := ⟨0x079018, 0x40, 16, 0, 64, .hw, 0⟩
-- MEM_KV_COW (section 08, R244)
def MEM_KV_COW_COUNT : Field := ⟨0x079020, 0x40, 16, 0, 64, .hw, 0⟩
-- MEM_KV_STALL_CYC (section 08, R244)
def MEM_KV_STALL_CYC_COUNT : Field := ⟨0x079028, 0x40, 16, 0, 64, .hw, 0⟩
-- MEM_KV_TMOVED (section 08, R244)
def MEM_KV_TMOVED_COUNT : Field := ⟨0x079030, 0x40, 16, 0, 64, .hw, 0⟩
-- MEM_KV_COUNT_BAD (section 08, R244)
def MEM_KV_COUNT_BAD_COUNT : Field := ⟨0x079038, 0x40, 16, 0, 64, .hw, 0⟩
-- MEM_LEDGER_MISS (section 10, R306)
def MEM_LEDGER_MISS_COUNT : Field := ⟨0x072000, 0x8, 1, 0, 64, .hw, 0⟩
-- MEM_PROMOTE (section 10, R306)
def MEM_PROMOTE_COUNT : Field := ⟨0x072008, 0x8, 1, 0, 64, .hw, 0⟩
-- MEM_DEMOTE (section 10, R306)
def MEM_DEMOTE_COUNT : Field := ⟨0x072010, 0x8, 1, 0, 64, .hw, 0⟩
-- MEM_MIG_WAIT (section 10, R306)
def MEM_MIG_WAIT_COUNT : Field := ⟨0x072018, 0x8, 1, 0, 64, .hw, 0⟩
-- MEM_WIN_FILL_LINES (section 10, R306)
def MEM_WIN_FILL_LINES_COUNT : Field := ⟨0x072020, 0x8, 1, 0, 64, .hw, 0⟩
-- MEM_WIN_HOME_LINES (section 10, R306)
def MEM_WIN_HOME_LINES_COUNT : Field := ⟨0x072028, 0x8, 1, 0, 64, .hw, 0⟩
-- MEM_MSC_HIT (section 10, R306)
def MEM_MSC_HIT_COUNT : Field := ⟨0x072030, 0x8, 1, 0, 64, .hw, 0⟩
-- MEM_MSC_MISS (section 10, R306)
def MEM_MSC_MISS_COUNT : Field := ⟨0x072038, 0x8, 1, 0, 64, .hw, 0⟩
-- MEM_MSC_DEAD (section 10, R306)
def MEM_MSC_DEAD_COUNT : Field := ⟨0x072040, 0x8, 1, 0, 64, .hw, 0⟩
-- MEM_CE (section 10, R306)
def MEM_CE_COUNT : Field := ⟨0x072048, 0x8, 1, 0, 64, .hw, 0⟩
-- MEM_UE (section 10, R306)
def MEM_UE_COUNT : Field := ⟨0x072050, 0x8, 1, 0, 64, .hw, 0⟩
-- MEM_POISON_READS (section 10, R306)
def MEM_POISON_READS_COUNT : Field := ⟨0x072058, 0x8, 1, 0, 64, .hw, 0⟩
-- MEM_SLAG_ADDS (section 10, R306)
def MEM_SLAG_ADDS_COUNT : Field := ⟨0x072060, 0x8, 1, 0, 64, .hw, 0⟩
-- MEM_UNMAPPED (section 10, R306)
def MEM_UNMAPPED_COUNT : Field := ⟨0x072068, 0x8, 1, 0, 64, .hw, 0⟩
-- MEM_RSV_WRITE (section 10, R306)
def MEM_RSV_WRITE_COUNT : Field := ⟨0x072070, 0x8, 1, 0, 64, .hw, 0⟩
-- MEM_ARB_OLDEST (section 10, R306)
def MEM_ARB_OLDEST_COUNT : Field := ⟨0x072078, 0x8, 1, 0, 64, .hw, 0⟩

/-- The MEM_ rows of the register tables. -/
def memFields : List Field :=
  [MEM_CRU_BASE_LO_BASE_LO, MEM_CRU_BASE_HI_BASE_HI, MEM_CRU_PAGES_PAGES,
   MEM_CRU_CTRL_EN, MEM_CRU_STATUS_READY, MEM_CRU_STATUS_ZEROING,
   MEM_CRU_STATUS_PARTIAL, MEM_CRU_STATUS_POISONED, MEM_CRU_STATUS_PARTIAL_COUNT,
   MEM_CRU_ADDS_COUNT, MEM_KV_BASE_LO_BASE_LO, MEM_KV_BASE_HI_BASE_HI,
   MEM_KV_CFG_NFRAMES, MEM_KV_CFG_DCODE, MEM_KV_CFG_FMT,
   MEM_KV_CFG_SLOT, MEM_KV_CTRL_EN, MEM_KV_CTRL_STALL_LIMIT,
   MEM_KV_STATUS_FREE, MEM_KV_STATUS_READY, MEM_KV_STATUS_EXHAUSTED,
   MEM_KV_STATUS_BADPTE, MEM_KV_LIMBO_LIMBO, MEM_TS_PART_MSC,
   MEM_TS_PART_WIN, MEM_TS_PART_STAGE, MEM_TS_PART_FCAP,
   MEM_TS_PART_APPLYING, MEM_ALLOC_BASE_LO_BASE_LO, MEM_ALLOC_BASE_HI_BASE_HI] ++
  [MEM_ALLOC_PAGES_PAGES, MEM_ALLOC_CTRL_OP, MEM_ALLOC_CTRL_FLAGS,
   MEM_ALLOC_CTRL_DIE, MEM_ALLOC_CTRL_GO, MEM_ALLOC_STATUS_BUSY,
   MEM_ALLOC_STATUS_DONE, MEM_ALLOC_STATUS_CONFLICT, MEM_BELLOWS_CFG0_PROM_T,
   MEM_BELLOWS_CFG0_TS_T, MEM_BELLOWS_CFG1_PERIOD, MEM_BELLOWS_CFG1_MIG_MAX,
   MEM_BELLOWS_CFG2_LOW_WATER, MEM_BELLOWS_CFG2_CE_T, MEM_WR_BASE_LO_BASE_LO,
   MEM_WR_BASE_HI_BASE_HI, MEM_WR_PAGES_PAGES, MEM_WR_CTRL_EN,
   MEM_WR_CTRL_TILED, MEM_ARB_CFG_N, MEM_ARB_CFG_BG_SHARE,
   MEM_ARB_CFG_KEEP_WAYS, MEM_ARB_CFG_UNPROTECT, MEM_ERR_LOG0_TIER,
   MEM_ERR_LOG0_DIE, MEM_ERR_LOG0_UE, MEM_ERR_LOG0_ACTION,
   MEM_ERR_LOG0_VALID, MEM_ERR_LOG0_FRAME, MEM_ERR_LOG1_PAGE] ++
  [MEM_ERR_LOG2_LINE, MEM_ERR_LOG2_SLOTS, MEM_FCAP_CTRL_SRC,
   MEM_FCAP_CTRL_ARM, MEM_FCAP_CTRL_AUXTRIG, MEM_FCAP_CTRL_DUMP,
   MEM_FCAP_CTRL_POST, MEM_FCAP_CTRL_TRIG_CODE, MEM_FCAP_STATUS_TRIGGERED,
   MEM_FCAP_STATUS_UNREAD, MEM_FCAP_STATUS_DUMPING, MEM_FCAP_STATUS_DROPPED,
   MEM_FCAP_STATUS_RECORDS, MEM_FCAP_DST_DST, MEM_KV_ALLOC_COUNT,
   MEM_KV_COW_COUNT, MEM_KV_STALL_CYC_COUNT, MEM_KV_TMOVED_COUNT,
   MEM_KV_COUNT_BAD_COUNT, MEM_LEDGER_MISS_COUNT, MEM_PROMOTE_COUNT,
   MEM_DEMOTE_COUNT, MEM_MIG_WAIT_COUNT, MEM_WIN_FILL_LINES_COUNT,
   MEM_WIN_HOME_LINES_COUNT, MEM_MSC_HIT_COUNT, MEM_MSC_MISS_COUNT,
   MEM_MSC_DEAD_COUNT, MEM_CE_COUNT, MEM_UE_COUNT] ++
  [MEM_POISON_READS_COUNT, MEM_SLAG_ADDS_COUNT, MEM_UNMAPPED_COUNT,
   MEM_RSV_WRITE_COUNT, MEM_ARB_OLDEST_COUNT]

/-! UPD_ registers. -/

-- UPD_CTRL (section 09, R266)
def UPD_CTRL_DISARM : Field := ⟨0x090000, 0x4, 1, 0, 8, .ow, 0⟩
-- UPD_STATUS (section 09, R266)
def UPD_STATUS_ARMED_W : Field := ⟨0x090004, 0x4, 1, 0, 13, .hw, 0⟩
def UPD_STATUS_ARMED_E : Field := ⟨0x090004, 0x4, 1, 16, 13, .hw, 0⟩
def UPD_STATUS_CLIP_WAIT : Field := ⟨0x090004, 0x4, 1, 29, 1, .hw, 0⟩
-- UPD_CKPT_STATUS (section 15, R443)
def UPD_CKPT_STATUS_INFLIGHT : Field := ⟨0x090200, 0x4, 1, 0, 3, .hw, 0⟩
def UPD_CKPT_STATUS_FAILED : Field := ⟨0x090200, 0x4, 1, 3, 1, .ow1c, 0⟩
def UPD_CKPT_STATUS_SKEW : Field := ⟨0x090200, 0x4, 1, 4, 1, .ow1c, 0⟩
def UPD_CKPT_STATUS_NOSNAP : Field := ⟨0x090200, 0x4, 1, 5, 1, .hw, 0⟩
-- UPD_COMMITS (section 09, R266)
def UPD_COMMITS_COUNT : Field := ⟨0x090100, 0x8, 1, 0, 64, .hw, 0⟩
-- UPD_GUARDED (section 09, R266)
def UPD_GUARDED_COUNT : Field := ⟨0x090108, 0x8, 1, 0, 64, .hw, 0⟩
-- UPD_FROZEN_WRITE (section 09, R266)
def UPD_FROZEN_WRITE_COUNT : Field := ⟨0x090110, 0x8, 1, 0, 64, .hw, 0⟩
-- UPD_SINGULAR_FALLBACK (section 09, R266)
def UPD_SINGULAR_FALLBACK_COUNT : Field := ⟨0x090118, 0x8, 1, 0, 64, .hw, 0⟩
-- UPD_UNARMED (section 09, R266)
def UPD_UNARMED_COUNT : Field := ⟨0x090120, 0x8, 1, 0, 64, .hw, 0⟩
-- UPD_REREAD (section 09, R266)
def UPD_REREAD_COUNT : Field := ⟨0x090128, 0x8, 1, 0, 64, .hw, 0⟩
-- UPD_HOLD_CYC (section 09, R266)
def UPD_HOLD_CYC_COUNT : Field := ⟨0x090130, 0x8, 1, 0, 64, .hw, 0⟩
-- UPD_READER_CYC (section 09, R266)
def UPD_READER_CYC_COUNT : Field := ⟨0x090138, 0x8, 1, 0, 64, .hw, 0⟩
-- UPD_NORM_BAD (section 09, R266)
def UPD_NORM_BAD_COUNT : Field := ⟨0x090140, 0x8, 1, 0, 64, .hw, 0⟩
-- UPD_CKPT_BYTES (section 15, R443)
def UPD_CKPT_BYTES_COUNT : Field := ⟨0x090208, 0x8, 1, 0, 64, .hw, 0⟩
-- UPD_CKPT_HOLDS (section 15, R443)
def UPD_CKPT_HOLDS_COUNT : Field := ⟨0x090210, 0x8, 1, 0, 64, .hw, 0⟩

/-- The UPD_ rows of the register tables. -/
def updFields : List Field :=
  [UPD_CTRL_DISARM, UPD_STATUS_ARMED_W, UPD_STATUS_ARMED_E,
   UPD_STATUS_CLIP_WAIT, UPD_CKPT_STATUS_INFLIGHT, UPD_CKPT_STATUS_FAILED,
   UPD_CKPT_STATUS_SKEW, UPD_CKPT_STATUS_NOSNAP, UPD_COMMITS_COUNT,
   UPD_GUARDED_COUNT, UPD_FROZEN_WRITE_COUNT, UPD_SINGULAR_FALLBACK_COUNT,
   UPD_UNARMED_COUNT, UPD_REREAD_COUNT, UPD_HOLD_CYC_COUNT,
   UPD_READER_CYC_COUNT, UPD_NORM_BAD_COUNT, UPD_CKPT_BYTES_COUNT,
   UPD_CKPT_HOLDS_COUNT]

/-! NET_ registers. -/

-- NET_PORT_CFG (section 12, R362)
def NET_PORT_CFG_MODE : Field := ⟨0x060000, 0x400, 8, 0, 4, .ow, 0⟩
def NET_PORT_CFG_EN : Field := ⟨0x060000, 0x400, 8, 4, 1, .ow, 0⟩
def NET_PORT_CFG_PREEMPT : Field := ⟨0x060000, 0x400, 8, 5, 1, .ow, 1⟩
def NET_PORT_CFG_FAMILY : Field := ⟨0x060000, 0x400, 8, 6, 1, .ow, 0⟩
def NET_PORT_CFG_VID : Field := ⟨0x060000, 0x400, 8, 7, 12, .ow, 0⟩
-- NET_PORT_STATUS (section 12, R362)
def NET_PORT_STATUS_LINK : Field := ⟨0x060004, 0x400, 8, 0, 1, .hw, 0⟩
def NET_PORT_STATUS_PREEMPT_ACTIVE : Field := ⟨0x060004, 0x400, 8, 1, 1, .hw, 0⟩
def NET_PORT_STATUS_FI_ARMED : Field := ⟨0x060004, 0x400, 8, 2, 1, .hw, 0⟩
def NET_PORT_STATUS_MODE_ACTIVE : Field := ⟨0x060004, 0x400, 8, 4, 4, .hw, 0⟩
def NET_PORT_STATUS_LANES_UP : Field := ⟨0x060004, 0x400, 8, 8, 8, .hw, 0⟩
-- NET_PORT_MAC (section 12, R362)
def NET_PORT_MAC_MAC : Field := ⟨0x060008, 0x400, 8, 0, 48, .ow, 0⟩
-- NET_PORT_NEXTHOP (section 12, R362)
def NET_PORT_NEXTHOP_MAC : Field := ⟨0x060010, 0x400, 8, 0, 48, .ow, 0⟩
-- NET_PORT_IP (section 12, R362)
def NET_PORT_IP_IP : Field := ⟨0x060020, 0x400, 8, 0, 128, .ow, 0⟩
-- NET_FI_CTRL (section 12, R362)
def NET_FI_CTRL_ARM : Field := ⟨0x060040, 0x400, 8, 0, 1, .ow, 0⟩
def NET_FI_CTRL_DROP_EN : Field := ⟨0x060040, 0x400, 8, 1, 1, .ow, 0⟩
def NET_FI_CTRL_CORRUPT_EN : Field := ⟨0x060040, 0x400, 8, 2, 1, .ow, 0⟩
def NET_FI_CTRL_REORDER_EN : Field := ⟨0x060040, 0x400, 8, 3, 1, .ow, 0⟩
def NET_FI_CTRL_CLASSES : Field := ⟨0x060040, 0x400, 8, 4, 4, .ow, 0⟩
def NET_FI_CTRL_REORDER_DEPTH : Field := ⟨0x060040, 0x400, 8, 8, 8, .ow, 1⟩
-- NET_FI_RATE (section 12, R362)
def NET_FI_RATE_DROP : Field := ⟨0x060044, 0x400, 8, 0, 10, .ow, 0⟩
def NET_FI_RATE_CORRUPT : Field := ⟨0x060044, 0x400, 8, 10, 10, .ow, 0⟩
def NET_FI_RATE_REORDER : Field := ⟨0x060044, 0x400, 8, 20, 10, .ow, 0⟩
-- NET_FI_SEED (section 12, R362)
def NET_FI_SEED_SEED : Field := ⟨0x060048, 0x400, 8, 0, 32, .ow, 1⟩
-- NET_DEV_ID (section 12, R362)
def NET_DEV_ID_DEV_ID : Field := ⟨0x062000, 0x4, 1, 0, 16, .ow, 0⟩
-- NET_XPORT_CFG (section 12, R363)
def NET_XPORT_CFG_RTO : Field := ⟨0x062004, 0x4, 1, 0, 16, .ow, 75⟩
def NET_XPORT_CFG_UNREACH : Field := ⟨0x062004, 0x4, 1, 16, 8, .ow, 32⟩
-- NET_EPOCH (section 12, R364)
def NET_EPOCH_EPOCH : Field := ⟨0x064000, 0x4, 88, 0, 16, .ow, 0⟩
-- NET_TX_FRAMES (section 12, R364)
def NET_TX_FRAMES_COUNT : Field := ⟨0x060100, 0x400, 8, 0, 64, .hw, 0⟩
-- NET_RX_FRAMES (section 12, R364)
def NET_RX_FRAMES_COUNT : Field := ⟨0x060108, 0x400, 8, 0, 64, .hw, 0⟩
-- NET_RX_DROP (section 12, R364)
def NET_RX_DROP_COUNT : Field := ⟨0x060110, 0x400, 8, 0, 64, .hw, 0⟩
-- NET_RX_CRC (section 12, R364)
def NET_RX_CRC_COUNT : Field := ⟨0x060118, 0x400, 8, 0, 64, .hw, 0⟩
-- NET_RX_MISDIRECT (section 12, R364)
def NET_RX_MISDIRECT_COUNT : Field := ⟨0x060120, 0x400, 8, 0, 64, .hw, 0⟩
-- NET_RETX (section 12, R364)
def NET_RETX_COUNT : Field := ⟨0x060128, 0x400, 8, 0, 64, .hw, 0⟩
-- NET_ROLE_STALE (section 12, R364)
def NET_ROLE_STALE_COUNT : Field := ⟨0x060130, 0x400, 8, 0, 64, .hw, 0⟩
-- NET_FI_ACTIONS (section 12, R364)
def NET_FI_ACTIONS_COUNT : Field := ⟨0x060138, 0x400, 8, 0, 64, .hw, 0⟩
-- NET_RX_RANGE (section 12, R364)
def NET_RX_RANGE_COUNT : Field := ⟨0x060140, 0x400, 8, 0, 64, .hw, 0⟩
-- NET_SLOT (section 12, R364)
def NET_SLOT_PEER_BASE : Field := ⟨0x063000, 0x20, 8, 0, 48, .ow, 0⟩
def NET_SLOT_PEER_LEN : Field := ⟨0x063008, 0x20, 8, 0, 11, .ow, 0⟩
def NET_SLOT_COLL_BASE : Field := ⟨0x063010, 0x20, 8, 0, 48, .ow, 0⟩
def NET_SLOT_COLL_LEN : Field := ⟨0x063018, 0x20, 8, 0, 17, .ow, 0⟩

/-- The NET_ rows of the register tables. -/
def netFields : List Field :=
  [NET_PORT_CFG_MODE, NET_PORT_CFG_EN, NET_PORT_CFG_PREEMPT,
   NET_PORT_CFG_FAMILY, NET_PORT_CFG_VID, NET_PORT_STATUS_LINK,
   NET_PORT_STATUS_PREEMPT_ACTIVE, NET_PORT_STATUS_FI_ARMED, NET_PORT_STATUS_MODE_ACTIVE,
   NET_PORT_STATUS_LANES_UP, NET_PORT_MAC_MAC, NET_PORT_NEXTHOP_MAC,
   NET_PORT_IP_IP, NET_FI_CTRL_ARM, NET_FI_CTRL_DROP_EN,
   NET_FI_CTRL_CORRUPT_EN, NET_FI_CTRL_REORDER_EN, NET_FI_CTRL_CLASSES,
   NET_FI_CTRL_REORDER_DEPTH, NET_FI_RATE_DROP, NET_FI_RATE_CORRUPT,
   NET_FI_RATE_REORDER, NET_FI_SEED_SEED, NET_DEV_ID_DEV_ID,
   NET_XPORT_CFG_RTO, NET_XPORT_CFG_UNREACH, NET_EPOCH_EPOCH,
   NET_TX_FRAMES_COUNT, NET_RX_FRAMES_COUNT, NET_RX_DROP_COUNT] ++
  [NET_RX_CRC_COUNT, NET_RX_MISDIRECT_COUNT, NET_RETX_COUNT,
   NET_ROLE_STALE_COUNT, NET_FI_ACTIONS_COUNT, NET_RX_RANGE_COUNT,
   NET_SLOT_PEER_BASE, NET_SLOT_PEER_LEN, NET_SLOT_COLL_BASE,
   NET_SLOT_COLL_LEN]

/-! KAL_ registers. -/

-- KAL_MB_STATUS (section 13, R371)
def KAL_MB_STATUS_STATE : Field := ⟨0x010000, 0x1000, 16, 0, 2, .hw, 0⟩
def KAL_MB_STATUS_LAST_STATUS : Field := ⟨0x010000, 0x1000, 16, 8, 8, .hw, 0⟩
def KAL_MB_STATUS_BADFRAME : Field := ⟨0x010000, 0x1000, 16, 16, 16, .hw, 0⟩
-- KAL_MB_AGENT (section 13, R371)
def KAL_MB_AGENT_AGENT_ID : Field := ⟨0x010008, 0x1000, 16, 0, 64, .hw, 0⟩

/-- The KAL_ rows of the register tables. -/
def kalFields : List Field :=
  [KAL_MB_STATUS_STATE, KAL_MB_STATUS_LAST_STATUS, KAL_MB_STATUS_BADFRAME,
   KAL_MB_AGENT_AGENT_ID]

/-! PWR_ registers. -/

-- PWR_CAP (section 14, R426)
def PWR_CAP_WATTS : Field := ⟨0x080000, 0x4, 1, 0, 11, .ow, 1500⟩
-- PWR_PHASE_OP (section 14, R426)
def PWR_PHASE_OP_FWD : Field := ⟨0x080004, 0x4, 1, 0, 4, .ow, 15⟩
def PWR_PHASE_OP_BWD : Field := ⟨0x080004, 0x4, 1, 4, 4, .ow, 15⟩
def PWR_PHASE_OP_UPD : Field := ⟨0x080004, 0x4, 1, 8, 4, .ow, 15⟩
def PWR_PHASE_OP_COMM : Field := ⟨0x080004, 0x4, 1, 12, 4, .ow, 15⟩
def PWR_PHASE_OP_ROLL : Field := ⟨0x080004, 0x4, 1, 16, 4, .ow, 15⟩
-- PWR_GROUP (section 14, R426)
def PWR_GROUP_OP : Field := ⟨0x080008, 0x4, 1, 0, 4, .ow, 0⟩
def PWR_GROUP_EN : Field := ⟨0x080008, 0x4, 1, 4, 1, .ow, 0⟩
-- PWR_STATUS (section 14, R426)
def PWR_STATUS_LIM_CAP : Field := ⟨0x08000C, 0x4, 1, 0, 4, .hw, 15⟩
def PWR_STATUS_DUTY : Field := ⟨0x08000C, 0x4, 1, 4, 5, .hw, 16⟩
def PWR_STATUS_MEM : Field := ⟨0x08000C, 0x4, 1, 9, 5, .hw, 16⟩
def PWR_STATUS_CAP_UNMET : Field := ⟨0x08000C, 0x4, 1, 14, 1, .hw, 0⟩
def PWR_STATUS_GROUP_LAG : Field := ⟨0x08000C, 0x4, 1, 15, 1, .hw, 0⟩
def PWR_STATUS_CAP_COOLANT : Field := ⟨0x08000C, 0x4, 1, 16, 1, .hw, 0⟩
def PWR_STATUS_PEAK : Field := ⟨0x08000C, 0x4, 1, 17, 1, .hw, 0⟩
def PWR_STATUS_THROTTLE : Field := ⟨0x08000C, 0x4, 1, 18, 1, .hw, 0⟩
def PWR_STATUS_QUENCH : Field := ⟨0x08000C, 0x4, 1, 19, 1, .hw, 0⟩
def PWR_STATUS_QCAUSE : Field := ⟨0x08000C, 0x4, 1, 20, 2, .hw, 0⟩
def PWR_STATUS_STATE : Field := ⟨0x08000C, 0x4, 1, 22, 3, .hw, 0⟩
-- PWR_ANV_OP (section 14, R426)
def PWR_ANV_OP_OP : Field := ⟨0x080010, 0x4, 1, 0, 16, .hw, 65535⟩
def PWR_ANV_OP_LIM_THERM : Field := ⟨0x080010, 0x4, 1, 16, 16, .hw, 65535⟩
-- PWR_TEMP (section 14, R426)
def PWR_TEMP_TJ_W : Field := ⟨0x080014, 0x4, 1, 0, 8, .hw, 0⟩
def PWR_TEMP_TJ_E : Field := ⟨0x080014, 0x4, 1, 8, 8, .hw, 0⟩
def PWR_TEMP_INLET : Field := ⟨0x080014, 0x4, 1, 16, 8, .hw, 0⟩
def PWR_TEMP_OUTLET : Field := ⟨0x080014, 0x4, 1, 24, 8, .hw, 0⟩
-- PWR_INPUT (section 14, R426)
def PWR_INPUT_WATTS : Field := ⟨0x080018, 0x4, 1, 0, 16, .hw, 0⟩
def PWR_INPUT_VIN : Field := ⟨0x080018, 0x4, 1, 16, 16, .hw, 0⟩
-- PWR_STATE_REQ (section 14, R426)
def PWR_STATE_REQ_REQ : Field := ⟨0x08001C, 0x4, 1, 0, 3, .ow, 0⟩
-- PWR_GUARD (section 16, R456)
def PWR_GUARD_GB_ANV : Field := ⟨0x080020, 0x4, 1, 0, 8, .hw, 0⟩
def PWR_GUARD_GB_FIX : Field := ⟨0x080020, 0x4, 1, 8, 8, .hw, 0⟩
-- PWR_THROTTLE_CYC (section 14, R426)
def PWR_THROTTLE_CYC_COUNT : Field := ⟨0x080100, 0x8, 1, 0, 64, .hw, 0⟩
-- PWR_DROOP_EVENTS (section 14, R426)
def PWR_DROOP_EVENTS_COUNT : Field := ⟨0x080108, 0x8, 1, 0, 64, .hw, 0⟩
-- PWR_DROOP_CYC (section 14, R426)
def PWR_DROOP_CYC_COUNT : Field := ⟨0x080110, 0x8, 1, 0, 64, .hw, 0⟩
-- PWR_PLL_DEFER (section 14, R426)
def PWR_PLL_DEFER_COUNT : Field := ⟨0x080118, 0x8, 1, 0, 64, .hw, 0⟩
-- PWR_ENERGY_ACC (section 14, R426)
def PWR_ENERGY_ACC_COUNT : Field := ⟨0x081000, 0x8, 8, 0, 64, .hw, 0⟩
-- PWR_ENERGY_IDLE (section 14, R426)
def PWR_ENERGY_IDLE_COUNT : Field := ⟨0x081040, 0x8, 1, 0, 64, .hw, 0⟩
-- PWR_ENERGY_TOTAL (section 14, R426)
def PWR_ENERGY_TOTAL_COUNT : Field := ⟨0x081048, 0x8, 1, 0, 64, .hw, 0⟩
-- PWR_ENERGY_PHASE0 (section 14, R426)
def PWR_ENERGY_PHASE0_COUNT : Field := ⟨0x081100, 0x40, 8, 0, 64, .hw, 0⟩
-- PWR_ENERGY_PHASE1 (section 14, R426)
def PWR_ENERGY_PHASE1_COUNT : Field := ⟨0x081108, 0x40, 8, 0, 64, .hw, 0⟩
-- PWR_ENERGY_PHASE2 (section 14, R426)
def PWR_ENERGY_PHASE2_COUNT : Field := ⟨0x081110, 0x40, 8, 0, 64, .hw, 0⟩
-- PWR_ENERGY_PHASE3 (section 14, R426)
def PWR_ENERGY_PHASE3_COUNT : Field := ⟨0x081118, 0x40, 8, 0, 64, .hw, 0⟩
-- PWR_ENERGY_PHASE4 (section 14, R426)
def PWR_ENERGY_PHASE4_COUNT : Field := ⟨0x081120, 0x40, 8, 0, 64, .hw, 0⟩

/-- The PWR_ rows of the register tables. -/
def pwrFields : List Field :=
  [PWR_CAP_WATTS, PWR_PHASE_OP_FWD, PWR_PHASE_OP_BWD,
   PWR_PHASE_OP_UPD, PWR_PHASE_OP_COMM, PWR_PHASE_OP_ROLL,
   PWR_GROUP_OP, PWR_GROUP_EN, PWR_STATUS_LIM_CAP,
   PWR_STATUS_DUTY, PWR_STATUS_MEM, PWR_STATUS_CAP_UNMET,
   PWR_STATUS_GROUP_LAG, PWR_STATUS_CAP_COOLANT, PWR_STATUS_PEAK,
   PWR_STATUS_THROTTLE, PWR_STATUS_QUENCH, PWR_STATUS_QCAUSE,
   PWR_STATUS_STATE, PWR_ANV_OP_OP, PWR_ANV_OP_LIM_THERM,
   PWR_TEMP_TJ_W, PWR_TEMP_TJ_E, PWR_TEMP_INLET,
   PWR_TEMP_OUTLET, PWR_INPUT_WATTS, PWR_INPUT_VIN,
   PWR_STATE_REQ_REQ, PWR_GUARD_GB_ANV, PWR_GUARD_GB_FIX] ++
  [PWR_THROTTLE_CYC_COUNT, PWR_DROOP_EVENTS_COUNT, PWR_DROOP_CYC_COUNT,
   PWR_PLL_DEFER_COUNT, PWR_ENERGY_ACC_COUNT, PWR_ENERGY_IDLE_COUNT,
   PWR_ENERGY_TOTAL_COUNT, PWR_ENERGY_PHASE0_COUNT, PWR_ENERGY_PHASE1_COUNT,
   PWR_ENERGY_PHASE2_COUNT, PWR_ENERGY_PHASE3_COUNT, PWR_ENERGY_PHASE4_COUNT]

/-! SEC_ registers. -/

-- SEC_LC (section 17, R489)
def SEC_LC_LC : Field := ⟨0x040000, 0x4, 1, 0, 2, .hw, 0⟩
def SEC_LC_PORT : Field := ⟨0x040000, 0x4, 1, 2, 2, .hw, 0⟩
def SEC_LC_NOFW : Field := ⟨0x040000, 0x4, 1, 4, 1, .hw, 0⟩
def SEC_LC_IDFAIL : Field := ⟨0x040000, 0x4, 1, 5, 1, .hw, 0⟩
def SEC_LC_LC_RESETS : Field := ⟨0x040000, 0x4, 1, 16, 16, .hw, 0⟩
-- SEC_CTRL (section 17, R489)
def SEC_CTRL_CLOSE : Field := ⟨0x040004, 0x4, 1, 0, 1, .ow, 0⟩
def SEC_CTRL_RESEAL : Field := ⟨0x040004, 0x4, 1, 1, 1, .ow, 0⟩
-- SEC_DEVICE_ID (section 17, R489)
def SEC_DEVICE_ID_DEVICE_ID : Field := ⟨0x040010, 0x10, 1, 0, 128, .ro, 0⟩
-- SEC_FLOOR (section 17, R489)
def SEC_FLOOR_FLOOR : Field := ⟨0x040020, 0x4, 1, 0, 32, .hw, 0⟩
-- SEC_DBG_NONCE (section 17, R489)
def SEC_DBG_NONCE_NONCE : Field := ⟨0x040040, 0x20, 1, 0, 256, .hw, 0⟩
-- SEC_MEAS (section 17, R489)
def SEC_MEAS_M : Field := ⟨0x040100, 0x20, 8, 0, 256, .hw, 0⟩
-- SEC_MEAS_CNT (section 17, R489)
def SEC_MEAS_CNT_COUNT : Field := ⟨0x040200, 0x4, 8, 0, 32, .hw, 0⟩

/-- The SEC_ rows of the register tables. -/
def secFields : List Field :=
  [SEC_LC_LC, SEC_LC_PORT, SEC_LC_NOFW,
   SEC_LC_IDFAIL, SEC_LC_LC_RESETS, SEC_CTRL_CLOSE,
   SEC_CTRL_RESEAL, SEC_DEVICE_ID_DEVICE_ID, SEC_FLOOR_FLOOR,
   SEC_DBG_NONCE_NONCE, SEC_MEAS_M, SEC_MEAS_CNT_COUNT]

/-! TEL_ registers. -/

-- TEL_CTRL (section 19, R519)
def TEL_CTRL_LEAD : Field := ⟨0x03F000, 0x4, 1, 0, 3, .ow, 0⟩
-- TEL_DSEQ (section 19, R519)
def TEL_DSEQ_DSEQ : Field := ⟨0x03F004, 0x4, 1, 0, 32, .hw, 1⟩
-- TEL_SAMPLE_CTRL (section 19, R519)
def TEL_SAMPLE_CTRL_PERIOD : Field := ⟨0x03F008, 0x4, 1, 0, 24, .ow, 3906⟩
def TEL_SAMPLE_CTRL_EN : Field := ⟨0x03F008, 0x4, 1, 24, 1, .ow, 0⟩
-- TEL_BOOT (section 19, R519)
def TEL_BOOT_BOOT : Field := ⟨0x03F00C, 0x4, 1, 0, 32, .hw, 0⟩
-- TEL_SRING_LO (section 19, R519)
def TEL_SRING_LO_BASE_LO : Field := ⟨0x03F010, 0x4, 1, 6, 26, .ow, 0⟩
-- TEL_SRING_HI (section 19, R519)
def TEL_SRING_HI_BASE_HI : Field := ⟨0x03F014, 0x4, 1, 0, 9, .ow, 0⟩
-- TEL_SRING_LEN (section 19, R519)
def TEL_SRING_LEN_LEN : Field := ⟨0x03F018, 0x4, 1, 0, 16, .ow, 0⟩
def TEL_SRING_LEN_POS : Field := ⟨0x03F018, 0x4, 1, 16, 16, .hw, 0⟩

/-- The TEL_ rows of the register tables. -/
def telFields : List Field :=
  [TEL_CTRL_LEAD, TEL_DSEQ_DSEQ, TEL_SAMPLE_CTRL_PERIOD,
   TEL_SAMPLE_CTRL_EN, TEL_BOOT_BOOT, TEL_SRING_LO_BASE_LO,
   TEL_SRING_HI_BASE_HI, TEL_SRING_LEN_LEN, TEL_SRING_LEN_POS]

/-- Every row of the register tables. -/
def all : List Field :=
  hrtFields ++ strFields ++ anvFields ++ memFields ++ updFields ++ netFields ++ kalFields ++ pwrFields ++ secFields ++ telFields

/-- The rows whose Reset value is not 0. -/
def nonzeroReset : List Field :=
  [HRT_CLK_STATUS_RUNNING, ANV_STATUS_LIVE_STRIPES, ANV_STATUS_STREAM,
   STR_ITAB_CTRL_LEN, STR_ITAB_CTRL_LEND, STR_ITAB_STATUS_ACTIVE_LEN,
   STR_ITAB_STATUS_ACTIVE_LEND, MEM_KV_CTRL_STALL_LIMIT, MEM_TS_PART_MSC,
   MEM_TS_PART_WIN, MEM_TS_PART_STAGE, MEM_TS_PART_FCAP,
   MEM_BELLOWS_CFG0_PROM_T, MEM_BELLOWS_CFG0_TS_T, MEM_BELLOWS_CFG1_PERIOD,
   MEM_BELLOWS_CFG1_MIG_MAX, MEM_BELLOWS_CFG2_LOW_WATER, MEM_BELLOWS_CFG2_CE_T,
   MEM_ARB_CFG_N, MEM_ARB_CFG_BG_SHARE, MEM_ARB_CFG_KEEP_WAYS,
   NET_PORT_CFG_PREEMPT, NET_FI_CTRL_REORDER_DEPTH, NET_FI_SEED_SEED,
   NET_XPORT_CFG_RTO, NET_XPORT_CFG_UNREACH, HRT_LEASE_LEASE_S,
   PWR_CAP_WATTS, PWR_PHASE_OP_FWD, PWR_PHASE_OP_BWD] ++
  [PWR_PHASE_OP_UPD, PWR_PHASE_OP_COMM, PWR_PHASE_OP_ROLL,
   PWR_STATUS_LIM_CAP, PWR_STATUS_DUTY, PWR_STATUS_MEM,
   PWR_ANV_OP_OP, PWR_ANV_OP_LIM_THERM, HRT_CD_HOLD_CD0,
   TEL_DSEQ_DSEQ, TEL_SAMPLE_CTRL_PERIOD]

end Reg

namespace Field

/-- The index of the register of a bank that an address lies in. -/
def indexOf (f : Field) (a : Nat) : Nat := (a - f.base) / f.stride

/-- The first bit, counted from the register's first word, that the word at an address holds. -/
def wordBit (f : Field) (a : Nat) : Nat := 8 * ((a - f.base) % f.stride)

/-- Whether the word at an address holds bits of the field. -/
def covers (f : Field) (a : Nat) : Bool :=
  decide (f.base ≤ a) && decide (a % 4 = 0) && decide (f.indexOf a < f.count) &&
    decide (f.lo < f.wordBit a + 32) && decide (f.wordBit a < f.lo + f.len)

/-- The field's bits within the word at an address it covers, as a mask. -/
def mask (f : Field) (a : Nat) : Nat :=
  let w := f.wordBit a
  ((2 ^ (f.lo + f.len) - 2 ^ f.lo) >>> w) % 2 ^ 32

/-- The field's Reset value within the word at an address it covers. -/
def resetPart (f : Field) (a : Nat) : Nat := ((f.reset <<< f.lo) >>> f.wordBit a) % 2 ^ 32

end Field

/-- The value of the word at a control-space address after power is applied from the Off state (R18). -/
def resetWord (a : Nat) : Word :=
  BitVec.ofNat 32 ((Reg.nonzeroReset.filter (·.covers a)).foldl (fun x f => x + f.resetPart a) 0)

/-- The bits of the word at an address that a write of the owner replaces (R15). -/
def owMask (a : Nat) : Nat :=
  (Reg.all.filter (fun f => f.acc == .ow && f.covers a)).foldl (fun x f => x + f.mask a) 0

/-- The bits of the word at an address that a write of 1 by the owner clears (R15). -/
def ow1cMask (a : Nat) : Nat :=
  (Reg.all.filter (fun f => f.acc == .ow1c && f.covers a)).foldl (fun x f => x + f.mask a) 0

end Sys2Proof.Machine
end

