-- ==== Sys2Proof/Machine/State.lean ====
section
/-!
DEFINITION. The state of the block: every register (in `ctl`, one word for each control-space address), memory with its
poison markers and tier map, and the internal state the rules name, grouped by the section of spec/ that names it.
-/
namespace Sys2Proof.Machine

/-- Why the machine stops: it has no constructor, since every command has an effect in every state. -/
inductive Fault
  deriving DecidableEq, Repr

/-- Why the model has no meaning for a command. -/
inductive Refusal where
  /-- Raised by an arm of `exec` whose command has no meaning yet; safe. -/
  | notModelled (mnemonic : String)
  deriving DecidableEq, Repr

/-- The status of a Kalec command or of a register write (R375); a busy one names its holder's class and index. -/
inductive KStat where
  | ok | busy (cls idx : Nat) | denied | range | stale | auth | version | poison
  deriving DecidableEq, Repr

/-! Memory and Bellows (spec/10_memory_tiers.md). -/

/-- The state of a page outside the reserved region (R270). -/
inductive PState where
  | unmapped | mapped | poisoned
  deriving DecidableEq, Repr

/-- A tier map entry (R270): tiers are 0 Tile Store scratchpad, 1 near, 2 deep. -/
structure TierEnt where
  state  : PState
  home   : Nat
  die    : Fin 2
  flags  : BitVec 2
  lock   : Bool
  shadow : Bool
  dirty  : Bool
  cpin   : Bool
  nframe : Nat
  dframe : Nat
  heat   : Nat
  touch  : BitVec 8
  deriving DecidableEq, Repr

/-- The entry of a page that is not mapped. -/
def TierEnt.unmapped : TierEnt := ⟨.unmapped, 0, 0, 0, false, false, false, false, 0, 0, 0, 0⟩

/-- A migration between its LOCK and its swing (R280), and whether a FREE waits for the swing (R281). -/
structure Mig where
  page      : Nat
  tier      : Nat
  frame     : Nat
  freeAfter : Bool
  deriving DecidableEq, Repr

/-- A move into a full tier that waits for the swing of a victim, or of any page where every candidate victim holds LOCK
(R278, R281); one that is forced evicts whatever its victim's HEAT. -/
structure Want where
  page   : Nat
  tier   : Nat
  victim : Option Nat
  force  : Bool
  deriving DecidableEq, Repr

/-- A line of a memory-side cache (R288 to R291); of a dirty one, the bytes and the marker that memory last held. -/
structure MscLine where
  line  : Nat
  stale : Option (BitVec 512 × Bool)
  prot  : Bool
  deriving DecidableEq, Repr

/-- Whether a cached line is dirty. -/
def MscLine.isDirty (c : MscLine) : Bool := c.stale.isSome

/-- A fill of a weight window ring (R284 to R287): lines not yet filled or unfilled again are in `missing`. -/
structure Fill where
  ring    : RingId
  desc    : Nat
  md      : Nat
  base    : Nat
  ivals   : List (Nat × Nat)
  missing : List Nat
  units   : Nat
  seq     : Nat
  user    : Option Nat
  deriving DecidableEq, Repr

/-- The operation of MEM_ALLOC_CTRL under way (R276). -/
structure AllocOp where
  op    : Nat
  die   : Nat
  base  : Nat
  pages : Nat
  deriving DecidableEq, Repr

/-- Who makes an access, for what the access counts: its die, its job slot, whether it is a foreground engine (R277),
and its HINT (R289). -/
structure Via where
  die  : Fin 2
  slot : Option (Fin 8)
  fg   : Bool
  hint : Nat
  deriving DecidableEq, Repr

/-- A write of data under a mask to a line of a window that is being zeroed, which waits for READY (R173). -/
structure LineWrite where
  via  : Via
  line : Nat
  data : Nat
  mask : Nat
  deriving DecidableEq, Repr

structure MemSys where
  tier     : Tab TierEnt
  poison   : Tab (BitVec 4096)
  migs     : List Mig
  wants    : List Want
  struck   : List Nat         -- window lines whose next add met an uncorrectable error and is not made (R181)
  held     : List LineWrite   -- writes that wait for a window's READY, in the order they came (R173)
  ledger   : Vector (List Nat) 2
  msc      : Vector (List MscLine) 2
  fills    : Vector (List Fill) 2
  ce       : Tab Nat
  retired  : List Nat
  mapMoved : List (Nat × Nat)
  alloc    : Option AllocOp
  part     : Vector Word 2
  degraded : List (Die × Bool × Nat)
  slagFull : Bool
  deriving DecidableEq, Repr

/-! Events and telemetry (spec/13 R393, spec/16 R457 and R458, spec/19). -/

/-- A journal block of one boot (R457), oldest record first, with its place among the 2,030. -/
structure JBlock where
  place : Nat
  boot : Word
  recs : List (BitVec 128)
  deriving DecidableEq, Repr

/-- A die's capture ring (R458): records oldest first, the index counted from arming, and whether the post-trigger
delay runs. -/
structure Capture where
  recs    : List (BitVec 512)
  index   : Nat
  posting : Bool
  deriving DecidableEq, Repr

structure Tel where
  log     : List (BitVec 128)
  lost    : Word
  unread  : List Nat          -- DSEQs of the log's records that READ_EVENTS has not returned (R368)
  ibiDue  : List Nat          -- those to be returned before the next in-band interrupt (R368)
  ibis    : Nat
  capture : Vector Capture 2
  lead    : Fin 8             -- the lead slot in force, as TEL_CTRL.LEAD stood at the last latch (R513)
  deriving DecidableEq, Repr

/-! Power, pins and clocks (spec/01, spec/14, spec/18). -/

/-- Whether the module runs: Off, held by MOD_RESET_N, running, or tripped by THERMTRIP with only Hearth powered. -/
inductive PMode where
  | off | held | on | tripped
  deriving DecidableEq, Repr

structure Power where
  mode      : PMode
  compute   : Bool            -- the Sprig and Anvil rails are up (R504)
  flowOk    : Bool            -- FLOW_OK past its 1 ms filter (R421, R504)
  hot       : Bool            -- the inlet average exceeds 45 °C (R412)
  latched   : Bool            -- VIN protection acted; PWR_EN must fall first (R495)
  addrSel   : BitVec 3
  slotId    : BitVec 3
  refBad    : Nat             -- bad REFCLK windows in succession (R30)
  refGood   : Nat             -- good windows in succession while REFCLK is lost (R31)
  below     : Nat             -- the cap loop's counts (R406)
  overs     : Nat
  metCount  : Nat             -- consecutive periods with p at or below cap (R408)
  lagClear  : Nat             -- consecutive periods without the GROUP_LAG condition (R401)
  entering  : Option Nat      -- the Doze (2) or Slumber (3) entry under way (R415, R416)
  fromDoze  : Bool            -- that entry began in Doze (R422)
  dozeHeld  : Bool            -- Quench was entered in Doze (R422)
  memAsleep : Bool            -- memory is in self-refresh
  bridgeBusy : List (Fin 2 × Fin 8)
  bridgeOut  : List (Fin 2 × Fin 8)
  alertHeld : Bool            -- TRAY_ALERT_N held low by the third Kalec restart (R448)
  droops    : List DroopDomain -- domains whose detector has fired (R404)
  charged   : Tab Nat         -- cycles that tiles charged in the period, key (anvil · 8 + slot) · 8 + phase (R424)
  gated     : Tab Nat         -- gated cycles charged in the period, key slot · 8 + phase (R154, R424)
  moved     : Tab Nat         -- lines moved by non-Anvil macro-ops in the period, key slot · 8 + phase (R424)
  deriving DecidableEq, Repr

/-! I3C, Kalec and ownership (spec/13). -/

/-- A Kalec request: its header, its CMD, and the command, none where the payload is not one of CMD's form. -/
structure Req where
  hdr  : KHdr
  code : Nat
  cmd  : Option KCmd
  deriving DecidableEq, Repr

/-- A response kept by a mailbox (R371): what it answered, and its frame. -/
structure Resp where
  cmd     : Nat
  hdr     : KHdr
  status  : Nat
  payload : List Byte
  frame   : List Byte
  deriving DecidableEq, Repr

/-- A mailbox (R370, R371): the request in progress with its command, the response kept, the bytes of the request area,
and a request cut short by a restart (R448). -/
structure Mbox where
  cur  : Option Req
  kept : Option Resp
  area : Tab Byte
  cut  : Option KHdr
  deriving DecidableEq, Repr

/-- A configuration write in progress (R392). -/
structure CfgWrite where
  entries : List (Word × Word)
  answer  : Bool
  deriving DecidableEq, Repr

structure Kalec where
  boxes    : Vector Mbox 16
  otok     : Word
  toks     : List Nat         -- 0 and every token drawn, rising (R380)
  leaseDue : Bool             -- the lease reached zero while an owner command executes (R382)
  claims   : List (KHdr × Nat)      -- the CLAIMs of the open window, in order (R381)
  hold15   : Bool                   -- the reservation is for any CLAIM of PRIORITY 15 (R385)
  running  : Option Req             -- the owner command executing, whose response waits for an event (R374)
  waiting  : List Req               -- commands waiting, in the order their requests started (R374, R524)
  early    : List Req               -- I3C requests that started before stage MEMORY, in that order (R374, R524)
  restart  : Bool                   -- the control processor restarts (R448)
  restartMem : Bool                 -- that restart was for an uncorrectable word
  cfgWrite : Option CfgWrite
  held     : List (Writer × Nat × Word)  -- register writes held until READY (R524, R525)
  i3cReply : List Byte
  stageTok : Option Word            -- the staging owner's OTOK (R395)
  quoting  : Option (KHdr × List Byte)
  activate : Option (KHdr × Nat)    -- the handover under way (R396)
  deriving DecidableEq, Repr

/-! Flash, fuses and Lendephor (spec/13 R389 to R394, spec/17). -/

/-- A firmware slot (R394): its header fields and image. SEQ is none while erased. -/
structure FwSlot where
  seq     : Option DWord
  version : Word
  length  : Word
  digest  : BitVec 256
  image   : Tab Byte
  staged  : Bool       -- holds a staging that is neither committed nor discarded
  commit  : Bool       -- a committed image whose SEQ is not yet programmed (R395)
  valid   : Bool       -- the digest and signature verify
  raw     : Bool       -- image words were written through the debug port since it was last verified (R474)
  deriving DecidableEq, Repr

/-- An erased firmware slot. -/
def FwSlot.erased : FwSlot := ⟨none, 0, 0, 0, [], false, false, false, false⟩

/-- A configuration copy (R390, R391): SEQ and DIGEST of its header, its entries, what Lendephor's signature in it was made
over, none where it holds none, and the word VALID. -/
structure CfgCopy where
  seq     : DWord
  entries : List (Word × Word)
  digest  : BitVec 256
  signed  : Option (List Byte)
  valid   : Word
  deriving DecidableEq, Repr

/-- An erased configuration copy. -/
def CfgCopy.erased : CfgCopy := ⟨BitVec.allOnes 64, [], BitVec.allOnes 256, none, BitVec.allOnes 32⟩

structure Flash where
  fw      : Vector FwSlot 2
  cfg     : Vector CfgCopy 2
  slag    : List (BitVec 128)
  journal : List JBlock
  begun   : Nat               -- journal blocks begun so far (R457)
  bad     : List Nat          -- journal blocks that failed and are skipped (R457)
  boot    : Word
  deriving DecidableEq, Repr

/-- Fuses and one-time-programmable rows (R468). -/
structure Fuses where
  lc     : Nat
  floors : List Word
  fences : List (BitVec 64)
  certPk : Option (BitVec 256)  -- the identity certificate's SUBJECT_PK, none where it is the derived key (R470, R473)
  deriving DecidableEq, Repr

structure Sec where
  debug    : Bool                 -- the Hearth-powered Debug state (R479)
  token    : Tab (Option Byte)    -- the token buffer, bytes written since the last FINAL (R486)
  accepted : Option (Nat × Word)  -- a checked token whose effect is due: KIND and ARG
  attCert  : List Byte
  quoteBuf : List Byte
  qseq     : Word
  everArm  : BitVec 8             -- ports whose fault injection has been armed (R476)
  toState  : Option Nat           -- the lifecycle a lifecycle reset enters (R480)
  deriving DecidableEq, Repr

/-! The debug port (R482 to R484). -/

/-- The MGT signals that the boundary register covers, in the order of their pins, one cell each (R483, R497). -/
inductive Pin where
  | i3cScl | i3cSda | pwrEn | modResetN | flowOk | thermtripN | trayAlertN | aux (n : Fin 2) | addrSel (i : Fin 3)
  | slotId (i : Fin 3) | presentN
  deriving DecidableEq, Repr

/-- The cells of the boundary register, cell 0 first. That each signal has one cell, in this order, is the model's choice
(DESIGN CHOICE): R483 leaves the register's description to a BSDL file. -/
def pinCells : List Pin :=
  [.i3cScl, .i3cSda, .pwrEn, .modResetN, .flowOk, .thermtripN, .trayAlertN, .aux 0, .aux 1, .addrSel 2, .addrSel 1,
    .addrSel 0, .slotId 2, .slotId 1, .slotId 0, .presentN]

/-- What the boundary scan does to the pins (R483). -/
inductive PinDrive where
  | functional | boundary | highz
  deriving DecidableEq, Repr

structure Tap where
  ir       : Nat
  boundary : BitVec 16             -- the boundary register's cells, as last scanned in
  captured : BitVec 16             -- what the boundary register captured from the pins
  drive    : PinDrive
  bypassed : Bool                   -- the instruction was not permitted and selects bypass
  pending  : Option (BitVec 84)     -- a debug access in progress
  dbg      : BitVec 84              -- what the next Capture-DR of DBGACC returns (R484)
  deriving DecidableEq, Repr

/-! Streams, the tile walker and the Anvils (spec/02, spec/05). -/

/-- What a tile forms: an output tile of the GEMM family; of attention a score tile, a value tile, dO·Vᵀ, or a part of
dV, dK or dQ (R212, R224); `unit` stands for a unit whose next tile has not been cut yet. -/
inductive TileKind where
  | gemm | unit | score | value | dP | dV | dK | dQ
  deriving DecidableEq, Repr

/-- A tile of the walk (R147 to R149, R212): the macro-op, the walk index or the unit's number, the extents, how often its
checks failed, and of an attention tile its kind and the block of its unit. -/
structure Tile where
  op    : Nat
  idx   : Nat
  r0    : Nat
  c0    : Nat
  h     : Nat
  w     : Nat
  fails : Nat
  ues   : Nat
  kind  : TileKind
  blk   : Nat
  deriving DecidableEq, Repr

/-- What the comparisons of a tile find: failing compute rows, failing physical columns, and whether the corner fails
(R59, R61, R118). -/
structure CheckFind where
  rows   : List Nat
  cols   : List Nat
  corner : Bool
  deriving DecidableEq, Repr

/-- A tile in the array or the hold buffer: its final values row by row as FP32 codes, what its work counts, whether it
consumed poison, the cycles its K steps take, the holds of R52, and what its comparisons find. -/
structure TileRun where
  tile    : Tile
  acc     : List (List Nat)
  ovf     : Nat
  skipped : Nat
  excl    : Nat
  poison  : Bool
  steps   : Nat
  holds   : Nat
  find    : CheckFind
  deriving DecidableEq, Repr

/-- A query row in the score unit: its running maximum, sum and output accumulators (R214), whether it became NaN, and
whether it consumed poison. -/
structure URow where
  m      : Nat
  l      : Nat
  o      : List Nat
  nan    : Bool
  poison : Bool
  deriving DecidableEq, Repr

/-- A key block of a unit in work, or a pair of a query block and a key block of ATTN_B: its number in the unit, its key
block, its rows by query row and head and by their place in the unit, its valid keys, the frames of its two pages, its
pass, how many of its tiles were cut, the pieces of each tile still to pass, the pieces that passed by first column, P and
dS with masked keys as none (R214, R223), and each row's alpha, none where the row skips the block. -/
structure UBlk where
  num    : Nat
  j      : Nat
  rows   : List (Nat × Nat)
  place  : List Nat
  n      : Nat
  frames : List (Option Nat)
  pass   : Nat
  stage  : Nat
  due    : List Nat
  got    : List (List (Nat × List (List Nat)))
  p      : Option (List (List (Option Nat)))
  ds     : Option (List (List (Option Nat)))
  alpha  : List (Option Nat)
  poison : Bool
  deriving DecidableEq, Repr

/-- A pass of a paged macro-op under way (R239): each sequence's record with GEN as read at the start, and its blocks not
yet drained. -/
structure UPass where
  num  : Nat
  gens : List (Nat × Nat)
  left : Nat
  deriving DecidableEq, Repr

/-- A unit of attention (R212, R224, R243): its key-value head, its stack (the key block of a KV unit), its query block,
whether its first tile entered, what is still to be worked by stack and block, the sequences of ATTN_D's present block not
yet grouped, blocks formed and not cut, blocks in work, rows, the sums of ATTN_B, the entries of a paged ATTN_F as read,
and passes under way. -/
structure AttnUnit where
  idx    : Nat
  head   : Nat
  stack  : Nat
  qb     : Nat
  kv     : Bool
  began  : Bool
  done   : Bool
  todo   : List (Nat × Nat)
  seqs   : List Nat
  fresh  : List UBlk
  blks   : List UBlk
  count  : Nat
  rows   : List URow
  acc    : List (List Nat)
  frames : List (Option Nat)
  passes : List UPass
  poison : Bool
  deriving DecidableEq, Repr

/-- The PLL switch of an Anvil (R402, R403, R449). -/
structure Pll where
  target  : Option Nat
  locked  : Bool
  defer   : Bool
  fails   : Nat
  failed  : Bool
  rail    : Nat     -- the point whose voltage the rail has, or is being raised to (R402)
  deriving DecidableEq, Repr

structure Anvil where
  array   : Option TileRun
  hold    : List TileRun
  rerun   : List Tile
  queue   : List Tile
  leaving : List (Nat × Nat × Nat)   -- tiles whose values the append unit takes: macro-op, first row and column (R236)
  table   : List Word
  lend    : Bool
  loan    : Option Nat
  charge  : Nat
  count   : Nat     -- the free-running count of its own cycles (R407)
  duty    : Nat     -- the duty in force, which changes at a block boundary (R407)
  switched : Bool
  worked  : Bool
  reqPt   : Nat
  point   : Nat
  pll     : Pll
  cool    : Nat
  deriving DecidableEq, Repr

/-- The work of a macro-op in flight. -/
inductive Work where
  /-- Its effect is made; its completion is due. -/
  | made
  /-- Anvil work: tiles not yet passed, of all (R147). -/
  | tiles (left : Nat)
  /-- An engine whose own commands bring the work to its end; the word names what is still due. -/
  | engine (left : Nat)
  /-- A SIGNAL or STEP_MARK whose flag write or latch is due once every earlier macro-op of its ring has completed
  (R317, R511). -/
  | due
  /-- It waits its turn at the Sprigs (R187, R248). -/
  | turn
  deriving DecidableEq, Repr

/-- A written matrix of a macro-op: its place among the descriptors, whether a valid element was written, and the
largest finite magnitude written, by its square (R98). -/
structure Out where
  md    : Nat
  wrote : Bool
  amax  : Nat × Int
  deriving DecidableEq, Repr

/-- A matrix that Sprig code writes through QBLK for a macro-op: the descriptor's address and words, the counter and the
exponent of T taken at its first block, and the largest finite magnitude written, by its square (R90, R98). -/
structure Blk where
  addr : Nat
  md   : Nat
  ctr  : Nat
  lt   : Int
  amax : Nat × Int
  deriving DecidableEq, Repr

/-- A macro-op in flight (R138 to R143). The lists `mds`, `shapes`, `scales`, `ctrs` and `olds` follow MD0 to MD4, the
masters of a turned A and B (R163), and the three outputs of ATTN_B (R226). -/
structure Op where
  id      : Nat
  ring    : RingId
  desc    : Nat
  addr    : Nat
  mds     : List Nat
  shapes  : List (Nat × Nat)
  scales  : List Int
  ctrs    : List Nat
  reads   : List (Nat × Nat)
  writes  : List (Nat × Nat)
  tracker : Bool
  flags   : Nat
  detail  : Nat
  warm    : Bool
  outs    : List Out
  cycles  : Nat
  serving : List Nat
  seen    : Nat            -- which of its first-time events were raised (R206, R232)
  olds    : List Int       -- exponents of T by which accumulated matrices are read
  lens    : List Nat       -- LEN of each listed sequence, read at issue (R239)
  units   : List AttnUnit
  prog    : List (Nat × Nat × Nat × Bool)  -- row pieces the append unit is done with: row, column, length, written (R235)
  blks    : List Blk       -- matrices that Sprig code of it writes through QBLK (R90, R98)
  work    : Work
  deriving DecidableEq, Repr

/-- A descriptor read and not yet issued (R138, R387): its words, its entry's address, what steps 1 to 4 made of it once
it reached step 5, whether it holds a tracker or waits for one, and whether a fence point let it pass. -/
structure Held where
  desc    : Nat
  addr    : Nat
  plan    : Option Op
  tracker : Bool
  queued  : Bool
  passed  : Bool
  deriving DecidableEq, Repr

/-- A ring's state beside its registers. -/
structure Ring where
  held   : Option Held
  poison : Bool
  ledger : Tab Nat      -- operations counted for each receive tag (R346)
  deriving DecidableEq, Repr

/-- A die's sequencer: trackers held, rings waiting for one in order, and the interleave table loaded or loading. -/
structure Seqr where
  waiters : List RingId
  loading : Option (Nat × Nat × Bool)
  pending : Option (List Word × Bool)
  deriving DecidableEq, Repr

/-- A slot's step boundary snapshot (R429). -/
structure Snap where
  step   : DWord
  ctrs   : Tab DWord
  cursor : List Byte
  energy : DWord
  deriving DecidableEq, Repr

/-- A job slot beside its registers (R34, R90, R429). -/
structure Slot where
  steps : DWord
  drawn : Option Nat          -- the counter value Lendephor's keys were drawn with (R386)
  keys  : Tab (BitVec 128)    -- keys restored from a slot state record
  ctrs  : Tab DWord
  snap  : Option Snap
  deriving DecidableEq, Repr

/-! The fabric transport and RoCEv2 (spec/12). -/

/-- A transport packet to be sent, without its PSN (R332): the macro-op or the layer entry it serves is named by `own`. -/
structure OutPkt where
  own    : Nat
  dst    : BitVec 16
  cls    : Nat
  kind   : Nat
  last   : Bool
  poison : Bool
  epoch  : Nat
  opId   : Nat
  offset : Nat
  unit   : Nat
  aux    : Nat
  code   : Nat
  tag    : Nat
  addr   : Nat
  data   : List Byte
  src    : Nat                 -- SRC_DEV, once it is sent
  peer   : Nat                 -- the peer's entry as its operation read it at issue (R364)
  deriving DecidableEq, Repr

/-- What a port sends. -/
inductive Frame where
  /-- A transport packet under its PSN, to the address of a position of the peer entry (R332, R334). -/
  | fabric (psn : Nat) (addr : Nat) (k : OutPkt)
  /-- A RoCEv2 request or response of a queue pair (R356): code 0 a write, 1 a read, 2 an ACK, 3 the remote access error
  NAK, 4 a read response, 5 the NAK of a PSN out of sequence. -/
  | roce (qp : Nat) (code : Nat) (psn : Nat) (addr : Nat) (key : Nat) (len : Nat) (data : List Byte)
  /-- A CNP (R356) with its 128-bit payload, zero as sent. -/
  | cnp (qp : Nat) (body : Nat)
  /-- An answer to ARP or neighbour solicitation (R329). -/
  | address (target : Nat) (mac : Nat)
  /-- A Kalec response datagram (R369). -/
  | datagram (ip : Nat) (udp : Nat) (data : List Byte)
  deriving DecidableEq, Repr

/-- The IP and UDP headers of a frame (R330, R332, R358): IPv6 or IPv4, source and destination address, DSCP, whether it
is marked ECT(0), and the UDP ports. -/
structure IpUdp where
  v6    : Bool
  src   : Nat
  dst   : Nat
  dscp  : Nat
  ect0  : Bool
  sport : Nat
  dport : Nat
  sum   : Option Nat           -- the UDP checksum of a transport packet (R332)
  deriving DecidableEq, Repr

/-- A frame that a port has sent (R328 to R332, R358): the destination and source MAC, the VID and PCP of its 802.1Q tag,
whether it is an express frame, its IP and UDP headers, the DEST_QPN of a RoCEv2 frame, its content, and of a transport packet
the bytes from the transport header to the CRC trailer. -/
structure Sent where
  port  : Nat
  mac   : Nat
  src   : Nat
  tag   : Option (Nat × Nat)
  express : Bool
  ip    : Option IpUdp
  dqp   : Option Nat
  frame : Frame
  wire  : List Byte
  deriving DecidableEq, Repr

/-- A packet sent and not yet answered (R333, R337). -/
structure Unacked where
  psn      : Nat
  pos      : Nat
  pkt      : OutPkt
  expiries : Nat
  busy     : Bool
  deriving DecidableEq, Repr

/-- The sending side of a connection (R333, R334): the NET_DEV_ID it is sent under, the receiver and the class, the next
PSN, the packets unanswered, those that wait for the window, and the dealing turn. -/
structure Conn where
  dev     : Nat
  dst     : BitVec 16
  cls     : Nat
  next    : Nat
  una     : List Unacked
  wait    : List OutPkt
  unreach : Bool
  turn    : Nat
  deriving DecidableEq, Repr

/-- The receiving side of a connection (R333, R335, R336), `dev` being the NET_DEV_ID it is sent to: every PSN below
`floor` and those in `above` are performed. -/
structure RxConn where
  dev   : Nat
  src   : BitVec 16
  cls   : Nat
  floor : Nat
  above : List Nat
  fresh : Nat
  ce    : Bool
  port  : Nat
  ip    : Nat
  marked : Option Nat         -- the operation whose flag carried the marker, for the ACK that answers it (R317)
  refused : List (Nat × Nat)  -- PSN and operation of remote SIGNALs whose flag carried the marker, for duplicates
  deriving DecidableEq, Repr

/-- The reception state of an operation (R338, R346): the byte ranges performed and the total once known. -/
structure Recept where
  src   : BitVec 16
  opId  : Nat
  got   : List (Nat × Nat)
  total : Option Nat
  unit  : Nat
  tag   : Nat
  deriving DecidableEq, Repr

/-- A collective in flight (R350 to R353): `own` is its macro-op, or the layer entry of a statistics all-reduce. -/
structure Coll where
  own     : Nat
  stats   : Bool
  slot    : Nat
  group   : Nat
  seq     : Nat
  size    : Nat
  rank    : Nat
  kind    : Nat
  bf16    : Bool
  src     : Nat
  dst     : Nat
  bytes   : Nat
  unit    : Nat
  epoch   : Nat
  succ    : Nat
  hint    : Nat
  reduced : List (Nat × Nat)
  final   : List (Nat × Nat)
  poison  : Bool
  deriving DecidableEq, Repr

/-- A port's fault injection (R359): its generator, and the frames held with how many later frames each still waits for.
-/
structure Inject where
  lfsr : Word
  held : List (Frame × Nat)
  deriving DecidableEq, Repr

/-- A RoCEv2 request sent and not yet answered: for which checkpoint and entry, and where a read's bytes go. -/
structure RoceOut where
  psn   : Nat
  own   : Nat
  entry : Nat
  read  : Bool
  place : Nat
  len   : Nat
  frame : Frame
  tries : Nat
  staged : Nat × Nat           -- lines of it that West's and East's checkpoint staging hold (R436)
  deriving DecidableEq, Repr

/-- A bound queue pair (R357, R358): the next PSN sent and the next expected, whether it is in its error state, its
requests unanswered, oldest first, and its rate in units of 2^-32 of the port's. -/
structure Qp where
  args   : QpArgs
  sq     : Nat
  rq     : Nat
  err    : Bool
  out    : List RoceOut
  rate   : Nat
  deriving DecidableEq, Repr

structure Net where
  conns   : List Conn
  rx      : List RxConn
  recs    : List Recept
  rates   : Tab Nat            -- the rate toward a peer, in units of 2^-32 of the usable ports' rate (R336)
  halved  : List Nat           -- peers whose rate was halved before
  colls   : List Coll
  seqs    : Tab Nat            -- collectives issued for each slot and group (R352)
  fi      : Vector Inject 8
  qps     : Tab (Option Qp)
  nextOp  : Nat                -- the number the next sent operation takes
  sent    : List Sent -- every frame sent
  shards  : List (Nat × Nat × Nat × Nat)  -- gradient shards of layers armed so far: entry, slot, base, bytes (R253)
  deriving DecidableEq, Repr

/-! The update engine and the Sprigs (spec/09). -/

/-- How far an armed layer has come (R254 to R265). -/
inductive LPhase where
  | chunks | statsDue | stats | ready | applying | applied
  deriving DecidableEq, Repr

/-- An armed layer (R251 to R266). -/
structure Layer where
  op      : Nat
  ring    : RingId
  entry   : Nat
  index   : Nat
  step    : Word
  sched   : Nat                -- the group's schedule entry as read at issue
  lr      : Nat
  landed  : List (Nat × Nat)
  signals : List Nat           -- chunks signalled
  next    : Nat                -- the next chunk to run
  trough  : List (Nat × List Byte × Bool)   -- lines held in the Trough: number, bytes as landed, marker
  running : Bool
  phase   : LPhase
  k       : Nat
  poison  : Bool
  stale   : Bool
  nonfin  : Bool
  nonN2   : Bool
  fallback : Bool
  recQ    : Option Int         -- T's exponent, once the compute copy's record took its issue update (R98, R99)
  ctr     : Nat                -- the counter of the compute copy's random stream, taken at issue (R90)
  amax    : Nat × Int          -- the largest finite magnitude handed to QBLK, by its square
  uratio  : Nat                -- URATIO as the APPLY handler left it
  deriving DecidableEq, Repr

/-- What runs on a Sprig. -/
inductive SprigJob where
  | program (op : Nat)
  | chunk (entry : Nat) (c : Nat)
  | apply (entry : Nat)
  deriving DecidableEq, Repr

/-- A Sprig (R245). -/
structure Sprig where
  v      : Vector (Vector Word 64) 32
  s      : Vector DWord 32
  p      : Vector DWord 8
  tv     : BitVec 32           -- registers that hold data derived from poison (R302)
  ts     : BitVec 32
  tp     : BitVec 8
  pivf   : DWord
  nonfin : Bool
  uratio : Word
  l1     : List (Nat × List Byte × Bool)  -- the lines its L1 holds: line, bytes, marker (R302, R324)
  imem   : Tab Byte
  entry  : Nat                 -- where the program or handler was entered, in 8-byte units (R248, R257)
  job    : Option SprigJob
  queue  : List (Nat × Option Nat)  -- handlers that are ready, in the order they became so: entry, and chunk or APPLY (R254)
  deriving DecidableEq, Repr

/-- An UPDATE with layers armed or whose sums the norm record has not taken (R262): its ring and norm record, and the
layers not yet reduced, with S by layer index. -/
structure Upd where
  op     : Nat
  ring   : RingId
  norm   : Nat
  sums   : Tab Nat
  left   : Nat
  normed : Bool
  defer  : Bool                -- CLIPMODE is DEFERRED
  clip   : Option (Option Nat) -- once formed: k, or none where N2 is not finite (R262)
  deriving DecidableEq, Repr

/-! Checkpoints (spec/15). -/

/-- An entry of a CKPT_DRAIN (R433 to R439). -/
structure CkEnt where
  kind   : Nat
  cmp    : Bool
  addr   : Nat
  bytes  : Nat
  remote : Nat
  parity : Nat
  pieces : List (Nat × Nat)    -- local addresses and lengths of the image's pieces
  status : Nat
  hold   : Bool                -- its HOLD bit is set and not yet cleared
  moved  : Bool                -- read into staging, or asked for, as a whole
  image  : List Byte           -- what has been read of its image, or received
  deriving DecidableEq, Repr

structure Ckpt where
  op      : Nat
  mode    : Nat
  ents    : List CkEnt
  result  : Nat
  table   : Bool               -- the local digest table is written
  deriving DecidableEq, Repr

/-! Key-value pools (spec/08). -/

/-- One page-table entry's work of an append (R233, R234): the row of a macro-op, the head, whether K or V, the values of
its dimensions from d0 on as FP32 codes, and whether they are poisoned. -/
structure App where
  op     : Nat
  row    : Nat
  head   : Nat
  isV    : Bool
  d0     : Nat
  vals   : List Nat
  poison : Bool
  tile   : Nat × Nat          -- the first row and column of the tile it drains from
  deriving DecidableEq, Repr

/-- A KV_FREE whose frames await their return (R238): its frames of count 0 in list order, and the walks it waits for. -/
structure FreeOp where
  op     : Nat
  frames : List Nat
  walks  : List Nat
  deriving DecidableEq, Repr

/-- A key-value pool beside its registers: the append unit's work, the wait of R236, sequences of macro-ops discarded from
a row on (R236), the head of the free ring, the limbo list (R238), KV_FREEs under way, and macro-ops that met an empty
free ring. -/
structure Pool where
  queue   : List App
  stalled : Bool
  dropped : List (Nat × Nat × Nat)
  head    : Nat
  limbo   : List Nat
  frees   : List FreeOp
  starved : List Nat
  deriving DecidableEq, Repr

/-- The state of the block. -/
structure State where
  ctl    : Tab Word
  mem    : Tab Byte
  ms     : MemSys
  tel    : Tel
  pw     : Power
  kal    : Kalec
  flash  : Flash
  fuses  : Fuses
  sec    : Sec
  tap    : Tap
  rings  : Vector Ring 48
  seqr   : Vector Seqr 2
  anv    : Vector Anvil 4
  ops    : List Op
  opNext : Nat
  slots  : Vector Slot 8
  net    : Net
  layers : List Layer
  upds   : List Upd
  sprigs : Vector Sprig 24
  ckpts  : List Ckpt
  pools  : Vector Pool 16
  wres   : KStat              -- the status of the last register write, which its path carries or not (R14, R16)
  pending : List Instr
  free   : Nat
  deriving DecidableEq, Repr

/-! The machine right after reset: the module Off, with the flash and fuses of a shipped module (R4, R468). -/

/-- An entry of the built-in interleave table (R157): slot ⌊i / 3⌋, stream i mod 3, quota 2,048. -/
def defaultEntry (i : Nat) : Word := BitVec.ofNat 32 (i / 3 + (i % 3) * 8 + 2048 * 256)

/-- The built-in interleave table of 24 entries, in LEND mode (R157). -/
def defaultTable : List Word := (List.range 24).map defaultEntry

namespace State

def memReset : MemSys where
  tier := []
  poison := []
  migs := []
  ledger := Vector.replicate 2 []
  msc := Vector.replicate 2 []
  fills := Vector.replicate 2 []
  ce := []
  retired := []
  mapMoved := []
  wants := []
  struck := []
  held := []
  alloc := none
  part := Vector.replicate 2 0x02104020
  degraded := []
  slagFull := false

def telReset : Tel where
  log := []
  lost := 0
  unread := []
  ibiDue := []
  ibis := 0
  capture := Vector.replicate 2 ⟨[], 0, false⟩
  lead := 0

def powerReset : Power where
  mode := .off
  compute := false
  flowOk := false
  hot := false
  latched := false
  addrSel := 0
  slotId := 0
  refBad := 0
  refGood := 0
  below := 0
  overs := 0
  metCount := 0
  lagClear := 0
  entering := none
  fromDoze := false
  dozeHeld := false
  memAsleep := false
  bridgeBusy := []
  bridgeOut := []
  alertHeld := false
  droops := []
  charged := []
  gated := []
  moved := []

def kalecReset : Kalec where
  boxes := Vector.replicate 16 ⟨none, none, [], none⟩
  otok := 0
  toks := [0]
  leaseDue := false
  claims := []
  hold15 := false
  running := none
  waiting := []
  early := []
  restart := false
  restartMem := false
  cfgWrite := none
  held := []
  i3cReply := []
  stageTok := none
  quoting := none
  activate := none

/-- The configuration copy of a shipped module: SEQ 1, no entries, and the digest and the signature that go with them
(R390). -/
def factoryCopy : CfgCopy := ⟨1, [], entryDigest [], some (signedBytes 1 [] (entryDigest [])), 0⟩

/-- The flash as shipped (R4): firmware in slot A with SEQ 1 (R394), slot B empty, one valid configuration copy of
default values, no Slag entry. -/
def flashFactory : Flash where
  fw := #v[⟨some 1, 1, 0, 0, [], false, false, true, false⟩, FwSlot.erased]
  cfg := #v[factoryCopy, CfgCopy.erased]
  slag := []
  journal := []
  begun := 0
  bad := []
  boot := 0

/-- The fuses as shipped: Sealed, no floor and no fence row written. -/
def fusesFactory : Fuses := ⟨1, [], [], none⟩

def secReset : Sec where
  debug := false
  token := []
  accepted := none
  attCert := []
  quoteBuf := []
  qseq := 0
  everArm := 0
  toState := none

def tapReset : Tap := ⟨0x01, 0, 0, .functional, false, none, 0⟩

def anvilReset : Anvil where
  array := none
  hold := []
  rerun := []
  queue := []
  leaving := []
  table := defaultTable
  lend := true
  loan := none
  charge := 0
  count := 0
  duty := 16
  switched := false
  worked := false
  reqPt := 15
  point := 15
  pll := ⟨none, false, false, 0, false, 15⟩
  cool := 0

def netReset : Net where
  conns := []
  rx := []
  recs := []
  rates := []
  halved := []
  colls := []
  seqs := []
  fi := Vector.replicate 8 ⟨1, []⟩
  qps := []
  nextOp := 0
  sent := []
  shards := []

def sprigReset : Sprig where
  v := Vector.replicate 32 (Vector.replicate 64 0)
  s := Vector.replicate 32 0
  p := Vector.replicate 8 0
  tv := 0
  ts := 0
  tp := 0
  pivf := 0
  nonfin := false
  uratio := 0
  l1 := []
  imem := []
  entry := 0
  job := none
  queue := []

/-- A machine Off, with the given flash and fuses. -/
def offWith (flash : Flash) (fuses : Fuses) : State where
  ctl := []
  mem := []
  ms := memReset
  tel := telReset
  pw := powerReset
  kal := kalecReset
  flash := flash
  fuses := fuses
  sec := secReset
  tap := tapReset
  rings := Vector.replicate 48 ⟨none, false, []⟩
  seqr := Vector.replicate 2 ⟨[], none, none⟩
  anv := Vector.replicate 4 anvilReset
  ops := []
  opNext := 0
  slots := Vector.replicate 8 ⟨0, none, [], [], none⟩
  net := netReset
  layers := []
  upds := []
  sprigs := Vector.replicate 24 sprigReset
  ckpts := []
  pools := Vector.replicate 16 ⟨[], false, [], 0, [], [], []⟩
  wres := .ok
  pending := []
  free := 0

/-- The machine right after reset: Off, with its factory flash and fuses (R4, R18). -/
def reset : State := offWith flashFactory fusesFactory

end State

end Sys2Proof.Machine
end

