-- ==== Sys2Proof/Machine/Ops.lean ====
section
/-!
DEFINITION. The named operations every family uses: fields of the control space, counters, free values, the
per-device sequence number, events with the interrupts and captures they cause, and whether the module runs.
-/
namespace Sys2Proof.Machine

namespace State

/-! The control space. -/

/-- The word at a control-space address. -/
def word (s : State) (a : Nat) : Word := Tab.get resetWord s.ctl a

/-- A word of the control space set. -/
def setWord (s : State) (a : Nat) (v : Word) : State := { s with ctl := Tab.set resetWord s.ctl a v }

/-- `n` consecutive words from an address as one little-endian number (R13). -/
def wordsAt (s : State) (a : Nat) : Nat → Nat
  | 0 => 0
  | n + 1 => (s.word a).toNat + 2 ^ 32 * s.wordsAt (a + 4) n

/-- `n` consecutive words set from one little-endian number (R13). -/
def setWordsAt (s : State) (a : Nat) : Nat → Nat → State
  | 0, _ => s
  | n + 1, v => setWordsAt (s.setWord a (BitVec.ofNat 32 v)) (a + 4) n (v / 2 ^ 32)

/-- The number of words from the one that holds a field's first bit to the one that holds its last. -/
def fieldWords (f : Field) : Nat := (f.lo + f.len + 31) / 32 - f.lo / 32

/-- The address of the word that holds the first bit of a field of the register of index i. -/
def fieldAddr (f : Field) (i : Nat) : Nat := f.base + f.stride * i + 4 * (f.lo / 32)

/-- A field of the register of index i. -/
def rd (s : State) (f : Field) (i : Nat) : Nat :=
  (s.wordsAt (fieldAddr f i) (fieldWords f) >>> (f.lo % 32)) % 2 ^ f.len

/-- A field set, by the hardware or after a check; other bits stand. -/
def wr (s : State) (f : Field) (i v : Nat) : State :=
  s.setWordsAt (fieldAddr f i) (fieldWords f)
    (putBits (s.wordsAt (fieldAddr f i) (fieldWords f)) (f.lo % 32 + f.len - 1) (f.lo % 32) v)

/-- A one-bit field. -/
def rdB (s : State) (f : Field) (i : Nat) : Bool := s.rd f i == 1

/-- A one-bit field set. -/
def wrB (s : State) (f : Field) (i : Nat) (b : Bool) : State := s.wr f i (b2n b)

/-- A counter raised by n, wrapping at its width. -/
def inc (s : State) (f : Field) (i n : Nat) : State := s.wr f i (s.rd f i + n)

/-- A counter raised by one, saturating at its largest value. -/
def incSat (s : State) (f : Field) (i : Nat) : State := s.wr f i (min (s.rd f i + 1) (2 ^ f.len - 1))

/-- Bytes read from consecutive words of the control space. -/
def ctlBytes (s : State) (a n : Nat) : List Byte := toBytes n (s.wordsAt a (n / 4))

/-- Words of a region of the control space set to 0; the region's Reset values are 0. -/
def zeroWords (s : State) (a n : Nat) : State :=
  { s with ctl := s.ctl.filter fun e => !within a (4 * n) e.1 }

/-- Words of one region of the control space copied to another; the Reset values of both are 0. -/
def copyWords (s : State) (dst src n : Nat) : State :=
  (s.ctl.filter fun e => within src (4 * n) e.1).foldl (fun t e => t.setWord (dst + (e.1 - src)) e.2) (s.zeroWords dst n)

/-! Free values (log entry 2). -/

/-- The state with the counter of free values advanced. -/
def tick (s : State) : State := { s with free := s.free + 1 }

/-- The state with the counter of free values advanced by n. -/
def tickN (s : State) (n : Nat) : State := { s with free := s.free + n }

/-- A free choice among n. -/
def choose (s : State) (n : Nat) : Nat := Config.choice s.free % n

/-! Whether the module runs. -/

/-- The start-up stage of HRT_BOOT (R522). -/
def stage (s : State) : Nat := s.rd Reg.HRT_BOOT_STAGE 0

/-- Whether the module is powered and not held in reset. -/
def powered (s : State) : Bool := s.pw.mode == .on

/-- Whether the control processor serves mailboxes: from stage MEMORY on, but for Slumber (R416, R524). -/
def kalecUp (s : State) : Bool := s.powered && s.stage ≥ 3 && s.stage ≠ 5 && s.rd Reg.PWR_STATUS_STATE 0 ≠ 3

/-- Whether the logical device space may be accessed: READY (R525), and memory not in self-refresh. -/
def memUp (s : State) : Bool := s.powered && s.stage == 4 && !s.pw.memAsleep

/-- Whether the module is in Quench (R421). -/
def quench (s : State) : Bool := s.rdB Reg.PWR_STATUS_QUENCH 0

/-- Whether the stream sequencers and engines work: READY, no Quench, Run or Idle. -/
def running (s : State) : Bool := s.memUp && !s.quench && s.rd Reg.PWR_STATUS_STATE 0 ≤ 1 && s.pw.compute

/-- Whether every Anvil is gated: none has a tile in its array. -/
def allGated (s : State) : Bool := s.anv.toList.all fun a => a.array.isNone

/-- PWR_STATUS as it reads: Idle is shown in Run while all four Anvils are gated (R426). -/
def pwrStatus (s : State) : Word :=
  let w := s.word 0x08000C
  if s.rd Reg.PWR_STATUS_STATE 0 = 0 && s.powered && s.stage == 4 && s.allGated then w + BitVec.ofNat 32 (2 ^ 22) else w

/-! The per-device sequence number and events. -/

/-- The value the next stamped item takes (R510). -/
def dseq (s : State) : Word := s.word 0x03F004

/-- The next DSEQ taken; the value 0 is passed over (R510). -/
def takeDseq (s : State) : State :=
  s.setWord 0x03F004 (if s.dseq + 1 = 0 then 1 else s.dseq + 1)

/-- A job slot's step count, bits [31:0]. -/
def stepLow (s : State) (slot : Fin 8) : Nat := s.slots[slot].steps.toNat % 2 ^ 32

/-- The state of a job slot (R37). -/
def slotState (s : State) (slot : Nat) : Nat := s.rd Reg.STR_SLOT_STATE_STATE slot

/-- The lead slot in force (R513). -/
def lead (s : State) : Fin 8 := s.tel.lead

/-- TEL_CTRL.LEAD takes effect, as it does at a latch (R513). -/
def takeLead (s : State) : State := { s with tel := { s.tel with lead := Fin.ofNat 8 (s.rd Reg.TEL_CTRL_LEAD 0) } }

/-- The step number of an event record (R393). -/
def eventStep (s : State) (slot : Option (Fin 8)) : Nat :=
  match slot with
  | some n => s.stepLow n
  | none => if s.slotState s.lead.val = 0 then 0 else s.stepLow s.lead

/-- An event record (R393, R463). -/
def eventRec (s : State) (code unit : Nat) (slot : Option (Fin 8)) (arg : Nat) : BitVec 128 :=
  let sl := match slot with
    | some n => n.val
    | none => 15
  BitVec.ofNat 128 (code + sl * 2 ^ 16 + (unit % 2 ^ 12) * 2 ^ 20 + s.dseq.toNat * 2 ^ 32 +
    s.eventStep slot * 2 ^ 64 + (arg % 2 ^ 32) * 2 ^ 96)

/-- The journal's next block (R457): from a place on, in turn, the first of the 2,030 that has not failed and whose erase
succeeds, none where all have failed; and the blocks that have failed by then. -/
def journalPlace (begun : Nat) : Nat → Nat → List Nat → Option Nat × List Nat
  | 0, _, bad => (none, bad)
  | n + 1, p, bad =>
    if bad.contains p then journalPlace begun n ((p + 1) % 2030) bad
    else if Config.eraseFails p begun then journalPlace begun n ((p + 1) % 2030) (bad ++ [p])
    else (some p, bad)

/-- A new block of the journal begun with a record: it takes the place of the oldest that stands there, and the records of
blocks that failed their erase are gone (R457). -/
def journalBegin (f : Flash) (bad : List Nat) (r : BitVec 128) : List JBlock × Nat × List Nat :=
  let start := match f.journal.getLast? with
    | some b => (b.place + 1) % 2030
    | none => 0
  let (p, bad') := journalPlace f.begun 2030 start bad
  let j := f.journal.filter fun b => bad.contains b.place || !bad'.contains b.place
  match p with
  | some p => (j.filter (·.place != p) ++ [⟨p, f.boot, [r]⟩], f.begun + 1, bad')
  | none => (j, f.begun, bad')

/-- A record appended to the journal: to the newest block of this boot, or to a new block where that is full, of another
boot, or fails the verification of the program, after which it is skipped and its records stay (R457). Answers the blocks,
how many were begun, and those that have failed. -/
def journalAppend (f : Flash) (r : BitVec 128) : List JBlock × Nat × List Nat :=
  match f.journal.getLast? with
  | none => journalBegin f f.bad r
  | some b =>
    if f.boot ≠ b.boot || 4095 ≤ b.recs.length then journalBegin f f.bad r
    else if Config.programFails b.place f.begun b.recs.length then journalBegin f (f.bad ++ [b.place]) r
    else (f.journal.dropLast ++ [{ b with recs := b.recs ++ [r] }], f.begun, f.bad)

/-- The sequence number of an event record (R393). -/
def recSeq (r : BitVec 128) : Nat := bits r.toNat 63 32

/-- The DSEQs of the records in the event log that READ_EVENTS has not returned, after a record enters (R368, R393). -/
def unreadWith (s : State) (r : BitVec 128) : List Nat :=
  let old := if s.tel.log.length ≥ 4096 then (s.tel.log.take 1).map recSeq else []
  s.tel.unread.filter (fun x => !old.contains x) ++ [recSeq r]

/-- A record entering the event log and the journal, with the in-band interrupt it may raise (R393, R457, R368). -/
def logRec (s : State) (r : BitVec 128) : State :=
  let full := s.tel.log.length ≥ 4096
  let ibi := s.rdB Reg.HRT_I3C_IBI_EN 0 && s.tel.ibiDue == []
  { s with
    tel := { s.tel with
      log := (if full then s.tel.log.drop 1 else s.tel.log) ++ [r]
      lost := if full then s.tel.lost + 1 else s.tel.lost
      unread := s.unreadWith r
      ibiDue := if ibi then s.unreadWith r else s.tel.ibiDue
      ibis := if ibi then s.tel.ibis + 1 else s.tel.ibis }
    flash := { s.flash with
      journal := (journalAppend s.flash r).1
      begun := (journalAppend s.flash r).2.1
      bad := (journalAppend s.flash r).2.2 } }

/-- An event without the captures it may trigger. -/
def note (s : State) (code unit : Nat) (slot : Option (Fin 8)) (arg : Nat) : State :=
  (s.logRec (s.eventRec code unit slot arg)).takeDseq

/-- The writing of a die's capture stops: TRIGGERED and UNREAD are set, ARM clears, EV_CAPTURE is raised and the
countdown is released (R458, R459). -/
def captureStops (s : State) (d : Fin 2) : State :=
  let c := s.tel.capture[d]
  let s := if s.rd Reg.MEM_FCAP_CTRL_POST d ≠ 0 then s.wr Reg.HRT_CD_HOLD_CD3 0 0 else s
  let s := { s with tel := { s.tel with capture := s.tel.capture.set d { c with posting := false } } }
  let s := ((s.wrB Reg.MEM_FCAP_STATUS_TRIGGERED d true).wrB Reg.MEM_FCAP_STATUS_UNREAD d true).wrB
    Reg.MEM_FCAP_CTRL_ARM d false
  s.note 0x040E d none (s.rd Reg.MEM_FCAP_STATUS_RECORDS d)

/-- A triggered capture with a post-trigger delay writes on (R458). -/
def capturePosts (s : State) (d : Fin 2) : State :=
  { s with tel := { s.tel with capture := s.tel.capture.set d { s.tel.capture[d] with posting := true } } }

/-- A die's capture stops; its EV_CAPTURE may itself trigger the other die's (R458). -/
def captureStop (s : State) (d : Fin 2) : State :=
  let s := s.captureStops d
  let e := 1 - d
  if s.rd Reg.MEM_FCAP_CTRL_TRIG_CODE e ≠ 0x040E || !s.rdB Reg.MEM_FCAP_CTRL_ARM e || s.tel.capture[e].posting then s
  else if s.rd Reg.MEM_FCAP_CTRL_POST e = 0 then s.captureStops e
  else s.capturePosts e

/-- A capture of a die that meets its trigger: with a post-trigger delay writing continues, else it stops (R458). -/
def captureTrigger (s : State) (d : Fin 2) : State :=
  if !s.rdB Reg.MEM_FCAP_CTRL_ARM d || s.tel.capture[d].posting then s
  else if s.rd Reg.MEM_FCAP_CTRL_POST d = 0 then s.captureStop d
  else s.capturePosts d

/-- The captures whose TRIG_CODE equals an event's code (R458); 0 triggers on no event. -/
def captureOn (s : State) (code : Nat) : State :=
  let go (s : State) (d : Fin 2) : State :=
    if code ≠ 0 && s.rd Reg.MEM_FCAP_CTRL_TRIG_CODE d = code then s.captureTrigger d else s
  go (go s 0) 1

/-- An event raised: its record, and the captures it triggers (R393, R458). -/
def raise (s : State) (code unit : Nat) (slot : Option (Fin 8)) (arg : Nat) : State :=
  (s.note code unit slot arg).captureOn code

/-- An event that carries a step number of its own (R264). -/
def raiseAt (s : State) (code unit : Nat) (slot : Option (Fin 8)) (arg step : Nat) : State :=
  let r := (s.eventRec code unit slot arg).toNat
  let low := r % 2 ^ 64 + step % 2 ^ 32 * 2 ^ 64
  ((s.logRec (BitVec.ofNat 128 (low + r / 2 ^ 96 * 2 ^ 96))).takeDseq).captureOn code

/-- An event whose argument takes a continuation record (R463). -/
def raiseLong (s : State) (code unit : Nat) (slot : Option (Fin 8)) (arg rest : Nat) : State :=
  ((s.note code unit slot arg).note 0 unit slot rest).captureOn code

/-- The capacity of a die's capture ring in records: FCAP units of 2 MiB (R268). -/
def captureCap (s : State) (d : Fin 2) : Nat := bits s.ms.part[d].toNat 27 24 * 32768

/-- An occurrence of a capture source (R458): written into the ring of a die whose capture is armed for it. -/
def capture (s : State) (d : Fin 2) (src body : Nat) : State :=
  if s.rdB Reg.MEM_FCAP_CTRL_ARM d && bit (s.rd Reg.MEM_FCAP_CTRL_SRC d) src && s.captureCap d ≠ 0 then
    let c := s.tel.capture[d]
    let r := BitVec.ofNat 512 (src + (c.index % 2 ^ 32) * 2 ^ 32 + body * 2 ^ 64)
    let recs := (if c.recs.length ≥ s.captureCap d then c.recs.drop 1 else c.recs) ++ [r]
    { s with tel := { s.tel with capture := s.tel.capture.set d { c with recs := recs, index := c.index + 1 } } }.wr
      Reg.MEM_FCAP_STATUS_RECORDS d recs.length
  else s

/-! Authority over register writes (R15, R16, R367, R377, R484). -/

/-- The owner's AGENT_ID (R377). -/
def ownerId (s : State) : Nat := s.rd Reg.HRT_OWNER_ID_AGENT_ID 0

/-- Whether ownership is held. -/
def owned (s : State) : Bool := s.rd Reg.HRT_OWNER_STATE 0 == 2

/-- Whether an AGENT_ID and OTOK are the owner's (R373 step 5). -/
def isOwner (s : State) (agent : DWord) (otok : Word) : Bool :=
  s.owned && agent.toNat == s.ownerId && otok == s.kal.otok

/-- Whether a writer acts as the owner. -/
def mayWrite (s : State) (w : Writer) : Bool :=
  match w with
  | .kalec agent otok => s.isOwner agent otok
  | .i3c => s.owned && s.rdB Reg.HRT_OWNER_VIA_I3C 0
  | .debug => s.rd Reg.SEC_LC_PORT 0 == 3

/-- Whether a path reaches the registers: Hearth answers I3C while it is powered, Kalec and the debug port while their
blocks run. -/
def pathUp (s : State) (w : Writer) : Bool :=
  match w with
  | .kalec _ _ => s.kalecUp && !s.kal.restart && s.kal.activate.isNone
  | .i3c => s.powered
  | .debug => s.powered && s.rd Reg.PWR_STATUS_STATE 0 != 3

/-- The status of a register write, which its path carries or not (R14, R16). -/
def writeStatus (s : State) (r : KStat) : State := { s with wres := r }

/-- A refused owner write: nothing changes but the status its path carries; a direct write to an OW or OW1C field counts
in BADFRAME of mailbox 0 (R16, R367). -/
def refuseWrite (s : State) (w : Writer) (addr : Nat) : State :=
  let s := s.writeStatus .denied
  if w = .i3c && (owMask addr != 0 || ow1cMask addr != 0) then s.incSat Reg.KAL_MB_STATUS_BADFRAME 0 else s

/-- Whether a register write is held until READY (R524, R525): a command's during stage MEMORY, a direct I3C write's to a
MEM_ or STR_ register then, and a debug write's to one at any time before READY. That a debug write is held so is the
model's choice (DESIGN CHOICE): R525 says only that no access to the logical device space is made before READY. -/
def heldBack (s : State) (w : Writer) (addr : Nat) : Bool :=
  let mem := addr / 0x10000 == 7 || addr / 0x10000 == 2
  match w with
  | .kalec _ _ => s.stage == 3
  | .i3c => s.stage == 3 && mem
  | .debug => s.stage != 4 && mem

/-- The holder named while Kalec restarts or hands over (R396, R448). -/
def kHeld (s : State) : Option KStat :=
  if s.kal.restart then some (.busy 12 (s.rd Reg.HRT_FW_RUNNING 0))
  else match s.kal.activate with
    | some (_, n) => some (.busy 12 n)
    | none => none

/-- A register write whose path does not reach the registers: nothing changes but the status of a command that finds Kalec
restarting or handing over (R396, R448). -/
def unserved (s : State) (w : Writer) : State := match w, s.kHeld with
  | .kalec _ _, some st => if s.kalecUp then s.writeStatus st else s
  | _, _ => s

/-- A register write at an address by a writer: refused without authority, held back until READY, or made with the
status it earns. -/
def regWrite (s : State) (w : Writer) (addr value : Nat) (f : State → State × KStat) : State :=
  if !s.pathUp w then s.unserved w
  else if !s.mayWrite w then s.refuseWrite w addr
  else if s.heldBack w addr then { s with kal := { s.kal with held := s.kal.held ++ [(w, addr, BitVec.ofNat 32 value)] } }
  else
    let (t, r) := f s
    t.writeStatus r

/-! Status fields that follow the state. -/

/-- The range trackers of a die in use: those of macro-ops in flight and of descriptors not yet issued (R140, R141). -/
def trackers (s : State) (d : Fin 2) : Nat :=
  (s.ops.filter fun o => o.tracker && o.ring.val / 24 == d.val).length +
    ((List.finRange 48).filter fun r => r.val / 24 == d.val && match s.rings[r].held with
      | some h => h.tracker
      | none => false).length

/-- The arming entries of a die held (R252). -/
def armed (s : State) (d : Fin 2) : Nat := (s.layers.filter fun l => l.ring.val / 24 == d.val).length

/-- The links that are up, port p in bit p (R522). -/
def links (s : State) : Nat :=
  (List.range 8).foldl (fun x p => x + s.rd Reg.NET_PORT_STATUS_LINK p * 2 ^ p) 0

/-- The trackers of a die in use, and their peak (R158). -/
def settleTrk (s : State) (d : Fin 2) : State :=
  let n := s.trackers d
  let s := s.wr Reg.STR_TRK_STATUS_IN_USE d n
  s.wr Reg.STR_TRK_STATUS_PEAK d (max n (s.rd Reg.STR_TRK_STATUS_PEAK d))

/-- The arming entries held on each die (R266). -/
def settleArmed (s : State) : State :=
  (s.wr Reg.UPD_STATUS_ARMED_W 0 (s.armed 0)).wr Reg.UPD_STATUS_ARMED_E 0 (s.armed 1)

/-- Whether an apply pass waits for the norm of its UPDATE under DEFERRED (R262, R266). -/
def clipHeld (s : State) : Bool :=
  s.upds.any fun u => u.defer && u.clip.isNone && s.layers.any fun l => l.op == u.op && l.phase == .ready

/-- The checkpoint drains in flight (R443). -/
def drains (s : State) : Nat := (s.ops.filter fun o => bits o.desc 7 0 == 0x41).length

/-- The status fields that follow the state brought up to date: range trackers, arming entries, the held clip factor, the
links that HRT_BOOT shows (R522) and the drains in flight. -/
def settle (s : State) : State :=
  let s := ((s.settleTrk 0).settleTrk 1).settleArmed
  let s := s.wrB Reg.UPD_STATUS_CLIP_WAIT 0 s.clipHeld
  let s := s.wr Reg.HRT_BOOT_LINKS 0 s.links
  s.wr Reg.UPD_CKPT_STATUS_INFLIGHT 0 s.drains

/-- The state after a command, its status fields brought up to date and its queue as given. -/
def done (s : State) (q : List Instr) : State := { s.settle with pending := q }

end State

/-- The outcome of a command that leads from s to t: its effect on everything but the queue. -/
def act (s t : State) : Host.Outcome State Fault Refusal := .next (t.done s.pending)

end Sys2Proof.Machine
end

