-- ==== Sys2Proof/Machine/Mem.lean ====
section
/-!
DEFINITION. The logical device space (spec/10, spec/11): reads of memory, of the tier map and of the doorbell page,
and the one operation that writes a line, with what a line access counts, the memory-side cache, poison, Crucible adds
(R175), and doorbells (R125, R126).
-/
namespace Sys2Proof.Machine

/-- An element put into a list kept in order. -/
def insertBy {α : Type} (le : α → α → Bool) (x : α) : List α → List α
  | [] => [x]
  | y :: ys => if le x y then x :: y :: ys else y :: insertBy le x ys

/-- A list sorted by a relation, equal elements in their order. -/
def sortBy {α : Type} (le : α → α → Bool) : List α → List α
  | [] => []
  | x :: xs => insertBy le x (sortBy le xs)

/-- The logical device space is 2 TiB (R22). -/
def spaceEnd : Nat := 2 ^ 41

/-- The first page of the reserved region (R271). -/
def resPage : Nat := 8386560

/-- The doorbell page (R125). -/
def doorbellPage : Nat := 8388607

/-- Frames of a tier on one die (spec/10, "Tiers of one die"). -/
def tierFrames (tier : Nat) : Nat := if tier = 0 then 1536 else if tier = 1 then 1048576 else 2097152

/-- A frame's key in the tables of frames. -/
def frameKey (tier : Nat) (die : Fin 2) (f : Nat) : Nat := (tier * 2 + die.val) * 2 ^ 22 + f

/-- What an unlisted page's entry is (R274). -/
def noEnt : Nat → TierEnt := fun _ => TierEnt.unmapped

/-- What a page with no marker listed holds. -/
def noPoison : Nat → BitVec 4096 := fun _ => 0

/-- Memory nothing has written reads as zero (R272, R276). -/
def noByte : Nat → Byte := fun _ => 0

/-- The words of a tier map entry (R270). -/
def TierEnt.encode (e : TierEnt) : Nat :=
  (match e.state with
    | .unmapped => 0
    | .mapped => 1
    | .poisoned => 2) +
  e.home * 2 ^ 3 + e.die.val * 2 ^ 5 + e.flags.toNat * 2 ^ 6 + b2n e.lock * 2 ^ 8 + b2n e.shadow * 2 ^ 9 +
  b2n e.dirty * 2 ^ 10 + b2n e.cpin * 2 ^ 11 + e.nframe * 2 ^ 16 + e.dframe * 2 ^ 64 + e.heat * 2 ^ 96 +
  e.touch.toNat * 2 ^ 112

/-- The frame of a tier that an entry names, as its home or as its shadow. -/
def TierEnt.frameIn (e : TierEnt) (tier : Nat) : Option Nat :=
  if e.state == .unmapped then none
  else if tier = 2 then (if e.home == 2 || e.shadow then some e.dframe else none)
  else if e.home == tier then some e.nframe else none

namespace State

/-- The tier map entry of a page. -/
def ent (s : State) (p : Nat) : TierEnt := Tab.get noEnt s.ms.tier p

/-- A tier map entry written; a change of mapping leaves neither die's ledger cache with it (R273). -/
def setEnt (s : State) (p : Nat) (e : TierEnt) : State :=
  let old := s.ent p
  let same := { old with heat := e.heat, touch := e.touch, dirty := e.dirty, lock := e.lock } == e
  { s with ms := { s.ms with
      tier := Tab.set noEnt s.ms.tier p e
      ledger := if same then s.ms.ledger else s.ms.ledger.map (·.filter (· != p)) } }

/-- Whether a page is mapped or poisoned. -/
def isMapped (s : State) (p : Nat) : Bool := (s.ent p).state != .unmapped

/-- The Tile Store frames that the partitions of a die need: those in force and those of a change under way (R268,
R269). -/
def partNeed (s : State) (die : Fin 2) : Nat :=
  let n (w : Nat) : Nat := 8 * (bits w 5 0 + bits w 15 8 + bits w 21 16 + bits w 27 24)
  max (n s.ms.part[die].toNat) (n (s.word (0x070000 + 4 * die.val)).toNat)

/-- The frames of a tier and die on the Slag list or out of use beside it (R304). -/
def retiredOf (s : State) (tier : Nat) (die : Fin 2) : List Nat :=
  (s.ms.retired.filter fun k => k / 2 ^ 22 == tier * 2 + die.val).map (· % 2 ^ 22)

/-- The first Tile Store frame of n frames of partitions: they are the highest-numbered frames that are not retired, so
that a retired one is replaced from the scratchpad (R268, R300). -/
def firstOf (s : State) (die : Fin 2) (n : Nat) : Nat :=
  (sortBy (fun a b => decide (b ≤ a)) (s.retiredOf 0 die)).foldl (fun first f => if first ≤ f then first - 1 else first)
    (1536 - n)

/-- The first Tile Store frame of a die that no page may take. -/
def partFirst (s : State) (die : Fin 2) : Nat := s.firstOf die (s.partNeed die)

/-- The frame that holds reserved page i of a die's maps (R271): near frame i, until an error moved it (R300). -/
def mapFrame (s : State) (die : Fin 2) (i : Nat) : Nat :=
  ((s.ms.mapMoved.find? (·.1 == die.val * 320 + i)).map (·.2)).getD i

/-- The index of the reserved page that a near frame of a die holds, if it holds one. -/
def mapIndex (s : State) (die : Fin 2) (f : Nat) : Option Nat :=
  match s.ms.mapMoved.find? (fun e => e.1 / 320 == die.val && e.2 == f) with
  | some e => some (e.1 % 320)
  | none => if f < 320 && !(s.ms.mapMoved.any (·.1 == die.val * 320 + f)) then some f else none

/-- The page whose entry names a frame, and whether as its shadow (R531). -/
def frameUser (s : State) (tier : Nat) (die : Fin 2) (f : Nat) : Option (Nat × Bool) :=
  (s.ms.tier.find? fun pe => let e := pe.2; e.state != .unmapped && e.die == die &&
    ((e.home == tier && (if tier = 2 then e.dframe else e.nframe) == f) || (tier == 2 && e.shadow && e.dframe == f))).map
    fun (p, e) => (p, tier == 2 && e.home != 2)

/-- Whether a frame is out of use: retired (R304), of a partition, or the destination of a migration (R531). -/
def unavailable (s : State) (tier : Nat) (die : Fin 2) (f : Nat) : Bool :=
  s.ms.retired.contains (frameKey tier die f) ||
  (tier == 0 && decide (s.partFirst die ≤ f)) ||
  s.ms.migs.any (fun m => m.tier == tier && m.frame == f && (s.ent m.page).die == die)

/-- Whether a frame is free for a page. -/
def isFreeFrame (s : State) (tier : Nat) (die : Fin 2) (f : Nat) : Bool :=
  !s.unavailable tier die f && (s.frameUser tier die f).isNone && !(tier == 1 && (s.mapIndex die f).isSome)

/-- The frames of a tier and die in use or out of use, below the partitions. -/
def takenFrames (s : State) (tier : Nat) (die : Fin 2) : Nat :=
  let lim := if tier = 0 then s.partFirst die else tierFrames tier
  let bad := (s.retiredOf tier die).filter fun f => decide (f < lim)
  let held := (s.ms.tier.filter fun pe => pe.2.die == die).filterMap fun pe => pe.2.frameIn tier
  (held.filter fun f => decide (f < lim) && !bad.contains f).length +
  (s.ms.migs.filter fun m => m.tier == tier && (s.ent m.page).die == die && decide (m.frame < lim)).length +
  bad.length + (if tier = 1 then 320 else 0)

/-- Free frames of a tier and die. -/
def freeFrames (s : State) (tier : Nat) (die : Fin 2) : Nat :=
  (if tier = 0 then s.partFirst die else tierFrames tier) - s.takenFrames tier die

/-- The first free frame from f on, looking at n frames. -/
def firstFree (s : State) (tier : Nat) (die : Fin 2) : Nat → Nat → Option Nat
  | 0, _ => none
  | n + 1, f => if s.isFreeFrame tier die f then some f else s.firstFree tier die n (f + 1)

/-- A free frame of a tier and die, if there is one: Bellows may take any (R270), so the free choice is taken where it
is free, and otherwise the lowest free frame. -/
def pickFrame (s : State) (tier : Nat) (die : Fin 2) : Option Nat :=
  let c := s.choose (tierFrames tier)
  if s.isFreeFrame tier die c then some c else s.firstFree tier die (tierFrames tier) 0

/-- The reverse-map entry of a frame (R531). -/
def revEntry (s : State) (tier : Nat) (die : Fin 2) (f : Nat) : Nat :=
  if s.ms.retired.contains (frameKey tier die f) then 3 * 2 ^ 30
  else match (if tier = 1 then s.mapIndex die f else none) with
    | some i => (resPage + 320 * die.val + i) + 2 ^ 30
    | none => match s.frameUser tier die f with
      | some (p, shadow) => p + (if shadow then 2 else 1) * 2 ^ 30
      | none => if s.unavailable tier die f then 3 * 2 ^ 30 else 0

/-- The word of the reverse maps at an offset of their region (R531). -/
def revWord (s : State) (o : Nat) : Nat :=
  let die : Fin 2 := Fin.ofNat 2 (o / 0x1000000)
  let x := o % 0x1000000
  if x < 0x800000 then s.revEntry 2 die (x / 4)
  else if x < 0xC00000 then s.revEntry 1 die ((x - 0x800000) / 4)
  else if (x - 0xC00000) / 4 < 1536 then s.revEntry 0 die ((x - 0xC00000) / 4)
  else 0

/-- A byte of the reserved region (R125, R271). -/
def resByte (s : State) (o : Nat) : Byte :=
  if o < 0x8000000 then
    let p := o / 16
    let e := if p < resPage then (s.ent p).encode else 3
    BitVec.ofNat 8 (e >>> (8 * (o % 16)))
  else if o < 0xA000000 then BitVec.ofNat 8 (s.revWord (o - 0x8000000) >>> (8 * (o % 4)))
  else if 0x1FFC0000 ≤ o ∧ (o - 0x1FFC0000) / 64 < 48 ∧ o % 64 < 4 then
    BitVec.ofNat 8 (s.rd Reg.STR_RING_TAIL_COUNT ((o - 0x1FFC0000) / 64) >>> (8 * (o % 4)))
  else 0

/-- A byte of the logical device space as any agent without an L1 reads it (R316). -/
def byte (s : State) (a : Nat) : Byte :=
  if a < resPage * 2 ^ 18 then Tab.get noByte s.mem a
  else if a < spaceEnd then s.resByte (a - resPage * 2 ^ 18)
  else 0

/-- `n` bytes from an address. -/
def bytesAt (s : State) (a n : Nat) : List Byte := (span a n).map s.byte

/-- The little-endian number of `n` bytes from an address (R9). -/
def peek (s : State) (a n : Nat) : Nat := ofBytes (s.bytesAt a n)

/-- Whether a line carries the poison marker (R302). -/
def linePoison (s : State) (line : Nat) : Bool :=
  (Tab.get noPoison s.ms.poison (line / 4096)).toNat.testBit (line % 4096)

/-- Whether a range of bytes touches a line that carries the marker. -/
def poisoned (s : State) (a n : Nat) : Bool :=
  n != 0 && (span (a / 64) ((a + n - 1) / 64 + 1 - a / 64)).any s.linePoison

/-- A line's marker set or cleared. -/
def setPoison (s : State) (line : Nat) (on : Bool) : State :=
  let p := line / 4096
  let m := Tab.get noPoison s.ms.poison p
  let b : BitVec 4096 := BitVec.ofNat 4096 (2 ^ (line % 4096))
  { s with ms := { s.ms with poison := Tab.set noPoison s.ms.poison p (if on then m ||| b else m &&& ~~~b) } }

/-- Memory bytes replaced, with no check and no count. -/
def putBytes (s : State) (a : Nat) : List Byte → State
  | [] => s
  | b :: bs => putBytes { s with mem := Tab.set noByte s.mem a b } (a + 1) bs

/-- The enabled Crucible window that holds a page (R172). -/
def windowOf (s : State) (page : Nat) : Option (Fin 16) :=
  (List.finRange 16).find? fun w => s.rdB Reg.MEM_CRU_CTRL_EN w.val &&
    within ((s.rd Reg.MEM_CRU_BASE_HI_BASE_HI w.val) * 2 ^ 14 + s.rd Reg.MEM_CRU_BASE_LO_BASE_LO w.val)
      (s.rd Reg.MEM_CRU_PAGES_PAGES w.val) page

/-- An access under R272: counted, and the first after a restart of the live counters raises EV_UNMAPPED. -/
def unmappedAccess (s : State) (v : Via) (page : Nat) : State :=
  let first := s.rd Reg.MEM_UNMAPPED_COUNT 0 = 0
  let s := s.inc Reg.MEM_UNMAPPED_COUNT 0 1
  if first then s.raise 0x0409 0 v.slot page else s

/-- A discarded write to the reserved region (R271). -/
def reservedWrite (s : State) (v : Via) (page : Nat) : State :=
  let first := s.rd Reg.MEM_RSV_WRITE_COUNT 0 = 0
  let s := s.inc Reg.MEM_RSV_WRITE_COUNT 0 1
  if first then s.raise 0x0408 0 v.slot page else s

/-! The memory-side cache (R288 to R291). -/

/-- The sets of a die's memory-side cache: 2,048 for each unit of its partition. -/
def mscSets (s : State) (d : Fin 2) : Nat := bits s.ms.part[d].toNat 5 0 * 2048

/-- The lines of a list that lie in the set of a line. -/
def mscSet (n line : Nat) (l : List MscLine) : List MscLine := l.filter fun c => c.line % n == line % n

/-- A line brought into its set, most recent first: a KEEP line beyond the quota replaces the set's least recent
protected line; otherwise a full set gives up an unprotected line, or a protected one where it holds no other, by the
free choice c. -/
def mscAlloc (n keepWays c line : Nat) (stale : Option (BitVec 512 × Bool)) (keep : Bool) (l : List MscLine) :
    List MscLine :=
  let set := mscSet n line l
  let prot := set.filter (·.prot)
  let unprot := set.filter (!·.prot)
  let keep := keep && keepWays ≠ 0
  let victim : Option MscLine :=
    if keep && prot.length ≥ keepWays then prot.getLast?
    else if set.length < 16 then none
    else if unprot ≠ [] then unprot[c % unprot.length]?
    else prot[c % prot.length]?
  let rest := match victim with
    | some x => l.filter (·.line != x.line)
    | none => l
  ⟨line, stale, keep⟩ :: rest

/-- The lines of a list that stay when its sets become n: of each set at most 16, protected lines before others and
the most recent first. -/
def mscReindex (n : Nat) (l : List MscLine) : List MscLine :=
  if n = 0 then []
  else
    let kept := (l.filter (·.prot) ++ l.filter (!·.prot)).foldl
      (fun (k : List MscLine) c => if (mscSet n c.line k).length < 16 then k ++ [c] else k) []
    l.filter fun c => kept.any (·.line == c.line)

/-- The protected lines of each set held to a quota: the least recent ones beyond it lose their protection (R290). -/
def mscQuota (n keepWays : Nat) (l : List MscLine) : List MscLine :=
  (l.foldl (fun (acc : List MscLine) c =>
    acc ++ [if c.prot && decide (keepWays ≤ ((mscSet n c.line acc).filter (·.prot)).length) then { c with prot := false } else c])
    [])

/-- A list of fills with the ring copy of a line unfilled (R287). -/
def unfilled (line : Nat) (f : Fill) : Fill :=
  if f.ivals.any (fun iv => decide (iv.1 ≤ 64 * line) && decide (64 * line < iv.2)) && !f.missing.contains line then
    { f with missing := f.missing ++ [line] }
  else f

/-- The ring copies of a line that a change of its home makes stale are unfilled (R287). -/
def unfill (s : State) (line : Nat) : State :=
  { s with ms := { s.ms with fills := s.ms.fills.map (·.map (unfilled line)) } }

/-- A dirty line dropped: memory holds what was last written back, the marker with it (R291). -/
def deadLine (s : State) (line : Nat) (b : BitVec 512) (marked : Bool) : State :=
  ((s.putBytes (64 * line) (toBytes 64 b.toNat)).setPoison line marked).unfill line

/-- An access of a cacheable line through its die's memory-side cache, by the HINT (R289). -/
def mscAccess (s : State) (d : Fin 2) (hint line : Nat) (write : Bool) : State :=
  let n := s.mscSets d
  if n = 0 then s
  else
    let l := s.ms.msc[d]
    let keepWays := s.rd Reg.MEM_ARB_CFG_KEEP_WAYS 0
    let put (s : State) (l : List MscLine) : State := { s with ms := { s.ms with msc := s.ms.msc.set d l } }
    let old := (BitVec.ofNat 512 (s.peek (64 * line) 64), s.linePoison line)
    match l.find? (·.line == line) with
    | some c =>
      let s := s.inc Reg.MEM_MSC_HIT_COUNT 0 1
      let rest := l.filter (·.line != line)
      if hint = 3 && !write then
        let s := put s rest
        match c.stale with
        | some (b, marked) => (s.inc Reg.MEM_MSC_DEAD_COUNT 0 1).deadLine line b marked
        | none => s
      else
        let room := ((mscSet n line rest).filter (·.prot)).length < keepWays
        let stale := if c.isDirty || !write then c.stale else some old
        put s (⟨line, stale, c.prot || (hint = 2 && room)⟩ :: rest)
    | none =>
      let s := s.inc Reg.MEM_MSC_MISS_COUNT 0 1
      if hint = 0 || hint = 2 then (put s (mscAlloc n keepWays (Config.choice s.free) line (if write then some old else none) (hint = 2) l)).tick
      else s

/-! What an access of a line counts. -/

/-- A use of a die's ledger cache of 65,536 entries (R273); what a full cache evicts is free. -/
def ledgerUse (s : State) (d : Fin 2) (page : Nat) : State :=
  let l := s.ms.ledger[d]
  if l.contains page then s
  else
    let l' := if l.length ≥ 65536 then l.eraseIdx (Config.choice s.free % 65536) else l
    ({ s with ms := { s.ms with ledger := s.ms.ledger.set d (page :: l') } }.inc Reg.MEM_LEDGER_MISS_COUNT 0 1).tick

/-- The accounting of one access of a line of a mapped page: ledger, HEAT, TOUCH (R270, R273, R277), cache (R288). -/
def touchLine (s : State) (v : Via) (line : Nat) (write : Bool) : State :=
  let page := line / 4096
  let s := s.ledgerUse v.die page
  let e := s.ent page
  let e' := { e with
    heat := if v.fg then min (e.heat + 1) 65535 else e.heat
    touch := match v.slot with
      | some n => e.touch ||| BitVec.ofNat 8 (2 ^ n.val)
      | none => e.touch
    dirty := e.dirty || (write && e.shadow) }
  let s := s.setEnt page e'
  if e.home ≠ 0 && (s.windowOf page).isNone then s.mscAccess e.die v.hint line write else s

/-- Whether a line lies outside the reserved region. -/
def plainLine (line : Nat) : Bool := decide (line / 4096 < resPage)

/-- The accounting of a read of one line; reading a marker counts (R272, R302). -/
def readLine (s : State) (v : Via) (line : Nat) : State :=
  if !plainLine line then s
  else if !s.isMapped (line / 4096) then (s.ledgerUse v.die (line / 4096)).unmappedAccess v (line / 4096)
  else
    let s := if s.linePoison line then s.inc Reg.MEM_POISON_READS_COUNT 0 1 else s
    s.touchLine v line false

/-- The accounting of a read of n bytes from an address. -/
def readRange (s : State) (v : Via) (a n : Nat) : State :=
  if n = 0 then s
  else (span (a / 64) ((a + n - 1) / 64 + 1 - a / 64)).foldl (fun s l => s.readLine v l) s

/-! Doorbells (R125 to R127). -/

/-- The die of a ring. -/
def ringDie (r : RingId) : Fin 2 := Fin.ofNat 2 (r.val / 24)

/-- The job slot of a ring. -/
def ringSlot (r : RingId) : Fin 8 := Fin.ofNat 8 (r.val % 24 / 3)

/-- The stream of a ring: 0 F, 1 B, 2 U. -/
def ringStream (r : RingId) : Nat := r.val % 3

/-- A doorbell of a ring with value T (R126). -/
def doorbellValue (s : State) (r : RingId) (t : Nat) : State :=
  let bad := s.incSat Reg.STR_RING_STAT_BADDB r.val
  let log2n := s.rd Reg.STR_RING_CFG_LOG2N r.val
  if s.slotState (ringSlot r).val = 0 then bad
  else if log2n ≠ 0 ∧ (t + 2 ^ 32 - s.rd Reg.STR_RING_HEAD_COUNT r.val) % 2 ^ 32 ≤ 2 ^ log2n ∧
      (t + 2 ^ 32 - s.rd Reg.STR_RING_TAIL_COUNT r.val) % 2 ^ 32 < 2 ^ 31 then
    s.wr Reg.STR_RING_TAIL_COUNT r.val t
  else bad.raise 0x0302 r.val (some (ringSlot r)) t

/-- A write of data under a bit mask to a line of the doorbell page (R125). -/
def doorbellLine (s : State) (line data mask : Nat) : State :=
  if h : line < 48 then
    if mask = 2 ^ 32 - 1 then s.doorbellValue ⟨line, h⟩ (data % 2 ^ 32)
    else s.incSat Reg.STR_RING_STAT_BADDB line
  else s

/-! Writes. -/

/-- The data a Crucible add leaves in a line: each wholly enabled word becomes the sum (R175). -/
def addWords (old data mask : Nat) : Nat :=
  (List.range 16).foldl (fun acc i =>
    let o := bits old (32 * i + 31) (32 * i)
    let v := if bits mask (32 * i + 31) (32 * i) = 0 then o else f32Add o (bits data (32 * i + 31) (32 * i))
    acc + v * 2 ^ (32 * i)) 0

/-- Whether a mask enables part of some 32-bit word (R176). -/
def partWord (mask : Nat) : Bool :=
  (List.range 16).any fun i => let m := bits mask (32 * i + 31) (32 * i); m != 0 && m != 2 ^ 32 - 1

/-- A line's 512 bits replaced under a mask, in memory itself. -/
def mergeLine (s : State) (line data mask : Nat) : State :=
  let old := s.peek (64 * line) 64
  s.putBytes (64 * line) (toBytes 64 (old ^^^ ((old ^^^ data) &&& mask)))

/-- The add that an uncorrectable error struck is not made (R181). -/
def addMet (s : State) (line : Nat) : State := { s with ms := { s.ms with struck := s.ms.struck.filter (· != line) } }

/-- A write of data under a bit mask to one line (R309, R312, R323): to the doorbell page, the reserved region, an
unmapped page, an enabled Crucible window (unless it is one of the updates of R175 that replace), where it waits for READY
while the window is being zeroed (R173), or memory. -/
def writeLine (s : State) (v : Via) (line data mask : Nat) (replace : Bool) : State :=
  let page := line / 4096
  if mask = 0 || decide (spaceEnd / 64 ≤ line) then s
  else if page = doorbellPage then s.doorbellLine (line % 4096) data mask
  else if !plainLine line then s.reservedWrite v page
  else if !s.isMapped page then (s.ledgerUse v.die page).unmappedAccess v page
  else
    let s0 := s
    let s := (s.touchLine v line true).unfill line
    match (if replace then none else s.windowOf page) with
    | some w =>
      if s.rdB Reg.MEM_CRU_STATUS_ZEROING w.val then { s0 with ms := { s0.ms with held := s0.ms.held ++ [⟨v, line, data, mask⟩] } }
      else if partWord mask then
        let first := (line % 4096) % 2 ^ 12
        let base := (s.rd Reg.MEM_CRU_BASE_HI_BASE_HI w.val) * 2 ^ 14 + s.rd Reg.MEM_CRU_BASE_LO_BASE_LO w.val
        ((s.incSat Reg.MEM_CRU_STATUS_PARTIAL_COUNT w.val).wrB Reg.MEM_CRU_STATUS_PARTIAL w.val true).raise 0x0402
          first v.slot (w.val + (page - base) * 16)
      else if s.ms.struck.contains line then
        s.addMet line
      else
        let s := s.inc Reg.MEM_CRU_ADDS_COUNT w.val 1
        s.mergeLine line (addWords (s.peek (64 * line) 64) data mask) mask
    | none =>
      let s := s.mergeLine line data mask
      if mask = 2 ^ 512 - 1 then s.setPoison line false else s

/-- The lines of a byte string stored at an address: line, data and mask of each. -/
def linesOf (a : Nat) (bs : List Byte) : List (Nat × Nat × Nat) :=
  let n := bs.length
  if n = 0 then []
  else (span (a / 64) ((a + n - 1) / 64 + 1 - a / 64)).map fun line =>
    let lo := max a (64 * line)
    let hi := min (a + n) (64 * line + 64)
    let part := (bs.drop (lo - a)).take (hi - lo)
    (line, ofBytes part * 2 ^ (8 * (lo % 64)), (2 ^ (8 * (hi - lo)) - 1) * 2 ^ (8 * (lo % 64)))

/-- Bytes written at an address, one indivisible write for each line (R323). -/
def store (s : State) (v : Via) (a : Nat) (bs : List Byte) : State :=
  (linesOf a bs).foldl (fun s (l, d, m) => s.writeLine v l d m false) s

/-- An indivisible update of the Fercel's own that replaces the bytes it writes, in a window too (R175). -/
def update (s : State) (v : Via) (a : Nat) (bs : List Byte) : State :=
  (linesOf a bs).foldl (fun s (l, d, m) => s.writeLine v l d m true) s

/-- A marker put on every line of a range, as the output of poisoned data carries it (R302); ring copies of the lines are
unfilled (R287). -/
def poisonRange (s : State) (a n : Nat) : State :=
  if n = 0 then s
  else (span (a / 64) ((a + n - 1) / 64 + 1 - a / 64)).foldl
    (fun s l => if plainLine l && s.isMapped (l / 4096) then (s.setPoison l true).unfill l else s) s

/-- A LAST_USE read takes the 32-bit words it reads, in whole or in part, from an enabled window: they become +0, and a
marker clears (R178, R181). -/
def takeRange (s : State) (a n : Nat) : State :=
  (linesOf (a / 4 * 4) (List.replicate (if n = 0 then 0 else (a + n + 3) / 4 * 4 - a / 4 * 4) (0 : Byte))).foldl
    (fun s (l, d, m) =>
      if plainLine l && (s.windowOf (l / 4096)).isSome then
        let p := s.linePoison l
        let s := (s.mergeLine l d (if p then 2 ^ 512 - 1 else m)).unfill l
        if p then s.setPoison l false else s
      else s) s

/-- What a read under a matrix descriptor's hint takes of a range it has read: LAST_USE takes from a window (R178). -/
def takeHint (s : State) (md a n : Nat) : State := if bits md 78 77 = 3 then s.takeRange a n else s

/-- Whether some lines lie in a window that is being zeroed, whose accesses wait (R173). -/
def zeroing (s : State) (ivals : List (Nat × Nat)) : Bool :=
  (List.finRange 16).any fun w => s.rdB Reg.MEM_CRU_STATUS_ZEROING w.val &&
    let b := (s.rd Reg.MEM_CRU_BASE_HI_BASE_HI w.val * 2 ^ 14 + s.rd Reg.MEM_CRU_BASE_LO_BASE_LO w.val) * 4096
    let e := b + s.rd Reg.MEM_CRU_PAGES_PAGES w.val * 4096
    ivals.any fun x => decide (x.1 < e) && decide (b < x.2)

end State

end Sys2Proof.Machine
end

