-- ==== Sys2Proof/Machine/Bellows.lean ====
section
/-!
DEFINITION. Bellows, the tier engine (spec/10): allocation, sweeps and migration, the Tile Store partitions, weight
ranges, Crucible windows (spec/06), errors, poison and the Slag list, scrub and retraining (spec/16).
-/
namespace Sys2Proof.Machine

namespace State

/-! Regions that registers name. -/

/-- A page-aligned range's first page from its BASE_HI and BASE_LO fields. -/
def rangeBase (s : State) (hi lo : Field) (i : Nat) : Nat := s.rd hi i * 2 ^ 14 + s.rd lo i

/-- The first page and the length of Crucible window w. -/
def windowRange (s : State) (w : Nat) : Nat × Nat :=
  (s.rangeBase Reg.MEM_CRU_BASE_HI_BASE_HI Reg.MEM_CRU_BASE_LO_BASE_LO w, s.rd Reg.MEM_CRU_PAGES_PAGES w)

/-- The first page and the length of weight range r. -/
def weightRange (s : State) (r : Nat) : Nat × Nat :=
  (s.rangeBase Reg.MEM_WR_BASE_HI_BASE_HI Reg.MEM_WR_BASE_LO_BASE_LO r, s.rd Reg.MEM_WR_PAGES_PAGES r)

/-- The base address of pool p's region. -/
def poolBase (s : State) (p : Nat) : Nat :=
  s.rd Reg.MEM_KV_BASE_HI_BASE_HI p * 2 ^ 32 + s.rd Reg.MEM_KV_BASE_LO_BASE_LO p * 2 ^ 12

/-- Pool p's head dimension D (R243). -/
def poolD (s : State) (p : Nat) : Nat := 32 * (s.rd Reg.MEM_KV_CFG_DCODE p + 1)

/-- The bytes of one frame of pool p (R229). -/
def poolFB (s : State) (p : Nat) : Nat :=
  4096 + (if s.rd Reg.MEM_KV_CFG_FMT p = 0 then 512 else 256) * s.poolD p

/-- The entries of pool p's free ring (R228). -/
def poolRS (s : State) (p : Nat) : Nat :=
  let n := s.rd Reg.MEM_KV_CFG_NFRAMES p
  if n ≤ 1 then 1 else 2 ^ ((n - 1).log2 + 1)

/-- The offset of the first frame within pool p's region (R228). -/
def poolFrames0 (s : State) (p : Nat) : Nat := ceilDiv (4 * s.poolRS p + 2 * s.rd Reg.MEM_KV_CFG_NFRAMES p) 4096 * 4096

/-- The length of pool p's region in bytes (R228). -/
def poolBytes (s : State) (p : Nat) : Nat := s.poolFrames0 p + s.rd Reg.MEM_KV_CFG_NFRAMES p * s.poolFB p

/-- Whether byte ranges given by start and length overlap. -/
def overlaps (a n b m : Nat) : Bool := n != 0 && m != 0 && decide (a < b + m) && decide (b < a + n)

/-- The first enabled Crucible window, other than `self`, that overlaps a byte range. -/
def windowOver (s : State) (self : Option Nat) (a n : Nat) : Option Nat :=
  (List.range 16).find? fun w => some w != self && s.rdB Reg.MEM_CRU_CTRL_EN w &&
    overlaps a n ((s.windowRange w).1 * 2 ^ 18) ((s.windowRange w).2 * 2 ^ 18)

/-- The first enabled pool, other than `self`, that overlaps a byte range. -/
def poolOver (s : State) (self : Option Nat) (a n : Nat) : Option Nat :=
  (List.range 16).find? fun p => some p != self && s.rdB Reg.MEM_KV_CTRL_EN p &&
    overlaps a n (s.poolBase p) (s.poolBytes p)

/-! Pages. -/

/-- A page's lines leave the memory-side cache of its die; dirty ones are written back. -/
def dropCached (s : State) (p : Nat) : State :=
  { s with ms := { s.ms with msc := s.ms.msc.map (·.filter (·.line / 4096 != p)) } }

/-- The ring copies of a page's lines unfilled, as a change of its bytes makes them stale (R287). -/
def unfillPage (s : State) (p : Nat) : State :=
  let lines (f : Fill) : List Nat := f.ivals.flatMap fun iv =>
    let lo := max iv.1 (p * 2 ^ 18)
    let hi := min iv.2 ((p + 1) * 2 ^ 18)
    if lo < hi then span (lo / 64) (ceilDiv hi 64 - lo / 64) else []
  { s with ms := { s.ms with fills := s.ms.fills.map (·.map fun f => (lines f).foldl (fun f l => unfilled l f) f) } }

/-- A page's bytes read as zero and carry no marker. -/
def zeroPage (s : State) (p : Nat) : State :=
  { s.unfillPage p with
    mem := s.mem.filter fun e => e.1 / 2 ^ 18 != p
    ms := { (s.unfillPage p).ms with poison := Tab.set noPoison s.ms.poison p 0 } }

/-- A page becomes UNMAPPED, its frames free (R276). -/
def unmapPage (s : State) (p : Nat) : State := ((s.zeroPage p).dropCached p).setEnt p .unmapped

/-- The page freed now, or at its swing when it holds LOCK (R276, R281). -/
def freePage (s : State) (p : Nat) : State :=
  if (s.ent p).lock then
    { s with ms := { s.ms with migs := s.ms.migs.map fun m => if m.page = p then { m with freeAfter := true } else m } }
  else s.unmapPage p

/-- A page mapped into a zeroed frame of a tier (R276). -/
def mapPage (s : State) (p tier frame : Nat) (die : Fin 2) (flags : BitVec 2) : State :=
  (s.zeroPage p).setEnt p { TierEnt.unmapped with
    state := .mapped, home := tier, die := die, flags := flags
    nframe := if tier = 2 then 0 else frame, dframe := if tier = 2 then frame else 0 }

/-! Migration (R278 to R281). -/

/-- Whether a page may be moved: MAPPED, not locked, not pinned by a window. -/
def movable (e : TierEnt) : Bool := e.state == .mapped && !e.lock && !e.cpin

/-- A page's shadow freed (R279). -/
def dropShadow (s : State) (p : Nat) : State :=
  s.setEnt p { s.ent p with shadow := false, dirty := false, dframe := 0 }

/-- The coldest page of a die that has a shadow, ties to the lower page. -/
def coldShadow (s : State) (d : Fin 2) : Option Nat :=
  ((sortBy (fun (x y : Nat × TierEnt) => decide (x.2.heat ≤ y.2.heat))
    (s.ms.tier.filter fun pe => pe.2.die == d && pe.2.shadow)).head?).map (·.1)

/-- A destination frame, freeing the coldest shadow where no deep frame is free (R279). -/
def destFrame (s : State) (tier : Nat) (d : Fin 2) : State × Option Nat :=
  match s.pickFrame tier d with
  | some f => (s.tick, some f)
  | none =>
    if tier = 2 then
      match s.coldShadow d with
      | some p => let s := s.dropShadow p; (s.tick, s.pickFrame 2 d)
      | none => (s, none)
    else (s, none)

/-- A page's copy to a frame of a tier started: LOCK is set and the frame taken (R280 steps 1 and 2). Answers whether
the page moves. -/
def beginMove (s : State) (p tier : Nat) : State × Bool :=
  let e := s.ent p
  if !movable e then (s, false)
  else match s.destFrame tier e.die with
    | (s, none) => (s, false)
    | (s, some f) =>
      let s := s.setEnt p { s.ent p with lock := true }
      ({ s with ms := { s.ms with migs := s.ms.migs ++ [⟨p, tier, f, false⟩] } }, true)

/-- A move of a page to another tier started. A demotion to deep of a clean shadow is done at once, with no copy
(R279). -/
def startMove (s : State) (p tier : Nat) : State × Bool :=
  let e := s.ent p
  if !movable e || e.home == tier then (s, false)
  else if tier = 2 && e.shadow && !e.dirty then
    ((s.setEnt p { e with home := 2, nframe := 0, shadow := false }).inc Reg.MEM_DEMOTE_COUNT 0 1, true)
  else s.beginMove p tier

/-- The pages of a die that Bellows keeps, in page order. -/
def diePages (s : State) (d : Fin 2) : List Nat :=
  (s.ms.tier.filter fun pe => pe.2.die == d && pe.2.state != .unmapped).map (·.1)

/-- Pages in ascending heat, ties to the lower page. -/
def coldFirst (s : State) (ps : List Nat) : List Nat :=
  sortBy (fun x y => decide ((s.ent x).heat ≤ (s.ent y).heat)) ps

/-- Pages in descending heat, ties to the lower page. -/
def hotFirst (s : State) (ps : List Nat) : List Nat :=
  sortBy (fun x y => decide ((s.ent y).heat ≤ (s.ent x).heat)) ps

/-- The pages that an eviction from a tier may take, were none of them locked: a NEAR_PIN page never leaves near for
deep (R275, R278). -/
def evictable (s : State) (tier : Nat) (d : Fin 2) : List Nat :=
  (s.diePages d).filter fun q => let e := s.ent q
    e.home == tier && !e.cpin && e.state == .mapped && !(tier == 1 && e.flags == 2)

/-- The tier that a page evicted from another goes to: from scratchpad to near, or to deep where near is full and its
FLAGS permit (R275). -/
def downTier (s : State) (q : Nat) : Nat :=
  let e := s.ent q
  if e.home = 0 && (s.freeFrames 1 e.die ≠ 0 || e.flags = 2) then 1 else 2

/-- A move put among those that wait for a swing. -/
def addWant (s : State) (w : Want) : State :=
  { s with ms := { s.ms with wants := s.ms.wants.filter (·.page != w.page) ++ [w] } }

/-- A page brought into a tier: into a free frame, or into that of the coldest page the tier can give up, once that page
has swung; where every candidate holds LOCK the eviction waits for the first swing (R278, R281). An eviction that is not
forced asks for a victim less than half as hot. Answers whether moves were made. -/
def bring (s : State) (p tier : Nat) (force : Bool) : State × Bool :=
  let e := s.ent p
  if !movable e || e.home == tier then (s, false)
  else if s.freeFrames tier e.die ≠ 0 || tier = 2 then s.startMove p tier
  else
    let held := s.evictable tier e.die
    match (s.coldFirst (held.filter fun q => !(s.ent q).lock)).head? with
    | none =>
      if held = [] then (s, false)
      else ((s.inc Reg.MEM_MIG_WAIT_COUNT 0 1).addWant ⟨p, tier, none, force⟩, true)
    | some q =>
      if force || 2 * (s.ent q).heat < e.heat then
        match s.startMove q (s.downTier q) with
        | (s, false) => (s, false)
        | (s, true) =>
          if s.freeFrames tier e.die ≠ 0 then ((s.startMove p tier).1, true)
          else (s.addWant ⟨p, tier, some q, force⟩, true)
      else (s, false)

/-- The moves of a die that waited for a swing of page q are tried again. -/
def retryWants (s : State) (d : Fin 2) (q : Nat) : State :=
  let ready := s.ms.wants.filter fun w => (s.ent w.page).die == d && (w.victim.isNone || w.victim == some q)
  let s := { s with ms := { s.ms with wants := s.ms.wants.filter (!ready.contains ·) } }
  ready.foldl (fun s w => (s.bring w.page w.tier w.force).1) s

/-- A page of an enabled Crucible window placed: kept where it is in scratchpad or near and pinned, its lines out of the
cache; in deep it is first promoted to near. A locked page is placed at its swing (R172, R281, R288). DESIGN CHOICE, R172
does not say: a promotion for which near has no room waits for a swing, and a DEEP_PIN page allocated into an enabled
window stays in deep unpinned (log entry 170). -/
def pinPage (s : State) (p : Nat) : State :=
  let e := s.ent p
  if e.state = .unmapped || e.lock || e.cpin then s
  else if e.home = 2 && e.state = .mapped then
    if e.flags = 3 then s
    else match s.bring p 1 true with
      | (s, true) => s
      | (s, false) => s.addWant ⟨p, 1, none, true⟩
  else (s.setEnt p { e with cpin := true }).dropCached p

/-- Whether a page lies in a Tile Store frame that a partition takes. -/
def inTaken (s : State) (p : Nat) : Bool :=
  let e := s.ent p
  e.state != .unmapped && e.home == 0 && decide (s.partFirst e.die ≤ e.nframe)

/-- A page demoted from the scratchpad: to near, or to deep where near is full and its FLAGS permit (R269, R275). -/
def leaveScratch (s : State) (p : Nat) : State := (s.bring p (s.downTier p) true).1

/-- What acts on a page once it is no longer locked: a FREE that waited, its place in a Crucible window, and a partition
that takes its frame (R269, R281). -/
def unlocked (s : State) (p : Nat) (freeAfter : Bool) : State :=
  let d := (s.ent p).die
  let s := if freeAfter then s.unmapPage p
    else
      let s := if (s.windowOf p).isSome then s.pinPage p else s
      if s.inTaken p then s.leaveScratch p else s
  s.retryWants d p

/-- The cached lines of a page that its copy took: they are clean (R280). -/
def cleanCached (s : State) (p : Nat) : State :=
  { s with ms := { s.ms with msc := s.ms.msc.map (·.map fun c => if c.line / 4096 = p then { c with stale := none } else c) } }

/-- The swing of a migration (R280 steps 4 and 5), and what waited for it (R281): a promotion from deep keeps the deep
frame as its shadow, unless that frame is retired, and a move to the scratchpad keeps none (R279). -/
def swing (s : State) (p : Nat) : State :=
  match s.ms.migs.find? (·.page == p) with
  | none => s
  | some m =>
    let e := s.ent p
    let keep := !s.ms.retired.contains (frameKey 2 e.die e.dframe)
    let e' : TierEnt :=
      if m.tier = 2 then { e with home := 2, nframe := 0, dframe := m.frame, shadow := false, dirty := false, lock := false }
      else if e.home = 2 then
        { e with home := m.tier, nframe := m.frame, shadow := keep, dframe := if keep then e.dframe else 0, dirty := false, lock := false }
      else if m.tier = 0 && e.home = 1 then
        { e with home := 0, nframe := m.frame, shadow := false, dframe := 0, dirty := false, lock := false }
      else { e with home := m.tier, nframe := m.frame, lock := false }
    let s := { s with ms := { s.ms with migs := s.ms.migs.filter (·.page != p) } }
    let s := (s.setEnt p e').inc (if m.tier < e.home then Reg.MEM_PROMOTE_COUNT else Reg.MEM_DEMOTE_COUNT) 0
      (if m.tier = e.home then 0 else 1)
    (if m.tier = 0 then s.dropCached p else s.cleanCached p).unlocked p m.freeAfter

/-- Moves of pages to a tier while a budget lasts: the state and the budget left. -/
def moveMany (tier : Nat) (go : State → Nat → Bool) : List Nat → State × Nat → State × Nat
  | [], x => x
  | p :: ps, (s, n) =>
    if n = 0 || !go s p then (s, n)
    else
      let (s, moved) := s.startMove p tier
      moveMany tier go ps (s, if moved then n - 1 else n)

/-- Whether a page stands on a retired frame (R299). -/
def onRetired (s : State) (p : Nat) : Bool :=
  let e := s.ent p
  s.ms.retired.contains (frameKey e.home e.die (if e.home = 2 then e.dframe else e.nframe))

/-- A near frame made free for a page that must stay in near: the coldest page that near can give up leaves (R275). -/
def makeNear (s : State) (d : Fin 2) : State :=
  match (s.coldFirst ((s.evictable 1 d).filter fun q => !(s.ent q).lock)).head? with
  | some q => (s.startMove q 2).1
  | none => s

/-- A page moved off a retired frame: to its own tier, or where that is full to another its FLAGS permit. A NEAR_PIN page
in near waits there for a near frame, and a later sweep tries it again (R275, R299). -/
def rehome (s : State) (p : Nat) : State :=
  let e := s.ent p
  match s.beginMove p e.home with
  | (s, true) => s
  | (s, false) =>
    if e.home = 2 then (if e.flags = 3 then s else (s.startMove p 1).1)
    else if e.home = 1 && e.flags = 2 then ((s.makeNear e.die).beginMove p 1).1
    else (s.startMove p (s.downTier p)).1

/-- Step 1 of a sweep: pages whose place breaks their FLAGS, and pages on retired frames, are moved, outside MIG_MAX; a
locked page's pin move is made after its swing (R281). -/
def pinMoves (s : State) (d : Fin 2) : State :=
  (s.diePages d).foldl (fun s p =>
    let e := s.ent p
    let tier := if e.flags = 2 && e.home = 2 then 1 else if e.flags = 3 && e.home ≠ 2 then 2 else 3
    if tier ≠ 3 then (if e.lock then s.addWant ⟨p, tier, some p, true⟩ else (s.bring p tier true).1)
    else if s.onRetired p then s.rehome p
    else s) s

/-- Step 2: pressure demotions until 2 × LOW_WATER near frames are free or on their way. -/
def pressure (s : State) (d : Fin 2) (budget : Nat) : State × Nat :=
  let low := s.rd Reg.MEM_BELLOWS_CFG2_LOW_WATER 0
  if s.freeFrames 1 d < low then
    let cand (flags : BitVec 2) := s.coldFirst ((s.diePages d).filter fun p =>
      movable (s.ent p) && (s.ent p).home == 1 && (s.ent p).flags == flags)
    let leaving (s : State) : Nat :=
      (s.ms.migs.filter fun m => m.tier == 2 && (s.ent m.page).die == d && (s.ent m.page).home == 1).length
    moveMany 2 (fun s _ => decide (s.freeFrames 1 d + leaving s < 2 * low)) (cand 1 ++ cand 0) (s, budget)
  else (s, budget)

/-- One promotion, which takes one move of the budget into a free frame and two where it evicts (R278). -/
def promote (tier : Nat) (x : State × Nat) (p : Nat) : State × Nat :=
  let (s, n) := x
  let cost := if s.freeFrames tier (s.ent p).die ≠ 0 then 1 else 2
  if n < cost then (s, n)
  else
    let (s, moved) := s.bring p tier false
    (s, if moved then n - cost else n)

/-- Step 3: promotions in descending heat. -/
def promotions (s : State) (d : Fin 2) (budget : Nat) : State × Nat :=
  let promT := s.rd Reg.MEM_BELLOWS_CFG0_PROM_T 0
  let tsT := s.rd Reg.MEM_BELLOWS_CFG0_TS_T 0
  (s.hotFirst (s.diePages d)).foldl (fun x p =>
    let e := x.1.ent p
    let need := if e.flags = 1 then 4 * promT else promT
    if e.flags = 3 then x
    else if e.home = 2 && promT ≠ 0 && decide (need ≤ e.heat) then promote 1 x p
    else if e.home = 1 && tsT ≠ 0 && decide (tsT ≤ e.heat) then promote 0 x p
    else x) (s, budget)

/-- A sweep of a die's pages (R278, R279): HEAT halves, dirty shadows and shadows on retired frames are freed, and moves
are started; the corrected accesses of its frames are counted anew (R299), and promotions that still wait are weighed
anew. -/
def sweep (s : State) (d : Fin 2) : State :=
  let s := { s with ms := { s.ms with
    ce := s.ms.ce.filter fun e => e.1 / 2 ^ 22 % 2 != d.val
    wants := s.ms.wants.filter fun w => w.force || (s.ent w.page).die != d } }
  let s := (s.diePages d).foldl (fun s p =>
    let e := s.ent p
    let s := s.setEnt p { e with heat := e.heat / 2 }
    let lost := s.ms.retired.contains (frameKey 2 e.die e.dframe)
    if e.shadow && (e.dirty || lost) then s.dropShadow p else s) s
  let s := s.pinMoves d
  let (s, n) := s.pressure d (s.rd Reg.MEM_BELLOWS_CFG1_MIG_MAX 0)
  (s.promotions d n).1

/-- Pages moved out of the scratchpad to their end: each move is started where it can be, and its copy ends. -/
def drainScratch (start : State → Nat → State) (ps : List Nat) (s : State) : State :=
  let round (s : State) : State := ps.foldl (fun s p => ((start s p).swing p)) s
  round (round s)

/-- A frame of a tier for a replacement that cannot wait (R300, R301): a free one, or that of the coldest page the tier
can give up, whose copy is ended first. -/
def needFrame (s : State) (tier : Nat) (d : Fin 2) : State × Option Nat :=
  match s.destFrame tier d with
  | (s, some f) => (s, some f)
  | (s, none) =>
    match (s.coldFirst ((s.evictable tier d).filter fun q => !(s.ent q).lock)).head? with
    | none => (s, none)
    | some q => (((s.startMove q (s.downTier q)).1).swing q).destFrame tier d

/-! Allocation (R276). -/

/-- The range of the MEM_ALLOC registers: first page and length. -/
def allocRange (s : State) : Nat × Nat :=
  (s.rangeBase Reg.MEM_ALLOC_BASE_HI_BASE_HI Reg.MEM_ALLOC_BASE_LO_BASE_LO 0, s.rd Reg.MEM_ALLOC_PAGES_PAGES 0)

/-- The die that DIE gives page p of a range from b: alternate pages go West first. -/
def allocDie (die : BitVec 2) (b p : Nat) : Fin 2 :=
  if die = 2 then Fin.ofNat 2 ((p - b) % 2) else if die = 1 then 1 else 0

/-- The fields of MEM_ALLOC_CTRL written; GO reads as 0, and a reserved DIE that FREE or SETFLAGS ignores is not kept. -/
def setAllocCtrl (s : State) (op : Nat) (flags die : BitVec 2) : State :=
  let s := (s.wr Reg.MEM_ALLOC_CTRL_OP 0 op).wr Reg.MEM_ALLOC_CTRL_FLAGS 0 flags.toNat
  if die = 3 then s else s.wr Reg.MEM_ALLOC_CTRL_DIE 0 die.toNat

/-- Checks 1 and 2 of R276, and the reserved PAGES. -/
def allocCheck (s : State) : Option KStat :=
  let (b, n) := s.allocRange
  if n = 0 || decide (resPage < b + n) then some .range
  else match s.ms.alloc with
    | some o => some (.busy 13 o.die)
    | none => none

/-- An accepted operation sets BUSY (R276). -/
def startAlloc (s : State) (op : Nat) (die : BitVec 2) : State :=
  let (b, n) := s.allocRange
  { s with ms := { s.ms with alloc := some ⟨op, die.toNat, b, n⟩ } }.wrB Reg.MEM_ALLOC_STATUS_BUSY 0 true

/-- A page allocated on a die under its FLAGS: NEAR_PREFER near, or deep when no near frame is free; a deep allocation may
free the coldest shadow, and a page of an enabled window is placed in it (R172, R275, R279). -/
def allocPage (s : State) (p : Nat) (die : Fin 2) (flags : BitVec 2) : State :=
  let tier := if flags = 2 then 1 else if flags = 0 && s.freeFrames 1 die ≠ 0 then 1 else 2
  match s.destFrame tier die with
  | (s, some f) =>
    let s := s.mapPage p tier f die flags
    if (s.windowOf p).isSome then s.pinPage p else s
  | (s, none) => s

/-- The deep frames that shadows of a die hold and can give up (R279). -/
def shadowFrames (s : State) (d : Fin 2) : Nat := (s.ms.tier.filter fun pe => pe.2.die == d && pe.2.shadow).length

/-- Whether a die or dies hold the frames an ALLOC needs, in the tiers its flag permits (R276 check 6); a shadow's deep
frame counts, since a deep allocation frees it (R279). -/
def allocRoom (s : State) (flags die : BitVec 2) (b n : Nat) : Bool :=
  (List.finRange 2).all fun d =>
    let need := ((span b n).filter fun p => allocDie die b p == d).length
    let room := (if flags = 1 || flags = 3 then 0 else s.freeFrames 1 d) + (if flags = 2 then 0 else s.freeFrames 2 d + s.shadowFrames d)
    decide (need ≤ room)

/-- The write of GO with OP = ALLOC. -/
def allocGo (s : State) (flags die : BitVec 2) : State × KStat :=
  if die = 3 then (s, .range)
  else match s.allocCheck with
    | some r => (s, r)
    | none =>
      let (b, n) := s.allocRange
      match (span b n).find? s.isMapped with
      | some p => (s.wr Reg.MEM_ALLOC_STATUS_CONFLICT 0 p, .busy 13 (s.ent p).die)
      | none =>
        if !s.allocRoom flags die b n then (s, .range)
        else
          let s := (s.setAllocCtrl 0 flags die).startAlloc 0 die
          ((span b n).foldl (fun s p => s.allocPage p (allocDie die b p) flags) s, .ok)

/-- The write of GO with OP = FREE. -/
def freeGo (s : State) (flags die : BitVec 2) : State × KStat :=
  match s.allocCheck with
  | some r => (s, r)
  | none =>
    let (b, n) := s.allocRange
    match s.windowOver none (b * 2 ^ 18) (n * 2 ^ 18), s.poolOver none (b * 2 ^ 18) (n * 2 ^ 18) with
    | some w, _ => (s, .busy 3 w)
    | none, some p => (s, .busy 4 p)
    | none, none =>
      let s := (s.setAllocCtrl 1 flags die).startAlloc 1 die
      ((span b n).foldl (fun s p => if s.isMapped p then s.freePage p else s) s, .ok)

/-- Whether a SETFLAGS to NEAR_PIN finds the near frames it needs (R276 check 6). -/
def pinRoom (s : State) (b n : Nat) : Bool :=
  (List.finRange 2).all fun d =>
    let need := ((span b n).filter fun p => s.isMapped p && (s.ent p).die == d && (s.ent p).home == 2).length
    let give := (s.ms.tier.filter fun pe => movable pe.2 && pe.2.die == d && pe.2.home == 1 && pe.2.flags != 2 &&
      !within b n pe.1).length
    decide (need ≤ s.freeFrames 1 d + give)

/-- The write of GO with OP = SETFLAGS. -/
def setflagsGo (s : State) (flags die : BitVec 2) : State × KStat :=
  match s.allocCheck with
  | some r => (s, r)
  | none =>
    let (b, n) := s.allocRange
    match (if flags = 3 then (span b n).find? fun p => (s.ent p).cpin else none) with
    | some p => (s, .busy 3 (((s.windowOf p).map (·.val)).getD 0))
    | none =>
      if flags = 2 && !s.pinRoom b n then (s, .range)
      else
        let s := (s.setAllocCtrl 2 flags die).startAlloc 2 die
        ((span b n).foldl (fun s p => if s.isMapped p then s.setEnt p { s.ent p with flags := flags } else s) s, .ok)

/-- An allocation operation ends (R276). -/
def allocEnd (s : State) : State :=
  match s.ms.alloc with
  | none => s
  | some o =>
    (({ s with ms := { s.ms with alloc := none } }.wrB Reg.MEM_ALLOC_STATUS_BUSY 0 false).wrB
      Reg.MEM_ALLOC_STATUS_DONE 0 true).raise 0x040A 0 none o.op

/-! Tile Store partitions (R268, R269). -/

/-- Whether a checkpoint drain of a die is in flight; its opcode is CKPT_DRAIN and its ring is the die's (R434). -/
def ckptInFlight (s : State) (d : Fin 2) : Bool :=
  s.ops.any fun o => o.desc % 256 == 0x41 && ringDie o.ring == d

/-- The write of a partition register (R269). -/
def partitionWrite (s : State) (d : Fin 2) (v : Nat) : State × KStat :=
  let msc := bits v 5 0
  let win := bits v 15 8
  let stg := bits v 21 16
  let fcap := bits v 27 24
  if msc > 48 || win > 128 || stg > 32 || fcap > 8 || msc + win + stg + fcap > 192 then (s, .range)
  else if s.rdB Reg.MEM_TS_PART_APPLYING d then (s, .busy 13 d)
  else if stg < s.rd Reg.MEM_TS_PART_STAGE d && s.ckptInFlight d then (s, .busy 6 d)
  else if fcap < s.rd Reg.MEM_TS_PART_FCAP d && s.rdB Reg.MEM_FCAP_STATUS_UNREAD d then (s, .busy 7 d)
  else
    let first := s.firstOf d (8 * (msc + win + stg + fcap))
    match s.ms.tier.find? fun pe => pe.2.state != .unmapped && pe.2.die == d && pe.2.home == 0 && pe.2.cpin &&
        decide (first ≤ pe.2.nframe) with
    | some (p, _) => (s, .busy 3 (((s.windowOf p).map (·.val)).getD 0))
    | none =>
      let s := (((s.wr Reg.MEM_TS_PART_MSC d msc).wr Reg.MEM_TS_PART_WIN d win).wr Reg.MEM_TS_PART_STAGE d stg).wr
        Reg.MEM_TS_PART_FCAP d fcap
      let s := s.wrB Reg.MEM_TS_PART_APPLYING d true
      ((s.diePages d).foldl (fun s p => if s.inTaken p then s.leaveScratch p else s) s, .ok)

/-- Fills kept by a ring of `cap` units, oldest first (R269, R285). -/
def keepFills (cap : Nat) : List Fill → List Fill
  | [] => []
  | f :: fs => if f.units ≤ cap then f :: keepFills (cap - f.units) fs else []

/-- A fill whose units are freed, but which stands before fills that are held (R285). -/
def deadFill (f : Fill) : Fill := { f with desc := 0, md := 0, ivals := [], missing := [], user := none }

/-- Fills discarded or freed by a condition; the space behind one that is held is not reused (R285). -/
def killFills (s : State) (p : Fill → Bool) : State :=
  let kill (fs : List Fill) : List Fill := (fs.map fun f => if p f then deadFill f else f).dropWhile fun f => f.ivals.isEmpty
  { s with ms := { s.ms with fills := s.ms.fills.map kill } }

/-- The step boundary snapshots lost: none is kept while West's STAGE is 0 (R429). -/
def dropSnaps (s : State) : State := { s with slots := s.slots.map fun x => { x with snap := none } }

/-- Whether a die's partitions have the frames they take: no page and no copy under way holds one. -/
def partClear (s : State) (d : Fin 2) : Bool :=
  (s.diePages d).all (fun p => !s.inTaken p) &&
  s.ms.migs.all (fun m => !((s.ent m.page).die == d && m.tier == 0 && decide (s.partFirst d ≤ m.frame)))

/-- A partition change ends once the pages have left the frames it takes (R269): the sizes in force change, the lines and
fills in the frames given up go, and a West with no staging area keeps no snapshot (R429). -/
def partitionDone (s : State) (d : Fin 2) : State :=
  if !s.rdB Reg.MEM_TS_PART_APPLYING d then s
  else
    let s := drainScratch (fun s p => if s.inTaken p then s.leaveScratch p else s) (s.diePages d) s
    if !s.partClear d then s
    else
      let s := s.wrB Reg.MEM_TS_PART_APPLYING d false
      let w := s.word (0x070000 + 4 * d.val)
      let sets := bits w.toNat 5 0 * 2048
      let old := s.mscSets d
      let lines := if sets < old then (s.ms.msc[d]).filter fun c => decide (c.line % old < sets) else s.ms.msc[d]
      let fills := s.ms.fills.set d (keepFills (32 * bits w.toNat 15 8) s.ms.fills[d])
      let msc := s.ms.msc.set d (if sets = old then lines else mscReindex sets lines)
      let s := { s with ms := { s.ms with part := s.ms.part.set d w, msc := msc, fills := fills } }
      if d = 0 && bits w.toNat 21 16 = 0 then s.dropSnaps else s

/-! Weight ranges (R282, R283). -/

/-- The write of MEM_WR_CTRL with EN = 1. -/
def weightEnable (s : State) (r : Nat) (tiled : Bool) : State × KStat :=
  let (b, n) := s.weightRange r
  if n = 0 || decide (resPage < b + n) then (s, .range)
  else match (List.range 16).find? fun q => q != r && s.rdB Reg.MEM_WR_CTRL_EN q &&
      overlaps b n (s.weightRange q).1 (s.weightRange q).2 with
    | some q => (s, .busy 5 q)
    | none => ((s.wrB Reg.MEM_WR_CTRL_EN r true).wrB Reg.MEM_WR_CTRL_TILED r tiled, .ok)

/-- The write of MEM_WR_CTRL with EN = 0: the range's fills are discarded. -/
def weightDisable (s : State) (r : Nat) (tiled : Bool) : State × KStat :=
  let (b, n) := s.weightRange r
  let lies (f : Fill) : Bool := within (b * 2 ^ 18) (n * 2 ^ 18) f.base
  (((s.killFills lies).wrB Reg.MEM_WR_CTRL_EN r false).wrB Reg.MEM_WR_CTRL_TILED r tiled, .ok)

/-! Crucible windows (R172 to R174). -/

/-- A page of a window set to +0 (R173): a write of every line, so that a shadow is no longer current. -/
def clearWindowPage (s : State) (p : Nat) : State :=
  if s.isMapped p then
    let s := s.zeroPage p
    s.setEnt p { s.ent p with dirty := (s.ent p).dirty || (s.ent p).shadow }
  else s

/-- The write of MEM_CRU_CTRL with EN = 1 (R173). The pages are placed and their words become +0; every access of the
window's lines waits for READY, so that it finds them +0, and the words may be cleared here. A window that is already
enabled stays as it is and answers KS_OK: DESIGN CHOICE, R173 does not say (log entry 171). -/
def crucibleOn (s : State) (w : Nat) : State × KStat :=
  let (b, n) := s.windowRange w
  if s.rdB Reg.MEM_CRU_CTRL_EN w then (s, .ok)
  else if n = 0 || decide (resPage < b + n) then (s, .range)
  else match s.windowOver (some w) (b * 2 ^ 18) (n * 2 ^ 18) with
    | some v => (s, .busy 3 v)
    | none =>
      if (span b n).any fun p => s.isMapped p && (s.ent p).flags == 3 then (s, .range)
      else
        let s := (s.wrB Reg.MEM_CRU_CTRL_EN w true).wrB Reg.MEM_CRU_STATUS_ZEROING w true
        ((span b n).foldl (fun s p => (s.clearWindowPage p).pinPage p) s, .ok)

/-- Whether every page of a window has its place under R172. -/
def windowPlaced (s : State) (w : Nat) : Bool :=
  let (b, n) := s.windowRange w
  (span b n).all fun p => !s.isMapped p || (s.ent p).cpin || (s.ent p).flags == 3

/-- The writes that waited for a window's READY are made, in the order they came (R173). -/
def heldWrites (s : State) (w : Nat) : State :=
  let (b, n) := s.windowRange w
  let mine (x : LineWrite) : Bool := within b n (x.line / 4096)
  let now := s.ms.held.filter mine
  let s := { s with ms := { s.ms with held := s.ms.held.filter fun x => !mine x } }
  now.foldl (fun s x => s.writeLine x.via x.line x.data x.mask false) s

/-- The window's pages are placed and its words +0, a write that leaves a shadow stale: zeroing ends, and the accesses that
waited are made (R173). -/
def crucibleZeroed (s : State) (w : Nat) : State :=
  if !s.rdB Reg.MEM_CRU_STATUS_ZEROING w || !s.windowPlaced w then s
  else
    let (b, n) := s.windowRange w
    let s := (span b n).foldl (fun s p => if (s.ent p).shadow then s.setEnt p { s.ent p with dirty := true } else s) s
    let s := ((s.wrB Reg.MEM_CRU_STATUS_ZEROING w false).wrB Reg.MEM_CRU_STATUS_READY w true).raise 0x0401 w none 0
    s.heldWrites w

/-- Whether an in-flight macro-op holds a write interval that overlaps a window (R174). -/
def windowWritten (s : State) (w : Nat) : Bool :=
  let (b, n) := s.windowRange w
  s.ops.any fun o => o.writes.any fun iv => overlaps iv.1 (iv.2 - iv.1) (b * 4096) (n * 4096)

/-- The write of MEM_CRU_CTRL with EN = 0 (R174). -/
def crucibleOff (s : State) (w : Nat) : State × KStat :=
  if !s.rdB Reg.MEM_CRU_CTRL_EN w then (s, .ok)
  else if s.rdB Reg.MEM_CRU_STATUS_ZEROING w || s.windowWritten w then (s, .busy 3 w)
  else
    let (b, n) := s.windowRange w
    let s := (span b n).foldl (fun s p => if (s.ent p).cpin then s.setEnt p { s.ent p with cpin := false } else s) s
    let s := { s with ms := { s.ms with struck := s.ms.struck.filter fun l => !within b n (l / 4096) } }
    ((s.wrB Reg.MEM_CRU_CTRL_EN w false).wrB Reg.MEM_CRU_STATUS_READY w false, .ok)

/-! Errors, poison and the Slag list (R298 to R305). -/

/-- A frame put on the Slag list with a cause (R304). -/
def listFrame (s : State) (tier : Nat) (d : Fin 2) (f cause : Nat) : State :=
  let s := { s with ms := { s.ms with retired := s.ms.retired ++ [frameKey tier d f] } }.inc Reg.MEM_SLAG_ADDS_COUNT 0 1
  if s.flash.slag.length < 65536 then
    let e := tier + d.val * 4 + cause * 8 + 2 * 64 + f * 256 + s.dseq.toNat * 2 ^ 32
    { s with flash := { s.flash with slag := s.flash.slag ++ [BitVec.ofNat 128 e] } }.takeDseq
  else if s.ms.slagFull then s
  else { s with ms := { s.ms with slagFull := true } }.raise 0x040C 0 none 0

/-- A frame retired (R299, R300, R304): a Tile Store frame of a partition is replaced from the scratchpad, whose page
leaves the frame taken. -/
def retire (s : State) (tier : Nat) (d : Fin 2) (f cause : Nat) : State :=
  let s := s.listFrame tier d f cause
  if tier = 0 then (s.diePages d).foldl (fun s p => if s.inTaken p then s.leaveScratch p else s) s else s

/-- An error captured (R458), and MEM_ERR_LOG written with it where R305 lets it. -/
def errLog (s : State) (tier : Nat) (d : Fin 2) (ue : Bool) (action frame page line touch : Nat) : State :=
  let w0 := (tier + d.val * 4 + b2n ue * 8 + action * 16 + 128 + frame * 256) % 2 ^ 32
  let w1 := page % 2 ^ 32
  let w2 := (line + touch * 4096) % 2 ^ 32
  let body := w0 + w1 * 2 ^ 32 + w2 * 2 ^ 64
  let kept := !ue && s.rdB Reg.MEM_ERR_LOG0_VALID 0 && s.rdB Reg.MEM_ERR_LOG0_UE 0
  let s := if kept then s else
    ((s.setWord 0x070400 (BitVec.ofNat 32 w0)).setWord 0x070404 (BitVec.ofNat 32 w1)).setWord 0x070408 (BitVec.ofNat 32 w2)
  (s.capture 0 2 body).capture 1 2 body

/-- The tiers a page's FLAGS permit (R275). -/
def permitted (flags : BitVec 2) : List Nat :=
  if flags = 2 then [0, 1] else if flags = 3 then [2] else [0, 1, 2]

/-- A page's copy under way given up: the destination frame is free and the LOCK gone. Answers whether a FREE waited. -/
def dropMove (s : State) (p : Nat) : State × Bool :=
  match s.ms.migs.find? (·.page == p) with
  | none => (s, false)
  | some m =>
    ({ s with ms := { s.ms with migs := s.ms.migs.filter (·.page != p) } }.setEnt p { s.ent p with lock := false }, m.freeAfter)

/-- A refill frame in one of the tiers listed: by free choice among those with a free frame, or in the first that can give
one up (R301). -/
def refillFrame (s : State) (d : Fin 2) (tiers : List Nat) : State × Option (Nat × Nat) :=
  let free := tiers.filter fun t => s.freeFrames t d ≠ 0
  match free[Config.choice s.free % free.length]? with
  | some t => let (s, f) := s.tick.destFrame t d; (s, f.map fun f => (t, f))
  | none => tiers.foldl (fun (x : State × Option (Nat × Nat)) t => match x with
      | (s, some g) => (s, some g)
      | (s, none) => let (s, f) := s.needFrame t d; (s, f.map fun f => (t, f))) (s, none)

/-- A page POISONED (R301): a refill frame in a permitted tier, or in its present tier in a Crucible window, its lines all
marked, one EV_PAGE_POISON, and in a window EV_CRUCIBLE_POISON too (R181). A page for which no refill frame can be had
keeps its frame. A move of the page ends, and a FREE that waited for it acts (R281). -/
def poisonPage (s : State) (p line : Nat) : State :=
  let (s, freeAfter) := s.dropMove p
  let e := s.ent p
  let inWindow := (s.windowOf p).isSome
  let (s, got) := s.refillFrame e.die (if e.cpin || inWindow then [e.home] else permitted e.flags)
  let (tier, f) := got.getD (e.home, if e.home = 2 then e.dframe else e.nframe)
  let s := (s.setEnt p { e with
    state := .poisoned, home := tier, shadow := false, dirty := false, cpin := e.cpin || inWindow
    nframe := if tier = 2 then 0 else f, dframe := if tier = 2 then f else 0 }).dropCached p
  let s := { s with ms := { s.ms with poison := Tab.set noPoison s.ms.poison p (BitVec.allOnes 4096) } }
  let s := (s.unfillPage p).raise 0x040B 0 none (p + e.touch.toNat * 2 ^ 23)
  let s := match s.windowOf p with
    | some w => s.raise 0x0403 line none (w.val + (p - (s.windowRange w.val).1) * 16)
    | none => s
  s.unlocked p freeAfter

/-- A frame that holds reserved page i of a die's maps replaced, where a near frame can be had (R299, R300). -/
def moveMap (s : State) (d : Fin 2) (i : Nat) : State :=
  match s.needFrame 1 d with
  | (s, none) => s
  | (s, some g) =>
    let k := d.val * 320 + i
    { s with ms := { s.ms with mapMoved := s.ms.mapMoved.filter (fun (x : Nat × Nat) => x.1 != k) ++ [(k, g)] } }

/-- A frame that corrected accesses retire: it is listed, its page is moved off, a shadow given up, a map moved. -/
def retireFrame (s : State) (tier : Nat) (d : Fin 2) (f cause : Nat) : State :=
  match s.frameUser tier d f with
  | some (p, true) => (s.dropShadow p).retire tier d f cause
  | some (p, false) => let s := s.retire tier d f cause; if (s.ent p).lock then s else s.rehome p
  | none =>
    match (if tier = 1 then s.mapIndex d f else none) with
    | some i => (s.moveMap d i).retire tier d f cause
    | none => s.retire tier d f cause

/-- The Tile Store frame that holds a set of the memory-side cache: its partition takes the first frames of those that
the partitions hold, 256 sets to a frame (R268, R288). -/
def cacheFrame (s : State) (d : Fin 2) (set : Nat) : Nat :=
  let bad := s.retiredOf 0 d
  (((span (s.partFirst d) (1536 - s.partFirst d)).filter fun f => !bad.contains f)[set / 256]?).getD 0

/-- The tier code of MEM_ERR_LOG, the frame or set, and the page of a place. -/
def placeOf (s : State) (e : ErrLoc) : Nat × Nat × Nat :=
  match e.place with
  | .near f => (1, f, ((s.frameUser 1 e.die f).map (·.1)).getD 0)
  | .deep f => (2, f, ((s.frameUser 2 e.die f).map (·.1)).getD 0)
  | .tile f => (0, f, ((s.frameUser 0 e.die f).map (·.1)).getD 0)
  | .cache set a => (3, set, a / 2 ^ 18)
  | .ring f a => (0, f, a / 2 ^ 18)
  | .map f => (1, f, resPage + 320 * e.die.val + (s.mapIndex e.die f).getD 0)
  | .onDie _ => (0, 0, 0)

/-- A correctable error found by a read (R298, R299, R454): corrected, counted and logged; a frame that reaches CE_T in
the sweep period, or lies behind a degraded channel, is retired. -/
def corrected (s : State) (e : ErrLoc) : State :=
  let (tier, frame, page) := s.placeOf e
  let s := s.inc Reg.MEM_CE_COUNT 0 1
  let touch := (s.ent page).touch.toNat
  let (held, place) := match e.place with
    | .cache set _ => (0, s.cacheFrame e.die set)
    | _ => (tier, frame)
  let k := frameKey held e.die place
  if s.ms.retired.contains k then s.errLog tier e.die false 0 frame page e.line touch
  else
    let n := Tab.get (fun _ => 0) s.ms.ce k + 1
    let s := { s with ms := { s.ms with ce := Tab.set (fun _ => 0) s.ms.ce k n } }
    let ceT := s.rd Reg.MEM_BELLOWS_CFG2_CE_T 0
    let bad := held ≠ 0 && s.ms.degraded.contains (e.die, held == 2, Config.channelOf held e.die.val place)
    if bad then (s.errLog tier e.die false 3 frame page e.line touch).retireFrame held e.die place 2
    else if ceT ≠ 0 && decide (ceT ≤ n) then (s.errLog tier e.die false 3 frame page e.line touch).retireFrame held e.die place 1
    else s.errLog tier e.die false 0 frame page e.line touch

/-- The four tier map entries of a rebuilt line take HEAT = 0 and TOUCH = 0xFF (R300). -/
def rebuildLine (s : State) (o : Nat) : State :=
  if o < 0x8000000 then
    (span (o / 16) 4).foldl (fun s p =>
      if s.isMapped p then s.setEnt p { s.ent p with heat := 0, touch := 0xFF } else s) s
  else s

/-- An uncorrectable error handled by where it lies (R300). -/
def uncorrected (s : State) (e : ErrLoc) : State :=
  let (tier, frame, page) := s.placeOf e
  let s := s.inc Reg.MEM_UE_COUNT 0 1
  let touch := (s.ent page).touch.toNat
  let log (s : State) (action : Nat) : State := s.errLog tier e.die true action frame page e.line touch
  let inFrame (s : State) (f : Nat) : State :=
    match s.frameUser tier e.die f with
    | none => (log s 0).retire tier e.die f 0
    | some (p, true) => ((log s (s.choose 7)).tick.dropShadow p).retire tier e.die f 0
    | some (p, false) =>
      let x := s.ent p
      if tier = 1 && x.shadow && !x.dirty then
        let (s, freeAfter) := (log s 1).dropMove p
        let x := s.ent p
        ((s.setEnt p { x with home := 2, nframe := 0, shadow := false }).retire tier e.die f 0).unlocked p freeAfter
      else
        let hit := e.add && (s.windowOf p).isSome
        let s := if hit then { s with ms := { s.ms with struck := s.ms.struck ++ [p * 4096 + e.line.val] } } else s
        ((log s 2).listFrame tier e.die f 0).poisonPage p e.line
  match e.place with
  | .near f => inFrame s f
  | .deep f => inFrame s f
  | .tile f => inFrame s f
  | .cache _ a =>
    match (s.ms.msc[e.die]).find? (·.line == a / 64) with
    | some c =>
      let s := { s with ms := { s.ms with msc := s.ms.msc.set e.die ((s.ms.msc[e.die]).filter (·.line != a / 64)) } }
      if c.isDirty then (log s 2).poisonPage (a / 2 ^ 18) e.line else log s 4
    | none => log s 4
  | .ring f a =>
    let fills := s.ms.fills.set e.die ((s.ms.fills[e.die]).map (unfilled (a / 64)))
    ({ (log s 6) with ms := { (log s 6).ms with fills := fills } }).retire 0 e.die f 0
  | .map f =>
    match s.mapIndex e.die f with
    | none => (log s 5).retire 1 e.die f 0
    | some i =>
      let s := (log s 5).rebuildLine ((320 * e.die.val + i) * 2 ^ 18 + 64 * e.line.val)
      (s.moveMap e.die i).retire 1 e.die f 0
  | .onDie _ => s

/-- Whether the line at a place holds the poison marker: that of the page whose home the frame is, or of the address that
a cached or ring line holds; a free frame, a shadow and a map hold none (R301). -/
def markedAt (s : State) (e : ErrLoc) : Bool :=
  let home (tier f : Nat) : Bool := match s.frameUser tier e.die f with
    | some (p, false) => s.linePoison (p * 4096 + e.line.val)
    | _ => false
  match e.place with
  | .near f => home 1 f
  | .deep f => home 2 f
  | .tile f => home 0 f
  | .cache _ a => s.linePoison (a / 64)
  | .ring _ a => s.linePoison (a / 64)
  | .map _ => false
  | .onDie _ => false

/-- What patrol scrub does with what it finds in a line (R452); a line that holds the marker is passed over. -/
def scrubLine (s : State) (e : ErrLoc) (f : ScrubFind) : State :=
  if s.markedAt e then s
  else match f with
    | .clean => s
    | .corrected => s.corrected e
    | .uncorrectable => s.uncorrected e

/-- A channel without a spare lane left is degraded (R454, R522). -/
def degrade (s : State) (d : Fin 2) (deep : Bool) (ch : Nat) : State :=
  let s := if s.ms.degraded.contains (d, deep, ch) then s
    else { s with ms := { s.ms with degraded := s.ms.degraded ++ [(d, deep, ch)] } }
  let s := if s.stage = 3 then s.wrB Reg.HRT_BOOT_PHY_DEGRADED 0 true else s
  s.raise 0x040D d none (b2n deep + (ch % 2 ^ 15) * 2)

/-- The retraining of a channel ends (R454); while REF_FALLBACK is set it holds (R31). -/
def retrained (s : State) (d : Fin 2) (deep : Bool) (ch : Nat) (r : RetrainEnd) : State :=
  if s.rdB Reg.HRT_CLK_STATUS_REF_FALLBACK 0 then s
  else match r with
    | .noSpare => s.degrade d deep ch
    | _ => s

/-- PAGE_CLEAR of a page (R303): none when the page is not POISONED. -/
def clearPage (s : State) (p : Nat) : Option State :=
  let e := s.ent p
  if p < resPage && e.state = .poisoned then some (s.setEnt p { e with state := .mapped, touch := 0, heat := 0 })
  else none

/-! The memory-side cache's protection (R290). -/

/-- UNPROTECT = 1 ends every line's protection. -/
def unprotectAll (s : State) : State :=
  { s with ms := { s.ms with msc := s.ms.msc.map (·.map fun c => { c with prot := false }) } }

/-- Every set held to KEEP_WAYS protected lines, none where it is 0 (R290). -/
def quotaLines (s : State) : State :=
  let k := s.rd Reg.MEM_ARB_CFG_KEEP_WAYS 0
  let one (d : Fin 2) (s : State) : State :=
    if s.mscSets d = 0 then s
    else { s with ms := { s.ms with msc := s.ms.msc.set d (mscQuota (s.mscSets d) k s.ms.msc[d]) } }
  one 1 (one 0 s)

end State

/-! The meanings of the commands of memory. -/

/-- ALLOC: the write of MEM_ALLOC_CTRL with OP = 0 and GO = 1 (R276). -/
def execAlloc (w : Writer) (flags die : BitVec 2) (s : State) : Host.Outcome State Fault Refusal :=
  act s (s.regWrite w 0x07010C (flags.toNat * 4 + die.toNat * 16 + 64) fun s => s.allocGo flags die)

/-- FREE: the write of MEM_ALLOC_CTRL with OP = 1 and GO = 1 (R276). -/
def execFree (w : Writer) (flags die : BitVec 2) (s : State) : Host.Outcome State Fault Refusal :=
  act s (s.regWrite w 0x07010C (1 + flags.toNat * 4 + die.toNat * 16 + 64) fun s => s.freeGo flags die)

/-- SETFLAGS: the write of MEM_ALLOC_CTRL with OP = 2 and GO = 1 (R276). -/
def execSetflags (w : Writer) (flags die : BitVec 2) (s : State) : Host.Outcome State Fault Refusal :=
  act s (s.regWrite w 0x07010C (2 + flags.toNat * 4 + die.toNat * 16 + 64) fun s => s.setflagsGo flags die)

/-- ALLOC_DONE (R276). -/
def execAllocDone (s : State) : Host.Outcome State Fault Refusal :=
  act s (if s.memUp then s.allocEnd else s)

/-- UNPROTECT: a write of MEM_ARB_CFG with UNPROTECT = 1 (R290); its other fields are checked and taken under R20. -/
def arbWrite (s : State) (v : Nat) : State × KStat :=
  if bits v 6 0 < 2 || bits v 6 0 > 64 || bits v 13 8 = 0 then (s, .range)
  else
    let s := ((s.wr Reg.MEM_ARB_CFG_N 0 (bits v 6 0)).wr Reg.MEM_ARB_CFG_BG_SHARE 0 (bits v 13 8)).wr
      Reg.MEM_ARB_CFG_KEEP_WAYS 0 (bits v 19 16)
    let s := s.quotaLines
    (if bit v 20 then s.unprotectAll else s, .ok)

/-- UNPROTECT (R290): the write of MEM_ARB_CFG with bit 20 set. -/
def execUnprotect (w : Writer) (value : Word) (s : State) : Host.Outcome State Fault Refusal :=
  act s (s.regWrite w 0x070300 (putBits value.toNat 20 20 1) fun s => arbWrite s (putBits value.toNat 20 20 1))

/-- BELLOWS_SWEEP (R278). -/
def execBellowsSweep (d : Die) (s : State) : Host.Outcome State Fault Refusal :=
  act s (if s.memUp && !s.quench then s.sweep d else s)

/-- MIGRATION_SWING (R280). -/
def execMigrationSwing (page : Nat) (s : State) : Host.Outcome State Fault Refusal :=
  act s (if s.memUp && !s.quench then s.swing page else s)

/-- TS_PARTITION_WRITE (R269). -/
def execTsPartitionWrite (w : Writer) (d : Die) (value : Word) (s : State) : Host.Outcome State Fault Refusal :=
  act s (s.regWrite w (0x070000 + 4 * d.val) value.toNat fun s => s.partitionWrite d value.toNat)

/-- TS_PARTITION_DONE (R269). -/
def execTsPartitionDone (d : Die) (s : State) : Host.Outcome State Fault Refusal :=
  act s (if s.memUp && !s.quench then s.partitionDone d else s)

/-- WEIGHT_RANGE_ENABLE (R283). -/
def execWeightRangeEnable (w : Writer) (n : Fin 16) (tiled : Bool) (s : State) : Host.Outcome State Fault Refusal :=
  act s (s.regWrite w (0x07100C + 16 * n.val) (1 + 2 * b2n tiled) fun s => s.weightEnable n tiled)

/-- WEIGHT_RANGE_DISABLE (R283). -/
def execWeightRangeDisable (w : Writer) (n : Fin 16) (tiled : Bool) (s : State) : Host.Outcome State Fault Refusal :=
  act s (s.regWrite w (0x07100C + 16 * n.val) (2 * b2n tiled) fun s => s.weightDisable n tiled)

/-- CRUCIBLE_ENABLE (R173). -/
def execCrucibleEnable (w : Writer) (n : Fin 16) (s : State) : Host.Outcome State Fault Refusal :=
  act s (s.regWrite w (0x07800C + 32 * n.val) 1 fun s => s.crucibleOn n)

/-- CRUCIBLE_READY (R173). -/
def execCrucibleReady (n : Fin 16) (s : State) : Host.Outcome State Fault Refusal :=
  act s (if s.memUp && !s.quench then s.crucibleZeroed n else s)

/-- CRUCIBLE_DISABLE (R174). -/
def execCrucibleDisable (w : Writer) (n : Fin 16) (s : State) : Host.Outcome State Fault Refusal :=
  act s (s.regWrite w (0x07800C + 32 * n.val) 0 fun s => s.crucibleOff n)

/-- MEMORY_CE (R298, R299); a word on the die is corrected without a count (R445). -/
def execMemoryCe (e : ErrLoc) (s : State) : Host.Outcome State Fault Refusal :=
  act s (if s.memUp && e.inMemory then s.corrected e else s)

/-- SCRUB (R452). -/
def execScrub (e : ErrLoc) (f : ScrubFind) (s : State) : Host.Outcome State Fault Refusal :=
  act s (if s.memUp && !s.quench && e.inMemory then s.scrubLine e f else s)

/-- PHY_RETRAIN (R454). -/
def execPhyRetrain (d : Die) (deepTier : Bool) (channel : Nat) (res : RetrainEnd) (s : State) :
    Host.Outcome State Fault Refusal :=
  act s (if s.powered && !s.pw.memAsleep && s.stage ≥ 3 && s.stage ≠ 5 then s.retrained d deepTier channel res else s)

end Sys2Proof.Machine
end

