-- ==== Sys2Proof/Machine/Power.lean ====
section
/-!
DEFINITION. Power, clocks, cooling and pins (spec/01, spec/14, spec/18) with the background work of spec/16: operating
points and PLL switches, droop, the cap loop, heat, power states, wakes, pads, Quench, shared pins and countdowns, and
energy accounting.
-/
namespace Sys2Proof.Machine

/-! The fields of an interleave entry (R153). -/

def entSlot (w : Word) : Nat := bits w.toNat 2 0
def entStream (w : Word) : Nat := bits w.toNat 4 3
def entQuota (w : Word) : Nat := bits w.toNat 23 8

/-! The issue duty (R407). -/

/-- The cycles held from count c on while n other cycles run at duty d: 16 blocks of 256 cycles, the first d of them open. -/
def dutyHeld (d c n : Nat) : Nat :=
  if 16 ≤ d || n = 0 then 0
  else
    let p := c % 4096
    let k := min p (256 * d) + n - 1
    k / (256 * d) * 4096 + k % (256 * d) + 1 - p - n

/-- The duty of the block that count c lies in: a change takes effect at the next block boundary. -/
def dutyAt (old new c : Nat) : Nat := if c % 256 = 0 then new else old

/-- The cycles from count c to the first open block, with the duty then in force. -/
def dutyWait (old new c : Nat) : Nat × Nat :=
  let d := dutyAt old new c
  if c / 256 % 16 < d then (0, d)
  else
    let b := c + (256 - c % 256)
    (b - c + (if b / 256 % 16 < new || 16 ≤ new then 0 else 4096 - b % 4096), new)

/-- The cycles held from count c on while n others run, of which `early` run before the new duty takes effect; and the duty
in force after them. -/
def dutyRun (old new c early n : Nat) : Nat × Nat :=
  let d := dutyAt old new c
  let e := min early n
  let h := dutyHeld d c e
  let c1 := c + e + h
  let b := (256 - c1 % 256) % 256
  let run := if c1 / 256 % 16 < d then min (n - e) b else 0
  let h1 := if c1 / 256 % 16 < d || n = e then 0 else b
  if n = e + run then (h, d) else (h + h1 + dutyHeld new (c1 + run + h1) (n - e - run), new)

namespace State

/-! Links (R329). -/

/-- Lanes of a port mode (R327). -/
def modeLanes (m : Nat) : Nat :=
  if m = 1 || m = 3 then 8 else if m = 2 || m = 5 then 4 else if m = 4 || m = 7 then 2 else if m = 6 then 1 else 0

/-- A port's link goes down (R329). -/
def linkDown (s : State) (p : Fin 8) : State :=
  if !s.rdB Reg.NET_PORT_STATUS_LINK p then s
  else
    let s := (s.wrB Reg.NET_PORT_STATUS_LINK p false).wrB Reg.NET_PORT_STATUS_PREEMPT_ACTIVE p false
    ((s.wr Reg.NET_PORT_STATUS_MODE_ACTIVE p 0).wr Reg.NET_PORT_STATUS_LANES_UP p 0).raise 0x0501 p none 0

/-- All eight ports take their links down. -/
def linksDown (s : State) : State := (List.finRange 8).foldl (fun s p => s.linkDown p) s

/-- Whether links may come up: in stages CONFIG, MEMORY and READY (R523), but for Slumber (R416). -/
def portsTrain (s : State) : Bool := s.powered && s.stage ≥ 2 && s.stage ≠ 5 && s.rd Reg.PWR_STATUS_STATE 0 ≠ 3

/-- A port's link comes up in its configured mode (R327, R329). -/
def linkUp (s : State) (p : Fin 8) : State :=
  let m := s.rd Reg.NET_PORT_CFG_MODE p
  if s.rdB Reg.NET_PORT_STATUS_LINK p || !s.rdB Reg.NET_PORT_CFG_EN p || modeLanes m = 0 ||
      s.rdB Reg.HRT_CLK_STATUS_REF_FALLBACK 0 || !s.portsTrain then s
  else
    let s := (s.wrB Reg.NET_PORT_STATUS_LINK p true).wr Reg.NET_PORT_STATUS_MODE_ACTIVE p m
    (s.wr Reg.NET_PORT_STATUS_LANES_UP p (2 ^ modeLanes m - 1)).raise 0x0502 p none m

/-! Operating points (R398 to R405, R449). -/

/-- LIM_THERM of an Anvil. -/
def limTherm (s : State) (a : Nat) : Nat := bits (s.rd Reg.PWR_ANV_OP_LIM_THERM 0) (4 * a + 3) (4 * a)

/-- LIM_THERM of an Anvil set. -/
def setLimTherm (s : State) (a v : Nat) : State :=
  s.wr Reg.PWR_ANV_OP_LIM_THERM 0 (putBits (s.rd Reg.PWR_ANV_OP_LIM_THERM 0) (4 * a + 3) (4 * a) v)

/-- An Anvil's requested point: that of the last tile, or before any tile the group point or OP15 (R398). -/
def reqPoint (s : State) (a : Fin 4) : Nat :=
  if s.anv[a].worked then s.anv[a].reqPt
  else if s.rdB Reg.PWR_GROUP_EN 0 then s.rd Reg.PWR_GROUP_OP 0 else 15

/-- The smallest of the requested point and the limits (R399). -/
def wantPoint (s : State) (a : Fin 4) : Nat :=
  min (s.reqPoint a) (min (s.rd Reg.PWR_STATUS_LIM_CAP 0) (s.limTherm a))

/-- An Anvil replaced. -/
def setAnv (s : State) (a : Fin 4) (x : Anvil) : State := { s with anv := s.anv.set a x }

/-- A change of point asked for where it is due: a new request replaces the pending one, and the rail rises to the higher
voltage of the two points (R402). -/
def repoint (s : State) (a : Fin 4) : State :=
  let x := s.anv[a]
  let w := s.wantPoint a
  if w = x.point then s.setAnv a { x with pll := { x.pll with target := none, locked := false, defer := false, rail := w } }
  else if x.pll.target = some w then s
  else s.setAnv a { x with pll := { x.pll with target := some w, locked := false, defer := false, rail := max w x.point } }

/-- Every Anvil's change of point asked for. -/
def repointAll (s : State) : State := (List.finRange 4).foldl (fun s a => s.repoint a) s

/-- An Anvil's point in force set, as PWR_ANV_OP reports it; the rail then falls to its voltage (R402). -/
def setPoint (s : State) (a : Fin 4) (p : Nat) : State :=
  let x := s.anv[a]
  (s.setAnv a { x with point := p, pll := { x.pll with target := none, locked := false, defer := false, rail := p } }).wr
    Reg.PWR_ANV_OP_OP 0 (putBits (s.rd Reg.PWR_ANV_OP_OP 0) (4 * a.val + 3) (4 * a.val) p)

/-- The return to REFCLK, made where no change of operating point is due (R31). That it waits until the last of the
changes due on several Anvils is made is the model's choice (DESIGN CHOICE): R31 says the next operating-point boundary.
-/
def refRestore (s : State) : State :=
  if s.rdB Reg.HRT_CLK_STATUS_REF_FALLBACK 0 && decide (64 ≤ s.pw.refGood) &&
      s.anv.toList.all (fun x => x.pll.target.isNone) then
    (s.wrB Reg.HRT_CLK_STATUS_REF_FALLBACK 0 false).raise 0x0102 0 none 0
  else s

/-- The pointer of an Anvil (R154). -/
def itabPos (s : State) (a : Fin 4) : Nat :=
  if a.val % 2 = 0 then s.rd Reg.STR_ITAB_POS_POS_LO (a.val / 2) else s.rd Reg.STR_ITAB_POS_POS_HI (a.val / 2)

/-- The entry of an Anvil's table at an index. -/
def itabEntry (s : State) (a : Fin 4) (i : Nat) : Word := s.anv[a].table.getD i 0

/-- Cycles in which an Anvil is gated: they run on in its count (R407) and are charged to the interleave entry's slot (R154,
R424). The phase tag they count under for energy is a free one: R424 names none. -/
def chargeGated (s : State) (a : Fin 4) (n : Nat) : State :=
  if n = 0 then s
  else
    let x := s.anv[a]
    let k := entSlot (s.itabEntry a (s.itabPos a)) * 8 + s.choose 5
    let new := s.rd Reg.PWR_STATUS_DUTY 0
    let d := if x.count / 256 = (x.count + n) / 256 then dutyAt x.duty new x.count else new
    let s := s.setAnv a { x with charge := x.charge + n, count := x.count + n, duty := d }
    { s with pw := { s.pw with gated := Tab.set (fun _ => 0) s.pw.gated k (Tab.get (fun _ => 0) s.pw.gated k + n) } }.tick

/-- The switch itself (R403), at which a pending return to REFCLK is made too (R31). -/
def switchNow (s : State) (a : Fin 4) : State :=
  match s.anv[a].pll.target with
  | some p => (s.setPoint a p).refRestore
  | none => s

/-- Whether an Anvil with a failed PLL gates itself while the remaining one relocks at the pending point (R449). -/
def pllGated (s : State) (a : Fin 4) : Bool := s.anv[a].pll.failed && s.anv[a].pll.target.isSome

/-- A PLL locks at the pending point: the idle one (R402), or with a failed PLL the remaining one, whose Anvil was gated for
some cycles and then runs at that point (R449). -/
def pllLocked (s : State) (a : Fin 4) (gated : Nat) : State :=
  let x := s.anv[a]
  if x.pll.target.isNone then s
  else if x.pll.failed then (s.chargeGated a gated).switchNow a
  else s.setAnv a { x with pll := { x.pll with locked := true, fails := 0 } }

/-- A switch that falls due, the voltage being good: deferred while a droop of its Anvil is asserted (R402, R405). -/
def switchDue (s : State) (a : Fin 4) : State :=
  let x := s.anv[a]
  if x.pll.target.isNone || !x.pll.locked then s
  else if s.pw.droops.contains (.anv a) then
    if x.pll.defer then s
    else (s.setAnv a { x with pll := { x.pll with defer := true } }).inc Reg.PWR_PLL_DEFER_COUNT 0 1
  else s.switchNow a

/-- A PLL that fails to lock; the third failure in succession marks it failed (R449). -/
def pllFails (s : State) (a : Fin 4) : State :=
  let x := s.anv[a]
  if x.pll.target.isNone || x.pll.failed then s
  else
    let n := x.pll.fails + 1
    let s := s.setAnv a { x with pll := { x.pll with fails := n, locked := false, failed := decide (3 ≤ n) } }
    if 3 ≤ n then s.raise 0x0105 a none n else s

/-- Whether the clock of a domain with droop detectors runs. -/
def droopClocked (s : State) : DroopDomain → Bool
  | .anv _ => s.powered && s.pw.compute
  | .sprig _ => s.powered && s.pw.compute
  | .fab _ => s.powered && s.rd Reg.PWR_STATUS_STATE 0 != 3

/-- A detector fires (R404, R405). -/
def droopFires (s : State) (d : DroopDomain) : State :=
  if !s.droopClocked d || s.pw.droops.contains d then s
  else { s with pw := { s.pw with droops := s.pw.droops ++ [d] } }.inc Reg.PWR_DROOP_EVENTS_COUNT 0 1

/-- A detector releases: its suppressed edges count, and a deferred switch is made (R404, R405). -/
def droopReleases (s : State) (d : DroopDomain) (suppressed : Nat) : State :=
  if !s.pw.droops.contains d then s
  else
    let s := { s with pw := { s.pw with droops := s.pw.droops.filter (· != d) } }.inc Reg.PWR_DROOP_CYC_COUNT 0 suppressed
    match d with
    | .anv a => if s.anv[a].pll.defer then s.switchNow a else s
    | _ => s

/-- The preferred point of a phase (R398). -/
def phaseOp (s : State) (phase : Nat) : Nat := bits (s.word 0x080004).toNat (4 * phase + 3) (4 * phase)

/-- The highest point that a tile may request without the group point (R398): a phase's, or one that a macro-op in flight
brings. -/
def phaseTop (s : State) : Nat :=
  let hint (o : Op) : Nat := if bit o.desc 16 then bits o.desc 15 12 else 0
  s.ops.foldl (fun m o => max m (hint o)) ((List.range 5).foldl (fun m p => max m (s.phaseOp p)) 0)

/-- Whether a group point, or the group point's end, would raise an Anvil's frequency (R31, R401). -/
def groupRaises (s : State) (op : Nat) : Bool :=
  (op ≤ 15 || s.rdB Reg.PWR_GROUP_EN 0) && (List.finRange 4).any fun a =>
    let req := if op ≤ 15 then op else if s.anv[a].worked then s.phaseTop else 15
    decide (s.anv[a].point < min req (min (s.rd Reg.PWR_STATUS_LIM_CAP 0) (s.limTherm a)))

/-- What a command that would raise a frequency is answered while REF_FALLBACK is set (R31); the spec names no holder. -/
def refBusy : KStat := .busy 10 0

/-- SET_GROUP_OP (R401). -/
def setGroupOp (s : State) (op : Nat) : State × KStat :=
  if 15 < op && op ≠ 0xFF then (s, .range)
  else if s.rdB Reg.HRT_CLK_STATUS_REF_FALLBACK 0 && s.groupRaises op then (s, refBusy)
  else if op = 0xFF then ((s.wrB Reg.PWR_GROUP_EN 0 false).repointAll, .ok)
  else (((s.wr Reg.PWR_GROUP_OP 0 op).wrB Reg.PWR_GROUP_EN 0 true).repointAll, .ok)

/-- SET_PHASE_OP (R401). That a raise of the field is refused while REFCLK is lost also where a group point or a limit
would keep every frequency as it is, is the model's choice (DESIGN CHOICE): R31 says only a command that would raise a
frequency. -/
def setPhaseOp (s : State) (phase op : Nat) : State × KStat :=
  if 4 < phase || 15 < op then (s, .range)
  else if s.rdB Reg.HRT_CLK_STATUS_REF_FALLBACK 0 && decide (s.phaseOp phase < op) then (s, refBusy)
  else (s.setWord 0x080004 (BitVec.ofNat 32 (putBits (s.word 0x080004).toNat (4 * phase + 3) (4 * phase) op)), .ok)

/-- SET_CAP (R409). -/
def setCap (s : State) (watts : Nat) : State × KStat :=
  if 450 ≤ watts && watts ≤ 1500 then (s.wr Reg.PWR_CAP_WATTS 0 watts, .ok) else (s, .range)

/-! Quench (R421 to R423, R462). -/

/-- The memory pad groups HBM_W, HBM_E, DEEP_W and DEEP_E (R426). -/
def memPads : Nat := 0x1E

/-- Pad groups held. -/
def holdPads (s : State) (g : Nat) : State :=
  s.wr Reg.HRT_PAD_HOLD_GROUPS 0 (s.rd Reg.HRT_PAD_HOLD_GROUPS 0 ||| g)

/-- Pad groups released. -/
def releasePads (s : State) (g : Nat) : State :=
  s.wr Reg.HRT_PAD_HOLD_GROUPS 0 (s.rd Reg.HRT_PAD_HOLD_GROUPS 0 &&& (0x7F ^^^ g))

/-- Quench entered with a cause (R421); it takes countdown 2 and cancels a pending Doze or Slumber entry, which leaves the
module in Doze where the entry began there (R422, R462). -/
def enterQuench (s : State) (cause : Nat) : State :=
  if s.quench then s
  else
    let s := ((s.wrB Reg.PWR_STATUS_QUENCH 0 true).wr Reg.PWR_STATUS_QCAUSE 0 cause).raise 0x0705 0 none cause
    let doze := s.rd Reg.PWR_STATUS_STATE 0 = 2
    let delay := s.rd Reg.HRT_CD_HOLD_CD2 0 = 1
    let s := s.wr Reg.HRT_CD_HOLD_CD2 0 2
    let s := if delay then (s.wrB Reg.HRT_WAKE_DELAY_ARM 0 false).raise 0x0104 8 none (2 + 2 ^ 16) else s
    let back := s.pw.entering.isSome && s.pw.fromDoze
    let s := if s.pw.entering.isSome then
      ({ s with pw := { s.pw with entering := none, fromDoze := false } }.wr Reg.PWR_STATUS_STATE 0 (if back then 2 else 0)).raise
        0x0104 10 none (2 ^ 16) else s
    { s with pw := { s.pw with dozeHeld := s.pw.dozeHeld || doze || back, memAsleep := true } }.holdPads memPads

/-- FLOW_OK has stayed low for 4,000 Hearth cycles (R421): Quench in Run, Idle or Doze; before READY and in Slumber it
is found when READY begins (R526) or at the wake (R422). -/
def flowLow (s : State) : State :=
  let s := { s with pw := { s.pw with flowOk := false } }
  if s.powered && s.stage == 4 && s.rd Reg.PWR_STATUS_STATE 0 != 3 then s.enterQuench 1 else s

/-- FLOW_OK passes its 1 ms filter high (R504, R526); nothing is filtered while the module is Off. -/
def flowHigh (s : State) : State :=
  if !s.powered then s
  else
    let s := { s with pw := { s.pw with flowOk := true } }
    let st := s.rd Reg.PWR_STATUS_STATE 0
    if st ≠ 2 && st ≠ 3 then
      { s with pw := { s.pw with compute := true } }.wrB Reg.HRT_BOOT_FLOW_WAIT 0 false
    else s

/-- RESUME (R423). -/
def resumeRun (s : State) : State × KStat :=
  if !s.quench then (s, .stale)
  else if !s.pw.flowOk || s.pw.hot then (s, .denied)
  else
    let s := (s.releasePads memPads).wr Reg.PWR_STATUS_LIM_CAP 0 0
    let pw := { s.pw with memAsleep := false, compute := true, dozeHeld := false }
    let s := { s with pw := pw }
    let s := (List.finRange 4).foldl (fun s a => s.setPoint a 0) s
    let s := (s.wr Reg.PWR_STATUS_STATE 0 0).wr Reg.HRT_CD_HOLD_CD2 0 0
    (((s.wrB Reg.PWR_STATUS_QUENCH 0 false).wr Reg.PWR_STATUS_QCAUSE 0 0).raise 0x0706 0 none 0, .ok)

/-! The cap loop (R406 to R413). -/

/-- The coolant ceiling in half watts for an inlet average in quarter degrees (R412). -/
def ceilingHalf (inlet : Nat) : Nat :=
  if inlet ≤ 160 then 3000 else if inlet ≤ 180 then 3000 - 105 * (inlet - 160) else 900

/-- The effective cap in half watts (R406). -/
def capHalf (s : State) (inlet : Nat) : Nat := min (2 * s.rd Reg.PWR_CAP_WATTS 0) (ceilingHalf inlet)

/-- The highest point any Anvil would have in force if LIM_CAP were 15 (R406). -/
def topPoint (s : State) : Nat :=
  (List.finRange 4).foldl (fun x a => max x (min (s.reqPoint a) (s.limTherm a))) 0

/-- One step of the loop's own variables (R406): lim, duty, mem, below, overs. While PEAK is set the limiter holds the
duty (R410). -/
def loopStep (p cap2 top : Nat) (peak : Bool) (x : Nat × Nat × Nat × Nat × Nat) : Nat × Nat × Nat × Nat × Nat :=
  let (lim, duty, mem, below, overs) := x
  let lim := min lim top
  if cap2 < 2 * p then
    if 0 < lim then (lim - 1, duty, mem, 0, overs)
    else if 4 < duty then (lim, duty - 1, mem, 0, overs)
    else if 4 < mem then (lim, duty, mem - 1, 0, overs)
    else (lim, duty, mem, 0, overs + 1)
  else if 200 * p < 97 * cap2 then
    if below + 1 = 40 then
      if mem < 16 then (lim, duty, mem + 1, 0, 0)
      else if duty < 16 && !peak then (lim, duty + 1, mem, 0, 0)
      else if lim < 15 && !(peak && duty < 16) then (lim + 1, duty, mem, 0, 0)
      else (lim, duty, mem, 0, 0)
    else (lim, duty, mem, below + 1, 0)
  else (lim, duty, mem, 0, 0)

/-- The loop's step on the state (R406, R408). -/
def capLoop (s : State) (m : CapSample) : State :=
  let cap2 := s.capHalf m.inlet
  let s := if s.rdB Reg.PWR_STATUS_PEAK 0 && m.peakClear then s.wrB Reg.PWR_STATUS_PEAK 0 false else s
  let (lim, duty, mem, below, overs) := loopStep m.watts cap2 s.topPoint (s.rdB Reg.PWR_STATUS_PEAK 0)
    (s.rd Reg.PWR_STATUS_LIM_CAP 0, s.rd Reg.PWR_STATUS_DUTY 0, s.rd Reg.PWR_STATUS_MEM 0, s.pw.below, s.pw.overs)
  let met := if 2 * m.watts ≤ cap2 then s.pw.metCount + 1 else 0
  let s := ((s.wr Reg.PWR_STATUS_LIM_CAP 0 lim).wr Reg.PWR_STATUS_DUTY 0 duty).wr Reg.PWR_STATUS_MEM 0 mem
  let s := { s with pw := { s.pw with below := below, overs := overs, metCount := met } }
  let unmet := s.rdB Reg.PWR_STATUS_CAP_UNMET 0
  if 40 ≤ overs && !unmet then (s.wrB Reg.PWR_STATUS_CAP_UNMET 0 true).raise 0x0702 0 none m.watts
  else if unmet && decide (40 ≤ met) then s.wrB Reg.PWR_STATUS_CAP_UNMET 0 false
  else s

/-- The junction rule of one Anvil (R413). -/
def thermalStep (s : State) (a : Fin 4) (tj : Nat) : State :=
  let x := s.anv[a]
  if 105 ≤ tj then
    let s := (s.setAnv a { x with cool := 0 }).setLimTherm a (s.limTherm a - 1)
    if s.rdB Reg.PWR_STATUS_THROTTLE 0 then s
    else (s.wrB Reg.PWR_STATUS_THROTTLE 0 true).raise 0x0703 a none 0
  else if tj ≤ 100 then
    if x.cool + 1 = 40 then (s.setAnv a { x with cool := 0 }).setLimTherm a (min 15 (s.limTherm a + 1))
    else s.setAnv a { x with cool := x.cool + 1 }
  else s.setAnv a { x with cool := 0 }

/-- The junction rule of every Anvil, and THROTTLE (R413). -/
def thermal (s : State) (m : CapSample) : State :=
  let s := (List.finRange 4).foldl (fun s a => s.thermalStep a m.tjAnvil[a]) s
  s.wrB Reg.PWR_STATUS_THROTTLE 0 ((List.range 4).any fun a => decide (s.limTherm a < 15))

/-- GROUP_LAG at the end of a period (R401). -/
def groupLag (s : State) : State :=
  let lags := (List.finRange 4).find? fun a =>
    s.rdB Reg.PWR_GROUP_EN 0 && decide (s.anv[a].point < s.rd Reg.PWR_GROUP_OP 0)
  match lags with
  | some a =>
    let s := { s with pw := { s.pw with lagClear := 0 } }
    if s.rdB Reg.PWR_STATUS_GROUP_LAG 0 then s
    else (s.wrB Reg.PWR_STATUS_GROUP_LAG 0 true).raise 0x0701 0 none
      (a.val + (if s.limTherm a < s.rd Reg.PWR_STATUS_LIM_CAP 0 then 4 else 0))
  | none =>
    let n := s.pw.lagClear + 1
    let s := { s with pw := { s.pw with lagClear := n } }
    if 40 ≤ n then s.wrB Reg.PWR_STATUS_GROUP_LAG 0 false else s

/-! Energy (R424, R425). -/

/-- A total split over weights so that the parts sum to it exactly: each part is the difference of two rounded-down
running shares. -/
def shareOut (total : Nat) (ws : List (Nat × Nat)) : List (Nat × Nat) :=
  let w := (ws.map (·.2)).sum
  (ws.foldl (fun (x : List (Nat × Nat) × Nat) e =>
    (x.1 ++ [(e.1, total * (x.2 + e.2) / w - total * x.2 / w)], x.2 + e.2)) ([], 0)).1

/-- Energy added to a slot and phase tag, key slot · 8 + phase. -/
def addEnergy (s : State) (k e : Nat) : State :=
  let acc := 0x081000 + 8 * (k / 8)
  let ph := 0x081100 + 0x40 * (k / 8) + 8 * (k % 8)
  (s.setWordsAt acc 2 (s.wordsAt acc 2 + e)).setWordsAt ph 2 (s.wordsAt ph 2 + e)

/-- The cycles that an Anvil's tiles charged in the period, by slot and phase. -/
def chargedOf (s : State) (a : Nat) : List (Nat × Nat) :=
  (s.pw.charged.filter fun e => e.1 / 64 == a).map fun e => (e.1 % 64, e.2)

/-- The energy of a period attributed (R424). -/
def attributeEnergy (s : State) (m : CapSample) : State :=
  let asleep := s.quench || decide (2 ≤ s.rd Reg.PWR_STATUS_STATE 0)
  let s' := (s.inc Reg.PWR_ENERGY_TOTAL_COUNT 0 m.energy)
  let anv := (List.finRange 4).filter fun (a : Fin 4) => s.chargedOf a.val ≠ []
  let parts := anv.flatMap fun a => shareOut m.energyAnv[a] (s.chargedOf a.val)
  let rest := m.energy - (anv.map fun a => m.energyAnv[a]).sum
  let all := (s.pw.charged.map fun e => (e.1 % 64, e.2)) ++ s.pw.gated
  let t := { s' with pw := { s'.pw with charged := [], gated := [], moved := [] } }
  if asleep || (all = [] && s.pw.moved = []) then t.inc Reg.PWR_ENERGY_IDLE_COUNT 0 m.energy
  else
    let more := shareOut rest (if all ≠ [] then all else s.pw.moved)
    (parts ++ more).foldl (fun t e => t.addEnergy e.1 e.2) t

/-- What the sensors show at the end of a period (R411, R426). -/
def sensors (s : State) (m : CapSample) : State :=
  let t := m.tjWest % 256 + (m.tjEast % 256) * 2 ^ 8 + (m.inlet % 256) * 2 ^ 16 + (m.outlet % 256) * 2 ^ 24
  let s := (s.setWord 0x080014 (BitVec.ofNat 32 t)).setWord 0x080018 (BitVec.ofNat 32 (m.watts % 2 ^ 16 + m.vin.toNat * 2 ^ 16))
  let s := s.wrB Reg.PWR_STATUS_CAP_COOLANT 0 (decide (ceilingHalf m.inlet < 2 * s.rd Reg.PWR_CAP_WATTS 0))
  { s with pw := { s.pw with hot := decide (180 < m.inlet) } }

/-- A step of the cap loop with all that ends with its period (R401, R406 to R413, R424). -/
def capPeriod (s : State) (m : CapSample) : State :=
  let s := (((s.sensors m).capLoop m).thermal m).groupLag
  let s := (s.attributeEnergy m).repointAll
  if s.pw.hot && s.stage == 4 && s.rd Reg.PWR_STATUS_STATE 0 != 3 then s.enterQuench 2 else s

/-- A period in Slumber: its energy goes to the idle account, and the inlet is measured for the wake (R422, R424, R425). -/
def sleepPeriod (s : State) (m : CapSample) : State :=
  let s := s.attributeEnergy m
  { s with pw := { s.pw with hot := decide (180 < m.inlet) } }

/-! Power states (R415 to R420). -/

/-- The first slot whose state is in a set. -/
def slotIn (s : State) (p : Nat → Bool) : Option Nat := (List.range 8).find? fun n => p (s.slotState n)

/-- The memory-side cache written back and the window fills discarded. -/
def dropFills (s : State) : State :=
  { s with ms := { s.ms with msc := Vector.replicate 2 [], fills := Vector.replicate 2 [] } }

/-- Whether firmware staging or activation is in progress, with the slot it concerns (R416). -/
def fwBusy (s : State) : Option Nat :=
  match s.kal.activate with
  | some (_, n) => some n
  | none => (List.range 2).find? fun n => match s.flash.fw.toList[n]? with
    | some f => f.staged
    | none => false

/-- An entry begun: STATE shows a transition. -/
def beginEntry (s : State) (v : Nat) : State :=
  let doze := s.rd Reg.PWR_STATUS_STATE 0 == 2
  ({ s with pw := { s.pw with entering := some v, fromDoze := doze } }.wr Reg.PWR_STATUS_STATE 0 4).wr Reg.PWR_STATE_REQ_REQ 0 v

/-- Holder of a refused Doze entry: a slot neither FREE nor OPEN, or a macro-op in flight (R415). -/
def dozeHolder (s : State) : Option Nat :=
  match s.slotIn (fun x => decide (1 < x)) with
  | some n => some n
  | none => (s.ops.head?).map fun o => (ringSlot o.ring).val

/-- Holder of a refused Slumber entry (R416). -/
def slumberHolder (s : State) : Option (Nat × Nat) :=
  match s.slotIn (fun x => decide (0 < x)), (List.range 16).find? (fun w => s.rdB Reg.MEM_CRU_CTRL_EN w) with
  | some n, _ => some (10, n)
  | none, some w => some (3, w)
  | none, none =>
    if s.kal.cfgWrite.isSome then some (11, 0)
    else (s.fwBusy).map fun n => (12, n)

/-- A wake written to its registers (R417, R419). -/
def noteWake (s : State) (source : Nat) : State :=
  let c := s.rd Reg.HRT_WAKE_CNT_COUNT 0
  let n := bits c (8 * source - 1) (8 * source - 8)
  (s.wr Reg.HRT_WAKE_SRC_LAST 0 source).wr Reg.HRT_WAKE_CNT_COUNT 0
    (putBits c (8 * source - 1) (8 * source - 8) (min 255 (n + 1)))

/-- A measurement register extended by bytes (R472). -/
def extend (s : State) (i : Nat) (d : List Byte) : State :=
  let m := s.wordsAt (0x040100 + 0x20 * i) 8
  let h := ofBytes (sha256 (toBytes 32 m ++ d))
  (s.setWordsAt (0x040100 + 0x20 * i) 8 h).inc Reg.SEC_MEAS_CNT_COUNT i 1

/-- The 64-byte header of a firmware slot as M1 records it: SEQ, VERSION, LENGTH and DIGEST (R394). -/
def fwHeader (f : FwSlot) : List Byte :=
  toBytes 64 ((f.seq.getD (BitVec.allOnes 64)).toNat + f.version.toNat * 2 ^ 64 + f.length.toNat * 2 ^ 96 +
    f.digest.toNat * 2 ^ 128)

/-- M1 extended with the digest of a firmware slot's header (R472). -/
def measureFw (s : State) (f : FwSlot) : State := s.extend 1 (sha256 (fwHeader f))

/-- The debug nonce drawn anew (R471, R489). -/
def drawNonce (s : State) : State := (s.wr Reg.SEC_DBG_NONCE_NONCE 0 (Config.random s.free).toNat).tick

/-- Every capture lost with the Tile Store (R416, R460). -/
def loseCaptures (s : State) : State :=
  let one (s : State) (d : Fin 2) : State :=
    let s := if s.rdB Reg.MEM_FCAP_CTRL_ARM d && s.rd Reg.MEM_FCAP_CTRL_POST d ≠ 0 then s.wr Reg.HRT_CD_HOLD_CD3 0 0 else s
    (s.wrB Reg.MEM_FCAP_CTRL_ARM d false).setWord (0x070504 + 0x20 * d.val) 0
  let s := one (one s 0) 1
  { s with tel := { s.tel with capture := Vector.replicate 2 ⟨[], 0, false⟩ } }

/-- The port state changed: a change extends M3 with the new state (R472, R488), and a closed port permits only IDCODE and
BYPASS (R482). -/
def setPort (s : State) (p : Nat) : State :=
  if s.rd Reg.SEC_LC_PORT 0 = p then s
  else
    let t := if p = 0 then { s.tap with drive := .functional, bypassed := s.tap.ir != 0x01 && s.tap.ir != 0xFF } else s.tap
    ({ s with tap := t }.wr Reg.SEC_LC_PORT 0 p).extend 3 [BitVec.ofNat 8 p]

/-- OBSERVE and BSCAN return to CLOSED (R488). -/
def closePort (s : State) : State :=
  if s.rd Reg.SEC_LC_PORT 0 = 1 || s.rd Reg.SEC_LC_PORT 0 = 2 then s.setPort 0 else s

/-- The port opened to BSCAN; in Doze it closes at once, so that no combination arises that R489 does not list. That the
token is not refused there is the model's choice (DESIGN CHOICE, log entry 184). -/
def openScan (s : State) : State :=
  let t := s.setPort 2
  if s.rd Reg.PWR_STATUS_STATE 0 = 2 then t.closePort else t

/-- Doze entered (R415); BSCAN closes (R488). -/
def enterDoze (s : State) : State :=
  if s.pw.entering ≠ some 2 then s
  else
    let pw := { s.pw with entering := none, fromDoze := false, memAsleep := true, compute := false }
    let s := ({ s with pw := pw }.dropFills.holdPads memPads).wr Reg.PWR_STATUS_STATE 0 2
    if s.rd Reg.SEC_LC_PORT 0 = 2 then s.setPort 0 else s

/-- The pages in the scratchpad. -/
def scratchPages (s : State) : List Nat :=
  (s.ms.tier.filter fun pe => pe.2.state != .unmapped && pe.2.home == 0).map (·.1)

/-- Scratchpad pages demoted to near before Slumber (R274): each copy is ended that can be. -/
def demoteScratch (s : State) : State :=
  drainScratch (fun s p => if (s.ent p).home = 0 then (s.bring p 1 true).1 else s)
    (s.scratchPages ++ (s.ms.migs.filter (·.tier == 0)).map (·.page)) s

/-- Slumber entered (R416) once no page is in the scratchpad (R274): the cache written back, links down, every pad group
held, and the Tile Store, the unpowered Sprigs and the TAP lost (R489). -/
def enterSlumber (s : State) : State :=
  let t := s.demoteScratch
  if s.pw.entering ≠ some 3 then s
  else if t.scratchPages ≠ [] then t
  else
    let s := (t.dropFills.linksDown.loseCaptures).closePort
    let s := { s with ms := { s.ms with msc := s.ms.msc.map fun _ => [] } }
    let pw := { s.pw with entering := none, fromDoze := false, memAsleep := true, compute := false }
    let slots := s.slots.map fun x => { x with snap := none }
    { s with pw := pw, tap := tapReset, slots := slots, sprigs := Vector.replicate 24 sprigReset }.holdPads 0x7F |>.wr
      Reg.PWR_STATUS_STATE 0 3

/-- Doze or Slumber left by a wake source (R417); with FLOW_OK low or the inlet hot the wake leads to Quench (R422). -/
def wakeUp (s : State) (source : Nat) : State :=
  let st := s.rd Reg.PWR_STATUS_STATE 0
  let ok := (st = 2 && decide (1 ≤ source ∧ source ≤ 4)) || (st = 3 && (source = 1 || source = 4))
  if !s.powered || !ok || s.quench then s
  else
    let s := s.noteWake source
    let cause := if s.pw.hot then 2 else 1
    let bad := !s.pw.flowOk || s.pw.hot
    let run (s : State) : State :=
      if bad then (s.wr Reg.PWR_STATUS_STATE 0 0).enterQuench cause
      else
        let pw := { s.pw with memAsleep := false, compute := true }
        ({ s with pw := pw }.releasePads memPads).wr Reg.PWR_STATUS_STATE 0 0
    if st = 2 then run s
    else
      let s := (s.measureFw s.flash.fw[(Fin.ofNat 2 (s.rd Reg.HRT_FW_RUNNING 0))]).drawNonce
      (run (s.releasePads 0x61)).raise 0x0704 0 none source

/-- A frame addressed to the device wakes it from Doze (R417). -/
def frameWake (s : State) : State := if s.rd Reg.PWR_STATUS_STATE 0 = 2 then s.wakeUp 3 else s

/-- The demotion of the scratchpad's pages to near begins (R274, R416). -/
def leaveTiles (s : State) : State := s.scratchPages.foldl (fun s p => (s.bring p 1 true).1) s

/-- The write of PWR_STATE_REQ (R415, R416, R419). That an entry is refused in Quench where nothing else holds it, naming
Quench's countdown, is the model's choice (DESIGN CHOICE): the spec says only that Quench cancels a pending one. -/
def stateReq (s : State) (v : Nat) : State × KStat :=
  let st := s.rd Reg.PWR_STATUS_STATE 0
  if v = 1 || 4 ≤ v then (s, .range)
  else if s.pw.entering.isSome then (s, .busy 10 0)
  else if v = 0 then ((if st = 2 then s.wakeUp 2 else s).wr Reg.PWR_STATE_REQ_REQ 0 0, .ok)
  else
    let holder := if v = 2 then (s.dozeHolder).map fun n => (10, n) else s.slumberHolder
    match holder with
    | some (c, i) => (s, .busy c i)
    | none =>
      if s.quench then (s, .busy 8 2)
      else if v = 2 then (if st = 2 then s else s.beginEntry 2, .ok)
      else ((s.beginEntry 3).leaveTiles, .ok)

/-- The write of HRT_PAD_RELEASE: a group whose domain is unpowered stays held; every group's is powered but in Slumber (R415,
R416, R418, R421). -/
def padWrite (s : State) (g : Nat) : State × KStat :=
  (if s.rd Reg.PWR_STATUS_STATE 0 = 3 then s else s.releasePads g, .ok)

/-- The write of HRT_WAKE_DELAY (R420). -/
def wakeDelayWrite (s : State) (v : Nat) : State × KStat :=
  let s' := (s.wr Reg.HRT_WAKE_DELAY_DELAY 0 (bits v 23 0)).wrB Reg.HRT_WAKE_DELAY_ARM 0 (bit v 24)
  if bit v 24 then
    if s.rd Reg.HRT_CD_HOLD_CD2 0 = 2 then (s, .busy 8 2) else (s'.wr Reg.HRT_CD_HOLD_CD2 0 1, .ok)
  else (if s.rd Reg.HRT_CD_HOLD_CD2 0 = 1 then s'.wr Reg.HRT_CD_HOLD_CD2 0 0 else s', .ok)

/-- An armed wake delay expires: it wakes Doze or Slumber and disarms (R417, R420). -/
def wakeDelayExpire (s : State) : State :=
  if !s.powered || !s.rdB Reg.HRT_WAKE_DELAY_ARM 0 then s
  else ((s.wrB Reg.HRT_WAKE_DELAY_ARM 0 false).wr Reg.HRT_CD_HOLD_CD2 0 0).wakeUp 4

/-! Shared pins (R462). -/

/-- The write of HRT_AUX. -/
def auxWrite (s : State) (v : Nat) : State × KStat :=
  let f0 := bits v 2 0
  let f1 := bits v 6 4
  let o0 := s.rd Reg.HRT_AUX_FUNC0 0
  let o1 := s.rd Reg.HRT_AUX_FUNC1 0
  if 3 < f0 || 3 < f1 then (s, .range)
  else if f0 ≠ 0 && o0 ≠ 0 && f0 ≠ o0 then (s, .busy 9 0)
  else if f1 ≠ 0 && o1 ≠ 0 && f1 ≠ o1 then (s, .busy 9 1)
  else if f0 ≠ 0 && f0 = o1 then (s, .busy 9 1)
  else if f1 ≠ 0 && (f1 = o0 || f1 = f0) then (s, .busy 9 0)
  else ((s.wr Reg.HRT_AUX_FUNC0 0 f0).wr Reg.HRT_AUX_FUNC1 0 f1, .ok)

/-- Whether a cell of the boundary register drives its pin low: it holds 0 and its pin is an output. THERMTRIP_N's cell only
observes, and PRESENT_N is tied to ground (R483, R497). -/
def cellLow (s : State) (pin : Pin) : Bool :=
  [Pin.i3cSda, .trayAlertN, .aux 0, .aux 1].contains pin && !s.tap.boundary.getLsbD (pinCells.idxOf pin)

/-- What drives a pin: its function, or under EXTEST and CLAMP its cell; under HIGHZ nothing does (R482, R483). -/
def driven (s : State) (pin : Pin) (low : Bool) : Bool := match s.tap.drive with
  | .functional => low
  | .boundary => s.cellLow pin
  | .highz => false

/-- Whether the module drives an AUX pin low (R462, R483). -/
def auxLow (s : State) (pin : Fin 2) : Bool :=
  let f := if pin = 0 then s.rd Reg.HRT_AUX_FUNC0 0 else s.rd Reg.HRT_AUX_FUNC1 0
  s.driven (.aux pin) (s.rdB Reg.HRT_AUX_TRIPPED 0 || (f = 1 && s.quench) ||
    (f = 3 && (s.rdB Reg.MEM_FCAP_STATUS_UNREAD 0 || s.rdB Reg.MEM_FCAP_STATUS_UNREAD 1)))

/-- Whether the module drives TRAY_ALERT_N low (R408, R448, R483). -/
def alertLow (s : State) : Bool :=
  s.driven .trayAlertN (s.powered && (s.rdB Reg.PWR_STATUS_CAP_UNMET 0 || s.pw.alertHeld))

/-- Whether the module drives THERMTRIP_N low: while a trip is latched (R414), whatever the boundary scan does (R483). -/
def tripLow (s : State) : Bool := s.pw.mode == .tripped

/-- The level of a pin as the boundary register captures it: low where the module drives it low, high where only the
module's own state keeps it up, and otherwise as the tray gives it, which is free (R483, R497). -/
def pinLevel (s : State) (pin : Pin) : Bool :=
  let tray := (Config.pinSample s.free).getLsbD (pinCells.idxOf pin)
  match pin with
  | .aux n => !s.auxLow n && tray
  | .trayAlertN => !s.alertLow && tray
  | .thermtripN => !s.tripLow && tray
  | .i3cSda => !(s.tap.drive == .boundary && s.cellLow .i3cSda) && tray
  | .pwrEn => true
  | .modResetN => true
  | .presentN => false
  | _ => tray

/-- What the boundary register captures. -/
def pinCapture (s : State) : BitVec 16 :=
  BitVec.ofNat 16 ((pinCells.zipIdx).foldl (fun x (p, i) => x + b2n (s.pinLevel p) * 2 ^ i) 0)

/-! Power on and off (R495 to R505). -/

/-- The module Off: every state is lost but the flash, the fuses and what waits (R505). -/
def turnOff (s : State) (latched : Bool) : State :=
  let t := offWith s.flash s.fuses
  { t with pw := { t.pw with latched := latched }, pending := s.pending, free := s.free }

/-- Start-up from a stage: straps as sampled, the static address (R366), the boot number one higher (R510), and the Sprig
and Anvil rails waiting for FLOW_OK (R526). -/
def startUp (s : State) (stage : Nat) (addrSel slotId : BitVec 3) (flowOk : Bool) : State :=
  let t := offWith s.flash s.fuses
  let boot := s.flash.boot + 1
  let pw := { t.pw with mode := .on, addrSel := addrSel, slotId := slotId, flowOk := flowOk, compute := flowOk }
  let t := { t with pw := pw, flash := { t.flash with boot := boot }, pending := s.pending, free := s.free }
  let t := (t.wr Reg.HRT_I3C_SA 0 (0x38 + addrSel.toNat)).wrB Reg.HRT_I3C_SA_VALID 0 (addrSel.toNat != 6)
  ((t.wr Reg.HRT_BOOT_STAGE 0 stage).wrB Reg.HRT_BOOT_FLOW_WAIT 0 (!flowOk)).wr Reg.TEL_BOOT_BOOT 0 boot.toNat

/-- SEC_LC's lifecycle code and port state, as loaded at a boot: CLOSED in Sealed, else FULL (R489). -/
def loadLc (s : State) (lc : Nat) : State := (s.wr Reg.SEC_LC_LC 0 lc).wr Reg.SEC_LC_PORT 0 (if lc = 1 then 0 else 3)

/-- AUX pins taken by THERMTRIP (R462). -/
def takePins (s : State) : State := ((s.wrB Reg.HRT_AUX_TRIPPED 0 true).wr Reg.HRT_AUX_FUNC0 0 0).wr Reg.HRT_AUX_FUNC1 0 0

/-- MOD_RESET_N low: every block at its Reset values with the rails up; a latched THERMTRIP stays, with the rails it turned
off (R501). -/
def holdReset (s : State) : State :=
  let t := offWith s.flash s.fuses
  let tripped := s.pw.mode == .tripped
  let pw := { t.pw with mode := if tripped then .tripped else .held, addrSel := s.pw.addrSel, slotId := s.pw.slotId, flowOk := s.pw.flowOk }
  let t := { t with pw := pw, pending := s.pending, free := s.free }
  if tripped then (t.loadLc s.fuses.lc).takePins else t

/-- Whether a control-space word lies in what stays powered with Hearth after THERMTRIP: Hearth's registers, the measurement
registers and counts (R472), and SEC_LC, whose lifecycle and port state then stand as in Slumber (R489). -/
def hearthWord (a : Nat) : Bool := decide (a < 0x10000) || a == 0x040000 || within 0x040100 0x120 a

/-- THERMTRIP (R414, R462): every state outside Hearth is lost, and both AUX pins are taken; the port closes and the Debug
state stays, as in Slumber (R479, R489). -/
def trip (s : State) : State :=
  let s := s.closePort
  let t := offWith s.flash s.fuses
  let pw := { t.pw with mode := .tripped, addrSel := s.pw.addrSel, slotId := s.pw.slotId, flowOk := s.pw.flowOk }
  let t := { t with pw := pw, sec := { t.sec with debug := s.sec.debug }, ctl := s.ctl.filter (fun e => hearthWord e.1) }
  { t with pending := s.pending, free := s.free }.takePins

/-- REFCLK judged over one window (R30, R31). That windows are not judged before stage ROOT and in Slumber is the model's
choice (DESIGN CHOICE, log entry 181): Hearth runs then too, and the spec does not say. -/
def refWindow (s : State) (edges : Nat) : State :=
  if !s.powered || s.stage = 0 || s.rd Reg.PWR_STATUS_STATE 0 = 3 then s
  else if 2495 ≤ edges && edges ≤ 2505 then
    let s := { s with pw := { s.pw with refBad := 0, refGood := s.pw.refGood + 1 } }
    s.refRestore
  else
    let s := { s with pw := { s.pw with refBad := s.pw.refBad + 1, refGood := 0 } }
    if s.pw.refBad = 2 && !s.rdB Reg.HRT_CLK_STATUS_REF_FALLBACK 0 then
      (s.linksDown.wrB Reg.HRT_CLK_STATUS_REF_FALLBACK 0 true).raise 0x0101 0 none 0
    else s

/-- Whether the background tasks run that Doze does not pause: outside Quench, Slumber and Off (R450). -/
def background (s : State) : Bool := s.powered && decide (1 ≤ s.stage) && !s.quench && s.rd Reg.PWR_STATUS_STATE 0 != 3

/-- A guard-band rise of 5 mV, up to 30 mV (R456). -/
def guardband (s : State) (anvilRail : Bool) : State :=
  let f := if anvilRail then Reg.PWR_GUARD_GB_ANV else Reg.PWR_GUARD_GB_FIX
  if !s.background || 30 ≤ s.rd f 0 then s
  else
    let s := s.wr f 0 (s.rd f 0 + 5)
    s.raise 0x0707 0 none (s.word 0x080020).toNat

/-- A lane whose pre-FEC bit error ratio over 2^24 codewords of 5,440 bits exceeds 10^−5 (R455). -/
def laneCheck (s : State) (lane : Fin 64) (bitErrors : Nat) : State :=
  if s.background && s.rdB Reg.NET_PORT_STATUS_LINK (lane.val / 8) && decide (2 ^ 24 * 5440 < bitErrors * 100000) then
    s.raise 0x0506 lane none 0
  else s

/-- A bridge lane group retrains (R446). -/
def bridgeFail (s : State) (dir : Fin 2) (g : Fin 8) : State :=
  if !s.powered || s.stage = 0 || s.pw.bridgeBusy.contains (dir, g) || s.pw.bridgeOut.contains (dir, g) then s
  else { s with pw := { s.pw with bridgeBusy := s.pw.bridgeBusy ++ [(dir, g)] } }.raise 0x0206 dir none g

/-- The retraining of a lane group ends; one that failed stays out of service (R446). -/
def bridgeDone (s : State) (dir : Fin 2) (g : Fin 8) (good : Bool) : State :=
  if !s.pw.bridgeBusy.contains (dir, g) then s
  else
    let s := { s with pw := { s.pw with bridgeBusy := s.pw.bridgeBusy.filter (· != (dir, g)) } }
    if good then s
    else { s with pw := { s.pw with bridgeOut := s.pw.bridgeOut ++ [(dir, g)] } }.raise 0x0206 dir none (g.val + 8)

end State

/-! The meanings of the commands of power, pins and clocks. -/

/-- POWER_ON (R495, R503): the power stages start, and Hearth answers in stage RAILS. -/
def execPowerOn (addrSel slotIdStrap : BitVec 3) (s : State) : Host.Outcome State Fault Refusal :=
  act s (if s.pw.mode == .off && !s.pw.latched then s.startUp 0 addrSel slotIdStrap false else s)

/-- VIN_FAULT (R495). -/
def execVinFault (_high : Bool) (s : State) : Host.Outcome State Fault Refusal :=
  act s (if s.pw.mode == .off then s else s.turnOff true)

/-- PWR_EN_FALL (R505): it clears a latched trip or input fault too. -/
def execPwrEnFall (s : State) : Host.Outcome State Fault Refusal := act s (s.turnOff false)

/-- VIO_LOSS (R498) while the module runs; a latched THERMTRIP stays, which only PWR_EN low clears (R501). -/
def execVioLoss (s : State) : Host.Outcome State Fault Refusal :=
  act s (if s.pw.mode == .off || s.pw.mode == .tripped then s else s.turnOff false)

/-- MOD_RESET_ASSERT (R501); a latched THERMTRIP stays. -/
def execModResetAssert (s : State) : Host.Outcome State Fault Refusal :=
  act s (if s.pw.mode == .on || s.pw.mode == .tripped then s.holdReset else s)

/-- MOD_RESET_RELEASE (R501): start-up begins at ROOT. -/
def execModResetRelease (s : State) : Host.Outcome State Fault Refusal :=
  act s (if s.pw.mode == .held then s.startUp 1 s.pw.addrSel s.pw.slotId s.pw.flowOk else s)

/-- FLOW_OK_FILTER_PASS (R504, R526). -/
def execFlowOkFilterPass (s : State) : Host.Outcome State Fault Refusal := act s s.flowHigh

/-- QUENCH_ENTER (R421). -/
def execQuenchEnter (s : State) : Host.Outcome State Fault Refusal := act s s.flowLow

/-- THERMTRIP (R414). -/
def execThermtrip (s : State) : Host.Outcome State Fault Refusal := act s (if s.powered then s.trip else s)

/-- REFCLK_WINDOW (R30, R31). -/
def execRefclkWindow (edges : Nat) (s : State) : Host.Outcome State Fault Refusal := act s (s.refWindow edges)

/-- DROOP_FIRE (R404). -/
def execDroopFire (d : DroopDomain) (s : State) : Host.Outcome State Fault Refusal := act s (s.droopFires d)

/-- DROOP_RELEASE (R404, R405). -/
def execDroopRelease (d : DroopDomain) (suppressed : Nat) (s : State) : Host.Outcome State Fault Refusal :=
  act s (s.droopReleases d suppressed)

/-- PEAK_LIMIT (R410). -/
def execPeakLimit (watts : Nat) (s : State) : Host.Outcome State Fault Refusal :=
  act s (if s.powered && decide (1900 < watts) then (s.wr Reg.PWR_STATUS_DUTY 0 4).wrB Reg.PWR_STATUS_PEAK 0 true else s)

/-- CAP_LOOP_STEP (R406). -/
def execCapLoopStep (m : CapSample) (s : State) : Host.Outcome State Fault Refusal :=
  act s (if !s.powered || s.stage == 0 then s else if s.rd Reg.PWR_STATUS_STATE 0 = 3 then s.sleepPeriod m else s.capPeriod m)

/-- PLL_LOCK (R402, R449). -/
def execPllLock (e : PllLocked) (s : State) : Host.Outcome State Fault Refusal := act s (s.pllLocked e.anvil e.gated)

/-- PLL_SWITCH (R403, R405). -/
def execPllSwitch (a : Fin 4) (s : State) : Host.Outcome State Fault Refusal := act s (s.switchDue a)

/-- PLL_SWITCH_DEFER_EXPIRE (R405): after 256 cycles the switch proceeds. -/
def execPllSwitchDeferExpire (a : Fin 4) (s : State) : Host.Outcome State Fault Refusal :=
  act s (if s.anv[a].pll.defer then s.switchNow a else s)

/-- PLL_LOCK_FAIL (R449). -/
def execPllLockFail (a : Fin 4) (s : State) : Host.Outcome State Fault Refusal := act s (s.pllFails a)

/-- GUARDBAND_STEP (R456). -/
def execGuardbandStep (anvilRail : Bool) (s : State) : Host.Outcome State Fault Refusal := act s (s.guardband anvilRail)

/-- LANE_MARGIN_CHECK (R455). -/
def execLaneMarginCheck (lane : Fin 64) (bitErrors : Nat) (s : State) : Host.Outcome State Fault Refusal :=
  act s (s.laneCheck lane bitErrors)

/-- BRIDGE_RETRAIN (R446). -/
def execBridgeRetrain (dir : Fin 2) (group : Fin 8) (s : State) : Host.Outcome State Fault Refusal :=
  act s (s.bridgeFail dir group)

/-- BRIDGE_RETRAIN_DONE (R446). -/
def execBridgeRetrainDone (dir : Fin 2) (group : Fin 8) (good : Bool) (s : State) : Host.Outcome State Fault Refusal :=
  act s (s.bridgeDone dir group good)

/-- LINK_DOWN (R329). -/
def execLinkDown (p : Fin 8) (s : State) : Host.Outcome State Fault Refusal := act s (s.linkDown p)


/-- PREEMPT_VERIFY (R331). -/
def execPreemptVerify (p : Fin 8) (s : State) : Host.Outcome State Fault Refusal :=
  act s (if s.rdB Reg.NET_PORT_STATUS_LINK p && s.rdB Reg.NET_PORT_CFG_PREEMPT p then
    s.wrB Reg.NET_PORT_STATUS_PREEMPT_ACTIVE p true else s)

/-- STATE_REQ_RUN: PWR_STATE_REQ = 0 written (R417, R419). -/
def execStateReqRun (w : Writer) (s : State) : Host.Outcome State Fault Refusal :=
  act s (s.regWrite w 0x08001C 0 fun s => s.stateReq 0)

/-- STATE_REQ_DOZE (R415). -/
def execStateReqDoze (w : Writer) (s : State) : Host.Outcome State Fault Refusal :=
  act s (s.regWrite w 0x08001C 2 fun s => s.stateReq 2)

/-- STATE_REQ_SLUMBER (R416). -/
def execStateReqSlumber (w : Writer) (s : State) : Host.Outcome State Fault Refusal :=
  act s (s.regWrite w 0x08001C 3 fun s => s.stateReq 3)

/-- DOZE_ENTERED (R415). -/
def execDozeEntered (s : State) : Host.Outcome State Fault Refusal := act s s.enterDoze

/-- SLUMBER_ENTERED (R416). -/
def execSlumberEntered (s : State) : Host.Outcome State Fault Refusal := act s s.enterSlumber

/-- WAKE (R417). -/
def execWake (source : Fin 5) (s : State) : Host.Outcome State Fault Refusal := act s (s.wakeUp source)

/-- PAD_RELEASE (R418). -/
def execPadRelease (w : Writer) (groups : BitVec 7) (s : State) : Host.Outcome State Fault Refusal :=
  act s (s.regWrite w 0x000144 groups.toNat fun s => s.padWrite groups.toNat)

/-- HRT_WAKE_DELAY with a delay and ARM set. -/
def wakeDelayArmed (delay : BitVec 24) : Nat := 2 ^ 24 + delay.toNat

/-- WAKE_DELAY_ARM (R420). -/
def execWakeDelayArm (w : Writer) (delay : BitVec 24) (s : State) : Host.Outcome State Fault Refusal :=
  act s (s.regWrite w 0x000150 (wakeDelayArmed delay) fun s => s.wakeDelayWrite (wakeDelayArmed delay))

/-- WAKE_DELAY_EXPIRE (R420). -/
def execWakeDelayExpire (s : State) : Host.Outcome State Fault Refusal := act s s.wakeDelayExpire

/-- AUX_FUNC_WRITE (R462). -/
def execAuxFuncWrite (w : Writer) (value : Word) (s : State) : Host.Outcome State Fault Refusal :=
  act s (s.regWrite w 0x000184 value.toNat fun s => s.auxWrite value.toNat)

end Sys2Proof.Machine
end

