-- ==== Sys2Proof/Machine/Net.lean ====
section
/-!
DEFINITION. The fabric transport (spec/12): frames and fault injection, connections, delivery, role epochs, reception
and ledgers, remote SIGNAL, collectives, and the answers to ARP and neighbour solicitation.
-/
namespace Sys2Proof.Machine

/-! Byte ranges. -/

/-- A range [a, b) added to a list of disjoint ranges, merged with those it meets. -/
def addRange (a b : Nat) (l : List (Nat × Nat)) : List (Nat × Nat) :=
  let meets (r : Nat × Nat) : Bool := decide (r.1 ≤ b) && decide (a ≤ r.2)
  let hit := l.filter meets
  let lo := hit.foldl (fun x r => min x r.1) a
  let hi := hit.foldl (fun x r => max x r.2) b
  if a = b then l else (l.filter fun r => !meets r) ++ [(lo, hi)]

/-- Whether a list of disjoint merged ranges holds all of [a, b). -/
def hasRange (a b : Nat) (l : List (Nat × Nat)) : Bool := a = b || l.any fun r => decide (r.1 ≤ a) && decide (b ≤ r.2)

/-- The rate weight of a port mode in units of 100 Gb/s (R327). -/
def modeRate (m : Nat) : Nat :=
  if m = 1 then 8 else if m = 2 || m = 3 then 4 else if m = 4 || m = 5 then 2 else if m = 6 || m = 7 then 1 else 0

namespace State

/-! Macro-ops in flight. -/

/-- A macro-op in flight by its number. -/
def opOf (s : State) (id : Nat) : Option Op := s.ops.find? (·.id == id)

/-- A macro-op in flight changed. -/
def modOp (s : State) (id : Nat) (f : Op → Op) : State :=
  { s with ops := s.ops.map fun o => if o.id = id then f o else o }

/-- Condition n of the completion code table arises for a macro-op (R143). -/
def opFlag (s : State) (id n : Nat) : State := s.modOp id fun o => { o with flags := o.flags ||| 2 ^ (n - 1) }

/-- One part of an engine's work due is done. -/
def opDone (s : State) (id : Nat) : State := s.modOp id fun o =>
  match o.work with
  | .engine n => { o with work := .engine (n - 1) }
  | _ => o

/-- n more parts of an engine's work are due. -/
def opMore (s : State) (id n : Nat) : State := s.modOp id fun o =>
  match o.work with
  | .engine m => { o with work := .engine (m + n) }
  | _ => o

/-! Frames and fault injection (R359, R360). -/

/-- The traffic class of a frame (R330); an answer to ARP or neighbour solicitation has none. -/
def frameClass : Frame → Option Nat
  | .fabric _ _ k => some k.cls
  | .address _ _ => none
  | _ => some 3

/-- The transport header of a packet as a number of 256 bits (R332). -/
def wireHeader (psn : Nat) (k : OutPkt) : Nat :=
  1 + k.kind * 2 ^ 4 + k.cls * 2 ^ 8 + b2n k.last * 2 ^ 10 + b2n k.poison * 2 ^ 11 + k.epoch * 2 ^ 16 + k.src * 2 ^ 32 +
  k.dst.toNat * 2 ^ 48 + psn * 2 ^ 64 + k.opId * 2 ^ 96 + k.offset * 2 ^ 128 + k.data.length * 2 ^ 160 + k.unit * 2 ^ 176 +
  k.aux * 2 ^ 192 + k.code * 2 ^ 224

/-- The payload of a packet: DATA carries its address in its first 8 bytes (R332). -/
def wirePayload (k : OutPkt) : List Byte := (if k.kind = 0 then toBytes 8 k.addr else []) ++ k.data

/-- The header and payload of a packet, little-endian (R9, R332). -/
def wireBody (psn : Nat) (k : OutPkt) : List Byte := toBytes 32 (wireHeader psn k) ++ wirePayload k

/-- The bytes of a transport packet from its header to its CRC-32C, which fault injection does not repair (R332, R359):
`orig` is the frame before injection. None for other frames. -/
def wireOf (orig f : Frame) : List Byte := match orig, f with
  | .fabric n _ k, .fabric _ _ k' => wireBody n k' ++ toBytes 4 (crc32c (wireBody n k))
  | _, _ => []

/-- The sum of the 16-bit words of some bytes, most significant byte first. -/
def sum16 : List Byte → Nat
  | [] => 0
  | [a] => a.toNat * 256
  | a :: b :: rest => a.toNat * 256 + b.toNat + sum16 rest

/-- The UDP checksum over IPv6 (R332). -/
def udpSum (src dst sport dport : Nat) (data : List Byte) : Nat :=
  let n := sum16 (toBytes 16 src).reverse + sum16 (toBytes 16 dst).reverse + 2 * (8 + data.length) + 17 + sport + dport + sum16 data
  if n % 65535 = 0 then 65535 else 65535 - n % 65535

/-- The PCP of a class (R330). -/
def classPcp (c : Nat) : Nat := if c = 0 then 6 else if c = 1 then 4 else if c = 2 then 2 else 0

/-- The DSCP of a class (R330). -/
def classDscp (c : Nat) : Nat := if c = 0 then 46 else if c = 1 then 34 else if c = 2 then 18 else 0

/-- Whether a frame carries an 802.1Q tag: transport and RoCEv2 frames do (R328). -/
def isTagged : Frame → Bool
  | .fabric .. => true
  | .roce .. => true
  | .cnp .. => true
  | _ => false

/-- The binding of a frame's queue pair. -/
def frameQp (s : State) (f : Frame) : Option QpArgs :=
  let args (n : Nat) : Option QpArgs := (Tab.get (fun _ => none) s.net.qps n).map (·.args)
  match f with
  | .roce n .. => args n
  | .cnp n _ => args n
  | _ => none

/-- The IP and UDP headers of a frame (R330, R332, R358), a transport packet's checksum being over its bytes `wire`; the
remote GID of a queue pair is the address of its frames, IPv4-mapped under FAMILY 0. -/
def ipUdp (s : State) (p : Fin 8) (f : Frame) (wire : List Byte) : Option IpUdp :=
  let v6 := s.rdB Reg.NET_PORT_CFG_FAMILY p
  let src := s.rd Reg.NET_PORT_IP_IP p
  let mk (dst cls : Nat) (ect0 : Bool) (sport dport : Nat) (sum : Option Nat) : Option IpUdp :=
    some ⟨v6, src, dst, classDscp cls, ect0, sport, dport, sum⟩
  let gid := ((s.frameQp f).map fun q => if v6 then q.destGid.toNat else q.destGid.toNat % 2 ^ 32).getD 0
  match f with
  | .fabric psn a k =>
    let sport := 49152 + psn % 16384
    mk a k.cls true sport 30919 (some (if v6 then udpSum src a sport 30919 wire else 0))
  | .roce n .. => mk gid 3 false (49152 + n) 4791 none
  | .cnp n _ => mk gid 3 false (49152 + n) 4791 none
  | .datagram ip udp _ => mk ip 3 false 30917 udp none
  | .address _ _ => none

/-- A frame as a port sends it: to NEXTHOP, tagged with the port's VID where frames of its kind are (R328 to R332). With
PREEMPT_ACTIVE only Urgent frames and those of no class are express: DESIGN CHOICE for the latter, an answer to ARP or
neighbour solicitation has no class (log entry 179). -/
def sentFrame (s : State) (p : Fin 8) (orig f : Frame) : Sent :=
  let tag := if isTagged f then some (s.rd Reg.NET_PORT_CFG_VID p, classPcp ((frameClass f).getD 3)) else none
  let wire := wireOf orig f
  let express := !s.rdB Reg.NET_PORT_STATUS_PREEMPT_ACTIVE p || (frameClass f).getD 0 == 0
  ⟨p.val, s.rd Reg.NET_PORT_NEXTHOP_MAC p, s.rd Reg.NET_PORT_MAC_MAC p, tag, express, s.ipUdp p f wire,
    (s.frameQp f).map (·.destQpn.toNat), f, wire⟩

/-- Whether a port sends transport and RoCEv2 frames: its address and next hop are set (R329). -/
def portSends (s : State) (p : Nat) : Bool :=
  s.rdB Reg.NET_PORT_STATUS_LINK p && s.rd Reg.NET_PORT_IP_IP p != 0 && s.rd Reg.NET_PORT_NEXTHOP_MAC p != 0

/-- Whether a frame may leave a port now: its link is up, a transport or RoCEv2 frame needs the port's address and next hop,
and in Quench only ACK and NAK packets leave (R329, R421). -/
def mayLeave (s : State) (p : Fin 8) (f : Frame) : Bool := match f with
  | .fabric _ _ k => s.portSends p && (!s.quench || k.kind == 2 || k.kind == 3)
  | .roce .. => s.portSends p && !s.quench
  | .cnp .. => s.portSends p && !s.quench
  | .address .. => s.rdB Reg.NET_PORT_STATUS_LINK p && !s.quench
  | .datagram .. => s.rdB Reg.NET_PORT_STATUS_LINK p && !s.quench

/-- A frame leaves a port, and the frames held for REORDER count it; `orig` is what it was before fault injection. A held
frame that may not leave when its turn comes is not sent: DESIGN CHOICE, R359 does not say what becomes of it (log entry
178). -/
def frameOut (s : State) (p : Fin 8) (orig f : Frame) : State :=
  let x := s.net.fi[p]
  let held := x.held.map fun (h : Frame × Nat) => (h.1, h.2 - 1)
  let due := ((held.filter fun h => h.2 == 0 && s.mayLeave p h.1)).map fun h => s.sentFrame p h.1 h.1
  let net := { s.net with
    sent := s.net.sent ++ [s.sentFrame p orig f] ++ due
    fi := s.net.fi.set p { x with held := held.filter fun h => h.2 != 0 } }
  { s with net := net }.inc Reg.NET_TX_FRAMES_COUNT p (1 + due.length)

/-- A frame with one payload bit inverted; the address of a DATA packet belongs to its payload (R332). -/
def corruptFrame (bit : Nat) : Frame → Frame
  | .fabric n a k =>
    let b := bit % (8 * (wirePayload k).length)
    let i := if k.kind = 0 then b - 64 else b
    if wirePayload k = [] then .fabric n a k
    else if k.kind = 0 && decide (b < 64) then .fabric n a { k with addr := k.addr ^^^ 2 ^ b }
    else .fabric n a { k with data := modAt (fun x => x ^^^ BitVec.ofNat 8 (2 ^ (i % 8))) (i / 8) k.data }
  | .roce q c n a key len d =>
    if d = [] then .roce q c n a key len d
    else
      let b := bit % (8 * d.length)
      .roce q c n a key len (modAt (fun x => x ^^^ BitVec.ofNat 8 (2 ^ (b % 8))) (b / 8) d)
  | .cnp q body => .cnp q (body ^^^ 2 ^ (bit % 128))
  | .datagram ip udp d =>
    let b := bit % max 1 (8 * d.length)
    .datagram ip udp (modAt (fun x => x ^^^ BitVec.ofNat 8 (2 ^ (b % 8))) (b / 8) d)
  | .address t m => .address t m

/-- A frame sent on a port, with the injection the port's draw selects (R359); one that may not leave is not sent. -/
def sendFrame (s : State) (p : Fin 8) (f : Frame) : State :=
  if !s.mayLeave p f then s
  else if s.rdB Reg.NET_FI_CTRL_ARM p && ((frameClass f).map (bit (s.rd Reg.NET_FI_CTRL_CLASSES p))).getD false then
    let x := s.net.fi[p]
    let w := Config.lfsrNext x.lfsr
    let hit (en rate : Field) (i : Nat) : Bool := s.rdB en p && decide ((Config.fiDraw w i).toNat < s.rd rate p)
    let drop := hit Reg.NET_FI_CTRL_DROP_EN Reg.NET_FI_RATE_DROP 0
    let corrupt := hit Reg.NET_FI_CTRL_CORRUPT_EN Reg.NET_FI_RATE_CORRUPT 1
    let reorder := hit Reg.NET_FI_CTRL_REORDER_EN Reg.NET_FI_RATE_REORDER 2
    let s := { s with net := { s.net with fi := s.net.fi.set p { x with lfsr := w } } }
    let s := if drop || corrupt || reorder then s.inc Reg.NET_FI_ACTIONS_COUNT p 1 else s
    if drop then s
    else if corrupt then s.frameOut p f (corruptFrame (Config.fiBit w) f)
    else if reorder then
      let held := x.held ++ [(f, s.rd Reg.NET_FI_CTRL_REORDER_DEPTH p)]
      { s with net := { s.net with fi := s.net.fi.set p { lfsr := w, held := held } } }
    else s.frameOut p f f
  else s.frameOut p f f

/-- The frames a port holds for REORDER leave it, those that may: no later frame came within 2,400 fabric cycles (R359). -/
def reorderFlush (s : State) (p : Fin 8) : State :=
  let x := s.net.fi[p]
  let due := (x.held.filter fun h => s.mayLeave p h.1).map fun h => s.sentFrame p h.1 h.1
  let net := { s.net with sent := s.net.sent ++ due, fi := s.net.fi.set p { x with held := [] } }
  { s with net := net }.inc Reg.NET_TX_FRAMES_COUNT p due.length

/-! Connections (R333, R334). -/

/-- A slot's peer table entry (R364). -/
def peerEntry (s : State) (slot idx : Nat) : Nat := s.peek (s.rd Reg.NET_SLOT_PEER_BASE slot + 128 * idx) 128

/-- Whether a slot's table has a valid entry of an index (R345). -/
def peerValid (s : State) (slot idx : Nat) : Bool :=
  decide (idx < s.rd Reg.NET_SLOT_PEER_LEN slot) && bit (s.peerEntry slot idx) 17

/-- The place of a slot's peer table entry, where the table has it. -/
def peerLook (s : State) (slot idx : Nat) : List (Nat × Nat) :=
  if idx < s.rd Reg.NET_SLOT_PEER_LEN slot then [(s.rd Reg.NET_SLOT_PEER_BASE slot + 128 * idx, 128)] else []

/-- The port at a position of a peer entry's network. -/
def posPort (peer k : Nat) : Fin 8 := Fin.ofNat 8 (4 * bits peer 16 16 + k)

/-- The usable positions of a peer entry (R334). -/
def usable (s : State) (peer : Nat) : List Nat :=
  (List.range 4).filter fun k => bit peer (18 + k) && s.portSends (posPort peer k)

/-- The position whose turn it is, dealing in proportion to port rate. -/
def dealPos (s : State) (peer turn : Nat) : Option Nat :=
  let w := (s.usable peer).map fun k => (k, max 1 (modeRate (s.rd Reg.NET_PORT_STATUS_MODE_ACTIVE (posPort peer k))))
  let total := (w.map (·.2)).sum
  let t := if total = 0 then 0 else turn % total
  (w.foldl (fun (x : Option Nat × Nat) e =>
    (if x.1.isNone && t < x.2 + e.2 then some e.1 else x.1, x.2 + e.2)) (none, 0)).1

/-- The address ADDRk of a peer entry. -/
def peerAddr (peer k : Nat) : Nat := bits peer (255 + 128 * k) (128 + 128 * k)

/-- Whether transport packets other than ACK and NAK may be sent: the device has an identity and is not in Quench
(R363, R421). -/
def mayTransmit (s : State) : Bool := s.powered && !s.quench && s.rd Reg.NET_DEV_ID_DEV_ID 0 != 0

/-- NET_DEV_ID. -/
def devId (s : State) : Nat := s.rd Reg.NET_DEV_ID_DEV_ID 0

/-- A connection replaced. -/
def setConn (s : State) (c : Conn) : State :=
  let others := s.net.conns.filter fun x => !(x.dev == c.dev && x.dst == c.dst && x.cls == c.cls)
  { s with net := { s.net with conns := others ++ [c] } }

/-- The connection to a device in a class, under the present NET_DEV_ID (R333). -/
def connOf (s : State) (dst : BitVec 16) (cls : Nat) : Conn :=
  (s.net.conns.find? fun x => x.dev == s.devId && x.dst == dst && x.cls == cls).getD ⟨s.devId, dst, cls, 0, [], [], false, 0⟩

/-- The connection that holds a packet unanswered: the present one, or one of an earlier NET_DEV_ID. -/
def connWith (s : State) (dst : BitVec 16) (cls psn : Nat) : Conn :=
  let holds (c : Conn) : Bool := c.una.any (·.psn == psn)
  let c := s.connOf dst cls
  if holds c then c else (s.net.conns.find? fun x => x.dst == dst && x.cls == cls && holds x).getD c

/-- NET_DEV_ID changed: packets that wait for a PSN go to the connections of the new identity, whose PSNs start at 0
(R333); those sent under the old one stay unanswered in theirs. -/
def reidentify (s : State) : State :=
  let old := s.net.conns.filter fun c => c.dev != s.devId && c.wait != []
  old.foldl (fun s c =>
    let n := s.connOf c.dst c.cls
    (s.setConn { c with wait := [] }).setConn { n with wait := n.wait ++ c.wait }) s

/-- Waiting packets of a connection sent while the window of 2,048 and a usable position of their peer's entry allow, at most
n of them. -/
def pumpN (s : State) (dst : BitVec 16) (cls : Nat) : Nat → State
  | 0 => s
  | n + 1 =>
    let c := s.connOf dst cls
    match c.wait with
    | [] => s
    | k :: rest => match s.dealPos k.peer c.turn with
      | none => s
      | some pos =>
        if !s.mayTransmit || 2048 ≤ c.una.length then s
        else
          let psn := c.next
          let k := { k with src := c.dev }
          let c := { c with next := (psn + 1) % 2 ^ 32, una := c.una ++ [⟨psn, pos, k, 0, false⟩], wait := rest, turn := c.turn + 1 }
          pumpN ((s.setConn c).sendFrame (posPort k.peer pos) (.fabric psn (peerAddr k.peer pos) k)) dst cls n

/-- A connection's waiting packets sent as far as they may be. -/
def pump (s : State) (dst : BitVec 16) (cls : Nat) : State := s.pumpN dst cls (s.connOf dst cls).wait.length

/-- Every connection's waiting packets sent as far as they may be. -/
def pumpAll (s : State) : State := s.net.conns.foldl (fun s c => s.pump c.dst c.cls) s

/-- Packets given to the connection of a peer entry and class. -/
def transmit (s : State) (peer cls : Nat) (ks : List OutPkt) : State :=
  let dst := BitVec.ofNat 16 peer
  let c := s.connOf dst cls
  (s.setConn { c with wait := c.wait ++ ks.map fun k => { k with peer := peer } }).pump dst cls

/-- A capture record of a retransmission or NAK (R458): TYPE, CODE and the packet's place. -/
def captureNet (s : State) (p : Fin 8) (kind code cls : Nat) (dev : BitVec 16) (psn opId : Nat) : State :=
  let body := p.val + kind * 2 ^ 8 + code * 2 ^ 16 + cls * 2 ^ 24 + dev.toNat * 2 ^ 32 + psn * 2 ^ 64 + opId * 2 ^ 96
  s.capture (Fin.ofNat 2 (p.val / 2 % 2)) 3 body

/-- A packet sent again on the position whose turn it is, counted and captured (R337, R458). -/
def resend (s : State) (dst : BitVec 16) (cls psn : Nat) : State :=
  let c := s.connWith dst cls psn
  match c.una.find? (·.psn == psn) with
  | none => s
  | some u => match s.dealPos u.pkt.peer c.turn with
    | none => s
    | some pos =>
      if !s.mayTransmit then s
      else
        let una := c.una.map fun x => if x.psn = psn then { x with pos := pos } else x
        let s := s.setConn { c with una := una, turn := c.turn + 1 }
        let p := posPort u.pkt.peer pos
        ((s.sendFrame p (.fabric psn (peerAddr u.pkt.peer pos) u.pkt)).inc Reg.NET_RETX_COUNT p 1).captureNet p u.pkt.kind 0 cls dst psn u.pkt.opId

/-- What a layer's statistics all-reduce is known by, where a macro-op's number stands elsewhere. -/
def layerOwn (entry : Nat) : Nat := 2 ^ 64 + entry

/-- A layer whose statistics all-reduce an owner number names changed (R256). -/
def modStats (s : State) (own : Nat) (f : Layer → Layer) : State :=
  { s with layers := s.layers.map fun l => if layerOwn l.entry = own && l.phase = .stats then f l else l }

/-- A packet of a macro-op is answered: its engine has one part less to do. -/
def answered (s : State) (own : Nat) : State := s.opDone own

/-! Landing in the gradient shards of armed layers (R253, R254). -/

/-- A field of a layer table entry (R249). -/
def lt (s : State) (entry hi lo : Nat) : Nat := bits (s.peek entry 128) hi lo

/-- A layer's gradient shard: base and bytes. -/
def shardOf (s : State) (entry : Nat) : Nat × Nat :=
  let e := s.peek entry 128
  (bits e 47 0, bits e 127 96 * bits e 159 128 * (if bit e 51 then 2 else 4))

/-- The home port Sprig of a layer. -/
def homeOf (s : State) (entry : Nat) : Nat := s.lt entry 50 48

/-- Lines of a Sprig's Trough in use, of 16,384. -/
def troughUse (s : State) (home : Nat) : Nat :=
  ((s.layers.filter fun l => s.homeOf l.entry == home).map fun l => l.trough.length).sum

/-- A landing recorded for one armed layer, and its lines, as memory holds them once written, put into the Trough while it
has room (R254). -/
def landOne (s : State) (a n : Nat) (l : Layer) : State :=
  let (b, len) := s.shardOf l.entry
  if !overlaps a n b len then s
  else
    let lo := max a b
    let hi := min (a + n) (b + len)
    let room := 16384 - s.troughUse (s.homeOf l.entry)
    let line (x : Nat) : Nat × List Byte × Bool := (x, s.bytesAt (64 * x) 64, s.linePoison x)
    let (again, new) := (span (lo / 64) ((hi - 1) / 64 + 1 - lo / 64)).partition fun x => l.trough.any (·.1 == x)
    let kept := l.trough.map fun x => if again.contains x.1 then line x.1 else x
    let l' := { l with landed := addRange (lo - b) (hi - b) l.landed, trough := kept ++ (new.take room).map line }
    { s with layers := s.layers.map fun x => if x.entry = l.entry && x.op = l.op then l' else x }

/-- Bytes landing from the transport or a collective: for the armed layers whose shards they meet (R253). -/
def land (s : State) (a n : Nat) : State := if n = 0 then s else s.layers.foldl (fun s l => s.landOne a n l) s

/-- Whether bytes meet the gradient shard of an armed layer. -/
def landsArmed (s : State) (a n : Nat) : Bool :=
  s.layers.any fun l => overlaps a n (s.shardOf l.entry).1 (s.shardOf l.entry).2

/-- Whether bytes meet the gradient shard of a layer that is not armed: what a port Sprig's unit addresses, or a shard
named by an UPDATE so far. DESIGN CHOICE: R253 does not say how the Fercel knows the shards of layers it has not armed
(log entry 177). -/
def landsUnarmed (s : State) (unit a n : Nat) : Bool :=
  n != 0 && !s.landsArmed a n && (within 64 8 unit || s.net.shards.any fun x => overlaps a n x.2.2.1 x.2.2.2)

/-- A landing into a layer that is not armed (R253). -/
def unarmed (s : State) (a : Nat) : State :=
  let first := s.rd Reg.UPD_UNARMED_COUNT 0 = 0
  let s := s.inc Reg.UPD_UNARMED_COUNT 0 1
  if first then s.raise 0x0801 0 none (a / 2 ^ 18) else s

/-! Receiving (R335, R336, R340). -/

/-- The die of a port. -/
def portDie (p : Fin 8) : Fin 2 := Fin.ofNat 2 (p.val / 2 % 2)

/-- The receiving side of a connection, under the present NET_DEV_ID (R333). -/
def rxOf (s : State) (src : BitVec 16) (cls : Nat) : RxConn :=
  (s.net.rx.find? fun x => x.dev == s.devId && x.src == src && x.cls == cls).getD ⟨s.devId, src, cls, 0, [], 0, false, 0, 0, none, []⟩

/-- The receiving side of a connection replaced. -/
def setRx (s : State) (c : RxConn) : State :=
  let others := s.net.rx.filter fun x => !(x.dev == c.dev && x.src == c.src && x.cls == c.cls)
  { s with net := { s.net with rx := others ++ [c] } }

/-- Whether a PSN has been performed; PSNs are compared modulo 2^32. -/
def performed (c : RxConn) (psn : Nat) : Bool :=
  decide (2 ^ 31 ≤ (psn + 2 ^ 32 - c.floor) % 2 ^ 32) || c.above.contains psn

/-- The floor of a connection raised over the PSNs performed above it, n at most. -/
def raiseFloor : Nat → RxConn → RxConn
  | 0, c => c
  | n + 1, c =>
    if c.above.contains c.floor then
      raiseFloor n { c with above := c.above.filter (· != c.floor), floor := (c.floor + 1) % 2 ^ 32 }
    else c

/-- A PSN performed. -/
def perform (c : RxConn) (psn : Nat) : RxConn :=
  raiseFloor (c.above.length + 1) { c with above := c.above ++ [psn], fresh := c.fresh + 1 }

/-- The last PSN of a connection below which all are performed. -/
def cumPsn (c : RxConn) : Nat := (c.floor + 2 ^ 32 - 1) % 2 ^ 32

/-- The SACK map of a connection (R332). -/
def sackMap (c : RxConn) : Nat :=
  (List.range 64).foldl (fun x i => if c.above.contains ((c.floor + i) % 2 ^ 32) then x + 2 ^ i else x) 0

/-- An ACK of a connection, through the port its packets arrive on, while that port sends (R329, R334, R336). An ACK with
POISON set and the operation's number tells a remote SIGNAL of a marked flag, which R332 gives no other place. -/
def sendAck (s : State) (c : RxConn) : State :=
  let p : Fin 8 := Fin.ofNat 8 c.port
  let k : OutPkt := ⟨0, c.src, c.cls, 2, true, c.marked.isSome, 0, c.marked.getD 0, 0, 0, cumPsn c, b2n c.ce, 0, 0,
    toBytes 8 (sackMap c), c.dev, 0⟩
  if s.portSends p && s.devId != 0 then (s.setRx { c with fresh := 0, ce := false, marked := none }).sendFrame p (.fabric c.floor c.ip k)
  else s.setRx c

/-- A NAK of a packet with a reason: 1 ROLE_STALE, 2 UNIT, 3 BUSY (R332, R335), while the port sends (R329). -/
def sendNak (s : State) (p : Fin 8) (k : Packet) (code : Nat) : State :=
  let c := s.rxOf k.srcDev k.cls
  let o : OutPkt := ⟨0, k.srcDev, k.cls.val, 3, true, false, k.epoch.toNat, k.opId.toNat, k.offset.toNat, k.unit.toNat,
    cumPsn c, code, 0, 0, [], c.dev, 0⟩
  if s.portSends p then
    (s.sendFrame p (.fabric k.psn.toNat k.srcIp.toNat o)).captureNet p 3 code k.cls.val k.srcDev k.psn.toNat k.opId.toNat
  else s

/-- What the checks of R335 before UNIT leave of a received packet: the counted discard, or the packet passed on. -/
def rxChecked (s : State) (p : Fin 8) (k : Packet) : State × Bool :=
  if !s.rdB Reg.NET_PORT_STATUS_LINK p then (s, false)
  else
    let s := s.inc Reg.NET_RX_FRAMES_COUNT p 1
    let drop := (s.inc Reg.NET_RX_DROP_COUNT p 1, false)
    if !k.fcsOk || 9216 < k.bytes then drop
    else if k.vid.toNat ≠ s.rd Reg.NET_PORT_CFG_VID p then drop
    else if s.rdB Reg.NET_PORT_CFG_FAMILY p && !k.udpOk then drop
    else if k.ver ≠ 1 || k.badType then drop
    else if k.dstDev.toNat ≠ s.rd Reg.NET_DEV_ID_DEV_ID 0 || k.dstDev = 0 then (s.inc Reg.NET_RX_MISDIRECT_COUNT p 1, false)
    else if !k.crcOk then (s.inc Reg.NET_RX_CRC_COUNT p 1, false)
    else (s, true)

/-- A packet applied: its PSN is performed, and an ACK follows after 16 of them (R336). -/
def rxPerformed (s : State) (p : Fin 8) (k : Packet) : State :=
  let c := perform (s.rxOf k.srcDev k.cls) k.psn.toNat
  let c := { c with ce := c.ce || k.ce, port := p.val, ip := k.srcIp.toNat }
  let s := s.setRx c
  if 16 ≤ c.fresh || c.marked.isSome then s.sendAck c else s

/-- The checks of R335 from the duplicate PSN on, around what applies a packet; `full` says that the reception state is
full for it. -/
def receive (s : State) (p : Fin 8) (k : Packet) (full : State → Bool) (apply : State → State) : State :=
  let (s, ok) := s.rxChecked p k
  if !ok then s
  else State.frameWake <|
    let c := s.rxOf k.srcDev k.cls
    if performed c k.psn.toNat then
      s.sendAck { c with port := p.val, ip := k.srcIp.toNat, ce := c.ce || k.ce, marked := (c.refused.find? (·.1 == k.psn.toNat)).map (·.2) }
    else if 88 ≤ k.unit.toNat then s.sendNak p k 2
    else if k.epoch.toNat ≠ s.rd Reg.NET_EPOCH_EPOCH k.unit.toNat then
      (s.inc Reg.NET_ROLE_STALE_COUNT p 1).sendNak p k 1
    else if !s.memUp || s.quench || full s then s.sendNak p k 3
    else (apply s).rxPerformed p k

/-- The reception state of an operation. -/
def recOf (s : State) (k : Packet) : Option Recept :=
  s.net.recs.find? fun r => r.src == k.srcDev && r.opId == k.opId.toNat

/-- The tags that a ring's ledger holds or will hold for receptions under way (R346). -/
def ringTags (s : State) (r : Fin 48) : List Nat :=
  let open_ := (s.net.recs.filter fun x => x.unit == r.val).map (·.tag)
  (s.rings[r].ledger.map (·.1) ++ open_).eraseDups

/-- Whether a DATA packet finds its reception state or its ring's ledger full (R338, R346). -/
def recFull (s : State) (k : Packet) : Bool :=
  (s.recOf k).isNone && (decide (4096 ≤ s.net.recs.length) ||
    (if h : k.unit.toNat < 48 then
      let tags := s.ringTags ⟨k.unit.toNat, h⟩
      decide (64 ≤ tags.length) && !tags.contains k.tag.toNat
    else false))

/-- An operation wholly performed counts in the ledger of the ring it names (R346). -/
def countTag (s : State) (unit tag : Nat) : State :=
  if h : unit < 48 then
    let r := s.rings[unit]
    let l := r.ledger
    { s with rings := s.rings.set unit { r with ledger := Tab.set (fun _ => 0) l tag (Tab.get (fun _ => 0) l tag + 1) } }
  else s

/-- The bytes of a packet recorded in its operation's reception state, which is freed when wholly performed (R338). -/
def recordBytes (s : State) (k : Packet) : State :=
  let r := (s.recOf k).getD ⟨k.srcDev, k.opId.toNat, [], none, k.unit.toNat, k.tag.toNat⟩
  let total := if k.last then some k.aux.toNat else r.total
  let got := addRange k.offset.toNat (k.offset.toNat + k.data.length) r.got
  let others := s.net.recs.filter fun x => !(x.src == k.srcDev && x.opId == k.opId.toNat)
  match total with
  | some n =>
    if hasRange 0 n got then { s with net := { s.net with recs := others } }.countTag k.unit.toNat k.tag.toNat
    else { s with net := { s.net with recs := others ++ [{ r with got := got, total := total }] } }
  | none => { s with net := { s.net with recs := others ++ [{ r with got := got }] } }

/-- Whether DATA lies where it may not: beyond the space, in the reserved region other than the doorbell page, or
outside the region of the pool whose free ring it names (R348). -/
def dataOut (s : State) (unit a n : Nat) : Bool :=
  n != 0 && (decide (spaceEnd < a + n) ||
    (decide (resPage * 2 ^ 18 < a + n) && !(decide (doorbellPage * 2 ^ 18 ≤ a))) ||
    (within 72 16 unit && !(decide (s.poolBase (unit - 72) ≤ a) &&
      decide (a + n ≤ s.poolBase (unit - 72) + s.poolBytes (unit - 72)))))

/-- The slot of a unit that is a ring. -/
def unitSlot (u : Nat) : Option (Fin 8) := if u < 48 then some (Fin.ofNat 8 (u % 24 / 3)) else none

/-- A DATA packet applied (R335, R345, R348). -/
def applyData (s : State) (p : Fin 8) (k : Packet) : State :=
  let a := k.addr.toNat
  let n := k.data.length
  if s.dataOut k.unit.toNat a n then
    let first := s.rd Reg.NET_RX_RANGE_COUNT p = 0
    let s := s.inc Reg.NET_RX_RANGE_COUNT p 1
    let s := if first then s.raise 0x0504 k.unit.toNat none k.srcDev.toNat else s
    s.recordBytes k
  else
    let via : Via := ⟨portDie p, unitSlot k.unit.toNat, k.cls != 3, 1⟩
    let s := s.store via a k.data
    let s := if k.poison then s.poisonRange a n else s
    let s := if s.landsUnarmed k.unit.toNat a n then s.unarmed a else s
    (s.land a n).recordBytes k

/-! Remote SIGNAL (R317, R347). -/

/-- The flag's new value: 0 SET, 1 ADD, 2 MAX. -/
def signalValue (op width old v : Nat) : Nat :=
  let m := 2 ^ (if width = 1 then 64 else 32)
  if op = 0 then v % m else if op = 1 then (old + v) % m else max old (v % m)

/-- The read-modify-write of a flag, and whether it was made: it is not where the flag's line carries the marker. -/
def signalWrite (s : State) (via : Via) (flag v width op : Nat) : State × Bool :=
  let n := if width = 1 then 8 else 4
  let s := s.readRange via flag n
  if s.poisoned flag n then (s, false)
  else (s.update via flag (toBytes n (signalValue op width (s.peek flag n) v)), true)

/-- The payload of a remote SIGNAL: FLAG, VALUE, WIDTH and OP in the order R347 lists them. -/
def signalPayload (flag v width op : Nat) : List Byte := toBytes 8 flag ++ toBytes 8 v ++ toBytes 1 width ++ toBytes 1 op

/-- A MSG packet applied; a flag that carries the marker is not written, and the answer says so (R317). -/
def applyMsg (s : State) (p : Fin 8) (k : Packet) : State :=
  let flag := ofBytes (k.data.take 8) % 2 ^ 48
  let v := ofBytes ((k.data.drop 8).take 8)
  let width := ofBytes ((k.data.drop 16).take 1) % 2
  let op := ofBytes ((k.data.drop 17).take 1) % 4
  match s.signalWrite ⟨portDie p, unitSlot k.unit.toNat, true, 1⟩ flag v width op with
  | (s, true) => s
  | (s, false) =>
    let c := s.rxOf k.srcDev k.cls
    let near := c.refused.filter fun x => decide ((k.psn.toNat + 2 ^ 32 - x.1) % 2 ^ 32 < 4096)
    s.setRx { c with marked := some k.opId.toNat, refused := near ++ [(k.psn.toNat, k.opId.toNat)] }

/-! Answers (R336, R337). -/

/-- Whether a PSN is at or before another. -/
def psnLe (a b : Nat) : Bool := decide ((b + 2 ^ 32 - a) % 2 ^ 32 < 2 ^ 31)

/-- The rate toward a peer halved; whether an RTO has passed since the last halving is not counted here, so a further
halving is free. -/
def halveRate (s : State) (dst : BitVec 16) : State :=
  let d := dst.toNat
  let again := s.choose 2 = 1
  let full := fun (_ : Nat) => 2 ^ 32
  if s.net.halved.contains d && !again then s.tick
  else
    let net := { s.net with
      rates := Tab.set full s.net.rates d (Tab.get full s.net.rates d / 2)
      halved := insertSorted d s.net.halved }
    { s with net := net }.tick

/-- The rate toward a peer raised by 1/64 of the full rate (R336). -/
def raiseRate (s : State) (dst : BitVec 16) : State :=
  let full := fun (_ : Nat) => 2 ^ 32
  let d := dst.toNat
  { s with net := { s.net with rates := Tab.set full s.net.rates d (min (2 ^ 32) (Tab.get full s.net.rates d + 2 ^ 26)) } }

/-- An ACK received: the packets it covers are answered, a packet passed by three later ones is sent again, and an echo
halves the rate (R336, R337). -/
def ackArrives (s : State) (p : Fin 8) (k : Packet) : State :=
  let (s, ok) := s.rxChecked p k
  if !ok then s
  else
    let s := s.frameWake
    let c := s.connOf k.srcDev k.cls
    let cum := k.aux.toNat
    let sack := ofBytes (k.data.take 8)
    let sacked (n : Nat) : Bool := let i := (n + 2 ^ 32 - (cum + 1)) % 2 ^ 32; decide (i < 64) && bit sack i
    let covered (u : Unacked) : Bool := psnLe u.psn cum || sacked u.psn
    let done := c.una.filter covered
    let left := c.una.filter fun u => !covered u
    let later (u : Unacked) : Nat := ((List.range 64).filter fun i => bit sack i &&
      psnLe u.psn ((cum + 1 + i) % 2 ^ 32)).length
    let s := s.setConn { c with una := left }
    let s := done.foldl (fun s u =>
      (if k.poison && u.pkt.kind == 1 && u.pkt.opId == k.opId.toNat then s.opFlag u.pkt.own 1 else s).answered u.pkt.own) s
    let s := (left.filter fun u => decide (3 ≤ later u)).foldl (fun s u =>
      s.resend k.srcDev k.cls u.psn) s
    let s := if bit k.code.toNat 0 then s.halveRate k.srcDev else s
    s.pump k.srcDev k.cls

/-- A collective whose packet was refused as stale takes part no more: its macro-op completes once its packets are all
answered (R340). -/
def collRefused (s : State) (own : Nat) : State :=
  if s.net.colls.any fun c => c.own == own && !c.stats then
    { s with net := { s.net with colls := s.net.colls.filter fun c => !(c.own == own && !c.stats) } }.opDone own
  else s

/-- A NAK received (R337, R340). -/
def nakArrives (s : State) (p : Fin 8) (k : Packet) : State :=
  let (s, ok) := s.rxChecked p k
  if !ok then s
  else
    let s := s.frameWake
    let c := s.connOf k.srcDev k.cls
    let psn := k.psn.toNat
    let s := s.captureNet p 3 k.code.toNat k.cls.val k.srcDev psn k.opId.toNat
    match c.una.find? (·.psn == psn) with
    | none => s
    | some u =>
      if k.code.toNat = 3 then
        s.setConn { c with una := c.una.map fun x => if x.psn = psn then { x with busy := true } else x }
      else
        let s := (s.setConn { c with una := c.una.filter (·.psn != psn) }).collRefused u.pkt.own
        (((s.opFlag u.pkt.own 5).modStats u.pkt.own fun l => { l with stale := true }).answered u.pkt.own).pump k.srcDev k.cls

/-- A packet's retransmit timer expires (R337). -/
def rtoExpires (s : State) (dst : BitVec 16) (cls psn : Nat) : State :=
  let c := s.connWith dst cls psn
  match c.una.find? (·.psn == psn) with
  | none => s
  | some u =>
    if !s.mayTransmit then s
    else
      let n := if u.busy then u.expiries else u.expiries + 1
      let una := c.una.map fun x => if x.psn = psn then { x with expiries := n, busy := false } else x
      let lost := n = s.rd Reg.NET_XPORT_CFG_UNREACH 0 && !u.busy && !c.unreach
      let s := s.setConn { c with una := una, unreach := c.unreach || lost }
      let port := posPort u.pkt.peer u.pos
      let s := if lost then s.raise 0x0503 port none (dst.toNat + cls * 2 ^ 16) else s
      s.resend dst cls psn

/-! Sending operations. -/

/-- The next operation number (R332). -/
def takeOpId (s : State) : State × Nat :=
  ({ s with net := { s.net with nextOp := (s.net.nextOp + 1) % 2 ^ 32 } }, s.net.nextOp)

/-- The runs of a byte range that travel apart: a line that carries the marker alone, other bytes together. Lines from
`line` on, `n` of them, of the range [a, b). -/
def poisonRuns (s : State) (a b line : Nat) : Nat → List (Nat × Nat × Bool)
  | 0 => []
  | n + 1 =>
    let lo := max a (64 * line)
    let hi := min b (64 * line + 64)
    let rest := s.poisonRuns a b (line + 1) n
    if s.linePoison line then (lo, hi, true) :: rest
    else match rest with
      | (_, h, false) :: t => (lo, h, false) :: t
      | t => (lo, hi, false) :: t

/-- A run cut into pieces of at most `mx` bytes. -/
def cutRun (mx : Nat) (r : Nat × Nat × Bool) : List (Nat × Nat × Bool) :=
  (List.range (ceilDiv (r.2.1 - r.1) mx)).map fun i => (r.1 + i * mx, min r.2.1 (r.1 + (i + 1) * mx), r.2.2)

/-- The pieces of a source range as packets carry them (R345). -/
def sourcePieces (s : State) (a n mx : Nat) : List (Nat × Nat × Bool) :=
  if n = 0 then [] else (s.poisonRuns a (a + n) (a / 64) ((a + n - 1) / 64 + 1 - a / 64)).flatMap (cutRun mx)

/-- The DATA packets of a SEND (R332, R345). -/
def dataPackets (s : State) (own opId : Nat) (dst : BitVec 16) (cls epoch unit tag src at_ n : Nat) : List OutPkt :=
  let mk (o : Nat) (last : Bool) (poison : Bool) (d : List Byte) : OutPkt :=
    ⟨own, dst, cls, 0, last, poison, epoch, opId, o, unit, if last then n else 0, 0, tag, at_ + o, d, 0, 0⟩
  if n = 0 then [mk 0 true false []]
  else (s.sourcePieces src n (if cls = 0 then 256 else 8184)).map fun x =>
    mk (x.1 - src) (x.2.1 == src + n) x.2.2 (s.bytesAt x.1 (x.2.1 - x.1))

/-! Collectives (R350 to R353). -/

/-- The wire bytes of one element: FP32 partials, or plain bytes under ALL_GATHER. -/
def collUnit (c : Coll) : Nat := if c.kind = 2 then 1 else 4

/-- Elements of a collective: of its format, or bytes under ALL_GATHER. -/
def collElems (c : Coll) : Nat := if c.kind = 2 then c.bytes else c.bytes / (if c.bf16 then 2 else 4)

/-- Elements of a full shard. -/
def collZ (c : Coll) : Nat := ceilDiv (collElems c) c.size

/-- The elements of shard j: first and one past the last. -/
def shardRange (c : Coll) (j : Nat) : Nat × Nat := (min (j * collZ c) (collElems c), min ((j + 1) * collZ c) (collElems c))

/-- The address of element e in SRC; under ALL_GATHER SRC holds the own shard only. -/
def collSrc (c : Coll) (e : Nat) : Nat :=
  if c.kind = 2 then c.src + (e - c.rank * collZ c) else c.src + e * (if c.bf16 then 2 else 4)

/-- The address in DST of element e. -/
def collDst (c : Coll) (e : Nat) : Nat :=
  if c.kind = 2 then c.dst + e
  else (if c.kind = 0 then c.dst + (e - (shardRange c c.rank).1) * (if c.bf16 then 2 else 4)
    else c.dst + e * (if c.bf16 then 2 else 4))

/-- The bytes that carry elements [a, b) of the own contribution. -/
def collOwn (s : State) (c : Coll) (a b : Nat) : List Byte :=
  if c.kind = 2 then s.bytesAt (collSrc c a) (b - a)
  else (span a (b - a)).flatMap fun e =>
    if c.bf16 then toBytes 4 (s.peek (collSrc c e) 2 * 2 ^ 16) else s.bytesAt (collSrc c e) 4

/-- Elements [a, b) in runs of one kind: those whose own contribution lies in lines that carry the marker, and others
(R352). -/
def collRuns (s : State) (c : Coll) (a b : Nat) : List (Nat × Nat × Bool) :=
  (span a (b - a)).foldr (fun e acc =>
    let bad := s.poisoned (collSrc c e) (collSrc c (e + 1) - collSrc c e)
    match acc with
    | (_, hi, x) :: rest => if x = bad then (e, hi, x) :: rest else (e, e + 1, bad) :: acc
    | [] => [(e, e + 1, bad)]) []

/-- The die that a collective works for: its ring's. -/
def collDie (s : State) (c : Coll) : Fin 2 :=
  if c.stats then ((s.layers.find? fun l => layerOwn l.entry == c.own).map fun l => Fin.ofNat 2 (l.ring.val / 24)).getD 0
  else ((s.opOf c.own).map fun o => Fin.ofNat 2 (o.ring.val / 24)).getD 0

/-- The reading of the own contribution to elements [a, b), with the taking of LAST_USE (R178, R350). -/
def collTake (s : State) (c : Coll) (a b : Nat) : State :=
  let n := collSrc c b - collSrc c a
  let s := s.readRange ⟨s.collDie c, some (Fin.ofNat 8 c.slot), true, c.hint⟩ (collSrc c a) n
  if c.hint = 3 then s.takeRange (collSrc c a) n else s

/-- A collective replaced. -/
def setColl (s : State) (c : Coll) : State :=
  { s with net := { s.net with colls := s.net.colls.map fun x => if x.own = c.own && x.stats = c.stats then c else x } }

/-- The wire bytes of elements [a, b) sent to the successor in packets (R350, R353). -/
def collSend (s : State) (c : Coll) (a : Nat) (d : List Byte) (poison : Bool) : State :=
  let u := collUnit c
  let mx := if c.stats then 256 else 8192
  let opId := c.group * 2 ^ 16 + c.seq
  let pkts := (List.range (ceilDiv d.length mx)).map fun i =>
    let part := (d.drop (i * mx)).take mx
    (⟨c.own, BitVec.ofNat 16 c.succ, if c.stats then 0 else 1, 4, decide (u * a + i * mx + part.length = u * collElems c),
      poison, c.epoch, opId, u * a + i * mx, c.unit, 0, 0, 0, 0, part, 0, 0⟩ : OutPkt)
  let s := if c.stats then s else s.opMore c.own pkts.length
  s.transmit c.succ (if c.stats then 0 else 1) pkts

/-- The shard whose sum this member starts: its successor in the ring order adds next (R351). -/
def startShard (c : Coll) : Nat := (c.rank + c.size - 1) % c.size

/-- Elements final at this member written into DST (R350, R351), landing for a layer they meet, or, where the group's
unit is a shard's, into a layer that is not armed (R253, R353). -/
def collWrite (s : State) (c : Coll) (a b : Nat) (d : List Byte) (poison : Bool) : State :=
  let bytes := if c.kind = 2 || !c.bf16 then d
    else (List.range (b - a)).flatMap fun i => toBytes 2 (bf16.round (f32 (ofBytes ((d.drop (4 * i)).take 4))))
  let via : Via := ⟨s.collDie c, some (Fin.ofNat 8 c.slot), true, 1⟩
  let s := s.store via (collDst c a) bytes
  let s := if poison then s.poisonRange (collDst c a) bytes.length else s
  if c.kind = 2 then s
  else
    let s := if !c.stats && s.landsUnarmed c.unit (collDst c a) bytes.length then s.unarmed (collDst c a) else s
    s.land (collDst c a) bytes.length

/-- Whether a member has taken part in every sum and holds every final shard it should (R350). -/
def collDone (c : Coll) : Bool :=
  let all (l : List (Nat × Nat)) (js : List Nat) : Bool :=
    js.all fun j => hasRange (shardRange c j).1 (shardRange c j).2 l
  let shards := List.range c.size
  (c.kind == 2 || all c.reduced (shards.filter (· != startShard c))) &&
    (if c.kind = 0 then all c.final [c.rank] else all c.final shards)

/-- A collective that has nothing more to receive leaves the engine; its macro-op has one part less to do. -/
def collSettle (s : State) (c : Coll) : State :=
  let s := s.setColl c
  if !collDone c then s
  else
    let s := { s with net := { s.net with colls := s.net.colls.filter fun x => !(x.own == c.own && x.stats == c.stats) } }
    if c.stats then s else s.opDone c.own

/-- A collective meets poison: its macro-op completes with POISON (R352), or its layer ends POISONED (R256). -/
def collPoison (s : State) (c : Coll) (bad : Bool) : State :=
  if !bad then s else if c.stats then s.modStats c.own fun l => { l with poison := true } else s.opFlag c.own 1

/-- A collective begun: the member sends the shard whose sum it starts, or its own shard (R350, R351); what is derived
from lines that carry the marker carries it, and nothing else (R352). -/
def collBegin (s : State) (c : Coll) : State :=
  let s := { s with net := { s.net with colls := s.net.colls ++ [c] } }
  let (a, b) := shardRange c (if c.kind = 2 then c.rank else startShard c)
  let runs := s.collRuns c a b
  let bad := runs.any (·.2.2)
  let s0 := s
  let one (s : State) (r : Nat × Nat × Bool) : State :=
    let d := s0.collOwn c r.1 r.2.1
    let s := s.collTake c r.1 r.2.1
    (if c.kind = 2 then s.collWrite c r.1 r.2.1 d r.2.2 else s).collSend c r.1 d r.2.2
  let s := (runs.foldl one s).collPoison c bad
  s.collSettle { c with final := if c.kind = 2 then addRange a b c.final else c.final, poison := bad }

/-- A REDUCE packet applied by its collective (R351); a sum carries the marker where the packet or the own contribution
does (R352). -/
def collPacket (s : State) (c : Coll) (k : Packet) : State :=
  let u := collUnit c
  let a := k.offset.toNat / u
  let b := min (a + k.data.length / u) (collElems c)
  let j := if collZ c = 0 then 0 else a / collZ c
  let last := (c.rank + 1) % c.size = j
  if b ≤ a then s
  else if c.kind ≠ 2 && j ≠ startShard c && !hasRange a b c.reduced then
    let runs := s.collRuns c a b
    let bad := k.poison || runs.any (·.2.2)
    let s0 := s
    let one (s : State) (r : Nat × Nat × Bool) : State :=
      let own := s0.collOwn c r.1 r.2.1
      let sum := (List.range (r.2.1 - r.1)).flatMap fun i =>
        toBytes 4 (f32Add (ofBytes ((k.data.drop (4 * (r.1 - a + i))).take 4)) (ofBytes ((own.drop (4 * i)).take 4)))
      let mark := k.poison || r.2.2
      let s := s.collTake c r.1 r.2.1
      if j = c.rank then
        let s := s.collWrite c r.1 r.2.1 sum mark
        if c.kind = 1 then s.collSend c r.1 sum mark else s
      else s.collSend c r.1 sum mark
    let s := (runs.foldl one s).collPoison c bad
    let c := { c with reduced := addRange a b c.reduced, poison := c.poison || bad }
    s.collSettle (if j = c.rank then { c with final := addRange a b c.final } else c)
  else
    let d := k.data.take (u * (b - a))
    let s := (s.collPoison c k.poison).collWrite c a b d k.poison
    let s := if last then s else s.collSend c a d k.poison
    s.collSettle { c with final := addRange a b c.final, poison := c.poison || k.poison }

/-- The collective that a REDUCE packet names. -/
def collOf (s : State) (k : Packet) : Option Coll :=
  s.net.colls.find? fun c => c.group * 2 ^ 16 + c.seq == k.opId.toNat && c.unit == k.unit.toNat

/-- Whether the sequence that a REDUCE packet carries has issued on a group of its unit (R352). -/
def collIssued (s : State) (k : Packet) : Bool :=
  let g := k.opId.toNat / 2 ^ 16
  (List.range 8).any fun slot =>
    let n := Tab.get (fun _ => 0) s.net.seqs (slot * 2 ^ 17 + g)
    let e := s.peek (s.rd Reg.NET_SLOT_COLL_BASE slot + 16 * g) 16
    bits e 47 32 == k.unit.toNat && decide ((n + 2 ^ 16 - k.opId.toNat % 2 ^ 16) % 2 ^ 16 < min n (2 ^ 15))

/-! Closing. -/

/-- The transport's work for macro-ops of a slot abandoned: packets no longer sent, collectives dropped (R388). -/
def abandonNet (s : State) (own : List Nat) : State :=
  let conns := s.net.conns.map fun c => { c with
    una := c.una.filter fun u => !own.contains u.pkt.own
    wait := c.wait.filter fun k => !own.contains k.own }
  { s with net := { s.net with conns := conns, colls := s.net.colls.filter fun c => c.stats || !own.contains c.own } }

end State

/-! The meanings of the commands of the transport. -/

/-- LINK_UP (R329): waiting packets find the port. -/
def execLinkUp (p : Fin 8) (s : State) : Host.Outcome State Fault Refusal := act s (s.linkUp p).pumpAll

/-- DATA_RECEIVE (R335, R345, R348). -/
def execDataReceive (p : Fin 8) (k : Packet) (s : State) : Host.Outcome State Fault Refusal :=
  act s (s.receive p k (fun s => s.recFull k) (fun s => s.applyData p k))

/-- MSG_RECEIVE (R347). -/
def execMsgReceive (p : Fin 8) (k : Packet) (s : State) : Host.Outcome State Fault Refusal :=
  act s (s.receive p k (fun _ => false) (fun s => s.applyMsg p k))

/-- REDUCE_RECEIVE (R351, R352): a sequence not yet issued is answered NAK BUSY; a packet for a collective that has ended
here, as one refused elsewhere does, has no effect. -/
def execReduceReceive (p : Fin 8) (k : Packet) (s : State) : Host.Outcome State Fault Refusal :=
  act s (s.receive p k (fun s => (s.collOf k).isNone && !s.collIssued k) (fun s =>
    match s.collOf k with
    | some c => s.collPacket c k
    | none => s))

/-- ACK_RECEIVE (R336, R337). -/
def execAckReceive (p : Fin 8) (k : Packet) (s : State) : Host.Outcome State Fault Refusal := act s (s.ackArrives p k)

/-- NAK_RECEIVE (R337, R340). -/
def execNakReceive (p : Fin 8) (k : Packet) (s : State) : Host.Outcome State Fault Refusal := act s (s.nakArrives p k)

/-- ACK_TIMER: 2,400 fabric cycles since the first packet still unacknowledged (R336). -/
def execAckTimer (srcDev : BitVec 16) (cls : Fin 4) (s : State) : Host.Outcome State Fault Refusal :=
  act s (let c := s.rxOf srcDev cls; if c.fresh = 0 then s else s.sendAck c)

/-- RTO_EXPIRE (R337). -/
def execRtoExpire (dstDev : BitVec 16) (cls : Fin 4) (psn : Word) (s : State) : Host.Outcome State Fault Refusal :=
  act s (s.rtoExpires dstDev cls psn.toNat)

/-- RATE_RAISE (R336). -/
def execRateRaise (dstDev : BitVec 16) (s : State) : Host.Outcome State Fault Refusal := act s (s.raiseRate dstDev)

/-- REORDER_RELEASE (R359). -/
def execReorderRelease (p : Fin 8) (s : State) : Host.Outcome State Fault Refusal := act s (s.reorderFlush p)

/-- Whether a frame of address resolution is accepted: untagged, or with the port's VID (R328). -/
def tagOk (s : State) (p : Fin 8) (vid : Option (BitVec 12)) : Bool :=
  match vid with
  | some v => v.toNat == s.rd Reg.NET_PORT_CFG_VID p
  | none => true

/-- A request for a port's own address answered (R329). -/
def answerAddress (s : State) (p : Fin 8) (family target : Nat) (vid : Option (BitVec 12)) : State :=
  if !s.rdB Reg.NET_PORT_STATUS_LINK p then s
  else
    let s := s.inc Reg.NET_RX_FRAMES_COUNT p 1
    if !tagOk s p vid then s.inc Reg.NET_RX_DROP_COUNT p 1
    else if s.rd Reg.NET_PORT_CFG_FAMILY p == family && s.rd Reg.NET_PORT_IP_IP p == target && target != 0 && !s.quench then
      s.sendFrame p (.address target (s.rd Reg.NET_PORT_MAC_MAC p))
    else s

/-- ARP_REQUEST (R329). -/
def execArpRequest (p : Fin 8) (target : BitVec 32) (vid : Option (BitVec 12)) (s : State) :
    Host.Outcome State Fault Refusal := act s (answerAddress s p 0 target.toNat vid)

/-- NEIGHBOR_SOLICITATION (R329). -/
def execNeighborSolicitation (p : Fin 8) (target : BitVec 128) (vid : Option (BitVec 12)) (s : State) :
    Host.Outcome State Fault Refusal := act s (answerAddress s p 1 target.toNat vid)

end Sys2Proof.Machine
end

