-- ==== Sys2Proof/Machine/Telemetry.lean ====
section
/-!
DEFINITION. Telemetry (spec/19): latches and their banks, the step boundary snapshot (R429), sampling, and fault capture
(spec/16 R458 to R460).
-/
namespace Sys2Proof.Machine

namespace State

/-! Latch banks (R511 to R516). -/

/-- The live Sage block of a slot. -/
def sageBase (slot : Nat) : Nat := 0x030000 + 0x800 * slot

/-- The latch bank of a slot. -/
def slotBank (slot : Nat) : Nat := 0x034000 + 0x800 * slot

/-- The device latch bank. -/
def deviceBank : Nat := 0x038000

/-- The base of a slot's data cursor record (R428). -/
def cursorBase (s : State) (slot : Nat) : Nat :=
  s.rd Reg.STR_CURSOR_HI_BASE_HI slot * 2 ^ 32 + s.rd Reg.STR_CURSOR_LO_BASE_LO slot * 2 ^ 12

/-- The cursor record as a copy takes it: zero where the slot keeps none. -/
def cursorCopy (s : State) (slot : Nat) : List Byte :=
  if s.cursorBase slot = 0 then List.replicate 4096 0 else s.bytesAt (s.cursorBase slot) 4096

/-- STAGE of West as in force (R268). -/
def stagePart (s : State) (d : Fin 2) : Nat := bits s.ms.part[d].toNat 21 16

/-- The snapshot of R429 replaced; none is kept while West's STAGE is 0. -/
def takeSnap (s : State) (slot : Fin 8) : State :=
  let x := s.slots[slot]
  let snap : Option Snap := if s.stagePart 0 = 0 then none else
    some ⟨x.steps + 1, x.ctrs, s.cursorCopy slot, BitVec.ofNat 64 (s.wordsAt (0x081000 + 8 * slot.val) 2)⟩
  { s with slots := s.slots.set slot { x with snap := snap } }

/-- A latch header (R515). -/
def latchHeader (s : State) (bank : Nat) (slot : Fin 8) (dseq : Word) (lead cmd : Bool) : Nat :=
  let latches := (s.word (bank + 12)).toNat / 2 ^ 16 + 1
  s.slots[slot].steps.toNat + dseq.toNat * 2 ^ 64 + slot.val * 2 ^ 96 + b2n lead * 2 ^ 99 + b2n cmd * 2 ^ 100 +
    (latches % 2 ^ 16) * 2 ^ 112

/-- The slot's per-slot live counters copied into its bank and restarted (R512 step 2, R517). -/
def latchSlot (s : State) (slot : Nat) : State :=
  let b := slotBank slot
  let s := (s.copyWords (b + 0x80) (sageBase slot + 0x80) 480).zeroWords (sageBase slot) 512
  let e := 0x081100 + 0x40 * slot
  let s := (s.copyWords (b + 0x0E0) e 10).zeroWords e 10
  let c := 0x028000 + 0x40 * slot
  (s.copyWords (b + 0x108) c 10).zeroWords c 10

/-- The live regions of the device bank: where each lies in the bank, in the control space, and its words (R516). -/
def deviceRegions : List (Nat × Nat × Nat) :=
  ((List.range 4).map fun n => (0x100 + 0x100 * n, 0x050010 + 0x1000 * n, 34)) ++
  [(0x500, 0x020118, 2), (0x508, 0x020158, 2), (0x600, 0x072000, 32)] ++
  ((List.range 16).map fun w => (0x680 + 8 * w, 0x078018 + 0x20 * w, 2)) ++
  ((List.range 16).map fun p => (0x700 + 0x40 * p, 0x079018 + 0x40 * p, 10)) ++
  ((List.range 8).map fun p => (0xB00 + 0x80 * p, 0x060100 + 0x400 * p, 18)) ++
  [(0xF00, 0x090100, 18), (0xF48, 0x090208, 4), (0xF80, 0x080100, 8)]

/-- The device-wide live counters copied into the device bank and restarted (R512 step 3, R516). -/
def latchDevice (s : State) : State :=
  let s := deviceRegions.foldl (fun s (o, a, n) => (s.copyWords (deviceBank + o) a n).zeroWords a n) s
  let peak (s : State) (d : Nat) : State :=
    (s.setWord (deviceBank + 0x510 + 4 * d) (BitVec.ofNat 32 (s.rd Reg.STR_TRK_STATUS_PEAK d))).wr
      Reg.STR_TRK_STATUS_PEAK d (s.rd Reg.STR_TRK_STATUS_IN_USE d)
  let s := (s.settleTrk 0).settleTrk 1
  (peak (peak s 0) 1).copyWords (deviceBank + 0xFA0) 0x081040 4

/-- A latch of a slot in one indivisible step, under the LEAD last written (R512, R513). -/
def latch (s : State) (slot : Fin 8) (cmd : Bool) : State :=
  let s := s.takeLead
  let lead := slot = s.lead
  let d := s.dseq
  let s := (s.takeSnap slot).takeDseq
  let hs := s.latchHeader (slotBank slot) slot d lead cmd
  let hd := s.latchHeader deviceBank slot d true cmd
  let s := s.latchSlot slot
  let s := if lead then (s.latchDevice).setWordsAt deviceBank 4 hd else s
  let s := s.setWordsAt (slotBank slot) 4 hs
  { s with slots := s.slots.set slot { s.slots[slot] with steps := s.slots[slot].steps + 1 } }

/-! Sampling (R519, R520). -/

/-- The write of TEL_SAMPLE_CTRL. -/
def sampleWrite (s : State) (v : Nat) : State × KStat :=
  let s' := (s.wr Reg.TEL_SAMPLE_CTRL_PERIOD 0 (bits v 23 0)).wrB Reg.TEL_SAMPLE_CTRL_EN 0 (bit v 24)
  if bits v 23 0 = 0 then (s, .range)
  else if bit v 24 then
    if s.rd Reg.TEL_SRING_LEN_LEN 0 = 0 then (s, .range)
    else if s.rd Reg.HRT_CD_HOLD_CD3 0 = 2 then (s, .busy 8 3)
    else (s'.wr Reg.HRT_CD_HOLD_CD3 0 1, .ok)
  else (if s.rd Reg.HRT_CD_HOLD_CD3 0 = 1 then s'.wr Reg.HRT_CD_HOLD_CD3 0 0 else s', .ok)

/-- A sample record (R519). -/
def sampleRecord (s : State) : Nat :=
  s.dseq.toNat + s.slots[s.lead].steps.toNat * 2 ^ 32 + (s.word 0x080018).toNat * 2 ^ 96 +
    (s.word 0x080014).toNat * 2 ^ 128 + s.pwrStatus.toNat * 2 ^ 160 + (s.word 0x080010).toNat * 2 ^ 192 +
    s.wordsAt 0x081048 2 * 2 ^ 224

/-- A sample due: written at POS, which advances; skipped while memory is in self-refresh (R519). -/
def sample (s : State) : State :=
  let len := s.rd Reg.TEL_SRING_LEN_LEN 0
  let pos := s.rd Reg.TEL_SRING_LEN_POS 0
  let base := s.rd Reg.TEL_SRING_HI_BASE_HI 0 * 2 ^ 32 + s.rd Reg.TEL_SRING_LO_BASE_LO 0 * 2 ^ 6
  if !s.rdB Reg.TEL_SAMPLE_CTRL_EN 0 || !s.memUp || len = 0 then s
  else
    let r := s.sampleRecord
    (s.takeDseq.store ⟨0, none, false, 1⟩ (base + 64 * pos) (toBytes 64 r)).wr Reg.TEL_SRING_LEN_POS 0 ((pos + 1) % len)

/-! Fault capture (R458 to R460). -/

/-- A capture disarmed; a capture with a post-trigger delay gives countdown 3 back (R459). -/
def captureOff (s : State) (d : Fin 2) : State :=
  let armed := s.rdB Reg.MEM_FCAP_CTRL_ARM d
  let s := if armed && s.rd Reg.MEM_FCAP_CTRL_POST d ≠ 0 then s.wr Reg.HRT_CD_HOLD_CD3 0 0 else s
  let c := s.tel.capture[d]
  { s with tel := { s.tel with capture := s.tel.capture.set d { c with posting := false } } }.wrB Reg.MEM_FCAP_CTRL_ARM d false

/-- The fields of MEM_FCAP_CTRL beside ARM and DUMP written. -/
def captureFields (s : State) (d v : Nat) : State :=
  (((s.wr Reg.MEM_FCAP_CTRL_SRC d (bits v 3 0)).wr Reg.MEM_FCAP_CTRL_AUXTRIG d (bits v 5 5)).wr
    Reg.MEM_FCAP_CTRL_POST d (bits v 15 8)).wr Reg.MEM_FCAP_CTRL_TRIG_CODE d (bits v 31 16)

/-- A die's capture armed (R458). -/
def captureArm (s : State) (d : Fin 2) (v : Nat) : State :=
  let s := { s with tel := { s.tel with capture := s.tel.capture.set d ⟨[], 0, false⟩ } }
  let s := ((s.captureFields d v).wrB Reg.MEM_FCAP_CTRL_ARM d true).wrB Reg.MEM_FCAP_STATUS_DROPPED d false
  let s := s.wr Reg.MEM_FCAP_STATUS_RECORDS d 0
  if bits v 15 8 ≠ 0 then s.wr Reg.HRT_CD_HOLD_CD3 0 2 else s

/-- The records of a triggered capture copied to DST (R460). -/
def captureDumpStart (s : State) (d : Fin 2) : State :=
  let dst := s.rd Reg.MEM_FCAP_DST_DST d * 64
  let bytes := (s.tel.capture[d]).recs.flatMap fun r => toBytes 64 r.toNat
  (s.wrB Reg.MEM_FCAP_STATUS_DUMPING d true).store ⟨d, none, false, 1⟩ dst bytes

/-- The write of MEM_FCAP_CTRL (R459, R460). -/
def fcapWrite (s : State) (d : Fin 2) (v : Nat) : State × KStat :=
  if bit v 4 then
    if bits s.ms.part[d].toNat 27 24 = 0 then (s, .range)
    else if s.rdB Reg.MEM_FCAP_CTRL_ARM d || s.rdB Reg.MEM_FCAP_STATUS_UNREAD d || bit v 6 then (s, .busy 7 d)
    else if bits v 15 8 ≠ 0 && s.rd Reg.HRT_CD_HOLD_CD3 0 ≠ 0 then (s, .busy 8 3)
    else (s.captureArm d v, .ok)
  else if bit v 6 then
    if !s.rdB Reg.MEM_FCAP_STATUS_TRIGGERED d then (s, .busy 7 d)
    else if s.rdB Reg.MEM_FCAP_STATUS_DUMPING d then (s, .busy 7 d)
    else ((s.captureFields d v).captureDumpStart d, .ok)
  else ((s.captureOff d).captureFields d v, .ok)

/-- A dump ends (R460). -/
def captureDumpEnd (s : State) (d : Fin 2) : State :=
  if !s.rdB Reg.MEM_FCAP_STATUS_DUMPING d then s
  else ((s.wrB Reg.MEM_FCAP_STATUS_DUMPING d false).wrB Reg.MEM_FCAP_STATUS_UNREAD d false).wrB
    Reg.MEM_FCAP_STATUS_TRIGGERED d false

/-- A falling edge of an AUX pin set to CAPTURE_IN (R458, R462). -/
def auxEdge (s : State) (pin : Fin 2) : State :=
  let func := if pin = 0 then s.rd Reg.HRT_AUX_FUNC0 0 else s.rd Reg.HRT_AUX_FUNC1 0
  let go (s : State) (d : Fin 2) : State := if s.rdB Reg.MEM_FCAP_CTRL_AUXTRIG d then s.captureTrigger d else s
  if func = 2 && !s.rdB Reg.HRT_AUX_TRIPPED 0 then go (go s 0) 1 else s

end State

/-! The meanings of the commands of telemetry. -/

/-- CAPTURE_ARM: a write of MEM_FCAP_CTRL with ARM = 1 (R458, R459). -/
def execCaptureArm (w : Writer) (d : Die) (value : Word) (s : State) : Host.Outcome State Fault Refusal :=
  let v := putBits value.toNat 4 4 1
  act s (s.regWrite w (0x070500 + 0x20 * d.val) v fun s => s.fcapWrite d v)

/-- CAPTURE_DISARM: a write of MEM_FCAP_CTRL with ARM = 0 (R459). -/
def execCaptureDisarm (w : Writer) (d : Die) (value : Word) (s : State) : Host.Outcome State Fault Refusal :=
  let v := putBits (putBits value.toNat 4 4 0) 6 6 0
  act s (s.regWrite w (0x070500 + 0x20 * d.val) v fun s => s.fcapWrite d v)

/-- AUX_CAPTURE_EDGE (R458). -/
def execAuxCaptureEdge (pin : Fin 2) (s : State) : Host.Outcome State Fault Refusal :=
  act s (if s.powered then s.auxEdge pin else s)

/-- CAPTURE_POST_EXPIRE (R458). -/
def execCapturePostExpire (d : Die) (s : State) : Host.Outcome State Fault Refusal :=
  act s (if (s.tel.capture[d]).posting then s.captureStop d else s)

/-- CAPTURE_DUMP: a write of MEM_FCAP_CTRL with DUMP = 1 and ARM = 0 (R460). -/
def execCaptureDump (w : Writer) (d : Die) (value : Word) (s : State) : Host.Outcome State Fault Refusal :=
  let v := putBits (putBits value.toNat 4 4 0) 6 6 1
  act s (s.regWrite w (0x070500 + 0x20 * d.val) v fun s => s.fcapWrite d v)

/-- CAPTURE_DUMP_DONE (R460). -/
def execCaptureDumpDone (d : Die) (s : State) : Host.Outcome State Fault Refusal := act s (s.captureDumpEnd d)

/-- SAMPLE_ENABLE: a write of TEL_SAMPLE_CTRL with EN = 1 (R519). -/
def execSampleEnable (w : Writer) (value : Word) (s : State) : Host.Outcome State Fault Refusal :=
  let v := putBits value.toNat 24 24 1
  act s (s.regWrite w 0x03F008 v fun s => s.sampleWrite v)

/-- TELEMETRY_SAMPLE (R519). -/
def execTelemetrySample (s : State) : Host.Outcome State Fault Refusal := act s s.sample

/-- LEAD_WRITE (R513). -/
def execLeadWrite (w : Writer) (lead : BitVec 3) (s : State) : Host.Outcome State Fault Refusal :=
  act s (s.regWrite w 0x03F000 lead.toNat fun s => (s.wr Reg.TEL_CTRL_LEAD 0 lead.toNat, .ok))

end Sys2Proof.Machine
end

