-- ==== Sys2Proof/Machine/Matrix.lean ====
section
/-!
DEFINITION. Matrices (spec/03, spec/05 R134 to R139): the fields of a matrix descriptor and what its checks find, the
element, scale and zero-map arrays, per-tensor scale records, and the one conversion that writes a region of a matrix
and reports it to Sage.
-/
namespace Sys2Proof.Machine

/-! Fields of a matrix descriptor (R82, R134). -/

def mdBase (m : Nat) : Nat := bits m 47 0
def mdFmt (m : Nat) : Nat := bits m 67 64
def mdSenc (m : Nat) : Nat := bits m 69 68
def mdBlk (m : Nat) : Nat := bits m 72 70
def mdPts (m : Nat) : Bool := bit m 74
def mdZmap (m : Nat) : Bool := bit m 75
def mdRnd (m : Nat) : Bool := bit m 76
def mdHint (m : Nat) : Nat := bits m 78 77
def mdSrs (m : Nat) : Nat := bits m 91 80
def mdRstride (m : Nat) : Nat := bits m 127 96
def mdScaleBase (m : Nat) : Nat := bits m 431 384
def mdSpitch (m : Nat) : Nat := bits m 479 448
def mdZpitch (m : Nat) : Nat := bits m 511 480
def mdZmapBase (m : Nat) : Nat := bits m 559 512
def mdRec (m : Nat) : Nat := bits m 623 576

/-- The shape specifiers for rows and columns (R135). -/
def mdRows (m : Nat) : Nat := bits m 255 128
def mdCols (m : Nat) : Nat := bits m 383 256

/-- The element format; a reserved code, refused at issue, reads as FP32. -/
def mdFormat (m : Nat) : FFmt := (fmtOf (mdFmt m)).getD fp32

/-- Whether the format is narrow (R72). -/
def mdNarrow (m : Nat) : Bool := decide (3 ≤ mdFmt m)

/-- Whether the blocks are 2-D (R80). -/
def md2d (m : Nat) : Bool := decide (4 ≤ mdBlk m)

/-- The block's length, or the side of a 2-D block (R82). -/
def mdLen (m : Nat) : Nat := [16, 32, 64, 128, 16, 32].getD (mdBlk m) 16

/-- The block axis; 2-D blocks are the same for both. -/
def mdAxis (m : Nat) : Nat := bits m 73 73

/-- The extent of a block along rows: how many rows it covers. -/
def mdRowExt (m : Nat) : Nat := if !mdNarrow m then 1 else if md2d m || mdAxis m = 1 then mdLen m else 1

/-- The extent of a block along columns. -/
def mdColExt (m : Nat) : Nat := if !mdNarrow m then 1 else if md2d m || mdAxis m = 0 then mdLen m else 1

/-- The bytes that n elements of a row occupy (R76). -/
def mdOcc (m n : Nat) : Nat :=
  if (mdFormat m).width = 6 then 3 * ceilDiv n 4 else ceilDiv ((mdFormat m).width * n) 8

/-- An address field whose bits [47:41] are not 0 (R129). -/
def addrBad (a : Nat) : Bool := decide (spaceEnd ≤ a)

/-- What step 1 finds of a shape specifier: reserved bits and fields that must be 0, misalignment, range (R134, R135). -/
def specChecks (x : Nat) : List (Bool × Nat) :=
  [(bits x 1 0 == 3 || bits x 7 2 != 0 || bits x 31 14 != 0 || bits x 127 112 != 0, 3),
   (bits x 1 0 != 1 && bits x 13 8 != 0, 3), (bits x 1 0 != 2 && bits x 111 64 != 0, 3),
   (bits x 111 64 % 4 != 0, 6), (addrBad (bits x 111 64), 7)]

/-- What step 1 finds of a matrix descriptor: `written` for a destination, `heritage` under R119. -/
def mdChecks (m : Nat) (written heritage : Bool) : List (Bool × Nat) :=
  [(bits m 63 48 != 0 || bit m 79 || bits m 95 92 != 0 || bits m 447 432 != 0 || bits m 575 560 != 0 ||
      bits m 1023 624 != 0, 3),
   (decide (7 < mdFmt m) || mdSenc m == 3 || decide (5 < mdBlk m), 3),
   (!mdNarrow m && mdScaleBase m != 0, 3), (!mdZmap m && mdZmapBase m != 0, 3), (!mdPts m && mdRec m != 0, 3),
   (mdBase m % 64 != 0 || (mdPts m && mdRec m % 64 != 0), 6),
   (addrBad (mdBase m) || addrBad (mdScaleBase m) || addrBad (mdZmapBase m) || addrBad (mdRec m), 7),
   (if mdNarrow m then mdSenc m == 0 else mdSenc m != 0 || mdPts m || mdZmap m, 8),
   (written && mdFmt m == 0 && mdRnd m, 8),
   (heritage && (!((written || 1 ≤ mdFmt m) && mdFmt m ≤ 4) ||
      (mdNarrow m && (mdSenc m != 1 || mdBlk m != 1)) || (written && mdRnd m)), 8)] ++
  specChecks (mdRows m) ++ specChecks (mdCols m)

/-- What step 1 finds of a descriptor whose own arrays are not read: the turned operand under REQUANT, which supplies FMT,
SENC, BLK, its shape, PTS and REC_ADDR alone (R163). -/
def mdChecksTurned (m : Nat) (heritage : Bool) : List (Bool × Nat) :=
  [(bits m 63 48 != 0 || bit m 79 || bits m 95 92 != 0 || bits m 447 432 != 0 || bits m 575 560 != 0 ||
      bits m 1023 624 != 0, 3),
   (decide (7 < mdFmt m) || mdSenc m == 3 || decide (5 < mdBlk m), 3), (!mdPts m && mdRec m != 0, 3),
   (mdPts m && mdRec m % 64 != 0, 6), (addrBad (mdRec m), 7), (mdSenc m == 0, 8),
   (heritage && (!(mdFmt m ≤ 4) || mdSenc m != 1 || mdBlk m != 1), 8)] ++
  specChecks (mdRows m) ++ specChecks (mdCols m)

/-- The lowest detail among checks that fail. -/
def firstDetail (l : List (Bool × Nat)) : Option Nat :=
  l.foldl (fun x c => if c.1 then (match x with
    | some d => some (min d c.2)
    | none => some c.2) else x) none

/-! A matrix with its shape and per-tensor scale as a macro-op uses it. -/

/-- A matrix in use: its descriptor, its shape as read at issue, and the exponent of T (R79, R136). -/
structure Mat where
  md   : Nat
  rows : Nat
  cols : Nat
  lt   : Int
  deriving DecidableEq, Repr

/-- The block grid's rows (R81). -/
def Mat.gr (m : Mat) : Nat := ceilDiv m.rows (mdRowExt m.md)

/-- The block grid's columns (R81). -/
def Mat.gc (m : Mat) : Nat := ceilDiv m.cols (mdColExt m.md)

/-- The lines [first, last) that a byte range touches. -/
def lineRange (a n : Nat) : Nat × Nat := (a / 64, (a + n + 63) / 64)

/-- The byte ranges of a matrix's intervals (R139): start and length. -/
def Mat.ranges (m : Mat) : List (Nat × Nat) :=
  let md := m.md
  let full := m.rows ≠ 0 ∧ m.cols ≠ 0
  (if full then [(mdBase md, (m.rows - 1) * mdRstride md + mdOcc md m.cols)] else []) ++
  (if full ∧ mdNarrow md then [(mdScaleBase md, (m.gr - 1) * mdSpitch md + m.gc)] else []) ++
  (if full ∧ mdZmap md then [(mdZmapBase md, (m.gr - 1) * mdZpitch md + ceilDiv m.gc 8)] else []) ++
  (if mdPts md then [(mdRec md, 64)] else [])

/-- What step 4 finds of a matrix: strides and pitches (R76, R81). -/
def Mat.checks (m : Mat) : List (Bool × Nat) :=
  let md := m.md
  [(decide (mdRstride md < mdOcc md m.cols), 9), (mdNarrow md && decide (mdSpitch md < m.gc), 9),
   (mdZmap md && decide (mdZpitch md < ceilDiv m.gc 8), 9)]

/-- The bit address of element (i, j). -/
def Mat.elemBit (m : Mat) (i j : Nat) : Nat := 8 * (mdBase m.md + i * mdRstride m.md) + (mdFormat m.md).width * j

/-- The address of the scale code of block (gr, gc). -/
def Mat.scaleAddr (m : Mat) (gr gc : Nat) : Nat := mdScaleBase m.md + gr * mdSpitch m.md + gc

/-- The bit address of the zero-map bit of block (gr, gc). -/
def Mat.zmapBit (m : Mat) (gr gc : Nat) : Nat := 8 * (mdZmapBase m.md + gr * mdZpitch m.md) + gc

/-- An element's value from its code and its block's scale code (R79). -/
def elemVal (md : Nat) (lt : Int) (code scale : Nat) : SVal :=
  if mdNarrow md then
    (if scale = 255 then .nan else ((mdFormat md).decode code).scaled (halfSteps (mdSenc md) scale + 2 * lt))
  else ((mdFormat md).decode code).scaled 0

/-- The lines of n bits of data at a bit address: line, data and mask of each. -/
def bitLines (ba n data : Nat) : List (Nat × Nat × Nat) :=
  if n = 0 then []
  else (span (ba / 512) ((ba + n - 1) / 512 + 1 - ba / 512)).map fun line =>
    let lo := max ba (512 * line)
    let hi := min (ba + n) (512 * line + 512)
    (line, bits data (hi - ba - 1) (lo - ba) * 2 ^ (lo % 512), (2 ^ (hi - lo) - 1) * 2 ^ (lo % 512))

/-- Parts of one line that follow each other put together, so that the line is written once (R179). -/
def joinLines : List (Nat × Nat × Nat) → List (Nat × Nat × Nat)
  | [] => []
  | x :: xs => match joinLines xs with
    | [] => [x]
    | y :: ys => if y.1 = x.1 then (x.1, x.2.1 ||| y.2.1, x.2.2 ||| y.2.2) :: ys else x :: y :: ys

namespace State

/-- Bits read at a bit address. -/
def peekBits (s : State) (ba n : Nat) : Nat := bits (s.peek (ba / 8) ((ba % 8 + n + 7) / 8)) (ba % 8 + n - 1) (ba % 8)

/-- The code of element (i, j). -/
def codeAt (s : State) (m : Mat) (i j : Nat) : Nat := s.peekBits (m.elemBit i j) (mdFormat m.md).width

/-- The scale code of the block of element (i, j). -/
def scaleAt (s : State) (m : Mat) (i j : Nat) : Nat :=
  (s.byte (m.scaleAddr (i / mdRowExt m.md) (j / mdColExt m.md))).toNat

/-- The zero-map bit of the block of element (i, j). -/
def zmapAt (s : State) (m : Mat) (i j : Nat) : Bool :=
  s.peekBits (m.zmapBit (i / mdRowExt m.md) (j / mdColExt m.md)) 1 == 1

/-- The value of element (i, j) (R79). -/
def valueAt (s : State) (m : Mat) (i j : Nat) : SVal :=
  elemVal m.md m.lt (s.codeAt m i j) (if mdNarrow m.md then s.scaleAt m i j else 0)

/-- The byte range of columns [c0, c0 + w) of row i. -/
def rowRange (m : Mat) (i c0 w : Nat) : Nat × Nat :=
  let a := m.elemBit i c0 / 8
  (a, (m.elemBit i (c0 + w) + 7) / 8 - a)

/-- Whether elements of a region carry the marker. -/
def elemPoison (s : State) (m : Mat) (r0 c0 h w : Nat) : Bool :=
  w != 0 && (span r0 h).any fun i => let (a, n) := rowRange m i c0 w; s.poisoned a n

/-- Whether scale codes of a region carry the marker. -/
def scalePoison (s : State) (m : Mat) (r0 c0 h w : Nat) : Bool :=
  w != 0 && mdNarrow m.md && (span r0 h).any fun i =>
    s.poisoned (m.scaleAddr (i / mdRowExt m.md) (c0 / mdColExt m.md)) ((c0 + w - 1) / mdColExt m.md + 1 - c0 / mdColExt m.md)

/-- Whether the elements or scale codes of a region carry the marker. -/
def regionPoison (s : State) (m : Mat) (r0 c0 h w : Nat) : Bool := s.elemPoison m r0 c0 h w || s.scalePoison m r0 c0 h w

/-- The accounting of the reading of elements of row i, line ranges read by `rd`. -/
def readElems (rd : State → Nat → Nat → State) (m : Mat) (c0 w : Nat) (s : State) (i : Nat) : State :=
  let (a, n) := rowRange m i c0 w
  (rd s a n).takeHint m.md a n

/-- The accounting of the reading of the scale codes of row i. -/
def readScales (rd : State → Nat → Nat → State) (m : Mat) (c0 w : Nat) (s : State) (i : Nat) : State :=
  let b := m.scaleAddr (i / mdRowExt m.md) (c0 / mdColExt m.md)
  let k := (c0 + w - 1) / mdColExt m.md + 1 - c0 / mdColExt m.md
  if mdNarrow m.md then (rd s b k).takeHint m.md b k else s

/-- The accounting of a region's reading, line ranges read by `rd`. -/
def readRegionBy (rd : State → Nat → Nat → State) (s : State) (m : Mat) (r0 c0 h w : Nat) : State :=
  if w = 0 then s else (span r0 h).foldl (fun s i => readScales rd m c0 w (readElems rd m c0 w s i) i) s

/-- The zero-map bytes of a region: start and length for each row of the block grid. -/
def zmapRanges (m : Mat) (r0 c0 h w : Nat) : List (Nat × Nat) :=
  if !mdZmap m.md || h = 0 || w = 0 then []
  else (span (r0 / mdRowExt m.md) ((r0 + h - 1) / mdRowExt m.md + 1 - r0 / mdRowExt m.md)).map fun gr =>
    let b := m.zmapBit gr (c0 / mdColExt m.md) / 8
    (b, m.zmapBit gr ((c0 + w - 1) / mdColExt m.md) / 8 + 1 - b)

/-- The accounting of the reading of a region's zero map. -/
def readZmap (rd : State → Nat → Nat → State) (s : State) (m : Mat) (r0 c0 h w : Nat) : State :=
  (zmapRanges m r0 c0 h w).foldl (fun s (a, n) => (rd s a n).takeHint m.md a n) s

/-- Whether the zero map of a region carries the marker. -/
def zmapPoison (s : State) (m : Mat) (r0 c0 h w : Nat) : Bool := (zmapRanges m r0 c0 h w).any fun x => s.poisoned x.1 x.2

/-- The accounting of a read of a region by an engine, with the taking of LAST_USE (R178). -/
def readRegion (s : State) (v : Via) (m : Mat) (r0 c0 h w : Nat) : State :=
  readRegionBy (fun s a n => s.readRange v a n) s m r0 c0 h w

/-- Runs of bits written, each at a bit address, one indivisible masked write for each line (R77, R95, R179). -/
def storeRuns (s : State) (v : Via) (runs : List (Nat × Nat × Nat)) : State :=
  (joinLines (runs.flatMap fun x => bitLines x.1 x.2.1 x.2.2)).foldl (fun s x => s.writeLine v x.1 x.2.1 x.2.2 false) s

/-- Bits written at a bit address. -/
def storeBits (s : State) (v : Via) (ba n data : Nat) : State := s.storeRuns v [(ba, n, data)]

/-! Sage (R101, R517). -/

/-- A counter word of the control space at an address raised by n. -/
def countAt (s : State) (a n : Nat) : State := if n = 0 then s else s.setWordsAt a 2 (s.wordsAt a 2 + n)

/-- A 32-bit count at an address raised by one, saturating. -/
def binAt (s : State) (a : Nat) : State := s.setWord a (BitVec.ofNat 32 (min ((s.word a).toNat + 1) (2 ^ 32 - 1)))

/-- The live Sage record of combination c of a slot (R517). -/
def sageRec (slot : Fin 8) (c : Nat) : Nat := sageBase slot.val + 0x180 + 0x80 * c

/-- What conversions of elements and blocks reported to combination c of a slot's Sage (R101). -/
def sageReport (s : State) (slot : Fin 8) (c : Nat) (notes : List ConvNote) (scales : List Nat) : State :=
  let b := sageRec slot c
  let n (f : ConvNote → Bool) : Nat := (notes.filter f).length
  let s := s.countAt b notes.length
  let s := ((s.countAt (b + 0x08) (n (·.saturated))).countAt (b + 0x10) (n (·.overflow))).countAt (b + 0x18) (n (·.flushed))
  let s := (s.countAt (b + 0x20) (n (·.infIn))).countAt (b + 0x28) (n (·.nanIn))
  (scales.foldl (fun s x => s.binAt (b + 0x30 + 4 * (x / 16))) s).countAt (b + 0x70) scales.length

/-- Accumulator results rounded from finite operands to infinity (R109, R518). -/
def sageOvf (s : State) (slot : Fin 8) (n : Nat) : State := s.countAt (sageBase slot.val + 0x80) n

/-! Random streams (R90, R91). -/

/-- The key of a random stream: one restored, or one of those Lendephor drew at SLOT_OPEN. -/
def streamKey (s : State) (slot : Fin 8) (i : Nat) : BitVec 128 :=
  let x := s.slots[slot]
  Tab.get (fun i => match x.drawn with
    | some c => (Config.random (c + i)).truncate 128
    | none => 0) x.keys i

/-- The random integer of the element at row r and column c of a matrix of n columns, from a stream's key and the
counter value at issue. -/
def randomAt (key : BitVec 128) (ctr n r c : Nat) : Nat :=
  let e := r * n + c
  let y := aes128 key.toNat (ctr + e / 8 * 2 ^ 64)
  bits y (16 * (e % 8) + 15) (16 * (e % 8))

/-- A stream's counter read and raised at issue. -/
def takeCounter (s : State) (slot : Fin 8) (i : Nat) : State × Nat :=
  let x := s.slots[slot]
  let c := Tab.get (fun _ => (0 : DWord)) x.ctrs i
  ({ s with slots := s.slots.set slot { x with ctrs := Tab.set (fun _ => (0 : DWord)) x.ctrs i (c + 1) } }, c.toNat)

end State

/-! Conversion (R83 to R94). -/

/-- The larger of two magnitudes given by their squares. -/
def maxSq (a b : Nat × Int) : Nat × Int := if dyLe a.1 a.2 b.1 b.2 then b else a

/-- The square of a finite value's magnitude; 0 for the others. -/
def SVal.sq : SVal → Nat × Int
  | .fin _ q e => (q, e)
  | _ => (0, 0)

/-- The largest finite magnitude among values, by its square (R83). -/
def amaxSq (vs : List SVal) : Nat × Int := vs.foldl (fun a v => maxSq a v.sq) (0, 0)

/-- Whether a value is Inf or NaN. -/
def SVal.special : SVal → Bool
  | .fin .. => false
  | _ => true

/-- The scale code of a block of values written in a descriptor's format (R84, R92, R119). -/
def blockScale (md : Nat) (lt : Int) (heritage : Bool) (vs : List SVal) : Nat :=
  let f := mdFormat md
  let (a, x) := amaxSq vs
  if f.kind = .finite && vs.any SVal.special then 255
  else if heritage then chooseScaleHeritage f a x
  else chooseScale f (mdSenc md) lt a x

/-- One element converted under its block's scale code and a rounding mode (R85 to R87, R92). In a block whose scale
code is 255 the finite values are not reported as written as zero, which R101 leaves open (DESIGN CHOICE, log entry 142). -/
def convElem (md : Nat) (lt : Int) (heritage : Bool) (mode : RMode) (scale : Nat) (v : SVal) : Nat × ConvNote :=
  let f := mdFormat md
  if !mdNarrow md then convWide f mode heritage v
  else if scale = 255 then
    (0, { ConvNote.none with infIn := v matches .inf _, nanIn := v matches .nan })
  else convNarrow f mode (halfSteps (mdSenc md) scale) lt v

/-- What the conversion of one region made: rows of codes, the scale codes of its blocks row by row, and the reports. -/
structure Conv where
  codes  : List (List Nat)
  scales : List (List Nat)
  zeros  : List (List Bool)
  notes  : List ConvNote
  amax   : Nat × Int
  deriving DecidableEq, Repr

/-- A region [r0, r0 + h) × [c0, c0 + w) of values converted for a descriptor; the region starts on a block boundary.
`mode` gives each element's rounding. -/
def convRegion (md : Nat) (lt : Int) (heritage : Bool) (mode : Nat → Nat → RMode) (r0 c0 h w : Nat)
    (v : Nat → Nat → SVal) : Conv :=
  let re := mdRowExt md
  let ce := mdColExt md
  let blockVals (gr gc : Nat) : List SVal :=
    (span (gr * re) (min re (r0 + h - gr * re))).flatMap fun i =>
      (span (gc * ce) (min ce (c0 + w - gc * ce))).map fun j => v i j
  let grs := if h = 0 then [] else span (r0 / re) ((r0 + h - 1) / re + 1 - r0 / re)
  let gcs := if w = 0 then [] else span (c0 / ce) ((c0 + w - 1) / ce + 1 - c0 / ce)
  let scales := if mdNarrow md then grs.map fun gr => gcs.map fun gc => blockScale md lt heritage (blockVals gr gc) else []
  let sc (i j : Nat) : Nat := (scales.getD (i / re - r0 / re) []).getD (j / ce - c0 / ce) 0
  let rows := (span r0 h).map fun i => (span c0 w).map fun j => convElem md lt heritage (mode i j) (sc i j) (v i j)
  let code (i j : Nat) : Nat := (((rows.getD (i - r0) []).map (·.1)).getD (j - c0) 0)
  let zero (gr gc : Nat) : Bool := sc (gr * re) (gc * ce) != 255 &&
    (span (gr * re) (min re (r0 + h - gr * re))).all fun i =>
      (span (gc * ce) (min ce (c0 + w - gc * ce))).all fun j => code i j % (mdFormat md).signW == 0
  { codes := rows.map (·.map (·.1))
    scales := scales
    zeros := if mdZmap md then grs.map fun gr => gcs.map fun gc => zero gr gc else []
    notes := (rows.map (·.map (·.2))).flatten
    amax := amaxSq ((span r0 h).flatMap fun i => (span c0 w).map fun j => v i j) }

/-- Codes of a width put side by side, the first lowest. -/
def packCodes (w : Nat) : List Nat → Nat
  | [] => 0
  | c :: cs => c + 2 ^ w * packCodes w cs

namespace State

/-- The codes of regions, each at its first row, written into memory with their scale codes and zero-map bits, rows
ascending (R55, R77, R95); lines that follow each other are written once (R179). -/
def putConvs (s : State) (v : Via) (m : Mat) (c0 : Nat) (cs : List (Nat × Conv)) : State :=
  let wd := (mdFormat m.md).width
  let re := mdRowExt m.md
  let ce := mdColExt m.md
  let s := s.storeRuns v (cs.flatMap fun (r0, c) => (c.codes.zipIdx).map fun (row, i) =>
    (m.elemBit (r0 + i) c0, wd * row.length, packCodes wd row))
  let s := s.storeRuns v (cs.flatMap fun (r0, c) => (c.scales.zipIdx).map fun (row, i) =>
    (8 * m.scaleAddr (r0 / re + i) (c0 / ce), 8 * row.length, packCodes 8 row))
  s.storeRuns v (cs.flatMap fun (r0, c) => (c.zeros.zipIdx).map fun (row, i) =>
    (m.zmapBit (r0 / re + i) (c0 / ce), row.length, packCodes 1 (row.map b2n)))

/-- The codes of one region written into memory. -/
def putConv (s : State) (v : Via) (m : Mat) (r0 c0 : Nat) (c : Conv) : State := s.putConvs v m c0 [(r0, c)]

/-- The lines of a region given the marker, with its scale codes and zero-map bits (R302). -/
def poisonRegion (s : State) (m : Mat) (r0 c0 h w : Nat) : State :=
  if w = 0 then s
  else (zmapRanges m r0 c0 h w).foldl (fun s x => s.poisonRange x.1 x.2) ((span r0 h).foldl (fun s i =>
    let (a, n) := rowRange m i c0 w
    let s := s.poisonRange a n
    if mdNarrow m.md then s.poisonRange (m.scaleAddr (i / mdRowExt m.md) (c0 / mdColExt m.md))
      ((c0 + w - 1) / mdColExt m.md + 1 - c0 / mdColExt m.md) else s) s)

/-- Whether element (i, j) of a matrix carries the marker, in its code or its block's scale code. -/
def cellPoison (s : State) (m : Mat) (i j : Nat) : Bool := s.regionPoison m i j 1 1

/-- The blocks of a written region that hold an element `bad` marks are given the marker (R302). -/
def poisonBlocks (s : State) (m : Mat) (r0 h w : Nat) (bad : Nat → Nat → Bool) : State :=
  let re := mdRowExt m.md
  let ce := mdColExt m.md
  (span (r0 / re) ((r0 + h + re - 1) / re - r0 / re)).foldl (fun s gr => (List.range (ceilDiv w ce)).foldl (fun s gc =>
    let i0 := max r0 (gr * re)
    let n := min (r0 + h) (gr * re + re) - i0
    let k := min w (gc * ce + ce) - gc * ce
    if (span i0 n).any fun i => (span (gc * ce) k).any fun j => bad i j then s.poisonRegion m i0 (gc * ce) n k else s) s) s

/-- The conversion of a region of values for a matrix, under the stream of its descriptor where a counter value is given. -/
def convFor (s : State) (slot : Fin 8) (m : Mat) (ctr : Option Nat) (heritage : Bool) (r0 c0 h w : Nat)
    (f : Nat → Nat → SVal) : Conv :=
  let key := s.streamKey slot (mdSrs m.md)
  let mode (i j : Nat) : RMode := match ctr with
    | some c => .stochastic (randomAt key c m.cols i j)
    | none => .nearest
  convRegion m.md m.lt heritage mode r0 c0 h w f

/-- A converted region stored and reported to Sage. -/
def putNoted (s : State) (v : Via) (slot : Fin 8) (m : Mat) (r0 c0 : Nat) (c : Conv) : State :=
  (s.putConv { v with hint := mdHint m.md } m r0 c0 c).sageReport slot (mdFmt m.md) c.notes c.scales.flatten

/-- A region of values written: converted, stored, reported to Sage; the largest finite magnitude is returned. -/
def writeRegion (s : State) (v : Via) (slot : Fin 8) (m : Mat) (ctr : Option Nat) (heritage : Bool)
    (r0 c0 h w : Nat) (f : Nat → Nat → SVal) : State × (Nat × Int) :=
  let c := s.convFor slot m ctr heritage r0 c0 h w f
  (s.putNoted v slot m r0 c0 c, c.amax)

end State

/-! Per-tensor scale records (R97 to R100), as 512-bit numbers. -/

/-- Entry i of HIST. -/
def recHist (r i : Nat) : Nat := bits r (32 * i + 31) (32 * i)

/-- An FP32 code that is a finite number of at least zero, or −0. -/
def recOk (c : Nat) : Bool := decide (c < 0x7F800000) || c == 0x80000000

/-- Whether a record is valid (R100). -/
def recValid (r : Nat) : Bool :=
  let filled := bits r 358 355
  let t := bits r 287 256
  decide (filled ≤ 8) && (filled == 0 || (t % 2 ^ 23 == 0 && decide (1 ≤ t / 2 ^ 23) && decide (t / 2 ^ 23 ≤ 254))) &&
  ((List.range filled).all fun k => recOk (recHist r ((bits r 354 352 + 8 - k % 8) % 8))) &&
  (!bit r 360 || recOk (bits r 319 288))

/-- The exponent of T that a reader uses (R99). -/
def recExp (r : Nat) : Int := if bits r 358 355 = 0 then 0 else ((bits r 287 256 / 2 ^ 23 : Nat) : Int) - 127

/-- The update of a record at the issue of a write in step n (R98). -/
def recIssue (n r : Nat) : Nat :=
  let moved := bits r 351 320 ≠ n
  let r := if moved ∧ bit r 360 then
      let head := (bits r 354 352 + 1) % 8
      let r' := putBits r 354 352 head
      let r' := putBits r' (32 * head + 31) (32 * head) (bits r 319 288)
      putBits r' 358 355 (min (bits r 358 355 + 1) 8)
    else r
  let r := if moved then putBits (putBits (putBits r 351 320 n) 319 288 0) 360 360 0 else r
  let filled := bits r 358 355
  if filled = 0 then putBits (putBits r 287 256 0x3F800000) 359 359 1
  else
    let hmax := (List.range filled).foldl (fun x k => max x (recHist r ((bits r 354 352 + 8 - k % 8) % 8) % 2 ^ 31)) 0
    let e := max 1 (hmax / 2 ^ 23)
    putBits (putBits r 287 256 (if hmax = 0 then 0x3F800000 else e * 2 ^ 23)) 359 359 0

/-- An exact magnitude, by its square, brought to FP32 by rounding toward zero (R98). -/
def recAmax (a : Nat × Int) : Nat :=
  if a.1 = 0 then 0
  else min (fp32.roundMag .toZero (lgDy a.1 a.2 / 2) (sqrtOf a.1 a.2)) fp32.maxCode

/-- The update of a record at the completion of a write (R98). -/
def recDone (a : Nat × Int) (r : Nat) : Nat :=
  putBits (putBits r 319 288 (max (bits r 319 288 % 2 ^ 31) (recAmax a))) 360 360 1

end Sys2Proof.Machine
end

