-- ==== Sys2Proof/Machine/Streams.lean ====
section
/-!
DEFINITION. Streams (spec/05 R121 to R145): rings, descriptors, the six steps of issue with range tracking, completion
with its record, fence points and halts; the sequencer's own macro-ops SIGNAL, WAIT and FENCE (spec/11 R317, R318),
STEP_MARK (R511, R512), and the interleave table's loading (R157).
-/
namespace Sys2Proof.Machine

open State

/-! Fields of a macro-op descriptor (R129). -/

def dOpcode (d : Nat) : Nat := bits d 7 0
def dPhase (d : Nat) : Nat := bits d 10 8
def dHeritage (d : Nat) : Bool := bit d 11
def dFencePre (d : Nat) : Bool := bit d 17
def dFencePost (d : Nat) : Bool := bit d 18
def dXdie (d : Nat) : Bool := bit d 19
def dSparse (d : Nat) : Bool := bit d 20
def dSeq (d : Nat) : Nat := bits d 63 32
def dCpl (d : Nat) : Nat := bits d 111 64

/-- The pointer MDi. -/
def dMd (d i : Nat) : Nat := bits d (64 * i + 175) (64 * i + 128)

/-- The parameter word Pn. -/
def dP (d n : Nat) : Nat := bits d (64 * n + 511) (64 * n + 448)

/-- The opcodes of R131. -/
def opcodes : List Nat := [0x01, 0x02, 0x03, 0x04, 0x10, 0x11, 0x12, 0x18, 0x19, 0x20, 0x21, 0x28, 0x29, 0x2A, 0x30, 0x31,
  0x38, 0x39, 0x3A, 0x40, 0x41, 0x48]

/-- The opcodes that only a U ring may carry (R131). -/
def uOnly : List Nat := [0x28, 0x29, 0x2A, 0x30, 0x40, 0x41]

/-- The GEMM family. -/
def isGemm (d : Nat) : Bool := decide (1 ≤ dOpcode d) && decide (dOpcode d ≤ 4)

/-- What step 1 finds of an address: alignment, range, and 0 where it is required. -/
def addrChecks (a align : Nat) (required : Bool) : List (Bool × Nat) :=
  [(a % align != 0, 6), (addrBad a, 7), (required && a == 0, 7)]

/-- What step 1 finds of the words every descriptor has (R129 to R131, R119). -/
def headChecks (r : RingId) (d : Nat) : List (Bool × Nat) :=
  [(!opcodes.contains (dOpcode d), 1), (uOnly.contains (dOpcode d) && ringStream r != 2, 2),
   (decide (4 < dPhase d) || bits d 31 21 != 0 || bits d 127 112 != 0, 3),
   ((List.range 5).any (fun i => bits d (64 * i + 191) (64 * i + 176) != 0), 3),
   (dCpl d % 16 != 0, 6), (addrBad (dCpl d), 7),
   (dHeritage d && !(isGemm d || dOpcode d == 0x20 || dOpcode d == 0x21), 8), (dSparse d && !isGemm d, 8)]

/-- The parameter words from Pn on are reserved. -/
def zeroFrom (d n : Nat) : List (Bool × Nat) := [(bits d 1023 (64 * n + 448) != 0, 3)]

/-! What an opcode makes of its descriptor. -/

/-- How a macro-op uses a matrix descriptor. -/
inductive Role where
  | absent | read | sparse | written | accumulated | turned | master | shape
  deriving DecidableEq, Repr

/-- What steps 1 to 6 need of an opcode: how it uses MD0 to MD4 and the masters of a turned A and B, its own checks,
the other records that it reads at step 1, its intervals beside those of its matrices as byte ranges,
what its engine does when it is handed over, what else it keeps of step 3, whether its opcode makes it wait at step 5 now,
what must hold once that wait is over, and its checks of step 1 on the matrix descriptors and records that it reads. -/
structure Plan where
  roles   : List Role
  checks1 : List (Bool × Nat)
  checks4 : Op → List (Bool × Nat)
  extra   : Op → List (Nat × Nat) × List (Nat × Nat)
  start   : State → Op → State
  look    : List (Nat × Nat) := []
  note    : List Nat := []
  waits   : Bool := false
  late    : List (Bool × Nat) := []
  checksR : List (Bool × Nat) := []

/-- A plan with no matrix. -/
def Plan.bare (checks1 : List (Bool × Nat)) (extra : Op → List (Nat × Nat) × List (Nat × Nat))
    (start : State → Op → State) : Plan := ⟨[], checks1, fun _ => [], extra, start, [], [], false, [], []⟩

/-- The matrix at place i of a macro-op. -/
def Op.mat (o : Op) (i : Nat) : Mat :=
  let sh := o.shapes.getD i (0, 0)
  ⟨o.mds.getD i 0, sh.1, sh.2, o.scales.getD i 0⟩

/-- The job slot of a macro-op. -/
def Op.slot (o : Op) : Fin 8 := ringSlot o.ring

/-- The die whose ring issued a macro-op. -/
def Op.die (o : Op) : Fin 2 := ringDie o.ring

/-- How a macro-op's engine accesses memory. -/
def Op.via (o : Op) : Via := ⟨o.die, some o.slot, true, 0⟩

/-- Whether a macro-op's work is done. -/
def Op.ready (o : Op) : Bool :=
  match o.work with
  | .made => true
  | .tiles n => n == 0
  | .engine n => n == 0
  | .due => false
  | .turn => false

/-- The completion code of the conditions that arose (R143). -/
def cplCode (flags : Nat) : Nat := ([4, 7, 1, 6, 5, 3, 2].find? fun n => bit flags (n - 1)).getD 0

/-- Whether two lists of line ranges overlap. -/
def rangesMeet (a b : List (Nat × Nat)) : Bool := a.any fun x => b.any fun y => decide (x.1 < y.2) && decide (y.1 < x.2)

/-- A write interval of either meets any interval of the other (R140). -/
def conflicts (a b : Op) : Bool :=
  rangesMeet a.writes (b.reads ++ b.writes) || rangesMeet b.writes (a.reads ++ a.writes)

namespace State

/-! Rings. -/

/-- The entry of a ring for an index (R122). -/
def ringEntry (s : State) (r : RingId) (i : Nat) : Nat :=
  s.rd Reg.STR_RING_BASE_HI_BASE_HI r * 2 ^ 32 + s.rd Reg.STR_RING_BASE_LO_BASE_LO r * 2 ^ 12 +
    128 * (i % 2 ^ s.rd Reg.STR_RING_CFG_LOG2N r)

/-- A ring's macro-ops in flight, oldest first. -/
def ringOps (s : State) (r : RingId) : List Op := s.ops.filter (·.ring == r)

/-- A ring changed. -/
def modRing (s : State) (r : RingId) (f : Ring → Ring) : State := { s with rings := s.rings.set r (f s.rings[r]) }

/-- How the sequencer accesses memory for a ring. -/
def seqVia (r : RingId) : Via := ⟨ringDie r, some (ringSlot r), false, 0⟩

/-- INFLIGHT brought up to date (R128). -/
def countInflight (s : State) (r : RingId) : State := s.wr Reg.STR_RING_STAT_INFLIGHT r (s.ringOps r).length

/-- The bit of STR_SLOT_STATE.HALTED for a ring. -/
def haltBit (r : RingId) : Nat := 2 ^ (3 * (r.val / 24) + r.val % 3)

/-- A capture record of a ring (R458): WHAT is 0 issue, 1 completion, 2 halt. CODE and CYCLES of an issue, CYCLES of a
halt, and all of a poisoned entry but its ring are 0 (DESIGN CHOICE: the table only lists the fields). -/
def captureRing (s : State) (r : RingId) (opcode what code seq cycles : Nat) : State :=
  s.capture (ringDie r) 0 (r.val + opcode * 2 ^ 8 + what * 2 ^ 16 + code * 2 ^ 24 + seq % 2 ^ 32 * 2 ^ 32 + cycles % 2 ^ 64 * 2 ^ 64)

/-- A ring halts (R144, R38). A ring that is halted already takes the code and SEQ of the later halt, and the event is raised
again: DESIGN CHOICE, R144 does not say (log entry 169). -/
def haltRing (s : State) (r : RingId) (opcode code seq : Nat) : State :=
  let slot := ringSlot r
  let s := ((s.wrB Reg.STR_RING_STAT_HALTED r true).wr Reg.STR_RING_STAT_HALT_CODE r code).wr Reg.STR_RING_HALTSEQ_SEQ r seq
  let s := s.wr Reg.STR_SLOT_STATE_HALTED slot (s.rd Reg.STR_SLOT_STATE_HALTED slot ||| haltBit r)
  let s := if s.slotState slot = 2 then s.wr Reg.STR_SLOT_STATE_STATE slot 3 else s
  (s.captureRing r opcode 2 code seq 0).raise 0x0301 r (some slot) seq

/-- A halted ring resumed by the owner (R145, R38). -/
def resumeRing (s : State) (r : RingId) : State :=
  let slot := ringSlot r
  if !s.rdB Reg.STR_RING_STAT_HALTED r then s
  else
    let s := (s.wrB Reg.STR_RING_STAT_HALTED r false).modRing r fun x => { x with poison := false }
    let left := s.rd Reg.STR_SLOT_STATE_HALTED slot - (s.rd Reg.STR_SLOT_STATE_HALTED slot &&& haltBit r)
    let s := s.wr Reg.STR_SLOT_STATE_HALTED slot left
    if s.slotState slot = 3 && left == 0 then s.wr Reg.STR_SLOT_STATE_STATE slot 2 else s

/-- Whether a ring may read and issue: its engines work, its slot is in RUN or HALTED, and it is not halted. -/
def ringLive (s : State) (r : RingId) : Bool :=
  let st := s.slotState (ringSlot r)
  s.running && (st == 2 || st == 3) && !s.rdB Reg.STR_RING_STAT_HALTED r

/-- A completion record written, where CPL_ADDR names a place for it (R142). -/
def writeRecord (s : State) (r : RingId) (d code warm flags detail cycles : Nat) : State :=
  let a := dCpl d
  if a = 0 || a % 16 ≠ 0 || addrBad a then s
  else s.store (seqVia r) a (toBytes 16 (dSeq d + code * 2 ^ 32 + warm * 2 ^ 36 + flags * 2 ^ 40 + detail * 2 ^ 48 + cycles * 2 ^ 64))

/-- A macro-op that completes without issuing (R138): its record, DONE, and the halt of its ring. -/
def rejectOp (s : State) (r : RingId) (d flags detail : Nat) : State :=
  let code := cplCode flags
  let s := (s.modRing r fun x => { x with held := none }).writeRecord r d code 0 flags detail 0
  ((s.inc Reg.STR_RING_DONE_COUNT r 1).captureRing r (dOpcode d) 1 code (dSeq d) 0).haltRing r (dOpcode d) code (dSeq d)

/-- Fills of a ring that no issued macro-op matched are discarded as HEAD passes on beyond their descriptors (R286). -/
def fillsPass (s : State) (r : RingId) (head : Nat) : State :=
  s.killFills fun f => f.ring == r && f.user.isNone && decide (1 ≤ (head + 2 ^ 32 - f.seq) % 2 ^ 32) &&
    decide ((head + 2 ^ 32 - f.seq) % 2 ^ 32 < 2 ^ 31)

/-- The BASE that an operand of the GEMM family is read from: its master's under REQUANT (R163). -/
def readBase (o : Op) (i : Nat) : Nat := mdBase (if (o.mat (5 + i)).md = 0 then o.mat i else o.mat (5 + i)).md

/-- The fills a macro-op of the GEMM family uses: those of its descriptor's address, its matrix's descriptor address and
its BASE (R286). -/
def fillsMatch (s : State) (o : Op) : State :=
  let mine (f : Fill) : Bool := f.desc == o.addr && f.user.isNone && !f.ivals.isEmpty &&
    (List.range 2).any fun i => dMd o.desc i == f.md && readBase o i == f.base
  let use (fs : List Fill) : List Fill := fs.map fun f => if mine f then { f with user := some o.id } else f
  if isGemm o.desc then { s with ms := { s.ms with fills := s.ms.fills.map use } } else s

/-- The read of the entry at HEAD (R123): its conditions, HEAD's advance, and an entry that is poisoned or of a reserved
opcode, which completes at once (R138, R129). -/
def readDescriptor (s : State) (r : RingId) : State :=
  let head := s.rd Reg.STR_RING_HEAD_COUNT r
  if !s.ringLive r || s.rings[r].held.isSome || s.rd Reg.STR_RING_CFG_LOG2N r = 0 ||
      head = s.rd Reg.STR_RING_TAIL_COUNT r || (s.ringOps r).any (fun o => dFencePost o.desc) then s
  else
    let a := s.ringEntry r head
    let d := s.peek a 128
    let bad := s.poisoned a 128
    let s := (s.readRange (seqVia r) a 128).inc Reg.STR_RING_HEAD_COUNT r 1
    let s := s.fillsPass r head
    if bad then ((s.inc Reg.STR_RING_DONE_COUNT r 1).captureRing r 0 1 1 0 0).haltRing r 0 1 0
    else if !opcodes.contains (dOpcode d) then s.rejectOp r d 8 1
    else s.modRing r fun x => { x with held := some ⟨d, a, none, false, false, false⟩ }

/-! Shapes (R135 to R137). -/

/-- The address of a shape's word, where it lies in memory. -/
def specAddr (x : Nat) : Option Nat := if bits x 1 0 = 2 then some (bits x 111 64) else none

/-- A shape read (R135). -/
def shapeOf (s : State) (r : RingId) (x : Nat) : Nat :=
  match bits x 1 0 with
  | 0 => bits x 63 32
  | 1 => (s.word (0x024000 + 0x100 * r.val + 4 * bits x 13 8)).toNat
  | _ => s.peek (bits x 111 64) 4

/-- Whether a shape exceeds its cap (R135, R136). -/
def overCap (x v : Nat) : Bool :=
  let cap := bits x 63 32
  bits x 1 0 != 0 && cap != 0 && decide (cap < v)

/-! Issue (R138 to R141). -/

/-- The addresses of a descriptor's MD0 to MD4, the masters of a turned A and B (R163), and ATTN_B's outputs (R226). -/
def mdAddr (d i : Nat) : Nat :=
  if i < 5 then dMd d i else if i < 7 then dMd d (i - 5) + 128 else bits (dP d 7) 47 0 + 128 * (i - 7)

/-- What step 1 finds of the pointers: a used one must name an aligned place, an unused one must be 0 (R134). -/
def ptrChecks (d : Nat) (roles : List Role) : List (Bool × Nat) :=
  (List.range 5).flatMap fun i =>
    if roles.getD i .absent = .absent then [(dMd d i != 0, 3)] else addrChecks (dMd d i) 128 true

/-- The descriptors that step 1 reads: those used whose pointers pass their own checks. -/
def usedMds (d : Nat) (roles : List Role) : List (Role × Nat) :=
  (roles.zipIdx).filter fun (role, i) => role != .absent &&
    (firstDetail (addrChecks (if i < 7 then dMd d (if i < 5 then i else i - 5) else bits (dP d 7) 47 0) 128 true)).isNone

/-- What step 1 finds of the descriptors that its pointers name; the fields of a poisoned one are not known. The C of a
heritage GEMM_ACC counts as written and may be FP32: DEDUCED (log entry 62). -/
def usedChecks (s : State) (d : Nat) (roles : List Role) : List (Bool × Nat) :=
  ((usedMds d roles).filter fun x => !s.poisoned (mdAddr d x.2) 128).flatMap fun (role, i) =>
    let m := s.peek (mdAddr d i) 128
    match role with
    | .absent => []
    | .read => mdChecks m false (dHeritage d)
    | .sparse => mdChecks m false (dHeritage d)
    | .written => mdChecks m true (dHeritage d)
    | .accumulated => mdChecks m true (dHeritage d)
    | .turned => mdChecksTurned m (dHeritage d)
    | .master => mdChecks m false false ++ [(mdFmt m != 1, 8)]
    | .shape => specChecks (mdRows m) ++ specChecks (mdCols m)

/-- Whether a role reads or writes the arrays of its descriptor. -/
def Role.arrays : Role → Bool
  | .absent => false
  | .turned => false
  | .shape => false
  | _ => true

/-- Whether a role writes. -/
def Role.writes : Role → Bool
  | .written => true
  | .accumulated => true
  | _ => false

/-- Whether a role uses the per-tensor scale of its descriptor. -/
def Role.scaled : Role → Bool
  | .absent => false
  | .master => false
  | .shape => false
  | _ => true

/-- The matrix of a role as step 4 sees it, without its scale. -/
def matOf (s : State) (r : RingId) (d i : Nat) : Mat :=
  let m := s.peek (mdAddr d i) 128
  ⟨m, s.shapeOf r (mdRows m), s.shapeOf r (mdCols m), 0⟩

/-- The byte ranges a role adds (R139, R166, R205). -/
def roleRanges (role : Role) (m : Mat) : List (Nat × Nat) :=
  match role with
  | .absent => []
  | .shape => []
  | .turned => if mdPts m.md then [(mdRec m.md, 64)] else []
  | .sparse => ((Mat.ranges { m with rows := m.rows / 2 }).take (if m.rows ≠ 0 ∧ m.cols ≠ 0 then 1 else 0)) ++
      m.ranges.drop (if m.rows ≠ 0 ∧ m.cols ≠ 0 then 1 else 0)
  | .master => (Mat.ranges { m with md := putBits (putBits m.md 69 68 0) 75 74 0 }).take 1
  | _ => m.ranges

/-- The macro-op that steps 1 to 4 make of a held descriptor, its lists not yet holding scales and counters. -/
def planOp (s : State) (r : RingId) (h : Held) (p : Plan) : Op :=
  let d := h.desc
  let ix := p.roles.zipIdx
  let mats := ix.map fun (role, i) => if role = .absent then (⟨0, 0, 0, 0⟩ : Mat) else s.matOf r d i
  let o : Op := {
    id := s.opNext, ring := r, desc := d, addr := h.addr, mds := mats.map (·.md), shapes := mats.map fun m => (m.rows, m.cols)
    scales := [], ctrs := [], reads := [], writes := [], tracker := false, flags := 0, detail := 0, warm := false
    outs := ix.filterMap fun (role, i) => if Role.writes role then some ⟨i, false, (0, 0)⟩ else none
    cycles := 0, serving := [], seen := 0, olds := [], lens := p.note, units := [], prog := [], blks := [], work := .made }
  let words := ix.flatMap fun (role, i) => if role = .absent then [] else
    ([mdRows (mats.getD i ⟨0, 0, 0, 0⟩).md, mdCols (mats.getD i ⟨0, 0, 0, 0⟩).md].filterMap specAddr).map fun a => (a, 4)
  let rd := ix.flatMap fun (role, i) => if Role.writes role then [] else roleRanges role (mats.getD i ⟨0, 0, 0, 0⟩)
  let wr := ix.flatMap fun (role, i) => if Role.writes role then roleRanges role (mats.getD i ⟨0, 0, 0, 0⟩) else []
  let (xr, xw) := p.extra o
  { o with reads := (rd ++ words ++ xr).map fun x => lineRange x.1 x.2, writes := (wr ++ xw).map fun x => lineRange x.1 x.2 }

/-- What step 4 finds (R138): caps, strides, pitches, ranges, records, Crucible writes and the number of intervals. A record
that carries the marker has no known field (log entry 63). -/
def step4Checks (s : State) (p : Plan) (o : Op) : List (Bool × Nat) :=
  (p.roles.zipIdx).flatMap (fun (role, i) =>
    let m := o.mat i
    if role = .absent then []
    else [(overCap (mdRows m.md) m.rows || overCap (mdCols m.md) m.cols, 4),
        (Role.scaled role && mdPts m.md && !s.poisoned (mdRec m.md) 64 && !recValid (s.peek (mdRec m.md) 64), 10),
        (Role.writes role && (mdFmt m.md != 0 || dOpcode o.desc == 4) &&
          m.ranges.any (fun x => x.2 != 0 && (s.windowOver none (64 * (lineRange x.1 x.2).1)
            (64 * ((lineRange x.1 x.2).2 - (lineRange x.1 x.2).1))).isSome), 8)] ++
      (if Role.arrays role then m.checks ++ [((roleRanges role m).any fun x => decide (spaceEnd < x.1 + x.2), 7)] else [])) ++
  [(((o.reads ++ o.writes).any fun x => decide (spaceEnd / 64 < x.2)), 7),
   (decide (32 < (o.reads ++ o.writes).length), 11)]

/-- What step 1 reads beside the ring's entry (R138): the matrix descriptors and the records of the opcode. -/
def lookRanges (d : Nat) (p : Plan) : List (Nat × Nat) :=
  (usedMds d p.roles).map (fun x => (mdAddr d x.2, 128)) ++ p.look.filter (·.2 != 0)

/-- Whether something that step 1 reads carries the marker. -/
def lookPoison (s : State) (d : Nat) (p : Plan) : Bool := (lookRanges d p).any fun x => s.poisoned x.1 x.2

/-- The accounting of what the sequencer reads at step 1. -/
def lookReads (s : State) (r : RingId) (d : Nat) (p : Plan) : State :=
  (lookRanges d p).foldl (fun s x => s.readRange (seqVia r) x.1 x.2) s

/-- The shape words that step 3 reads. -/
def wordRanges (p : Plan) (o : Op) : List (Nat × Nat) :=
  (p.roles.zipIdx).flatMap fun (role, i) =>
    if role = .absent then [] else ([mdRows (o.mat i).md, mdCols (o.mat i).md].filterMap specAddr).map fun a => (a, 4)

/-- The scale records that step 4 and the issue read (R100). -/
def recRanges (p : Plan) (o : Op) : List (Nat × Nat) :=
  (p.roles.zipIdx).flatMap fun (role, i) =>
    if Role.scaled role && mdPts (o.mat i).md then [(mdRec (o.mat i).md, 64)] else []

/-- The shape words and scale records that steps 3 and 4 read. -/
def shapeRanges (p : Plan) (o : Op) : List (Nat × Nat) := wordRanges p o ++ recRanges p o

/-- Whether a shape word or scale record that steps 3 and 4 read carries the marker. -/
def shapePoison (s : State) (p : Plan) (o : Op) : Bool := (shapeRanges p o).any fun x => s.poisoned x.1 x.2

/-- The accounting of what the sequencer reads at steps 3 and 4. -/
def shapeReads (s : State) (r : RingId) (p : Plan) (o : Op) : State :=
  (shapeRanges p o).foldl (fun s x => s.readRange (seqVia r) x.1 x.2) s

/-- A tracker taken for a held macro-op, or its ring put in line for one (R141); a ring that may not issue keeps its place
and holds up none of the others. -/
def takeTracker (s : State) (r : RingId) (h : Held) : State × Bool :=
  let d := ringDie r
  let q := s.seqr[d]
  let line := q.waiters.filter s.ringLive
  let free := s.trackers d < 64 && (line = [] || line.head? = some r)
  if h.tracker then (s, true)
  else if free then
    ({ s with seqr := s.seqr.set d { q with waiters := q.waiters.filter (· != r) } }.modRing r
      fun x => { x with held := some { h with tracker := true } }, true)
  else if q.waiters.contains r then (s, false)
  else
    ({ s with seqr := s.seqr.set d { q with waiters := q.waiters ++ [r] } }.modRing r
      fun x => { x with held := some { h with queued := true } }, false)

/-- A ring leaves the line for a tracker. -/
def leaveLine (s : State) (r : RingId) : State :=
  let q := s.seqr[ringDie r]
  { s with seqr := s.seqr.set (ringDie r) { q with waiters := q.waiters.filter (· != r) } }

/-- The scale exponents and counters of a macro-op taken at issue, with the issue update of each written record (R90,
R98, R99); an accumulated matrix is read by T as it was before its update. -/
def takeScales (s : State) (p : Plan) (o : Op) : State × Op :=
  let slot := o.slot
  let step := s.stepLow slot
  let s0 := s
  let readT (i : Nat) : Int := let m := o.mat i; if mdPts m.md then recExp (s0.peek (mdRec m.md) 64) else 0
  let go := fun (x : State × Op) (ri : Role × Nat) =>
    let (s, o) := x
    let (role, i) := ri
    let m := o.mat i
    if Role.writes role then
      let (s, t, warm) := if mdPts m.md then
          let rec' := recIssue step (s.peek (mdRec m.md) 64)
          (s.update (seqVia o.ring) (mdRec m.md) (toBytes 64 rec'), recExp rec', bit rec' 359)
        else (s, 0, false)
      let (s, c) := if mdRnd m.md then s.takeCounter slot (mdSrs m.md) else (s, 0)
      (s, { o with scales := o.scales ++ [t], ctrs := o.ctrs ++ [c], olds := o.olds ++ [readT i], warm := o.warm || warm })
    else (s, { o with scales := o.scales ++ [if Role.scaled role then readT i else 0], ctrs := o.ctrs ++ [0], olds := o.olds ++ [0] })
  (p.roles.zipIdx).foldl go (s, o)

/-- Step 6 (R138): the macro-op is handed to its engine. -/
def handOver (s : State) (r : RingId) (h : Held) (p : Plan) (o : Op) : State :=
  let o := { o with id := s.opNext, tracker := h.tracker }
  let s := { s with opNext := s.opNext + 1 }.modRing r fun x => { x with held := none }
  let (s, o) := s.takeScales p o
  let s := { s with ops := s.ops ++ [o] }.captureRing r (dOpcode o.desc) 0 0 (dSeq o.desc) 0
  (p.start (s.fillsMatch o) o).countInflight r

/-- The issue of a macro-op (R138 step 6, R100): where a scale record became poisoned or invalid while it waited, it
completes with POISON or BOUND_ERR, and else it is handed over. -/
def stepSix (s : State) (r : RingId) (h : Held) (p : Plan) (o : Op) : State :=
  let recs := recRanges p o
  let bad := recs.any fun x => s.poisoned x.1 x.2
  let wrong := recs.any fun x => !s.poisoned x.1 x.2 && !recValid (s.peek x.1 64)
  if bad || wrong then
    (recs.foldl (fun s x => s.readRange (seqVia r) x.1 x.2) s).rejectOp r h.desc (b2n bad + 8 * b2n wrong) (10 * b2n wrong)
  else s.handOver r h p o

/-- A fence point of a ring (R144): it halts where a macro-op has completed with POISON, else it is passed. -/
def fencePoint (s : State) (r : RingId) (opcode seq : Nat) : State :=
  if s.rings[r].poison then (s.modRing r fun x => { x with poison := false }).haltRing r opcode 1 seq else s

/-- Step 5 (R138, R140, R141, R144), where a fifth CKPT_DRAIN waits (R434), and step 6. -/
def stepFive (s : State) (r : RingId) (h : Held) (p : Plan) (o : Op) : State :=
  let earlier := s.ringOps r
  let fence := dFencePre h.desc || dOpcode h.desc == 0x3A
  if p.waits || (dOpcode h.desc == 0x41 && decide (4 ≤ (s.ops.filter fun x => dOpcode x.desc == 0x41).length)) then s
  else if fence && !h.passed && earlier ≠ [] then s
  else if fence && !h.passed && s.rings[r].poison then
    (s.modRing r fun x => { x with held := some { h with passed := true } }).fencePoint r (dOpcode h.desc) (dSeq h.desc)
  else if o.reads = [] && o.writes = [] then s.stepSix r h p o
  else if (firstDetail p.late).isSome then (s.leaveLine r).rejectOp r h.desc 8 ((firstDetail p.late).getD 0)
  else
    let (s, ok) := s.takeTracker r h
    if !ok || earlier.any (conflicts o) then s
    else s.stepSix r { h with tracker := true } p o

/-- Whether a macro-op of the ring holds back those after it: a WAIT, or a STEP_MARK before its latch (R318, R512). -/
def heldBackBy (s : State) (r : RingId) : Bool :=
  (s.ringOps r).any fun o => dOpcode o.desc == 0x39 || (dOpcode o.desc == 0x40 && !o.ready) 

/-- The issue of the held macro-op of a ring, where its opcode is among `codes` (R138). A wait leaves the state. -/
def issue (s : State) (r : RingId) (code : Nat) (sub : Nat → Bool) (plan : State → RingId → Nat → Plan) : State :=
  match s.rings[r].held with
  | none => s
  | some h =>
    let d := h.desc
    if dOpcode d ≠ code || !sub d || !s.ringLive r || s.heldBackBy r || decide (64 ≤ (s.ringOps r).length) then s
    else
      let p := plan s r d
      match h.plan with
      | some o => s.stepFive r h p o
      | none =>
        let poison := s.lookPoison d p
        let checks := headChecks r d ++ ptrChecks d p.roles ++ p.checks1 ++ (if poison then [] else p.checksR) ++ s.usedChecks d p.roles
        match firstDetail checks with
        | some n => (s.lookReads r d p).rejectOp r d (8 + b2n poison) n
        | none =>
          if poison then (s.lookReads r d p).rejectOp r d 1 0
          else
            let o := s.planOp r h p
            let words := (wordRanges p o).map fun x => lineRange x.1 x.2
            let unknown := (wordRanges p o).any fun x => s.poisoned x.1 x.2
            if (s.ringOps r).any (fun e => rangesMeet e.writes words) then s
            else
              let bad := s.shapePoison p o
              let s := (s.lookReads r d p).shapeReads r p o
              match (if unknown then none else firstDetail (s.step4Checks p o ++ p.checks4 o)) with
              | some n => s.rejectOp r d (8 + b2n bad) n
              | none =>
                if bad then s.rejectOp r d 1 0
                else
                  let h := { h with plan := some o }
                  (s.modRing r fun x => { x with held := some h }).stepFive r h p o

/-- The issue of the held macro-op of a ring, unless `hold` makes it wait before its steps. -/
def issueUnless (hold : State → RingId → Nat → Bool) (s : State) (r : RingId) (code : Nat) (sub : Nat → Bool)
    (plan : State → RingId → Nat → Plan) : State :=
  match s.rings[r].held with
  | some h => if h.plan.isNone && hold s r h.desc then s else s.issue r code sub plan
  | none => s

/-- Whether an earlier macro-op of a ring, still in flight, writes a line of some bytes (R138). -/
def ringWrites (s : State) (r : RingId) (a n : Nat) : Bool := (s.ringOps r).any fun e => rangesMeet e.writes [lineRange a n]

/-! SIGNAL and the latch of STEP_MARK wait for every earlier macro-op of their ring (R317, R512). -/

/-- The flag write of a SIGNAL: a local read-modify-write, or a message to the peer (R317, R347). -/
def signalFlag (s : State) (o : Op) : State :=
  let a := bits (dP o.desc 0) 47 0
  let v := dP o.desc 1
  let w := bits (dP o.desc 2) 2 2
  let op := bits (dP o.desc 2) 4 3
  if bit (dP o.desc 2) 5 then
    let peer := o.lens.getD 0 0
    let (s, id) := s.takeOpId
    let k : OutPkt := ⟨o.id, BitVec.ofNat 16 peer, 0, 1, true, false, bits peer 63 48, id, 0, bits peer 47 32, 0, 0, 0, a, signalPayload a v w op, 0, 0⟩
    (s.modOp o.id fun x => { x with work := .engine 1 }).transmit peer 0 [k]
  else
    let done (s : State) : State := s.modOp o.id fun x => { x with work := .made }
    match s.signalWrite (seqVia o.ring) a v w op with
    | (t, true) => done t
    | (t, false) => done (t.opFlag o.id 1)

/-- The latch of a STEP_MARK with the copies of its banks (R512): the device bank is copied where the slot was the lead
slot at issue, which its interval shows, and at the latch. -/
def stepLatch (s : State) (o : Op) : State :=
  let was := o.writes.any fun x => x.2 - x.1 == 96
  let s := s.latch o.slot false
  let lead := s.lead == o.slot
  let dst := bits (dP o.desc 0) 47 0
  let s := if dst = 0 then s else s.store o.via dst (s.ctlBytes (slotBank o.slot.val) 2048)
  let s := if dst ≠ 0 && was && lead then s.store o.via (dst + 2048) (s.ctlBytes deviceBank 4096) else s
  s.modOp o.id fun x => { x with work := .made }

/-- Whether the completion of a macro-op still updates a scale record (R98). -/
def recordDue (o : Op) : Bool := o.outs.any (fun x => x.wrote && mdPts (o.mat x.md).md) || o.blks.any fun b => mdPts b.md

/-- Whether a macro-op has made all its writes as a release of a scope asks (R310, R317): its work is done; it makes
none of its own, as RECV, WAIT and FENCE; or, below FABRIC scope, all that it sends to another device is sent, and a
collective has nothing more to write here. -/
def wroteAll (s : State) (scope : Nat) (o : Op) : Bool :=
  (o.ready && !recordDue o && !s.zeroing o.writes) || [0x29, 0x39, 0x3A].contains (dOpcode o.desc) ||
  (scope != 3 && [0x28, 0x2A, 0x38].contains (dOpcode o.desc) && o.work != .due && !s.zeroing o.writes &&
    (s.net.colls.all fun c => c.stats || c.own != o.id) && s.net.conns.all fun c => c.wait.all fun k => k.own != o.id)

/-- What waits for earlier macro-ops of a ring is done for the first macro-op marked by `.due`, where it may be: the flag
write of a SIGNAL once every earlier one has made its writes at its scope, the latch of a STEP_MARK once none is left. At
most n are looked at. -/
def dueN (s : State) (r : RingId) : Nat → State
  | 0 => s
  | n + 1 =>
    let ops := s.ringOps r
    match ops.find? (·.work == .due) with
    | none => s
    | some o =>
      let earlier := ops.takeWhile (·.id != o.id)
      if dOpcode o.desc = 0x38 then
        (if earlier.all (s.wroteAll (bits (dP o.desc 2) 1 0)) then (s.signalFlag o).dueN r n else s)
      else if dOpcode o.desc = 0x40 && earlier == [] then s.stepLatch o
      else s

/-- The writes of a ring that wait for earlier macro-ops, as far as they may be made. -/
def ringDue (s : State) (r : RingId) : State := s.dueN r (s.ringOps r).length

/-! SIGNAL, WAIT, FENCE and STEP_MARK. -/

/-- The plan of a SIGNAL (R317). -/
def signalPlan (s : State) (r : RingId) (d : Nat) : Plan :=
  let p2 := dP d 2
  let wide := bit p2 2
  let remote := bit p2 5
  let a := bits (dP d 0) 47 0
  let idx := bits p2 31 16
  let slot := (ringSlot r).val
  { roles := []
    checks1 := [(bits (dP d 0) 63 48 != 0 || bits p2 15 6 != 0 || bits p2 63 32 != 0, 3), (!wide && decide (2 ^ 32 ≤ dP d 1), 3),
      (bits p2 4 3 == 3, 3), (!remote && idx != 0, 3), (remote && bits p2 1 0 != 3, 3),
      (remote && decide (s.rd Reg.NET_SLOT_PEER_LEN slot ≤ idx), 3), (remote && ringStream r != 2, 2)] ++
      addrChecks a (if wide then 8 else 4) false ++ zeroFrom d 3
    checksR := [(remote && !s.peerValid slot idx, 3)]
    checks4 := fun _ => []
    look := if remote then s.peerLook slot idx else []
    note := if remote then [s.peerEntry slot idx] else []
    extra := fun _ => ([], if remote then [] else [(a, if wide then 8 else 4)])
    start := fun s o => (s.modOp o.id fun x => { x with work := .due }).ringDue r }

/-- Whether a WAIT's condition holds for a value of its flag (R318). -/
def waitHolds (d flag : Nat) : Bool :=
  let w := if bit (dP d 3) 2 then 64 else 32
  let x := flag &&& dP d 2
  let v := dP d 1
  match bits (dP d 3) 5 3 with
  | 0 => x == v
  | 1 => x != v
  | 2 => decide (v ≤ x)
  | _ => decide ((x + 2 ^ w - v) % 2 ^ w < 2 ^ (w - 1))

/-- A read of a WAIT's flag (R318): it ends where the condition holds, or with POISON. -/
def waitRead (s : State) (o : Op) : State :=
  let a := bits (dP o.desc 0) 47 0
  let n := if bit (dP o.desc 3) 2 then 8 else 4
  let done (s : State) : State := s.modOp o.id fun x => { x with work := .made }
  let bad := s.poisoned a n
  let ok := waitHolds o.desc (s.peek a n)
  let s := s.readRange (seqVia o.ring) a n
  if bad then done (s.opFlag o.id 1) else if ok then done s else s.modOp o.id fun x => { x with work := .engine 1 }

/-- The plan of a WAIT (R318). -/
def waitPlan (_ : State) (_ : RingId) (d : Nat) : Plan :=
  let wide := bit (dP d 3) 2
  let a := bits (dP d 0) 47 0
  .bare ([(bits (dP d 0) 63 48 != 0, 3), (!wide && (decide (2 ^ 32 ≤ dP d 1) || decide (2 ^ 32 ≤ dP d 2)), 3),
      (decide (3 < bits (dP d 3) 5 3) || bits (dP d 3) 63 6 != 0, 3)] ++ addrChecks a (if wide then 8 else 4) false ++
      zeroFrom d 4) (fun _ => ([(a, if wide then 8 else 4)], [])) waitRead

/-- The plan of a FENCE (R131): every parameter word is 0, and its work is its fence point. -/
def fencePlan (_ : State) (_ : RingId) (d : Nat) : Plan := .bare (zeroFrom d 0) (fun _ => ([], [])) fun s _ => s

/-- The plan of a STEP_MARK (R511). -/
def stepMarkPlan (s : State) (r : RingId) (d : Nat) : Plan :=
  let dst := bits (dP d 0) 47 0
  let n := if s.lead == ringSlot r then 6144 else 2048
  .bare ([(bits (dP d 0) 63 48 != 0, 3)] ++ addrChecks dst 64 false ++ zeroFrom d 1)
    (fun _ => ([], if dst = 0 then [] else [(dst, n)]))
    fun s o => (s.modOp o.id fun x => { x with work := .due }).ringDue r

/-! Completion (R142 to R144). -/

/-- The completion update of the record of one descriptor that was written (R98, R100). -/
def recordDone (s : State) (o : Op) (md : Nat) (amax : Nat × Int) : State :=
  if !mdPts md then s
  else if s.poisoned (mdRec md) 64 then (s.readRange (seqVia o.ring) (mdRec md) 64).opFlag o.id 1
  else s.update (seqVia o.ring) (mdRec md) (toBytes 64 (recDone amax (s.peek (mdRec md) 64)))

/-- The completion update of each written record (R98, R100). -/
def recordsDone (s : State) (o : Op) : State :=
  let s := o.outs.foldl (fun s x => if x.wrote then s.recordDone o (o.mat x.md).md x.amax else s) s
  o.blks.foldl (fun s b => s.recordDone o b.md b.amax) s

/-- Lines moved by a macro-op that is not the Anvils', for the sharing of energy (R424): those that it reads and those that
it writes, as it completes. That both count, and when, is the model's choice (DESIGN CHOICE, log entry 85). -/
def countMoved (s : State) (o : Op) : State :=
  let n := ((o.reads ++ o.writes).map fun x => x.2 - x.1).sum
  let k := o.slot.val * 8 + dPhase o.desc
  let moved := Tab.set (fun _ => 0) s.pw.moved k (Tab.get (fun _ => 0) s.pw.moved k + n)
  { s with pw := { s.pw with moved := moved } }

/-- The steps of a completion: the record, the tracker, DONE, the lines moved (R424), and the halts of R144. -/
def finish (s : State) (id : Nat) : State :=
  match s.opOf id with
  | none => s
  | some o =>
    let code := cplCode o.flags
    let seq := dSeq o.desc
    let s := s.writeRecord o.ring o.desc code (b2n o.warm) o.flags (if code = 4 then o.detail else 0) o.cycles
    let s := ({ s with ops := s.ops.filter (·.id != id) }.killFills fun f => f.user == some id).countInflight o.ring
    let s := if dOpcode o.desc < 0x18 then s else s.countMoved o
    let s := (s.inc Reg.STR_RING_DONE_COUNT o.ring 1).captureRing o.ring (dOpcode o.desc) 1 code seq o.cycles
    let s := if code = 1 then s.modRing o.ring fun x => { x with poison := true } else s
    let s := if code = 4 || code = 7 then s.haltRing o.ring (dOpcode o.desc) code seq
      else if dFencePost o.desc || (dOpcode o.desc == 0x39 && code == 1) then s.fencePoint o.ring (dOpcode o.desc) seq
      else s
    s.ringDue o.ring

/-- Whether an in-flight macro-op may complete: its work is done and no access of it waits for a window's READY (R173), or a
RECV's tag has its operations (R346). -/
def mayComplete (s : State) (o : Op) : Bool :=
  if dOpcode o.desc = 0x29 then
    decide (bits (dP o.desc 0) 47 32 ≤ Tab.get (fun _ => 0) s.rings[o.ring].ledger (bits (dP o.desc 0) 31 0))
  else o.ready && !s.zeroing (o.reads ++ o.writes)

/-- The operations that a RECV awaited leave its ledger (R346). -/
def takeTag (s : State) (o : Op) : State :=
  if dOpcode o.desc ≠ 0x29 then s
  else
    let t := bits (dP o.desc 0) 31 0
    let n := bits (dP o.desc 0) 47 32
    let cut (l : Tab Nat) : Tab Nat := Tab.set (fun _ => 0) l t (Tab.get (fun _ => 0) l t - n)
    s.modRing o.ring fun x => { x with ledger := cut x.ledger }

/-- The k-th macro-op in flight of a ring completes, where its work is done (R142); the ring's writes that waited are made
first, as far as they may be. -/
def complete (s : State) (r : RingId) (k : Nat) : State :=
  let s := if s.memUp then s.ringDue r else s
  match (s.ringOps r)[k]? with
  | none => s
  | some o => if !s.memUp || !s.mayComplete o then s else (((s.takeTag o).recordsDone o).finish o.id).pumpAll

/-! The ring and interleave registers (R124, R157). -/

/-- The write of STR_RING_BASE_LO, STR_RING_BASE_HI or STR_RING_CFG (R124), by the register's number. -/
def ringConfig (s : State) (r : RingId) (reg : Fin 3) (v : Nat) : State × KStat :=
  let st := s.slotState (ringSlot r)
  let n := bits v 4 0
  if 2 ≤ st then (s, .busy 10 (ringSlot r).val)
  else if reg = 2 && n ≠ 0 && !(4 ≤ n && n ≤ 16) then (s, .range)
  else
    let s := match reg with
      | 0 => s.wr Reg.STR_RING_BASE_LO_BASE_LO r (bits v 31 12)
      | 1 => s.wr Reg.STR_RING_BASE_HI_BASE_HI r (bits v 8 0)
      | _ => s.wr Reg.STR_RING_CFG_LOG2N r n
    (((s.wr Reg.STR_RING_HEAD_COUNT r 0).wr Reg.STR_RING_TAIL_COUNT r 0).wr Reg.STR_RING_DONE_COUNT r 0, .ok)

/-- The write of STR_ITAB_CTRL (R157): a write of LOAD = 1 begins the reading of the table. -/
def itabWrite (s : State) (d : Fin 2) (v : Nat) : State × KStat :=
  let n := bits v 12 0
  if bit v 14 && s.rdB Reg.STR_ITAB_STATUS_PENDING d then (s, .busy 14 d.val)
  else if n = 0 || 4096 < n then (s, .range)
  else
    let s := (s.wr Reg.STR_ITAB_CTRL_LEN d n).wrB Reg.STR_ITAB_CTRL_LEND d (bit v 13)
    if !bit v 14 then (s, .ok)
    else
      let a := s.rd Reg.STR_ITAB_ADDR_HI_ADDR_HI d * 2 ^ 32 + s.rd Reg.STR_ITAB_ADDR_LO_ADDR_LO d * 2 ^ 6
      let q := s.seqr[d]
      ({ s with seqr := s.seqr.set d { q with loading := some (a, n, bit v 13) } }, .ok)

/-- Whether an interleave entry holds a reserved value (R153). -/
def badEntry (w : Nat) : Bool := bits w 7 5 != 0 || bits w 31 24 != 0 || bits w 23 8 == 0

/-- The length and mode shown of a die's table: those of its lower-numbered Anvil (R157). -/
def showTable (s : State) (d : Fin 2) : State :=
  let a := s.anv[(Fin.ofNat 4 (2 * d.val))]
  (s.wr Reg.STR_ITAB_STATUS_ACTIVE_LEN d a.table.length).wrB Reg.STR_ITAB_STATUS_ACTIVE_LEND d a.lend

/-- PENDING clears, and LOADS rises, once both Anvils of a die have switched (R157). -/
def switchedBoth (s : State) (d : Fin 2) : State :=
  let a0 := Fin.ofNat 4 (2 * d.val)
  let a1 := Fin.ofNat 4 (2 * d.val + 1)
  if s.seqr[d].pending.isSome && s.anv[a0].switched && s.anv[a1].switched then
    let s := { s with seqr := s.seqr.set d { s.seqr[d] with pending := none } }
    let s := { s with anv := (s.anv.set a0 { s.anv[a0] with switched := false }).set a1 { s.anv[a1] with switched := false } }
    (s.wrB Reg.STR_ITAB_STATUS_PENDING d false).inc Reg.STR_ITAB_STATUS_LOADS d 1
  else s

/-- An Anvil takes its die's pending table (R157). -/
def takeTable (s : State) (n : Fin 4) : State :=
  let d : Fin 2 := Fin.ofNat 2 (n.val / 2)
  match s.seqr[d].pending with
  | some (t, lend) =>
    if s.anv[n].switched then s
    else (({ s with anv := s.anv.set n { s.anv[n] with table := t, lend := lend, switched := true } }).showTable d).switchedBoth d
  | none => s

/-- The reading of an interleave table ends: it is rejected at its first bad entry, or waits to be switched in; a
withdrawn Anvil switches at once (R157). -/
def itabLoaded (s : State) (d : Fin 2) : State :=
  let q := s.seqr[d]
  match q.loading with
  | none => s
  | some (a, n, lend) =>
    let ws := (List.range n).map fun i => s.peek (a + 4 * i) 4
    let bad := (List.range n).find? fun i => badEntry (ws.getD i 0) || s.poisoned (a + 4 * i) 4
    let s := s.readRange ⟨d, none, false, 0⟩ a (4 * n)
    let put (s : State) (p : Option (List Word × Bool)) : State :=
      { s with seqr := s.seqr.set d { q with loading := none, pending := p } }
    match bad with
    | some i => ((put s q.pending).wrB Reg.STR_ITAB_STATUS_LOAD_ERR d true).raise 0x0303 d none i
    | none =>
      let s := (put s (some (ws.map (BitVec.ofNat 32), lend))).wrB Reg.STR_ITAB_STATUS_PENDING d true
      let s := s.wrB Reg.STR_ITAB_STATUS_LOAD_ERR d false
      let one (s : State) (n : Fin 4) : State := if s.rdB Reg.ANV_FENCE_WITHDRAWN n then s.takeTable n else s
      one (one s (Fin.ofNat 4 (2 * d.val))) (Fin.ofNat 4 (2 * d.val + 1))

end State

/-! The meanings of the sequencers' commands. -/

/-- RING_CONFIG_WRITE (R124). -/
def execRingConfigWrite (w : Writer) (r : RingId) (reg : Fin 3) (value : Word) (s : State) :
    Host.Outcome State Fault Refusal :=
  act s (s.regWrite w (0x021000 + 0x40 * r.val + 4 * reg.val) value.toNat fun s => s.ringConfig r reg value.toNat)

/-- ITAB_LOAD: a write of STR_ITAB_CTRL with LOAD = 1 (R157). -/
def execItabLoad (w : Writer) (d : Die) (value : Word) (s : State) : Host.Outcome State Fault Refusal :=
  act s (s.regWrite w (0x020108 + 0x40 * d.val) (value.toNat ||| 2 ^ 14) fun s => s.itabWrite d (value.toNat ||| 2 ^ 14))

/-- ITAB_LOAD_DONE (R157). -/
def execItabLoadDone (d : Die) (s : State) : Host.Outcome State Fault Refusal := act s (if s.memUp then s.itabLoaded d else s)

/-- DOORBELL: a write of bytes within one line of the doorbell page (R125, R126). -/
def execDoorbell (line : Fin 4096) (off : Fin 64) (data : List Byte) (s : State) : Host.Outcome State Fault Refusal :=
  act s (if s.memUp then s.store ⟨0, none, true, 0⟩ (doorbellPage * 2 ^ 18 + 64 * line.val + off.val) (data.take (64 - off.val))
    else s)

/-- DESCRIPTOR_READ (R123). -/
def execDescriptorRead (r : RingId) (s : State) : Host.Outcome State Fault Refusal := act s (s.readDescriptor r)

/-- SIGNAL (R317). -/
def execSignal (r : RingId) (s : State) : Host.Outcome State Fault Refusal :=
  act s (s.issue r 0x38 (fun _ => true) State.signalPlan)

/-- WAIT (R318). -/
def execWait (r : RingId) (s : State) : Host.Outcome State Fault Refusal :=
  act s (s.issue r 0x39 (fun _ => true) State.waitPlan)

/-- WAIT_POLL (R318). -/
def execWaitPoll (r : RingId) (s : State) : Host.Outcome State Fault Refusal :=
  act s (if !s.memUp then s else match (s.ringOps r).find? fun o => dOpcode o.desc == 0x39 && !o.ready with
    | some o => s.waitRead o
    | none => s)

/-- FENCE (R144). -/
def execFence (r : RingId) (s : State) : Host.Outcome State Fault Refusal :=
  act s (s.issue r 0x3A (fun _ => true) State.fencePlan)

/-- STEP_MARK (R512). -/
def execStepMark (r : RingId) (s : State) : Host.Outcome State Fault Refusal :=
  act s (s.issue r 0x40 (fun _ => true) State.stepMarkPlan)

end Sys2Proof.Machine
end

