-- ==== Sys2Proof/Machine/Cell.lean ====
section
/-!
DEFINITION. The array of an Anvil (spec/02, spec/04): the elements as presented, the chunk sums of a cell with their
conversion and accumulation in every mode, and the checksums of a tile with what their comparisons find.
-/
namespace Sys2Proof.Machine

/-! Elements as presented (R103 to R107). -/

/-- A presented element: its code's value, whether it is a zero factor, and the half-step exponent of its scale. -/
structure PE where
  v    : Val
  zero : Bool
  h    : Int
  deriving DecidableEq, Repr

/-- A position that presents zero (R46, R106, R215). -/
def PE.none : PE := ⟨.fin false 0 0, true, 0⟩

/-- A code presented under its block's scale code: a block of scale code 255 holds NaN (R93). -/
def present (md code scale : Nat) : PE :=
  let f := mdFormat md
  if !mdNarrow md then ⟨f.decode code, false, 0⟩
  else if scale = 255 then ⟨.nan, false, 0⟩
  else ⟨f.decode code, code % f.signW == 0, halfSteps (mdSenc md) scale⟩

/-- A finite number in grid units of a format; Inf and NaN count as 0 (R104, R107). -/
def gridUnits (f : FFmt) : Val → Int
  | .fin neg m e => (if neg then -1 else 1) * ((m <<< (e - f.emin).toNat : Nat) : Int)
  | _ => 0

/-! The cell (R104 to R112, R119). -/

/-- The flags of a chunk: NAN, POS_INF, NEG_INF, and its exact sum (R104, R107). -/
structure Chunk where
  nan : Bool
  pos : Bool
  neg : Bool
  sum : Int
  deriving DecidableEq, Repr

/-- One product entering a chunk; under heritage rules a zero factor is no special case (R106, R107, R119). -/
def chunkStep (fa fb : FFmt) (heritage : Bool) (c : Chunk) (ab : PE × PE) : Chunk :=
  let (a, b) := ab
  if (a.zero || b.zero) && !(heritage && (!a.v.isFin || !b.v.isFin)) then c
  else if a.v.isFin && b.v.isFin then { c with sum := c.sum + gridUnits fa a.v * gridUnits fb b.v }
  else match a.v.mul b.v with
    | .nan => { c with nan := true }
    | .inf true => { c with neg := true }
    | _ => { c with pos := true }

/-- A heritage result below the normal range becomes zero of its sign (R119). -/
def flush (heritage : Bool) (c : Nat) : Nat :=
  if heritage && decide (c % 2 ^ 31 < 2 ^ 23) then c / 2 ^ 31 * 2 ^ 31 else c

/-- An FP32 code that is an infinity. -/
def f32IsInf (c : Nat) : Bool := c % 2 ^ 31 == 0x7F800000

/-- An FP32 code that is finite. -/
def f32Fin (c : Nat) : Bool := decide (c % 2 ^ 31 < 0x7F800000)

/-- An accumulator with the overflows counted so far (R109). -/
abbrev CellAcc := Nat × Nat

/-- An FP32 sum into an accumulator, counting a result rounded from finite operands to an infinity. -/
def accAdd (heritage : Bool) (a : CellAcc) (x : Nat) : CellAcc :=
  let r := flush heritage (f32Add a.1 x)
  (r, a.2 + b2n (f32Fin a.1 && f32Fin x && f32IsInf r))

/-- A chunk or group converted and added (R108 to R110, R119): `p2` is the exponent of the square of its unit. -/
def accChunk (heritage : Bool) (p2 : Int) (c : Chunk) (a : CellAcc) : CellAcc :=
  if c.nan || (c.pos && c.neg) then accAdd heritage a fp32.nanCode
  else if c.pos then accAdd heritage a fp32.infCode
  else if c.neg then accAdd heritage a (fp32.withSign true fp32.infCode)
  else if c.sum = 0 then (if heritage then accAdd heritage a 0 else a)
  else
    let n := c.sum.natAbs
    let x := flush heritage (convWide fp32 .nearest false (.fin (c.sum < 0) (n * n) p2)).1
    accAdd heritage (a.1, a.2 + b2n (f32IsInf x)) x

/-- One BF16 or FP16 product added (R112), or rounded first under heritage rules (R119); a zero factor, which only
attention presents in these formats, adds nothing (R215). -/
def accWide (heritage : Bool) (a : CellAcc) (ab : PE × PE) : CellAcc :=
  let p := ab.1.v.mul ab.2.v
  if ab.1.zero || ab.2.zero then a
  else if heritage then
    let x := flush true (fp32.round p)
    accAdd true (a.1, a.2 + b2n (p.isFin && f32IsInf x)) x
  else
    let r := fp32.round (p.add (f32 a.1))
    (r, a.2 + b2n (p.isFin && f32Fin a.1 && f32IsInf r))

/-- The chunks of K: start and length (R102). -/
def chunkRanges (k ext : Nat) : List (Nat × Nat) := (List.range (ceilDiv k ext)).map fun i => (i * ext, min ext (k - i * ext))

/-- What a product needs beside its elements: formats, the exponents of T, narrowness, heritage, its chunks (R102; groups
of four under R119), and which of them are skipped (R67). -/
structure CellCfg where
  fa       : FFmt
  fb       : FFmt
  lt       : Int
  narrow   : Bool
  heritage : Bool
  cuts     : List (Nat × Nat)
  skip     : List Bool
  deriving DecidableEq, Repr

/-- The chunks of a product that are worked: number, start, length. -/
def CellCfg.chunks (g : CellCfg) : List (Nat × Nat × Nat) :=
  ((g.cuts.zipIdx).filter fun x => !g.skip.getD x.2 false).map fun x => (x.2, x.1.1, x.1.2)

/-- What a two's-complement register of n bits holds of a sum (R58, R104). -/
def regHolds (n : Nat) (x : Int) : Int := x.bmod (2 ^ n)

/-- One chunk of a cell, whose 80-bit register is off by `off`; its scale is that of its elements' blocks (R104, R108). -/
def cellChunk (g : CellCfg) (off : Int) (xs : List (PE × PE)) (a : CellAcc) : CellAcc :=
  let live := xs.find? fun x => !x.1.zero && !x.2.zero && x.1.v.isFin && x.2.v.isFin
  let h := ((live <|> xs.head?).map fun x => x.1.h + x.2.h).getD 0
  let p2 := 2 * (g.fa.emin + g.fb.emin) + h + 2 * g.lt
  let c := xs.foldl (chunkStep g.fa g.fb g.heritage) ⟨false, false, false, 0⟩
  accChunk g.heritage p2 { c with sum := regHolds 80 (c.sum + off) } a

/-- A cell's whole pass over K (R110, R112, R113) from its starting value; `off` gives by how much each chunk's register
is off, and for the wide formats the final accumulator's code. -/
def cellRun (g : CellCfg) (off : Nat → Int) (as bs : List PE) (start : CellAcc) : CellAcc :=
  let xs := as.zip bs
  if g.narrow then g.chunks.foldl (fun a (i, k0, n) => cellChunk g (off i) ((xs.drop k0).take n) a) start
  else
    let r := xs.foldl (accWide g.heritage) start
    (((r.1 : Int) + off 0).toNat % 2 ^ 32, r.2)

/-! The checksums (R57 to R62, R118, R120). -/

/-- An element in the checksum arithmetic: grid units, with zero factors and non-finite elements as 0 (R118). -/
def gridOf (f : FFmt) (x : PE) : Int := if x.zero then 0 else gridUnits f x.v

/-- The exact product sum of two lanes in grid units. -/
def dotInt (a b : List Int) : Int := (List.zipWith (· * ·) a b).sum

/-- The edge sum of lanes, position by position (R57). -/
def edgeSum (n : Nat) (lanes : List (List Int)) : List Int := lanes.foldl (List.zipWith (· + ·)) (List.replicate n 0)

/-- By how much the register of a cell is off in a chunk; row or column 512 names the checksum cells. -/
def faultAt (fs : List CellFault) (i j c : Nat) : Int :=
  ((fs.filter fun f => f.row == i && f.col == j && f.chunk == c).map (·.delta)).sum

/-- The faults of an array that meet a tile, by the tile's own rows and columns: masked cells hold zero (R39), and logical
column q is the q-th live physical column (R151). -/
def tileFaults (live : List Nat) (h w : Nat) (fs : List CellFault) : List CellFault :=
  fs.filterMap fun f =>
    let q := live.idxOf f.col
    if f.row ≠ 512 ∧ h ≤ f.row then none
    else if f.col = 512 then some f
    else if q < w then some { f with col := q } else none

/-- What the comparisons of one chunk of a narrow tile find (R59, R118): `a` and `b` are the lanes' parts in grid units.
Cells hold 80 bits, checksum cells and lane totals 88, and the corner 96 (R58). -/
def chunkFind (fs : List CellFault) (c : Nat) (n : Nat) (a b : List (List Int)) : CheckFind :=
  let e := edgeSum n b
  let f := edgeSum n a
  let sum (i : Nat) (x : List Int) (j : Nat) (y : List Int) : Int := regHolds 80 (dotInt x y + faultAt fs i j c)
  let col (i : Nat) (x : List Int) : Int := regHolds 88 (dotInt x e + faultAt fs i 512 c)
  { rows := ((a.zipIdx).filter fun (x, i) => regHolds 88 ((b.zipIdx).map fun (y, j) => sum i x j y).sum != col i x).map (·.2)
    cols := ((b.zipIdx).filter fun (y, j) =>
      regHolds 88 ((a.zipIdx).map fun (x, i) => sum i x j y).sum != regHolds 88 (dotInt f y + faultAt fs 512 j c)).map (·.2)
    corner := regHolds 96 ((a.zipIdx).map fun (x, i) => col i x).sum != regHolds 96 (dotInt f e + faultAt fs 512 512 c) }

/-- The findings of several chunks together. -/
def CheckFind.join (x y : CheckFind) : CheckFind :=
  ⟨x.rows ++ y.rows.filter (!x.rows.contains ·), x.cols ++ y.cols.filter (!x.cols.contains ·), x.corner || y.corner⟩

/-- No comparison fails. -/
def CheckFind.none : CheckFind := ⟨[], [], false⟩

/-- The checks of a narrow tile, chunk by chunk; a skipped chunk is not checked (R58 to R60, R118, R120). -/
def narrowFind (g : CellCfg) (fs : List CellFault) (la lb : List (List PE)) : CheckFind :=
  let a := la.map (·.map (gridOf g.fa))
  let b := lb.map (·.map (gridOf g.fb))
  g.chunks.foldl (fun x (i, k0, n) =>
    x.join (chunkFind fs i n (a.map fun l => (l.drop k0).take n) (b.map fun l => (l.drop k0).take n))) CheckFind.none

/-! The check of BF16 and FP16 tiles, in FP64 (R61, R62). -/

def fp64 : FFmt := ⟨64, 52, 1023, .ieee⟩

/-- The value of an FP64 code. -/
def f64 (c : Nat) : Val := fp64.decode c

/-- The FP64 edge sums of lanes, position by position: each formed exactly and rounded once (R61). -/
def edgeSum64 (n : Nat) (lanes : List (List Val)) : List Nat :=
  (lanes.foldl (List.zipWith Val.add) (List.replicate n (.fin false 0 0))).map fp64.round

/-- S or M of one lane: ascending k, one fused multiply-add for each position (R61). -/
def fmaSum64 (lane : List Val) (edge : List Nat) : Nat :=
  (lane.zip edge).foldl (fun acc x => fp64.round ((x.1.mul (f64 x.2)).add (f64 acc))) 0

/-- R of one lane: its FP32 accumulators added in ascending order (R61). -/
def accSum64 (codes : List Nat) : Nat := codes.foldl (fun acc c => fp64.round ((f64 acc).add (f32 c))) 0

/-- The bound (K + 2) × 2^-23 × M + K × 2^-140, or K × 2^-125 under heritage rules (R61, R120). -/
def wideBound (heritage : Bool) (k : Nat) (m : Val) : Val :=
  (m.mul (.fin false (k + 2) (-23))).add (.fin false k (if heritage then -125 else -140))

/-- The comparison of one row or column of a wide tile: whether it is excluded (R62), and whether it fails (R61). `off` is
by how much its checksum cell is off. -/
def laneCheck (heritage : Bool) (off : Int) (lane : List Val) (sums mags : List Nat) (acc : List Nat) : Bool × Bool :=
  let sC := (((fmaSum64 lane sums : Nat) : Int) + off).toNat % 2 ^ 64
  let mC := fmaSum64 (lane.map Val.abs) mags
  let rC := accSum64 acc
  let ok (c : Nat) : Bool := (f64 c).isFin
  if lane.all Val.isFin && acc.all f32Fin && sums.all ok && mags.all ok && ok sC && ok mC && ok rC then
    (false, (wideBound heritage lane.length (f64 mC)).lt ((f64 rC).add (f64 sC).neg).abs)
  else (true, false)

/-- The checks of a wide tile on its final accumulators, and the rows and columns excluded; the corner is not compared
(R61, R62). S and M start at 0 and R sums the accumulators as they end, with what GEMM_ACC started them from: DESIGN
CHOICE, R61 does not name the starting values (log entry 167). -/
def wideFind (g : CellCfg) (fs : List CellFault) (k : Nat) (la lb : List (List PE)) (acc : List (List Nat)) :
    CheckFind × Nat :=
  let a := la.map (·.map (·.v))
  let b := lb.map (·.map (·.v))
  let side (xs ys : List (List Val)) (accs : List (List Nat)) (off : Nat → Int) : List (Bool × Bool) :=
    let sums := edgeSum64 k ys
    let mags := edgeSum64 k (ys.map (·.map Val.abs))
    ((xs.zip accs).zipIdx).map fun (x, i) => laneCheck g.heritage (off i) x.1 sums mags x.2
  let cols := (List.range lb.length).map fun j => acc.map (·.getD j 0)
  let rs := side a b acc fun i => faultAt fs i 512 0
  let cs := side b a cols fun j => faultAt fs 512 j 0
  let bad (l : List (Bool × Bool)) : List Nat := ((l.zipIdx).filter (·.1.2)).map (·.2)
  (⟨bad rs, bad cs, false⟩, ((rs ++ cs).filter (·.1)).length)

/-- What an array makes of a tile: final codes row by row, overflows, what the comparisons find by physical column, and
the rows and columns excluded. -/
structure Worked where
  acc  : List (List Nat)
  ovf  : Nat
  find : CheckFind
  excl : Nat
  deriving DecidableEq, Repr

/-- A tile of lanes `la` and `lb` worked on the live physical columns of an Anvil whose array has some faults. -/
def workTile (g : CellCfg) (live : List Nat) (faults : List CellFault) (k : Nat) (la lb : List (List PE))
    (start : Nat → Nat → CellAcc) : Worked :=
  let fs := tileFaults live la.length lb.length faults
  let cells := (la.zipIdx).map fun (x, i) => (lb.zipIdx).map fun (y, j) => cellRun g (faultAt fs i j) x y (start i j)
  let acc := cells.map (·.map (·.1))
  let (find, excl) := if g.narrow then (narrowFind g fs la lb, 0) else wideFind g fs k la lb acc
  { acc := acc, ovf := ((cells.flatten).map (·.2)).sum
    find := { find with cols := find.cols.map fun q => live.getD q 0 }, excl := excl }

end Sys2Proof.Machine
end

