-- ==== Sys2Proof/Machine/Gemm.lean ====
section
/-!
DEFINITION. The operands of a product (spec/02, spec/06 R160 to R170, spec/07 R204 to R206): descriptors of the GEMM
family, lanes as stored, turned, re-quantised and sparse, zero-block skip, and what a tile of the GEMM family computes,
reads and counts.
-/
namespace Sys2Proof.Machine

open State

/-! What a GEMM descriptor says (R132). -/

/-- Whether A is fed through the Tongs. -/
def gemmTa (d : Nat) : Bool := dOpcode d == 2 || (dOpcode d == 4 && bit (dP d 0) 0)

/-- Whether B is fed through the Tongs. -/
def gemmTb (d : Nat) : Bool := dOpcode d == 3 || (dOpcode d == 4 && bit (dP d 0) 1)

/-- Whether page-output mode is on (R132). -/
def pageOut (d : Nat) : Bool := dP d 3 != 0

/-- Whether a turned operand runs in REQUANT, its new K axis given (R162). -/
def requant (m axis : Nat) : Bool := mdNarrow m && !md2d m && mdAxis m != axis

/-- The group of the 2:4 pattern: positions that one code covers (R204). -/
def sparseGroup (m : Nat) : Nat := if mdFmt m = 7 then 8 else 4

/-- The kept indices that a metadata code names; a reserved code names none (R206). -/
def keptOf (c : Nat) : Option (Nat × Nat) :=
  if c = 4 then some (0, 1) else if c = 8 then some (0, 2) else if c = 12 then some (0, 3)
  else if c = 9 then some (1, 2) else if c = 13 then some (1, 3) else if c = 14 then some (2, 3) else none

/-- The row grouping of R40: 0 for BF16 and FP16, 1 for FP8 and FP6, 2 for FP4. -/
def rateRow (m : Nat) : Nat := if mdFmt m ≤ 2 then 0 else if mdFmt m = 7 then 2 else 1

/-- Whether the formats of A and B pair (R41): FP32 never; BF16 and FP16 with themselves; sparse in one row of R40. -/
def pairOk (a b : Nat) (sparse : Bool) : Bool :=
  mdFmt a != 0 && mdFmt b != 0 &&
    (if mdFmt a ≤ 2 || mdFmt b ≤ 2 then mdFmt a == mdFmt b && !sparse else !sparse || rateRow a == rateRow b)

/-- K positions of one K step (R40). -/
def stepPositions (a b : Nat) (sparse : Bool) : Nat :=
  (if rateRow a = 0 then 1 else if rateRow a = 2 && rateRow b = 2 then 4 else 2) * (if sparse then 2 else 1)

namespace State

/-- The metadata code of group g and column j of a sparse operand (R206). -/
def metaCode (s : State) (d g j : Nat) : Nat :=
  let b := (s.byte (bits (dP d 1) 47 0 + g * bits (dP d 2) 31 0 + j / 2)).toNat
  if j % 2 = 0 then b % 16 else b / 16

/-- The compressed row that holds logical row i of column j, where it is kept (R205). -/
def compressedRow (s : State) (d md i j : Nat) : Option Nat :=
  let n := sparseGroup md
  match keptOf (s.metaCode d (i / n) j) with
  | none => none
  | some (x, y) =>
    if n = 4 then (if i % 4 = x then some (2 * (i / 4)) else if i % 4 = y then some (2 * (i / 4) + 1) else none)
    else
      let p := i % 8 / 2
      if p = x then some (4 * (i / 8) + i % 2) else if p = y then some (4 * (i / 8) + 2 + i % 2) else none

/-- Element (i, j) of an operand as stored, presented; `sparse` reads B's compressed rows. -/
def elemPE (s : State) (d : Nat) (m : Mat) (sparse : Bool) (i j : Nat) : PE :=
  if sparse then
    match s.compressedRow d m.md i j with
    | some c => present m.md (s.codeAt m c j) (s.scaleAt m i j)
    | none => PE.none
  else present m.md (s.codeAt m i j) (if mdNarrow m.md then s.scaleAt m i j else 0)

/-- The presented elements of one lane under REQUANT: the master's values along the new K axis, cut into blocks of the
operand's length and encoded to nearest even (R164, R165); `at_` gives the master's element for a position. -/
def requantLane (s : State) (m : Mat) (heritage : Bool) (master : Mat) (k : Nat) (at_ : Nat → Nat × Nat) :
    List (PE × ConvNote) × List Nat :=
  let n := mdLen m.md
  let parts := (List.range (ceilDiv k n)).map fun b =>
    let vs := (span (b * n) (min n (k - b * n))).map fun x => let (i, j) := at_ x; s.valueAt master i j
    let sc := blockScale m.md m.lt heritage vs
    (vs.map (fun v => let (c, note) := convElem m.md m.lt heritage .nearest sc v; (present m.md c sc, note)), sc)
  (parts.flatMap (·.1), parts.map (·.2))

end State

/-- One operand of a product: its matrix, master, whether it is turned, whether sparse, and the extent of its blocks
along K (R102, R103). -/
structure Side where
  mat    : Mat
  master : Mat
  isA    : Bool
  turned : Bool
  sparse : Bool
  deriving DecidableEq, Repr

namespace Side

/-- Whether the Tongs re-quantise the operand. -/
def rq (x : Side) : Bool := x.turned && requant x.mat.md (if x.isA then 1 else 0)

/-- Whether K runs down the stored rows. -/
def kDown (x : Side) : Bool := if x.isA then x.turned else !x.turned

/-- The extent of a block along K; 128 covers no narrow block where the operand is wide. -/
def ext (x : Side) : Nat :=
  if !mdNarrow x.mat.md then 128 else if x.rq then mdLen x.mat.md
  else if x.kDown then mdRowExt x.mat.md else mdColExt x.mat.md

/-- Row and column as stored of position k of a lane. -/
def at_ (x : Side) (lane k : Nat) : Nat × Nat := if x.kDown then (k, lane) else (lane, k)

/-- Whether the operand's zero map serves zero-block skip (R67, R162). -/
def zmap (x : Side) : Bool := mdZmap x.mat.md && !x.rq

/-- Runs of K positions as they are fetched of an operand: under REQUANT whole blocks of its master, since a block is
chosen its scale as a whole (R164); DEDUCED where a chunk is shorter than the block (log entry 168). -/
def fetches (x : Side) (k : Nat) (ks : List (Nat × Nat)) : List (Nat × Nat) :=
  let n := mdLen x.mat.md
  if x.rq then ks.map fun r => (r.1 / n * n, min k (ceilDiv (r.1 + r.2) n * n) - r.1 / n * n) else ks

/-- The region that K positions [k0, k0 + kn) of an operand's lanes [l0, l0 + n) occupy: first row and column, extents. -/
def region (x : Side) (l0 n k0 kn : Nat) : Nat × Nat × Nat × Nat := if x.kDown then (k0, l0, kn, n) else (l0, k0, n, kn)

end Side

/-- A macro-op's A operand. -/
def Op.sideA (o : Op) : Side := ⟨o.mat 0, o.mat 5, true, gemmTa o.desc, false⟩

/-- A macro-op's B operand. -/
def Op.sideB (o : Op) : Side := ⟨o.mat 1, o.mat 6, false, gemmTb o.desc, dSparse o.desc⟩

/-- K of a product, from A's shape (R132). -/
def Op.gemmK (o : Op) : Nat := if gemmTa o.desc then (o.mat 0).rows else (o.mat 0).cols

namespace State

/-- The presented elements of a lane, K positions in ascending order, with what re-quantisation reports. -/
def lanePE (s : State) (d : Nat) (x : Side) (k lane : Nat) : List (PE × ConvNote) × List Nat :=
  if x.rq then s.requantLane x.mat (dHeritage d) x.master k (x.at_ lane)
  else ((List.range k).map (fun n => let (i, j) := x.at_ lane n; (s.elemPE d x.mat x.sparse i j, ConvNote.none)), [])

end State

namespace State

/-- The starting value of an element of C under GEMM_ACC, by the T it is read with (R111, R119). -/
def startValue (s : State) (o : Op) (i j : Nat) : CellAcc :=
  let c := { o.mat 2 with lt := o.olds.getD 2 0 }
  let v := s.valueAt c i j
  let x := flush (dHeritage o.desc) (convWide fp32 .nearest false v).1
  (x, b2n (!v.special && f32IsInf x))

/-- The chunks skipped for a tile (R67): an operand with a zero map marks every block over the chunk as zero, across the
tile's valid lanes. -/
def skipList (s : State) (o : Op) (r0 c0 h w ext : Nat) : List Bool :=
  let k := o.gemmK
  let zeroSide (x : Side) (l0 n k0 : Nat) : Bool := x.zmap && (span l0 n).all fun l =>
    let (i, j) := x.at_ l k0
    s.zmapAt x.mat i j
  let a := o.sideA
  let b := o.sideB
  if dHeritage o.desc || !mdNarrow a.mat.md then []
  else (chunkRanges k ext).map fun r => zeroSide a r0 h r.1 || zeroSide b c0 w r.1

/-- The chunk length of a product: the smaller of the two extents along K (R102). -/
def chunkLen (o : Op) : Nat := min o.sideA.ext o.sideB.ext

/-- Whether a product runs in the sparse mode of R40: the unturned B is sparse (R168). -/
def sparseMode (o : Op) : Bool := o.sideB.sparse && !o.sideB.turned

/-- The runs of K positions that the feeders fetch: those of the chunks not skipped, adjacent ones together (R69). -/
def fetched (cuts : List (Nat × Nat)) (skip : List Bool) : List (Nat × Nat) :=
  (((cuts.zipIdx).filter fun x => !skip.getD x.2 false).map (·.1)).foldr (fun r rest => match rest with
    | x :: xs => if r.1 + r.2 = x.1 then (r.1, r.2 + x.2) :: xs else r :: rest
    | [] => [r]) []

/-- Whether an operand's lanes [l0, l0 + n) carry the marker where the feeders fetch them: elements, scale codes, zero-map
bits and metadata. -/
def sidePoison (s : State) (o : Op) (x : Side) (ks : List (Nat × Nat)) (l0 n : Nat) : Bool :=
  let (zr, zc, zh, zw) := x.region l0 n 0 o.gemmK
  (x.zmap && s.zmapPoison x.mat zr zc zh zw) ||
  ks.any fun (k0, kn) =>
    let (r0, c0, h, w) := x.region l0 n k0 kn
    if x.rq then s.regionPoison x.master r0 c0 h w
    else
      let (pr, ph) := if x.sparse then (r0 / 2, ceilDiv h 2) else (r0, h)
      s.elemPoison x.mat pr c0 ph w || s.scalePoison x.mat r0 c0 h w ||
      (x.sparse && w != 0 && (span (r0 / sparseGroup x.mat.md) (ceilDiv h (sparseGroup x.mat.md))).any fun g =>
        s.poisoned (bits (dP o.desc 1) 47 0 + g * bits (dP o.desc 2) 31 0 + c0 / 2) ((c0 + w - 1) / 2 + 1 - c0 / 2))

/-- A feeder's reading of a range of a macro-op's matrix i: from the fill of a window ring that it uses, line by line,
where the line is filled, and otherwise from home (R286). A line that carries the marker is counted in either place (R302). -/
def feedRange (s : State) (o : Op) (i : Nat) (a : Fin 4) (v : Via) (lo n : Nat) : State :=
  let die : Fin 2 := Fin.ofNat 2 (a.val / 2)
  match s.ms.fills[die].find? fun f => f.user == some o.id && f.md == dMd o.desc i with
  | none => s.readRange v lo n
  | some f =>
    if n = 0 then s
    else (span (lo / 64) ((lo + n - 1) / 64 + 1 - lo / 64)).foldl (fun s line =>
      let kept := f.ivals.any fun iv => decide (iv.1 ≤ 64 * line) && decide (64 * line < iv.2)
      if kept && !f.missing.contains line then
        (if s.linePoison line then s.inc Reg.MEM_POISON_READS_COUNT 0 1 else s)
      else (s.inc Reg.MEM_WIN_HOME_LINES_COUNT 0 1).readLine v line) s

/-- The accounting of a tile's reads of the lanes of operand i: the zero map that decides the skips, and what the feeders
fetch (R67, R69). A sparse operand's elements lie in compressed rows; its scales follow the logical shape (R205). -/
def readSide (s : State) (o : Op) (i : Nat) (an : Fin 4) (x : Side) (ks : List (Nat × Nat)) (l0 n : Nat) : State :=
  let m := if x.rq then x.master else x.mat
  let v := { o.via with hint := mdHint m.md }
  let feed (s : State) (a n : Nat) : State := s.feedRange o i an v a n
  let (zr, zc, zh, zw) := x.region l0 n 0 o.gemmK
  let s := if x.zmap then readZmap feed s m zr zc zh zw else s
  ks.foldl (fun s (k0, kn) =>
    let (r0, c0, h, w) := x.region l0 n k0 kn
    if w = 0 then s
    else if x.sparse then
      let s := (span (r0 / 2) (ceilDiv h 2)).foldl (readElems feed m c0 w) s
      let s := (span r0 h).foldl (readScales feed m c0 w) s
      (span (r0 / sparseGroup m.md) (ceilDiv h (sparseGroup m.md))).foldl (fun s g =>
        s.readRange o.via (bits (dP o.desc 1) 47 0 + g * bits (dP o.desc 2) 31 0 + c0 / 2) ((c0 + w - 1) / 2 + 1 - c0 / 2)) s
    else readRegionBy feed s m r0 c0 h w) s

/-- The reserved metadata codes that a tile's lanes of B meet among the K positions that the feeders fetch (R69, R206). -/
def badMeta (s : State) (o : Op) (ks : List (Nat × Nat)) (c0 w : Nat) : Nat :=
  let x := o.sideB
  if !x.sparse then 0
  else
    let n := sparseGroup x.mat.md
    (ks.map fun (k0, kn) =>
      let (g0, gs, j0, js) := if x.turned then (c0 / n, ceilDiv (c0 + w) n - c0 / n, k0, kn)
        else (k0 / n, ceilDiv (k0 + kn) n - k0 / n, c0, w)
      ((span g0 gs).map fun g => ((span j0 js).filter fun j => (keptOf (s.metaCode o.desc g j)).isNone).length).sum).sum

/-- The chunks of a product (R102): groups of four under heritage rules (R119). -/
def productCuts (o : Op) : List (Nat × Nat) := chunkRanges o.gemmK (if dHeritage o.desc then 4 else chunkLen o)

/-- The chunks that a tile skips (R67); none under heritage rules. -/
def tileSkips (s : State) (o : Op) (t : Tile) : List Bool := s.skipList o t.r0 t.c0 t.h t.w (chunkLen o)

/-- The runs of K positions that the feeders fetch for a tile (R69). -/
def tileFetches (s : State) (o : Op) (t : Tile) : List (Nat × Nat) :=
  if mdNarrow o.sideA.mat.md then fetched (chunkRanges o.gemmK (chunkLen o)) (s.tileSkips o t) else [(0, o.gemmK)]

/-- What a tile of the GEMM family computes: its final accumulators row by row, its counts, its poison, and its K steps.
Under heritage rules a K step takes 16 cycles (R43), and S of the hold 512 - S, like the cycles in which the array
advances, is counted in cycles: DESIGN CHOICE, the spec counts S in K steps only for the normal rate (log entry 70). -/
def gemmRun (s : State) (o : Op) (t : Tile) (live : List Nat) (faults : List CellFault) : TileRun :=
  let d := o.desc
  let k := o.gemmK
  let a := o.sideA
  let b := o.sideB
  let cuts := productCuts o
  let skip := s.tileSkips o t
  let la := (span t.r0 t.h).map fun i => (s.lanePE d a k i).1.map (·.1)
  let lb := (span t.c0 t.w).map fun j => (s.lanePE d b k j).1.map (·.1)
  let g : CellCfg := ⟨mdFormat a.mat.md, mdFormat b.mat.md, a.mat.lt + b.mat.lt, mdNarrow a.mat.md, dHeritage d, cuts, skip⟩
  let acc := dOpcode d == 4
  let x := workTile g live faults k la lb fun i j => if acc then s.startValue o (t.r0 + i) (t.c0 + j) else (0, 0)
  let pps := stepPositions a.mat.md b.mat.md (sparseMode o)
  let ks := s.tileFetches o t
  let steps := if !mdNarrow a.mat.md then k
    else (((chunkRanges k (chunkLen o)).zipIdx).map fun (r, i) => if skip.getD i false then 0 else ceilDiv r.2 pps).sum
  { tile := t, acc := x.acc, ovf := x.ovf, excl := x.excl, find := x.find
    skipped := (skip.filter id).length
    poison := s.sidePoison o a (a.fetches k ks) t.r0 t.h || s.sidePoison o b (b.fetches k ks) t.c0 t.w ||
      (acc && s.regionPoison (o.mat 2) t.r0 t.c0 t.h t.w)
    steps := steps * (if dHeritage d then 16 else 1)
    holds := 512 - steps * (if dHeritage d then 16 else 1) }

/-- What the Tongs report of the blocks they re-quantise for a tile, over the K positions fetched (R69, R165). -/
def tongsReport (s : State) (o : Op) (x : Side) (a : Fin 4) (ks : List (Nat × Nat)) (l0 n : Nat) : State :=
  if !x.rq then s
  else
    let inRuns (i : Nat) : Bool := ks.any fun r => decide (r.1 ≤ i) && decide (i < r.1 + r.2)
    let ls := (span l0 n).map fun l => s.lanePE o.desc x o.gemmK l
    let notes := ls.flatMap fun l => ((l.1.zipIdx).filter fun y => inRuns y.2).map (·.1.2)
    let scales := ls.flatMap fun l => ((l.2.zipIdx).filter fun y => inRuns (y.2 * mdLen x.mat.md)).map (·.1)
    (s.sageReport o.slot (mdFmt x.mat.md + 5) notes scales).inc Reg.ANV_TONGS_RQ_BLOCKS_COUNT a scales.length

/-- What the start of a tile of the GEMM family does beside its arithmetic: reads, Tongs counters and the report of a
reserved metadata code (R165, R170, R206). -/
def gemmFeed (s : State) (o : Op) (t : Tile) (a : Fin 4) : State :=
  let x := o.sideA
  let y := o.sideB
  let s := if x.turned || y.turned then s.inc Reg.ANV_TONGS_TILES_COUNT a 1 else s
  let s := if y.sparse && y.turned then s.inc Reg.ANV_TONGS_EXPAND_COUNT a 1 else s
  let ks := s.tileFetches o t
  let s := (s.tongsReport o x a (x.fetches o.gemmK ks) t.r0 t.h).tongsReport o y a (y.fetches o.gemmK ks) t.c0 t.w
  let n := s.badMeta o ks t.c0 t.w
  let s := s.inc Reg.ANV_META_BAD_COUNT a n
  let s := if n ≠ 0 && !bit o.seen 0 then (s.modOp o.id fun o => { o with seen := o.seen ||| 1 }).raise 0x0204 o.ring (some o.slot) (dSeq o.desc) else s
  let s := if dOpcode o.desc = 4 then s.readRegion o.via { o.mat 2 with md := putBits (o.mat 2).md 78 77 0 } t.r0 t.c0 t.h t.w else s
  (s.readSide o 0 a x (x.fetches o.gemmK ks) t.r0 t.h).readSide o 1 a y (y.fetches o.gemmK ks) t.c0 t.w

end State

end Sys2Proof.Machine
end

