-- ==== Sys2Proof/Machine/Kv.lean ====
section
/-!
DEFINITION. Key-value pools (spec/08 R228 to R241): the free ring and counts, page layout, the append unit with its waits,
page-output words of the GEMM family (R232), and KV_FREE.
-/
namespace Sys2Proof.Machine

open State

namespace State

/-! The free ring and the counts (R228). -/

/-- How the append unit of a pool accesses memory. -/
def kvVia (s : State) (p : Fin 16) : Via := ⟨0, some (Fin.ofNat 8 (s.rd Reg.MEM_KV_CFG_SLOT p)), true, 0⟩

/-- A pool changed. -/
def modPool (s : State) (p : Fin 16) (f : Pool → Pool) : State := { s with pools := s.pools.set p (f s.pools[p]) }

/-- The address of the free ring's entry i places behind its head. -/
def freeEntry (s : State) (p : Fin 16) (i : Nat) : Nat := s.poolBase p + 4 * ((s.pools[p].head + i) % s.poolRS p)

/-- The address of frame f's count. -/
def countAddr (s : State) (p : Fin 16) (f : Nat) : Nat := s.poolBase p + 4 * s.poolRS p + 2 * f

/-- The address of frame f. -/
def frameAddr (s : State) (p : Fin 16) (f : Nat) : Nat := s.poolBase p + s.poolFrames0 p + s.poolFB p * f

/-- Frame f's count. -/
def countOf (s : State) (p : Fin 16) (f : Nat) : Nat := s.peek (s.countAddr p f) 2

/-- Frame f's count set by an indivisible change (R175, R233). -/
def setCount (s : State) (p : Fin 16) (f n : Nat) : State := s.update (s.kvVia p) (s.countAddr p f) (toBytes 2 n)

/-- A frame taken from the head of the free ring, which is not empty. -/
def takeFrame (s : State) (p : Fin 16) : State × Nat :=
  let f := s.peek (s.freeEntry p 0) 4 % 2 ^ 24
  let s := s.readRange (s.kvVia p) (s.freeEntry p 0) 4
  ((s.modPool p fun x => { x with head := x.head + 1 }).wr Reg.MEM_KV_STATUS_FREE p (s.rd Reg.MEM_KV_STATUS_FREE p - 1), f)

/-- A frame returned to the tail of the free ring. -/
def giveFrame (s : State) (p : Fin 16) (f : Nat) : State :=
  let n := s.rd Reg.MEM_KV_STATUS_FREE p
  (s.store (s.kvVia p) (s.freeEntry p n) (toBytes 4 f)).wr Reg.MEM_KV_STATUS_FREE p (n + 1)

/-- The limbo list replaced, with the count that shows it (R238). -/
def setLimbo (s : State) (p : Fin 16) (l : List Nat) : State :=
  (s.modPool p fun x => { x with limbo := l }).wr Reg.MEM_KV_LIMBO_LIMBO p l.length

/-- The element format of a pool's pages (R229). -/
def pageFmt (s : State) (p : Nat) : Nat := if s.rd Reg.MEM_KV_CFG_FMT p = 0 then 3 else 7

/-- The format fields of pool elements as a matrix descriptor has them: narrow, HS8, blocks of 32 (R229). -/
def pageMd (s : State) (p : Nat) : Nat := s.pageFmt p * 2 ^ 64 + 2 * 2 ^ 68 + 2 ^ 70

/-- The element width of a pool's pages in bits. -/
def pageW (s : State) (p : Nat) : Nat := if s.rd Reg.MEM_KV_CFG_FMT p = 0 then 8 else 4

/-- The address of the scale code of K's block β of slot τ of frame f (R229). -/
def kScaleAddr (s : State) (p : Fin 16) (f t b : Nat) : Nat := s.frameAddr p f + t * (s.poolD p / 32) + b

/-- The address of the scale code of V's dimension d of the slot group of τ (R229). -/
def vScaleAddr (s : State) (p : Fin 16) (f t d : Nat) : Nat := s.frameAddr p f + 2048 + t / 32 * s.poolD p + d

/-- The bit address of dimension d of slot τ in the K area or the V area (R229). -/
def kvBit (s : State) (p : Fin 16) (f : Nat) (isV : Bool) (t d : Nat) : Nat :=
  let area := if isV then 256 * s.poolD p * s.pageW p / 8 else 0
  8 * (s.frameAddr p f + 4096 + area) + (t * s.poolD p + d) * s.pageW p

/-! The append unit (R233 to R236). -/

/-- An event of a macro-op raised the first time only: `n` numbers what it has raised. -/
def onceOf (s : State) (o : Op) (n : Nat) (f : State → State) : State :=
  if bit o.seen n then s else f (s.modOp o.id fun x => { x with seen := x.seen ||| 2 ^ n })

/-- Tiles and appended entries still due of a macro-op. -/
def tilesMore (s : State) (id n : Nat) : State := s.modOp id fun o =>
  match o.work with
  | .tiles k => { o with work := .tiles (k + n) }
  | _ => o

/-- One tile or appended entry of a macro-op is done. -/
def tileDone (s : State) (id : Nat) : State := s.modOp id fun o =>
  match o.work with
  | .tiles k => { o with work := .tiles (k - 1) }
  | _ => o

/-- Where a row of C goes: its sequence-list index, token, record address and capacity in tokens; none where it is
discarded under R232. -/
structure Target where
  sidx : Nat
  tau  : Nat
  recA : Nat
  deriving DecidableEq, Repr

/-- The target of row i of a page-output macro-op (R232). -/
def targetOf (s : State) (d row : Nat) : Option Target :=
  let t := s.peek (bits (dP d 3) 47 0 + 8 * row) 8
  let sidx := bits t 15 0
  let tau := bits t 47 16
  let recA := bits (s.peek (bits (dP d 4) 47 0 + 8 * sidx) 8) 47 0
  let tbl := bits (dP d 5) 47 0
  let cap := bits (s.peek recA 64) 142 128
  if bits (dP d 6) 47 32 ≤ sidx || recA % 64 ≠ 0 || recA < tbl || tbl + bits (dP d 6) 31 0 < recA + 64 + 8 * cap * bits (dP d 7) 15 8 ||
      cap * 256 ≤ tau then none
  else some ⟨sidx, tau, recA⟩

/-- What the append unit reads to find the target of row i: its token, and where the token names one, its sequence-list
entry and the record's header (R232, R233). -/
def targetReads (s : State) (d row : Nat) : List (Nat × Nat) :=
  let tok := (bits (dP d 3) 47 0 + 8 * row, 8)
  let sidx := s.peek tok.1 2
  let seq := (bits (dP d 4) 47 0 + 8 * sidx, 8)
  let recA := bits (s.peek seq.1 8) 47 0
  let tbl := bits (dP d 5) 47 0
  if bits (dP d 6) 47 32 ≤ sidx then [tok]
  else if recA % 64 ≠ 0 || recA < tbl || tbl + bits (dP d 6) 31 0 < recA + 64 then [tok, seq]
  else [tok, seq, (recA, 64)]

/-- The page-table entry's address for a target and head (R230). -/
def pteAddr (d : Nat) (t : Target) (head : Nat) : Nat := t.recA + 64 + 8 * (t.tau / 256 * bits (dP d 7) 15 8 + head)

/-- A page-table entry pointed at a frame, and GEN of its record raised by one: aligned 8-byte writes (R230, R233). -/
def setEntry (s : State) (v : Via) (e recA f : Nat) : State :=
  let s := s.store v e (toBytes 8 (f + 2 ^ 24))
  s.store v recA (toBytes 8 (s.peek recA 8 + 1))

/-- A token's K values of whole head-axis blocks written into slot τ of frame f (R234). -/
def writeK (s : State) (p : Fin 16) (slot : Fin 8) (f t d0 : Nat) (vals : List Nat) : State :=
  let md := s.pageMd p
  let w := s.pageW p
  (List.range (ceilDiv vals.length 32)).foldl (fun s b =>
    let vs := ((vals.drop (32 * b)).take 32).map fun c => (f32 c).scaled 0
    let sc := blockScale md 0 false vs
    let cs := vs.map fun v => convElem md 0 false .nearest sc v
    let s := s.storeBits (s.kvVia p) (s.kvBit p f false t (d0 + 32 * b)) (w * cs.length) (packCodes w (cs.map (·.1)))
    (s.store (s.kvVia p) (s.kScaleAddr p f t (d0 / 32 + b)) (toBytes 1 sc)).sageReport slot (s.pageFmt p) (cs.map (·.2)) [sc]) s

/-- The lower slots of a V block re-encoded in n dimensions from d0 for the codes that have risen, `old` to `new`; Sage is
not told of them: DESIGN CHOICE, R101 does not name them (R234, log entry 175). -/
def reencode (s : State) (p : Fin 16) (f t d0 : Nat) (old new : List Nat) : State :=
  let md := s.pageMd p
  let w := s.pageW p
  let v := s.kvVia p
  let n := new.length
  if old = new then s
  else (span (t / 32 * 32) (t % 32)).foldl (fun s u =>
    let ba := s.kvBit p f true u d0
    let was := (List.range n).map fun i => s.peekBits (ba + w * i) w
    let now := (was.zip (old.zip new)).map fun (c, a, b) => if a = b then c else (convElem md 0 false .nearest b (elemVal md 0 c a)).1
    let s := s.readRange v (ba / 8) ((ba % 8 + w * n + 7) / 8)
    s.storeBits v ba (w * n) (packCodes w now)) s

/-- The codes that V's block of slot τ has in some dimensions, and those it takes for a token's values (R234). -/
def valueCodes (s : State) (p : Fin 16) (f t d0 : Nat) (vals : List Nat) : List Nat × List Nat :=
  let own := vals.map fun c => blockScale (s.pageMd p) 0 false [(f32 c).scaled 0]
  if t % 32 = 0 then (own, own)
  else
    let old := (List.range vals.length).map fun i => (s.byte (s.vScaleAddr p f t (d0 + i))).toNat
    (old, List.zipWith max old own)

/-- A token's V values written into slot τ of frame f, block codes rising where they must (R234). Sage is told of each
element's block code as of one block: DESIGN CHOICE, R101 does not say when V's blocks count (log entry 175). -/
def writeV (s : State) (p : Fin 16) (slot : Fin 8) (f t d0 : Nat) (vals : List Nat) : State :=
  let md := s.pageMd p
  let w := s.pageW p
  let v := s.kvVia p
  let (old, new) := s.valueCodes p f t d0 vals
  let s := if t % 32 = 0 then s else (s.readRange v (s.vScaleAddr p f t d0) vals.length).reencode p f t d0 old new
  let cs := List.zipWith (fun c sc => convElem md 0 false .nearest sc ((f32 c).scaled 0)) vals new
  let s := s.storeBits v (s.kvBit p f true t d0) (w * cs.length) (packCodes w (cs.map (·.1)))
  (s.store v (s.vScaleAddr p f t d0) (new.map (BitVec.ofNat 8))).sageReport slot (s.pageFmt p) (cs.map (·.2)) new

/-- Whether what a V token is written beside carries the marker: its block's codes, and where they rise the lower slots
(R234, R302). -/
def blockPoison (s : State) (p : Fin 16) (f t d0 : Nat) (vals : List Nat) : Bool :=
  let (old, new) := s.valueCodes p f t d0 vals
  t % 32 != 0 && (s.poisoned (s.vScaleAddr p f t d0) vals.length || (old != new && (span (t / 32 * 32) (t % 32)).any fun u =>
    s.poisoned (s.kvBit p f true u d0 / 8) (ceilDiv (s.pageW p * vals.length) 8)))

/-- The first column of C that a piece at the append unit comes from (R232). -/
def appCol (s : State) (d : Nat) (a : App) : Nat :=
  ((if a.isV && bits (dP d 7) 5 4 == 2 then bits (dP d 7) 15 8 else 0) + a.head) * s.poolD (bits (dP d 7) 3 0) + a.d0

/-- How many of n positions from c lie within k from b. -/
def overlap (c n b k : Nat) : Nat := min (c + n) (b + k) - max c b

/-- The rows whose tokens a piece of V must follow: lower slots of its block, and lower rows of its slot (R234). -/
def lowerRows (s : State) (o : Op) (a : App) : List Nat :=
  match s.targetOf o.desc a.row with
  | none => []
  | some t => if !a.isV then [] else (List.range (o.mat 2).rows).filter fun i => match s.targetOf o.desc i with
    | some u => u.recA == t.recA && u.tau / 32 == t.tau / 32 && (decide (u.tau < t.tau) || (u.tau == t.tau && decide (i < a.row)))
    | none => false

/-- How many of a piece's columns the append unit is done with in another row, and how many wait in its queue. -/
def doneCols (s : State) (o : Op) (a : App) (row : Nat) : Nat :=
  ((o.prog.filter (·.1 == row)).map fun x => overlap (s.appCol o.desc a) a.vals.length x.2.1 x.2.2.1).sum
def waitCols (s : State) (p : Fin 16) (o : Op) (a : App) (row : Nat) : Nat :=
  ((s.pools[p].queue.filter fun x => x.op == a.op && x.row == row).map fun x =>
    overlap (s.appCol o.desc a) a.vals.length (s.appCol o.desc x) x.vals.length).sum

/-- Whether the append unit may take a piece: the tokens of one block of V in one macro-op are applied in ascending slot
order, those that other tiles bring too (R233, R234); a macro-op that no Anvil serves brings no more. -/
def mayAppend (s : State) (p : Fin 16) (a : App) : Bool := match s.opOf a.op with
  | none => true
  | some o => (s.lowerRows o a).all fun i =>
    s.doneCols o a i == a.vals.length || (o.serving == [] && s.waitCols p o a i == 0)

/-- Whether a piece waits for a lower slot that is yet to drain (R234). -/
def appWaits (s : State) (p : Fin 16) (a : App) : Bool := match s.opOf a.op with
  | none => false
  | some o => o.serving != [] && (s.lowerRows o a).any fun i => decide (s.doneCols o a i + s.waitCols p o a i < a.vals.length)

/-- A tile's values leave the drain hold buffer once the append unit has taken the last of them (R54, R236). It keeps those
that wait for a lower slot of a tile yet to drain, which so never waits for the hold buffer: DESIGN CHOICE, the spec does
not say where they wait (log entry 176). -/
def leaveHold (s : State) (p : Fin 16) (op : Nat) : State :=
  let keep (y : Nat × Nat × Nat) : Bool := y.1 != op || s.pools[p].queue.any fun a => a.op == op && a.tile == y.2 && !s.appWaits p a
  { s with anv := s.anv.map fun x => { x with leaving := x.leaving.filter keep } }

/-- An entry leaves the append unit's queue, written or not. -/
def popApp (s : State) (p : Fin 16) (a : App) (written : Bool) : State :=
  let s := (s.modPool p fun x => { x with queue := x.queue.erase a, stalled := false }).tileDone a.op
  let s := s.modOp a.op fun o => { o with prog := o.prog ++ [(a.row, s.appCol o.desc a, a.vals.length, written)] }
  s.leaveHold p a.op

/-- The entry that the append unit takes next: the oldest that it may take. -/
def nextApp (s : State) (p : Fin 16) : Option App := s.pools[p].queue.find? (s.mayAppend p)

/-- A row piece discarded under R232: BADPTE, and the macro-op's first raises EV_KV_BADPTE. -/
def discardRow (s : State) (p : Fin 16) (o : Op) : State :=
  (s.wrB Reg.MEM_KV_STATUS_BADPTE p true).onceOf o 1 fun s => s.raise 0x0405 p (some o.slot) (dSeq o.desc)

/-- After the last piece of a row is written LEN is raised (R235). -/
def rowWritten (s : State) (p : Fin 16) (id row : Nat) (t : Target) : State :=
  match s.opOf id with
  | none => s
  | some o =>
    let n := ((o.prog.filter fun x => x.1 == row && x.2.2.2).map (·.2.2.1)).sum
    if n < (o.mat 2).cols then s
    else s.update (s.kvVia p) (t.recA + 8) (toBytes 4 (max (s.peek (t.recA + 8) 4) (t.tau + 1)))

/-- The write of an append into frame f (R234), its lines with the marker where it is made from poisoned data (R302). -/
def writeToken (s : State) (p : Fin 16) (o : Op) (a : App) (t : Target) (f : Nat) : State :=
  let slot := t.tau % 256
  let mixed := a.isV && s.blockPoison p f slot a.d0 a.vals
  let s := if mixed then s.opFlag o.id 1 else s
  let s := if a.isV then s.writeV p o.slot f slot a.d0 a.vals else s.writeK p o.slot f slot a.d0 a.vals
  let s := if a.poison || mixed then
      (s.poisonRange (s.kvBit p f a.isV slot a.d0 / 8) (ceilDiv (s.pageW p * a.vals.length) 8)).poisonRange
        (if a.isV then s.vScaleAddr p f slot a.d0 else s.kScaleAddr p f slot (a.d0 / 32))
        (if a.isV then a.vals.length else ceilDiv a.vals.length 32)
    else s
  (s.popApp p a true).rowWritten p o.id a.row t

/-- A frame copied to another, markers with it (R233, R302). -/
def copyFrame (s : State) (p : Fin 16) (o : Op) (f g : Nat) : State :=
  let v := s.kvVia p
  let n := s.poolFB p
  let bad := (List.range (n / 64)).filter fun i => s.poisoned (s.frameAddr p f + 64 * i) 64
  let t := (s.readRange v (s.frameAddr p f) n).store v (s.frameAddr p g) (s.bytesAt (s.frameAddr p f) n)
  if bad = [] then t else bad.foldl (fun t i => t.poisonRange (s.frameAddr p g + 64 * i) 64) (t.opFlag o.id 1)

/-- The append unit needs a frame and finds none (R236). -/
def starve (s : State) (p : Fin 16) (o : Op) : State :=
  let s := (s.wrB Reg.MEM_KV_STATUS_EXHAUSTED p true).opFlag o.id 6
  let s := if s.pools[p].starved.contains o.id then s
    else (s.modPool p fun x => { x with starved := x.starved ++ [o.id] }).raise 0x0406 p (some o.slot) (dSeq o.desc)
  s.modPool p fun x => { x with stalled := true }

/-- A row and every later row of its sequence in its macro-op are discarded (R236). -/
def dropRow (s : State) (p : Fin 16) (a : App) (sidx : Nat) : State :=
  (s.modPool p fun x => { x with dropped := x.dropped ++ [(a.op, sidx, a.row)] }).popApp p a false

/-- The append unit handles its next entry (R233). -/
def append (s : State) (p : Fin 16) : State :=
  match s.nextApp p with
  | none => s
  | some a =>
    match s.opOf a.op with
    | none => s.popApp p a false
    | some o =>
      let d := o.desc
      let v := s.kvVia p
      let reads := s.targetReads d a.row
      let bad := reads.any fun x => s.poisoned x.1 x.2
      let s := reads.foldl (fun s x => s.readRange v x.1 x.2) s
      let s := if bad then s.opFlag o.id 1 else s
      match s.targetOf d a.row with
      | none => (s.discardRow p o).popApp p a false
      | some t =>
        let e := pteAddr d t a.head
        let pte := s.peek e 8
        let s := s.readRange v e 8
        let s := if s.poisoned e 8 then s.opFlag o.id 1 else s
        let f := bits pte 23 0
        let s := if a.poison then s.opFlag o.id 1 else s
        let free := s.rd Reg.MEM_KV_STATUS_FREE p
        if s.pools[p].dropped.any (fun x => x.1 == a.op && x.2.1 == t.sidx && decide (x.2.2 ≤ a.row)) then s.popApp p a false
        else if !bit pte 24 then
          if free = 0 then
            let s := s.starve p o
            if s.rd Reg.MEM_KV_CTRL_STALL_LIMIT p = 0 then s.dropRow p a t.sidx else s
          else
            let (s, f') := s.takeFrame p
            (((s.setCount p f' 1).setEntry v e t.recA f').writeToken p o a t f').inc Reg.MEM_KV_ALLOC_COUNT p 1
        else if s.rd Reg.MEM_KV_CFG_NFRAMES p ≤ f then (s.discardRow p o).popApp p a false
        else if 1 < s.countOf p f then
          let s := s.readRange v (s.countAddr p f) 2
          if free = 0 then
            let s := s.starve p o
            if s.rd Reg.MEM_KV_CTRL_STALL_LIMIT p = 0 then s.dropRow p a t.sidx else s
          else
            let (s, f') := s.takeFrame p
            let s := ((s.copyFrame p o f f').setCount p f' 1).setEntry v e t.recA f'
            let c := s.countOf p f - 1
            let s := s.setCount p f c
            let s := if c = 0 then s.setLimbo p (s.pools[p].limbo ++ [f]) else s
            (s.writeToken p o a t f').inc Reg.MEM_KV_COW_COUNT p 1
        else (s.readRange v (s.countAddr p f) 2).writeToken p o a t f

/-- KV_APPEND: the unit takes its next entry, unless it waits for a frame. -/
def kvAppend (s : State) (p : Fin 16) : State := if !s.memUp || s.pools[p].stalled then s else s.append p

/-- A frame came within STALL_LIMIT: the waiting append walks again (R236). -/
def kvResume (s : State) (p : Fin 16) (cycles : Nat) : State :=
  if !s.memUp || !s.pools[p].stalled || s.rd Reg.MEM_KV_STATUS_FREE p = 0 then s
  else ((s.inc Reg.MEM_KV_STALL_CYC_COUNT p cycles).modPool p fun x => { x with stalled := false }).append p

/-- STALL_LIMIT passed without a frame (R236). -/
def kvExpire (s : State) (p : Fin 16) (cycles : Nat) : State :=
  match s.nextApp p with
  | none => s
  | some a =>
    if !s.memUp || !s.pools[p].stalled then s
    else
      let s := s.inc Reg.MEM_KV_STALL_CYC_COUNT p cycles
      match (s.opOf a.op).bind fun o => s.targetOf o.desc a.row with
      | some t => s.dropRow p a t.sidx
      | none => s.popApp p a false

/-! Page output (R232). -/

/-- Whether a pool may be named by a ring's macro-op: it is READY and of the ring's slot (R231). -/
def poolOk (s : State) (r : RingId) (p : Nat) : Bool :=
  s.rdB Reg.MEM_KV_STATUS_READY p && s.rd Reg.MEM_KV_CFG_SLOT p == (ringSlot r).val

/-- What step 1 finds of the page-output words; heritage mode, which has no HS8 scales, writes no pages (R119). -/
def pageChecks (s : State) (r : RingId) (d : Nat) : List (Bool × Nat) :=
  [(dOpcode d == 4 || dHeritage d, 8),
   ((List.range 4).any (fun i => bits (dP d (3 + i)) 63 48 != 0), 3), (bits (dP d 6) 47 32 == 0, 3),
   (bits (dP d 7) 5 4 == 3 || bits (dP d 7) 63 16 != 0 || dP d 8 != 0 || bits (dP d 7) 7 6 != 0, 3),
   (!s.poolOk r (bits (dP d 7) 3 0), 3)] ++
  addrChecks (bits (dP d 3) 47 0) 8 true ++ addrChecks (bits (dP d 4) 47 0) 8 true ++ addrChecks (bits (dP d 5) 47 0) 64 true

/-- The columns that C must have in page-output mode (R232). -/
def pageCols (s : State) (d : Nat) : Nat :=
  bits (dP d 7) 15 8 * s.poolD (bits (dP d 7) 3 0) * (if bits (dP d 7) 5 4 = 2 then 2 else 1)

/-- The intervals of a page-output macro-op of m rows (R232). -/
def pageRanges (s : State) (d m : Nat) : List (Nat × Nat) × List (Nat × Nat) :=
  let p := bits (dP d 7) 3 0
  ([(bits (dP d 3) 47 0, 8 * m), (bits (dP d 4) 47 0, 8 * bits (dP d 6) 47 32)].filter (·.2 != 0),
   [(bits (dP d 5) 47 0, bits (dP d 6) 31 0), (s.poolBase p, s.poolBytes p)].filter (·.2 != 0))

/-- The pieces that columns [c0, c0 + w) of one row bring to the append unit: head, K or V, first dimension, length. -/
def pagePieces (s : State) (d c0 w : Nat) : List (Nat × Bool × Nat × Nat) :=
  let hd := s.poolD (bits (dP d 7) 3 0)
  let heads := bits (dP d 7) 15 8
  let kind := bits (dP d 7) 5 4
  ((List.range (if kind = 2 then 2 * heads else heads)).filterMap fun x =>
    let lo := max c0 (x * hd)
    let hi := min (c0 + w) (x * hd + hd)
    if lo < hi then some (x % max heads 1, kind == 1 || decide (heads ≤ x), lo - x * hd, hi - lo) else none)

/-- A tile of a page-output macro-op drains to the append unit, rows ascending and columns ascending, and keeps its slot
of the hold buffer of Anvil a until the unit has taken its values (R54, R233, R236). -/
def pageTile (s : State) (a : Fin 4) (o : Op) (t : Tile) (acc : List (List Nat)) (poison : Bool) : State :=
  let p : Fin 16 := Fin.ofNat 16 (bits (dP o.desc 7) 3 0)
  let hd := s.poolD p
  let kind := bits (dP o.desc 7) 5 4
  let heads := bits (dP o.desc 7) 15 8
  let apps := (acc.zipIdx).flatMap fun (row, i) => (s.pagePieces o.desc t.c0 t.w).map fun (h, isV, d0, n) =>
    let col := ((if isV && kind == 2 then heads else 0) + h) * hd + d0 - t.c0
    (⟨o.id, t.r0 + i, h, isV, d0, (row.drop col).take n, poison, (t.r0, t.c0)⟩ : App)
  let s := (s.modPool p fun x => { x with queue := x.queue ++ apps }).tilesMore o.id apps.length
  if apps = [] then s else
    { s with anv := s.anv.set a { s.anv[a] with leaving := s.anv[a].leaving ++ [(o.id, t.r0, t.c0)] } }.leaveHold p o.id

/-! KV_FREE (R237, R238). -/

/-- The number of a pass of a unit among the walks (R238, R239). -/
def walkKey (op unit pass : Nat) : Nat := (op * 2 ^ 24 + unit) * 2 ^ 24 + pass

/-- The walks of a pool that are under way: the passes of its paged macro-ops (R239). -/
def poolWalks (s : State) (p : Fin 16) : List Nat :=
  (s.ops.filter fun x => bit (dP x.desc 0) 33 && bits (dP x.desc 0) 43 40 == p.val).flatMap fun x =>
    x.units.flatMap fun u => u.passes.map fun w => walkKey x.id u.idx w.num

/-- The plan of a KV_FREE. -/
def kvFreePlan (s : State) (r : RingId) (d : Nat) : Plan :=
  let list := bits (dP d 0) 47 0
  let n := bits (dP d 1) 23 0
  let p : Fin 16 := Fin.ofNat 16 (bits (dP d 1) 27 24)
  let change (x : State × List Nat) (i : Nat) (o : Op) : State × List Nat :=
    let (s, zero) := x
    let e := s.peek (list + 4 * i) 4
    let f := bits e 23 0
    let delta := signed 8 (bits e 31 24)
    let old := s.countOf p f
    let new : Int := (old : Int) + delta
    if s.rd Reg.MEM_KV_CFG_NFRAMES p ≤ f || delta = 0 || new < 0 || 65535 < new || old = 0 then
      ((s.inc Reg.MEM_KV_COUNT_BAD_COUNT p 1).onceOf ((s.opOf o.id).getD o) 2 fun s => s.raise 0x0407 p (some o.slot) (dSeq d), zero)
    else (s.setCount p f new.toNat, if zero.contains f then zero else zero ++ [f])
  let start (s : State) (o : Op) : State :=
    let bad := s.poisoned list (4 * n)
    let s := s.readRange o.via list (4 * n)
    let s := if bad then s.opFlag o.id 1 else s
    let (s, zero) := (List.range n).foldl (fun x i => change x i o) (s, [])
    let back := (zero.filter fun f => s.countOf p f == 0) ++ s.pools[p].limbo
    let walks := s.poolWalks p
    ((s.setLimbo p []).modPool p fun x => { x with frees := x.frees ++ [⟨o.id, back, walks⟩] }).modOp o.id
      fun x => { x with work := .engine 1 }
  .bare ([(bits (dP d 0) 63 48 != 0 || bits (dP d 1) 63 28 != 0, 3), (!s.poolOk r p, 3)] ++ addrChecks list 4 false ++ zeroFrom d 2)
    (fun _ => ([(list, 4 * n)].filter (·.2 != 0), [(s.poolBase p, s.poolBytes p)])) start

/-- The frames of a pool's oldest KV_FREE return to the free ring, once its walks have ended (R238). -/
def freeReturn (s : State) (p : Fin 16) : State :=
  match s.pools[p].frees with
  | [] => s
  | f :: rest =>
    if !s.memUp || f.walks.any (s.poolWalks p).contains then s
    else (f.frames.foldl (fun s x => s.giveFrame p x) (s.modPool p fun x => { x with frees := rest })).opDone f.op

/-! Enabling and disabling (R231). -/

/-- The pool that an in-flight macro-op names, if it names one. -/
def poolNamed (o : Op) : Option Nat :=
  let c := dOpcode o.desc
  if c = 0x48 then some (bits (dP o.desc 1) 27 24)
  else if c ≤ 3 && pageOut o.desc then some (bits (dP o.desc 7) 3 0)
  else if (c == 0x10 || c == 0x12) && bit (dP o.desc 0) 33 then some (bits (dP o.desc 0) 43 40)
  else none

/-- The write of MEM_KV_CTRL (R231). -/
def poolWrite (s : State) (p : Fin 16) (v : Nat) : State × KStat :=
  let limit (s : State) : State := s.wr Reg.MEM_KV_CTRL_STALL_LIMIT p (bits v 31 16)
  let on := s.rdB Reg.MEM_KV_CTRL_EN p
  let n := s.rd Reg.MEM_KV_CFG_NFRAMES p
  if bit v 0 = on then (limit s, .ok)
  else if on then
    match s.ops.find? fun o => poolNamed o == some p.val with
    | some o => (s, .busy 10 o.slot.val)
    | none => (((limit s).wrB Reg.MEM_KV_CTRL_EN p false).wrB Reg.MEM_KV_STATUS_READY p false, .ok)
  else if n = 0 || decide (spaceEnd < s.poolBase p + s.poolBytes p) then (s, .range)
  else match s.poolOver (some p.val) (s.poolBase p) (s.poolBytes p), s.windowOver none (s.poolBase p) (s.poolBytes p) with
    | some q, _ => (s, .busy 4 q)
    | none, some w => (s, .busy 3 w)
    | none, none =>
      let s := (limit s).modPool p fun _ => ⟨[], false, [], 0, [], [], []⟩
      let s := (List.range n).foldl (fun s f => s.setCount p f 0) s
      let s := (List.range n).foldl (fun s f => s.store (s.kvVia p) (s.poolBase p + 4 * f) (toBytes 4 f)) s
      let s := ((s.wr Reg.MEM_KV_STATUS_FREE p n).wr Reg.MEM_KV_LIMBO_LIMBO p 0).wrB Reg.MEM_KV_CTRL_EN p true
      ((s.wrB Reg.MEM_KV_STATUS_READY p true).raise 0x0404 p none 0, .ok)

end State

/-! The meanings of the commands of the key-value pools. -/

/-- KV_POOL_ENABLE: a write of MEM_KV_CTRL with EN = 1 (R231). -/
def execKvPoolEnable (w : Writer) (n : Fin 16) (stallLimit : BitVec 16) (s : State) : Host.Outcome State Fault Refusal :=
  act s (s.regWrite w (0x07900C + 0x40 * n.val) (1 + stallLimit.toNat * 2 ^ 16) fun s => s.poolWrite n (1 + stallLimit.toNat * 2 ^ 16))

/-- KV_POOL_DISABLE: a write of MEM_KV_CTRL with EN = 0 (R231). -/
def execKvPoolDisable (w : Writer) (n : Fin 16) (stallLimit : BitVec 16) (s : State) : Host.Outcome State Fault Refusal :=
  act s (s.regWrite w (0x07900C + 0x40 * n.val) (stallLimit.toNat * 2 ^ 16) fun s => s.poolWrite n (stallLimit.toNat * 2 ^ 16))

/-- KV_FREE (R237). -/
def execKvFree (r : RingId) (s : State) : Host.Outcome State Fault Refusal :=
  act s (s.issue r 0x48 (fun _ => true) State.kvFreePlan)

/-- KV_APPEND (R233). -/
def execKvAppend (p : Fin 16) (s : State) : Host.Outcome State Fault Refusal := act s (s.kvAppend p)

/-- KV_APPEND_RESUME (R236). -/
def execKvAppendResume (p : Fin 16) (cycles : Nat) (s : State) : Host.Outcome State Fault Refusal := act s (s.kvResume p cycles)

/-- KV_STALL_EXPIRE (R236). -/
def execKvStallExpire (p : Fin 16) (cycles : Nat) (s : State) : Host.Outcome State Fault Refusal := act s (s.kvExpire p cycles)

/-- KV_FREE_RETURN (R238). -/
def execKvFreeReturn (p : Fin 16) (s : State) : Host.Outcome State Fault Refusal := act s (s.freeReturn p)

end Sys2Proof.Machine
end

