-- ==== Sys2Proof/Machine/Attention.lean ====
section
/-!
DEFINITION. Attention (spec/08 R208 to R227, R239 to R243): units and the order of their tiles, masks, what each tile forms,
the score unit's row arithmetic, the two passes of the backward macro-op, paged operands and their passes, and what a
finished macro-op writes.
-/
namespace Sys2Proof.Machine

open State

/-! Parameter words (R226). -/

def aScale (d : Nat) : Nat := bits (dP d 0) 31 0
def aCausal (d : Nat) : Bool := bit (dP d 0) 32
def aPaged (d : Nat) : Bool := bit (dP d 0) 33
def aStateIn (d : Nat) : Bool := bit (dP d 0) 34
def aFinal (d : Nat) : Bool := bit (dP d 0) 35
def aSegs (d : Nat) : Bool := bit (dP d 0) 36
def aBmap (d : Nat) : Bool := bit (dP d 0) 37
def aAcc (d : Nat) : Bool := bit (dP d 0) 38
def aPool (d : Nat) : Fin 16 := Fin.ofNat 16 (bits (dP d 0) 43 40)
def aHkv (d : Nat) : Nat := bits (dP d 1) 7 0
def aG (d : Nat) : Nat := bits (dP d 1) 14 8
def aD (d : Nat) : Nat := bits (dP d 1) 24 16
def aWindow (d : Nat) : Nat := bits (dP d 1) 63 32
def aQpos (d : Nat) : Nat := bits (dP d 2) 31 0
def aKpos (d : Nat) : Nat := bits (dP d 2) 63 32
def aLse (d : Nat) : Nat := bits (dP d 3) 47 0
def aSeg (d : Nat) : Nat := bits (dP d 4) 47 0
def aTbl (d : Nat) : Nat := bits (dP d 5) 47 0
def aState (d : Nat) : Nat := bits (dP d 6) 47 0
def aXmd (d : Nat) : Nat := bits (dP d 7) 47 0
def aTblBytes (d : Nat) : Nat := bits (dP d 8) 31 0
def aNseq (d : Nat) : Nat := bits (dP d 8) 47 32

/-- The query heads HQ = HKV × G (R208). -/
def aHq (d : Nat) : Nat := aHkv d * aG d

/-- The stacks of a group: first head within the group and number of heads (R210). -/
def headStacks (g : Nat) : List (Nat × Nat) :=
  let ns := ceilDiv g 8
  (List.range ns).map fun i =>
    let q := g / ns
    let r := g % ns
    (i * q + min i r, q + b2n (decide (i < r)))

/-- Query rows of one block of a stack of g heads (R210). -/
def blockRows (g : Nat) : Nat := 512 / g

/-- The length of a state record (R221). -/
def stateLen (d : Nat) : Nat := 64 * ceilDiv (8 + 4 * aD d) 64

/-- The query count and the unpaged key count of a macro-op. -/
def Op.tq (o : Op) : Nat := (o.mat 0).rows
def Op.tk (o : Op) : Nat := (o.mat 1).rows

/-- NEG_INF and NaN as FP32 codes. -/
def negInf : Nat := 0xFF800000

/-- The larger of two FP32 codes that hold no NaN. -/
def f32Max (a b : Nat) : Nat := if (f32 a).lt (f32 b) then b else a

/-- Whether an FP32 code is NaN. -/
def f32Nan (c : Nat) : Bool := decide (0x7F800000 < c % 2 ^ 31)

/-- A source value rounded once to FP32. -/
def sToF32 (v : SVal) : Nat := (convWide fp32 .nearest false v).1

/-! The score unit (R214 to R216). -/

/-- P of a row quantised block by block along the keys (R215): presented elements and decoded values. A masked key, none
here, is presented as a zero factor. -/
def quantP (md : Nat) (ps : List (Option Nat)) : List (PE × Nat) :=
  let one (sc : Nat) (x : Option Nat) : PE × Nat := match x with
    | none => (PE.none, 0)
    | some p =>
      let c := (convElem md 0 false .nearest sc ((f32 p).scaled 0)).1
      (present md c sc, sToF32 (elemVal md 0 c sc))
  if mdNarrow md then
    (List.range (ceilDiv ps.length 32)).flatMap fun b =>
      let xs := (ps.drop (32 * b)).take 32
      xs.map (one (blockScale md 0 false (xs.map fun x => (f32 (x.getD 0)).scaled 0)))
  else ps.map (one 0)

/-- A row of the score unit before its first key block (R214). -/
def URow.fresh (dim : Nat) : URow := ⟨negInf, 0, List.replicate dim 0, false, false⟩

/-- A row whose m, l and o have become the canonical NaN (R214). -/
def URow.lost (dim : Nat) (poison : Bool) : URow :=
  ⟨fp32.nanCode, fp32.nanCode, List.replicate dim fp32.nanCode, true, poison⟩

/-- One key block's scores of a row, masked keys as none (R214): the row, P, and alpha, none where the row skips the
block. A row of NaN presents NaN for its allowed keys, as the procedure's arithmetic gives. -/
def scoreRow (pMd dim : Nat) (st : URow) (z : List (Option Nat)) : URow × List (Option Nat) × Option Nat :=
  let zs := z.map fun x => x.getD negInf
  if st.nan || zs.any fun x => f32Nan x || x == 0x7F800000 then
    (URow.lost dim st.poison, z.map (·.map fun _ => fp32.nanCode), some fp32.nanCode)
  else if zs.all (· == negInf) then (st, z.map fun _ => none, none)
  else
    let mj := zs.foldl f32Max st.m
    let alpha := if (f32 mj).eq (f32 st.m) then 0x3F800000 else f32Exp (f32Sub st.m mj)
    let p := z.map (·.map fun x => if x = negInf then 0 else f32Exp (f32Sub x mj))
    let l := f32Fma st.l alpha (((quantP pMd p).map (·.2)).foldl f32Add 0)
    ({ st with m := mj, l := l }, p, some alpha)

/-- A drained value tile's row added to its row's accumulators (R214). -/
def valueRow (st : URow) (alpha : Option Nat) (pv : List Nat) : URow :=
  match alpha with
  | none => st
  | some x => if st.nan then st else { st with o := List.zipWith (fun o v => f32Fma o x v) st.o pv }

/-- A row's output and log-sum-exp (R216). -/
def rowFinish (dim : Nat) (st : URow) : List Nat × Nat :=
  if f32Nan st.l then (List.replicate dim fp32.nanCode, fp32.nanCode)
  else if st.l % 2 ^ 31 = 0 then (List.replicate dim 0, negInf)
  else (st.o.map fun x => f32Div x st.l, f32Add st.m (f32Ln st.l))

/-- A tile presented in 2-D 32 × 32 blocks, or in the operands' format (R223): `fmt` is 3 for P′ and 4 for dS; a masked
pair is a zero factor. -/
def presentTile (wideFmt fmt : Nat) (narrow : Bool) (x : List (List (Option Nat))) : List (List PE) :=
  let md := if narrow then fmt * 2 ^ 64 + 2 ^ 68 + 5 * 2 ^ 70 else wideFmt * 2 ^ 64
  let w := (x.head?.map (·.length)).getD 0
  let at_ (i j : Nat) : Option Nat := (x.getD i []).getD j none
  let sc (bi bj : Nat) : Nat := if !narrow then 0 else blockScale md 0 false
    ((span (32 * bi) (min 32 (x.length - 32 * bi))).flatMap fun i =>
      (span (32 * bj) (min 32 (w - 32 * bj))).map fun j => (f32 ((at_ i j).getD 0)).scaled 0)
  let table := (List.range (ceilDiv x.length 32)).map fun bi => (List.range (ceilDiv w 32)).map fun bj => sc bi bj
  (x.zipIdx).map fun (row, i) => (row.zipIdx).map fun (y, j) =>
    let k := (table.getD (i / 32) []).getD (j / 32) 0
    match y with
    | none => PE.none
    | some p => present md (convElem md 0 false .nearest k ((f32 p).scaled 0)).1 k

/-- The lists of a matrix of rows exchanged. -/
def turnRows {α : Type} (dflt : α) (w : Nat) (x : List (List α)) : List (List α) :=
  (List.range w).map fun j => x.map fun r => r.getD j dflt

/-- The runs of positions over which neither operand's block changes, the block of each position given by a number (R102):
start and length. -/
def blockRuns (ids : List Nat) : List (Nat × Nat) :=
  ((ids.zipIdx).foldr (fun x (acc : List (Nat × Nat × Nat)) => match acc with
    | y :: rest => if y.1 = x.1 then (x.1, x.2, y.2.2 + 1) :: rest else (x.1, x.2, 1) :: y :: rest
    | [] => [(x.1, x.2, 1)]) []).map (·.2)

/-- The pieces of a tile, by their first columns, joined row by row (R212). -/
def joinPieces (h : Nat) (ps : List (Nat × List (List Nat))) : List (List Nat) :=
  let sorted := ps.foldl (fun acc x => acc.takeWhile (fun y => decide (y.1 ≤ x.1)) ++ x :: acc.dropWhile (fun y => decide (y.1 ≤ x.1))) []
  sorted.foldl (fun rows x => (rows.zip x.2).map fun (a, b) => a ++ b) (List.replicate h [])

/-! Units (R210 to R213, R224, R243). -/

/-- The units of a macro-op in the order they are dealt: key-value head, stack (or key block of a KV unit), query block,
and whether it is a KV unit of ATTN_B. -/
def unitDefs (o : Op) : List (Nat × Nat × Nat × Bool) :=
  let d := o.desc
  let st := headStacks (aG d)
  let heads := List.range (aHkv d)
  let q := heads.flatMap fun h => (st.zipIdx).flatMap fun ((_, g), i) =>
    (List.range (ceilDiv o.tq (blockRows g))).map fun b => (h, i, b, false)
  let kv := heads.flatMap fun h => (List.range (ceilDiv o.tk 512)).map fun j => (h, j, 0, true)
  if dOpcode d = 0x12 then heads.map fun h => (h, 0, 0, false)
  else if dOpcode d = 0x11 then kv ++ q else q

/-- The rows of a stack's query block of a key-value head: query row and query head, stacked rows ascending (R210). -/
def stackRows (o : Op) (head stack qb : Nat) : List (Nat × Nat) :=
  let d := o.desc
  let (f, g) := (headStacks (aG d)).getD stack (0, 1)
  let pb := blockRows g
  (List.range (min pb (o.tq - qb * pb))).flatMap fun i => (List.range g).map fun x => (qb * pb + i, head * aG d + f + x)

/-- The rows of a unit: those of its query block, or every sequence and head of an ATTN_D (R210, R242). -/
def unitRows (o : Op) (u : AttnUnit) : List (Nat × Nat) :=
  if u.kv then []
  else if dOpcode o.desc = 0x12 then
    (List.range o.tq).flatMap fun i => (List.range (aG o.desc)).map fun x => (i, u.head * aG o.desc + x)
  else stackRows o u.head u.stack u.qb

/-- The tiles of a block of a unit in their order (R213, R224). -/
def blockTiles (o : Op) (u : AttnUnit) : List TileKind :=
  if dOpcode o.desc ≠ 0x11 then [.score, .value] else if u.kv then [.score, .dP, .dV, .dK] else [.score, .dP, .dQ]

/-- Whether the score unit has made what a tile of a block is fed with. -/
def fedReady (b : UBlk) : TileKind → Bool
  | .value => b.p.isSome
  | .dV => b.p.isSome
  | .dK => b.ds.isSome
  | .dQ => b.ds.isSome
  | _ => true

/-- The block of which a unit's next tile is cut, none for a new one, and the tile's kind, where one may be cut now: S0,
S1, PV0, S2, PV1 and so on forward (R213); a pair's tiles in the order of R224 backward. -/
def nextCut (o : Op) (u : AttnUnit) : Option (Option Nat × TileKind) :=
  let kinds := blockTiles o u
  let more := u.todo ≠ [] ∨ u.seqs ≠ [] ∨ u.fresh ≠ []
  let open_ := u.blks.filter fun b => decide (b.stage < kinds.length)
  let cont (b : UBlk) : Option (Option Nat × TileKind) :=
    let k := kinds.getD b.stage .score
    if fedReady b k then some (some b.num, k) else none
  if kinds.length = 2 then
    if more ∧ open_.length < 2 then some (none, .score) else (open_.head?).bind cont
  else match open_ with
    | b :: _ => cont b
    | [] => if more then some (none, .score) else none

/-- Whether a unit or a row of it consumed poison. -/
def AttnUnit.marked (u : AttnUnit) : Bool := u.poison || u.rows.any (·.poison)

/-- Whether every tile of a unit has been cut. -/
def unitCut (o : Op) (u : AttnUnit) : Bool :=
  u.todo == [] && u.seqs == [] && u.fresh.isEmpty && u.blks.all fun b => decide ((blockTiles o u).length ≤ b.stage)

namespace State

/-! Masks (R219, R220). -/

/-- The 32-bit segment identifiers of a query row and a key row (R219). -/
def segQ (s : State) (d t : Nat) : Nat := s.peek (aSeg d + 4 * t) 4
def segK (s : State) (d tq u : Nat) : Nat := s.peek (aSeg d + 64 * ceilDiv tq 16 + 4 * u) 4

/-- The bitmap bit of a query row's and a key block's pair (R219). -/
def bmapBit (s : State) (d nkb t j : Nat) : Bool :=
  (s.byte (aTbl d + t / 512 * ceilDiv nkb 8 + j / 8)).toNat.testBit (j % 8)

/-- The 32-bit position of key u (R219). -/
def keyPos (d u : Nat) : Nat := (aKpos d + u) % 2 ^ 32

/-- The keys that a query row may see: the key count, or LEN of its sequence as read at issue (R219, R239). -/
def keyCount (o : Op) (t : Nat) : Nat :=
  if !aPaged o.desc then o.tk else o.lens.getD (if dOpcode o.desc = 0x12 then t else 0) 0

/-- The 32-bit position of query row t (R219). -/
def queryPos (o : Op) (t : Nat) : Nat :=
  if dOpcode o.desc = 0x12 then (keyCount o t + 2 ^ 32 - 1) % 2 ^ 32 else (aQpos o.desc + t) % 2 ^ 32

/-- Whether key u is allowed for query row t (R219). -/
def allowed (s : State) (o : Op) (t u : Nat) : Bool :=
  let d := o.desc
  let nk := keyCount o t
  let q := queryPos o t
  let k := keyPos d u
  decide (u < nk) && (!aCausal d || decide (k ≤ q)) && (aWindow d == 0 || decide (((q : Int) - k) < aWindow d)) &&
    (!aSegs d || s.segQ d t == s.segK d o.tq u) && (!aBmap d || s.bmapBit d (ceilDiv nk 512) t (u / 512))

/-- The least and the greatest of some numbers. -/
def least0 (l : List Nat) : Nat := l.foldl min (l.headD 0)
def most0 (l : List Nat) : Nat := l.foldl max 0

/-- Whether bounds prove that no pair of some query rows and key block j is allowed (R220). -/
def blockSkipped (s : State) (o : Op) (ts : List Nat) (j : Nat) : Bool :=
  let d := o.desc
  let nk := keyCount o (ts.headD 0)
  let us := span (512 * j) (min 512 (nk - 512 * j))
  let ks := us.map (keyPos d)
  let qs := ts.map (queryPos o)
  (aBmap d && ts.all fun t => !s.bmapBit d (ceilDiv nk 512) t j) ||
  (aCausal d && decide (most0 qs < least0 ks)) ||
  (aWindow d != 0 && decide ((aWindow d : Int) ≤ (least0 qs : Int) - most0 ks)) ||
  (aSegs d && (let a := ts.map (s.segQ d); let b := us.map (s.segK d o.tq)
    decide (most0 a < least0 b) || decide (most0 b < least0 a)))

/-- Whether the window proves every pair of sequence i of an ATTN_D and key block b masked (R220). -/
def seqSkipped (o : Op) (b i : Nat) : Bool :=
  aWindow o.desc != 0 && decide ((aWindow o.desc : Int) ≤ (keyCount o i : Int) - 1 - ((min (512 * b + 512) (keyCount o i) : Nat) - 1 : Int))

/-! Operands (R208, R209, R229). -/

/-- Columns [c0, c0 + n) of a row presented. -/
def rowPE (s : State) (m : Mat) (i c0 n : Nat) : List PE := (span c0 n).map fun j => s.elemPE 0 m false i j

/-- The record of sequence-list entry i. -/
def seqRec (s : State) (d i : Nat) : Nat := bits (s.peek (aSeg d + 8 * i) 8) 47 0

/-- The address of a record's entry for page n and a head (R230). -/
def entryAddr (d recA head n : Nat) : Nat := recA + 64 + 8 * (n * aHkv d + head)

/-- The frame of page n for a head of a record; none where the entry is not usable (R240). -/
def pageFrame (s : State) (d recA head n : Nat) : Option Nat :=
  let e := s.peek (entryAddr d recA head n) 8
  if bit e 24 && decide (bits e 23 0 < s.rd Reg.MEM_KV_CFG_NFRAMES (aPool d)) then some (bits e 23 0) else none

/-- The K lane of column x of a block: a key's row, or its slot in the block's frame (R229). -/
def keyLane (s : State) (o : Op) (head : Nat) (b : UBlk) (x : Nat) : List PE :=
  let d := o.desc
  let p := aPool d
  if !aPaged d then s.rowPE (o.mat 1) (512 * b.j + x) (head * aD d) (aD d)
  else match b.frames.getD (x / 256) none with
    | none => List.replicate (aD d) PE.none
    | some f => (List.range (aD d)).map fun i =>
        present (s.pageMd p) (s.peekBits (s.kvBit p f false (x % 256) i) (s.pageW p)) (s.byte (s.kScaleAddr p f (x % 256) (i / 32))).toNat

/-- Dimension i of the V row of column x of a block. -/
def valueElem (s : State) (o : Op) (head : Nat) (b : UBlk) (x i : Nat) : PE :=
  let d := o.desc
  let p := aPool d
  if !aPaged d then s.elemPE 0 (o.mat 2) false (512 * b.j + x) (head * aD d + i)
  else match b.frames.getD (x / 256) none with
    | none => PE.none
    | some f => present (s.pageMd p) (s.peekBits (s.kvBit p f true (x % 256) i) (s.pageW p)) (s.byte (s.vScaleAddr p f (x % 256) i)).toNat

/-- Whether column x of a block is allowed for query row t; the keys of an unusable page are masked (R219, R240). -/
def colAllowed (s : State) (o : Op) (b : UBlk) (t x : Nat) : Bool :=
  s.allowed o t (512 * b.j + x) && (!aPaged o.desc || (b.frames.getD (x / 256) none).isSome)

/-- The descriptors of the K and V operands as products see them, a page's when paged. -/
def keyMd (s : State) (o : Op) : Nat := if aPaged o.desc then s.pageMd (aPool o.desc) else (o.mat 1).md
def valueMd (s : State) (o : Op) : Nat := if aPaged o.desc then s.pageMd (aPool o.desc) else (o.mat 2).md

/-- The descriptor of P's format (R215). -/
def pMd (s : State) (o : Op) : Nat :=
  if mdNarrow (o.mat 0).md then 3 * 2 ^ 64 + 2 ^ 68 + 2 ^ 70 else mdFmt (s.valueMd o) * 2 ^ 64

/-- A row's start: m = −inf and zeros, or its record (R214, R221). -/
def rowStart (s : State) (d t head : Nat) : URow :=
  if aStateIn d then
    let a := aState d + stateLen d * (t * aHq d + head)
    let l := s.peek (a + 4) 4
    ⟨s.peek a 4, l, (List.range (aD d)).map fun x => s.peek (a + 8 + 4 * x) 4, f32Nan l, s.poisoned a (stateLen d)⟩
  else URow.fresh (aD d)

/-! Units in work. -/

/-- A unit of a macro-op changed. -/
def modUnit (s : State) (id idx : Nat) (f : AttnUnit → AttnUnit) : State :=
  s.modOp id fun o => { o with units := modAt f idx o.units }

/-- A block of a unit changed. -/
def modBlk (s : State) (id idx num : Nat) (f : UBlk → UBlk) : State :=
  s.modUnit id idx fun u => { u with blks := u.blks.map fun b => if b.num = num then f b else b }

/-- The groups of sequences of an ATTN_D that share the frames of key block b, in order of their first sequence (R242). -/
def groupOf (s : State) (o : Op) (head b i : Nat) : List (Option Nat) :=
  let r := s.seqRec o.desc i
  s.pageFrame o.desc r head (2 * b) ::
    (if keyCount o i ≤ 512 * b + 256 then [] else [s.pageFrame o.desc r head (2 * b + 1)])

/-- The sequences among some with the frames of the first. -/
def firstGroup (s : State) (o : Op) (head b : Nat) : List Nat → List Nat
  | [] => []
  | i :: is => i :: is.filter fun k => s.groupOf o head b k == s.groupOf o head b i

/-- How many groups some sequences of a key block form. -/
def groupCount (s : State) (o : Op) (head b : Nat) (seqs : List Nat) : Nat := ((seqs.map (s.groupOf o head b)).eraseDups).length

/-- The sequences of an ATTN_D that reach key block b. -/
def liveSeqs (o : Op) (b : Nat) : List Nat := (List.range o.tq).filter fun i => decide (512 * b < keyCount o i)

/-- What a unit has to work, by stack and key block (by stack and query block for a KV unit), with what R220 skips left
out, and how many blocks are skipped. A group of ATTN_D of which every sequence is masked counts as one. -/
def unitTodo (s : State) (o : Op) (head stack qb : Nat) (kv : Bool) : List (Nat × Nat) × Nat :=
  let d := o.desc
  let st := headStacks (aG d)
  if dOpcode d = 0x12 then
    let blocks := ceilDiv (most0 ((List.range o.tq).map (keyCount o))) 512
    let all := (List.range blocks).flatMap fun b => (List.range st.length).map fun i => (i, b)
    let keep := all.filter fun x => (liveSeqs o x.2).any fun i => !seqSkipped o x.2 i
    (keep, ((all.filter (!keep.contains ·)).map fun x => s.groupCount o head x.2 (liveSeqs o x.2)).sum)
  else
    let rowsOf (i b : Nat) : List Nat := ((stackRows o head i b).map (·.1)).eraseDups
    let all := if kv then (st.zipIdx).flatMap fun ((_, g), i) => (List.range (ceilDiv o.tq (blockRows g))).map fun b => (i, b)
      else (List.range (ceilDiv (keyCount o 0) 512)).map fun j => (stack, j)
    let keep := all.filter fun x => if kv then !s.blockSkipped o (rowsOf x.1 x.2) stack else !s.blockSkipped o (rowsOf stack qb) x.2
    (keep, all.length - keep.length)

/-- The units of a macro-op as it issues, each with the blocks it skips. -/
def unitsOf (s : State) (o : Op) : List (AttnUnit × Nat) :=
  ((unitDefs o).zipIdx).map fun ((h, i, b, kv), n) =>
    let (todo, skip) := s.unitTodo o h i b kv
    let u : AttnUnit := ⟨n, h, i, b, kv, false, todo == [], todo, [], [], [], 0, [], [], [], [], false⟩
    (if todo = [] ∧ aStateIn o.desc then { u with rows := (unitRows o u).map fun x => s.rowStart o.desc x.1 x.2 } else u, skip)

/-- The tile that stands for a unit in an Anvil's list. -/
def unitTile (o : Op) (u : AttnUnit) : Tile := ⟨o.id, u.idx, 0, 0, 0, 0, 0, 0, .unit, 0⟩

/-- An entry that a pass meets is not usable: BADPTE, and the event (R240). -/
def badEntry240 (s : State) (o : Op) : State :=
  (s.wrB Reg.MEM_KV_STATUS_BADPTE (aPool o.desc) true).raise 0x0405 (aPool o.desc) (some o.slot) (dSeq o.desc)

/-- A record's header and its entries for some pages of a head read, with the event of each that is not usable. -/
def readEntries (s : State) (o : Op) (head i : Nat) (pages : List Nat) : State :=
  let r := s.seqRec o.desc i
  pages.foldl (fun s n =>
    let bad := (s.pageFrame o.desc r head n).isNone
    let s := s.readRange o.via (entryAddr o.desc r head n) 8
    if bad then s.badEntry240 o else s) (s.readRange o.via r 64)

/-- The pages of key block b within a number of keys. -/
def blockPages (nk b : Nat) : List Nat := [2 * b, 2 * b + 1].filter fun n => decide (256 * n < nk)

/-- A unit's first tile is about to enter: its rows start, and a paged ATTN_F begins its pass with the entries of the key
blocks it works (R221, R239). -/
def unitBegin (s : State) (o : Op) (u : AttnUnit) : State :=
  let d := o.desc
  if u.began then s
  else
    let rows := (unitRows o u).map fun x => s.rowStart d x.1 x.2
    let n := if u.kv then min 512 (o.tk - 512 * u.stack) else 0
    let acc := if dOpcode d ≠ 0x11 then [] else if u.kv then List.replicate n (List.replicate (2 * aD d) 0)
      else rows.map fun _ => List.replicate (aD d) 0
    let walk := aPaged d && dOpcode d == 0x10
    let r := s.seqRec d 0
    let nk := keyCount o 0
    let frames := if walk then (List.range (ceilDiv nk 256)).map fun n => s.pageFrame d r u.head n else []
    let passes := if walk then [(⟨0, [(r, s.peek r 8)], u.todo.length⟩ : UPass)] else []
    let bad := walk && ((u.todo.flatMap fun x => blockPages nk x.2).any fun n => s.poisoned (entryAddr d r u.head n) 8)
    let s := if walk then s.readEntries o u.head 0 (u.todo.flatMap fun x => blockPages nk x.2) else s
    let s := if aStateIn d then (unitRows o u).foldl (fun s x =>
      s.readRange o.via (aState d + stateLen d * (x.1 * aHq d + x.2)) (stateLen d)) s else s
    s.modUnit o.id u.idx fun u => { u with began := true, rows := rows, acc := acc, frames := frames, passes := passes, poison := u.poison || bad }

/-- Blocks that a group of an ATTN_D forms: its sequences' rows of one stack, cut into tiles of up to 512 rows, all of one
pass (R239, R242). -/
def groupBlks (s : State) (o : Op) (u : AttnUnit) (stack b : Nat) (grp : List Nat) : List UBlk × UPass :=
  let d := o.desc
  let (f, g) := (headStacks (aG d)).getD stack (0, 1)
  let rows := grp.flatMap fun i => (List.range g).map fun x => ((i, u.head * aG d + f + x), i * aG d + f + x)
  let n := min 512 (most0 (grp.map (keyCount o)) - 512 * b)
  let parts := (List.range (ceilDiv rows.length 512)).map fun i => (rows.drop (512 * i)).take 512
  let lead := grp.foldl (fun x i => if keyCount o x < keyCount o i then i else x) (grp.headD 0)
  let pass := u.count
  ((parts.zipIdx).map fun (rs, i) => ⟨u.count + i, b, rs.map (·.1), rs.map (·.2), n, s.groupOf o u.head b lead, pass, 0, [], [], none, none, [], false⟩,
   ⟨pass, grp.map fun i => (s.seqRec d i, s.peek (s.seqRec d i) 8), parts.length⟩)

/-- Sequences of an ATTN_D's present key block of which every group is masked leave it, each group counted as skipped; a
block with none left is passed (R220). -/
def dropMasked (s : State) (o : Op) (a : Fin 4) (u : AttnUnit) : State :=
  match u.todo with
  | [] => s
  | (_, b) :: rest =>
    if u.seqs = [] then s
    else if u.seqs.all (seqSkipped o b) then
      (s.inc Reg.ANV_ATTN_SKIP_COUNT a (s.groupCount o u.head b u.seqs)).modUnit o.id u.idx fun u => { u with seqs := [], todo := rest }
    else s

/-- The next group of an ATTN_D with a sequence that is not masked, from those not yet grouped; masked ones ahead of it
are skipped. -/
def nextGroup (s : State) (o : Op) (a : Fin 4) (head b : Nat) : Nat → List Nat → State × List Nat × List Nat
  | 0, seqs => (s, [], seqs)
  | n + 1, seqs =>
    let grp := s.firstGroup o head b seqs
    let rest := seqs.filter (!grp.contains ·)
    if grp = [] then (s, [], [])
    else if grp.all (seqSkipped o b) then nextGroup (s.inc Reg.ANV_ATTN_SKIP_COUNT a 1) o a head b n rest
    else (s, grp, rest)

/-- A unit's next block formed. -/
def formBlk (s : State) (o : Op) (a : Fin 4) (u : AttnUnit) : State :=
  let d := o.desc
  if u.fresh ≠ [] then s
  else match u.todo with
    | [] => s
    | (i, b) :: rest =>
      if dOpcode d = 0x12 then
        let seqs := if u.seqs = [] then liveSeqs o b else u.seqs
        let (s, grp, seqs) := s.nextGroup o a u.head b seqs.length seqs
        let (blks, pass) := s.groupBlks o u i b grp
        let bad := grp.any fun i => (blockPages (keyCount o i) b).any fun n => s.poisoned (entryAddr d (s.seqRec d i) u.head n) 8
        let s := grp.foldl (fun s i => s.readEntries o u.head i (blockPages (keyCount o i) b)) s
        let s := s.modUnit o.id u.idx fun u => { u with
          fresh := blks.map fun x => { x with poison := bad }, count := u.count + blks.length, passes := u.passes ++ [pass]
          seqs := seqs, todo := if seqs = [] then rest else u.todo }
        match (s.opOf o.id).bind fun o => o.units[u.idx]? with
        | some u => s.dropMasked o a u
        | none => s
      else
        let j := if u.kv then u.stack else b
        let rows := if u.kv then stackRows o u.head i b else unitRows o u
        let n := min 512 (keyCount o 0 - 512 * j)
        let frames := if aPaged d then [u.frames.getD (2 * j) none, u.frames.getD (2 * j + 1) none] else []
        let x : UBlk := ⟨u.count, j, rows, List.range rows.length, n, frames, 0, 0, [], [], none, none, [], false⟩
        s.modUnit o.id u.idx fun u => { u with fresh := [x], count := u.count + 1, todo := rest }

/-- The extents of a tile of a block: rows and columns. -/
def tileExtent (o : Op) (b : UBlk) : TileKind → Nat × Nat
  | .value => (b.rows.length, aD o.desc)
  | .dQ => (b.rows.length, aD o.desc)
  | .dV => (b.n, aD o.desc)
  | .dK => (b.n, aD o.desc)
  | _ => (b.rows.length, b.n)

/-- The pieces in which an Anvil of a width works a tile of a block: ceil(512 / W) for a tile of scores and ceil(D / W)
for the others (R212). -/
def cutPieces (o : Op) (u : AttnUnit) (b : UBlk) (k : TileKind) (wc : Nat) : List Tile :=
  let (h, w) := tileExtent o b k
  let full := if k = .score ∨ k = .dP then 512 else aD o.desc
  (List.range (ceilDiv full wc)).map fun i => ⟨o.id, u.idx, 0, wc * i, h, min wc (w - wc * i), 0, 0, k, b.num⟩

/-- The next tile of a unit is cut for an Anvil of a width (R212, R213): its pieces, and whether it is the unit's last. -/
def cutUnit (s : State) (o : Op) (a : Fin 4) (idx wc : Nat) : State × List Tile × Bool :=
  let unitOf (s : State) : Option AttnUnit := (s.opOf o.id).bind fun o => o.units[idx]?
  match unitOf s with
  | none => (s, [], true)
  | some u0 =>
    let s := s.unitBegin o u0
    match (unitOf s).bind fun u => (nextCut o u).map fun x => (u, x) with
    | none => (s, [], false)
    | some (u, which, k) =>
      let s := if which.isNone then s.formBlk o a u else s
      let s := if which.isNone then s.modUnit o.id idx fun u => { u with blks := u.blks ++ u.fresh.take 1, fresh := u.fresh.drop 1 } else s
      match unitOf s with
      | none => (s, [], true)
      | some u =>
        match (match which with | some n => u.blks.find? (·.num == n) | none => u.blks.getLast?) with
        | none => (s, [], unitCut o u)
        | some b =>
          let ps := cutPieces o u b k wc
          let s := s.modBlk o.id idx b.num fun b => { b with stage := b.stage + 1, due := b.due ++ [ps.length], got := b.got ++ [[]] }
          (s, ps, match unitOf s with | some u => unitCut o u | none => true)

/-! What a tile forms (R213 to R224). -/

/-- A format of P′ or dS as fed to the backward products (R223). -/
def fedFmt (narrow : Bool) (f : FFmt) (m : Nat) : FFmt := if narrow then f else mdFormat m

/-- The lanes of a tile's row operand and column operand, its product's configuration, and its K. -/
def pieceLanes (s : State) (o : Op) (u : AttnUnit) (b : UBlk) (t : Tile) : CellCfg × Nat × List (List PE) × List (List PE) :=
  let d := o.desc
  let D := aD d
  let q := o.mat 0
  let narrow := mdNarrow q.md
  let wf := mdFmt q.md
  let lt (i : Nat) : Int := if aPaged d then 0 else (o.mat i).lt
  let rowLanes (m : Mat) : List (List PE) := b.rows.map fun x => s.rowPE m x.1 (x.2 * D) D
  let cols := span t.c0 t.w
  let headBlocks (x y : Nat) : List (Nat × Nat) := chunkRanges D (min (if aPaged d && y = 1 then 32 else mdColExt (o.mat y).md) (mdColExt (o.mat x).md))
  match t.kind with
  | .dP =>
    (⟨mdFormat (o.mat 4).md, mdFormat (o.mat 2).md, (o.mat 4).lt + (o.mat 2).lt, narrow, false, headBlocks 4 2, []⟩, D,
     rowLanes (o.mat 4), cols.map fun x => s.rowPE (o.mat 2) (512 * b.j + x) (u.head * D) D)
  | .value =>
    let ext := min 32 (if aPaged d then 32 else mdRowExt (s.valueMd o))
    (⟨mdFormat (s.pMd o), mdFormat (s.valueMd o), lt 2, narrow, false, chunkRanges b.n ext, []⟩, b.n,
     ((b.p.getD []).map fun r => (quantP (s.pMd o) r).map (·.1)), cols.map fun x => (List.range b.n).map fun k => s.valueElem o u.head b k x)
  | .dQ =>
    (⟨fedFmt narrow e5m2 q.md, mdFormat (o.mat 1).md, (o.mat 1).lt, narrow, false, chunkRanges b.n (min 32 (mdRowExt (o.mat 1).md)), []⟩, b.n,
     presentTile wf 4 narrow (b.ds.getD []), cols.map fun x => (List.range b.n).map fun k => s.elemPE 0 (o.mat 1) false (512 * b.j + k) (u.head * D + x))
  | .dV =>
    let m := o.mat 4
    let ids := (b.rows.zipIdx).map fun ((tt, h), r) => r / 32 + 2 ^ 20 * (tt / mdRowExt m.md * 2 ^ 20 + h)
    (⟨fedFmt narrow e4m3 m.md, mdFormat m.md, m.lt, narrow, false, blockRuns ids, []⟩, b.rows.length,
     turnRows PE.none b.n (presentTile wf 3 narrow (b.p.getD [])), cols.map fun x => b.rows.map fun (tt, h) => s.elemPE 0 m false tt (h * D + x))
  | .dK =>
    let ids := (b.rows.zipIdx).map fun ((tt, h), r) => r / 32 + 2 ^ 20 * (tt / mdRowExt q.md * 2 ^ 20 + h)
    (⟨fedFmt narrow e5m2 q.md, mdFormat q.md, q.lt, narrow, false, blockRuns ids, []⟩, b.rows.length,
     turnRows PE.none b.n (presentTile wf 4 narrow (b.ds.getD [])), cols.map fun x => b.rows.map fun (tt, h) => s.elemPE 0 q false tt (h * D + x))
  | _ =>
    (⟨mdFormat q.md, mdFormat (s.keyMd o), q.lt + lt 1, narrow, false, headBlocks 0 1, []⟩, D,
     rowLanes q, cols.map fun x => s.keyLane o u.head b x)

/-- Whether the rows of some matrix that a block's query rows name carry the marker. -/
def rowsPoison (s : State) (o : Op) (m : Mat) (rows : List (Nat × Nat)) : Bool :=
  rows.any fun x => s.regionPoison m x.1 (x.2 * aD o.desc) 1 (aD o.desc)

/-- Whether the keys of a block carry the marker: K, or V. -/
def keysPoison (s : State) (o : Op) (u : AttnUnit) (b : UBlk) (isV : Bool) : Bool :=
  let d := o.desc
  let p := aPool d
  if !aPaged d then s.regionPoison (o.mat (if isV then 2 else 1)) (512 * b.j) (u.head * aD d) b.n (aD d)
  else (b.frames.zipIdx).any fun (f, i) => match f with
    | none => false
    | some f =>
      let n := min 256 (b.n - 256 * i)
      let a := s.kvBit p f isV 0 0 / 8
      n != 0 && (s.poisoned a (n * aD d * s.pageW p / 8) ||
        if isV then s.poisoned (s.vScaleAddr p f 0 0) (ceilDiv n 32 * aD d) else s.poisoned (s.kScaleAddr p f 0 0) (n * (aD d / 32)))

/-- Whether what a tile of attention is fed with carries the marker. -/
def piecePoison (s : State) (o : Op) (u : AttnUnit) (b : UBlk) (k : TileKind) : Bool :=
  b.poison || match k with
    | .score => s.rowsPoison o (o.mat 0) b.rows || s.keysPoison o u b false
    | .dP => s.rowsPoison o (o.mat 4) b.rows || s.keysPoison o u b true
    | .value => s.keysPoison o u b true
    | .dV => s.rowsPoison o (o.mat 4) b.rows
    | .dK => s.rowsPoison o (o.mat 0) b.rows
    | .dQ => s.keysPoison o u b false
    | _ => false

/-- What a tile of attention computes (R213, R218): checked like any tile, with no zero-block skip. -/
def attnRun (s : State) (o : Op) (t : Tile) (live : List Nat) (faults : List CellFault) : TileRun :=
  match (o.units[t.idx]?).bind fun u => (u.blks.find? (·.num == t.blk)).map fun b => (u, b) with
  | none => ⟨t, [], 0, 0, 0, false, 0, 0, CheckFind.none⟩
  | some (u, b) =>
    let (g, k, la, lb) := s.pieceLanes o u b t
    let x := workTile g live faults k (la.take t.h) lb fun _ _ => (0, 0)
    let pps := if !g.narrow then 1 else if g.fa.width = 4 ∧ g.fb.width = 4 then 4 else 2
    let steps := ceilDiv k pps
    { tile := t, acc := x.acc, ovf := x.ovf, skipped := 0, excl := x.excl, find := x.find
      poison := s.piecePoison o u b t.kind, steps := steps, holds := 512 - steps }

/-- The rows of a block read of a matrix, each query row's heads together. -/
def readRows (s : State) (o : Op) (m : Mat) (rows : List (Nat × Nat)) : State :=
  let h0 := (rows.head?.map (·.2)).getD 0
  let ts := (rows.filter (·.2 == h0)).map (·.1)
  let g := rows.length / max 1 ts.length
  ts.foldl (fun s t => s.readRegion { o.via with hint := mdHint m.md } m t (h0 * aD o.desc) 1 (g * aD o.desc)) s

/-- Keys [x0, x0 + n) of a block read, of K or of V; a group's frames are read once for all its sequences (R242). -/
def readKeys (s : State) (o : Op) (u : AttnUnit) (b : UBlk) (isV : Bool) (x0 n : Nat) : State :=
  let d := o.desc
  let p := aPool d
  let m := o.mat (if isV then 2 else 1)
  if !aPaged d then s.readRegion { o.via with hint := mdHint m.md } m (512 * b.j + x0) (u.head * aD d) n (aD d)
  else (b.frames.zipIdx).foldl (fun s (f, i) =>
    let lo := max x0 (256 * i)
    let hi := min (x0 + n) (256 * i + 256)
    match f with
    | none => s
    | some f =>
      if hi ≤ lo then s
      else
        let t0 := lo - 256 * i
        let c := hi - lo
        let s := s.readRange o.via (s.kvBit p f isV t0 0 / 8) (c * aD d * s.pageW p / 8)
        if isV then s.readRange o.via (s.vScaleAddr p f t0 0) ((ceilDiv (t0 + c) 32 - t0 / 32) * aD d)
        else s.readRange o.via (s.kScaleAddr p f t0 0) (c * (aD d / 32))) s

/-- The accounting of what the feeders read for a tile of attention. -/
def pieceReads (s : State) (o : Op) (t : Tile) : State :=
  match (o.units[t.idx]?).bind fun u => (u.blks.find? (·.num == t.blk)).map fun b => (u, b) with
  | none => s
  | some (u, b) =>
    match t.kind with
    | .score => (s.readRows o (o.mat 0) b.rows).readKeys o u b false t.c0 t.w
    | .dP => (s.readRows o (o.mat 4) b.rows).readKeys o u b true t.c0 t.w
    | .value => s.readKeys o u b true 0 b.n
    | .dV => s.readRows o (o.mat 4) b.rows
    | .dK => s.readRows o (o.mat 0) b.rows
    | .dQ => s.readKeys o u b false 0 b.n
    | _ => s

/-! The score unit at work (R214, R223, R239). -/

/-- A pass ends: GEN of each of its sequences is read again (R239). -/
def passEnds (s : State) (o : Op) (u : AttnUnit) (p : UPass) : State :=
  let s := p.gens.foldl (fun s x => s.readRange o.via x.1 8) s
  let s := if p.gens.any fun x => s.peek x.1 8 != x.2 then (s.inc Reg.MEM_KV_TMOVED_COUNT (aPool o.desc) 1).opFlag o.id 3 else s
  s.modUnit o.id u.idx fun u => { u with passes := u.passes.filter (·.num != p.num) }

/-- A block of a pass is drained. -/
def passDrains (s : State) (o : Op) (u : AttnUnit) (b : UBlk) : State :=
  match u.passes.find? (·.num == b.pass) with
  | none => s
  | some p => if p.left ≤ 1 then s.passEnds o u p else
    s.modUnit o.id u.idx fun u => { u with passes := u.passes.map fun x => if x.num = p.num then { x with left := x.left - 1 } else x }

/-- The masked, scaled scores of a block's joined score tile (R214, R223). -/
def blockScores (s : State) (o : Op) (b : UBlk) : List (List (Option Nat)) :=
  (b.rows.zip (joinPieces b.rows.length (b.got.getD 0 []))).map fun (x, r) =>
    (r.zipIdx).map fun (v, k) => if s.colAllowed o b x.1 k then some (f32Mul v (aScale o.desc)) else none

/-- The state record of a row (R221). -/
def stateBytes (d : Nat) (r : URow) : List Byte := toBytes (stateLen d) (packCodes 32 (r.m :: r.l :: r.o))

/-- The score unit works a forward score tile, whose rows then have P and alpha (R214). -/
def scoreForward (s : State) (o : Op) (a : Fin 4) (u : AttnUnit) (b : UBlk) : State :=
  let dim := aD o.desc
  let kp := b.poison || s.keysPoison o u b false
  let made := ((b.rows.zip b.place).zip (s.blockScores o b)).map fun ((x, i), z) =>
    let st := u.rows.getD i (URow.fresh dim)
    let (r, p, al) := scoreRow (s.pMd o) dim st z
    (i, { r with poison := r.poison || kp || s.rowsPoison o (o.mat 0) [x] }, p, al, r.nan && !st.nan)
  let rows := made.foldl (fun rs x => modAt (fun _ => x.2.1) x.1 rs) u.rows
  let s := s.inc Reg.ANV_ATTN_NANROW_COUNT a (made.filter (·.2.2.2.2)).length
  let s := s.modUnit o.id u.idx fun u => { u with rows := rows }
  s.modBlk o.id u.idx b.num fun b => { b with p := some (made.map (·.2.2.1)), alpha := made.map (·.2.2.2.1) }

/-- A forward block's value tile drains (R214); ATTN_D keeps each row in its state record between key blocks (R243). -/
def valueForward (s : State) (o : Op) (u : AttnUnit) (b : UBlk) : State :=
  let d := o.desc
  let kp := b.poison || s.keysPoison o u b true
  let pv := joinPieces b.rows.length (b.got.getD 1 [])
  let rows := ((b.place.zip b.alpha).zip pv).foldl (fun rs ((i, al), v) =>
    modAt (fun st => let r := valueRow st al v; { r with poison := r.poison || kp }) i rs) u.rows
  let s := s.modUnit o.id u.idx fun u => { u with rows := rows, blks := u.blks.filter (·.num != b.num) }
  let s := if dOpcode d ≠ 0x12 then s else (b.rows.zip b.place).foldl (fun s (x, i) =>
    let r := rows.getD i (URow.fresh (aD d))
    let at_ := aState d + stateLen d * (x.1 * aHq d + x.2)
    let s := s.store o.via at_ (stateBytes d r)
    if r.poison then s.poisonRange at_ (stateLen d) else s) s
  s.passDrains o u b

/-- P′ of a backward block's rows (R223); a masked pair, or a row whose LSE is NEG_INF, has none. -/
def scoreBackward (s : State) (o : Op) (u : AttnUnit) (b : UBlk) : State :=
  let d := o.desc
  let at_ (x : Nat × Nat) : Nat := aLse d + 4 * (x.1 * aHq d + x.2)
  let p := (b.rows.zip (s.blockScores o b)).map fun (x, z) =>
    let lse := s.peek (at_ x) 4
    z.map fun v => match v with
      | none => none
      | some v => if v = negInf || lse = negInf then none else some (f32Exp (f32Sub v lse))
  let bad := b.rows.any fun x => s.poisoned (at_ x) 4
  let s := b.rows.foldl (fun s x => s.readRange o.via (at_ x) 4) s
  s.modBlk o.id u.idx b.num fun b => { b with p := some p, poison := b.poison || bad }

/-- dS of a backward block (R223). -/
def gradBackward (s : State) (o : Op) (u : AttnUnit) (b : UBlk) : State :=
  let D := aD o.desc
  let f (m : Mat) (x : Nat × Nat) (i : Nat) : Nat := sToF32 (s.valueAt m x.1 (x.2 * D + i))
  let dp := joinPieces b.rows.length (b.got.getD 1 [])
  let ds := ((b.rows.zip (b.p.getD [])).zip dp).map fun ((x, p), r) =>
    let delta := (List.range D).foldl (fun acc i => f32Fma (f (o.mat 4) x i) (f (o.mat 3) x i) acc) 0
    (p.zip r).map fun (p, v) => p.map fun p => f32Mul p (f32Sub v delta)
  let bad := s.rowsPoison o (o.mat 3) b.rows
  let s := s.readRows o (o.mat 3) b.rows
  s.modBlk o.id u.idx b.num fun b => { b with ds := some ds, poison := b.poison || bad }

/-- The sums of a backward block's last tiles added, and the block is done (R224): dK beside dV, or dQ. -/
def sumsBackward (s : State) (o : Op) (u : AttnUnit) (b : UBlk) : State :=
  let tile (i h : Nat) : List (List Nat) := joinPieces h (b.got.getD i [])
  let h := u.acc.length
  let adds := if u.kv then List.zipWith (· ++ ·) (tile 3 h) (tile 2 h) else tile 2 h
  let bad := b.poison || s.rowsPoison o (o.mat 0) b.rows || s.rowsPoison o (o.mat 4) b.rows || s.keysPoison o u b false || s.keysPoison o u b true
  s.modUnit o.id u.idx fun u => { u with
    acc := List.zipWith (List.zipWith f32Add) u.acc adds, blks := u.blks.filter (·.num != b.num), poison := u.poison || bad }

/-- One thing the score unit can do for a unit whose tiles have passed, in the order of its blocks; none where it waits.
-/
def unitAct (s : State) (o : Op) (a : Fin 4) (u : AttnUnit) : Option State :=
  let passed (b : UBlk) (i : Nat) : Bool := decide (i < b.stage) && b.due.getD i 0 == 0
  if dOpcode o.desc ≠ 0x11 then
    match u.blks.find? (·.p.isNone) with
    | some b => if passed b 0 then some (s.scoreForward o a u b) else
      (u.blks.head?).bind fun b => if b.p.isSome && passed b 1 then some (s.valueForward o u b) else none
    | none => (u.blks.head?).bind fun b => if passed b 1 then some (s.valueForward o u b) else none
  else (u.blks.head?).bind fun b =>
    if b.p.isNone then (if passed b 0 then some (s.scoreBackward o u b) else none)
    else if b.ds.isNone then (if passed b 1 then some (s.gradBackward o u b) else none)
    else if (List.range (blockTiles o u).length).all (passed b) then some (s.sumsBackward o u b) else none

/-- The score unit does what it can, at most n things. -/
def unitActs (s : State) (id : Nat) (a : Fin 4) (idx : Nat) : Nat → State
  | 0 => s
  | n + 1 => match (s.opOf id).bind fun o => (o.units[idx]?).map fun u => (o, u) with
    | none => s
    | some (o, u) => match s.unitAct o a u with
      | none => s
      | some t => t.unitActs id a idx n

/-! What a finished attention macro-op writes. -/

/-- The unit and row that hold a query row and head, by their numbers (R210, R242). -/
def rowPlace (o : Op) (t h : Nat) : Nat × Nat :=
  let d := o.desc
  let w := h % aG d
  if dOpcode d = 0x12 then (h / aG d, t * aG d + w)
  else
    let st := headStacks (aG d)
    let i := (st.filter fun x => decide (x.1 + x.2 ≤ w)).length
    let (f, g) := st.getD i (0, 1)
    ((unitDefs o).idxOf (h / aG d, i, t / blockRows g, false), t % blockRows g * g + (w - f))

/-- A query row of the score unit; a unit that had nothing to work leaves it as it started. -/
def rowOf (s : State) (o : Op) (t h : Nat) : URow :=
  let (i, r) := rowPlace o t h
  match (o.units[i]?).bind fun u => u.rows[r]? with
  | some x => x
  | none => s.rowStart o.desc t h

/-- A row of the sums of ATTN_B: dK and dV of a key, or dQ of a query row and head. -/
def sumRow (o : Op) (kv : Bool) (t h : Nat) : List Nat :=
  let D := aD o.desc
  let (i, r) := if kv then ((unitDefs o).idxOf (h, t / 512, 0, true), t % 512) else rowPlace o t h
  match (o.units[i]?).bind fun u => u.acc[r]? with
  | some x => x
  | none => List.replicate (2 * D) 0

/-- A matrix of values written by an attention macro-op, with ACC's addition of what is there, which it reads and whose
markers it carries on (R178, R224, R302): `f` gives a row. -/
def attnWrite (s : State) (o : Op) (i : Nat) (add : Bool) (f : Nat → List Nat) : State :=
  let m := o.mat i
  let old := { m with lt := o.olds.getD i 0 }
  let s0 := s
  let table := (List.range m.rows).map fun r =>
    (f r).zipIdx.map fun (x, c) => if add then f32Add (sToF32 (s0.valueAt old r c)) x else x
  let v (r c : Nat) : SVal := (f32 ((table.getD r []).getD c 0)).scaled 0
  let bad := add && m.rows != 0 && m.cols != 0 && s.regionPoison m 0 0 m.rows m.cols
  let s := if add then s.readRegion { o.via with hint := mdHint m.md } m 0 0 m.rows m.cols else s
  let (s, a) := s.writeRegion o.via o.slot m (if mdRnd m.md then some (o.ctrs.getD i 0) else none) false 0 0 m.rows m.cols v
  let s := if bad then (s.opFlag o.id 1).poisonBlocks m 0 m.rows m.cols (s0.cellPoison m) else s
  s.modOp o.id fun x => { x with outs := x.outs.map fun y =>
    if y.md = i then { y with wrote := m.rows ≠ 0 ∧ m.cols ≠ 0, amax := maxSq y.amax a } else y }

/-- The outputs of rows and units that consumed poison carry the marker (R302). -/
def attnMark (s : State) (o : Op) : State :=
  let d := o.desc
  let D := aD d
  o.units.foldl (fun s u =>
    if dOpcode d = 0x11 then
      if !u.poison then s
      else if u.kv then
        let n := min o.tk (512 * u.stack + 512) - 512 * u.stack
        (s.poisonRegion (o.mat 8) (512 * u.stack) (u.head * D) n D).poisonRegion (o.mat 9) (512 * u.stack) (u.head * D) n D
      else (unitRows o u).foldl (fun s (t, h) => s.poisonRegion (o.mat 7) t (h * D) 1 D) s
    else ((unitRows o u).zip u.rows).foldl (fun s ((t, h), r) =>
      if !(r.poison || u.poison) then s
      else
        let s := if aFinal d then s.poisonRegion (o.mat 3) t (h * D) 1 D else s
        let s := if aFinal d && aLse d ≠ 0 then s.poisonRange (aLse d + 4 * (t * aHq d + h)) 4 else s
        if aFinal d then s else s.poisonRange (aState d + stateLen d * (t * aHq d + h)) (stateLen d)) s) s

/-- Everything an attention macro-op writes once its last unit is done (R216, R221, R224, R243). -/
def attnFinish (s : State) (o : Op) : State :=
  let d := o.desc
  let D := aD d
  if dOpcode d = 0x11 then
    let c := aScale d
    let dq (r : Nat) : List Nat := (List.range (aHq d)).flatMap fun h => ((sumRow o false r h).take D).map (f32Mul · c)
    let dk (r : Nat) : List Nat := (List.range (aHkv d)).flatMap fun h => ((sumRow o true r h).take D).map (f32Mul · c)
    let dv (r : Nat) : List Nat := (List.range (aHkv d)).flatMap fun h => (sumRow o true r h).drop D
    (((s.attnWrite o 7 (aAcc d) dq).attnWrite o 8 (aAcc d) dk).attnWrite o 9 (aAcc d) dv).attnMark o
  else
    let s0 := s
    let rows := (List.range o.tq).map fun t => (List.range (aHq d)).map fun h => s0.rowOf o t h
    let each (s : State) (f : State → Nat → Nat → URow → State) : State :=
      (rows.zipIdx).foldl (fun s (rs, t) => (rs.zipIdx).foldl (fun s (r, h) => f s t h r) s) s
    let s := if aFinal d then s else each s fun s t h r =>
      s.store o.via (aState d + stateLen d * (t * aHq d + h)) (stateBytes d r)
    let s := if aFinal d then s.attnWrite o 3 false fun t => (rows.getD t []).flatMap fun r => (rowFinish D r).1 else s
    let s := if aFinal d && aLse d ≠ 0 then each s fun s t h r =>
      s.store o.via (aLse d + 4 * (t * aHq d + h)) (toBytes 4 (rowFinish D r).2) else s
    s.attnMark o

/-- A tile of attention has passed its checks and reaches the score unit (R53, R218). -/
def releasePiece (s : State) (a : Fin 4) (o : Op) (run : TileRun) (bad : Bool) : State :=
  let t := run.tile
  match o.units[t.idx]? with
  | none => s
  | some u =>
    let stage := (blockTiles o u).idxOf t.kind
    let s := s.modBlk o.id t.idx t.blk fun b => { b with
      due := modAt (· - 1) stage b.due, got := modAt (fun l => if t.w = 0 then l else l ++ [(t.c0, run.acc)]) stage b.got
      poison := b.poison || bad }
    let s := s.unitActs o.id a t.idx (2 * u.blks.length + 2)
    match (s.opOf o.id).bind fun o => (o.units[t.idx]?).map fun u => (o, u) with
    | none => s
    | some (o, u) =>
      if u.done || !unitCut o u || u.blks ≠ [] then s
      else
        let s := if u.marked then s.opFlag o.id 1 else s
        let s := (s.modUnit o.id t.idx fun u => { u with done := true }).tileDone o.id
        match s.opOf o.id with
        | some o => if o.ready then s.attnFinish o else s
        | none => s

/-! Issue (R226, R227). -/

/-- Whether the formats and block geometries of an attention macro-op are permitted (R209): the operands that feed
products are of one class and geometry, and every block extent along the head axis divides D, those of O, dQ, dK and dV
too. -/
def attnFormats (s : State) (d : Nat) : Bool :=
  let md (i : Nat) : Nat := s.peek (dMd d i) 128
  let ins := if dOpcode d = 0x11 then [0, 1, 2, 4] else if aPaged d then [0] else [0, 1, 2]
  let all := if dOpcode d = 0x11 then [0, 1, 2, 3, 4, 7, 8, 9] else ins ++ (if aFinal d then [3] else [])
  let narrow := mdNarrow (md 0)
  let same := ins.all fun i => if narrow then mdNarrow (md i) else mdFmt (md i) == mdFmt (md 0)
  let geo (i : Nat) : Bool :=
    let m := md i
    !narrow || md2d m || (dOpcode d != 0x11 && (if i = 2 then mdAxis m == 1 else mdAxis m == 0))
  mdFmt (md 0) != 0 && same && (narrow || !aPaged d) && ins.all geo &&
    all.all fun i => aD d % mdColExt (s.peek (mdAddr d i) 128) == 0

/-- The plan of an attention macro-op; `start` deals its units. -/
def attnPlan (start : State → Op → State) (s : State) (r : RingId) (d : Nat) : Plan :=
  let op := dOpcode d
  let isB := op == 0x11
  let isD := op == 0x12
  let paged := aPaged d
  let out : Role := if aAcc d then .accumulated else .written
  let roles : List Role := if isB then [.read, .read, .read, .read, .read, .absent, .absent, out, out, out]
    else [.read, if paged then .absent else .read, if paged then .absent else .read, if aFinal d then .written else .absent, .absent]
  let hi := (List.range 6).any fun i => bits (dP d (3 + i)) 63 48 != 0
  let useState := isD || aStateIn d || !aFinal d
  { roles := roles
    checks1 := [(aScale d % 2 ^ 31 == 0 || !f32Fin (aScale d), 3), (isD && aCausal d, 3), (if isD then !paged else isB && paged, 3),
      ((isB || isD) && (aStateIn d || !aFinal d), 3), (paged && (aSegs d || aBmap d || aKpos d != 0), 3), (!isB && aAcc d, 3),
      (bit (dP d 0) 39 || bits (dP d 0) 63 44 != 0 || (!paged && bits (dP d 0) 43 40 != 0), 3),
      (paged && !s.poolOk r (aPool d).val, 3), (aHkv d == 0 || aG d == 0 || decide (64 < aG d), 3),
      (bit (dP d 1) 15 || bits (dP d 1) 31 25 != 0 || aD d % 16 != 0 || aD d < 16 || decide (256 < aD d), 3),
      (paged && aD d != s.poolD (aPool d), 3), (hi, 3), (!isB && aXmd d != 0, 3), (!paged && aTblBytes d != 0, 3),
      (paged && (if isD then aNseq d == 0 else aNseq d != 1), 3)] ++
      addrChecks (aLse d) 4 (isB || (!isD && aFinal d)) ++ addrChecks (aSeg d) (if paged then 8 else 1) paged ++
      addrChecks (aTbl d) (if paged then 64 else 1) paged ++ addrChecks (aState d) 64 useState ++
      (if isB then addrChecks (aXmd d) 128 true else [])
    checksR := [(!s.attnFormats d, 8)]
    checks4 := fun o =>
      let sh (i : Nat) : Nat × Nat := o.shapes.getD i (0, 0)
      let q := (if isD then aNseq d else o.tq, aHq d * aD d)
      let k := (o.tk, aHkv d * aD d)
      [(sh 0 != q, 5), (!paged && (sh 1 != k || sh 2 != k), 5), ((isB || aFinal d) && sh 3 != q, 5),
       (isB && (sh 4 != q || sh 7 != q || sh 8 != k || sh 9 != k), 5)]
    look := if paged then (List.range (aNseq d)).flatMap fun i =>
      (aSeg d + 8 * i, 8) :: if s.poisoned (aSeg d + 8 * i) 8 then [] else [(s.seqRec d i, 64)] else []
    extra := fun o =>
      let lse := (aLse d, 4 * o.tq * aHq d)
      ([if paged then (aSeg d, 8 * aNseq d) else (aSeg d, if aSegs d then 64 * ceilDiv o.tq 16 + 4 * o.tk else 0),
        (aTbl d, if paged then aTblBytes d else if aBmap d then ceilDiv o.tq 512 * ceilDiv (ceilDiv o.tk 512) 8 else 0),
        (s.poolBase (aPool d), if paged then s.poolBytes (aPool d) else 0), if isB then lse else (0, 0)].filter (·.2 != 0),
       [if !isB && aFinal d && aLse d != 0 then lse else (0, 0), (aState d, if useState then stateLen d * o.tq * aHq d else 0)].filter (·.2 != 0))
    start := fun s o =>
      let lens := if paged then (List.range (aNseq d)).map fun i => s.peek (s.seqRec d i + 8) 4 else []
      let o := { o with lens := lens }
      start (s.modOp o.id fun x => { x with lens := lens }) o }

end State

end Sys2Proof.Machine
end

