-- ==== Sys2Proof/Machine/Anvil.lean ====
section
/-!
DEFINITION. The Anvils (spec/02, spec/05 R146 to R157): the issue of the GEMM family and of attention with the tile walker,
the interleave pointer, tiles in the array and the drain hold buffer, their checks, re-runs, fences and withdrawal, and
the fence rows.
-/
namespace Sys2Proof.Machine

open State

/-! Fences (R64 to R66, R468). -/

/-- The number of bits set among the low eight. -/
def ones8 (x : Nat) : Nat := ((List.range 8).filter (bit x)).length

namespace State

/-- The lifecycle state (R477). -/
def lifecycle (s : State) : Nat := s.rd Reg.SEC_LC_LC 0

/-- Whether configuration copies can be made and verified (R475). -/
def copiesLive (s : State) : Bool :=
  (s.lifecycle == 1 || s.lifecycle == 2) && !s.rdB Reg.SEC_LC_IDFAIL 0

/-- Whether a copy's VALID word, SEQ, DIGEST and signature hold (R391). A signature of Lendephor's verifies over what it was
made over and over nothing else, as FIPS 205 provides (PRESUMED). -/
def copyValid (c : CfgCopy) : Bool :=
  c.valid == 0 && c.seq != BitVec.allOnes 64 && c.digest == entryDigest c.entries && c.signed == some (signedBytes c.seq c.entries c.digest)

/-- The number of the current configuration copy: the valid one with the higher SEQ (R391), where Lendephor holds the key
that verifies it (R475). -/
def curCopy (s : State) : Option (Fin 2) :=
  let a := s.flash.cfg[(0 : Fin 2)]
  let b := s.flash.cfg[(1 : Fin 2)]
  if !s.copiesLive then none
  else if copyValid a && (!copyValid b || decide (b.seq.toNat < a.seq.toNat)) then some 0
  else if copyValid b then some 1 else none

/-- The copy that a configuration write makes: the one that is not current, or copy 0 (R392). -/
def nextCopy (s : State) : Fin 2 := match s.curCopy with
  | some 0 => 1
  | _ => 0

/-- Step 1 of a configuration write: the copy to be made is erased (R392). -/
def eraseNext (s : State) : State :=
  { s with flash := { s.flash with cfg := s.flash.cfg.set s.nextCopy CfgCopy.erased } }

/-- The fence map that the registers hold, in the layout of a fence row. -/
def fenceMap (s : State) : Nat := (List.range 4).foldl (fun m n =>
  m + (s.rd Reg.ANV_FENCE_STRIPE n + 256 * s.rd Reg.ANV_FENCE_WITHDRAWN n) * 2 ^ (9 * n)) 0

/-- The map of the last programmed fence row (R468). -/
def rowMap (s : State) : Nat := match s.fuses.fences.getLast? with
  | some r => r.toNat
  | none => 0

/-- The fence map that a list of configuration entries holds. -/
def entriesMap (es : List (Word × Word)) : Nat := (List.range 4).foldl (fun m n =>
  match es.find? fun e => e.1.toNat == 0x050004 + 0x1000 * n with
  | some e => m + bits e.2.toNat 8 0 * 2 ^ (9 * n)
  | none => m) 0

/-- The fences that both places of R66 hold. -/
def heldMap (s : State) : Nat :=
  if s.lifecycle = 1 || s.lifecycle = 2 then
    match s.curCopy with
    | some c => s.rowMap &&& entriesMap s.flash.cfg[c].entries
    | none => 0
  else s.rowMap

/-- PERSISTED and WD_PERSISTED brought up to date (R66). -/
def persist (s : State) : State :=
  let m := s.fenceMap &&& s.heldMap
  (List.range 4).foldl (fun s n => (s.wr Reg.ANV_FENCE_PERSISTED n (bits m (9 * n + 7) (9 * n))).wr
    Reg.ANV_FENCE_WD_PERSISTED n (bits m (9 * n + 8) (9 * n + 8))) s

/-- A change of the fence map starts the writing of a new configuration copy, unless one is under way (R66, R392). -/
def fenceCopy (s : State) : State :=
  if !s.copiesLive || s.kal.cfgWrite.isSome then s
  else
    let es := match s.curCopy with
      | some c => s.flash.cfg[c].entries
      | none => []
    { s.eraseNext with kal := { s.kal with cfgWrite := some ⟨es, false⟩ } }

/-- A new fence map is programmed into the next fence row (R66). -/
def programRow (s : State) : State :=
  if !s.powered || s.fenceMap = s.rowMap || decide (64 ≤ s.fuses.fences.length) then s
  else
    let rows := s.fuses.fences ++ [BitVec.ofNat 64 s.fenceMap]
    { s with fuses := { s.fuses with fences := rows } }.persist

/-! The tile walker (R146 to R149). -/

/-- An Anvil changed. -/
def modAnv (s : State) (a : Fin 4) (f : Anvil → Anvil) : State := { s with anv := s.anv.set a (f s.anv[a]) }

/-- Whether an Anvil is withdrawn. -/
def withdrawn (s : State) (a : Nat) : Bool := s.rdB Reg.ANV_FENCE_WITHDRAWN a

/-- The tile width Wc of an Anvil for a macro-op (R147). -/
def tileWidth (s : State) (a lc : Nat) : Nat := lc * (64 * s.rd Reg.ANV_STATUS_LIVE_STRIPES a / lc)

/-- The extent Lc of C's blocks along its columns (R147). -/
def colBlock (o : Op) : Nat := if isGemm o.desc && !pageOut o.desc then mdColExt (o.mat 2).md else 1

/-- The Anvils of a macro-op's die, or all with XDIE, that are not withdrawn; the other die's where a die has none
(R146, R65). -/
def anvilsFor (s : State) (o : Op) : List Nat :=
  let live := (List.range 4).filter fun a => !s.withdrawn a
  if dXdie o.desc then live
  else
    let mine := live.filter fun a => a / 2 == o.die.val
    if mine = [] then live else mine

/-- The serving Anvils of a macro-op (R146, R147). -/
def serving (s : State) (o : Op) : List Nat := (s.anvilsFor o).filter fun a => s.tileWidth a (colBlock o) != 0

/-- The walk of a grid of TR × TC tiles (R148). -/
def serpentine (tr tc : Nat) : List (Nat × Nat) :=
  let along (n i : Nat) : List Nat := if i % 2 = 0 then List.range n else (List.range n).reverse
  if tr ≤ tc then (List.range tr).flatMap fun r => (along tc r).map fun c => (r, c)
  else (List.range tc).flatMap fun c => (along tr c).map fun r => (r, c)

/-- The tiles of an M × N output under a tile width (R147, R148). -/
def walkTiles (id m n wc : Nat) : List Tile :=
  ((serpentine (ceilDiv m 512) (ceilDiv n wc)).zipIdx).map fun ((r, c), i) =>
    ⟨id, i, 512 * r, wc * c, min 512 (m - 512 * r), min wc (n - wc * c), 0, 0, .gemm, 0⟩

/-- A tile at the end of an Anvil's list. -/
def giveTile (s : State) (a : Nat) (t : Tile) : State :=
  s.modAnv (Fin.ofNat 4 a) fun x => { x with queue := x.queue ++ [t] }

/-- Tiles dealt round-robin to Anvils in ascending number (R148). -/
def dealTiles (s : State) (tgt : List Nat) (ts : List Tile) : State :=
  (ts.zipIdx).foldl (fun s (t, i) => s.giveTile (tgt.getD (i % tgt.length) 0) t) s

/-- A macro-op's tiles are dealt to its serving Anvils; with none it completes with FENCED (R65, R147). -/
def dealOp (s : State) (o : Op) (ts : List Tile) : State :=
  let tgt := s.serving o
  if tgt = [] then s.opFlag o.id 2
  else (s.modOp o.id fun x => { x with serving := tgt, work := .tiles ts.length }).dealTiles tgt ts

/-- The start of a macro-op of the GEMM family (R137, R147, R148). -/
def gemmStart (s : State) (o : Op) : State :=
  let m := (o.mat 2).rows
  let n := (o.mat 2).cols
  let wc := ((s.serving o).map fun a => s.tileWidth a (colBlock o)).foldl min 512
  if m = 0 || n = 0 || (o.gemmK = 0 && dOpcode o.desc = 4) then s
  else s.dealOp o (walkTiles o.id m n wc)

/-- The start of an attention macro-op (R212, R220, R224, R243): its units are dealt round-robin, each Anvil counts the
blocks that its units skip, and a unit with nothing to work is done at once. -/
def attnStart (s : State) (o : Op) : State :=
  let us := s.unitsOf o
  let tgt := s.serving o
  let left := us.filter fun x => !x.1.done
  let o := { o with units := us.map (·.1), serving := tgt, work := .tiles left.length }
  if tgt = [] then s.opFlag o.id 2
  else
    let s := s.modOp o.id fun x => { x with units := o.units, serving := tgt, work := o.work }
    let s := (us.zipIdx).foldl (fun s (x, i) =>
      let a := tgt.getD (i % tgt.length) 0
      let s := s.inc Reg.ANV_ATTN_SKIP_COUNT a x.2
      if x.1.done then s else s.giveTile a (unitTile o x.1)) s
    let s := if us.any fun x => x.1.done && x.1.marked then s.opFlag o.id 1 else s
    if left = [] then s.attnFinish o else s

/-- The plan of a macro-op of the GEMM family (R131 to R135, R160 to R166, R204 to R206, R232). META_BASE = 0 with
SPARSE = 1 is refused with detail 7: DESIGN CHOICE, R132 does not say that it must not be 0 (log entry 143). -/
def gemmPlan (s : State) (r : RingId) (d : Nat) : Plan :=
  let ta := gemmTa d
  let tb := gemmTb d
  let acc := dOpcode d == 4
  let page := pageOut d
  let a := s.peek (dMd d 0) 128
  let b := s.peek (dMd d 1) 128
  let rqA := ta && requant a 1 && !s.poisoned (dMd d 0) 128
  let rqB := tb && requant b 0 && !s.poisoned (dMd d 1) 128
  let sp := dSparse d
  let meta_ := bits (dP d 1) 47 0
  let pitch := bits (dP d 2) 31 0
  let across (m axis : Nat) : Bool := mdNarrow m && !md2d m && mdAxis m != axis
  { roles := [if rqA then .turned else .read, if rqB then .turned else if sp then .sparse else .read,
      if page then .shape else if acc then .accumulated else .written, .absent, .absent,
      if rqA then .master else .absent, if rqB then .master else .absent]
    checks1 := [(bits (dP d 0) 63 2 != 0 || (!acc && dP d 0 != 0), 3), (bits (dP d 1) 63 48 != 0 || bits (dP d 2) 63 32 != 0, 3),
        (!sp && meta_ != 0, 3), (!page && (List.range 5).any (fun i => dP d (4 + i) != 0), 3),
        (dHeritage d && sp, 8)] ++
      (if sp then addrChecks meta_ 64 true else []) ++ (if page then s.pageChecks r d else [])
    checksR := [(!pairOk a b (sp && !tb) || (sp && decide (mdFmt b ≤ 2)), 8), (!ta && across a 0, 8),
      (!tb && across b 1, 8), (sp && rqB, 8)]
    checks4 := fun o =>
      let x := o.mat 0
      let y := o.mat 1
      let c := o.mat 2
      let k := if ta then x.rows else x.cols
      [((if ta then x.cols else x.rows) != c.rows, 5), ((if tb then y.rows else y.cols) != c.cols, 5),
       ((if tb then y.cols else y.rows) != k, 5), (rqA && o.shapes.getD 5 (0, 0) != o.shapes.getD 0 (0, 0), 5),
       (rqB && o.shapes.getD 6 (0, 0) != o.shapes.getD 1 (0, 0), 5), (sp && y.rows % sparseGroup b != 0, 5),
       (sp && decide (pitch < ceilDiv y.cols 2), 9), (page && c.cols != s.pageCols d, 5)]
    extra := fun o =>
      let y := o.mat 1
      let c := o.mat 2
      let n := y.rows / sparseGroup b
      let mr := if sp && n != 0 && y.cols != 0 then [(meta_, (n - 1) * pitch + ceilDiv y.cols 2)] else []
      if page && c.rows != 0 then (mr ++ (s.pageRanges d c.rows).1, (s.pageRanges d c.rows).2) else (mr, [])
    start := gemmStart }

/-! The interleave pointer (R153 to R157). -/

/-- The pointer of an Anvil set. -/
def setItabPos (s : State) (a : Fin 4) (v : Nat) : State :=
  if a.val % 2 = 0 then s.wr Reg.STR_ITAB_POS_POS_LO (a.val / 2) v else s.wr Reg.STR_ITAB_POS_POS_HI (a.val / 2) v

/-- Whether a tile belongs to the stream that an entry names (R150). -/
def tileOf (s : State) (w : Word) (t : Tile) : Bool :=
  match s.opOf t.op with
  | some o => o.slot.val == entSlot w && ringStream o.ring == entStream w
  | none => false

/-- Whether a tile of an Anvil's list can enter: a unit of attention only where its next tile can be cut (R213). -/
def tileReady (s : State) (t : Tile) : Bool :=
  t.kind != .unit || match (s.opOf t.op).bind fun o => (o.units[t.idx]?).map fun u => (o, u) with
    | some (o, u) => (nextCut o u).isSome
    | none => false

/-- The tile that a stream would start next on an Anvil: its re-runs in the order of failure, then its macro-ops in the
order of issue, each in the order dealt (R63, R150). -/
def nextTile (s : State) (a : Fin 4) (w : Word) : Option (Bool × Tile) :=
  let x := s.anv[a]
  if entStream w = 3 || s.slotState (entSlot w) = 0 then none
  else match x.rerun.find? (s.tileOf w) with
    | some t => some (true, t)
    | none =>
      let ts := x.queue.filter (s.tileOf w)
      match ts with
      | [] => none
      | t :: rest =>
        let first := rest.foldl (fun m y => min m y.op) t.op
        ((ts.find? (·.op == first)).filter s.tileReady).map fun y => (false, y)

/-- The entry whose stream an Anvil serves next, with its tile: the pointer's own, or a borrower's where the table lends
(R154 to R156). -/
def serves (s : State) (a : Fin 4) : Option (Nat × Bool × Tile) :=
  let x := s.anv[a]
  let pos := s.itabPos a
  let w := s.itabEntry a pos
  let n := x.table.length
  if entStream w = 3 || decide (entQuota w ≤ x.charge) then none
  else match s.nextTile a w with
    | some t => some (pos, t)
    | none =>
      if !x.lend then none
      else ((List.range (n - 1)).map fun i => (pos + 1 + i) % n).findSome? fun i =>
        (s.nextTile a (s.itabEntry a i)).map fun t => (i, t)

/-- The requested point of a tile (R398). -/
def tilePoint (s : State) (o : Op) : Nat :=
  if s.rdB Reg.PWR_GROUP_EN 0 then s.rd Reg.PWR_GROUP_OP 0
  else if bit o.desc 16 then bits o.desc 15 12 else s.phaseOp (dPhase o.desc)

/-- The live physical columns of an Anvil, ascending (R151). -/
def liveCols (s : State) (a : Fin 4) : List Nat := (List.range 512).filter fun p => !bit (s.rd Reg.ANV_FENCE_STRIPE a) (p / 64)

/-- What an Anvil computes of a tile, its array having some faults (R39, R57, R151). -/
def runTile (s : State) (o : Op) (t : Tile) (live : List Nat) (faults : List CellFault) : TileRun :=
  if isGemm o.desc then s.gemmRun o t live faults else s.attnRun o t live faults

/-- What a tile's start does beside its arithmetic: reads and the Tongs counters. -/
def feedTile (s : State) (o : Op) (t : Tile) (a : Fin 4) : State :=
  if isGemm o.desc then s.gemmFeed o t a else s.pieceReads o t

/-- The next tile of a unit of attention is cut for an Anvil: its pieces take the unit's place in the list, ahead of
what is left of the unit (R212). -/
def cutNext (s : State) (o : Op) (a : Fin 4) (t : Tile) : State × Option Tile :=
  let (s, ps, last) := s.cutUnit o a t.idx (s.tileWidth a 1)
  (s.modAnv a fun x => { x with queue := x.queue.flatMap fun y => if y = t then ps ++ (if last then [] else [t]) else [y] }, ps.head?)

/-- The key under which an Anvil's charged cycles are kept for energy (R424). -/
def chargeKey (a : Fin 4) (o : Op) : Nat := (a.val * 8 + o.slot.val) * 8 + dPhase o.desc

/-- Cycles that a tile charges to its interleave entry, its macro-op and its energy tag (R154, R424), of which `held` are
held by the issue duty and count in PWR_THROTTLE_CYC (R407). -/
def chargeTile (s : State) (a : Fin 4) (o : Op) (cycles held duty : Nat) : State :=
  let k := chargeKey a o
  let n := cycles + held
  let charged := Tab.set (fun _ => 0) s.pw.charged k (Tab.get (fun _ => 0) s.pw.charged k + n)
  let s := s.modAnv a fun x => { x with charge := x.charge + n, count := x.count + n, duty := duty }
  let s := { s with pw := { s.pw with charged := charged } }.modOp o.id fun x => { x with cycles := x.cycles + n }
  s.inc Reg.PWR_THROTTLE_CYC_COUNT 0 held

/-- The cycles for which a tile that is ready waits for an open block of the issue duty, with the duty then in force
(R407). -/
def enterWait (s : State) (a : Fin 4) : Nat × Nat := dutyWait s.anv[a].duty (s.rd Reg.PWR_STATUS_DUTY 0) s.anv[a].count

/-- A tile enters the array (R154), after the wait of R407. -/
def tileEnters (s : State) (o : Op) (a : Fin 4) (entry : Nat) (again : Bool) (t : Tile) (faults : List CellFault) : State :=
  let run := s.runTile o t (s.liveCols a) faults
  let loan := if entry = s.itabPos a then none else some entry
  let q := s.tilePoint o
  let s := s.chargeTile a o 0 (s.enterWait a).1 (s.enterWait a).2
  let s := s.modAnv a fun x => { x with array := some run, loan := loan, worked := true, reqPt := q, rerun := x.rerun.erase t, queue := if again then x.queue else x.queue.erase t }
  let s := (s.wr Reg.ANV_STATUS_STATE a (if again then 2 else 1)).wr Reg.ANV_STATUS_SLOT a o.slot.val
  let s := (s.wr Reg.ANV_STATUS_STREAM a (ringStream o.ring)).wr Reg.ANV_STATUS_DIE_OF_STREAM a o.die.val
  (s.feedTile o t a).repoint a

/-- An Anvil starts a tile (R154 to R156). -/
def tileBegins (s : State) (a : Fin 4) (faults : List CellFault) : State :=
  if !s.running || s.withdrawn a.val || s.anv[a].array.isSome || s.pllGated a then s
  else match s.serves a with
    | none => s
    | some (i, again, t) =>
      match s.opOf t.op with
      | none => s
      | some o =>
        if t.kind ≠ .unit then s.tileEnters o a i again t faults
        else
          let (s, p) := s.cutNext o a t
          match p, s.opOf t.op with
          | some p, some o => s.tileEnters o a i again p faults
          | _, _ => s

/-! The end of a tile's K steps (R47, R51 to R56). -/

/-- The cycles of a tile that the issue duty does not hold: the 1,024 of filling the array where it followed no other tile
without a gap (R50, R56), its K steps, the holds of R52 and the dry cycles. -/
def tileCycles (run : TileRun) (tm : TileTiming) : Nat :=
  (if tm.gap then 1024 else 0) + run.steps + (run.holds + tm.holdWait) + tm.dryA + tm.dryB + tm.dryBoth

/-- A tile's last K step completes: it swaps into the hold buffer and its cycles are charged (R51, R52, R54, R154), those
that the issue duty holds among them (R407).
ANV_BUSY_CYC counts 16 cycles for a K step under heritage rules: DESIGN CHOICE, R532 says only cycles in which the array
advanced (log entry 70). -/
def tileEnds (s : State) (a : Fin 4) (tm : TileTiming) : State :=
  match s.anv[a].array with
  | none => s
  | some run =>
    if !s.running || s.pllGated a || decide (4 ≤ s.anv[a].hold.length + s.anv[a].leaving.length) then s
    else match s.opOf run.tile.op with
      | none => s
      | some o =>
        let held := run.holds + tm.holdWait
        let fill := if tm.gap then 1024 else 0
        let n := tileCycles run tm
        let duty := dutyRun s.anv[a].duty (s.rd Reg.PWR_STATUS_DUTY 0) s.anv[a].count tm.early n
        let s := s.chargeTile a o n duty.1 duty.2
        let s := s.modAnv a fun x => { x with array := none, hold := x.hold ++ [run] }
        let s := (s.inc Reg.ANV_BUSY_CYC_COUNT a (fill + run.steps)).inc Reg.ANV_DRY_A_CYC_COUNT a (tm.dryA + tm.dryBoth)
        let s := (s.inc Reg.ANV_DRY_B_CYC_COUNT a (tm.dryB + tm.dryBoth)).inc Reg.ANV_DRY_EVENTS_COUNT a tm.dryEvents
        let s := (s.inc Reg.ANV_DRAIN_WAIT_CYC_COUNT a held).inc Reg.ANV_ZSKIP_CHUNKS_COUNT a run.skipped
        let turned := isGemm o.desc && (gemmTa o.desc || gemmTb o.desc)
        let s := s.inc Reg.ANV_TONGS_LATE_CYC_COUNT a (if turned then tm.late else 0)
        (s.sageOvf o.slot run.ovf).wr Reg.ANV_STATUS_STATE a 0

/-! The checks of a tile (R53 to R66, R445). -/

/-- The tile of a run comes off the hold buffer. -/
def dropHold (s : State) (a : Fin 4) : State := s.modAnv a fun x => { x with hold := x.hold.drop 1 }

/-- A tile of the GEMM family leaves the hold buffer toward C (R53, R232). -/
def releaseGemm (s : State) (a : Fin 4) (o : Op) (run : TileRun) : State :=
  let t := run.tile
  if pageOut o.desc then (s.pageTile a o t run.acc run.poison).tileDone o.id
  else
    let m := o.mat 2
    let val (i j : Nat) : SVal := (f32 ((run.acc.getD (i - t.r0) []).getD (j - t.c0) 0)).scaled 0
    let (s, a) := s.writeRegion o.via o.slot m (if mdRnd m.md then some (o.ctrs.getD 2 0) else none) (dHeritage o.desc)
      t.r0 t.c0 t.h t.w val
    let s := s.modOp o.id fun x => { x with outs := x.outs.map fun y => if y.md = 2 then { y with wrote := true, amax := maxSq y.amax a } else y }
    let s := if run.poison then s.poisonRegion m t.r0 t.c0 t.h t.w else s
    s.tileDone o.id

/-- A run's values leave the hold buffer toward their destination (R53). -/
def releaseRun (s : State) (a : Fin 4) (o : Op) (run : TileRun) : State :=
  let s := if run.poison then s.opFlag o.id 1 else s
  if isGemm o.desc then s.releaseGemm a o run else s.releasePiece a o run false

/-- A tile whose data path failed twice: its lines carry the marker, and the macro-op completes with POISON (R445). -/
def poisonTile (s : State) (a : Fin 4) (o : Op) (run : TileRun) : State :=
  let t := run.tile
  let s := s.opFlag o.id 1
  if !isGemm o.desc then s.releasePiece a o run true
  else if pageOut o.desc then (s.pageTile a o t run.acc true).tileDone o.id
  else (s.poisonRegion (o.mat 2) t.r0 t.c0 t.h t.w).tileDone o.id

/-- Every macro-op that an Anvil serves completes with FENCED (R66). -/
def fencedOps (s : State) (a : Nat) : State :=
  (s.ops.filter fun o => o.serving.contains a).foldl (fun s o => s.opFlag o.id 2) s

/-- A tile cut from its left edge into pieces of a width, the last one narrower (R149). -/
def cutTile (wc : Nat) (t : Tile) : List Tile :=
  if wc = 0 || t.w ≤ wc then [t]
  else (List.range (ceilDiv t.w wc)).map fun i => { t with c0 := t.c0 + wc * i, w := min wc (t.w - wc * i) }

/-- A tile cut for an Anvil's present width (R149, R212); a unit's next tiles are cut when they enter. -/
def cutFor (s : State) (a : Nat) (t : Tile) : List Tile :=
  match s.opOf t.op with
  | some o => if t.kind = .unit then [t] else cutTile (s.tileWidth a (colBlock o)) t
  | none => [t]

/-- The further pieces of a tile cut into n are due as well. -/
def piecesMore (s : State) (t : Tile) (n : Nat) : State :=
  match s.opOf t.op with
  | none => s
  | some o => if isGemm o.desc then s.tilesMore o.id (n - 1) else
    match o.units[t.idx]? with
    | some u => s.modBlk o.id t.idx t.blk fun b => { b with due := modAt (· + (n - 1)) ((blockTiles o u).idxOf t.kind) b.due }
    | none => s

/-- Whether an Anvil is wide enough for a tile's macro-op (R147). -/
def fitsOn (s : State) (a : Nat) (t : Tile) : Bool :=
  match s.opOf t.op with
  | some o => s.tileWidth a (colBlock o) != 0
  | none => false

/-- Unpassed tiles that leave an Anvil are dealt round-robin to the remaining serving Anvils of their macro-op, the
tiles of one unit of attention together, each cut to its new Anvil's width; with none the macro-op's tiles are dropped
(R65, R149, R212). -/
def passOn (s : State) (a : Fin 4) (ts : List Tile) : State :=
  (s.ops.filter fun o => ts.any (·.op == o.id)).foldl (fun s o =>
    let mine := ts.filter (·.op == o.id)
    let wide (n : Nat) : Bool := !s.withdrawn n && s.tileWidth n (colBlock o) != 0
    let left := o.serving.filter fun n => n != a.val && wide n
    let tgt := if left = [] then (s.anvilsFor o).filter fun n => n != a.val && wide n else left
    let units := (mine.map (·.idx)).eraseDups
    if tgt = [] then
      let s := s.modOp o.id fun x => { x with serving := [] }
      if isGemm o.desc then mine.foldl (fun s _ => s.tileDone o.id) s else s.modOp o.id fun x => { x with work := .made, units := x.units.map fun u => { u with passes := [] } }
    else
      let s := s.modOp o.id fun x => { x with serving := tgt }
      (mine.zipIdx).foldl (fun s (t, i) =>
        let n := tgt.getD ((if isGemm o.desc then i else units.idxOf t.idx) % tgt.length) 0
        let ps := s.cutFor n { t with fails := 0 }
        ps.foldl (fun s p => s.giveTile n p) (s.piecesMore t ps.length)) s) s

/-- A discarded tile waits for its re-run on the same Anvil, cut to its present width; where a fence has left the Anvil
too narrow for it, it is passed on (R63, R66, R149, R445). -/
def rerunTile (s : State) (a : Fin 4) (t : Tile) : State :=
  if !s.fitsOn a t then s.passOn a [t]
  else
    let ps := s.cutFor a t
    (s.piecesMore t ps.length).modAnv a fun x => { x with rerun := x.rerun ++ ps }

/-- The withdrawal of an Anvil (R65): its unpassed tiles go to the remaining Anvils, and it takes a pending table. -/
def withdraw (s : State) (a : Fin 4) (failed : List Tile) : State :=
  let x := s.anv[a]
  let ts := failed ++ x.hold.map (·.tile) ++ (x.array.map (·.tile)).toList ++ x.rerun ++ x.queue
  let s := (s.wrB Reg.ANV_FENCE_WITHDRAWN a true).fencedOps a.val
  let s := s.modAnv a fun x => { x with hold := [], array := none, rerun := [], queue := [], loan := none }
  let s := (s.wr Reg.ANV_STATUS_STATE a 3).raise 0x0203 a none 0
  ((s.passOn a ts).takeTable a).fenceCopy

/-- Stripes of an Anvil fenced, with its waiting tiles cut to its new width; an Anvil too narrow for a macro-op passes
that macro-op's waiting tiles on (R64, R149). Its tiles in the array or the hold buffer stay and are passed on where they
fail: DESIGN CHOICE, R149 speaks of unpassed tiles and of tiles not yet started (log entry 173). -/
def fence (s : State) (a : Fin 4) (mask : Nat) (failed : Tile) : State :=
  let all := s.rd Reg.ANV_FENCE_STRIPE a ||| mask
  let s := (s.wr Reg.ANV_FENCE_STRIPE a all).wr Reg.ANV_STATUS_LIVE_STRIPES a (8 - ones8 all)
  let s := s.raise 0x0202 a none mask
  if all = 255 then s.withdraw a [failed]
  else
    let s := s.fencedOps a.val
    let x := s.anv[a]
    let waiting := failed :: x.rerun ++ x.queue
    let cut (s : State) (ts : List Tile) : List Tile := (ts.filter fun t => s.fitsOn a t).flatMap (s.cutFor a)
    let s' := (waiting.filter fun t => s.fitsOn a t).foldl (fun s' t => s'.piecesMore t (s.cutFor a t).length) s
    let again := cut s (x.rerun ++ [failed])
    let rest := cut s x.queue
    let s' := s'.modAnv a fun x => { x with rerun := again, queue := rest }
    (s'.passOn a (waiting.filter fun t => !s.fitsOn a t)).fenceCopy

/-- ANV_FAULT_LOC and ANV_FAULT_EXT rewritten by a second failure (R70, R532). -/
def faultLoc (s : State) (a : Fin 4) (row col : Option Nat) (narrow : Bool) : State :=
  let n := min 255 (s.rd Reg.ANV_FAULT_LOC_COUNT a + 1)
  let c := col.getD 0
  let s := (s.wr Reg.ANV_FAULT_LOC_ROW a (if col.isSome then row.getD 0 else 0)).wr Reg.ANV_FAULT_LOC_COL a c
  let s := (s.wr Reg.ANV_FAULT_LOC_STRIPE a (c / 64)).wrB Reg.ANV_FAULT_LOC_VALID a col.isSome
  let s := (s.wrB Reg.ANV_FAULT_LOC_UNLOCATED a col.isNone).wrB Reg.ANV_FAULT_LOC_NARROW a narrow
  ((s.wr Reg.ANV_FAULT_LOC_COUNT a n).wr Reg.ANV_FAULT_EXT_COUNT a n).wrB Reg.ANV_FAULT_EXT_NOROW a (col.isSome && row.isNone)

/-- The smallest of some numbers. -/
def least (l : List Nat) : Option Nat := match l with
  | [] => none
  | x :: xs => some (xs.foldl min x)

/-- The stripes that hold some physical columns, as a mask. -/
def stripesOf (cols : List Nat) : Nat :=
  (List.range 8).foldl (fun m i => m + (if cols.any (fun x => x / 64 == i) then 2 ^ i else 0)) 0

/-- A capture record of an Anvil's check that failed or of a re-run that passed (R458): STRIPES, ROW and COL are those
of the comparisons that failed, 0 where none names one (DESIGN CHOICE: the table only lists the fields). -/
def captureTile (s : State) (a : Fin 4) (o : Op) (t : Tile) (result : Nat) (f : CheckFind) : State :=
  s.capture (Fin.ofNat 2 (a.val / 2)) 1 (a.val + o.ring.val * 2 ^ 8 + result * 2 ^ 16 + stripesOf f.cols * 2 ^ 24 +
    t.idx % 2 ^ 32 * 2 ^ 32 + (least f.rows).getD 0 * 2 ^ 64 + (least f.cols).getD 0 * 2 ^ 80)

/-- The checks of the oldest tile in the hold buffer complete (R53, R63 to R66): what its comparisons find was fixed as it
was worked (R59, R61), and the corner fails a tile by itself. A run under a new mask that passes is no re-run that passed:
DESIGN CHOICE, the spec does not say whether it counts in ANV_CHK_RETRY_PASS (log entry 81). The walk index that
EV_ANVIL_MISMATCH names for a tile of attention is the number of its unit: DESIGN CHOICE, R148 numbers only tiles of the
GEMM family (log entry 172). -/
def tileChecked (s : State) (a : Fin 4) (pathUe : Bool) : State :=
  match s.anv[a].hold with
  | [] => s
  | run :: _ =>
    if !s.running then s
    else
      let t := run.tile
      let s := s.dropHold a
      match s.opOf t.op with
      | none => s
      | some o =>
        let arg := o.ring.val + 64 * t.idx
        let narrow := mdNarrow (o.mat 0).md
        let f := run.find
        if pathUe then
          let s := (s.inc Reg.ANV_PATH_UE_COUNT a 1).raise 0x0205 a (some o.slot) arg
          if t.ues = 0 then s.rerunTile a { t with ues := 1 } else s.poisonTile a o run
        else
          let s := s.inc Reg.ANV_CHK_EXCLUDED_COUNT a run.excl
          if f.rows = [] && f.cols = [] && !f.corner then
            (if t.fails = 1 then (s.inc Reg.ANV_CHK_RETRY_PASS_COUNT a 1).captureTile a o t 0 f else s).releaseRun a o run
          else if t.fails = 0 then
            (((s.inc Reg.ANV_CHK_MISMATCH_COUNT a 1).raise 0x0201 a (some o.slot) arg).captureTile a o t 1 f).rerunTile a
              { t with fails := 1 }
          else
            let s := (s.faultLoc a (least f.rows) (least f.cols) narrow).captureTile a o t 2 f
            let t := { t with fails := 0 }
            if f.cols = [] then s.withdraw a [t] else s.fence a (stripesOf f.cols) t

/-- An interleave entry ends: `gated` idle cycles are charged where its stream is blocked, and where the quota is
reached the pointer moves; at entry 0 a pending table is taken (R154, R155, R157). An IDLE entry gates for its whole
quota. -/
def entryEnds (s : State) (a : Fin 4) (gated : Nat) : State :=
  let x := s.anv[a]
  if !s.running || s.withdrawn a.val || x.array.isSome then s
  else
    let pos := s.itabPos a
    let w := s.itabEntry a pos
    let n := if entStream w = 3 then entQuota w - x.charge else if (s.serves a).isSome then 0 else gated
    let s := s.chargeGated a n
    if x.charge + n < entQuota w then s
    else
      let next := if x.table.length ≤ pos + 1 then 0 else pos + 1
      let s := (s.modAnv a fun x => { x with charge := 0, loan := none }).setItabPos a next
      if next = 0 then s.takeTable a else s

end State

/-! The meanings of the Anvils' commands. -/

/-- GEMM (R132). -/
def execGemm (r : RingId) (s : State) : Host.Outcome State Fault Refusal :=
  act s (s.issue r 0x01 (fun _ => true) State.gemmPlan)

/-- GEMM_TA (R132, R160). -/
def execGemmTa (r : RingId) (s : State) : Host.Outcome State Fault Refusal :=
  act s (s.issue r 0x02 (fun _ => true) State.gemmPlan)

/-- GEMM_TB (R132, R160). -/
def execGemmTb (r : RingId) (s : State) : Host.Outcome State Fault Refusal :=
  act s (s.issue r 0x03 (fun _ => true) State.gemmPlan)

/-- GEMM_ACC (R132, R111). -/
def execGemmAcc (r : RingId) (s : State) : Host.Outcome State Fault Refusal :=
  act s (s.issue r 0x04 (fun _ => true) State.gemmPlan)

/-- ATTN_F (R210). -/
def execAttnF (r : RingId) (s : State) : Host.Outcome State Fault Refusal :=
  act s (s.issue r 0x10 (fun _ => true) (State.attnPlan State.attnStart))

/-- ATTN_B (R222). -/
def execAttnB (r : RingId) (s : State) : Host.Outcome State Fault Refusal :=
  act s (s.issue r 0x11 (fun _ => true) (State.attnPlan State.attnStart))

/-- ATTN_D (R242). -/
def execAttnD (r : RingId) (s : State) : Host.Outcome State Fault Refusal :=
  act s (s.issue r 0x12 (fun _ => true) (State.attnPlan State.attnStart))

/-- TILE_START (R154). -/
def execTileStart (e : TileEntry) (s : State) : Host.Outcome State Fault Refusal := act s (s.tileBegins e.anvil e.faults)

/-- TILE_END (R51). -/
def execTileEnd (a : Fin 4) (t : TileTiming) (s : State) : Host.Outcome State Fault Refusal := act s (s.tileEnds a t)

/-- TILE_CHECK_DONE (R63). -/
def execTileCheckDone (a : Fin 4) (pathUe : Bool) (s : State) : Host.Outcome State Fault Refusal :=
  act s (s.tileChecked a pathUe)

/-- FENCE_ROW_PROGRAMMED (R66). -/
def execFenceRowProgrammed (s : State) : Host.Outcome State Fault Refusal := act s s.programRow

/-- ITAB_ENTRY_END (R154). -/
def execItabEntryEnd (a : Fin 4) (gated : Nat) (s : State) : Host.Outcome State Fault Refusal := act s (s.entryEnds a gated)

end Sys2Proof.Machine
end

