-- ==== Sys2Proof/Machine/Roce.lean ====
section
/-!
DEFINITION. RoCEv2 (spec/12 R356 to R358): queue pairs, the responder to RDMA WRITE and RDMA READ, and the requests that
checkpoints send, each cut to one path MTU and answered in the order sent.
-/
namespace Sys2Proof.Machine

open State

namespace State

/-- A queue pair, where it is bound. -/
def qpOf (s : State) (n : Nat) : Option Qp := Tab.get (fun _ => none) s.net.qps n

/-- A queue pair bound, replaced or returned to reset. -/
def setQp (s : State) (n : Nat) (q : Option Qp) : State :=
  { s with net := { s.net with qps := Tab.set (fun _ => none) s.net.qps n q } }

/-- A bound queue pair changed. -/
def modQp (s : State) (n : Nat) (f : Qp → Qp) : State := match s.qpOf n with
  | some q => s.setQp n (some (f q))
  | none => s

/-- A frame of a queue pair leaves through its port, unless the port sends none or Quench holds it (R329, R421). -/
def roceOut (s : State) (n : Nat) (f : Frame) : State :=
  match s.qpOf n with
  | none => s
  | some q => if s.portSends (q.args.port.toNat % 8) && s.powered && !s.quench then s.sendFrame (Fin.ofNat 8 q.args.port.toNat) f else s

/-- What the checks of R328 and R356 leave of a received RoCEv2 frame; in Doze it wakes the module and is discarded (R417). -/
def roceChecked (s : State) (p : Fin 8) (vidOk : Bool) (bytes : Nat) (icrcOk : Bool) : State × Bool :=
  if !s.rdB Reg.NET_PORT_STATUS_LINK p then (s, false)
  else
    let s := s.inc Reg.NET_RX_FRAMES_COUNT p 1
    if 9216 < bytes || !vidOk || p.val < 4 then (s.inc Reg.NET_RX_DROP_COUNT p 1, false)
    else if !icrcOk then (s.inc Reg.NET_RX_CRC_COUNT p 1, false)
    else (s.frameWake, s.memUp && !s.quench)

/-- Bytes as an RDMA READ answers them: those of a line that carries the marker are free. -/
def readAnswer (s : State) (a n : Nat) : List Byte :=
  (span a n).map fun x => if s.linePoison (x / 64) then Config.freeByte (s.free + (x - a)) else s.byte x

/-- The response to an RDMA READ in frames of at most the path MTU under successive PSNs (R328, R357). -/
def readResponse (s : State) (n mtu psn : Nat) (d : List Byte) : State :=
  (List.range (max 1 (ceilDiv d.length mtu))).foldl (fun s i =>
    let part := (d.drop (i * mtu)).take mtu
    s.roceOut n (.roce n 4 ((psn + i) % 2 ^ 24) 0 0 part.length part)) s

/-- A request answered by the responder (R357, R358): refused outside its window or under another R_Key, else performed.
A CE mark is answered with a CNP (R356). A request whose PSN was performed before is answered and not performed again, one
whose PSN is not yet expected is refused; both as RC does (PRESUMED). -/
def rdmaRequest (s : State) (r : RoceReq) (read : Bool) : State :=
  let (s, ok) := s.roceChecked r.port (r.vid.toNat == s.rd Reg.NET_PORT_CFG_VID r.port) r.bytes r.icrcOk
  let n := r.qp.toNat
  match (if ok then s.qpOf n else none) with
  | none => s
  | some q =>
    if q.err then s
    else
      let s := if r.ce then s.roceOut n (.cnp n 0) else s
      let a := r.addr.toNat
      let len := if read then r.length else r.data.length
      let base := q.args.base.toNat
      let ahead := (r.psn.toNat + 2 ^ 24 - q.rq) % 2 ^ 24
      let again := decide (2 ^ 23 ≤ ahead)
      if ahead ≠ 0 && !again then s.roceOut n (.roce n 5 q.rq 0 0 0 [])
      else if r.rkey ≠ q.args.rkey ∨ a < base ∨ base + q.args.bytes.toNat < a + len then s.roceOut n (.roce n 3 q.rq 0 0 0 [])
      else
        let packets := max 1 (ceilDiv len q.args.mtu.toNat)
        let s := if again then s else s.modQp n fun q => { q with rq := (q.rq + packets) % 2 ^ 24 }
        let via : Via := ⟨portDie r.port, some (Fin.ofNat 8 q.args.slot.toNat), false, 1⟩
        if read then ((s.readRange via a len).tickN len).readResponse n q.args.mtu.toNat r.psn.toNat (s.readAnswer a len)
        else (if again then s else s.store via a r.data).roceOut n (.roce n 2 r.psn.toNat 0 0 0 [])

/-- A CNP reduces the rate of its queue pair; by how much the spec does not say, so the lower rate is free (R356). -/
def cnpArrives (s : State) (k : Cnp) : State :=
  let (s, ok) := s.roceChecked k.port (k.vid.toNat == s.rd Reg.NET_PORT_CFG_VID k.port) k.bytes k.icrcOk
  let n := k.qp.toNat
  match (if ok then s.qpOf n else none) with
  | none => s
  | some q => (s.setQp n (some { q with rate := s.choose (max 1 q.rate) })).tick

/-! The requester (R356, R436). -/

/-- One request of at most a path MTU: sent, and kept until it is answered; `dies` gives the die that stages each line of
it. -/
def roceRequest (s : State) (n own entry : Nat) (read : Bool) (place remote key len : Nat) (data : List Byte)
    (dies : List (Fin 2)) : State :=
  match s.qpOf n with
  | none => s
  | some q =>
    let f : Frame := .roce n (b2n read) q.sq remote key len data
    let x : RoceOut := ⟨q.sq, own, entry, read, place, len, f, 0, (dies.count 0, dies.count 1)⟩
    (s.setQp n (some { q with sq := (q.sq + 1) % 2 ^ 24, out := q.out ++ [x] })).roceOut n f

/-- A transfer of `len` bytes cut into requests: the bytes of a write, or the local place of what a read brings; `dies`
gives the die that stages each line of a write. -/
def roceTransfer (s : State) (n own entry : Nat) (read : Bool) (place remote key len : Nat) (data : List Byte)
    (dies : List (Fin 2)) : State :=
  let mtu := ((s.qpOf n).map fun q => q.args.mtu.toNat).getD 4096
  (List.range (ceilDiv len mtu)).foldl (fun s i =>
    let k := min mtu (len - i * mtu)
    s.roceRequest n own entry read (place + i * mtu) (remote + i * mtu) key k ((data.drop (i * mtu)).take k)
      ((dies.drop (i * mtu / 64)).take (mtu / 64))) s

/-- The requests of a checkpoint still unanswered. -/
def roceDue (s : State) (own : Nat) : List RoceOut :=
  s.net.qps.flatMap fun (_, q) => match q with
    | some q => q.out.filter (·.own == own)
    | none => []

/-- Lines that the checkpoint staging partition of a die holds for writes not yet acknowledged (R436). -/
def stageUse (s : State) (die : Fin 2) : Nat :=
  (s.net.qps.flatMap fun (_, q) => match q with
    | some q => q.out.map fun x => if die = 0 then x.staged.1 else x.staged.2
    | none => []).sum

end State

/-- RDMA_WRITE_RECEIVE (R356 to R358). -/
def execRdmaWriteReceive (q : RoceReq) (s : State) : Host.Outcome State Fault Refusal := act s (s.rdmaRequest q false)

/-- RDMA_READ_RECEIVE (R356 to R358). -/
def execRdmaReadReceive (q : RoceReq) (s : State) : Host.Outcome State Fault Refusal := act s (s.rdmaRequest q true)

/-- CNP_RECEIVE (R356). -/
def execCnpReceive (k : Cnp) (s : State) : Host.Outcome State Fault Refusal := act s (s.cnpArrives k)

end Sys2Proof.Machine
end

