-- ==== Sys2Proof/Machine/Mover.lean ====
section
/-!
DEFINITION. The data movers: MOVE and QUANT (spec/05 R133, spec/03). Their reads and writes are made at issue.
-/
namespace Sys2Proof.Machine

open State

/-- The fields in which two descriptors must agree for codes to be copied unchanged: FMT, SENC, BLK, BAXIS and ZMAP. -/
def sameCoding (a b : Nat) : Bool := bits a 73 64 == bits b 73 64 && bits a 75 75 == bits b 75 75

/-- The exact product of a stored value and a number. -/
def SVal.times (v : SVal) (g : Val) : SVal :=
  match v, g with
  | .nan, _ => .nan
  | _, .nan => .nan
  | .inf s, .inf t => .inf (s != t)
  | .inf s, .fin t m _ => if m = 0 then .nan else .inf (s != t)
  | .fin s q _, .inf t => if q = 0 then .nan else .inf (s != t)
  | .fin s q e, .fin t m x => .fin (s != t) (q * (m * m)) (e + 2 * x)

namespace State

/-- Rows of codes, scale codes and zero-map bits from row i0 of one matrix as its copy in another holds them, with what
Sage is told of them (R101, R133, R188). -/
def copyConv (s : State) (src dst : Mat) (i0 h : Nat) : Conv :=
  let re := mdRowExt dst.md
  let ce := mdColExt dst.md
  let grs := span (i0 / re) ((i0 + h + re - 1) / re - i0 / re)
  let gcs := List.range (ceilDiv dst.cols ce)
  { codes := (span i0 h).map fun i => (List.range dst.cols).map (s.codeAt src i)
    scales := if mdNarrow dst.md then grs.map fun g => gcs.map fun c => s.scaleAt src (g * re) (c * ce) else []
    zeros := if mdZmap dst.md then grs.map fun g => gcs.map fun c => s.zmapAt src (g * re) (c * ce) else []
    notes := (span i0 h).flatMap fun i => (List.range dst.cols).map fun j => match s.valueAt src i j with
      | .inf _ => { ConvNote.none with infIn := true }
      | .nan => { ConvNote.none with nanIn := true }
      | .fin .. => ConvNote.none
    amax := (0, 0) }

/-- Whether what a copy reads of a region carries the marker: elements, scale codes or zero map. -/
def copyPoison (s : State) (m : Mat) (r0 c0 h w : Nat) : Bool := s.regionPoison m r0 c0 h w || s.zmapPoison m r0 c0 h w

/-- The accounting of what a copy reads of a region, with the taking of LAST_USE (R178). -/
def readCopy (s : State) (v : Via) (m : Mat) (r0 c0 h w : Nat) : State :=
  readZmap (fun s a n => s.readRange v a n) (s.readRegion v m r0 c0 h w) m r0 c0 h w

/-- The output of a macro-op at a place of its descriptors takes note of values written (R98). -/
def noteOut (s : State) (id i : Nat) (any : Bool) (a : Nat × Int) : State := s.modOp id fun x =>
  { x with outs := x.outs.map fun y => if y.md = i && any then { y with wrote := true, amax := maxSq y.amax a } else y }

/-- What MOVE and QUANT do (R133): a copy of codes, or a decoding and encoding, transposed where asked. -/
def moveRun (s : State) (o : Op) : State :=
  let src := o.mat 0
  let dst := o.mat 1
  let quant := dOpcode o.desc == 0x21
  let trans := quant && bit (dP o.desc 0) 0
  let at_ (i j : Nat) : Nat × Nat := if trans then (j, i) else (i, j)
  let copy := !quant && sameCoding src.md dst.md && mdPts src.md == mdPts dst.md && src.lt == dst.lt
  let s0 := s
  let full : Bool := src.rows != 0 && src.cols != 0
  let bad (i j : Nat) : Bool := s0.cellPoison src (at_ i j).1 (at_ i j).2 || (copy && s0.zmapPoison src i j 1 1)
  let val (i j : Nat) : SVal := s0.valueAt src (at_ i j).1 (at_ i j).2
  let v := { o.via with hint := mdHint src.md }
  let any := full && if copy then s.copyPoison src 0 0 src.rows src.cols else s.regionPoison src 0 0 src.rows src.cols
  let s := if !full then s else if copy then s.readCopy v src 0 0 src.rows src.cols
    else s.readRegion v src 0 0 src.rows src.cols
  let (s, a) := if !full then (s, ((0, 0) : Nat × Int))
    else if copy then
      (s.putNoted o.via o.slot dst 0 0 (s0.copyConv src dst 0 src.rows),
        amaxSq ((List.range src.rows).flatMap fun i => (List.range src.cols).map (val i)))
    else s.writeRegion o.via o.slot dst (if mdRnd dst.md then some (o.ctrs.getD 1 0) else none) (dHeritage o.desc)
      0 0 dst.rows dst.cols val
  let s := if any then (s.opFlag o.id 1).poisonBlocks dst 0 dst.rows dst.cols bad else s
  s.noteOut o.id 1 full a

/-- The plan of MOVE and QUANT. -/
def movePlan (_ : State) (_ : RingId) (d : Nat) : Plan :=
  let trans := dOpcode d == 0x21 && bit (dP d 0) 0
  { roles := [.read, .written]
    checks1 := [(bits (dP d 0) 63 1 != 0, 3)] ++ zeroFrom d 1
    checks4 := fun o =>
      let a := o.mat 0
      let b := o.mat 1
      [(if trans then b.rows != a.cols || b.cols != a.rows else b.rows != a.rows || b.cols != a.cols, 5)]
    extra := fun _ => ([], [])
    start := moveRun }

end State

/-! The meanings of the movers' commands. -/

/-- MOVE (R133). -/
def execMove (r : RingId) (s : State) : Host.Outcome State Fault Refusal :=
  act s (s.issue r 0x20 (fun _ => true) State.movePlan)

/-- QUANT (R133). -/
def execQuant (r : RingId) (s : State) : Host.Outcome State Fault Refusal :=
  act s (s.issue r 0x21 (fun _ => true) State.movePlan)

end Sys2Proof.Machine
end

