-- ==== Sys2Proof/Machine/Moe.lean ====
section
/-!
DEFINITION. Conditional computation (spec/07 R183 to R203): DISPATCH and COMBINE, which run on the general Sprigs of their
die, one macro-op at a time.
-/
namespace Sys2Proof.Machine

open State

/-! The parameter words of DISPATCH and COMBINE (R186, R199). -/

def cRoute (d : Nat) : Nat := bits (dP d 0) 47 0
def cK (d : Nat) : Nat := bits (dP d 1) 3 0
def cTagged (d : Nat) : Bool := bit (dP d 1) 4
def cEloc (d : Nat) : Nat := bits (dP d 1) 31 16
def cNpeer (d : Nat) : Nat := bits (dP d 1) 47 32
def cEtotal (d : Nat) : Nat := bits (dP d 1) 63 48
def cEmap (d : Nat) : Nat := bits (dP d 2) 47 0
def cPcap (d : Nat) : Nat := bits (dP d 3) 31 0
def cScap (d : Nat) : Nat := bits (dP d 3) 63 32
def cRcap (d : Nat) : Nat := bits (dP d 4) 31 0
def cHist (d : Nat) : Nat := bits (dP d 5) 47 0
def cRmap (d : Nat) : Nat := bits (dP d 6) 47 0
def cTags (d : Nat) : Nat := bits (dP d 7) 47 0
def cPcnt (d : Nat) : Nat := bits (dP d 8) 47 0

/-- DISPATCH: overflowing slots spill. -/
def cSpill (d : Nat) : Bool := bit (dP d 1) 5

/-- DISPATCH: SKIP_EN, APPEND, GMUL. -/
def cSkip (d : Nat) : Bool := bit (dP d 1) 6
def cAppend (d : Nat) : Bool := bit (dP d 1) 7
def cGmul (d : Nat) : Bool := bit (dP d 1) 8

/-- COMBINE: ACC and GONE. -/
def cAcc (d : Nat) : Bool := bit (dP d 1) 5
def cGone (d : Nat) : Bool := bit (dP d 1) 6

/-- What step 1 finds of the words that both opcodes share (R186, R195). -/
def moeChecks (d : Nat) : List (Bool × Nat) :=
  [(bits (dP d 0) 63 48 != 0 || bits (dP d 6) 63 48 != 0 || bits (dP d 4) 63 32 != 0 || bits (dP d 1) 15 9 != 0, 3),
   (cK d == 0 || decide (8 < cK d) || (cTagged d && cK d != 1), 3), (cEloc d == 0 || decide (4096 < cEloc d), 3),
   (decide (1024 < cNpeer d) || (cTagged d && cNpeer d != 0), 3), (!cTagged d && cEtotal d == 0, 3),
   (cPcap d == 0 || decide (2 ^ 31 ≤ cPcap d), 3), ((cRcap d == 0) != (cNpeer d == 0), 3),
   (decide (2 ^ 29 < cEloc d * cPcap d) || decide (2 ^ 29 < cEloc d * cScap d) || decide (2 ^ 29 < cNpeer d * cRcap d), 3)] ++
  addrChecks (cRoute d) (if cTagged d then 8 else 4) true ++ addrChecks (cRmap d) 4 true

namespace State

/-! DISPATCH. -/

/-- A slot of the input of a DISPATCH: token, slot, global expert, gate, and whether its record is poisoned (R183,
R192). -/
structure MoeSlot where
  t      : Nat
  j      : Nat
  expert : Nat
  gate   : Nat
  poison : Bool
  deriving DecidableEq, Repr

/-- The slots in the order of R189. -/
def moeSlots (s : State) (d t : Nat) : List MoeSlot :=
  (List.range t).flatMap fun t =>
    if cTagged d then
      let a := cRoute d + 8 * t
      [⟨t, 0, s.peek a 2, 0x3F80, s.poisoned a 8⟩]
    else
      let bad := s.poisoned (cRoute d + 4 * cK d * t) (4 * cK d)
      (List.range (cK d)).map fun j =>
        let a := cRoute d + 4 * (cK d * t + j)
        ⟨t, j, s.peek a 2, s.peek (a + 2) 2, bad⟩

/-- Where a slot goes (R190, R191): KIND and ROW of R195, its local expert or peer, and what makes it dropped. -/
structure Placed where
  slot : MoeSlot
  kind : Nat
  row  : Nat
  dest : Nat
  bad  : Bool
  deriving DecidableEq, Repr

/-- The counts while slots are placed: each local expert's PRIMARY, SPILL, DROPPED and DEMAND, each peer's ROWS and
DROPPED (R193, R194). -/
structure Counts where
  hist : List (Nat × Nat × Nat × Nat)
  peer : List (Nat × Nat)
  deriving DecidableEq, Repr

/-- The entry of the expert map for a global expert. -/
def mapEntry (s : State) (d e : Nat) : Nat := s.peek (cEmap d + 4 * e) 4

/-- Whether an entry of the expert map is valid (R184). -/
def mapOk (d e : Nat) : Bool :=
  bits e 31 23 == 0 && (if bit e 0 then bits e 12 1 == 0 && (cNpeer d == 0 || decide (bits e 22 13 < cNpeer d))
    else decide (bits e 12 1 < cEloc d) && bits e 22 13 == 0)

/-- One slot placed (R185, R189 to R191). A slot whose entry of the expert map carries the marker is dropped as one with a
poisoned record is (R203 names only the record: DESIGN CHOICE). -/
def placeSlot (s : State) (d : Nat) (c : Counts) (x : MoeSlot) : Counts × Placed :=
  let e := s.mapEntry d x.expert
  let out := !cTagged d && decide (cEtotal d ≤ x.expert)
  let marked := x.expert != 0xFFFF && !out && s.poisoned (cEmap d + 4 * x.expert) 4
  if x.poison || marked then (c, ⟨{ x with poison := true }, 4, 0, 0, false⟩)
  else if x.expert = 0xFFFF then (c, if cSkip d then ⟨x, 3, 0, 0, false⟩ else ⟨x, 4, 0, 0, true⟩)
  else if out || (bit e 0 && cNpeer d == 0) then (c, ⟨x, 4, 0, 0, true⟩)
  else if bit e 0 then
    let p := bits e 22 13
    let (rows, drop) := c.peer.getD p (0, 0)
    if rows + drop < cRcap d then
      ({ c with peer := modAt (fun _ => (rows + 1, drop)) p c.peer }, ⟨x, 2, p * cRcap d + rows + drop, p, false⟩)
    else ({ c with peer := modAt (fun _ => (rows, drop + 1)) p c.peer }, ⟨x, 4, 0, p, false⟩)
  else
    let l := bits e 12 1
    let (a, b, f, n) := c.hist.getD l (0, 0, 0, 0)
    let set (h : Nat × Nat × Nat × Nat) : Counts := { c with hist := modAt (fun _ => h) l c.hist }
    if n < cPcap d then (set (a + 1, b, f, n + 1), ⟨x, 0, l * cPcap d + n, l, false⟩)
    else if cSpill d && decide (n < cPcap d + cScap d) then
      (set (a, b + 1, f, n + 1), ⟨x, 1, l * cScap d + (n - cPcap d), l, false⟩)
    else (set (a, b, f + 1, n + 1), ⟨x, 4, 0, l, false⟩)

/-- Every slot placed. -/
def placeAll (s : State) (d : Nat) (c : Counts) (xs : List MoeSlot) : Counts × List Placed :=
  xs.foldl (fun (c, ps) x => let (c, p) := s.placeSlot d c x; (c, ps ++ [p])) (c, [])

/-- The starting counts (R193). -/
def moeStart (s : State) (d : Nat) : Counts :=
  if !cAppend d then ⟨List.replicate (cEloc d) (0, 0, 0, 0), List.replicate (cNpeer d) (0, 0)⟩
  else ⟨(List.range (cEloc d)).map fun e =>
      let h := s.peek (cHist d + 16 * e) 16
      (bits h 31 0, bits h 63 32, bits h 95 64, bits h 127 96),
    (List.range (cNpeer d)).map fun p =>
      let h := s.peek (cPcnt d + 8 * p) 8
      (bits h 31 0, bits h 63 32)⟩

/-- The row of a slot as it is written to its place, read as state `s` holds it (R185, R188). -/
def dispatchConv (s : State) (o : Op) (p : Placed) : Conv :=
  let src := o.mat 0
  let dst := o.mat (p.kind + 1)
  if cGmul o.desc then
    let g := bf16.decode p.slot.gate
    s.convFor o.slot dst (if mdRnd dst.md then some (o.ctrs.getD (p.kind + 1) 0) else none) false p.row 0 1 dst.cols
      fun _ j => (f32 (convWide fp32 .nearest false ((s.valueAt src p.slot.t j).times g)).1).scaled 0
  else s.copyConv src dst p.slot.t 1

/-- Whether the row that a slot copies carries the marker (R203). -/
def dispatchBad (s : State) (o : Op) (p : Placed) : Bool :=
  let src := o.mat 0
  decide (p.kind < 3) && src.cols != 0 && if cGmul o.desc then s.regionPoison src p.slot.t 0 1 src.cols
    else s.copyPoison src p.slot.t 0 1 src.cols

/-- The rows of a DISPATCH written to one of its outputs, as state `s0` holds them before any LAST_USE take, rows
ascending, with a marker where they carry one (R178, R179, R203). -/
def dispatchRows (s0 s : State) (o : Op) (ps : List Placed) (kind : Nat) : State :=
  let dst := o.mat (kind + 1)
  let rows := (List.range dst.rows).filterMap fun r => ps.find? fun p => p.kind == kind && p.row == r
  let cs := rows.map fun p => (p.row, s0.dispatchConv o p)
  let s := s.putConvs { o.via with hint := mdHint dst.md } dst 0 cs
  let s := cs.foldl (fun s x => s.sageReport o.slot (mdFmt dst.md) x.2.notes x.2.scales.flatten) s
  rows.foldl (fun s p => if s0.dispatchBad o p then (s.poisonRegion dst p.row 0 1 dst.cols).opFlag o.id 1 else s) s

/-- A slot's row read, its gate, tag and route entry written, and its counters (R178, R185 to R195, R203). -/
def dispatchSlot (s : State) (o : Op) (p : Placed) : State :=
  let d := o.desc
  let x := p.slot
  let src := o.mat 0
  let entry := cRmap d + 4 * (cK d * x.t + x.j)
  let s := s.store o.via entry (toBytes 4 (p.kind + 8 * p.row))
  let slot := o.slot
  if p.kind = 4 then
    let s := if x.poison then (s.poisonRange entry 4).opFlag o.id 1 else s
    let s := if cTagged d then s else s.store o.via (cRoute d + 4 * (cK d * x.t + x.j) + 2) [0, 0]
    let s := s.inc Reg.STR_COND_DROPPED_COUNT slot 1
    if !p.bad then s
    else
      let now := (s.opOf o.id).getD o
      let s := s.inc Reg.STR_COND_BADIDX_COUNT slot 1
      if bit now.seen 3 then s
      else (s.modOp o.id fun y => { y with seen := y.seen ||| 8 }).raiseLong 0x0304 o.ring (some slot) (dSeq d) x.t
  else if p.kind = 3 then s.inc Reg.STR_COND_SKIPPED_COUNT slot 1
  else
    let v := { o.via with hint := mdHint src.md }
    let s := if cGmul d then s.readRegion v src x.t 0 1 src.cols else s.readCopy v src x.t 0 1 src.cols
    let s := if p.kind = 2 then s.store o.via (cTags d + 8 * p.row) (toBytes 8 (x.expert + x.t * 2 ^ 16 + x.j * 2 ^ 48)) else s
    let s := if p.kind = 1 then s.inc Reg.STR_COND_SPILLED_COUNT slot 1 else s
    s.inc Reg.STR_COND_ROUTED_COUNT slot 1

/-- The entries of the expert map that a DISPATCH reads and validates: the whole map, or in TAGGED mode, where E_TOTAL is
ignored and the map's length unknown, the entries that its tags name (R184, R186; DESIGN CHOICE). -/
def mapReads (s : State) (d t : Nat) : List Nat :=
  if cTagged d then (((s.moeSlots d t).filter fun x => !x.poison && x.expert != 0xFFFF).map (·.expert)).eraseDups
  else List.range (cEtotal d)

/-- What DISPATCH does (R184 to R197). -/
def dispatchRun (s : State) (o : Op) : State :=
  let d := o.desc
  let done (s : State) : State := s.modOp o.id fun x => { x with work := .made }
  let t := (o.mat 0).rows
  let es := s.mapReads d t
  let marked (e : Nat) : Bool := s.poisoned (cEmap d + 4 * e) 4
  let wrong := es.any fun e => !marked e && !mapOk d (s.mapEntry d e)
  let bad := es.any marked || (cAppend d && (s.poisoned (cHist d) (16 * cEloc d) ||
    (cNpeer d != 0 && s.poisoned (cPcnt d) (8 * cNpeer d))))
  let s := (es.map fun e => (cEmap d + 4 * e) / 64).eraseDups.foldl (fun s l => s.readLine o.via l) s
  let s := if bad then s.opFlag o.id 1 else s
  if wrong then done ((s.opFlag o.id 4).modOp o.id fun x => { x with detail := 3 })
  else
    let xs := s.moeSlots d t
    let s := s.readRange o.via (cRoute d) (if cTagged d then 8 * t else 4 * cK d * t)
    let (c, ps) := s.placeAll d (s.moeStart d) xs
    let s0 := s
    let s := ps.foldl (fun s p => s.dispatchSlot o p) s
    let s := [0, 1, 2].foldl (fun s k => dispatchRows s0 s o ps k) s
    let s := (c.hist.zipIdx).foldl (fun s ((a, b, f, n), e) =>
      s.store o.via (cHist d + 16 * e) (toBytes 16 (a + b * 2 ^ 32 + f * 2 ^ 64 + n * 2 ^ 96))) s
    let s := (c.peer.zipIdx).foldl (fun s ((a, f), p) => s.store o.via (cPcnt d + 8 * p) (toBytes 8 (a + f * 2 ^ 32))) s
    done s

/-! COMBINE. -/

/-- One element of a row of Y in ROUTER mode (R200), each step rounded once to FP32; `start` is its starting value. -/
def combineElem (s : State) (o : Op) (t h : Nat) (start : SVal) : SVal :=
  let d := o.desc
  (List.range (cK d)).foldl (fun acc j =>
    let e := s.peek (cRmap d + 4 * (cK d * t + j)) 4
    let kind := bits e 2 0
    let row := bits e 31 3
    if kind = 4 || (kind = 3 && dMd d 4 == 0) then acc
    else
      let g := if cGone d then 0x3F800000 else s.peek (cRoute d + 4 * (cK d * t + j) + 2) 2 * 2 ^ 16
      let src := o.mat (if kind = 3 then 4 else kind + 1)
      let r := if kind = 3 then t else row
      let v := if 4 < kind || src.rows ≤ r then (f32 (s.choose (2 ^ 32))).scaled 0 else s.valueAt src r h
      (f32 ((v.times (f32 g)).sum32 acc)).scaled 0) start

/-- The row that a route entry names, and its matrix; none where it names none. -/
def routeRow (s : State) (o : Op) (i t : Nat) : Option (Mat × Nat) :=
  let e := s.peek (cRmap o.desc + 4 * i) 4
  let kind := bits e 2 0
  if kind = 4 || (kind = 3 && dMd o.desc 4 == 0) then none
  else
    let src := o.mat (if kind = 3 then 4 else kind + 1)
    let r := if kind = 3 then t else bits e 31 3
    if 4 < kind || src.rows ≤ r then none else some (src, r)

/-- Whether a row of Y consumes poison (R203). -/
def combineBad (s : State) (o : Op) (t : Nat) : Bool :=
  let d := o.desc
  let one (i : Nat) : Bool := s.poisoned (cRmap d + 4 * i) 4 || match s.routeRow o i t with
    | some (m, r) => (m.cols != 0 && s.regionPoison m r 0 1 m.cols) || (!cTagged d && !cGone d && s.poisoned (cRoute d + 4 * i) 4)
    | none => false
  (List.range (cK d)).any fun j => one (cK d * t + j)

/-- What COMBINE does (R199 to R203). -/
def combineRun (s : State) (o : Op) : State :=
  let d := o.desc
  let y := o.mat 0
  let old := { y with lt := o.olds.getD 0 0 }
  let s0 := s
  let tick' := (List.range (y.rows * cK d)).any fun i =>
    let kind := s.peek (cRmap d + 4 * i) 1 % 8
    (s.routeRow o i (i / cK d)).isNone && kind != 4 && !(kind == 3 && dMd d 4 == 0)
  let val (t h : Nat) : SVal :=
    if cTagged d then
      let e := s0.peek (cRmap d + 4 * t) 4
      match s0.routeRow o t t with
      | some (m, r) => s0.valueAt m r h
      | none => if bits e 2 0 = 4 then (f32 0).scaled 0 else (f32 (s0.choose (2 ^ 32))).scaled 0
    else
      s0.combineElem o t h (if cAcc d then s0.valueAt old t h else (f32 0).scaled 0)
  let rows := (List.range y.rows).filter (s.combineBad o)
  let was (t h : Nat) : Bool := cAcc d && !cTagged d && s0.cellPoison y t h
  let accBad := y.cols != 0 && cAcc d && !cTagged d && s.regionPoison y 0 0 y.rows y.cols
  let s := (List.range (y.rows * cK d)).foldl (fun s i => match s0.routeRow o i (i / cK d) with
    | some (m, r) => s.readRegion { o.via with hint := mdHint m.md } m r 0 1 m.cols
    | none => s) (s.readRange o.via (cRmap d) (4 * y.rows * cK d))
  let gates := if cTagged d || cGone d then [] else
    (List.range (y.rows * cK d)).filter fun i => (s0.routeRow o i (i / cK d)).isSome
  let s := ((gates.map fun i => (cRoute d + 4 * i) / 64).eraseDups).foldl (fun s l => s.readLine o.via l) s
  let full : Bool := y.rows != 0 && y.cols != 0
  let s := if full && cAcc d && !cTagged d then s.readRegion { o.via with hint := mdHint y.md } y 0 0 y.rows y.cols else s
  let (s, a) := if full then
      s.writeRegion o.via o.slot y (if mdRnd y.md then some (o.ctrs.getD 0 0) else none) false 0 0 y.rows y.cols val
    else (s, (0, 0))
  let s := if rows ≠ [] || accBad then
      (s.opFlag o.id 1).poisonBlocks y 0 y.rows y.cols fun t h => rows.contains t || was t h
    else s
  let s := if tick' then s.tick else s
  (s.noteOut o.id 0 full a).modOp o.id fun x => { x with work := .made }

/-! Issue. -/

/-- Whether an earlier macro-op holds the general Sprigs of a die (R187). -/
def generalHeld (s : State) (o : Op) : Bool :=
  s.ops.any fun x => decide (x.id < o.id) && x.die == o.die && !x.ready &&
    ([0x18, 0x19].contains (dOpcode x.desc) || (dOpcode x.desc == 0x31 && !bit (dP x.desc 1) 38))

/-- A macro-op of the general Sprigs runs, or waits its turn, marked by `.turn` (R187). -/
def generalStart (run : State → Op → State) (s : State) (o : Op) : State :=
  if s.generalHeld o then s.modOp o.id fun x => { x with work := .turn } else run s o

/-- Whether a descriptor's blocks are row-local and it has no per-tensor scale (R188). -/
def rowLocal (m : Nat) : Bool := !mdPts m && (!mdNarrow m || (!md2d m && mdAxis m == 0))

/-- The plan of DISPATCH (R186, R188, R195, R197). -/
def dispatchPlan (s : State) (_ : RingId) (d : Nat) : Plan :=
  let roles : List Role := [.read, .written, if cSpill d then .written else .absent, if cNpeer d = 0 then .absent else .written, .absent]
  let md (i : Nat) : Nat := s.peek (dMd d i) 128
  let used := (List.range 4).filter fun i => roles.getD i .absent != .absent
  { roles := roles
    checks1 := moeChecks d ++ [((cTagged d && (cSkip d || cGmul d)), 3),
        (bits (dP d 2) 63 48 != 0 || bits (dP d 5) 63 48 != 0 || bits (dP d 7) 63 48 != 0 || bits (dP d 8) 63 48 != 0, 3),
        ((cScap d == 0) == cSpill d, 3), (cNpeer d == 0 && (cTags d != 0 || cPcnt d != 0), 3)] ++
      addrChecks (cEmap d) 4 true ++ addrChecks (cHist d) 16 true ++ addrChecks (cTags d) 8 (cNpeer d != 0) ++
      addrChecks (cPcnt d) 8 (cNpeer d != 0)
    checksR := [(used.any (fun i => !rowLocal (md i)), 8), (!cGmul d && used.any (fun i => !sameCoding (md 0) (md i)), 8)]
    checks4 := fun o =>
      let h := (o.mat 0).cols
      let shape (i n : Nat) : Bool := o.shapes.getD i (0, 0) != (n, h)
      [(shape 1 (cEloc d * cPcap d), 5), (cSpill d && shape 2 (cEloc d * cScap d), 5), (cNpeer d != 0 && shape 3 (cNpeer d * cRcap d), 5)]
    extra := fun o =>
      let t := (o.mat 0).rows
      ([(cEmap d, if cTagged d then min (2 ^ 18) (spaceEnd - cEmap d) else 4 * cEtotal d)],
       [(cRoute d, if cTagged d then 8 * t else 4 * cK d * t), (cHist d, 16 * cEloc d), (cRmap d, 4 * cK d * t),
        (cTags d, 8 * cNpeer d * cRcap d), (cPcnt d, 8 * cNpeer d)].filter (·.2 != 0))
    start := generalStart dispatchRun }

/-- The plan of COMBINE (R199, R202). -/
def combinePlan (_ : State) (_ : RingId) (d : Nat) : Plan :=
  { roles := [if cAcc d && !cTagged d then .accumulated else .written, .read, if cScap d = 0 then .absent else .read,
      if cNpeer d = 0 then .absent else .read, if dMd d 4 = 0 then .absent else .read]
    checks1 := moeChecks d ++ [(bits (dP d 1) 8 7 != 0 || dP d 2 != 0 || dP d 5 != 0 || dP d 7 != 0 || dP d 8 != 0, 3)]
    checks4 := fun o =>
      let y := o.mat 0
      let shape (i n : Nat) : Bool := o.shapes.getD i (0, 0) != (n, y.cols)
      [(shape 1 (cEloc d * cPcap d), 5), (cScap d != 0 && shape 2 (cEloc d * cScap d), 5),
       (cNpeer d != 0 && shape 3 (cNpeer d * cRcap d), 5), (dMd d 4 != 0 && shape 4 y.rows, 5)]
    extra := fun o =>
      let t := (o.mat 0).rows
      ([(cRoute d, if cTagged d then 8 * t else 4 * cK d * t), (cRmap d, 4 * cK d * t)].filter (·.2 != 0), [])
    start := generalStart combineRun }

end State

/-! The meanings of the commands. -/

/-- DISPATCH (R186). -/
def execDispatch (r : RingId) (s : State) : Host.Outcome State Fault Refusal :=
  act s (s.issue r 0x18 (fun _ => true) State.dispatchPlan)

/-- COMBINE (R199). -/
def execCombine (r : RingId) (s : State) : Host.Outcome State Fault Refusal :=
  act s (s.issue r 0x19 (fun _ => true) State.combinePlan)

end Sys2Proof.Machine
end

