-- ==== Sys2Proof/Machine/NetOps.lean ====
section
/-!
DEFINITION. The transport's macro-ops (spec/12 R345 to R353): SEND, RECV and REDUCE_SEND with its three collectives.
-/
namespace Sys2Proof.Machine

open State

namespace State

/-! SEND (R345). -/

/-- The bytes that a SEND moves: BYTES, or ROW_BYTES for each counted row. -/
def sendBytes (s : State) (d : Nat) : Nat :=
  let a := bits (dP d 5) 47 0
  if a = 0 then bits (dP d 2) 39 0 else bits (dP d 6) 31 0 * s.peek a 4

/-- Whether the count of a SEND is still to be written by an earlier macro-op of its ring. -/
def sendWaits (s : State) (r : RingId) (d : Nat) : Bool :=
  let a := bits (dP d 5) 47 0
  a != 0 && s.ringWrites r a 4

/-- A SEND's packets leave for the peer. -/
def sendStart (s : State) (o : Op) : State :=
  let d := o.desc
  let n := o.lens.getD 0 0
  let src := bits (dP d 0) 47 0
  let p3 := dP d 3
  let peer := o.lens.getD 1 0
  let (s, id) := s.takeOpId
  let pkts := s.dataPackets o.id id (BitVec.ofNat 16 peer) (bits p3 17 16) (bits p3 63 48) (bits p3 47 32) (bits (dP d 4) 31 0)
    src (bits (dP d 1) 47 0) n
  let s := if n ≠ 0 && s.poisoned src n then s.opFlag o.id 1 else s
  ((s.readRange o.via src n).modOp o.id fun x => { x with work := .engine pkts.length }).transmit peer (bits p3 17 16) pkts

/-- The plan of a SEND. -/
def sendPlan (s : State) (r : RingId) (d : Nat) : Plan :=
  let p3 := dP d 3
  let slot := (ringSlot r).val
  let cnt := bits (dP d 5) 47 0
  let n := s.sendBytes d
  let cap := if bits (dP d 2) 39 0 = 0 then 2 ^ 40 - 1 else bits (dP d 2) 39 0
  { roles := []
    checks1 := [(bits (dP d 0) 63 48 != 0 || bits (dP d 1) 63 48 != 0 || bits (dP d 5) 63 48 != 0 || bits (dP d 2) 63 40 != 0 ||
        bits (dP d 4) 63 32 != 0 || bits (dP d 6) 63 32 != 0 || bits p3 31 18 != 0 || bits p3 17 16 == 1, 3),
        (decide (s.rd Reg.NET_SLOT_PEER_LEN slot ≤ bits p3 15 0), 3)] ++
      addrChecks (bits (dP d 0) 47 0) 1 false ++ addrChecks (bits (dP d 1) 47 0) 1 false ++ addrChecks cnt 4 false ++ zeroFrom d 7
    checksR := [(!s.peerValid slot (bits p3 15 0), 3)]
    checks4 := fun _ => [(cnt != 0 && decide (cap < n), 4)]
    look := (if cnt = 0 || cnt % 4 ≠ 0 || addrBad cnt then [] else [(cnt, 4)]) ++ s.peerLook slot (bits p3 15 0)
    extra := fun _ => ([(bits (dP d 0) 47 0, n), (cnt, if cnt = 0 then 0 else 4)].filter (·.2 != 0), [])
    start := sendStart
    note := [n, s.peerEntry slot (bits p3 15 0)] }

/-! RECV (R346). -/

/-- The plan of a RECV; it completes by its ring's ledger. -/
def recvPlan (_ : State) (_ : RingId) (d : Nat) : Plan :=
  let buf := bits (dP d 1) 47 0
  let n := bits (dP d 2) 39 0
  .bare ([(bits (dP d 0) 63 48 != 0 || bits (dP d 0) 47 32 == 0 || bits (dP d 1) 63 48 != 0 || bits (dP d 2) 63 40 != 0, 3),
      ((buf == 0) != (n == 0), 3)] ++ addrChecks buf 1 false ++ zeroFrom d 3)
    (fun _ => ([], if buf = 0 then [] else [(buf, n)])) fun s o => s.modOp o.id fun x => { x with work := .engine 1 }

/-! Collectives (R349 to R352). -/

/-- The entry of a collective group of a slot. -/
def groupEntry (s : State) (slot g : Nat) : Nat := s.peek (s.rd Reg.NET_SLOT_COLL_BASE slot + 16 * g) 16

/-- The peer index of the next member of a group. -/
def succIndex (s : State) (e : Nat) : Nat :=
  let n := bits e 10 0
  s.peek (bits e 111 64 + 2 * ((bits e 20 11 + 1) % n)) 2

/-- What a macro-op of a group reads of it: its entry, its member list, and its successor's peer entry. -/
def groupLook (s : State) (slot g : Nat) : List (Nat × Nat) :=
  let e := s.groupEntry slot g
  let at_ := s.rd Reg.NET_SLOT_COLL_BASE slot + 16 * g
  if s.rd Reg.NET_SLOT_COLL_LEN slot ≤ g then []
  else (at_, 16) ::
    (if s.poisoned at_ 16 || addrBad (bits e 111 64) || decide (bits e 10 0 < 2) || decide (1024 < bits e 10 0) then []
     else (bits e 111 64, 2 * bits e 10 0) ::
      if s.poisoned (bits e 111 64) (2 * bits e 10 0) then [] else s.peerLook slot (s.succIndex e))

/-- What is wrong with a group's entry, or with its successor (R349). -/
def groupBad (s : State) (slot g : Nat) : Bool :=
  let e := s.groupEntry slot g
  decide (s.rd Reg.NET_SLOT_COLL_LEN slot ≤ g) || decide (bits e 10 0 < 2) || decide (1024 < bits e 10 0) ||
    decide (bits e 10 0 ≤ bits e 20 11) || bits e 31 21 != 0 || bits e 127 112 != 0 || bits e 111 64 % 2 != 0 ||
    addrBad (bits e 111 64) || !s.peerValid slot (s.succIndex e)

/-- A collective over a group, whose entry `e` and successor's peer entry `succ` were read at issue, takes its sequence
number and begins (R351 to R353, R364); the first on a group carries 1. -/
def collStart (s : State) (e succ own : Nat) (stats : Bool) (slot : Fin 8) (g kind : Nat) (bf16 : Bool) (hint src dst bytes : Nat) :
    State :=
  let key := slot.val * 2 ^ 17 + g
  let n := Tab.get (fun _ => 0) s.net.seqs key
  let seqs := Tab.set (fun _ => 0) s.net.seqs key (n + 1)
  { s with net := { s.net with seqs := seqs } }.collBegin {
    own := own, stats := stats, slot := slot.val, group := g, seq := (n + 1) % 2 ^ 16, size := bits e 10 0, rank := bits e 20 11, kind := kind
    bf16 := bf16, src := src, dst := dst, bytes := bytes, unit := bits e 47 32, epoch := bits e 63 48
    succ := succ, hint := hint, reduced := [], final := [], poison := false }

/-- The plan of a REDUCE_SEND (R350). -/
def reducePlan (s : State) (r : RingId) (d : Nat) : Plan :=
  let p3 := dP d 3
  let g := bits p3 15 0
  let slot := ringSlot r
  let op := bits p3 17 16
  let e := s.groupEntry slot g
  let src := bits (dP d 0) 47 0
  let dst := bits (dP d 1) 47 0
  let n := bits (dP d 2) 39 0
  let size := bits e 10 0
  let es := if bit p3 18 then 2 else 4
  let z := if op = 2 then n / max size 1 else es * ceilDiv n (es * max size 1)
  let own := min ((bits e 20 11 + 1) * z) n - min (bits e 20 11 * z) n
  let rd := if op = 2 then z else n
  let wr := if op = 0 then own else n
  let last := bits p3 20 19 == 3
  { roles := []
    checks1 := [(bits (dP d 0) 63 48 != 0 || bits (dP d 1) 63 48 != 0 || bits (dP d 2) 63 40 != 0 || bits p3 63 21 != 0 || op == 3, 3),
        (decide (s.rd Reg.NET_SLOT_COLL_LEN slot ≤ g), 3)] ++
      addrChecks src 1 false ++ addrChecks dst 1 false ++ zeroFrom d 4
    checks4 := fun _ => []
    checksR := [(s.groupBad slot g, 3), (if op = 2 then n % max size 1 != 0 else n % es != 0, 5)]
    look := s.groupLook slot g
    note := [e, s.peerEntry slot (s.succIndex e)]
    extra := fun _ =>
      (if last then [] else [(src, rd)].filter (·.2 != 0), ((if last then [(src, rd)] else []) ++ [(dst, wr)]).filter (·.2 != 0))
    start := fun s o => (s.modOp o.id fun x => { x with work := .engine 1 }).collStart (o.lens.getD 0 0) (o.lens.getD 1 0) o.id false slot g op (bit p3 18)
      (bits p3 20 19) src dst n }

end State

/-! The meanings of the commands. -/

/-- SEND (R345). -/
def execSend (r : RingId) (s : State) : Host.Outcome State Fault Refusal :=
  act s (s.issueUnless State.sendWaits r 0x28 (fun _ => true) State.sendPlan)

/-- RECV (R346). -/
def execRecv (r : RingId) (s : State) : Host.Outcome State Fault Refusal :=
  act s (s.issue r 0x29 (fun _ => true) State.recvPlan)

/-- REDUCE_SCATTER: a REDUCE_SEND with OP 0, or with the reserved OP 3, which completes with BOUND_ERR (R350). -/
def execReduceScatter (r : RingId) (s : State) : Host.Outcome State Fault Refusal :=
  act s (s.issue r 0x2A (fun d => bits (dP d 3) 17 16 == 0 || bits (dP d 3) 17 16 == 3) State.reducePlan)

/-- ALL_REDUCE: a REDUCE_SEND with OP 1 (R350). -/
def execAllReduce (r : RingId) (s : State) : Host.Outcome State Fault Refusal :=
  act s (s.issue r 0x2A (fun d => bits (dP d 3) 17 16 == 1) State.reducePlan)

/-- ALL_GATHER: a REDUCE_SEND with OP 2 (R350). -/
def execAllGather (r : RingId) (s : State) : Host.Outcome State Fault Refusal :=
  act s (s.issue r 0x2A (fun d => bits (dP d 3) 17 16 == 2) State.reducePlan)

end Sys2Proof.Machine
end

