-- ==== Sys2Proof/Machine/Update.lean ====
section
/-!
DEFINITION. The update engine (spec/09 R248 to R266): RUN_SPRIG, the layer table, UPDATE and its arming, chunks and their
handlers, the statistics all-reduce, clipping, the APPLY handler, outcomes and flips, and disarming. The reference rule's
own passes are in RefRule.lean, the Sprig instructions in Sprig.lean.
-/
namespace Sys2Proof.Machine

open State

/-! The layer table (R249, R250); `e` is an entry's 1,024 bits, `p` a parity. -/

def lGrad (e : Nat) : Nat := bits e 47 0
def lHome (e : Nat) : Nat := bits e 50 48
def lBf16 (e : Nat) : Bool := bit e 51
def lPrecond (e : Nat) : Bool := bit e 52
def lSparse (e : Nat) : Bool := bit e 53
def lParity (e : Nat) : Nat := bits e 54 54
def lGroup (e : Nat) : Nat := bits e 79 64
def lCrows (e : Nat) : Nat := bits e 95 80
def lRows (e : Nat) : Nat := bits e 127 96
def lCols (e : Nat) : Nat := bits e 159 128
def lRow0 (e : Nat) : Nat := bits e 191 160
def lRtot (e : Nat) : Nat := bits e 223 192
def lArg (e : Nat) : Nat := bits e 319 304
def lMaster (e p : Nat) : Nat := if p = 0 then bits e 303 256 else bits e 367 320
def lMom (e p : Nat) : Nat := if p = 0 then bits e 431 384 else bits e 495 448
def lVec (e p : Nat) : Nat := if p = 0 then bits e 559 512 else bits e 623 576
def lCcmd (e p : Nat) : Nat := if p = 0 then bits e 687 640 else bits e 751 704
def lLive (e : Nat) : Nat := bits e 815 768
def lScr (e : Nat) : Nat := bits e 879 832
def lMeta (e : Nat) : Nat := bits e 943 896
def lPitch (e : Nat) : Nat := bits e 991 960

/-- x rounded up to a multiple of 64. -/
def up64 (x : Nat) : Nat := ceilDiv x 64 * 64

/-- The 64-column blocks of a layer. -/
def lBlocks (e : Nat) : Nat := ceilDiv (lCols e) 64

/-- Bytes of an element of the gradient. -/
def lWidth (e : Nat) : Nat := if lBf16 e then 2 else 4

/-- Bytes of the reduce region: all of SCR before r (R250). -/
def lReduce (e : Nat) : Nat := if lPrecond e then up64 (4 * lCols e + 8) + 16384 * lBlocks e else 4 * lCols e + 8

/-- The address of r in SCR. -/
def lRsums (e : Nat) : Nat := lScr e + up64 (lReduce e)

/-- Offsets in a vector state buffer of vc, of svr, and of the blocks H. -/
def vcOff (e : Nat) : Nat := up64 (4 * lRows e)
def svrOff (e : Nat) : Nat := vcOff e + up64 (4 * lCols e)
def hOff (e : Nat) : Nat := svrOff e + 64

/-- Bytes of a vector state buffer. -/
def vecLen (e : Nat) : Nat := if lPrecond e then hOff e + 16384 * lBlocks e else svrOff e + 8

/-- Where the Trough stands for a Sprig's loads: the gradient line at address a that the Trough holds is read at
troughBase + a. R255 gives no addresses of the Trough; these lie outside the logical device space (DESIGN CHOICE). -/
def troughBase : Nat := 2 ^ 47

/-- Chunks of a layer (R253). -/
def lChunks (e : Nat) : Nat := ceilDiv (lRows e) (max 1 (lCrows e))

/-- The bytes of chunk c within the gradient shard: first and one past the last. -/
def chunkBytes (e c : Nat) : Nat × Nat :=
  (c * lCrows e * lCols e * lWidth e, min ((c + 1) * lCrows e) (lRows e) * lCols e * lWidth e)

/-! Schedule group entries (R257). -/

def gKnots (x : Nat) : Nat := bits x 47 0
def gNk (x : Nat) : Nat := bits x 53 48 + 1
def gFrozen (x : Nat) : Bool := bit x 54

/-- The knots of a schedule entry from its knot list: steps and FP32 codes (R257). -/
def knotList (x k : Nat) : List (Nat × Nat) := (List.range (gNk x)).map fun i =>
  (bits k (64 * i + 31) (64 * i), bits k (64 * i + 63) (64 * i + 32))

/-- The learning rate at step n from knots of rising steps: their steps and FP32 codes (R257). -/
def learnRate (n : Nat) : List (Nat × Nat) → Nat
  | [] => 0
  | [(_, lr)] => lr
  | (s0, a) :: (s1, b) :: rest =>
    if n ≤ s0 then a
    else if s1 ≤ n then learnRate n ((s1, b) :: rest)
    else
      let (ma, ea) := fp32.magOf (a % 2 ^ 31)
      let (mb, eb) := fp32.magOf (b % 2 ^ 31)
      let x := min ea eb
      let num := (ma <<< (ea - x).toNat) * (s1 - n) + (mb <<< (eb - x).toNat) * (n - s0)
      let den := s1 - s0
      if num = 0 then 0 else f32Mag ((num.log2 : Int) - den.log2 + x) (ratio num den x)

/-- The FP32 code of 1.0. -/
def one32 : Nat := 0x3F800000

/-- The clip factor for a squared norm (R262): min(1, GCLIP / √N2), or 1 for a norm of zero. -/
def clipFactor (gclip n2 : Nat) : Nat :=
  if n2 % 2 ^ 31 = 0 then one32
  else
    let q := f32Div gclip (f32Sqrt n2)
    if (f32 q).lt (f32 one32) then q else one32

/-! The parameter words of UPDATE (R251). -/

def uTab (d : Nat) : Nat := bits (dP d 0) 47 0
def uFirst (d : Nat) : Nat := bits (dP d 1) 15 0
def uLayers (d : Nat) : Nat := bits (dP d 1) 28 16
def uClip (d : Nat) : Nat := bits (dP d 1) 30 29
def uExt (d : Nat) : Bool := bit (dP d 1) 31
def uSched (d : Nat) : Nat := bits (dP d 2) 47 0
def uNorm (d : Nat) : Nat := bits (dP d 3) 47 0
def uGclip (d : Nat) : Nat := bits (dP d 4) 31 0

/-- The address of the i-th entry that an UPDATE arms. -/
def uEntry (d i : Nat) : Nat := uTab d + 128 * (uFirst d + i)

namespace State

/-! Sprigs. -/

/-- A Sprig changed. -/
def modSprig (s : State) (n : SprigId) (f : Sprig → Sprig) : State := { s with sprigs := s.sprigs.set n (f s.sprigs[n]) }

/-- The die of a Sprig: port Sprigs 0 to 7 stand at their ports, general Sprigs 8 to 15 on West and 16 to 23 on East. -/
def sprigDie (n : SprigId) : Fin 2 := if n.val < 8 then Fin.ofNat 2 (n.val / 2) else if n.val < 16 then 0 else 1

/-- The home Sprig of a layer. -/
def homeSprig (e : Nat) : SprigId := Fin.ofNat 24 (lHome e)

/-! RUN_SPRIG (R248). -/

def rPbytes (d : Nat) : Nat := bits (dP d 1) 16 0
def rOff (d : Nat) : Nat := bits (dP d 1) 29 17
def rMask (d : Nat) : Nat := bits (dP d 1) 37 30
def rPort (d : Nat) : Bool := bit (dP d 1) 38
def rLoadOnly (d : Nat) : Bool := bit (dP d 1) 39
def rNiv (d : Nat) : Nat := bits (dP d 1) 44 40
def rList (d : Nat) : Nat := bits (dP d 8) 47 0

/-- The Sprigs that a RUN_SPRIG of a die names, in order. -/
def namedSprigs (die : Fin 2) (d : Nat) : List SprigId :=
  ((List.range 8).filter (bit (rMask d))).map fun n => Fin.ofNat 24 (if rPort d then n else 8 + 8 * die.val + n)

/-- The interval list of a RUN_SPRIG. -/
def ivals (s : State) (d : Nat) : List Nat := (List.range (rNiv d)).map fun i => s.peek (rList d + 16 * i) 16

/-- Whether a RUN_SPRIG waits at issue: an UPDATE in flight names a layer homed on a port Sprig it loads (R248). -/
def runWaits (s : State) (r : RingId) (d : Nat) : Bool :=
  rPort d && s.ops.any fun o => dOpcode o.desc == 0x30 && (List.range (uLayers o.desc)).any fun i =>
    (namedSprigs (ringDie r) d).contains (homeSprig (s.peek (uEntry o.desc i) 128))

/-- Bytes put into an instruction memory. -/
def imemPut (t : Tab Byte) (a : Nat) (bs : List Byte) : Tab Byte :=
  (bs.zipIdx).foldl (fun t (b, i) => Tab.set noByte t (a + i) b) t

/-- A RUN_SPRIG loads its image and starts its program on each named Sprig (R248, R320). -/
def sprigRun (s : State) (o : Op) : State :=
  let d := o.desc
  let prog := bits (dP d 0) 47 0
  let image := s.bytesAt prog (rPbytes d)
  let bad := s.poisoned prog (rPbytes d)
  let ns := namedSprigs o.die d
  let s := s.readRange o.via prog (rPbytes d)
  let s := ns.foldl (fun s n => s.modSprig n fun x => { x with imem := imemPut x.imem (8 * rOff d) image }) s
  if bad then (s.opFlag o.id 1).modOp o.id fun x => { x with work := .made }
  else if rLoadOnly d then s.modOp o.id fun x => { x with work := .made }
  else
    let start (s : State) (ni : SprigId × Nat) : State :=
      let (n, i) := ni
      let arg (k : Nat) : DWord := BitVec.ofNat 64 (dP d (3 + k))
      s.modSprig n fun x => { x with
        s := (((((x.s.set 0 (BitVec.ofNat 64 i)).set 1 (arg 0)).set 2 (arg 1)).set 3 (arg 2)).set 4 (arg 3)).set 5 (arg 4)
        ts := BitVec.ofNat 32 (x.ts.toNat / 64 * 64), l1 := [], entry := bits (dP d 2) 12 0, job := some (.program o.id) }
    (ns.zipIdx).foldl start (s.modOp o.id fun x => { x with work := .engine ns.length })

/-- A RUN_SPRIG handed over: general Sprigs take their turn (R187); port Sprigs wait until every named one is free. -/
def sprigStart (s : State) (o : Op) : State :=
  if rPort o.desc then
    if (namedSprigs o.die o.desc).any fun n => s.sprigs[n].job.isSome then s.modOp o.id fun x => { x with work := .turn }
    else s.sprigRun o
  else State.generalStart State.sprigRun s o

/-- Every macro-op of the Sprigs that waits its turn and may run now does, oldest first (R187). -/
def sprigTurns (s : State) : State :=
  (s.ops.filter fun o => o.work == .turn && [0x18, 0x19, 0x31].contains (dOpcode o.desc)).foldl (fun s o =>
    if dOpcode o.desc = 0x31 && rPort o.desc then
      if (namedSprigs o.die o.desc).any fun n => s.sprigs[n].job.isSome then s else s.sprigRun o
    else if s.generalHeld o then s
    else if dOpcode o.desc = 0x18 then s.dispatchRun o
    else if dOpcode o.desc = 0x19 then s.combineRun o
    else s.sprigRun o) s

/-- The plan of a RUN_SPRIG. -/
def runSprigPlan (s : State) (r : RingId) (d : Nat) : Plan :=
  let es := s.ivals d
  let part (w : Bool) : List (Nat × Nat) := (es.filter fun e => bit e 63 == w).map fun e => (bits e 47 0, bits e 127 64)
  { roles := []
    checks1 := [(bits (dP d 0) 63 48 != 0 || bits (dP d 1) 63 45 != 0 || bits (dP d 2) 63 13 != 0 || bits (dP d 8) 63 48 != 0, 3),
        (decide (rPbytes d < 8) || decide (65536 < rPbytes d) || rPbytes d % 8 != 0, 3), (rMask d == 0, 3), (decide (30 < rNiv d), 3),
        (rPort d && ringStream r != 2, 2), (decide (65536 < 8 * rOff d + rPbytes d), 7), (rNiv d == 0 && rList d != 0, 3)] ++
      addrChecks (bits (dP d 0) 47 0) 64 true ++ addrChecks (rList d) 16 (rNiv d != 0)
    checksR := [(decide (rNiv d ≤ 30) && es.any (fun e => bits e 62 48 != 0 || bits e 127 64 == 0), 3),
      (decide (rNiv d ≤ 30) && es.any (fun e => decide (spaceEnd < bits e 47 0 + bits e 127 64)), 7)]
    checks4 := fun _ => []
    look := if rNiv d ≤ 30 then [(rList d, 16 * rNiv d)] else []
    extra := fun _ => (part false, part true)
    start := sprigStart
    waits := s.runWaits r d }

/-! UPDATE (R251, R252). -/

/-- The schedule entry of a layer. -/
def schedOf (s : State) (d e : Nat) : Nat := s.peek (uSched d + 64 * lGroup e) 64

/-- The knot list of a schedule entry as memory holds it. -/
def knotsOf (s : State) (x : Nat) : Nat := s.peek (gKnots x) (8 * gNk x)

/-- What is wrong with a matrix that a Sprig's code is to write: its strides and pitches, its ranges, its record, and a
window that may not hold it (R76, R81, R100, R176). `scaled` asks for the record. -/
def writtenChecks (s : State) (m : Mat) (role : Role) (scaled : Bool) : List (Bool × Nat) :=
  m.checks ++ [((roleRanges role m).any fun x => decide (spaceEnd < x.1 + x.2), 7),
    (mdFmt m.md != 0 && (roleRanges role m).any fun x => x.2 != 0 && (s.windowOver none (64 * (lineRange x.1 x.2).1)
      (64 * ((lineRange x.1 x.2).2 - (lineRange x.1 x.2).1))).isSome, 8),
    (scaled && mdPts m.md && !recValid (s.peek (mdRec m.md) 64), 10)]

/-- What is wrong with a layer's entry (R249, R251). -/
def entryChecks (s : State) (e : Nat) : List (Bool × Nat) :=
  let gaps := [(63, 60), (383, 368), (447, 432), (511, 496), (575, 560), (639, 624), (703, 688), (767, 752), (831, 816), (895, 880), (959, 944)]
  let copy (p : Nat) : List (Bool × Nat) :=
    let m := s.peek (lCcmd e p) 128
    let side := if md2d m && mdNarrow m then mdLen m else 1
    let side := if lSparse e then max side (sparseGroup m) else side
    if (firstDetail (addrChecks (lCcmd e p) 128 true)).isSome then []
    else mdChecks m true false ++ [(bits (mdRows m) 1 0 != 0 || bits (mdRows m) 63 32 != lRows e, 5),
      (bits (mdCols m) 1 0 != 0 || bits (mdCols m) 63 32 != lCols e, 5), (lRows e % side != 0 || lRow0 e % side != 0, 3)] ++
      s.writtenChecks ⟨m, lRows e, lCols e, 0⟩ (if lSparse e then .sparse else .written) (p != lParity e)
  [(gaps.any (fun g => bits e g.1 g.2 != 0), 3), (lCrows e == 0 || lCols e == 0 || decide (65536 < lCols e), 3),
   (!lSparse e && lMeta e != 0, 3), (lSparse e && decide (lPitch e < ceilDiv (lCols e) 2), 9)] ++
  ([lGrad e, lMaster e 0, lMaster e 1, lMom e 0, lMom e 1, lVec e 0, lVec e 1, lScr e].flatMap fun a => addrChecks a 64 true) ++
  ([lCcmd e 0, lCcmd e 1, lLive e].flatMap fun a => addrChecks a 128 true) ++ addrChecks (lMeta e) 64 (lSparse e) ++
  copy 0 ++ copy 1

/-- What is wrong with a layer's schedule entry and knots (R257). -/
def schedChecks (s : State) (x : Nat) : List (Bool × Nat) :=
  let ks := knotList x (s.knotsOf x)
  let rising := (ks.zip (ks.drop 1)).all fun (a, b) => decide (a.1 < b.1)
  [(bits x 63 55 != 0 || bits x 143 141 != 0 || bits x 191 157 != 0 || bits x 255 240 != 0 || bits x 511 304 != 0, 3),
   (!rising || ks.any (fun k => !recOk k.2), 3)] ++ addrChecks (gKnots x) 8 true ++ addrChecks (bits x 239 192) 64 false

/-- Whether an UPDATE finds too few free arming entries on its die, and so waits at step 5 (R252). -/
def armWaits (s : State) (r : RingId) (d : Nat) : Bool := decide (4096 < s.armed (ringDie r) + uLayers d)

/-- The norm record's change at the issue of an UPDATE at step n (R262). -/
def normIssue (s : State) (v : Via) (a n : Nat) : State :=
  let x := s.peek a 64
  if bits x 159 128 = n then s
  else
    let cur := bits x 63 32
    let prev := if bits x 127 96 = bits x 159 128 then f32Add cur (bits x 95 64) else cur
    s.storeRuns v [(8 * a, 64, prev), (8 * (a + 16), 32, n)]

/-- A layer armed with the schedule entry and the knot list that its UPDATE read at step 1 (R251, R257, R90). -/
def armLayer (o : Op) (n : Nat) (s : State) (i : Nat) : State :=
  let d := o.desc
  let a := uEntry d i
  let e := s.peek a 128
  let x := o.lens.getD (2 * i) 0
  let m := s.peek (lCcmd e (1 - lParity e)) 128
  let (s, c) := if mdRnd m then s.takeCounter o.slot (mdSrs m) else (s, 0)
  let l : Layer := {
    op := o.id, ring := o.ring, entry := a, index := uFirst d + i, step := BitVec.ofNat 32 n, sched := x, lr := learnRate n (knotList x (o.lens.getD (2 * i + 1) 0))
    landed := [], signals := [], next := 0, trough := [], running := false, phase := if lChunks e = 0 then .statsDue else .chunks
    k := one32, poison := false, stale := false, nonfin := false, nonN2 := false, fallback := false, recQ := none
    ctr := c, amax := (0, 0), uratio := 0 }
  let shards := s.net.shards.filter (·.1 != a) ++ [(a, o.slot.val, lGrad e, lRows e * lCols e * lWidth e)]
  { s with layers := s.layers ++ [l], net := { s.net with shards := shards } }

/-- An UPDATE arms its layers; without DEFERRED its clip factor is formed at once (R251, R262). -/
def updateStart (s : State) (o : Op) : State :=
  let d := o.desc
  let n := s.stepLow o.slot
  let s := if uClip d = 0 then s else s.normIssue (seqVia o.ring) (uNorm d) n
  let prev := s.peek (uNorm d) 4
  let s := if uClip d = 1 && !f32Fin prev then s.inc Reg.UPD_NORM_BAD_COUNT 0 1 else s
  let s := (List.range (uLayers d)).foldl (armLayer o n) s
  let clip : Option (Option Nat) := if uClip d = 0 then some (some one32)
    else if uClip d = 1 then some (some (if f32Fin prev then clipFactor (uGclip d) prev else one32))
    else none
  let u : Upd := ⟨o.id, o.ring, uNorm d, [], uLayers d, uClip d == 0, uClip d == 2, clip⟩
  { s with upds := s.upds ++ [u] }.modOp o.id fun x => { x with work := .engine (uLayers d) }

/-- The plan of an UPDATE. -/
def updatePlan (s : State) (r : RingId) (d : Nat) : Plan :=
  let n := uLayers d
  let addr := addrChecks (uTab d) 128 true ++ addrChecks (uSched d) 64 true ++ addrChecks (uNorm d) 64 (uClip d != 0)
  let head := [(bits (dP d 0) 63 48 != 0 || bits (dP d 2) 63 48 != 0 || bits (dP d 3) 63 48 != 0 || bits (dP d 1) 63 32 != 0 ||
      bits (dP d 4) 63 32 != 0, 3), (n == 0 || decide (4096 < n), 3), (uClip d == 3 || (uExt d && uClip d != 2), 3),
      (uClip d == 0 && uNorm d != 0, 3),
      (uClip d != 0 && (!f32Fin (uGclip d) || uGclip d % 2 ^ 31 == 0 || bit (uGclip d) 31), 3)] ++ addr ++ zeroFrom d 5
  let ok := (firstDetail head).isNone
  let is := if ok then List.range n else []
  let es := (is.filter fun i => !s.poisoned (uEntry d i) 128).map fun i => s.peek (uEntry d i) 128
  let xs := (es.filter fun e => !s.poisoned (uSched d + 64 * lGroup e) 64).map (s.schedOf d)
  let twice := [(is.any (fun i => s.layers.any fun l => l.entry == uEntry d i), 3)]
  { roles := []
    checks1 := head ++ twice
    checksR := es.flatMap s.entryChecks ++ xs.flatMap s.schedChecks
    note := if ok then (List.range n).flatMap fun i =>
      let x := s.schedOf d (s.peek (uEntry d i) 128)
      [x, s.knotsOf x] else []
    checks4 := fun _ => []
    look := if !ok then [] else (uEntry d 0, 128 * n) ::
      (es.flatMap (fun e => [(uSched d + 64 * lGroup e, 64), (lCcmd e 0, 128), (lCcmd e 1, 128)] ++
        (let m := s.peek (lCcmd e (1 - lParity e)) 128; if mdPts m then [(mdRec m, 64)] else [])) ++
       xs.map (fun x => (gKnots x, 8 * gNk x)) ++ [(uNorm d, if uClip d = 0 then 0 else 64)])
    extra := fun _ => ([(uSched d, 2 ^ 22)], [(uEntry d 0, 128 * n)] ++ (if uClip d = 0 then [] else [(uNorm d, 64)]))
    start := updateStart
    waits := s.armWaits r d
    late := twice }

/-! Layers under way. -/

/-- The armed layer of an entry. -/
def layerOf (s : State) (entry : Nat) : Option Layer := s.layers.find? (·.entry == entry)

/-- The armed layer of an entry changed. -/
def modLayer (s : State) (entry : Nat) (f : Layer → Layer) : State :=
  { s with layers := s.layers.map fun l => if l.entry = entry then f l else l }

/-- How a layer's engine accesses memory. -/
def layerVia (s : State) (l : Layer) : Via := ⟨sprigDie (homeSprig (s.peek l.entry 128)), some (ringSlot l.ring), true, 0⟩

/-! Which handlers are ready (R254, R265). -/

/-- Whether an UPDATE's layers may start their apply passes under DEFERRED: the norm is formed, and EXT_STEP observed. -/
def deferOk (s : State) (l : Layer) : Bool :=
  match s.opOf l.op with
  | none => false
  | some o =>
    if uClip o.desc ≠ 2 then true
    else s.upds.any fun u => u.op == l.op && u.normed &&
      (u.clip.isSome || !uExt o.desc || s.peek (uNorm o.desc + 12) 4 == l.step.toNat)

/-- Whether a macro-op in flight issued reading LIVE_MD while it held the new parity's descriptor (R265). -/
def readersOf (s : State) (e : Nat) : Bool :=
  let m := s.peek (lCcmd e (1 - lParity e)) 128
  s.ops.any fun o => (List.range 10).any fun i => mdAddr o.desc i == lLive e && lLive e != 0 && o.mds.getD i 0 == m

/-- Whether a layer's next chunk is ready for its handler (R254). -/
def chunkDue (l : Layer) : Bool := l.phase == .chunks && !l.running && l.signals.contains l.next

/-- Whether the APPLY handler of a layer is ready (R265). -/
def applyDue (s : State) (l : Layer) : Bool :=
  let e := s.peek l.entry 128
  l.phase == .ready && s.deferOk l && !bit e (56 - lParity e) && !s.readersOf e

/-- The handlers that have become ready join the queues of their home Sprigs, and those no longer ready leave them (R254).
Handlers found ready together join in the order in which their layers were armed. -/
def noteReady (s : State) : State :=
  let due := (s.layers.filter fun l => chunkDue l || s.applyDue l).map fun l =>
    (homeSprig (s.peek l.entry 128), l.entry, if chunkDue l then some l.next else none)
  let mine (n : SprigId) : List (Nat × Option Nat) := (due.filter (·.1 == n)).map (·.2)
  let join (n : SprigId) (x : Sprig) : Sprig :=
    { x with queue := x.queue.filter (mine n).contains ++ (mine n).filter fun e => !x.queue.contains e }
  { s with sprigs := Vector.ofFn fun n => join n s.sprigs[n] }

/-- Whether a ready handler of a layer may start now: its home Sprig is free, and no other handler of that Sprig became
ready before it (R254). -/
def turnNow (s : State) (l : Layer) : Bool :=
  let x := s.sprigs[homeSprig (s.peek l.entry 128)]
  s.running && x.job.isNone && (x.queue.head?.map (·.1)) == some l.entry

/-- A chunk is signalled once every byte of it has landed (R253). -/
def chunkSignal (s : State) (entry c : Nat) : State :=
  match s.layerOf entry with
  | none => s
  | some l =>
    let e := s.peek entry 128
    let (a, b) := chunkBytes e c
    if !s.memUp || l.phase ≠ .chunks || lChunks e ≤ c || l.signals.contains c || !hasRange a b l.landed then s
    else (s.modLayer entry fun l => { l with signals := l.signals ++ [c] }).noteReady

/-- A handler's entry into its home Sprig: the L1 invalidated, s0 to s5 set (R255). -/
def enterHandler (s : State) (n : SprigId) (job : SprigJob) (pc : Nat) (regs : List Nat) : State :=
  let r (i : Nat) : DWord := BitVec.ofNat 64 (regs.getD i 0)
  s.modSprig n fun x => { x with
    s := (((((x.s.set 0 (r 0)).set 1 (r 1)).set 2 (r 2)).set 3 (r 3)).set 4 (r 4)).set 5 (r 5)
    ts := BitVec.ofNat 32 (x.ts.toNat / 64 * 64), l1 := [], entry := pc, job := some job, nonfin := false }

/-- The CHUNK handler of a layer returns: its Trough lines are freed, and after the last chunk the statistics are due
(R254, R256). -/
def chunkReturn (s : State) (entry c : Nat) : State :=
  let e := s.peek entry 128
  let last := (lGrad e + (chunkBytes e c).2) / 64
  let done : Bool := c + 1 == lChunks e
  (s.modLayer entry fun l => { l with next := c + 1, running := false, trough := l.trough.filter fun x => decide (last ≤ x.1) && !done, phase := if done then .statsDue else l.phase }).noteReady

/-- The lines of a layer's next chunk. -/
def chunkLines (s : State) (l : Layer) : List Nat :=
  let e := s.peek l.entry 128
  let (a, b) := chunkBytes e l.next
  if b ≤ a then [] else span ((lGrad e + a) / 64) ((lGrad e + b + 63) / 64 - (lGrad e + a) / 64)

/-- Whether a layer's next chunk is held whole in the Trough (R254). -/
def wholeInTrough (s : State) (l : Layer) : Bool := (s.chunkLines l).all fun x => l.trough.any (·.1 == x)

/-- The reading of a layer's next chunk by its handler: from the Trough, or back from the gradient shard (R254). -/
def chunkFeed (s : State) (l : Layer) : State :=
  let e := s.peek l.entry 128
  let (a, b) := chunkBytes e l.next
  let (s, bad) := if s.wholeInTrough l then (s, l.trough.any fun x => x.2.2 && (s.chunkLines l).contains x.1)
    else ((s.inc Reg.UPD_REREAD_COUNT 0 1).readRange (s.layerVia l) (lGrad e + a) (b - a), s.poisoned (lGrad e + a) (b - a))
  if bad then s.modLayer l.entry fun l => { l with poison := true } else s

/-- The CHUNK handler of a layer's next chunk starts on its home Sprig, to be run by Sprig commands; s2 names the Trough
for a chunk held whole there (R255). -/
def chunkEnter (s : State) (l : Layer) : State :=
  let e := s.peek l.entry 128
  let d := ((s.opOf l.op).map (·.desc)).getD 0
  let (a, b) := chunkBytes e l.next
  let rows := (b - a) / (lCols e * lWidth e)
  (s.modLayer l.entry fun l => { l with running := true }).enterHandler (homeSprig e) (.chunk l.entry l.next) (bits l.sched 140 128)
    [l.entry, l.next, (if s.wholeInTrough l then troughBase else 0) + lGrad e + a, rows, uSched d + 64 * lGroup e, l.step.toNat]

/-- The statistics all-reduce of a layer begins (R256, R353). A group of fewer than two members reduces alone. -/
def statsBegin (s : State) (entry : Nat) : State :=
  match s.layerOf entry with
  | none => s
  | some l =>
    let e := s.peek entry 128
    let slot := ringSlot l.ring
    if !s.running || l.phase ≠ .statsDue then s
    else
      let s := s.modLayer entry fun l => { l with phase := .stats }
      if s.groupBad slot (lArg e) then s
      else
        let g := s.groupEntry slot (lArg e)
        s.collStart g (s.peerEntry slot (s.succIndex g)) (layerOwn entry) true slot (lArg e) 1 false 0 (lScr e) (lScr e) (lReduce e)

/-- The sums of the next UPDATE whose every layer has been reduced enter CUR_N2, UPDATEs of one record in the order of issue;
an UPDATE with no layer left is then forgotten (R262). -/
def normAdd (s : State) : State :=
  let ready (u : Upd) : Bool :=
    u.left == 0 && !u.normed && !(s.upds.any fun v => decide (v.op < u.op) && !v.normed && v.norm == u.norm)
  match s.upds.find? ready with
  | none => s
  | some u =>
    let a := u.norm + 4
    let bad := s.poisoned a 4
    let n2 := u.sums.foldl (fun x y => f32Add x y.2) (s.peek a 4)
    let s := (s.readRange (seqVia u.ring) a 4).store (seqVia u.ring) a (toBytes 4 n2)
    let s := if bad then s.opFlag u.op 1 else s
    if s.layers.any (·.op == u.op) then
      { s with upds := s.upds.map fun v => if v.op = u.op then { v with normed := true } else v }
    else { s with upds := s.upds.filter (·.op != u.op) }

/-- The sums of every UPDATE that may enter now. -/
def normAll (s : State) : State := (List.range s.upds.length).foldl (fun s _ => s.normAdd) s

/-- A layer's all-reduce is over for its UPDATE's norm, with its sum S where it has one. -/
def normTake (s : State) (l : Layer) (sum : Option Nat) : State :=
  let take (u : Upd) : Upd := { u with
    left := u.left - 1
    sums := match sum with
      | some x => Tab.set (fun _ => 2 ^ 32) u.sums l.index x
      | none => u.sums }
  let s : State := { s with upds := s.upds.map fun (u : Upd) => if u.op = l.op then take u else u }
  s.normAll.noteReady

/-- The statistics all-reduce of a layer is over: complete, or ended by ROLE_STALE or poison (R256, R262). -/
def statsEnd (s : State) (entry : Nat) : State :=
  match s.layerOf entry with
  | none => s
  | some l =>
    let e := s.peek entry 128
    let mine (c : Coll) : Bool := c.stats && c.own == layerOwn entry
    if !s.memUp || l.phase ≠ .stats || (s.net.colls.any mine && !l.stale && !l.poison) then s
    else
      let s := { s with net := { s.net with colls := s.net.colls.filter fun c => !mine c } }
      let bad := l.stale || l.poison
      let s := s.modLayer entry fun l => { l with phase := if bad then .applied else .ready }
      let sum := lScr e + 4 * lCols e
      if bad || s.poisoned sum 4 then
        (if bad then s else (s.readRange (s.layerVia l) sum 4).modLayer entry fun l => { l with phase := .applied, poison := true }).normTake l none
      else (s.readRange (s.layerVia l) sum 4).normTake l (some (s.peek sum 4))

/-! The APPLY handler (R262, R265). -/

/-- The clip factor of a layer's UPDATE, or none where N2 is not finite under DEFERRED (R262). Under DEFERRED it is formed
once, when the first APPLY handler of the UPDATE is to start; where the record carries the marker every layer of the UPDATE
consumes poison (R264). -/
def clipOf (s : State) (l : Layer) : State × Option Nat :=
  match s.opOf l.op, s.upds.find? (·.op == l.op) with
  | some o, some u =>
    match u.clip with
    | some k => (s, k)
    | none =>
      let x := s.peek (uNorm o.desc) 64
      let n2 := if bits x 127 96 = l.step.toNat then f32Add (bits x 63 32) (bits x 95 64) else bits x 63 32
      let bad := s.poisoned (uNorm o.desc) 64
      let k := if f32Fin n2 && !bad then some (clipFactor (uGclip o.desc) n2) else none
      let s := s.readRange (seqVia o.ring) (uNorm o.desc) 64
      let s : State := if bad then
          { s with layers := s.layers.map fun (x : Layer) => if x.op = l.op then { x with poison := true } else x }
        else s
      ({ s with upds := s.upds.map fun v => if v.op = u.op then { v with clip := some k } else v }, k)
  | _, _ => (s, some one32)

/-- The APPLY handler of a layer starts on its home Sprig, to be run by Sprig commands (R255). -/
def applyEnter (s : State) (l : Layer) : State :=
  let e := s.peek l.entry 128
  (s.modLayer l.entry fun l => { l with phase := .applying, running := true }).enterHandler (homeSprig e) (.apply l.entry)
    (bits l.sched 156 144) [l.entry, 1 - lParity e, lGrad e, l.k, l.lr, l.step.toNat]

/-- The APPLY handler of a layer returns: NONFIN, URATIO and a fallback are kept for its outcome (R259, R260, R263). -/
def applyReturn (s : State) (entry : Nat) (nonfin : Bool) (uratio : Nat) (pivf : Bool) : State :=
  let back := pivf && lPrecond (s.peek entry 128)
  let s := if back then s.inc Reg.UPD_SINGULAR_FALLBACK_COUNT 0 1 else s
  s.modLayer entry fun l => { l with phase := .applied, running := false, nonfin := l.nonfin || nonfin, uratio := uratio, fallback := back }

/-! Outcomes (R264, R266, R518). -/

/-- The outcome of a layer whose handlers are over. -/
def outcome (l : Layer) : Nat :=
  if l.poison then 6 else if l.stale then 7 else if gFrozen l.sched then 2 else if l.nonfin || l.nonN2 then 3
  else if l.fallback then 4 else 1

/-- The bin of a committed ratio (R518). -/
def ratioBin (r : Nat) : Nat :=
  let x := f32 r
  ((List.range 15).filter fun (b : Nat) => !(x.lt (.fin false 1 ((b : Int) - 20)))).length

/-- Sage's figures of a committed or frozen layer (R518). -/
def sageLayer (s : State) (slot : Fin 8) (index ratio : Nat) (frozen : Bool) : State :=
  let b := sageBase slot.val
  if frozen then s.countAt (b + 0x90) 1
  else
    let s := s.countAt (b + 0x88) 1
    let s := s.binAt (b + 0xA0 + 4 * ratioBin ratio)
    let top := (s.word (b + 0x98)).toNat
    let at_ := (s.word (b + 0x9C)).toNat
    let first := s.wordsAt (b + 0x88) 2 == 1
    if first || (f32 top).lt (f32 ratio) || (top == ratio && decide (index < at_)) then
      (s.setWord (b + 0x98) (BitVec.ofNat 32 ratio)).setWord (b + 0x9C) (BitVec.ofNat 32 index)
    else s

/-- A layer's arming entry freed; its UPDATE has one layer less to do, and with none left is forgotten unless its sums wait
to enter the norm record (R252, R262). -/
def layerEnds (s : State) (l : Layer) : State :=
  let s := { s with layers := s.layers.filter fun x => !(x.entry == l.entry) }.opDone l.op
  let more := s.layers.any fun x => x.op == l.op
  if more then s else { s with upds := s.upds.filter fun u => u.op != l.op || (u.left == 0 && !u.normed) }

/-- LSTATE written into a layer's entry. -/
def setLstate (s : State) (v : Via) (entry x : Nat) : State :=
  s.store v (entry + 4) (toBytes 4 (putBits (s.peek (entry + 4) 4) 27 25 x))

/-- The words of a layer's entry that hold its HW fields, written in one update of each of its lines (R249, R264). -/
def storeEntry (s : State) (v : Via) (a e : Nat) : State :=
  s.storeRuns v [(8 * a + 32, 32, bits e 63 32), (8 * a + 224, 32, bits e 255 224), (8 * a + 992, 32, bits e 1023 992)]

/-- A flip (R264): PARITY, RATIO, LSTATE and COMMIT_STEP in one update, LIVE_MD rewritten, the record's completion where a
block of the copy was written. -/
def flip (s : State) (v : Via) (l : Layer) (x : Nat) : State :=
  let e := s.peek l.entry 128
  let p := 1 - lParity e
  let m := s.peek (lCcmd e p) 128
  let e' := putBits (putBits (putBits (putBits e 54 54 p) 59 57 x) 255 224 l.uratio) 1023 992 l.step.toNat
  let s := s.storeEntry v l.entry e'
  let s := match s.opOf l.op with
    | some o => if l.recQ.isSome then s.recordDone o m l.amax else s
    | none => s
  let bad := s.poisoned (lCcmd e p) 128
  let s := (s.readRange v (lCcmd e p) 128).store v (lLive e) (s.bytesAt (lCcmd e p) 128)
  let s := if bad then (s.poisonRange (lLive e) 128).opFlag l.op 1 else s
  (s.inc Reg.UPD_COMMITS_COUNT 0 1).sageLayer (ringSlot l.ring) l.index l.uratio false

/-- The outcome of a layer takes effect (R264). -/
def layerOutcome (s : State) (entry : Nat) : State :=
  match s.layerOf entry with
  | none => s
  | some l =>
    if !s.memUp || l.phase ≠ .applied then s
    else
      let v := seqVia l.ring
      let slot := ringSlot l.ring
      let x := outcome l
      let s := if x = 1 || x = 4 then s.flip v l x else s.setLstate v entry x
      let s := match x with
        | 2 => (s.store v (entry + 28) (toBytes 4 0)).sageLayer slot l.index 0 true
        | 3 => ((s.opFlag l.op 7).inc Reg.UPD_GUARDED_COUNT 0 1).raiseAt 0x0802 l.ring (some slot) l.index l.step.toNat
        | 6 => s.opFlag l.op 1
        | 7 => s.opFlag l.op 5
        | _ => s
      s.layerEnds l

/-- Every layer of a slot's UPDATEs whose flip has not begun ends DISARMED (R266). -/
def disarmSlot (s : State) (slot : Fin 8) : State :=
  let ls := s.layers.filter fun l => ringSlot l.ring == slot
  let stop (j : SprigJob) : Bool := match j with
    | .chunk e _ => ls.any (·.entry == e)
    | .apply e => ls.any (·.entry == e)
    | .program _ => false
  let one (s : State) (l : Layer) : State :=
    let s := { s with net := { s.net with colls := s.net.colls.filter fun c => !(c.stats && c.own == layerOwn l.entry) } }
    ((s.setLstate (seqVia l.ring) l.entry 5).opFlag l.op 7).layerEnds l
  if ls = [] then s
  else
    let free (x : Sprig) : Sprig := if (x.job.map stop).getD false then { x with job := none } else x
    let s := { s with sprigs := s.sprigs.map free }
    (((ls.foldl one s).abandonNet (ls.map fun l => layerOwn l.entry)).raise 0x0803 0 (some slot) ls.length).normAll.noteReady.sprigTurns

/-- The write of UPD_CTRL (R266). -/
def disarmWrite (s : State) (v : Nat) : State × KStat :=
  ((List.finRange 8).foldl (fun s n => if bit v n.val then s.disarmSlot n else s) s, .ok)

end State

/-! The meanings of the commands. -/

/-- RUN_SPRIG (R248). -/
def execRunSprig (r : RingId) (s : State) : Host.Outcome State Fault Refusal :=
  act s (s.issue r 0x31 (fun _ => true) State.runSprigPlan)

/-- UPDATE (R251). -/
def execUpdate (r : RingId) (s : State) : Host.Outcome State Fault Refusal :=
  act s (s.issue r 0x30 (fun _ => true) State.updatePlan)

/-- CHUNK_ARRIVAL (R253). -/
def execChunkArrival (entry : BitVec 48) (chunk : Nat) (s : State) : Host.Outcome State Fault Refusal :=
  act s (s.chunkSignal entry.toNat chunk)

/-- STATS_ALLREDUCE (R256). -/
def execStatsAllreduce (entry : BitVec 48) (s : State) : Host.Outcome State Fault Refusal := act s (s.statsBegin entry.toNat)

/-- STATS_ALLREDUCE_DONE (R262). -/
def execStatsAllreduceDone (entry : BitVec 48) (s : State) : Host.Outcome State Fault Refusal := act s (s.statsEnd entry.toNat)

/-- LAYER_OUTCOME (R264). -/
def execLayerOutcome (entry : BitVec 48) (s : State) : Host.Outcome State Fault Refusal := act s (s.layerOutcome entry.toNat)

/-- DISARM: a write of UPD_CTRL (R266). -/
def execDisarm (w : Writer) (slots : Byte) (s : State) : Host.Outcome State Fault Refusal :=
  act s (s.regWrite w 0x090000 slots.toNat fun s => s.disarmWrite slots.toNat)

end Sys2Proof.Machine
end

