-- ==== Sys2Proof/Machine/Ckpt.lean ====
section
/-!
DEFINITION. Checkpoints (spec/15 R427 to R443): CKPT_DRAIN in its three modes, the images of its entries, HOLD, the digest
table, and the failure of a queue pair.
-/
namespace Sys2Proof.Machine

open State

/-! The parameter words (R432) and a list entry (R433). -/

def kList (d : Nat) : Nat := bits (dP d 0) 47 0
def kCount (d : Nat) : Nat := bits (dP d 1) 12 0
def kMode (d : Nat) : Nat := bits (dP d 1) 17 16
def kScales (d : Nat) : Bool := bit (dP d 1) 18
def kQp (d : Nat) : Nat := bits (dP d 1) 31 24
def kStep (d : Nat) : Nat := bits (dP d 1) 63 32
def kTab (d : Nat) : Nat := bits (dP d 2) 47 0
def kRemote (d : Nat) : Nat := dP d 3
def kKey (d : Nat) : Nat := bits (dP d 4) 31 0
def ceKind (e : Nat) : Nat := bits e 3 0
def ceLocal (e : Nat) : Nat := bits e 111 64
def ceBytes (e : Nat) : Nat := bits e 167 128

/-- Whole lines of a byte range: address and length. -/
def wholeLines (r : Nat × Nat) : Nat × Nat := let (a, b) := lineRange r.1 r.2; (64 * a, 64 * (b - a))

namespace State

/-! Images (R431, R433). -/

/-- The compute copy of a layer at a parity. -/
def copyAt (s : State) (e p : Nat) : Mat :=
  let m := s.peek (lCcmd e p) 128
  ⟨m, bits (mdRows m) 63 32, bits (mdCols m) 63 32, 0⟩

/-- The pieces of a layer's image. -/
def layerPieces (s : State) (e p : Nat) (scales : Bool) : List (Nat × Nat) :=
  let n := 4 * lRows e * lCols e
  let m := s.copyAt e p
  (([(lMaster e p, n), (lMom e p, n), (lVec e p, vecLen e)] ++
    roleRanges (if lSparse e then .sparse else .written) { m with md := putBits m.md 74 74 0 } ++
    (if scales && mdPts m.md then [(mdRec m.md, 64)] else [])).map wholeLines).filter fun x => x.2 != 0

/-- The slot state record of a snapshot (R431). -/
def slotImage (s : State) (slot : Fin 8) (x : Snap) : List Byte :=
  toBytes 8 x.step.toNat ++ toBytes 8 x.energy.toNat ++ toBytes 48 0 ++ x.cursor ++
    (List.range 4096).flatMap fun i =>
      toBytes 16 (s.streamKey slot i).toNat ++ toBytes 8 (Tab.get (fun _ => (0 : DWord)) x.ctrs i).toNat

/-! Checkpoints in flight. -/

/-- A checkpoint in flight. -/
def ckptOf (s : State) (op : Nat) : Option Ckpt := s.ckpts.find? (·.op == op)

/-- A checkpoint changed. -/
def modCkpt (s : State) (op : Nat) (f : Ckpt → Ckpt) : State :=
  { s with ckpts := s.ckpts.map fun c => if c.op = op then f c else c }

/-- An entry of a checkpoint changed. -/
def modEnt (s : State) (op i : Nat) (f : CkEnt → CkEnt) : State := s.modCkpt op fun c => { c with ents := modAt f i c.ents }

/-- How a checkpoint accesses memory: at BACKGROUND priority, with hint STREAM (R436). -/
def ckptVia (o : Op) : Via := ⟨o.die, some o.slot, false, 1⟩

/-- The word of a layer's entry that holds HOLD, written. -/
def storeHold (s : State) (o : Op) (a x : Nat) : State := s.store (ckptVia o) (a + 4) (toBytes 4 (x / 2 ^ 32))

/-- The HOLD bit of an entry cleared (R436). -/
def clearHold (s : State) (o : Op) (i : Nat) (c : CkEnt) : State :=
  if !c.hold then s
  else
    let b := 55 + c.parity
    ((s.storeHold o c.addr (putBits (s.peek c.addr 8) b b 0)).modEnt o.id i fun c => { c with hold := false }).noteReady

/-- The lines of an entry's image of which it has not read: line numbers, from its pieces. -/
def linesLeft (c : CkEnt) : List Nat := (c.pieces.flatMap fun (a, n) => span (a / 64) (n / 64)).drop (c.image.length / 64)

/-- The die whose staging takes a line (R436). -/
def lineDie (s : State) (l : Nat) : Fin 2 := (s.ent (l / 4096)).die

/-- Lines that the staging partition of a die can still take; West's begins with the snapshots (R429, R436). -/
def stageRoom (s : State) (die : Fin 2) : Nat := s.stagePart die * 32768 - (if die = 0 then 8192 else 0) - s.stageUse die

/-- The leading lines that find room, `w` and `e` being what West's and East's staging can take. -/
def fitting (s : State) : Nat → Nat → List Nat → List Nat
  | _, _, [] => []
  | w, e, l :: ls =>
    if s.lineDie l = 0 then (if w = 0 then [] else l :: s.fitting (w - 1) e ls)
    else if e = 0 then [] else l :: s.fitting w (e - 1) ls

/-- What has been read of an image is sent from staging (R436). -/
def sendImage (s : State) (o : Op) (i : Nat) (c : CkEnt) (bytes : List Byte) (dies : List (Fin 2)) : State :=
  if kMode o.desc = 0 && bytes ≠ [] then
    (s.inc Reg.UPD_CKPT_BYTES_COUNT 0 bytes.length).roceTransfer (kQp o.desc) o.id i false 0 (c.remote + c.image.length)
      (kKey o.desc) bytes.length bytes dies
  else s

/-- The reading of an entry for staging or for its digest goes on as far as staging has room, and what it reads is sent;
its HOLD bit clears once its last line is read (R436, R440). One that meets a marker ends there: what was read before it has
been sent (R438). A SLOT image is taken as a whole. -/
def drainEntry (s : State) (o : Op) (i : Nat) (c : CkEnt) : State :=
  let drain := kMode o.desc == 0
  if c.kind = 2 then
    let bytes := match s.slots[o.slot].snap with
      | some x => s.slotImage o.slot x
      | none => []
    if drain && decide (s.stageRoom 0 < 1601) then s
    else (s.modEnt o.id i fun c => { c with moved := true, image := bytes }).sendImage o i c bytes (List.replicate 1601 0)
  else
    let left := linesLeft c
    let room := if drain then s.fitting (s.stageRoom 0) (s.stageRoom 1) left else left
    let read := room.takeWhile fun l => !s.linePoison l
    let marked := (left[read.length]?).filter s.linePoison
    let bytes := read.flatMap fun l => s.bytesAt (64 * l) 64
    let dies := read.map s.lineDie
    let s := read.foldl (fun s l => s.readLine (ckptVia o) l) s
    let s := s.modEnt o.id i fun c => { c with image := c.image ++ bytes, moved := read.length == left.length }
    let s := match marked with
      | some l => ((((s.readLine (ckptVia o) l).modEnt o.id i fun c => { c with status := 2 }).modCkpt o.id fun k =>
          { k with result := if k.result = 1 then 1 else 2 }).opFlag o.id 1).clearHold o i c
      | none => if read.length = left.length then s.clearHold o i c else s
    s.sendImage o i c bytes dies

/-- An entry of FILL mode asked for, piece by piece (R439). -/
def fillEntry (s : State) (o : Op) (i : Nat) (c : CkEnt) : State :=
  let d := o.desc
  let s := s.modEnt o.id i fun c => { c with moved := true }
  (c.pieces.foldl (fun (x : State × Nat) (a, n) => (x.1.roceTransfer (kQp d) o.id i true a x.2 (kKey d) n [] [], x.2 + n)) (s, c.remote)).1

/-- Whether an entry is neither moved nor marked. -/
def entWaits (c : CkEnt) : Bool := c.status == 0 && !c.moved

/-- The entries worked through in list order, up to one that waits for room in staging or a LAYER entry of DRAIN mode, whose
reading CKPT_HOLD_RELEASE brings. -/
def ckptAdvance (op : Nat) : Nat → State → State
  | 0, s => s
  | n + 1, s =>
    match s.ckptOf op, s.opOf op with
    | some k, some o =>
      match (k.ents.zipIdx).find? fun x => entWaits x.1 with
      | none => s
      | some (c, i) =>
        if k.mode = 0 && c.kind = 1 then s
        else ckptAdvance op n (if k.mode = 1 then s.fillEntry o i c else s.drainEntry o i c)
    | _, _ => s

/-! The digest table (R437). -/

/-- The record of an entry. -/
def digestRecord (c : CkEnt) : List Byte :=
  let n := if c.kind = 2 then 102464 else (c.pieces.map (·.2)).sum
  toBytes 64 ((if c.status = 0 then sha256N c.image else 0) + n * 2 ^ 256 + c.status * 2 ^ 296 + b2n c.cmp * 2 ^ 299)

/-- The digest table, under the next DSEQ. -/
def digestTable (s : State) (o : Op) (k : Ckpt) : List Byte :=
  let d := o.desc
  toBytes 64 (kStep d + kCount d * 2 ^ 32 + kMode d * 2 ^ 45 + k.result * 2 ^ 47 + s.dseq.toNat * 2 ^ 64) ++ k.ents.flatMap digestRecord

/-- A checkpoint whose entries are all done writes its digest table, sends it where DTAB_REMOTE asks for it, and is then
done (R436, R438). -/
def ckptSettle (s : State) (op : Nat) : State :=
  match s.ckptOf op, s.opOf op with
  | some k, some o =>
    if k.ents.any entWaits || !(s.roceDue op).isEmpty then s
    else
      let ended (s : State) : State :=
        { s with ckpts := s.ckpts.filter (·.op != op) }.modOp op fun x => { x with work := .made }
      if k.table then ended s
      else
        let t := s.digestTable o k
        let s := (s.takeDseq.store (ckptVia o) (kTab o.desc) t).modCkpt op fun k => { k with table := true }
        if k.mode = 0 && kRemote o.desc ≠ 0 && k.result ≠ 1 then
          s.roceTransfer (kQp o.desc) op 4096 false 0 (kRemote o.desc) (kKey o.desc) t.length t []
        else ended s
  | _, _ => s

/-- The reading of a LAYER entry of CKPT_DRAIN into staging: what staging has room for is read and sent; once its last line
is there its HOLD bit clears and the next entries follow (R436). -/
def holdRelease (s : State) (r : RingId) (k i : Nat) : State :=
  match (s.ringOps r)[k]? with
  | none => s
  | some o =>
    match s.ckptOf o.id with
    | none => s
    | some x =>
      match x.ents[i]? with
      | none => s
      | some c =>
        if !s.memUp || s.quench || x.mode ≠ 0 || c.kind ≠ 1 || !entWaits c || (x.ents.take i).any entWaits then s
        else (ckptAdvance o.id x.ents.length (s.drainEntry o i c)).ckptSettle o.id

/-! FILL mode (R439). -/

/-- The last byte of an entry of FILL mode has been written: a LAYER's parity becomes live. -/
def fillDone (s : State) (o : Op) (c : CkEnt) : State :=
  if c.kind ≠ 1 then s
  else
    let d := o.desc
    let v := ckptVia o
    let e := s.peek c.addr 128
    let m := s.copyAt e c.parity
    let s := if !kScales d && mdPts m.md then s.store v (mdRec m.md) (toBytes 64 0) else s
    let e := putBits (putBits (putBits (putBits e 1023 992 (kStep d)) 59 57 1) 255 224 0) 56 55 0
    (s.storeEntry v c.addr e).store v (lLive e) (s.bytesAt (lCcmd e c.parity) 128)

/-- Every checkpoint in flight goes on where staging has room again, and ends where it is done (R436). -/
def ckptsGoOn (s : State) : State :=
  s.ckpts.foldl (fun s k => (ckptAdvance k.op k.ents.length s).ckptSettle k.op) s

/-! Answers and failures (R358, R436, R438). -/

/-- Entries not done when a queue pair fails: those that wait, and those with requests unanswered. -/
def unfinished (due : List RoceOut) (x : CkEnt × Nat) : Bool := x.1.status == 0 && (!x.1.moved || due.any fun q => q.entry == x.2)

/-- A checkpoint fails with its queue pair (R438). -/
def ckptFail (s : State) (n : Nat) (due : List RoceOut) (k : Ckpt) : State :=
  match s.opOf k.op with
  | none => s
  | some o =>
    let mine := due.filter (·.own == k.op)
    let lost := (k.ents.zipIdx).filter (unfinished mine)
    let s := lost.foldl (fun s (c, i) => (s.modEnt o.id i fun c => { c with status := 3 }).clearHold o i c) s
    let s := s.modCkpt o.id fun k => { k with result := 1 }
    let s := if k.table then s.store (ckptVia o) (kTab o.desc + 4) (toBytes 4 (putBits (s.peek (kTab o.desc + 4) 4) 17 15 1)) else s
    ((s.wrB Reg.UPD_CKPT_STATUS_FAILED 0 true).raise 0x0805 o.ring (some o.slot) n).ckptSettle o.id

/-- A queue pair leaves service: its requests are dropped, and the checkpoints on it fail. -/
def qpDrop (s : State) (n : Nat) (left : Option Qp) : State :=
  let due := ((s.qpOf n).map (·.out)).getD []
  let on (k : Ckpt) : Bool := k.mode ≠ 2 && match s.opOf k.op with
    | some o => kQp o.desc == n
    | none => false
  ((s.ckpts.filter on).foldl (fun s k => s.ckptFail n due k) (s.setQp n left)).ckptsGoOn

/-- A queue pair enters its error state (R358, R438). -/
def qpFail (s : State) (n : Nat) : State :=
  match s.qpOf n with
  | none => s
  | some q => if q.err then s else s.qpDrop n (some { q with err := true, out := [] })

/-- An ACK or a read response answers the oldest request of its queue pair; a NAK ends the queue pair (R356, R438). -/
def roceResponse (s : State) (r : RoceResp) : State :=
  let (s, ok) := s.roceChecked r.port (r.vid.toNat == s.rd Reg.NET_PORT_CFG_VID r.port) r.bytes r.icrcOk
  let n := r.qp.toNat
  match (if ok then s.qpOf n else none) with
  | none => s
  | some q =>
    let s := if r.ce && !q.err then s.roceOut n (.cnp n 0) else s
    match q.out with
    | [] => s
    | x :: rest =>
      if q.err then s
      else if r.nak then s.qpFail n
      else
        let s := s.setQp n (some { q with out := rest })
        match s.ckptOf x.own, s.opOf x.own with
        | some k, some o =>
          let s := if !x.read then s
            else
              let bs := r.data.take x.len
              let s := ((s.store (ckptVia o) x.place bs).inc Reg.UPD_CKPT_BYTES_COUNT 0 bs.length).modEnt o.id x.entry fun c => { c with image := c.image ++ bs }
              if rest.any fun y => y.own == x.own && y.entry == x.entry then s
              else match k.ents[x.entry]? with
                | some c => s.fillDone o c
                | none => s
          s.ckptsGoOn
        | _, _ => s.ckptsGoOn

/-- The local ACK timeout: the oldest request is sent again, or after RETRY retransmissions the queue pair fails (R358).
-/
def roceTimeout (s : State) (n : Nat) : State :=
  match s.qpOf n with
  | none => s
  | some q =>
    match q.out with
    | [] => s
    | x :: rest =>
      if q.err || !s.powered || s.quench then s
      else if q.args.retry.toNat ≤ x.tries then s.qpFail n
      else (s.setQp n (some { q with out := { x with tries := x.tries + 1 } :: rest })).roceOut n x.frame

/-! Issue (R432 to R435). -/

/-- A list entry as the macro-op's mode takes it up: SKEW, BUSY, or with its HOLD bit set (R435). -/
def takeEntry (o : Op) (s : State) (i : Nat) : State :=
  let d := o.desc
  let x := s.peek (kList d + 32 * i) 32
  let a := ceLocal x
  let e := if ceKind x = 1 then s.peek a 128 else 0
  let p := lParity e
  let bad := ceKind x = 1 && (s.poisoned a 128 || s.poisoned (lCcmd e p) 128)
  let ago := (bits e 1023 992 + 2 ^ 32 - kStep d) % 2 ^ 32
  let skew := (ceKind x = 1 && kMode d = 0 && (s.layers.any (·.entry == a) || (decide (1 ≤ ago) && decide (ago < 2 ^ 31)))) ||
    (ceKind x = 2 && !(match s.slots[o.slot].snap with
      | some y => y.step.toNat % 2 ^ 32 == (kStep d + 1) % 2 ^ 32
      | none => false))
  let drain := ceKind x = 1 && kMode d = 0
  let busy := drain && !skew && bit e (55 + p)
  let hold := drain && !bad && !skew && !busy
  let pieces := if ceKind x = 0 then [(a, ceBytes x)] else if ceKind x = 1 then s.layerPieces e p (kScales d) else []
  let status := if bad then 2 else if skew then 1 else if busy then 4 else 0
  let s := if ceKind x ≠ 1 then s
    else
      let s := s.readRange (ckptVia o) a 128
      if bad && s.poisoned a 128 then s else s.readRange (ckptVia o) (lCcmd e p) 128
  let c : CkEnt := ⟨ceKind x, bit x 4, a, ceBytes x, bits x 255 192, p, pieces, status, hold, false, []⟩
  let first := match s.ckptOf o.id with
    | some k => k.ents.all (·.status != 1)
    | none => true
  let s := s.modCkpt o.id fun k => { k with ents := k.ents ++ [c], result := if bad then 2 else k.result }
  let s := if bad then s.opFlag o.id 1 else s
  let s := if hold then (s.storeHold o a (putBits (s.peek a 8) (55 + p) (55 + p) 1)).inc Reg.UPD_CKPT_HOLDS_COUNT 0 1 else s
  if skew && !bad && first then (s.wrB Reg.UPD_CKPT_STATUS_SKEW 0 true).raise 0x0804 o.ring (some o.slot) i else s

/-- CKPT_DRAIN handed over: every entry examined, then worked through. -/
def ckptStart (s : State) (o : Op) : State :=
  let k : Ckpt := ⟨o.id, kMode o.desc, [], 0, false⟩
  let s := { s with ckpts := s.ckpts ++ [k] }.modOp o.id fun x => { x with work := .engine 1 }
  let n := kCount o.desc
  (ckptAdvance o.id n ((List.range n).foldl (takeEntry o) s)).ckptSettle o.id

/-- Whether some pieces name a line of a die. -/
def namesDie (s : State) (ps : List (Nat × Nat)) (die : Fin 2) : Bool :=
  ps.any fun (a, n) => n != 0 && (span (a / 2 ^ 18) ((a + n - 1) / 2 ^ 18 + 1 - a / 2 ^ 18)).any fun p => s.isMapped p && (s.ent p).die == die

/-- What is wrong with a list entry (R432, R433). -/
def ckptEntryChecks (s : State) (d i : Nat) : List (Bool × Nat) :=
  let x := s.peek (kList d + 32 * i) 32
  let a := ceLocal x
  let n := ceBytes x
  let range := ceKind x = 0
  let ok := if range then n % 64 = 0 && n ≠ 0 && a + n ≤ spaceEnd else a + 128 ≤ spaceEnd
  let ps := if !ok then [] else if range then [(a, n)] else
    let e := s.peek a 128
    if ceKind x = 1 && !s.poisoned a 128 && !s.poisoned (lCcmd e (lParity e)) 128 then s.layerPieces e (lParity e) (kScales d) else []
  let stage0 (die : Fin 2) : Bool := s.rd Reg.MEM_TS_PART_STAGE die == 0 && s.namesDie ps die
  [(decide (2 < ceKind x) || bits x 63 5 != 0 || bits x 127 112 != 0 || bits x 191 168 != 0, 3),
   (if range then n == 0 || n % 64 != 0 else n != 0, 3), (ceKind x == 2 && (a != 0 || kMode d == 1), 3),
   (range && a % 64 != 0, 6), (ceKind x == 1 && a % 128 != 0, 6), (range && decide (spaceEnd < a + n), 7),
   (ceKind x == 1 && decide (spaceEnd < a + 128), 7), (stage0 0 || stage0 1, 3)]

/-- Whether the queue pair of a CKPT_DRAIN is bound to its slot and ready to send. -/
def qpReady (s : State) (r : RingId) (d : Nat) : Bool :=
  match s.qpOf (kQp d) with
  | some q => q.args.slot.toNat == (ringSlot r).val && !q.err
  | none => false

/-- The plan of a CKPT_DRAIN (R432 to R434). -/
def ckptPlan (s : State) (r : RingId) (d : Nat) : Plan :=
  let head := [(bits (dP d 0) 63 48 != 0 || bits (dP d 1) 15 13 != 0 || bits (dP d 1) 23 19 != 0 || bits (dP d 2) 63 48 != 0 ||
      bits (dP d 4) 63 32 != 0, 3), (kCount d == 0 || decide (4096 < kCount d) || kMode d == 3, 3),
      (kMode d != 2 && !s.qpReady r d, 3)] ++ addrChecks (kList d) 64 true ++ addrChecks (kTab d) 64 true ++ zeroFrom d 5
  let ok := (firstDetail head).isNone
  { roles := []
    checks1 := head
    checksR := if ok then (List.range (kCount d)).flatMap (s.ckptEntryChecks d) else []
    checks4 := fun _ => []
    look := if ok then [(kList d, 32 * kCount d)] else []
    extra := fun _ => ([(kList d, 32 * kCount d)], [(kTab d, 64 + 64 * kCount d)])
    start := ckptStart }

end State

/-! The meanings of the commands. -/

/-- CKPT_DRAIN: MODE 0 (R432 to R438). -/
def execCkptDrain (r : RingId) (s : State) : Host.Outcome State Fault Refusal :=
  act s (s.issue r 0x41 (fun d => kMode d == 0 || kMode d == 3) State.ckptPlan)

/-- CKPT_FILL: MODE 1 (R439). -/
def execCkptFill (r : RingId) (s : State) : Host.Outcome State Fault Refusal :=
  act s (s.issue r 0x41 (fun d => kMode d == 1) State.ckptPlan)

/-- CKPT_DIGEST: MODE 2 (R440). -/
def execCkptDigest (r : RingId) (s : State) : Host.Outcome State Fault Refusal :=
  act s (s.issue r 0x41 (fun d => kMode d == 2) State.ckptPlan)

/-- CKPT_HOLD_RELEASE (R436). -/
def execCkptHoldRelease (r : RingId) (k : Nat) (e : Nat) (s : State) : Host.Outcome State Fault Refusal :=
  act s (s.holdRelease r k e)

/-- QP_ERROR (R438). -/
def execQpError (qp : Fin 256) (s : State) : Host.Outcome State Fault Refusal := act s (s.qpFail qp.val)

/-- ROCE_RESPONSE_RECEIVE (R356, R436, R439). -/
def execRoceResponseReceive (q : RoceResp) (s : State) : Host.Outcome State Fault Refusal := act s (s.roceResponse q)

/-- ROCE_ACK_TIMEOUT (R358). -/
def execRoceAckTimeout (qp : Fin 256) (s : State) : Host.Outcome State Fault Refusal := act s (s.roceTimeout qp.val)

end Sys2Proof.Machine
end

