-- ==== Sys2Proof/Machine/RefRule.lean ====
section
/-!
DEFINITION. The reference rule (spec/09 R258 to R261) as the whole pass of a handler, the output of complete blocks to the
compute copy, and the starts of both handlers (R254, R265).
-/
namespace Sys2Proof.Machine

open State

/-! FP32 sums of the reference rule (R258), on FP32 codes. -/

/-- The sum of squares of the elements of one lane, ascending, one FMA each. -/
def laneAcc (xs : List Nat) : Nat := xs.foldl (fun a x => f32Fma x x a) 0

/-- FRED of 64 lanes. -/
def fred (lanes : List Nat) : Nat := match lanes with
  | [] => 0
  | x :: xs => xs.foldl f32Add x

/-- lane_sum of the squares of a list: element j goes to lane j mod 64. -/
def laneSumSq (xs : List Nat) : Nat :=
  fred ((List.range 64).map fun l => laneAcc ((List.range (ceilDiv (xs.length - l) 64)).map fun i => xs.getD (64 * i + l) 0))

/-- sum_ascending of a list. -/
def sumAsc (xs : List Nat) : Nat := xs.foldl f32Add 0

/-- The FP32 code with its sign turned. -/
def f32Neg (x : Nat) : Nat := fp32.round (f32 x).neg

/-! The factorisation of R259 and R247. -/

/-- PIVOT of one lane: √d, 1/√d, and whether PIVF is set. -/
def pivotLane (d t : Nat) : Nat × Nat × Bool :=
  if (f32 t).lt (f32 d) then (f32Sqrt d, f32Rsqrt d, false) else (0, 0, true)

/-- A Cholesky factor so far: its rows below the diagonal with it, the inverses of the diagonal, and PIVF. Pivot i passes
through lane i, which the spec does not say (DESIGN CHOICE). -/
structure Chol where
  rows : List (List Nat)
  inv  : List Nat
  bad  : Nat
  deriving DecidableEq, Repr

/-- x minus the sum of products of two rows' first elements, one FMA each. -/
def minusDot (x : Nat) (a b : List Nat) : Nat := (a.zip b).foldl (fun acc p => f32Fma (f32Neg p.1) p.2 acc) x

/-- One row of a Cholesky factor from a row of the matrix (R259). -/
def cholRow (t : Nat) (c : Chol) (row : List Nat) : Chol :=
  let i := c.rows.length
  let left := (c.rows.zip c.inv).foldl (fun (l : List Nat) (r, v) => l ++ [f32Mul (minusDot (row.getD l.length 0) l (r.take l.length)) v]) []
  let (d, v, bad) := pivotLane (minusDot (row.getD i 0) left left) t
  ⟨c.rows ++ [left ++ [d]], c.inv ++ [v], c.bad ||| (b2n bad * 2 ^ i)⟩

/-- The factor of a matrix under a pivot threshold. -/
def chol (t : Nat) (a : List (List Nat)) : Chol := a.foldl (cholRow t) ⟨[], [], 0⟩

/-- The solution x of x · A = b by a factor of A. -/
def cholSolve (c : Chol) (b : List Nat) : List Nat :=
  let y := (c.rows.zip c.inv).foldl (fun (y : List Nat) (r, v) => y ++ [f32Mul (minusDot (b.getD y.length 0) y (r.take y.length)) v]) []
  let n := c.rows.length
  (List.range n).foldl (fun (x : List Nat) k =>
    let i := n - 1 - k
    let col := (List.range k).map fun j => (c.rows.getD (i + 1 + j) []).getD i 0
    f32Mul (minusDot (y.getD i 0) col x) (c.inv.getD i 0) :: x) []

namespace State

/-! Blocks handed to the output converter (R246, R261, R264). -/

/-- A descriptor that names a layer's metadata as a GEMM's P1 and P2 do. -/
def metaDesc (e : Nat) : Nat := lMeta e * 2 ^ 512 + lPitch e * 2 ^ 576

/-- A region of a compute copy written compressed under its metadata (R205, R261); Sage sees the elements written, not the
positions dropped (R101, R517). -/
def writeSparse (s : State) (v : Via) (slot : Fin 8) (m : Mat) (ctr : Option Nat) (e r0 c0 h w : Nat) (f : Nat → Nat → SVal) :
    State × (Nat × Int) :=
  let key := s.streamKey slot (mdSrs m.md)
  let mode (i j : Nat) : RMode := match ctr with
    | some c => .stochastic (randomAt key c m.cols i j)
    | none => .nearest
  let place (i j : Nat) : Option Nat := s.compressedRow (metaDesc e) m.md i j
  let g (i j : Nat) : SVal := if (place i j).isSome then f i j else (f32 0).scaled 0
  let c := convRegion m.md m.lt false mode r0 c0 h w g
  let wd := (mdFormat m.md).width
  let cells := (List.range h).flatMap fun i => (List.range w).filterMap fun j =>
    (place (r0 + i) (c0 + j)).map fun k => (k, c0 + j, (c.codes.getD i []).getD j 0)
  let s := s.putConv { v with hint := mdHint m.md } m r0 c0 { c with codes := [] }
  let s := cells.foldl (fun s (k, j, x) => s.storeBits { v with hint := mdHint m.md } (m.elemBit k j) wd x) s
  let notes := (c.notes.zipIdx).filterMap fun (x, k) => if (place (r0 + k / w) (c0 + k % w)).isSome then some x else none
  (s.sageReport slot (mdFmt m.md) notes c.scales.flatten, c.amax)

/-- The compute copy of a layer's new parity, without its scale. -/
def copyMat (s : State) (e : Nat) : Mat :=
  let m := s.peek (lCcmd e (1 - lParity e)) 128
  ⟨m, bits (mdRows m) 63 32, bits (mdCols m) 63 32, 0⟩

/-- The issue update of a record for a write in step n (R98): the exponent of T by which the write goes on, and WARM; none
where the record carries the marker, which stays (R100). -/
def recordIssue (s : State) (v : Via) (n md : Nat) : State × Option (Int × Bool) :=
  if !mdPts md then (s, some (0, false))
  else if s.poisoned (mdRec md) 64 then (s.readRange v (mdRec md) 64, none)
  else
    let r := recIssue n (s.peek (mdRec md) 64)
    (s.update v (mdRec md) (toBytes 64 r), some (recExp r, bit r 359))

/-- The exponent of T for the compute copy of a layer, whose record takes its issue update at the first QBLK (R264, R98,
R99); none where that consumes poison. -/
def copyIssue (s : State) (l : Layer) : State × Option Int :=
  match ((s.layerOf l.entry).getD l).recQ with
  | some t => (s, some t)
  | none =>
    match s.recordIssue (s.layerVia l) l.step.toNat (s.copyMat (s.peek l.entry 128)).md with
    | (s, some (t, warm)) =>
      ((s.modLayer l.entry fun x => { x with recQ := some t }).modOp l.op fun o => { o with warm := o.warm || warm }, some t)
    | (s, none) => (s.modLayer l.entry fun x => { x with poison := true }, none)

/-- A region of a layer's compute copy written by its APPLY handler (R261, R263, R264); where the record consumes poison,
the region carries the marker. -/
def copyWrite (s : State) (l : Layer) (r0 c0 h w : Nat) (f : Nat → Nat → SVal) : State :=
  let e := s.peek l.entry 128
  if h = 0 || w = 0 then s
  else
    let m := s.copyMat e
    match s.copyIssue l with
    | (s, none) => s.poisonRegion m r0 c0 h w
    | (s, some t) =>
      let m := { m with lt := t }
      let v := s.layerVia l
      let ctr := if mdRnd m.md then some l.ctr else none
      let (s, a) := if lSparse e then s.writeSparse v (ringSlot l.ring) m ctr e r0 c0 h w f
        else s.writeRegion v (ringSlot l.ring) m ctr false r0 c0 h w f
      s.modLayer l.entry fun x => { x with amax := maxSq x.amax a }

/-! The reference rule's passes. -/

/-- FP32 codes of n values at an address. -/
def f32At (s : State) (a n : Nat) : List Nat := (List.range n).map fun i => s.peek (a + 4 * i) 4

/-- Row i of a gradient shard, as FP32 codes. -/
def gradRow (s : State) (e i : Nat) : List Nat := (List.range (lCols e)).map fun j =>
  let a := lGrad e + (i * lCols e + j) * lWidth e
  if lBf16 e then s.peek a 2 * 2 ^ 16 else s.peek a 4

/-- Bytes among lines read or held: number, bytes, marker. -/
def pieceOf (got : List (Nat × List Byte × Bool)) (a k : Nat) : Nat :=
  ofBytes ((span a k).map fun b => match got.find? (·.1 == b / 64) with
    | some (_, bs, _) => bs.getD (b % 64) 0
    | none => 0)

/-- Row i of a gradient shard as the handler of a chunk sees it: from the Trough where the chunk is held whole there
(R254). -/
def chunkRow (s : State) (l : Layer) (e i : Nat) : List Nat :=
  if !s.wholeInTrough l then s.gradRow e i
  else (List.range (lCols e)).map fun j =>
    let a := lGrad e + (i * lCols e + j) * lWidth e
    if lBf16 e then pieceOf l.trough a 2 * 2 ^ 16 else pieceOf l.trough a 4

/-- FP32 codes stored. -/
def putF32 (s : State) (v : Via) (a : Nat) (xs : List Nat) : State := s.store v a (xs.flatMap (toBytes 4))

/-- The CHUNK handler of the reference rule (R258, R259). -/
def chunkPass (s : State) (l : Layer) : State :=
  let e := s.peek l.entry 128
  let v := s.layerVia l
  let C := lCols e
  let r0 := l.next * lCrows e
  let n := min (lRows e) (r0 + lCrows e) - r0
  let gs := (span r0 n).map (s.chunkRow l e)
  let scr := lScr e
  let vec := lVec e (lParity e)
  let c0 := if r0 = 0 then List.replicate C 0 else s.f32At scr C
  let s0 := if r0 = 0 then 0 else s.peek (scr + 4 * C) 4
  let q := f32Canon (if r0 = 0 then s.peek (vec + svrOff e + 4) 4 else s.peek (scr + 4 * C + 4) 4)
  let r := gs.map laneSumSq
  let c := gs.foldl (fun c g => List.zipWith (fun a x => f32Fma x x a) c g) c0
  let gram := up64 (4 * C + 8)
  let gramOf (b : Nat) : List Nat :=
    let old := if r0 = 0 then List.replicate 4096 0 else s.f32At (scr + gram + 16384 * b) 4096
    gs.foldl (fun m g => (m.zipIdx).map fun (a, k) => f32Fma (g.getD (64 * b + k / 64) 0) (g.getD (64 * b + k % 64) 0) a) old
  let blocks := if lPrecond e then (List.range (lBlocks e)).map gramOf else []
  let bad := ((s.layerOf l.entry).getD l).poison || (r0 != 0 && s.poisoned scr (lReduce e)) ||
    (r0 == 0 && s.poisoned (vec + svrOff e) 8)
  let s := (s.putF32 v scr (c ++ [f32Add s0 (sumAsc r), q])).putF32 v (lRsums e + 4 * r0) r
  let s := (blocks.zipIdx).foldl (fun s (m, b) => s.putF32 v (scr + gram + 16384 * b) m) s
  if bad then ((s.poisonRange scr (lReduce e)).poisonRange (lRsums e + 4 * r0) (4 * n)).modLayer l.entry fun x => { x with poison := true }
  else s

/-- The preconditioned directions of R259: the new blocks H, a map from a row of k·g to a row of u, and PIVF after the
last factoring, where the diagonal fallback is used unless it is 0. Columns beyond COLS of the last block take part as H
and the Gram block hold them, with gradients of +0. -/
def precond (s : State) (e k hb lambda epsPiv eps : Nat) : List (List Nat) × (List Nat → List Nat) × Nat :=
  let C := lCols e
  let rt := f32OfInt (lRtot e)
  let vec := lVec e (lParity e)
  let gram := lScr e + up64 (4 * C + 8)
  let h2 := (List.range (lBlocks e)).map fun b =>
    List.zipWith (fun h g => f32Add (f32Mul hb h) (f32Div (f32Mul (f32Mul (f32Sub one32 hb) (f32Mul k k)) g) rt))
      (s.f32At (vec + hOff e + 16384 * b) 4096) (s.f32At (gram + 16384 * b) 4096)
  let factor (lam : Nat) : List Chol := h2.map fun h =>
    let t := sumAsc ((List.range 64).map fun i => h.getD (65 * i) 0)
    let add := f32Mul lam (f32Div t (f32OfInt 64))
    chol (f32Mul epsPiv t) ((List.range 64).map fun i => (List.range 64).map fun j =>
      let x := h.getD (64 * i + j) 0
      if i = j then f32Add x add else x)
  let pivf (f : List Chol) : Nat := f.foldl (fun x c => x ||| c.bad) 0
  let lam (i : Nat) : Nat := (List.range i).foldl (fun x _ => f32Mul x 0x41200000) lambda
  match ((List.range 4).map fun i => factor (lam i)).find? fun f => pivf f == 0 with
  | some f => (h2, fun g => ((f.zipIdx).flatMap fun (c, b) => cholSolve c ((g.drop (64 * b)).take 64)).take C, 0)
  | none => (h2, fun g => (g.zipIdx).map fun (x, j) =>
      f32Div x (f32Sqrt (f32Add ((h2.getD (j / 64) []).getD (65 * (j % 64)) 0) eps)), pivf (factor (lam 3)))

/-- The APPLY handler of the reference rule (R258 to R263): its stores, NONFIN, URATIO and PIVF. Of a frozen group no
store is made, none is checked and nothing of the new parity takes a marker. -/
def applyPass (s : State) (l : Layer) : State :=
  let e := s.peek l.entry 128
  let v := s.layerVia l
  let C := lCols e
  let R := lRows e
  let p := lParity e
  let n := 1 - p
  let k := l.k
  let cst := s.f32At (bits l.sched 239 192) 6
  let b1 := cst.getD 0 0
  let b2 := cst.getD 1 0
  let eps := cst.getD 2 0
  let wd := bits l.sched 95 64
  let d := bits l.sched 127 96
  let rt := f32OfInt (lRtot e)
  let Cf := f32OfInt C
  let vec := lVec e p
  let scr := lScr e
  let mix (old x den : Nat) : Nat := f32Add (f32Mul b2 old) (f32Div (f32Mul (f32Mul (f32Mul (f32Sub one32 b2) k) k) x) den)
  let vr2 := List.zipWith (fun o x => mix o x Cf) (s.f32At vec R) (s.f32At (lRsums e) R)
  let vc2 := List.zipWith (fun o x => mix o x rt) (s.f32At (vec + vcOff e) C) (s.f32At scr C)
  let svr2 := mix (s.peek (vec + svrOff e) 4) (s.peek (scr + 4 * C) 4) Cf
  let q := s.peek (scr + 4 * C + 4) 4
  let f := if (f32 0).lt (f32 d) then
      let x := f32Div (f32Sqrt (f32Div q (f32Mul rt Cf))) d
      if (f32 one32).lt (f32 x) then x else one32
    else one32
  let (h2, pre, back) := if lPrecond e then s.precond e k (cst.getD 5 0) (cst.getD 4 0) (cst.getD 3 0) eps else ([], id, 0)
  let dirs := (List.range R).map fun i =>
    let g := (s.gradRow e i).map (f32Mul k)
    if lPrecond e then pre g
    else (g.zip vc2).map fun (x, c) => f32Div x (f32Sqrt (f32Add (f32Div (f32Mul (f32Mul (vr2.getD i 0) c) rt) svr2) eps))
  let dropped (i j : Nat) : Bool := lSparse e && (s.compressedRow (metaDesc e) (s.copyMat e).md i j).isNone
  let ws := (List.range R).map fun i => s.f32At (lMaster e p + 4 * i * C) C
  let m2 := (dirs.zipIdx).map fun (u, i) => ((u.zip (s.f32At (lMom e p + 4 * i * C) C)).zipIdx).map fun ((x, m), j) =>
    if dropped i j then 0 else f32Add (f32Mul b1 m) (f32Div (f32Mul (f32Sub one32 b1) x) f)
  let w2 := ((ws.zip m2).zipIdx).map fun ((w, m), i) => ((w.zip m).zipIdx).map fun ((w, m), j) =>
    if dropped i j then 0 else f32Sub w (f32Mul l.lr (f32Add m (f32Mul wd w)))
  let qprev2 := sumAsc (dirs.map laneSumSq)
  let num := laneSumSq (List.zipWith f32Sub w2.flatten ws.flatten)
  let den := laneSumSq ws.flatten
  let ratio := if den % 2 ^ 31 = 0 then (if num % 2 ^ 31 = 0 then 0 else fp32.infCode) else f32Sqrt (f32Div num den)
  let nonfin := (w2.flatten ++ m2.flatten ++ vr2 ++ vc2 ++ [svr2, qprev2] ++ h2.flatten).any fun x => !f32Fin x
  let bad := s.poisoned (lGrad e) (R * C * lWidth e) || s.poisoned scr (lReduce e) || s.poisoned (lRsums e) (4 * R) ||
    s.poisoned vec (vecLen e) || s.poisoned (lMaster e p) (4 * R * C) || s.poisoned (lMom e p) (4 * R * C) ||
    s.poisoned (bits l.sched 239 192) 24
  let m := s.copyMat e
  let dv := lVec e n
  let out (s : State) : State :=
    let s := (s.putF32 v (lMaster e n) w2.flatten).putF32 v (lMom e n) m2.flatten
    let s := ((s.putF32 v dv vr2).putF32 v (dv + vcOff e) vc2).putF32 v (dv + svrOff e) [svr2, qprev2]
    let s := (h2.zipIdx).foldl (fun s (h, b) => s.putF32 v (dv + hOff e + 16384 * b) h) s
    s.copyWrite l 0 0 R C fun i j => (f32 ((w2.getD i []).getD j 0)).scaled 0
  let stores := 2 * R * ceilDiv C 64 + ceilDiv R 64 + ceilDiv C 64 + 2 + 64 * h2.length +
    (if mdNarrow m.md then m.gr * m.gc else R * ceilDiv C 64)
  let s := s.readRange v (lGrad e) (R * C * lWidth e)
  let s := if gFrozen l.sched then s.inc Reg.UPD_FROZEN_WRITE_COUNT 0 stores else out s
  let frozen := gFrozen l.sched
  let s := if bad && frozen then s.modLayer l.entry fun x => { x with poison := true }
    else if bad then
      let s := (s.poisonRange (lMaster e n) (4 * R * C)).poisonRange (lMom e n) (4 * R * C)
      ((s.poisonRange dv (vecLen e)).poisonRegion m 0 0 R C).modLayer l.entry fun x => { x with poison := true }
    else s
  let bad := nonfin && !frozen
  let s := s.modSprig (homeSprig e) fun x => { x with
    uratio := BitVec.ofNat 32 ratio, nonfin := bad, pivf := if lPrecond e then BitVec.ofNat 64 back else x.pivf }
  s.applyReturn l.entry bad ratio (back != 0)

/-! The starts of the handlers. -/

/-- The next chunk of a layer is handled (R254, R255): step by step, or by the reference rule's whole pass. -/
def chunkHandle (s : State) (entry : Nat) (run : HandlerRun) : State :=
  match s.layerOf entry with
  | none => s
  | some l =>
    let s := s.noteReady
    if !chunkDue l || !s.turnNow l then s
    else
      let s := s.chunkFeed l
      match run with
      | .stepwise => s.chunkEnter l
      | .reference => (((s.chunkEnter l).chunkPass l).modSprig (homeSprig (s.peek entry 128)) fun x => { x with job := none }).chunkReturn entry l.next

/-- The APPLY handler of a layer starts (R255, R262, R265), after cycles spent waiting for HOLD and for readers. -/
def applyHandle (s : State) (entry : Nat) (run : HandlerRun) (held readers : Nat) : State :=
  match s.layerOf entry with
  | none => s
  | some l =>
    let s := s.noteReady
    if !s.applyDue l || !s.turnNow l then s
    else
      let s := (s.inc Reg.UPD_HOLD_CYC_COUNT 0 held).inc Reg.UPD_READER_CYC_COUNT 0 readers
      match s.clipOf l with
      | (s, none) => (s.modLayer entry fun x => { x with phase := .applied, nonN2 := true }).noteReady
      | (s, some k) =>
        let l := { l with k := k }
        let s := (s.modLayer entry fun x => { x with k := k }).applyEnter l
        match run with
        | .stepwise => s
        | .reference => (s.applyPass l).modSprig (homeSprig (s.peek entry 128)) fun x => { x with job := none }

end State

/-- CHUNK_HANDLER (R254). -/
def execChunkHandler (entry : BitVec 48) (run : HandlerRun) (s : State) : Host.Outcome State Fault Refusal :=
  act s (s.chunkHandle entry.toNat run)

/-- APPLY_HANDLER (R265). -/
def execApplyHandler (entry : BitVec 48) (run : HandlerRun) (holdCycles readerCycles : Nat) (s : State) :
    Host.Outcome State Fault Refusal := act s (s.applyHandle entry.toNat run holdCycles readerCycles)

end Sys2Proof.Machine
end

