-- ==== Sys2Proof/Machine/Sprig.lean ====
section
/-!
DEFINITION. The Sprig instructions (spec/09 R245 to R248, R263; spec/11 R314, R319, R324): each acts on a Sprig that runs a
program or a handler, and changes nothing on one that runs none. The scalar instructions executed before it, for which the
opcode table has no row, come with it (R246). Whether a register holds data derived from poison is kept beside it (R302).
-/
namespace Sys2Proof.Machine

open State

/-! Values of lanes, as FP32 codes. -/

/-- The IEEE 754 minimum, with −0 below +0. -/
def laneMin (a b : Nat) : Nat :=
  if (f32 a).isNan || (f32 b).isNan then fp32.nanCode
  else if (f32 a).lt (f32 b) then a else if (f32 b).lt (f32 a) then b else max a b

/-- The IEEE 754 maximum, with −0 below +0. -/
def laneMax (a b : Nat) : Nat :=
  if (f32 a).isNan || (f32 b).isNan then fp32.nanCode
  else if (f32 a).lt (f32 b) then b else if (f32 b).lt (f32 a) then a else min a b

/-- A compare condition; every condition but `ne` and `un` is false on a NaN. -/
def condHolds (c : FCond) (a b : Nat) : Bool :=
  let x := f32 a
  let y := f32 b
  match c with
  | .eq => x.eq y
  | .ne => !x.eq y
  | .lt => x.lt y
  | .le => x.lt y || x.eq y
  | .gt => y.lt x
  | .ge => y.lt x || x.eq y
  | .un => x.isNan || y.isNan

/-- A conversion between FP32 and a 16-bit format, whose code stands in the low half of its lane. -/
def cvtCode (k : CvtKind) (x : Nat) : Nat :=
  match k with
  | .toBf16 => bf16.round (f32 x)
  | .fromBf16 => fp32.round (bf16.decode (x % 2 ^ 16))
  | .toFp16 => fp16.round (f32 x)
  | .fromFp16 => fp32.round (fp16.decode (x % 2 ^ 16))

/-- Bytes of an element in memory. -/
def laneBytes (f : LaneFmt) : Nat := match f with
  | .fp32 => 4
  | .bf16 => 2
  | .fp16 => 2

/-- A lane's value from its bytes in memory; a NaN becomes canonical (R75, R246). -/
def laneLoad (f : LaneFmt) (x : Nat) : Nat := match f with
  | .fp32 => f32Canon x
  | .bf16 => fp32.round (bf16.decode x)
  | .fp16 => fp32.round (fp16.decode x)

/-- The bytes of a lane's value in memory; a NaN is written canonical (R75, R246). -/
def laneStore (f : LaneFmt) (x : Nat) : Nat := match f with
  | .fp32 => f32Canon x
  | .bf16 => bf16.round (f32 x)
  | .fp16 => fp16.round (f32 x)

/-! Registers of a Sprig. -/

/-- A lane of a vector register. -/
def Sprig.lane (x : Sprig) (v : Fin 32) (l : Fin 64) : Nat := x.v[v][l].toNat

/-- Whether a lane is active under a predicate. -/
def Sprig.active (x : Sprig) (p : Pred) (l : Fin 64) : Bool := match p with
  | none => true
  | some q => x.p[q].toNat.testBit l.val

/-- Whether a predicate derives from poison. -/
def Sprig.predTaint (x : Sprig) (p : Pred) : Bool := match p with
  | none => false
  | some q => x.tp.toNat.testBit q.val

/-- Whether one of some vector registers derives from poison. -/
def Sprig.vecTaint (x : Sprig) (vs : List (Fin 32)) : Bool := vs.any fun v => x.tv.toNat.testBit v.val

/-- Whether a scalar register derives from poison. -/
def Sprig.scalTaint (x : Sprig) (r : Fin 32) : Bool := x.ts.toNat.testBit r.val

/-- A mark of poison set or cleared in a bit mask. -/
def markBit {w : Nat} (m : BitVec w) (i : Nat) (on : Bool) : BitVec w :=
  let b : BitVec w := BitVec.ofNat w (2 ^ i)
  if on then m ||| b else m &&& ~~~b

/-- The active lanes of a vector register written; the others keep their values. -/
def Sprig.setVec (x : Sprig) (vd : Fin 32) (p : Pred) (f : Fin 64 → Nat) (taint : Bool) : Sprig :=
  let old := p.isSome && x.vecTaint [vd]
  let w : Vector Word 64 := Vector.ofFn fun l => if x.active p l then BitVec.ofNat 32 (f l) else x.v[vd][l]
  { x with v := x.v.set vd w, tv := markBit x.tv vd.val (taint || old || x.predTaint p) }

/-- A scalar register written. -/
def Sprig.setScal (x : Sprig) (sd : Fin 32) (n : Nat) (taint : Bool) : Sprig :=
  { x with s := x.s.set sd (BitVec.ofNat 64 n), ts := markBit x.ts sd.val taint }

/-- A predicate register written. -/
def Sprig.setPred (x : Sprig) (pd : Fin 8) (n : Nat) (taint : Bool) : Sprig :=
  { x with p := x.p.set pd (BitVec.ofNat 64 n), tp := markBit x.tp pd.val taint }

/-- A lane-wise operation of one source. -/
def Sprig.map1 (x : Sprig) (vd va : Fin 32) (p : Pred) (f : Nat → Nat) : Sprig :=
  x.setVec vd p (fun l => f (x.lane va l)) (x.vecTaint [va])

/-- A lane-wise operation of two sources. -/
def Sprig.map2 (x : Sprig) (vd va vb : Fin 32) (p : Pred) (f : Nat → Nat → Nat) : Sprig :=
  x.setVec vd p (fun l => f (x.lane va l) (x.lane vb l)) (x.vecTaint [va, vb])

/-- FMA: the exact product and sum, rounded once. -/
def Sprig.fma (x : Sprig) (vd va vb vc : Fin 32) (p : Pred) : Sprig :=
  x.setVec vd p (fun l => f32Fma (x.lane va l) (x.lane vb l) (x.lane vc l)) (x.vecTaint [va, vb, vc])

/-- FRED: the active lanes summed in ascending order into a scalar register. -/
def Sprig.fred (x : Sprig) (sd va : Fin 32) (p : Pred) : Sprig :=
  let lanes := ((List.finRange 64).filter (x.active p)).map (x.lane va)
  x.setScal sd (f32Canon (Machine.fred lanes)) (x.vecTaint [va] || x.predTaint p)

/-- The number whose bit l is f l. -/
def laneBits (f : Fin 64 → Bool) : Nat := (List.finRange 64).foldl (fun acc l => acc + b2n (f l) * 2 ^ l.val) 0

/-- FCMP: the active lanes' bits of a predicate register written. -/
def Sprig.fcmp (x : Sprig) (c : FCond) (pd : Fin 8) (va vb : Fin 32) (p : Pred) : Sprig :=
  x.setPred pd (laneBits fun l => if x.active p l then condHolds c (x.lane va l) (x.lane vb l) else x.p[pd].toNat.testBit l.val)
    (x.vecTaint [va, vb] || x.predTaint p || (p.isSome && x.tp.toNat.testBit pd.val))

/-- PIVOT (R247), its second result into the register `ve`. -/
def Sprig.pivot (x : Sprig) (vd ve vs st : Fin 32) (p : Pred) : Sprig :=
  let t := x.s[st].toNat % 2 ^ 32
  let taint := x.vecTaint [vs] || x.scalTaint st
  let r (l : Fin 64) : Nat × Nat × Bool := pivotLane (x.lane vs l) t
  let bad := laneBits fun l => x.active p l && (r l).2.2
  let y := (x.setVec vd p (fun l => (r l).1) taint).setVec ve p (fun l => (r l).2.1) taint
  { y with pivf := x.pivf ||| BitVec.ofNat 64 bad }

/-! The scalar instructions (R246). -/

/-- Integer arithmetic. R246 names no operation of it: these, and that they wrap, are the model's (DESIGN CHOICE). -/
def intOp (op : IntOp) (a b : DWord) : DWord := match op with
  | .add => a + b
  | .sub => a - b
  | .mul => a * b
  | .and => a &&& b
  | .or => a ||| b
  | .xor => a ^^^ b
  | .shl => a <<< (b.toNat % 64)
  | .shr => a >>> (b.toNat % 64)

/-- A special register as scalar code reads it. -/
def Sprig.special (x : Sprig) (r : Special) : Nat := match r with
  | .pivf => x.pivf.toNat
  | .nonfin => b2n x.nonfin
  | .uratio => x.uratio.toNat

/-- A scalar instruction: only the code clears PIVF, and it writes URATIO (R247, R260). -/
def Sprig.scalar (x : Sprig) (c : Scalar) : Sprig := match c with
  | .int op sd sa sb => x.setScal sd (intOp op x.s[sa] x.s[sb]).toNat (x.scalTaint sa || x.scalTaint sb)
  | .imm sd v => x.setScal sd v.toNat false
  | .branch _ => x
  | .get r sd => x.setScal sd (x.special r) false
  | .clearPivf => { x with pivf := 0 }
  | .putUratio ss => { x with uratio := BitVec.ofNat 32 x.s[ss].toNat }

namespace State

/-! Running instructions. -/

/-- Whether a Sprig runs a program or a handler now. -/
def sprigRuns (s : State) (n : SprigId) : Bool := s.running && (s.sprigs[n]).job.isSome

/-- An instruction that touches only its Sprig's registers, after the scalar instructions before it. -/
def sprigDo (s : State) (sp : SprigAt) (f : Sprig → Sprig) : State :=
  if s.sprigRuns sp.n then s.modSprig sp.n fun x => f (sp.before.foldl Sprig.scalar x) else s

/-- The layer whose handler a Sprig runs. -/
def sprigLayer (s : State) (n : SprigId) : Option Layer :=
  match (s.sprigs[n]).job with
  | some (.chunk e _) => s.layerOf e
  | some (.apply e) => s.layerOf e
  | _ => none

/-- The layer whose APPLY handler a Sprig runs. -/
def sprigApply (s : State) (n : SprigId) : Option Layer :=
  match (s.sprigs[n]).job with
  | some (.apply e) => s.layerOf e
  | _ => none

/-- The macro-op a Sprig works for. -/
def sprigOp (s : State) (n : SprigId) : Option Op :=
  match (s.sprigs[n]).job with
  | some (.program o) => s.opOf o
  | _ => (s.sprigLayer n).bind fun l => s.opOf l.op

/-- How a Sprig accesses memory. -/
def sprigVia (s : State) (n : SprigId) : Via := ⟨sprigDie n, (s.sprigOp n).map Op.slot, true, 0⟩

/-- Poison consumed by a Sprig: the condition of its macro-op, or of its layer (R264, R302). -/
def sprigPoison (s : State) (n : SprigId) : State :=
  match (s.sprigs[n]).job with
  | some (.program o) => s.opFlag o 1
  | some (.chunk e _) => s.modLayer e fun l => { l with poison := true }
  | some (.apply e) => s.modLayer e fun l => { l with poison := true }
  | none => s

/-! The L1 (R324). -/

/-- The lines of the Trough that a Sprig's CHUNK handler may load (R254). -/
def troughLines (s : State) (n : SprigId) : List (Nat × List Byte × Bool) :=
  match (s.sprigs[n]).job, s.sprigLayer n with
  | some (.chunk _ _), some l => l.trough
  | _, _ => []

/-- Whether a line of the Trough's addresses belongs to the chunk that a Sprig's CHUNK handler runs on. -/
def troughPlace (s : State) (n : SprigId) (line : Nat) : Bool := match (s.sprigs[n]).job, s.sprigLayer n with
  | some (.chunk _ _), some l => decide (troughBase / 64 ≤ line) && (s.chunkLines l).contains (line - troughBase / 64)
  | _, _ => false

/-- One line read by a Sprig: from the Trough, or where that lost it, read back from the gradient shard (R447); from its
L1 while the copy stays there, which is free; and otherwise from memory. The L1 keeps the marker of a line, whose bytes are
free. -/
def l1Line (s : State) (n : SprigId) (line : Nat) : State × List Byte × Bool :=
  let x := s.sprigs[n]
  let free (s : State) : State × List Byte × Bool :=
    ((s.sprigPoison n).tickN 64, (List.range 64).map fun i => Config.freeByte (s.free + i), true)
  if troughBase / 64 ≤ line then
    match (s.troughLines n).find? (·.1 == line - troughBase / 64) with
    | some (_, bs, bad) => if bad then free s else (s, bs, false)
    | none =>
      let l := line - troughBase / 64
      let s := s.readLine (s.sprigVia n) l
      if s.linePoison l then free s else (s, s.bytesAt (64 * l) 64, false)
  else
  match (x.l1.find? (·.1 == line), s.choose 2) with
  | (some (_, bs, bad), 0) => if bad then free s.tick else (s.tick, bs, false)
  | (c, _) =>
    let s := (if c.isSome then s.tick else s).readLine (s.sprigVia n) line
    let bad := s.linePoison line
    let bs := s.bytesAt (64 * line) 64
    let s := s.modSprig n fun y => { y with l1 := ((line, bs, bad) :: y.l1.filter (·.1 != line)).take 512 }
    if bad then free s else (s, bs, false)

/-- The lines of some pieces of memory (address and bytes), each once, read by a Sprig. -/
def l1Lines (s : State) (n : SprigId) (pieces : List (Nat × Nat)) : State × List (Nat × List Byte × Bool) :=
  let lines := (pieces.flatMap fun (a, k) => [a / 64, (a + k - 1) / 64]).eraseDups
  lines.foldl (fun (s, got) line =>
    let (s, bs, bad) := s.l1Line n line
    (s, got ++ [(line, bs, bad)])) (s, [])

/-- A Sprig's own store brought into its L1: the copy of a plain line takes the bytes and the marker that memory takes
(`mark`: what is stored derives from poison), any other copy is dropped. -/
def l1Put (s : State) (n : SprigId) (line data mask : Nat) (mark : Bool) : State :=
  let plain := plainLine line && s.isMapped (line / 4096) && (s.windowOf (line / 4096)).isNone
  let put (c : Nat × List Byte × Bool) : Nat × List Byte × Bool :=
    if c.1 = line then
      let old := ofBytes c.2.1
      (line, toBytes 64 (old ^^^ ((old ^^^ data) &&& mask)), mark || (c.2.2 && mask != 2 ^ 512 - 1))
    else c
  s.modSprig n fun x => { x with l1 := if plain then x.l1.map put else x.l1.filter (·.1 != line) }

/-- Lines stored by a Sprig: written through, with the marker where what is stored derives from poison (R302). -/
def sprigStore (s : State) (n : SprigId) (taint : Bool) (ls : List (Nat × Nat × Nat)) : State :=
  ls.foldl (fun s (line, d, m) =>
    let s := (s.writeLine (s.sprigVia n) line d m false).l1Put n line d m (taint && m != 0)
    if taint && m != 0 && plainLine line && s.isMapped (line / 4096) then s.setPoison line true else s) s

/-! The isolation of an APPLY handler (R263). -/

/-- The byte ranges of the new parity's state of a layer (R250). -/
def newState (s : State) (e : Nat) : List (Nat × Nat) :=
  let p := 1 - lParity e
  let n := 4 * lRows e * lCols e
  [(lMaster e p, lMaster e p + n), (lMom e p, lMom e p + n), (lVec e p, lVec e p + vecLen e)] ++
    (Mat.ranges { s.copyMat e with md := putBits (s.copyMat e).md 74 74 0 }).map fun (a, b) => (a, a + b)

/-- Whether a piece of memory lies in the new parity's state. -/
def inState (rs : List (Nat × Nat)) (a k : Nat) : Bool := rs.any fun r => decide (a < r.2) && decide (r.1 < a + k)

/-- Pieces stored by a Sprig, each with the FP32 codes it holds. In an APPLY handler, a store into the new parity's state
is checked, and dropped where the group is frozen. `whole` joins the parts of a line. -/
def sprigPieces (s : State) (n : SprigId) (taint whole : Bool) (ps : List (Nat × Nat × Nat × List Nat)) : State :=
  let lines (ps : List (Nat × Nat × Nat × List Nat)) : List (Nat × Nat × Nat) :=
    let ls := ps.flatMap fun (a, k, x, _) => linesOf a (toBytes k x)
    if whole then joinLines ls else ls
  match s.sprigApply n with
  | none => s.sprigStore n taint (lines ps)
  | some l =>
    let rs := s.newState (s.peek l.entry 128)
    let (own, other) := ps.partition fun (a, k, _, _) => inState rs a k
    if gFrozen l.sched then
      (if own = [] then s else s.inc Reg.UPD_FROZEN_WRITE_COUNT 0 1).sprigStore n taint (lines other)
    else
      let bad := own.any fun (_, _, _, vs) => vs.any fun v => !f32Fin v
      let s := if bad then s.modSprig n fun x => { x with nonfin := true } else s
      (if taint && own ≠ [] then s.sprigPoison n else s).sprigStore n taint (lines ps)

/-! Loads and stores (R246). -/

/-- The addresses of the active lanes of an access: a base and a stride in bytes. -/
def laneAddrs (x : Sprig) (base stride : Nat) (p : Pred) : List (Fin 64 × Nat) :=
  ((List.finRange 64).filter (x.active p)).map fun l => (l, (base + stride * l.val) % 2 ^ 64)

/-- Whether a piece of memory lies neither in the logical device space nor, for a load, in the Trough. -/
def noPlace (s : State) (n : SprigId) (load : Bool) (k a : Nat) : Bool :=
  decide (spaceEnd < a + k) && !(load && [a / 64, (a + k - 1) / 64].all (s.troughPlace n))

/-- VLD and VLDS. -/
def sprigLoad (s : State) (n : SprigId) (f : LaneFmt) (vd : Fin 32) (as : List (Fin 64 × Nat)) (p : Pred) (taint : Bool) : State :=
  let k := (laneBytes f)
  let (s, got) := s.l1Lines n (as.map fun (_, a) => (a, k))
  let vals := as.map fun (l, a) => (l, laneLoad f (pieceOf got a k))
  let value (l : Fin 64) : Nat := ((vals.find? (·.1 == l)).map (·.2)).getD 0
  s.modSprig n fun x => x.setVec vd p value (taint || got.any (·.2.2))

/-- VST and VSTS. -/
def sprigSave (s : State) (n : SprigId) (f : LaneFmt) (vs : Fin 32) (as : List (Fin 64 × Nat)) (whole taint : Bool) : State :=
  let x := s.sprigs[n]
  let ps := as.map fun (l, a) => (a, (laneBytes f), laneStore f (x.lane vs l), [x.lane vs l])
  s.sprigPieces n (taint || x.vecTaint [vs]) whole ps

/-! The end of a program or a handler (R248, R254, R264). -/

/-- RET. -/
def sprigRet (s : State) (n : SprigId) : State :=
  let x := s.sprigs[n]
  let s := s.modSprig n fun x => { x with job := none }
  match x.job with
  | some (.program o) => (s.opDone o).sprigTurns
  | some (.chunk e c) => (s.chunkReturn e c).sprigTurns
  | some (.apply e) => (s.applyReturn e x.nonfin x.uratio.toNat (x.pivf != 0)).sprigTurns
  | none => s

/-- An access that may not be made ends the program; its macro-op completes with BOUND_ERR and a detail: 6 for a
misaligned LDACQ or STREL (R319). That an address beyond the logical device space, with detail 7, and a descriptor that
R82 forbids end it too is the model's choice (DESIGN CHOICE): BOUND_ERR's details name both, and no rule says what a
Sprig's code meets. -/
def sprigStop (s : State) (n : SprigId) (detail : Nat) : State :=
  (match s.sprigOp n with
    | some o => (s.opFlag o.id 4).modOp o.id fun o => { o with detail := if o.detail = 0 then detail else o.detail }
    | none => s).sprigRet n

/-- LDACQ: the line as performed is read; at DIE, DEVICE and FABRIC scope the L1 is invalidated (R311, R319, R324). -/
def sprigAcquire (s : State) (n : SprigId) (k : Nat) (scope : Fin 4) (sd : Fin 32) (a : Nat) (taint : Bool) : State :=
  let s := s.readLine (s.sprigVia n) (a / 64)
  let bad := s.linePoison (a / 64)
  let val := if bad then ofBytes ((List.range k).map fun i => Config.freeByte (s.free + i)) else s.peek a k
  let s := if bad then (s.sprigPoison n).tickN k else s
  s.modSprig n fun x => { x.setScal sd val (bad || taint) with l1 := if scope = 0 then x.l1 else [] }

/-- STREL: earlier stores have been made, so the store follows at once (R310, R319). -/
def sprigRelease (s : State) (n : SprigId) (k : Nat) (ss : Fin 32) (a : Nat) (taint : Bool) : State :=
  let v := (s.sprigs[n]).s[ss].toNat
  let words := if k = 4 then [v % 2 ^ 32] else [v % 2 ^ 32, v / 2 ^ 32]
  s.sprigPieces n (taint || (s.sprigs[n]).scalTaint ss) true [(a, k, v % 2 ^ (8 * k), words)]

/-! QBLK (R246). -/

/-- What is wrong with a descriptor named by a QBLK (R82, R134, R138). -/
def blockChecks (s : State) (r : RingId) (a : Nat) : List (Bool × Nat) :=
  let at_ := addrChecks a 128 true
  if (firstDetail at_).isSome then at_
  else
    let m := s.peek a 128
    let x : Mat := ⟨m, s.shapeOf r (mdRows m), s.shapeOf r (mdCols m), 0⟩
    let head := mdChecks m true false
    if (firstDetail head).isSome then head
    else [(overCap (mdRows m) x.rows || overCap (mdCols m) x.cols, 4)] ++ s.writtenChecks x .written true

/-- What a macro-op keeps of a descriptor that a QBLK of its code names. At the first block, the counter of its random
stream is taken and its record takes the issue update: the spec puts both at the issue of the macro-op, which does not
know the descriptor (DESIGN CHOICE). None where the record carries the marker (R100). -/
def blockTake (s : State) (n : SprigId) (o : Op) (a : Nat) : State × Option Blk :=
  let m := s.peek a 128
  match o.blks.find? fun b => b.addr == a && b.md == m with
  | some b => (s, some b)
  | none =>
    match s.recordIssue (s.sprigVia n) (s.stepLow o.slot) m with
    | (s, none) => (s, none)
    | (s, some (t, warm)) =>
      let (s, c) := if mdRnd m then s.takeCounter o.slot (mdSrs m) else (s, 0)
      let b : Blk := ⟨a, m, c, t, (0, 0)⟩
      (s.modOp o.id fun o => { o with blks := o.blks ++ [b], warm := o.warm || warm }, some b)

/-- A block written for a macro-op, its largest magnitude kept for the record's completion update (R98). -/
def blockWrite (s : State) (n : SprigId) (o : Op) (b : Blk) (rows cols r0 c0 h w : Nat) (f : Nat → Nat → SVal) : State :=
  let ctr := if mdRnd b.md then some b.ctr else none
  let (s, x) := s.writeRegion (s.sprigVia n) o.slot ⟨b.md, rows, cols, b.lt⟩ ctr false r0 c0 h w f
  s.modOp o.id fun o => { o with blks := o.blks.map fun y =>
    if y.addr = b.addr && y.md = b.md then { y with amax := maxSq y.amax x } else y }

/-- QBLK: one complete block, from registers that start at `vs`, in row order; of a wide format, 64 elements of a row.
In an APPLY handler every code is checked, and of a frozen group the block is dropped (R263). -/
def sprigBlock (s : State) (n : SprigId) (o : Op) (a gr gc : Nat) (vs : Fin 32) (taint : Bool) : State :=
  let x := s.sprigs[n]
  let m := s.peek a 128
  let rows := s.shapeOf o.ring (mdRows m)
  let cols := s.shapeOf o.ring (mdCols m)
  let re := mdRowExt m
  let ce := if mdNarrow m then mdColExt m else 64
  let r0 := gr * re
  let c0 := gc * ce
  let h := min re (rows - r0)
  let w := min ce (cols - c0)
  let code (i j : Nat) : Nat :=
    let k := (i - r0) * ce + (j - c0)
    x.lane (vs + Fin.ofNat 32 (k / 64)) (Fin.ofNat 64 k)
  let f (i j : Nat) : SVal := (f32 (code i j)).scaled 0
  let bad := taint || x.vecTaint ((List.range (ceilDiv (re * ce) 64)).map fun i => vs + Fin.ofNat 32 i)
  let mark (s : State) : State :=
    if bad then (s.sprigPoison n).poisonRegion ⟨m, rows, cols, 0⟩ r0 c0 h w else s
  let plain (s : State) : State := match s.blockTake n o a with
    | (s, some b) => mark (s.blockWrite n o b rows cols r0 c0 h w f)
    | (s, none) => (s.sprigPoison n).poisonRegion ⟨m, rows, cols, 0⟩ r0 c0 h w
  if h = 0 || w = 0 then s
  else match s.sprigApply n with
    | none => plain s
    | some l =>
      if gFrozen l.sched then s.inc Reg.UPD_FROZEN_WRITE_COUNT 0 1
      else
        let e := s.peek l.entry 128
        let inf := (span r0 h).any fun i => (span c0 w).any fun j => !f32Fin (code i j)
        let s := if inf then s.modSprig n fun x => { x with nonfin := true } else s
        if a = lCcmd e (1 - lParity e) then mark (s.copyWrite l r0 c0 h w f) else plain s

/-- QBLK's reading of its descriptor: poison ends there, a forbidden descriptor ends the program, and otherwise the
block is written. -/
def sprigQblk (s : State) (n : SprigId) (a gr gc : Nat) (vs : Fin 32) (taint : Bool) : State :=
  match s.sprigOp n with
  | none => s
  | some o =>
    let s := s.readRange (s.sprigVia n) a 128
    if s.poisoned a 128 then s.sprigPoison n
    else match firstDetail (s.blockChecks o.ring a) with
      | some k => s.sprigStop n k
      | none => s.sprigBlock n o a gr gc vs taint

/-- A memory instruction of a Sprig, after the scalar instructions before it: the program ends where an address of the
access lies beyond the logical device space. -/
def sprigAccess (s : State) (sp : SprigAt) (load : Bool) (k : Nat) (as : Sprig → List (Fin 64 × Nat))
    (f : State → Sprig → List (Fin 64 × Nat) → State) : State :=
  if !s.sprigRuns sp.n then s
  else
    let s := s.sprigDo sp id
    let x := s.sprigs[sp.n]
    if (as x).any fun a => s.noPlace sp.n load k a.2 then s.sprigStop sp.n 7 else f s x (as x)

/-- LDACQ and STREL: a misaligned access, then one beyond the logical device space, ends the program (R319). -/
def sprigSync (s : State) (sp : SprigAt) (k : Nat) (sa : Fin 32) (f : State → Sprig → Nat → State) : State :=
  if !s.sprigRuns sp.n then s
  else
    let s := s.sprigDo sp id
    let x := s.sprigs[sp.n]
    let a := x.s[sa].toNat
    if a % k ≠ 0 then s.sprigStop sp.n 6
    else if spaceEnd < a + k then s.sprigStop sp.n 7
    else f s x a

/-! Errors of the die's own words (R445, R447). -/

/-- A line of the Trough lost: its chunk is read back from the gradient shard, now where its handler runs, unless it is
read back already, and otherwise when it starts (R254, R447). -/
def troughLost (s : State) (line : Nat) : State :=
  (s.layers.filter fun l => l.trough.any (·.1 == line)).foldl (fun s l =>
    let whole := s.wholeInTrough l
    let s := s.modLayer l.entry fun l => { l with trough := l.trough.filter (·.1 != line) }
    if l.running && l.phase == .chunks && whole && (s.chunkLines l).contains line then s.inc Reg.UPD_REREAD_COUNT 0 1 else s) s

/-- An uncorrectable word of the die (R445, R447): a path gives its line the marker, an L1 gives up its line, the Trough
its chunk, and an instruction memory ends the program it holds. -/
def dieError (s : State) : OnDie → State
  | .path a => s.poisonRange a 1
  | .l1 n a => s.modSprig n fun x => { x with l1 := x.l1.filter (·.1 != a / 64) }
  | .trough a => s.troughLost (a / 64)
  | .imem n => if ((s.sprigs[n]).job).isSome then (s.sprigPoison n).sprigRet n else s

end State

/-! The meanings of the commands. -/

/-- FADD (R246). -/
def execFadd (sp : SprigAt) (vd va vb : Fin 32) (p : Pred) (s : State) : Host.Outcome State Fault Refusal :=
  act s (s.sprigDo sp fun x => x.map2 vd va vb p f32Add)

/-- FSUB (R246). -/
def execFsub (sp : SprigAt) (vd va vb : Fin 32) (p : Pred) (s : State) : Host.Outcome State Fault Refusal :=
  act s (s.sprigDo sp fun x => x.map2 vd va vb p f32Sub)

/-- FMUL (R246). -/
def execFmul (sp : SprigAt) (vd va vb : Fin 32) (p : Pred) (s : State) : Host.Outcome State Fault Refusal :=
  act s (s.sprigDo sp fun x => x.map2 vd va vb p f32Mul)

/-- FMA (R246). -/
def execFma (sp : SprigAt) (vd va vb vc : Fin 32) (p : Pred) (s : State) : Host.Outcome State Fault Refusal :=
  act s (s.sprigDo sp fun x => x.fma vd va vb vc p)

/-- FMIN (R246). -/
def execFmin (sp : SprigAt) (vd va vb : Fin 32) (p : Pred) (s : State) : Host.Outcome State Fault Refusal :=
  act s (s.sprigDo sp fun x => x.map2 vd va vb p laneMin)

/-- FMAX (R246). -/
def execFmax (sp : SprigAt) (vd va vb : Fin 32) (p : Pred) (s : State) : Host.Outcome State Fault Refusal :=
  act s (s.sprigDo sp fun x => x.map2 vd va vb p laneMax)

/-- FABS (R246). -/
def execFabs (sp : SprigAt) (vd va : Fin 32) (p : Pred) (s : State) : Host.Outcome State Fault Refusal :=
  act s (s.sprigDo sp fun x => x.map1 vd va p fun a => fp32.round (f32 a).abs)

/-- FNEG (R246). -/
def execFneg (sp : SprigAt) (vd va : Fin 32) (p : Pred) (s : State) : Host.Outcome State Fault Refusal :=
  act s (s.sprigDo sp fun x => x.map1 vd va p f32Neg)

/-- FDIV (R246). -/
def execFdiv (sp : SprigAt) (vd va vb : Fin 32) (p : Pred) (s : State) : Host.Outcome State Fault Refusal :=
  act s (s.sprigDo sp fun x => x.map2 vd va vb p f32Div)

/-- FSQRT (R246). -/
def execFsqrt (sp : SprigAt) (vd va : Fin 32) (p : Pred) (s : State) : Host.Outcome State Fault Refusal :=
  act s (s.sprigDo sp fun x => x.map1 vd va p f32Sqrt)

/-- FRSQ (R246). -/
def execFrsq (sp : SprigAt) (vd va : Fin 32) (p : Pred) (s : State) : Host.Outcome State Fault Refusal :=
  act s (s.sprigDo sp fun x => x.map1 vd va p f32Rsqrt)

/-- FEXP (R246). -/
def execFexp (sp : SprigAt) (vd va : Fin 32) (p : Pred) (s : State) : Host.Outcome State Fault Refusal :=
  act s (s.sprigDo sp fun x => x.map1 vd va p f32Exp)

/-- FLN (R246). -/
def execFln (sp : SprigAt) (vd va : Fin 32) (p : Pred) (s : State) : Host.Outcome State Fault Refusal :=
  act s (s.sprigDo sp fun x => x.map1 vd va p f32Ln)

/-- FRED (R246). -/
def execFred (sp : SprigAt) (sd va : Fin 32) (p : Pred) (s : State) : Host.Outcome State Fault Refusal :=
  act s (s.sprigDo sp fun x => x.fred sd va p)

/-- FCMP (R246). -/
def execFcmp (sp : SprigAt) (c : FCond) (pd : Fin 8) (va vb : Fin 32) (p : Pred) (s : State) :
    Host.Outcome State Fault Refusal := act s (s.sprigDo sp fun x => x.fcmp c pd va vb p)

/-- PAND (R246). -/
def execPand (sp : SprigAt) (pd pa pb : Fin 8) (s : State) : Host.Outcome State Fault Refusal :=
  act s (s.sprigDo sp fun x => x.setPred pd (x.p[pa] &&& x.p[pb]).toNat (x.tp.toNat.testBit pa.val || x.tp.toNat.testBit pb.val))

/-- POR (R246). -/
def execPor (sp : SprigAt) (pd pa pb : Fin 8) (s : State) : Host.Outcome State Fault Refusal :=
  act s (s.sprigDo sp fun x => x.setPred pd (x.p[pa] ||| x.p[pb]).toNat (x.tp.toNat.testBit pa.val || x.tp.toNat.testBit pb.val))

/-- PNOT (R246). -/
def execPnot (sp : SprigAt) (pd pa : Fin 8) (s : State) : Host.Outcome State Fault Refusal :=
  act s (s.sprigDo sp fun x => x.setPred pd (~~~x.p[pa]).toNat (x.tp.toNat.testBit pa.val))

/-- CVT (R246). -/
def execCvt (sp : SprigAt) (k : CvtKind) (vd va : Fin 32) (p : Pred) (s : State) : Host.Outcome State Fault Refusal :=
  act s (s.sprigDo sp fun x => x.map1 vd va p (cvtCode k))

/-- VLD (R246, R324). -/
def execVld (sp : SprigAt) (f : LaneFmt) (vd sa : Fin 32) (p : Pred) (s : State) : Host.Outcome State Fault Refusal :=
  act s (s.sprigAccess sp true (laneBytes f) (fun x => laneAddrs x x.s[sa].toNat (laneBytes f) p) fun s x as =>
    s.sprigLoad sp.n f vd as p (x.scalTaint sa))

/-- VST (R246, R263). -/
def execVst (sp : SprigAt) (f : LaneFmt) (vs sa : Fin 32) (p : Pred) (s : State) : Host.Outcome State Fault Refusal :=
  act s (s.sprigAccess sp false (laneBytes f) (fun x => laneAddrs x x.s[sa].toNat (laneBytes f) p) fun s x as =>
    s.sprigSave sp.n f vs as true (x.scalTaint sa || x.predTaint p))

/-- VLDS (R246). -/
def execVlds (sp : SprigAt) (f : LaneFmt) (vd sa st : Fin 32) (p : Pred) (s : State) : Host.Outcome State Fault Refusal :=
  act s (s.sprigAccess sp true (laneBytes f) (fun x => laneAddrs x x.s[sa].toNat x.s[st].toNat p) fun s x as =>
    s.sprigLoad sp.n f vd as p (x.scalTaint sa || x.scalTaint st))

/-- VSTS (R246, R263). -/
def execVsts (sp : SprigAt) (f : LaneFmt) (vs sa st : Fin 32) (p : Pred) (s : State) : Host.Outcome State Fault Refusal :=
  act s (s.sprigAccess sp false (laneBytes f) (fun x => laneAddrs x x.s[sa].toNat x.s[st].toNat p) fun s x as =>
    s.sprigSave sp.n f vs as false (x.scalTaint sa || x.scalTaint st || x.predTaint p))

/-- LDACQ (R319). -/
def execLdacq (sp : SprigAt) (wide : Bool) (scope : Fin 4) (sd sa : Fin 32) (s : State) : Host.Outcome State Fault Refusal :=
  let k := if wide then 8 else 4
  act s (s.sprigSync sp k sa fun s x a => s.sprigAcquire sp.n k scope sd a (x.scalTaint sa))

/-- STREL (R319). -/
def execStrel (sp : SprigAt) (wide : Bool) (_scope : Fin 4) (ss sa : Fin 32) (s : State) : Host.Outcome State Fault Refusal :=
  let k := if wide then 8 else 4
  act s (s.sprigSync sp k sa fun s x a => s.sprigRelease sp.n k ss a (x.scalTaint sa))

/-- QBLK (R246). -/
def execQblk (sp : SprigAt) (smd sgr sgc vs : Fin 32) (s : State) : Host.Outcome State Fault Refusal :=
  act s (s.sprigAccess sp false 128 (fun x => [(0, x.s[smd].toNat)]) fun s x as =>
    s.sprigQblk sp.n (as.map (·.2)).sum x.s[sgr].toNat x.s[sgc].toNat vs
      (x.scalTaint smd || x.scalTaint sgr || x.scalTaint sgc))

/-- PIVOT (R247). Where v(d+1) does not exist, the register that takes the second result is free. -/
def execPivot (sp : SprigAt) (vd vs st : Fin 32) (p : Pred) (s : State) : Host.Outcome State Fault Refusal :=
  let ve : Fin 32 := if vd.val < 31 then Fin.ofNat 32 (vd.val + 1) else Fin.ofNat 32 (s.choose 32)
  act s (if s.sprigRuns sp.n then (s.sprigDo sp fun x => x.pivot vd ve vs st p).tick else s)

/-- RET (R246, R248). -/
def execRet (sp : SprigAt) (s : State) : Host.Outcome State Fault Refusal :=
  act s (if s.sprigRuns sp.n then (s.sprigDo sp id).sprigRet sp.n else s)

/-- MEMORY_UE (R300, R301, R445, R447). -/
def execMemoryUe (e : ErrLoc) (s : State) : Host.Outcome State Fault Refusal :=
  act s (if s.memUp then match e.place with
    | .onDie w => s.dieError w
    | _ => s.uncorrected e
    else s)

end Sys2Proof.Machine
end

