-- ==== Sys2Proof/Machine/Window.lean ====
section
/-!
DEFINITION. The weight window rings (spec/10 R282 to R287): the next fill request of a die, and its serving.
-/
namespace Sys2Proof.Machine

open State

/-- A fill request: how far its descriptor stands from HEAD, its ring, the descriptor's index and address, the matrix
descriptor's address, the base, and the intervals as byte ranges of whole lines. -/
structure FillReq where
  dist  : Nat
  ring  : RingId
  seq   : Nat
  desc  : Nat
  md    : Nat
  base  : Nat
  ivals : List (Nat × Nat)
  deriving DecidableEq, Repr

/-- The units of 64 KiB that a fill takes: each interval whole units. -/
def fillUnits (ivals : List (Nat × Nat)) : Nat := (ivals.map fun x => ceilDiv (x.2 - x.1) 65536).sum

/-- The turn of a request: nearest to HEAD, then F before B, then the lower slot, then the lower ring. -/
def FillReq.key (q : FillReq) : Nat := ((q.dist * 4 + ringStream q.ring) * 8 + (ringSlot q.ring).val) * 64 + q.ring.val

namespace State

/-- Whether a byte range lies wholly inside one enabled weight range (R282). -/
def inWeights (s : State) (a n : Nat) : Bool :=
  (List.range 16).any fun r => s.rdB Reg.MEM_WR_CTRL_EN r &&
    let (b, k) := s.weightRange r
    decide (b * 2 ^ 18 ≤ a) && decide (a + n ≤ (b + k) * 2 ^ 18)

/-- The request of operand i of the descriptor at an index of a ring, where the operand is a weight candidate (R284); of
an operand under REQUANT the master's elements are judged and filled (R163, R166). -/
def fillReq (s : State) (r : RingId) (head dist i : Nat) : Option FillReq :=
  let at_ := s.ringEntry r (head + dist)
  let d := s.peek at_ 128
  if !isGemm d || (firstDetail (addrChecks (dMd d i) 128 true)).isSome then none
  else
    let m := s.matOf r d i
    let rq := if i = 0 then gemmTa d && requant m.md 1 else gemmTb d && requant m.md 0
    let x := if rq then s.matOf r d (5 + i) else m
    let checks := if rq then mdChecksTurned m.md (dHeritage d) ++ mdChecks x.md false false ++ [(mdFmt x.md != 1, 8)]
      else mdChecks m.md false (dHeritage d)
    if (firstDetail checks).isSome then none
    else
      let role : Role := if rq then .master else if i = 1 && dSparse d then .sparse else .read
      let rs := roleRanges role { x with md := putBits x.md 74 74 0 }
      match rs with
      | [] => none
      | (a, n) :: _ =>
        if s.inWeights a n then
          let ivals := rs.map fun x => let l := lineRange x.1 x.2; (64 * l.1, 64 * l.2)
          some ⟨dist, r, (head + dist) % 2 ^ 32, at_, dMd d i, mdBase x.md, ivals⟩
        else none

/-- Whether a macro-op of a ring is served by Anvils of a die (R146). -/
def servedOn (s : State) (r : RingId) (d : Nat) (die : Fin 2) : Bool :=
  let live := (List.range 4).filter fun a => !s.withdrawn a
  let mine := live.filter fun a => a / 2 == (ringDie r).val
  (if dXdie d || mine = [] then live else mine).any fun a => a / 2 == die.val

/-- The requests of a die that no fill serves and whose units fit its ring (R284, R285). -/
def fillReqs (s : State) (die : Fin 2) (win : Nat) : List FillReq :=
  let rings : List RingId := (List.finRange 48).filter fun r => ringStream r != 2 && s.slotState (ringSlot r) == 2 && s.rd Reg.STR_RING_CFG_LOG2N r.val != 0
  rings.flatMap fun (r : RingId) =>
    let head := s.rd Reg.STR_RING_HEAD_COUNT r
    let n := min 64 ((s.rd Reg.STR_RING_TAIL_COUNT r + 2 ^ 32 - head) % 2 ^ 32)
    (List.range n).flatMap fun k => (List.range 2).filterMap fun i =>
      match s.fillReq r head k i with
      | none => none
      | some q =>
        let made := s.ms.fills[die].any fun f => f.ring == r && f.seq == q.seq && f.md == q.md && f.base == q.base
        if made || decide (win < fillUnits q.ivals) || !s.servedOn r (s.peek q.desc 128) die then none else some q

/-- The request whose turn it is. -/
def nextReq (qs : List FillReq) : Option FillReq :=
  qs.foldl (fun (best : Option FillReq) q => match best with
    | some b => if q.key < b.key then some q else some b
    | none => some q) none

/-- Bellows serves the next fill request of a die, where the ring has space (R284 to R286). -/
def windowFill (s : State) (die : Fin 2) : State :=
  let win := 32 * bits s.ms.part[die].toNat 15 8
  let fs := s.ms.fills[die]
  if !s.running then s
  else match nextReq (s.fillReqs die win) with
    | none => s
    | some q =>
      let u := fillUnits q.ivals
      if win < (fs.map (·.units)).sum + u then s
      else
        let via : Via := ⟨die, some (ringSlot q.ring), false, 1⟩
        let s := q.ivals.foldl (fun s x => s.readRange via x.1 (x.2 - x.1)) s
        let n := (q.ivals.map fun x => (x.2 - x.1) / 64).sum
        let f : Fill := ⟨q.ring, q.desc, q.md, q.base, q.ivals, [], u, q.seq, none⟩
        { s with ms := { s.ms with fills := s.ms.fills.set die (fs ++ [f]) } }.inc Reg.MEM_WIN_FILL_LINES_COUNT 0 n

end State

/-- WINDOW_FILL (R284 to R286). -/
def execWindowFill (d : Die) (s : State) : Host.Outcome State Fault Refusal := act s (s.windowFill d)

end Sys2Proof.Machine
end

