-- ==== Sys2Proof/Machine/Control.lean ====
section
/-!
DEFINITION. Reads and writes of the control space as a whole (R12 to R20): which addresses hold a register, what a word
reads as, what a write with authority does to each register, and the network registers of spec/12.
-/
namespace Sys2Proof.Machine

/-- The latch banks, the live Sage blocks (R515, R516), the certificates and the quote buffer (R489): a base and a length.
Every word of a block or bank holds a register, the unlisted ones too, which read 0: R516 says so of the device bank, and
of a slot's block and bank it is the model's choice (DESIGN CHOICE). -/
def areas : List (Nat × Nat) :=
  [(0x030000, 0x4000), (0x034000, 0x4000), (0x038000, 0x1000), (0x041000, 7984), (0x043000, 7984), (0x048000, 17552)]

/-- Whether a control-space address holds a register (R13, R14); the reserved word of a Crucible window reads as 0
(R182). -/
def hasReg (a : Nat) : Bool :=
  a % 4 == 0 && ((areas.any fun r => within r.1 r.2 a) || Reg.all.any (·.covers a) ||
    (within 0x078000 0x200 a && a % 0x20 == 0x14))

/-! The identity key and its certificate (R468 to R470). -/

/-- The bytes of an ASCII string. -/
def ascii (t : String) : List Byte := t.toList.map fun c => BitVec.ofNat 8 c.toNat

/-- The first 16 bytes of SHA-256(SEED ‖ label ‖ c) (R469). -/
def keyPart (label : String) (c : Nat) : List Byte :=
  (sha256 (toBytes 32 Config.seed.toNat ++ ascii label ++ [BitVec.ofNat 8 c])).take 16

/-- SK.seed, SK.prf and PK.seed of the identity key. -/
def idSeeds : List Byte := keyPart "ID-SK" 0 ++ keyPart "ID-PRF" 0 ++ keyPart "ID-PK" 0

/-- A certificate's body of 128 bytes (R470): KIND, ALG, LC, SUBJECT_PK, the issuer's public key and ISSUE_COUNT. -/
def certBytes (kind alg lc : Nat) (subject issuer : BitVec 256) (count : Nat) : List Byte :=
  [1, BitVec.ofNat 8 kind, BitVec.ofNat 8 alg, BitVec.ofNat 8 lc] ++ toBytes 4 0 ++ toBytes 16 Config.deviceId.toNat ++
    toBytes 32 subject.toNat ++ sha256 (toBytes 32 issuer.toNat) ++ toBytes 8 count ++ toBytes 32 0

/-- The identity certificate in the one-time-programmable store, 7,984 bytes (R468, R470). -/
def identityCert (f : Fuses) : List Byte :=
  certBytes 1 1 0 (f.certPk.getD (Config.slhPublic idSeeds)) Config.deviceAuthority 0 ++ (List.range 7856).map Config.certIdSig

/-- Whether the derived identity public key differs from the certificate's SUBJECT_PK (R473). -/
def idDiffers (f : Fuses) : Bool := match f.certPk with
  | some k => k != Config.slhPublic idSeeds
  | none => false

/-- A word of a byte area. -/
def areaWord (bs : List Byte) (o : Nat) : Word := BitVec.ofNat 32 (ofBytes ((bs.drop o).take 4))

namespace State

/-! Reads. -/

/-- The clock domains that run (R26, R32): Hearth always; the I3C domain at a read over I3C, and otherwise by how long ago
I3C_SCL last toggled, which is free; the others as the rails, the power state, Quench and the links leave them. The NET
domains do so while REFCLK is lost too: R30 does not move them to Hearth's oscillator, and that they keep their clocks is
the model's choice (DESIGN CHOICE). So is that the SPRIG domains and the NET domains of ports without a link stop with the request for
Doze or Slumber and not at a later step of the entry, of which the spec gives none for these ports (DESIGN CHOICE, log
entry 180). -/
def clocksRunning (s : State) (i3c : Bool) : Nat :=
  let st := s.rd Reg.PWR_STATUS_STATE 0
  let core := s.powered && decide (1 ≤ s.stage) && st != 3
  let work := core && s.pw.compute && !s.quench && decide (st ≤ 1)
  let mem := core && !s.pw.memAsleep
  let anv := (List.range 4).foldl (fun x n => x + b2n (work && (s.anv[(Fin.ofNat 4 n)]).array.isSome) * 2 ^ (6 + n)) 0
  let net := (List.range 8).foldl (fun x p =>
    x + b2n (core && (decide (st ≤ 1) || s.rdB Reg.NET_PORT_STATUS_LINK p)) * 2 ^ (16 + p)) 0
  1 + 2 * b2n (i3c || s.choose 2 == 1) + b2n core * 0x3C + anv + b2n work * 0xC00 + b2n mem * 0xF000 + net + b2n (s.rd Reg.SEC_LC_PORT 0 != 0) * 2 ^ 24

/-- Whether any line of a Crucible window is poisoned (R182), a disabled one too: R174 clears only EN and READY. -/
def windowPoisoned (s : State) (w : Nat) : Bool :=
  let (b, n) := s.windowRange w
  s.ms.poison.any fun e => within b n e.1 && e.2 != 0

/-- The word that a control-space address reads as, over I3C or not, at an address that holds a register. -/
def peekReg (s : State) (a : Nat) (i3c : Bool) : Word :=
  if a = 0x000040 then s.word a &&& ~~~(0x01FFFFFF#32) ||| BitVec.ofNat 32 (s.clocksRunning i3c)
  else if a = 0x08000C then s.pwrStatus
  else if a = 0x040004 then 0
  else if a = 0x090200 then BitVec.ofNat 32 (putBits (s.word a).toNat 5 5 (b2n (s.stagePart 0 == 0)))
  else if within 0x078000 0x200 a && a % 0x20 = 0x10 then
    let w := (a - 0x078000) / 0x20
    BitVec.ofNat 32 (putBits (s.word a).toNat 3 3 (b2n (s.windowPoisoned w)))
  else if within 0x040010 16 a then
    if 2 ≤ s.stage then BitVec.ofNat 32 (Config.deviceId.toNat / 2 ^ (8 * (a - 0x040010))) else 0
  else if within 0x041000 7984 a then
    areaWord (identityCert s.fuses) (a - 0x041000)
  else if within 0x043000 7984 a then areaWord s.sec.attCert (a - 0x043000)
  else if within 0x048000 17552 a then areaWord s.sec.quoteBuf (a - 0x048000)
  else s.word a

/-- The word read at any address; one that holds no register reads as 0 over I3C (R14). -/
def readWord (s : State) (a : Nat) (i3c : Bool) : Word := if hasReg a then s.peekReg a i3c else 0

/-! Plain writes. -/

/-- A register with no behaviour of its own written: its OW fields take the value's bits, and its OW1C bits clear where
the value holds 1 (R15, R19). -/
def plainWrite (s : State) (a v : Nat) : State :=
  let m := BitVec.ofNat 32 (owMask a)
  let x := BitVec.ofNat 32 v
  s.setWord a (((s.word a &&& ~~~m) ||| (x &&& m)) &&& ~~~(x &&& BitVec.ofNat 32 (ow1cMask a)))

/-- A plain write of a value the field's table does not reserve (R20). -/
def rangeWrite (s : State) (a v : Nat) (good : Bool) : State × KStat :=
  if good then (s.plainWrite a v, .ok) else (s, .range)

/-- A plain write that a holder refuses while it is held. That KS_BUSY stands before KS_RANGE where a locked register is
written with a reserved value is the model's choice (DESIGN CHOICE): R20 gives no order. -/
def heldWrite (s : State) (a v : Nat) (held : Bool) (cls idx : Nat) (good : Bool) : State × KStat :=
  if held then (s, .busy cls idx) else s.rangeWrite a v good

/-! The network registers (R327 to R329, R341, R359 to R364). -/

/-- NET_PORT_CFG (R329): MODE, FAMILY and VID are locked while EN = 1, and a port that is no longer enabled takes its
link down. KS_BUSY before KS_RANGE is the model's choice (DESIGN CHOICE). -/
def portCfgWrite (s : State) (p : Fin 8) (v : Nat) : State × KStat :=
  let f := s.rd Reg.NET_PORT_CFG_MODE p != bits v 3 0 || s.rd Reg.NET_PORT_CFG_FAMILY p != bits v 6 6 ||
    s.rd Reg.NET_PORT_CFG_VID p != bits v 18 7
  if s.rdB Reg.NET_PORT_CFG_EN p && f then (s, .busy 10 p.val)
  else if 8 ≤ bits v 3 0 || bits v 18 7 = 4095 then (s, .range)
  else
    let s := s.plainWrite (0x060000 + 0x400 * p.val) v
    let s := if bit v 5 then s else s.wrB Reg.NET_PORT_STATUS_PREEMPT_ACTIVE p false
    (if bit v 4 then s else s.linkDown p, .ok)

/-- Fault injection armed: the generator is seeded, M4 extended and the event raised (R360, R472). -/
def fiArmed (s : State) (p : Fin 8) : State :=
  let b := 0x060040 + 0x400 * p.val
  let m := BitVec.ofNat 8 p.val :: s.ctlBytes b 12
  let x := s.net.fi[p]
  let s := { s with
    net := { s.net with fi := s.net.fi.set p { x with lfsr := s.word (b + 8) } }
    sec := { s.sec with everArm := s.sec.everArm ||| BitVec.ofNat 8 (2 ^ p.val) } }
  ((s.wrB Reg.NET_PORT_STATUS_FI_ARMED p true).extend 4 (toBytes 32 (ofBytes (sha256 m)))).raise 0x0505 p none 0

/-- NET_FI_CTRL (R360). KS_BUSY before KS_RANGE is the model's choice (DESIGN CHOICE). -/
def fiCtrlWrite (s : State) (p : Fin 8) (v : Nat) : State × KStat :=
  let on := s.rdB Reg.NET_FI_CTRL_ARM p
  if on && bit v 0 then (s, .busy 10 p.val)
  else if bits v 15 8 = 0 then (s, .range)
  else
    let s := s.plainWrite (0x060040 + 0x400 * p.val) v
    if bit v 0 then (s.fiArmed p, .ok) else (s.wrB Reg.NET_PORT_STATUS_FI_ARMED p false, .ok)

/-- NET_DEV_ID (R363). -/
def devIdWrite (s : State) (v : Nat) : State × KStat :=
  match s.slotIn (· == 2) with
  | some n => (s, .busy 10 n)
  | none => ((s.plainWrite 0x062000 v).reidentify.pumpAll, .ok)

/-- NET_EPOCH of a unit (R341). -/
def epochWrite (s : State) (u v : Nat) : State × KStat := (s.plainWrite (0x064000 + 4 * u) v, .ok)

/-- A slot's transport table registers (R364). -/
def slotTableWrite (s : State) (a v : Nat) : State × KStat :=
  let n := (a - 0x063000) / 0x20
  let o := (a - 0x063000) % 0x20
  let good := if o = 8 then decide (bits v 10 0 ≤ 1024) else if o = 0x18 then decide (bits v 16 0 ≤ 65536) else true
  s.heldWrite a v (decide (2 ≤ s.slotState n)) 10 n good

/-- A write of a register of the NET_ block. -/
def netWrite (s : State) (a v : Nat) : State × KStat :=
  if within 0x060000 0x2000 a then
    let p := Fin.ofNat 8 ((a - 0x060000) / 0x400)
    let o := (a - 0x060000) % 0x400
    if o = 0 then s.portCfgWrite p v
    else if o = 0x40 then s.fiCtrlWrite p v
    else if o = 0x44 then s.heldWrite a v (s.rdB Reg.NET_FI_CTRL_ARM p) 10 p.val true
    else if o = 0x48 then s.heldWrite a v (s.rdB Reg.NET_FI_CTRL_ARM p) 10 p.val (v != 0)
    else ((s.plainWrite a v).pumpAll, .ok)
  else if a = 0x062000 then s.devIdWrite v
  else if a = 0x062004 then s.rangeWrite a v (bits v 15 0 != 0 && bits v 23 16 != 0)
  else if within 0x063000 0x100 a then s.slotTableWrite a v
  else if within 0x064000 0x160 a then s.epochWrite ((a - 0x064000) / 4) v
  else (s, .ok)

/-! The other blocks. -/

/-- PWR_GROUP written whole: as SET_GROUP_OP while EN = 1 (R401). -/
def groupWrite (s : State) (v : Nat) : State × KStat :=
  if bit v 4 then s.setGroupOp (bits v 3 0)
  else
    let (t, r) := s.setGroupOp 0xFF
    (if r = .ok then t.wr Reg.PWR_GROUP_OP 0 (bits v 3 0) else t, r)

/-- PWR_PHASE_OP written whole; a raise is refused while REF_FALLBACK is set (R31, R401). -/
def phaseWrite (s : State) (v : Nat) : State × KStat :=
  if s.rdB Reg.HRT_CLK_STATUS_REF_FALLBACK 0 && (List.range 5).any fun i => decide (s.phaseOp i < bits v (4 * i + 3) (4 * i)) then
    (s, refBusy)
  else (s.plainWrite 0x080004 v, .ok)

/-- SEC_CTRL: CLOSE (R488), and RESEAL, accepted only in Debug (R481). -/
def secCtrlWrite (s : State) (v : Nat) : State × KStat :=
  if bit v 1 then
    if s.rd Reg.SEC_LC_LC 0 = 2 then ({ s with sec := { s.sec with toState := some 1 } }, .ok) else (s, .denied)
  else (if bit v 0 then s.closePort else s, .ok)

/-- MEM_ALLOC_CTRL (R276): GO begins the operation OP; FREE and SETFLAGS ignore DIE. -/
def allocCtrlWrite (s : State) (v : Nat) : State × KStat :=
  let fl := BitVec.ofNat 2 (bits v 3 2)
  let die := BitVec.ofNat 2 (bits v 5 4)
  if bits v 1 0 = 3 || (die = 3 && !(bit v 6 && bits v 1 0 != 0)) then (s, .range)
  else if !bit v 6 then (s.setAllocCtrl (bits v 1 0) fl die, .ok)
  else if bits v 1 0 = 0 then s.allocGo fl die
  else if bits v 1 0 = 1 then s.freeGo fl die
  else s.setflagsGo fl die

/-- A write of a register of the MEM_ block. -/
def memWrite (s : State) (a v : Nat) : State × KStat :=
  if within 0x078000 0x200 a then
    let w := (a - 0x078000) / 0x20
    let o := (a - 0x078000) % 0x20
    let on := s.rdB Reg.MEM_CRU_CTRL_EN w
    if o = 0xC then (if bit v 0 then s.crucibleOn w else s.crucibleOff w)
    else if o = 8 then s.heldWrite a v on 3 w (1 ≤ bits v 21 0 && bits v 21 0 ≤ 2097152)
    else s.heldWrite a v (on && decide (o < 8)) 3 w true
  else if within 0x079000 0x400 a then
    let p := (a - 0x079000) / 0x40
    let o := (a - 0x079000) % 0x40
    if o = 0xC then s.poolWrite (Fin.ofNat 16 p) v
    else s.heldWrite a v (s.rdB Reg.MEM_KV_CTRL_EN p && decide (o < 0xC)) 4 p true
  else if within 0x071000 0x100 a then
    let r := (a - 0x071000) / 0x10
    let o := (a - 0x071000) % 0x10
    let on := s.rdB Reg.MEM_WR_CTRL_EN r
    if o = 0xC then (if bit v 0 then s.weightEnable r (bit v 1) else s.weightDisable r (bit v 1))
    else s.heldWrite a v on 5 r (o != 8 || (1 ≤ bits v 22 0 && bits v 22 0 ≤ 8386560))
  else if a = 0x070000 then s.partitionWrite 0 v
  else if a = 0x070004 then s.partitionWrite 1 v
  else if a = 0x070108 then s.rangeWrite a v (1 ≤ bits v 22 0 && bits v 22 0 ≤ 8386560)
  else if a = 0x07010C then s.allocCtrlWrite v
  else if a = 0x070204 then s.rangeWrite a v (bits v 15 0 != 0)
  else if a = 0x070300 then arbWrite s v
  else if a = 0x070500 then s.fcapWrite 0 v
  else if a = 0x070520 then s.fcapWrite 1 v
  else (s.plainWrite a v, .ok)

/-- A write of a register of the STR_ block. -/
def strWrite (s : State) (a v : Nat) : State × KStat :=
  if within 0x021000 0xC00 a then
    let r := Fin.ofNat 48 ((a - 0x021000) / 0x40)
    let o := (a - 0x021000) % 0x40
    if o < 0xC then s.ringConfig r (Fin.ofNat 3 (o / 4)) v else (s, .ok)
  else if a = 0x020108 then s.itabWrite 0 v
  else if a = 0x020148 then s.itabWrite 1 v
  else if within 0x028200 0x40 a then
    let n := (a - 0x028200) / 8
    s.heldWrite a v (decide (2 ≤ s.slotState n)) 10 n true
  else (s.plainWrite a v, .ok)

/-- A write of a register of the HRT_ block. -/
def hrtWrite (s : State) (a v : Nat) : State × KStat :=
  if a = 0x00010C then s.rangeWrite a v (1 ≤ bits v 11 0 && bits v 11 0 ≤ 3600)
  else if a = 0x000144 then s.padWrite (bits v 6 0)
  else if a = 0x000150 then s.wakeDelayWrite v
  else if a = 0x000184 then s.auxWrite v
  else (s.plainWrite a v, .ok)

/-- A write of a register of the PWR_ block. -/
def pwrWrite (s : State) (a v : Nat) : State × KStat :=
  if a = 0x080000 then s.setCap (bits v 10 0)
  else if a = 0x080004 then s.phaseWrite v
  else if a = 0x080008 then s.groupWrite v
  else if a = 0x08001C then s.stateReq (bits v 2 0)
  else (s.plainWrite a v, .ok)

/-- A write of a register of the TEL_ block. -/
def telWrite (s : State) (a v : Nat) : State × KStat :=
  if a = 0x03F008 then s.sampleWrite v
  else if within 0x03F010 12 a then s.heldWrite a v (s.rdB Reg.TEL_SAMPLE_CTRL_EN 0) 8 3 (a != 0x03F018 || bits v 15 0 != 0)
  else (s.plainWrite a v, .ok)

/-- A write with authority at a control-space address (R14 to R20). -/
def ctlWrite (s : State) (a v : Nat) : State × KStat :=
  if !hasReg a then (s, .range)
  else match a / 0x10000 with
    | 0 => s.hrtWrite a v
    | 2 => s.strWrite a v
    | 3 => s.telWrite a v
    | 4 => if a = 0x040004 then s.secCtrlWrite v else (s, .ok)
    | 6 => s.netWrite a v
    | 7 => s.memWrite a v
    | 8 => s.pwrWrite a v
    | 9 => if a = 0x090000 then s.disarmWrite v else (s.plainWrite a v, .ok)
    | _ => (s.plainWrite a v, .ok)

end State

/-! The meanings of the register-write commands without a home of their own. -/

/-- FI_ARM: a write of NET_FI_CTRL with ARM = 1 (R360). -/
def execFiArm (w : Writer) (p : Fin 8) (value : Word) (s : State) : Host.Outcome State Fault Refusal :=
  act s (s.regWrite w (0x060040 + 0x400 * p.val) (putBits value.toNat 0 0 1) fun s => s.fiCtrlWrite p (putBits value.toNat 0 0 1))

/-- FI_DISARM: a write of NET_FI_CTRL with ARM = 0 (R360). -/
def execFiDisarm (w : Writer) (p : Fin 8) (value : Word) (s : State) : Host.Outcome State Fault Refusal :=
  act s (s.regWrite w (0x060040 + 0x400 * p.val) (putBits value.toNat 0 0 0) fun s => s.fiCtrlWrite p (putBits value.toNat 0 0 0))

/-- NET_DEV_ID_WRITE (R363). -/
def execNetDevIdWrite (w : Writer) (value : Word) (s : State) : Host.Outcome State Fault Refusal :=
  act s (s.regWrite w 0x062000 value.toNat fun s => s.devIdWrite value.toNat)

/-- PORT_CFG_WRITE (R329). -/
def execPortCfgWrite (w : Writer) (p : Fin 8) (value : Word) (s : State) : Host.Outcome State Fault Refusal :=
  act s (s.regWrite w (0x060000 + 0x400 * p.val) value.toNat fun s => s.portCfgWrite p value.toNat)

/-- EPOCH_WRITE (R341). -/
def execEpochWrite (w : Writer) (u : Fin 88) (value : Word) (s : State) : Host.Outcome State Fault Refusal :=
  act s (s.regWrite w (0x064000 + 4 * u.val) value.toNat fun s => s.epochWrite u.val value.toNat)

/-- CLOSE: a write of SEC_CTRL with CLOSE = 1 (R488). -/
def execClose (w : Writer) (s : State) : Host.Outcome State Fault Refusal :=
  act s (s.regWrite w 0x040004 1 fun s => s.secCtrlWrite 1)

/-- RESEAL: a write of SEC_CTRL with RESEAL = 1 (R481). -/
def execReseal (w : Writer) (s : State) : Host.Outcome State Fault Refusal :=
  act s (s.regWrite w 0x040004 2 fun s => s.secCtrlWrite 2)

/-- REGISTER_WRITE: a write at any control-space address (R14 to R20). -/
def execRegisterWrite (w : Writer) (addr : BitVec 24) (value : Word) (s : State) : Host.Outcome State Fault Refusal :=
  act s (s.regWrite w addr.toNat value.toNat fun s => s.ctlWrite addr.toNat value.toNat)

end Sys2Proof.Machine
end

