-- ==== Sys2Proof/Machine/Security.lean ====
section
/-!
DEFINITION. Identity, firmware trust and debug (spec/17): Lendephor's keys and certificates, the attestation quote, the
debug port with its accesses, and the I3C common commands (spec/13 R365 to R368).
-/
namespace Sys2Proof.Machine

namespace State

/-! Keys and certificates (R469, R470). -/

/-- SK.seed, SK.prf and PK.seed of the attestation key of a lifecycle code. -/
def attSeeds (lc : Nat) : List Byte := keyPart "AT-SK" lc ++ keyPart "AT-PRF" lc ++ keyPart "AT-PK" lc

/-- The body of the attestation certificate (R470). -/
def certBody (lc resets : Nat) : List Byte :=
  certBytes 2 2 lc (Config.slhPublicFast (attSeeds lc)) (Config.slhPublic idSeeds) resets

/-- The attestation certificate of 7,984 bytes (R470). -/
def certificate (lc resets : Nat) : List Byte :=
  let b := certBody lc resets
  b ++ Config.slhSign idSeeds b

/-- Whether Lendephor holds keys that its certificate vouches for (R469, R473, R476). -/
def keysHeld (s : State) : Bool := (s.lifecycle == 1 || s.lifecycle == 2) && !s.rdB Reg.SEC_LC_IDFAIL 0

/-! Firmware and configuration as measured (R390, R394, R472). -/

/-- The firmware floor in force (R468). -/
def floorNow (s : State) : Word := s.fuses.floors.getLast?.getD 0

/-- Whether a firmware slot is valid (R394). -/
def fwValid (s : State) (f : FwSlot) : Bool := f.valid && f.seq.isSome && decide (s.floorNow.toNat ≤ f.version.toNat)

/-- The firmware slot that power-on loads: the valid one with the higher SEQ (R394). -/
def fwChoice (s : State) : Option (Fin 2) :=
  let a := s.flash.fw[(0 : Fin 2)]
  let b := s.flash.fw[(1 : Fin 2)]
  let seq (f : FwSlot) : Nat := (f.seq.getD 0).toNat
  if s.fwValid a && (!s.fwValid b || decide (seq b < seq a)) then some 0
  else if s.fwValid b then some 1 else none

/-- The firmware slot that runs. -/
def runningSlot (s : State) : Fin 2 := Fin.ofNat 2 (s.rd Reg.HRT_FW_RUNNING 0)

/-- The 64-byte header of a configuration copy (R390). -/
def copyHeader (c : CfgCopy) : List Byte := headerBytes c.seq c.entries.length c.digest

/-- M2 extended with the digest of a copy's header (R472). -/
def measureCopy (s : State) (c : CfgCopy) : State := s.extend 2 (sha256 (copyHeader c))

/-! Attestation quotes (R476 to R478). -/

/-- The body of a quote: one snapshot of the state (R476). -/
def quoteBody (s : State) (nonce : BitVec 256) (qseq : Word) : List Byte :=
  let f := s.flash.fw[s.runningSlot]
  let digest := match s.curCopy with
    | some c => sha256 (entryBytes s.flash.cfg[c].entries)
    | none => toBytes 32 0
  let fi := (List.range 8).flatMap fun (p : Nat) =>
    s.ctlBytes (0x060040 + 0x400 * p) 8 ++ toBytes 4 (b2n (s.sec.everArm.getLsbD p))
  [1, 0, BitVec.ofNat 8 s.lifecycle, BitVec.ofNat 8 (s.rd Reg.SEC_LC_PORT 0)] ++ toBytes 4 qseq.toNat ++
    toBytes 4 s.dseq.toNat ++ toBytes 4 s.floorNow.toNat ++ toBytes 16 Config.deviceId.toNat ++ toBytes 32 nonce.toNat ++
    toBytes 4 (s.rd Reg.HRT_FW_VER_VERSION 0) ++ toBytes 4 s.runningSlot.val ++ toBytes 8 (f.seq.getD 0).toNat ++
    toBytes 32 f.digest.toNat ++ toBytes 8 (s.rd Reg.HRT_CFG_SEQ_SEQ 0) ++ digest ++
    s.ctlBytes 0x040100 160 ++ s.ctlBytes 0x040200 20 ++
    ((List.range 4).flatMap fun (n : Nat) => s.ctlBytes (0x050004 + 0x1000 * n) 4) ++ fi ++ toBytes 4 0

/-- The quote buffer written in one step after signing (R478). -/
def putQuote (s : State) (body : List Byte) : State :=
  let sig := Config.slhSignFast (attSeeds s.lifecycle) body
  let buf := (body.drop 4).take 4 ++ toBytes 4 448 ++ toBytes 4 17088 ++ toBytes 4 0 ++ body ++ sig
  { s with sec := { s.sec with quoteBuf := buf } }

/-! The TAP (R482, R483). -/

/-- Whether the TAP is powered: not Off, in reset, in Slumber or tripped (R489). -/
def tapUp (s : State) : Bool := s.powered && s.rd Reg.PWR_STATUS_STATE 0 != 3

/-- A TAP instruction selected: its pin drive, and whether it is permitted; one that is not selects bypass and leaves the
pins functional (R482, R483). -/
def tapSelect (s : State) (code : Nat) (ok : Bool) (drive : PinDrive) : State :=
  if s.tapUp then
    { s with tap := { s.tap with ir := code, bypassed := !ok, drive := if ok then drive else .functional } }
  else s

/-- Whether the port state permits the boundary register: BSCAN or FULL (R482). -/
def scanOk (s : State) : Bool := decide (2 ≤ s.rd Reg.SEC_LC_PORT 0)

/-- IDCODE's 32 bits (R482). -/
def idcodeWord : Nat := 1 + Config.jedecCode.toNat * 2 + 0x8F16 * 2 ^ 12 + Config.stepping.toNat * 2 ^ 28

/-- What Capture-DR loads under the instruction in force (R482): IDCODE's word, the pins, the DBGACC register, or the 0 of
the bypass register. -/
def drCapture (s : State) : Nat :=
  if s.tap.bypassed then 0
  else match s.tap.ir with
    | 0x01 => idcodeWord
    | 0x02 => s.pinCapture.toNat
    | 0x04 => s.pinCapture.toNat
    | 0x10 => s.tap.dbg.toNat
    | _ => 0

/-- The boundary register scanned: it captures the pins, and then its cells take the bits scanned in (R482, R483). -/
def scanPins (s : State) (scan : BitVec 16) : State :=
  { s with tap := { s.tap with boundary := scan, captured := s.pinCapture } }.tick

/-! Debug accesses (R484), the clearing of fences (R481) and the writing of an image (R474). -/

/-- The data register with a result in DATA and STATUS. -/
def dbgResult (dr : BitVec 84) (data status : Nat) : BitVec 84 :=
  BitVec.ofNat 84 (putBits (putBits dr.toNat 75 44 data) 77 76 status)

/-- A debug access that ended: the DBGACC register captures its result. -/
def dbgEnd (s : State) (dr : BitVec 84) (data status : Nat) : State :=
  { s with tap := { s.tap with pending := none, dbg := dbgResult dr data status } }

/-- ANV_FENCE of an Anvil with bits cleared (R481): the row and, in Debug, the copy follow. -/
def clearFence (s : State) (n v : Nat) : State × Bool :=
  let keep := s.rd Reg.ANV_FENCE_STRIPE n &&& bits v 7 0
  let wd := s.rd Reg.ANV_FENCE_WITHDRAWN n &&& bits v 8 8
  let t := (s.wr Reg.ANV_FENCE_STRIPE n keep).wr Reg.ANV_FENCE_WITHDRAWN n wd
  let zeros := 36 - ((List.range 36).filter (bit t.fenceMap)).length
  if t.fenceMap = s.fenceMap then (s, true)
  else if decide (64 < s.fuses.fences.length + 1 + zeros) then (s, false)
  else
    let t := t.wr Reg.ANV_STATUS_LIVE_STRIPES n (8 - ones8 keep)
    let t := if wd = 0 && t.rd Reg.ANV_STATUS_STATE n = 3 then t.wr Reg.ANV_STATUS_STATE n 0 else t
    (t.persist.fenceCopy, true)

/-- What an unwritten byte of flash reads as. -/
def erasedByte : Nat → Byte := fun _ => 0xFF

/-- A word of a firmware image written through the debug port while no slot is valid (R474): at an address that no register
holds, which the spec does not name, so that it is a free one of the configuration. -/
def imageWrite (s : State) (a v : Nat) : State := match Config.imagePort a with
  | none => s
  | some (n, o) =>
    let f := s.flash.fw[n]
    let put (t : Tab Byte) (i : Nat) : Tab Byte := Tab.set erasedByte t (o + i) ((toBytes 4 v).getD i 0)
    { s with flash := { s.flash with fw := s.flash.fw.set n { f with image := (List.range 4).foldl put f.image, raw := true } } }

/-- A debug write of the control space at FULL: it acts as an owner write, clears fences in Debug and Returned, and writes a
firmware image where none is valid (R474). -/
def dbgCtlWrite (s : State) (a v : Nat) : State × Bool :=
  if within 0x050000 0x4000 a && a % 0x1000 = 4 && decide (2 ≤ s.lifecycle) then s.clearFence ((a - 0x050000) / 0x1000) v
  else if s.stage = 5 && !hasReg a then (s.imageWrite a v, true)
  else
    let t := s.regWrite .debug a v fun s => s.ctlWrite a v
    (t, t.wres != .denied)

/-- Debug accesses of the logical device space are plain accesses at NORMAL priority (R484). -/
def dbgVia : Via := ⟨0, none, true, 0⟩

/-- A debug access performed; one of memory stays pending before READY and while memory is in self-refresh (R484, R525),
and so does, before READY, a write of a register that may make accesses of memory. -/
def dbgPerform (s : State) (dr : BitVec 84) : State :=
  let x := dr.toNat
  let write := bits x 1 0 = 2
  let a := bits x 43 3 / 4 * 4
  let v := bits x 75 44
  let full := s.rd Reg.SEC_LC_PORT 0 = 3
  if s.rd Reg.SEC_LC_PORT 0 = 0 || s.rd Reg.SEC_LC_PORT 0 = 2 then s.dbgEnd dr 0 1
  else if write && !full then s.dbgEnd dr v 1
  else if !bit x 2 then
    if write then
      if s.heldBack .debug a then s
      else
        let (t, ok) := s.dbgCtlWrite a v
        t.dbgEnd dr v (if ok then 0 else 1)
    else (s.dbgEnd dr (s.readWord a false).toNat 0).tick
  else if !s.memUp then s
  else if write then
    if resPage ≤ a / 2 ^ 18 then s.dbgEnd dr v 1 else (s.store dbgVia a (toBytes 4 v)).dbgEnd dr v 0
  else if s.poisoned a 4 then (s.readRange dbgVia a 4).dbgEnd dr 0 3
  else (s.readRange dbgVia a 4).dbgEnd dr (s.peek a 4) 0

/-! The I3C common commands (R365, R366). -/

/-- Whether Hearth is powered and answers I3C: also after THERMTRIP (R414, R462). -/
def hearthUp (s : State) : Bool := s.pw.mode == .on || s.pw.mode == .tripped

/-- Whether a transfer to the Fercel reaches an address of its own (R366): the dynamic one, or while it has none the static
one, which ADDR_SEL = 6 does not give. -/
def i3cHears (s : State) : Bool := s.hearthUp && (s.rdB Reg.HRT_I3C_DA_VALID 0 || s.rdB Reg.HRT_I3C_SA_VALID 0)

/-- A transfer to the Fercel's address: it wakes the module from Doze or Slumber (R417), and acts. That it acts after the
wake is the model's choice (DESIGN CHOICE, log entry 182): the spec says only that it wakes. -/
def addressed (s : State) (f : State → State) : State := if s.i3cHears then f (s.wakeUp 1) else s

/-- A dynamic address assigned. -/
def assign (s : State) (da : BitVec 7) : State := (s.wr Reg.HRT_I3C_DA 0 da.toNat).wrB Reg.HRT_I3C_DA_VALID 0 true

/-- What the next I3C read returns. -/
def reply (s : State) (bs : List Byte) : State := { s with kal := { s.kal with i3cReply := bs } }

/-- The provisional ID, most significant byte first (R365). -/
def provisionalId (s : State) : List Byte :=
  (toBytes 6 (Config.mipiCode.toNat * 2 ^ 33 + 0x8F16 * 2 ^ 16 + s.pw.slotId.toNat * 2 ^ 12)).reverse

end State

/-! The meanings of the commands of the TAP and of the I3C common commands. -/

/-- TAP_RESET (R482). -/
def execTapReset (s : State) : Host.Outcome State Fault Refusal := act s (s.tapSelect 0x01 true .functional)

/-- IDCODE (R482). -/
def execIdcode (s : State) : Host.Outcome State Fault Refusal := act s (s.tapSelect 0x01 true .functional)

/-- SAMPLE_PRELOAD (R482): the pins are captured, and the boundary register takes the bits scanned in. -/
def execSamplePreload (scan : BitVec 16) (s : State) : Host.Outcome State Fault Refusal :=
  let t := s.tapSelect 0x02 s.scanOk .functional
  act s (if s.tapUp && s.scanOk then t.scanPins scan else t)

/-- EXTEST (R482, R483): the cells drive the pins; where the tester scans, the pins are captured and the cells take the
bits scanned in, which are a free value (log entry 185). -/
def execExtest (s : State) : Host.Outcome State Fault Refusal :=
  let t := s.tapSelect 0x04 s.scanOk .boundary
  act s (if s.tapUp && s.scanOk then (match Config.scanIn s.free with
    | some b => t.scanPins b
    | none => t.tick) else t)

/-- CLAMP (R482, R483). -/
def execClamp (s : State) : Host.Outcome State Fault Refusal := act s (s.tapSelect 0x05 s.scanOk .boundary)

/-- HIGHZ (R482, R483). -/
def execHighz (s : State) : Host.Outcome State Fault Refusal := act s (s.tapSelect 0x06 s.scanOk .highz)

/-- BYPASS (R482). -/
def execBypass (s : State) : Host.Outcome State Fault Refusal := act s (s.tapSelect 0xFF true .functional)

/-- DBGACC (R484): Update-DR starts the access; OP 0 and 3 start none. -/
def execDbgacc (dr : BitVec 84) (s : State) : Host.Outcome State Fault Refusal :=
  let port := s.rd Reg.SEC_LC_PORT 0
  let ok := port == 1 || port == 3
  let t := s.tapSelect 0x10 ok .functional
  let op := bits dr.toNat 1 0
  act s (if s.tapUp && ok && (op == 1 || op == 2) then
    { t with tap := { t.tap with pending := some dr, dbg := State.dbgResult dr 0 2 } } else t)

/-- DBGACC_DONE (R484). -/
def execDbgaccDone (s : State) : Host.Outcome State Fault Refusal :=
  act s (match s.tap.pending with
    | some dr => if s.tapUp then s.dbgPerform dr else s
    | none => s)

/-- ENTDAA (R365, R366): a target without a dynamic address takes the one assigned. -/
def execEntdaa (da : BitVec 7) (s : State) : Host.Outcome State Fault Refusal :=
  act s (if s.hearthUp && !s.rdB Reg.HRT_I3C_DA_VALID 0 then s.assign da else s)

/-- SETDASA (R366): by the static address. -/
def execSetdasa (target da : BitVec 7) (s : State) : Host.Outcome State Fault Refusal :=
  act s (if s.hearthUp && !s.rdB Reg.HRT_I3C_DA_VALID 0 && s.rdB Reg.HRT_I3C_SA_VALID 0 &&
      s.rd Reg.HRT_I3C_SA 0 == target.toNat then (s.wakeUp 1).assign da else s)

/-- RSTDAA (R366). -/
def execRstdaa (s : State) : Host.Outcome State Fault Refusal :=
  act s (if s.hearthUp then (s.wr Reg.HRT_I3C_DA 0 0).wrB Reg.HRT_I3C_DA_VALID 0 false else s)

/-- ENEC (R365, R368). -/
def execEnec (events : Byte) (s : State) : Host.Outcome State Fault Refusal :=
  act s (if s.hearthUp && bit events.toNat 0 then s.wrB Reg.HRT_I3C_IBI_EN 0 true else s)

/-- DISEC (R365, R368). -/
def execDisec (events : Byte) (s : State) : Host.Outcome State Fault Refusal :=
  act s (if s.hearthUp && bit events.toNat 0 then s.wrB Reg.HRT_I3C_IBI_EN 0 false else s)

/-- GETPID (R365). -/
def execGetpid (s : State) : Host.Outcome State Fault Refusal := act s (s.addressed fun s => s.reply s.provisionalId)

/-- GETBCR (R365). -/
def execGetbcr (s : State) : Host.Outcome State Fault Refusal := act s (s.addressed fun s => s.reply [0x06])

/-- GETDCR (R365). -/
def execGetdcr (s : State) : Host.Outcome State Fault Refusal := act s (s.addressed fun s => s.reply [0x00])

end Sys2Proof.Machine
end

