-- ==== Sys2Proof/Machine/Kalec.lean ====
section
/-!
DEFINITION. The mailboxes and ownership of Kalec (spec/13 R369 to R385): how a request is checked, answered and set to run,
and the changes of owner.
-/
namespace Sys2Proof.Machine

/-- The CMD of a command (R376). -/
def kCode : KCmd → Nat
  | .hello => 0x01
  | .readReg _ _ => 0x02
  | .ownerInfo => 0x03
  | .readEvents _ _ _ => 0x04
  | .slagRead _ _ => 0x05
  | .configRead _ => 0x06
  | .quote _ => 0x07
  | .claim _ => 0x10
  | .yield _ _ => 0x11
  | .keepalive => 0x12
  | .forceVacate _ => 0x13
  | .writeReg _ => 0x20
  | .configWrite _ _ _ => 0x21
  | .slotOpen _ _ => 0x30
  | .slotStart _ => 0x31
  | .slotStop _ => 0x32
  | .slotClose _ => 0x33
  | .streamResume _ => 0x34
  | .stepMark _ => 0x35
  | .qpBind _ => 0x38
  | .qpUnbind _ => 0x39
  | .pageClear _ => 0x40
  | .setCap _ => 0x48
  | .setPhaseOp _ _ => 0x49
  | .setGroupOp _ => 0x4A
  | .resume => 0x4B
  | .fwStage _ _ _ => 0x50
  | .fwCommit _ _ => 0x51
  | .fwActivate _ => 0x52
  | .debugToken _ _ _ => 0x60

/-- The commands any agent may send (R376). -/
def anyCodes : List Nat := [0x01, 0x02, 0x03, 0x04, 0x05, 0x06, 0x07, 0x10, 0x13]

/-- The commands of the owner (R376). -/
def ownerCodes : List Nat :=
  [0x11, 0x12, 0x20, 0x21, 0x30, 0x31, 0x32, 0x33, 0x34, 0x35, 0x38, 0x39, 0x40, 0x48, 0x49, 0x4A, 0x4B, 0x50, 0x51, 0x52, 0x60]

/-- The commands offered in version 2 (R376). -/
def v2Codes : List Nat := [0x01, 0x02, 0x03, 0x04, 0x05]

/-- The owner commands that execute at once in stage MEMORY, but for CONFIG_WRITE (R524). -/
def earlyCodes : List Nat := [0x11, 0x12, 0x48, 0x49, 0x4A]

/-- Whether a request executes during stage MEMORY (R524). -/
def early (q : Req) : Bool :=
  anyCodes.contains q.code || earlyCodes.contains q.code || match q.cmd with
    | some (.configWrite _ a _) => a == 0
    | _ => false

/-- Whether a request executes one at a time with others: the owner's, and QUOTE, whose snapshot lies wholly before or
after each (R374, R476). -/
def serial (q : Req) : Bool := ownerCodes.contains q.code || q.code == 0x07

/-- The status code of a response (R375). -/
def kStatus : KStat → Nat
  | .ok => 0
  | .busy _ _ => 1
  | .denied => 2
  | .range => 3
  | .stale => 4
  | .auth => 5
  | .version => 6
  | .poison => 7

/-- The payload that names a holder (R375). -/
def kHolder : KStat → List Byte
  | .busy c i => toBytes 2 c ++ toBytes 2 i
  | _ => []

/-- A response's frame, in its request's version (R372). -/
def kFrame (h : KHdr) (code status dseq : Nat) (pl : List Byte) : List Byte :=
  let v := if h.ver = 3 then 3 else 2
  let first := [BitVec.ofNat 8 (v + 16), BitVec.ofNat 8 h.mbox.val] ++ toBytes 2 code ++ toBytes 4 h.reqSeq.toNat
  let rest := if h.ver = 3 then
    toBytes 8 h.agent.toNat ++ toBytes 4 h.otok.toNat ++ toBytes 2 pl.length ++ [BitVec.ofNat 8 status, 0] ++ toBytes 4 dseq
    else toBytes 2 pl.length ++ [BitVec.ofNat 8 status, 0]
  let crc := crc32c (first ++ rest ++ toBytes 4 0 ++ pl)
  first ++ rest ++ toBytes 4 crc ++ pl

/-- Whether two requests of a mailbox have one sender and REQ_SEQ (R370, R371). -/
def sameReq (a b : KHdr) : Bool :=
  a.reqSeq == b.reqSeq && a.agent == b.agent && (a.mbox.val < 2 || (a.peerIp == b.peerIp && a.peerPort == b.peerPort))

namespace State

/-! Responses. -/

/-- A mailbox changed. -/
def modBox (s : State) (m : Fin 16) (f : Mbox → Mbox) : State :=
  { s with kal := { s.kal with boxes := s.kal.boxes.set m (f s.kal.boxes[m]) } }

/-- A response sent: into the response area, or as a datagram through the port of arrival (R369, R370). -/
def kSend (s : State) (h : KHdr) (frame : List Byte) : State :=
  if h.mbox.val < 2 || !s.rdB Reg.NET_PORT_STATUS_LINK h.port then s
  else s.sendFrame h.port (.datagram h.peerIp.toNat h.peerPort.toNat frame)

/-- A response made and kept (R371, R375, R510); a command that completes with KS_OK releases the alert of R448. -/
def respond (s : State) (q : Req) (st : KStat) (pl : List Byte) : State :=
  let m := q.hdr.mbox
  let pl := kHolder st ++ pl
  let frame := kFrame q.hdr q.code (kStatus st) s.dseq.toNat pl
  let s := s.takeDseq
  let mine := s.kal.boxes[m].cur == some q
  let s := s.modBox m fun b => { b with
    cur := if mine then none else b.cur
    kept := some ⟨q.code, q.hdr, kStatus st, pl, frame⟩ }
  let s := (s.wr Reg.KAL_MB_STATUS_STATE m (if s.kal.boxes[m].cur.isSome then 1 else 2)).wr
    Reg.KAL_MB_STATUS_LAST_STATUS m (kStatus st)
  let s := if st = .ok then { s with pw := { s.pw with alertHeld := false } } else s
  s.kSend q.hdr frame

/-- The answer to a request in progress; one that a restart cut short gets none (R448). -/
def answer (s : State) (q : Req) (st : KStat) (pl : List Byte) : State :=
  if s.kal.boxes[q.hdr.mbox].cur == some q then s.respond q st pl else s

/-! Ownership (R377 to R385). -/

/-- The ownership state (R378). -/
def ownState (s : State) : Nat := s.rd Reg.HRT_OWNER_STATE 0

/-- The ownership state changed, and counted where it changes. -/
def setOwnState (s : State) (st : Nat) : State :=
  let s := if s.ownState = st then s else s.inc Reg.HRT_OWNER_CHANGES 0 1
  s.wr Reg.HRT_OWNER_STATE 0 st

/-- The event of a change of owner, with HRT_OWNER after it (R463). -/
def noteOwner (s : State) : State := s.raise 0x0601 0 none (s.word 0x000100).toNat

/-- A firmware staging left incomplete is discarded (R379, R395). -/
def dropStaging (s : State) : State :=
  let drop (f : FwSlot) : FwSlot := if f.staged then .erased else f
  { s with
    flash := { s.flash with fw := s.flash.fw.map drop }
    kal := { s.kal with stageTok := none } }

/-- Ownership ends: the lease, any staging and an opened port end with it (R379, R486, R488). -/
def ownerEnds (s : State) (st : Nat) (id : DWord) : State :=
  let s := if s.owned then s.dropStaging else s
  let s := { s with sec := { s.sec with token := [] }, kal := { s.kal with leaseDue := false, hold15 := false } }
  let s := ((s.setOwnState st).wr Reg.HRT_OWNER_PRIORITY 0 0).wr Reg.HRT_OWNER_MBOX 0 0
  let s := (s.wrB Reg.HRT_OWNER_VIA_I3C 0 false).wr Reg.HRT_OWNER_ID_AGENT_ID 0 id.toNat
  (s.wr Reg.HRT_CD_HOLD_CD1 0 0).closePort

/-- A token drawn: not 0 and none drawn before (R380). -/
def drawToken (s : State) : State :=
  let x := (Config.random s.free).toNat % (2 ^ 32 - s.kal.toks.length)
  let t := s.kal.toks.foldl (fun x e => if e ≤ x then x + 1 else x) x
  { s with kal := { s.kal with otok := BitVec.ofNat 32 t, toks := insertSorted t s.kal.toks } }.tick

/-- Ownership granted to a claim (R378, R380, R382). -/
def grant (s : State) (q : Req) (prio : Nat) : State :=
  let s := { s.drawToken with sec := { s.sec with token := [] } }
  let s := { s with kal := { s.kal with hold15 := false, leaseDue := false } }
  let s := ((s.setOwnState 2).wr Reg.HRT_OWNER_PRIORITY 0 prio).wr Reg.HRT_OWNER_MBOX 0 q.hdr.mbox
  let s := (s.wrB Reg.HRT_OWNER_VIA_I3C 0 (decide (q.hdr.mbox.val < 2))).wr Reg.HRT_OWNER_ID_AGENT_ID 0 q.hdr.agent.toNat
  let s := ((s.wr Reg.HRT_CD_HOLD_CD1 0 1).closePort).noteOwner
  s.answer q .ok (toBytes 4 s.kal.otok.toNat)

/-- CLAIM (R378, R381, R383, R385): its response waits for the window in COLLECT. -/
def claim (s : State) (q : Req) (prio : Nat) : State :=
  let h := q.hdr
  let refuse := s.answer q (.busy 1 0) []
  if 15 < prio || (prio = 15 && 2 ≤ h.mbox.val) then s.answer q .range []
  else if s.ownState ≤ 1 then
    let s := if s.ownState = 0 then s.wr Reg.HRT_OWNER_STATE 0 1 else s
    { s with kal := { s.kal with claims := s.kal.claims ++ [(h, prio)] } }
  else if s.ownState = 2 then refuse
  else if s.kal.hold15 then (if prio = 15 then s.grant q prio else refuse)
  else if h.agent.toNat = s.ownerId then s.grant q prio else refuse

/-- The claim that wins the window: the highest priority, the earliest of equals (R381). -/
def winner : List (KHdr × Nat) → Option (KHdr × Nat)
  | [] => none
  | c :: cs => match winner cs with
    | some d => if c.2 < d.2 then some d else some c
    | none => some c

/-- The request that a claim made. -/
def claimReq (c : KHdr × Nat) : Req := ⟨c.1, 0x10, some (.claim (BitVec.ofNat 8 c.2))⟩

/-- The claim window closes (R381). -/
def windowClose (s : State) : State :=
  let cs := s.kal.claims
  let s' := { s with kal := { s.kal with claims := [] } }
  match winner cs with
  | none => s'.wr Reg.HRT_OWNER_STATE 0 0
  | some w => (cs.filter (· != w)).foldl (fun s c => s.answer (claimReq c) (.busy 1 0) []) (s'.grant (claimReq w) w.2)

/-- YIELD (R378, R383). -/
def yieldOwner (s : State) (succ : DWord) (reserve : Nat) : State × KStat :=
  if reserve = 0 || 100 < reserve || succ.toNat = s.ownerId then (s, .range)
  else ((s.ownerEnds (if succ = 0 then 0 else 3) succ).noteOwner, .ok)

/-- FORCE_VACATE (R385): the claims of an open window lose. -/
def vacate (s : State) (m : Fin 16) (hold : Nat) : State × KStat :=
  if 2 ≤ m.val then (s, .denied)
  else if 2 ≤ hold then (s, .range)
  else
    let cs := s.kal.claims
    let s := { s with kal := { s.kal with claims := [] } }
    let s := s.ownerEnds (if hold = 1 then 3 else 0) 0
    let s := ({ s with kal := { s.kal with hold15 := hold == 1 } }).noteOwner
    (cs.foldl (fun s c => s.answer (claimReq c) (.busy 1 0) []) s, .ok)

/-- The lease expires (R378). -/
def leaseEnds (s : State) : State :=
  let id := s.ownerId
  (s.ownerEnds 0 0).raise 0x0602 0 none (id % 2 ^ 32)

/-- Whether Kalec serves: released, not restarting and not handing over. -/
def kalecServes (s : State) : Bool := s.kalecUp && !s.kal.restart && s.kal.activate.isNone

/-- The lease countdown reaches zero: at once, or when the owner command executing completes (R382). -/
def leaseExpire (s : State) : State :=
  if !s.kalecServes || !s.owned then s
  else if s.kal.running.isSome then { s with kal := { s.kal with leaseDue := true } }
  else s.leaseEnds

/-- A reservation elapses (R378). -/
def reservationEnds (s : State) : State :=
  if !s.kalecServes || s.ownState ≠ 3 then s else (s.ownerEnds 0 0).noteOwner

/-- The owner command that executes has completed; a lease that ran out meanwhile expires (R382). -/
def runEnds (s : State) : State :=
  let due := s.kal.leaseDue
  let s := { s with kal := { s.kal with running := none, leaseDue := false } }
  if due && s.owned then s.leaseEnds else s

/-! Requests (R370 to R374, R524). -/

/-- A request that starts before stage MEMORY: an I3C mailbox keeps one, a datagram is discarded (R524). -/
def kEarly (s : State) (q : Req) : State :=
  let m := q.hdr.mbox
  if 2 ≤ m.val then s
  else if s.kal.boxes[m].cur.isSome then s.incSat Reg.KAL_MB_STATUS_BADFRAME m
  else
    let s := { s with kal := { s.kal with early := s.kal.early ++ [q] } }
    (s.modBox m fun b => { b with cur := some q }).wr Reg.KAL_MB_STATUS_STATE m 1

/-- Whether stage MEMORY has not begun: in NOFW it never does (R522, R524). -/
def preMemory (s : State) : Bool := decide (s.stage < 3) || s.stage == 5

/-- A request accepted as one in progress, to run in its turn. -/
def kEnter (s : State) (q : Req) : State :=
  let s := (s.modBox q.hdr.mbox fun b => { b with cur := some q, cut := none }).wr Reg.KAL_MB_STATUS_STATE q.hdr.mbox 1
  { s with kal := { s.kal with waiting := s.kal.waiting ++ [q] } }

/-- The checks of R373 before the owner's. -/
def kCheck (q : Req) : Option KStat :=
  let h := q.hdr
  if h.ver ≠ 2 && h.ver ≠ 3 then some .version
  else if h.frameMb ≠ h.mbox.val || h.kind ≠ 0 || !(anyCodes.contains q.code || ownerCodes.contains q.code) ||
    (h.ver = 3 && h.agent = 0) then some .range
  else if h.ver = 2 && !v2Codes.contains q.code then some .version
  else none

/-- The response a mailbox keeps for this request, if it does (R371). -/
def kKept (s : State) (q : Req) : Option Resp := match s.kal.boxes[q.hdr.mbox].kept with
  | some k => if sameReq k.hdr q.hdr && k.cmd == q.code then some k else none
  | none => none

/-- A request that starts while Kalec serves mailboxes: during a restart every one finds it busy (R448), and during a handover
every new one (R396), which a request with a kept response is not (R371). -/
def kServe (s : State) (q : Req) : State :=
  let m := q.hdr.mbox
  let b := s.kal.boxes[m]
  let s := s.wr Reg.KAL_MB_AGENT_AGENT_ID m q.hdr.agent.toNat
  match b.cur with
  | some c => if sameReq c.hdr q.hdr then s else s.respond q (.busy 2 m.val) []
  | none => match s.kHeld, (if s.kal.restart then none else s.kKept q) with
    | _, some k => ((s.wr Reg.KAL_MB_STATUS_STATE m 2).wr Reg.KAL_MB_STATUS_LAST_STATUS m k.status).kSend q.hdr k.frame
    | some st, none => s.respond q st []
    | none, none =>
      if (b.cut.map fun h => sameReq h q.hdr).getD false then s.respond q .stale []
      else match kCheck q with
        | some st => s.respond q st []
        | none => s.kEnter q

/-- A request without identity where its version has none (R372). -/
def kPlain (q : Req) : Req := if q.hdr.ver = 3 then q else { q with hdr := { q.hdr with agent := 0, otok := 0 } }

/-- A request starts at a mailbox (R369, R370, R373, R524): a datagram needs its port's link, one on network A is
dropped, and a frame that fails step 1 of R373 counts in BADFRAME. -/
def kArrive (s : State) (q : Req) : State :=
  let p := q.hdr.port
  let udp := decide (2 ≤ q.hdr.mbox.val)
  if !s.powered || s.rd Reg.PWR_STATUS_STATE 0 = 3 || (udp && !s.rdB Reg.NET_PORT_STATUS_LINK p) then s
  else
    let s := if udp then s.inc Reg.NET_RX_FRAMES_COUNT p 1 else s
    if !q.hdr.sound && !udp then s.incSat Reg.KAL_MB_STATUS_BADFRAME q.hdr.mbox
    else if s.preMemory then s.kEarly (kPlain q)
    else if udp && p.val < 4 then s.inc Reg.NET_RX_DROP_COUNT p 1
    else if !q.hdr.sound then s.incSat Reg.KAL_MB_STATUS_BADFRAME q.hdr.mbox
    else s.kServe (kPlain q)

/-- Whether a waiting request may run now (R374, R524). -/
def mayRun (s : State) (q : Req) : Bool :=
  s.kalecServes && (s.stage == 4 || early q) && (!serial q || s.kal.running.isNone)

end State

end Sys2Proof.Machine
end

