-- ==== Sys2Proof/Machine/Slots.lean ====
section
/-!
DEFINITION. What the Kalec commands do (spec/13 R376, R386 to R396, spec/17 R486): job slots, queue pairs, the configuration
record, the firmware slots, debug tokens and the reports.
-/
namespace Sys2Proof.Machine

open State

/-- The registers that a configuration copy may name (R390, R426), ANV_FENCE apart. -/
def persistent (a : Nat) : Bool :=
  (within 0x060000 0x2000 a && [0, 8, 12, 0x10, 0x14, 0x20, 0x24, 0x28, 0x2C].contains ((a - 0x060000) % 0x400)) ||
    [0x062000, 0x062004, 0x070000, 0x070004, 0x070200, 0x070204, 0x070208, 0x070300, 0x00010C, 0x080000, 0x080004].contains a

/-- An entry put among others: it replaces the one of its address (R392). -/
def putEntry (es : List (Word × Word)) (e : Word × Word) : List (Word × Word) :=
  if es.any (·.1 == e.1) then es.map fun x => if x.1 == e.1 then e else x else es ++ [e]

/-- Whether two sequence numbers of one boot stand in order (R510). -/
def seqLe (a b : Nat) : Bool := decide ((b + 2 ^ 32 - a) % 2 ^ 32 < 2 ^ 31)

namespace State

/-! Job slots (R386 to R388). -/

/-- What a slot opens with: its step count, energy, cursor, keys and counters, the snapshot among them (R386, R429). -/
def openWith (s : State) (n : Fin 8) (steps energy : DWord) (cursor : List Byte) (drawn : Option Nat)
    (keys : Tab (BitVec 128)) (ctrs : Tab DWord) : State :=
  let snap : Option Snap := if s.stagePart 0 = 0 then none else some ⟨steps, ctrs, cursor, energy⟩
  let s := { s with slots := s.slots.set n ⟨steps, drawn, keys, ctrs, snap⟩ }
  (s.setWordsAt (0x081000 + 8 * n.val) 2 energy.toNat).wr Reg.STR_SLOT_STATE_STATE n 1

/-- A list of numbers as a table without its zeros. -/
def tabOf {w : Nat} (f : Nat → BitVec w) : Tab (BitVec w) :=
  (List.range 4096).filterMap fun i => if f i = 0 then none else some (i, f i)

/-- SLOT_OPEN (R386, R431, R488). -/
def slotOpen (s : State) (slot a : Nat) : State × KStat :=
  let n := Fin.ofNat 8 slot
  if 7 < slot then (s, .range)
  else if s.slotState slot ≠ 0 then (s, .busy 10 slot)
  else if s.rd Reg.SEC_LC_PORT 0 = 2 then (s, .denied)
  else if a = 0 then
    ((s.openWith n 0 0 (List.replicate 4096 0) (some s.free) [] []).tickN 4096, .ok)
  else if a % 64 ≠ 0 || 2 ^ 41 < a + 102464 then (s, .range)
  else
    let via : Via := ⟨0, some n, false, 0⟩
    let s := s.readRange via a 102464
    if s.poisoned a 102464 then (s, .poison)
    else if s.peek (a + 16) 48 ≠ 0 then (s, .range)
    else
      let cur := if s.cursorBase slot = 0 then List.replicate 4096 0 else s.bytesAt (a + 64) 4096
      let key (i : Nat) : BitVec 128 := BitVec.ofNat 128 (s.peek (a + 4160 + 24 * i) 16)
      let ctr (i : Nat) : DWord := BitVec.ofNat 64 (s.peek (a + 4176 + 24 * i) 8)
      let t := s.openWith n (BitVec.ofNat 64 (s.peek a 8)) (BitVec.ofNat 64 (s.peek (a + 8) 8)) cur none (tabOf key) (tabOf ctr)
      (if s.cursorBase slot = 0 then t else t.store via (s.cursorBase slot) cur, .ok)

/-- SLOT_START (R38, R386). -/
def slotStart (s : State) (slot : Nat) : State × KStat :=
  if 7 < slot then (s, .range)
  else if s.slotState slot ≠ 1 then (s, .busy 10 slot)
  else if s.rd Reg.HRT_CFG_SEQ_SEQ 0 = 0 then (s, .stale)
  else (s.wr Reg.STR_SLOT_STATE_STATE slot (if s.rd Reg.STR_SLOT_STATE_HALTED slot = 0 then 2 else 3), .ok)

/-- The macro-ops in flight of a slot. -/
def slotOps (s : State) (slot : Nat) : List Op := s.ops.filter fun o => o.slot.val == slot

/-- Whether a macro-op is a WAIT, a RECV or a transport operation: a SEND, a collective or a remote SIGNAL (R388). -/
def abandons (o : Op) : Bool :=
  [0x39, 0x28, 0x29, 0x2A].contains (dOpcode o.desc) || (dOpcode o.desc == 0x38 && bit (dP o.desc 2) 5)

/-- SLOT_CLOSE's steps 1 to 3 (R388). -/
def closeBegin (s : State) (slot : Fin 8) : State :=
  let s := (s.wr Reg.STR_SLOT_STATE_STATE slot 1).disarmSlot slot
  let gone := ((s.slotOps slot).filter abandons).map (·.id)
  let s := ({ s with ops := s.ops.filter fun o => !gone.contains o.id }.killFills fun f => match f.user with
    | some u => gone.contains u
    | none => false).abandonNet gone
  (List.finRange 48).foldl (fun s r => if ringSlot r = slot then s.countInflight r else s) s

/-- A ring of a closing slot cleared. -/
def closeRing (s : State) (r : RingId) : State :=
  let s := ((s.wr Reg.STR_RING_HEAD_COUNT r 0).wr Reg.STR_RING_TAIL_COUNT r 0).wr Reg.STR_RING_DONE_COUNT r 0
  let s := ((s.wrB Reg.STR_RING_STAT_HALTED r false).wr Reg.STR_RING_STAT_HALT_CODE r 0).modRing r fun _ => ⟨none, false, []⟩
  let q := s.seqr[ringDie r]
  { s with seqr := s.seqr.set (ringDie r) { q with waiters := q.waiters.filter (· != r) } }

/-- SLOT_CLOSE's step 5 (R388). -/
def closeEnd (s : State) (slot : Fin 8) : State :=
  let rs := (List.finRange 48).filter fun r => ringSlot r == slot
  let s := (rs.foldl (fun s r => s.closeRing r) s).killFills fun f => ringSlot f.ring == slot
  let qs := s.net.qps.filter fun e => match e.2 with
    | some q => q.args.slot.toNat == slot.val
    | none => false
  let s := qs.foldl (fun s e => s.qpDrop e.1 none) s
  let s := { s with net := { s.net with shards := s.net.shards.filter (·.2.1 != slot.val) } }
  (s.wr Reg.STR_SLOT_STATE_STATE slot 0).wr Reg.STR_SLOT_STATE_HALTED slot 0

/-- STREAM_RESUME (R145, R376). -/
def streamResume (s : State) (ring : Nat) : State × KStat :=
  if 47 < ring then (s, .range) else (s.resumeRing (Fin.ofNat 48 ring), .ok)

/-- The Kalec command STEP_MARK (R514). -/
def stepMarkNow (s : State) (slot : Nat) : State × KStat :=
  if 7 < slot || s.slotState slot = 0 then (s, .range) else (s.latch (Fin.ofNat 8 slot) true, .ok)

/-! Queue pairs (R357, R358) and pages (R303). -/

/-- QP_BIND (R358). -/
def qpBind (s : State) (a : QpArgs) : State × KStat :=
  let n := a.qp.toNat
  if 255 < n || 7 < a.slot.toNat || a.port.toNat < 4 || 7 < a.port.toNat || 7 < a.retry.toNat ||
    !([1024, 2048, 4096].contains a.mtu.toNat) then (s, .range)
  else match s.qpOf n with
    | some q => (s, .busy 10 q.args.slot.toNat)
    | none => (s.setQp n (some ⟨a, a.sqPsn.toNat, a.rqPsn.toNat, false, [], 2 ^ 32⟩), .ok)

/-- QP_UNBIND (R358). -/
def qpUnbind (s : State) (n : Nat) : State × KStat := if 255 < n then (s, .range) else (s.qpDrop n none, .ok)

/-- PAGE_CLEAR (R303). -/
def pageClear (s : State) (p : Nat) : State × KStat := match s.clearPage p with
  | some t => (t, .ok)
  | none => (s, .range)

/-! Reports (R304, R376, R393). -/

/-- HELLO's payload. -/
def helloBytes (s : State) : List Byte :=
  [2, 3] ++ toBytes 2 0x8F16 ++ toBytes 1 s.pw.slotId.toNat ++ toBytes 2 (s.rd Reg.NET_DEV_ID_DEV_ID 0) ++
    toBytes 1 s.runningSlot.val ++ toBytes 4 (s.rd Reg.HRT_FW_VER_VERSION 0) ++ toBytes 8 (s.rd Reg.HRT_CFG_SEQ_SEQ 0)

/-- READ_REG (R14), over I3C or not. -/
def readRegs (s : State) (a n : Nat) (i3c : Bool) : KStat × List Byte :=
  let as := (List.range n).map fun i => a + 4 * i
  if n = 0 || 500 < n || as.any fun x => !hasReg x then (.range, [])
  else (.ok, as.flatMap fun x => toBytes 4 (s.peekReg x i3c).toNat)

/-- The lease remaining, in units of 1,024 Hearth cycles: a free value within the lease (R382, R385). -/
def leaseLeft (s : State) : Nat := if s.owned then s.choose (s.rd Reg.HRT_LEASE_LEASE_S 0 * 4000000 / 1024 + 1) else 0

/-- OWNER_INFO's payload. -/
def ownerBytes (s : State) : List Byte := s.ctlBytes 0x000100 12 ++ toBytes 4 s.leaseLeft

/-- The journalled records of a boot, none where no block is of that boot (R457). -/
def journalOf (s : State) (boot : Word) : Option (List (BitVec 128)) :=
  match s.flash.journal.filter (·.boot == boot) with
  | [] => none
  | bs => some (bs.flatMap (·.recs))

/-- The source that serves READ_EVENTS: the event log, or the journal for an earlier boot or older records (R393, R457).
-/
def eventSource (s : State) (from_ : Nat) (boot : Word) : Option (List (BitVec 128)) :=
  if boot = 0 || boot = s.flash.boot then
    match s.tel.log with
    | [] => some []
    | r :: _ => if seqLe (recSeq r) from_ then some s.tel.log else some ((s.journalOf s.flash.boot).getD s.tel.log)
  else s.journalOf boot

/-- Records of the current boot returned, by their DSEQs (R368). -/
def returned (s : State) (seqs : List Nat) : State :=
  let left (l : List Nat) : List Nat := l.filter fun x => !seqs.contains x
  { s with tel := { s.tel with unread := left s.tel.unread, ibiDue := left s.tel.ibiDue } }

/-- READ_EVENTS (R368, R393). -/
def readEvents (s : State) (q : Req) (from_ max_ : Nat) (boot : Word) : State :=
  match s.eventSource from_ boot with
  | none => s.answer q .range []
  | some rs =>
    let out := (rs.filter fun r => seqLe from_ (recSeq r)).take (min max_ (if q.hdr.ver = 3 then 125 else 126))
    let lost := if boot = 0 || boot = s.flash.boot then s.tel.lost.toNat else 0
    let oldest := ((rs.head?).map recSeq).getD 0
    let s := if boot = 0 || boot = s.flash.boot then s.returned (out.map recSeq) else s
    s.answer q .ok (toBytes 4 oldest ++ toBytes 4 lost ++ out.flatMap fun r => toBytes 16 r.toNat)

/-- SLAG_READ (R304). -/
def slagBytes (s : State) (i n : Nat) : KStat × List Byte :=
  if n = 0 || 120 < n || 65536 < i + n then (.range, [])
  else (.ok, (span i n).flatMap fun k => toBytes 16 (s.flash.slag.getD k (BitVec.allOnes 128)).toNat)

/-- CONFIG_READ (R376). -/
def configBytes (s : State) (off : Nat) : KStat × List Byte := match s.curCopy with
  | none => (.range, [])
  | some c => (.ok, copyHeader s.flash.cfg[c] ++ entryBytes ((s.flash.cfg[c].entries.drop off).take 244))

/-! Register writes and the configuration record (R374, R376, R390 to R392). -/

/-- Writes in the order given; the first refused one stops the command with its status and index (R376). -/
def writeMany : List (Word × Word) → Nat → State → State × KStat × Nat
  | [], i, s => (s, .ok, i)
  | e :: es, i, s =>
    match s.ctlWrite e.1.toNat e.2.toNat with
    | (t, .ok) => writeMany es (i + 1) t
    | (t, r) => (t, r, i)

/-- The index of a refused write, as a response carries it. -/
def refusedAt (i : Nat) : List Byte := toBytes 4 i

/-- WRITE_REG (R376). -/
def writeRegs (s : State) (q : Req) (ws : List (Word × Word)) : State :=
  if 124 < ws.length then s.answer q .range []
  else
    let (t, r, i) := writeMany ws 0 s
    t.answer q r (if r = .ok then [] else refusedAt i)

/-- The entries of the current copy. -/
def curEntries (s : State) : List (Word × Word) := match s.curCopy with
  | some c => s.flash.cfg[c].entries
  | none => []

/-- CONFIG_WRITE (R390 to R392, R475): it responds when the copy is written. -/
def configWrite (s : State) (q : Req) (seq : DWord) (apply : Nat) (es : List (Word × Word)) : State :=
  let all := es.foldl putEntry s.curEntries
  if !s.copiesLive then s.answer q .denied []
  else if seq.toNat ≠ s.rd Reg.HRT_CFG_SEQ_SEQ 0 then s.answer q .stale []
  else if s.kal.cfgWrite.isSome then s.answer q (.busy 11 0) []
  else if 1 < apply || 122 < es.length || 4996 < all.length || es.any (fun e => !persistent e.1.toNat) then s.answer q .range []
  else
    let (t, r, i) := if apply = 1 then writeMany es 0 s else (s, .ok, 0)
    if r ≠ .ok then t.answer q r (refusedAt i)
    else { t.eraseNext with kal := { t.kal with cfgWrite := some ⟨all, true⟩, running := some q } }

/-- The ANV_FENCE entries of a copy, with the map in force (R392). -/
def fenceEntries (s : State) : List (Word × Word) := (List.range 4).map fun n =>
  (BitVec.ofNat 32 (0x050004 + 0x1000 * n),
    BitVec.ofNat 32 (s.rd Reg.ANV_FENCE_STRIPE n + 256 * s.rd Reg.ANV_FENCE_WITHDRAWN n))

/-- A new copy's entries, digest and signature are formed and its VALID word is programmed: it is current, M2 records it and
the fences it holds are persistent (R66, R392). -/
def copyWritten (s : State) (w : CfgWrite) : State :=
  let seq := match s.curCopy with
    | some c => s.flash.cfg[c].seq + 1
    | none => 1
  let es := (w.entries.filter fun e => !(s.fenceEntries.any fun f => f.1 == e.1)) ++ s.fenceEntries
  let c : CfgCopy := ⟨seq, es, entryDigest es, some (signedBytes seq es (entryDigest es)), 0⟩
  let s := { s with
    flash := { s.flash with cfg := s.flash.cfg.set s.nextCopy c }
    kal := { s.kal with cfgWrite := none } }
  let s := (s.wr Reg.HRT_CFG_SEQ_SEQ 0 seq.toNat).measureCopy c
  let s := if w.answer then s.raise 0x0604 0 none (seq.toNat % 2 ^ 32) else s
  s.persist

/-! Firmware slots (R394 to R396). -/

/-- A firmware slot changed. -/
def setFw (s : State) (n : Fin 2) (f : FwSlot) : State := { s with flash := { s.flash with fw := s.flash.fw.set n f } }

/-- FW_STAGE (R395). -/
def fwStage (s : State) (otok : Word) (n off : Nat) (data : List Byte) : State × KStat :=
  let i := Fin.ofNat 2 n
  if 1 < n || 960 < data.length || 2 ^ 26 < off + data.length then (s, .range)
  else if i = s.runningSlot then (s, .denied)
  else
    let f := s.flash.fw[i]
    let s := if f.staged then s else
      { s with kal := { s.kal with stageTok := some otok } }.wrB Reg.HRT_FW_COMMITTED 0 false
    let f := if f.staged then f else { FwSlot.erased with staged := true }
    let put (t : Tab Byte) (k : Nat) : Tab Byte := Tab.set erasedByte t (off + k) (data.getD k 0)
    (s.setFw i { f with image := (List.range data.length).foldl put f.image }, .ok)

/-- FW_COMMIT (R395). -/
def fwCommit (s : State) (n len : Nat) : State × KStat :=
  let i := Fin.ofNat 2 n
  let f := s.flash.fw[i]
  if 1 < n then (s, .range)
  else if i = s.runningSlot then (s, .denied)
  else
    let img := (List.range (min len (2 ^ 26))).map (Tab.get erasedByte f.image)
    let s := { s with kal := { s.kal with stageTok := none } }
    if (f.staged || f.commit) && decide (len ≤ 2 ^ 26) && Config.fwVerifies Config.fwKey img then
      let g : FwSlot := { f with
        version := Config.fwVersionOf img, length := BitVec.ofNat 32 len, digest := BitVec.ofNat 256 (sha256N img)
        staged := false, commit := true, valid := true, raw := false }
      ((s.setFw i g).wrB Reg.HRT_FW_COMMITTED 0 true, .ok)
    else ((s.setFw i .erased).wrB Reg.HRT_FW_COMMITTED 0 false, .auth)

/-- FW_ACTIVATE (R396): steps 1 to 4; the response follows the handover. -/
def fwActivate (s : State) (q : Req) (n : Nat) : State :=
  let f := s.flash.fw[(Fin.ofNat 2 n)]
  if 1 < n then s.answer q .range []
  else if !f.commit then s.answer q .stale []
  else
    let s := (s.measureFw f).wrB Reg.HRT_FW_ACTIVATING 0 true
    { s with kal := { s.kal with activate := some (q.hdr, n), running := some q } }

/-! Debug tokens (R485 to R487). -/

/-- The bytes of the token buffer, where every one has been written since the last FINAL (R486). -/
def tokenBytes (s : State) : Option (List Byte) :=
  let bs := (List.range 7920).map (Tab.get (fun _ => none) s.sec.token)
  if bs.all (·.isSome) then some (bs.map fun b => b.getD 0) else none

/-- What a token's KIND requires beside its lifecycle state (R487). -/
def tokenCond (s : State) (kind arg : Nat) : KStat :=
  if kind ≤ 2 && s.rd Reg.SEC_LC_PORT 0 ≠ 0 then .busy 1 0
  else if kind = 2 then match s.slotIn (· != 0) with
    | some n => .busy 10 n
    | none => .ok
  else if kind = 5 && (arg ≤ s.floorNow.toNat || s.rd Reg.HRT_FW_VER_VERSION 0 < arg || 16 ≤ s.fuses.floors.length) then .range
  else .ok

/-- The checks of a complete token (R486). -/
def tokenCheck (s : State) (bs : List Byte) : KStat :=
  let h := ofBytes (bs.take 64)
  let kind := bits h 15 8
  if !Config.slhVerify Config.debugKey (bs.take 64) (bs.drop 64) || bits h 191 64 ≠ Config.deviceId.toNat ||
    bits h 447 192 ≠ s.rd Reg.SEC_DBG_NONCE_NONCE 0 then .auth
  else if bits h 7 0 ≠ 1 || kind = 0 || 5 < kind then .range
  else if !(s.lifecycle = 1 || (s.lifecycle = 2 && 4 ≤ kind)) then .denied
  else s.tokenCond kind (bits h 63 32)

/-- DEBUG_TOKEN (R486): bytes staged and, with FINAL, the token checked; the effect of one accepted is due. -/
def debugToken (s : State) (q : Req) (off final : Nat) (data : List Byte) : State :=
  if 7920 < off + data.length || 960 < data.length || 1 < final then s.answer q .range []
  else
    let put (t : Tab (Option Byte)) (k : Nat) : Tab (Option Byte) := Tab.set (fun _ => none) t (off + k) (some (data.getD k 0))
    let s := { s with sec := { s.sec with token := (List.range data.length).foldl put s.sec.token } }
    if final = 0 then s.answer q .ok []
    else
      let bs := s.tokenBytes
      let r := match bs with
        | some b => s.tokenCheck b
        | none => .range
      let s := { s with sec := { s.sec with token := [] } }.drawNonce
      match bs, r with
      | some b, .ok =>
        let h := ofBytes (b.take 64)
        let s := s.extend 3 (sha256 b)
        { s with
          sec := { s.sec with accepted := some (bits h 15 8, BitVec.ofNat 32 (bits h 63 32)) }
          kal := { s.kal with running := some q } }
      | _, r => s.answer q r []

/-- The effect of an accepted token of a kind, with the response (R487, R480). -/
def tokenActs (s : State) (kind : Nat) (f : Word → State → State) : State :=
  match s.sec.accepted, s.kal.running with
  | some (k, arg), some q =>
    if k ≠ kind || !s.kalecServes then s
    else ((f arg { s with sec := { s.sec with accepted := none } }).answer q .ok []).runEnds
  | _, _ => s

/-- The lifecycle state that the next lifecycle reset enters (R480). -/
def resetInto (s : State) (lc : Nat) : State := { s with sec := { s.sec with toState := some lc } }

/-! Quotes (R476). -/

/-- QUOTE: the snapshot; the response follows the signing. -/
def quoteBegin (s : State) (q : Req) (nonce : BitVec 256) : State :=
  if !s.keysHeld then s.answer q .denied []
  else match s.kal.quoting with
    | some (h, _) => s.answer q (.busy 2 h.mbox.val) []
    | none =>
      let n := s.sec.qseq + 1
      { s with
        sec := { s.sec with qseq := n }
        kal := { s.kal with quoting := some (q.hdr, s.quoteBody nonce n) } }

/-- The signing ends (R478). -/
def quoteEnds (s : State) : State := match s.kal.quoting with
  | none => s
  | some (h, body) =>
    let s := { s.putQuote body with kal := { s.kal with quoting := none } }
    let q : Req := ⟨h, 0x07, some (.quote (BitVec.ofNat 256 (bits (ofBytes body) 511 256)))⟩
    s.answer q .ok body

/-! Running a command. -/

/-- SLOT_STOP (R387): the response follows the last completion. -/
def stopSlot (s : State) (q : Req) (slot : Nat) : State :=
  if 7 < slot then s.answer q .range []
  else if s.slotState slot ≤ 1 then s.answer q (.busy 10 slot) []
  else { s.wr Reg.STR_SLOT_STATE_STATE slot 1 with kal := { s.kal with running := some q } }

/-- SLOT_CLOSE (R388): the response follows step 5. -/
def closeSlot (s : State) (q : Req) (slot : Nat) : State :=
  if 7 < slot then s.answer q .range []
  else
    let s := s.closeBegin (Fin.ofNat 8 slot)
    { s with kal := { s.kal with running := some q } }

/-- A command answered with its status alone. -/
def answered1 (q : Req) (r : State × KStat) : State := r.1.answer q r.2 []

/-- A command executes (R373 steps 5 and 6). -/
def kRun (s : State) (q : Req) : State :=
  if ownerCodes.contains q.code && !s.isOwner q.hdr.agent q.hdr.otok then s.answer q .denied []
  else match q.cmd with
    | none => s.answer q .range []
    | some c => match c with
      | .hello => s.answer q .ok s.helloBytes
      | .readReg a n =>
        let r := s.readRegs a.toNat n.toNat (decide (q.hdr.mbox.val < 2))
        (s.answer q r.1 r.2).tick
      | .ownerInfo => (s.answer q .ok s.ownerBytes).tick
      | .readEvents d n b => s.readEvents q d.toNat n.toNat (b.getD 0)
      | .slagRead i n => s.answer q (s.slagBytes i.toNat n.toNat).1 (s.slagBytes i.toNat n.toNat).2
      | .configRead o => s.answer q (s.configBytes o.toNat).1 (s.configBytes o.toNat).2
      | .quote nonce => s.quoteBegin q nonce
      | .claim p => s.claim q p.toNat
      | .yield x r => answered1 q (s.yieldOwner x r.toNat)
      | .keepalive => s.answer q .ok []
      | .forceVacate hold => answered1 q (s.vacate q.hdr.mbox hold.toNat)
      | .writeReg ws => s.writeRegs q ws
      | .configWrite x a es => s.configWrite q x a.toNat es
      | .slotOpen n a => answered1 q (s.slotOpen n.toNat a.toNat)
      | .slotStart n => answered1 q (s.slotStart n.toNat)
      | .slotStop n => s.stopSlot q n.toNat
      | .slotClose n => s.closeSlot q n.toNat
      | .streamResume r => answered1 q (s.streamResume r.toNat)
      | .stepMark n => answered1 q (s.stepMarkNow n.toNat)
      | .qpBind a => answered1 q (s.qpBind a)
      | .qpUnbind n => answered1 q (s.qpUnbind n.toNat)
      | .pageClear p => answered1 q (s.pageClear p.toNat)
      | .setCap w => answered1 q (s.setCap w.toNat)
      | .setPhaseOp p o => answered1 q (s.setPhaseOp p.toNat o.toNat)
      | .setGroupOp o => answered1 q (s.setGroupOp o.toNat)
      | .resume => (answered1 q s.resumeRun).pumpAll
      | .fwStage n o d => answered1 q (s.fwStage q.hdr.otok n.toNat o.toNat d)
      | .fwCommit n l => answered1 q (s.fwCommit n.toNat l.toNat)
      | .fwActivate n => s.fwActivate q n.toNat
      | .debugToken o f d => s.debugToken q o.toNat f.toNat d

/-- A SLOT_STOP or SLOT_CLOSE that executes ends once its slot has nothing in flight (R387, R388). -/
def slotSettle (s : State) : State := match s.kal.running with
  | none => s
  | some q => match q.cmd with
    | some (.slotStop n) => if s.slotOps n.toNat = [] then (s.answer q .ok []).runEnds else s
    | some (.slotClose n) =>
      if s.slotOps n.toNat = [] then ((s.closeEnd (Fin.ofNat 8 n.toNat)).answer q .ok []).runEnds else s
    | _ => s

/-- The requests that may run, run in order (R374). -/
def kPump : Nat → State → State
  | 0, s => s
  | n + 1, s => match s.kal.waiting.find? s.mayRun with
    | none => s
    | some q => kPump n ({ s with kal := { s.kal with waiting := s.kal.waiting.filter (· != q) } }.kRun q).slotSettle

/-- The request that a frame makes: of the row's command, or of a reserved CMD in its place (R373). -/
def kReq (h : KHdr) (c : KCmd) : Req := match h.reserved with
  | some x => if anyCodes.contains x.toNat || ownerCodes.contains x.toNat then ⟨h, kCode c, some c⟩ else ⟨h, x.toNat, none⟩
  | none => ⟨h, kCode c, some c⟩

/-- A request starts, and what may run does. -/
def kRequest (s : State) (h : KHdr) (c : KCmd) : State :=
  let s := s.kArrive (kReq h c)
  kPump s.kal.waiting.length s

/-- A command that executes ends where it can, and what waited for it runs. -/
def kSettle (s : State) : State :=
  let s := s.slotSettle
  kPump s.kal.waiting.length s

/-! Handover and restart (R396, R448). -/

/-- What the response to a FW_ACTIVATE that rolled back carries: the spec states no status, so it is a free one. -/
def rollbackStatus (s : State) (n : Nat) : KStat :=
  ([.denied, .range, .stale, .auth, .version, .busy 12 n] : List KStat).getD (s.choose 6) .auth

/-- The handover ends (R396). -/
def handoff (s : State) (accepted : Bool) : State :=
  match s.kal.activate, s.kal.running with
  | some (_, n), some q =>
    if !s.kalecUp || s.kal.restart then s
    else
      let i := Fin.ofNat 2 n
      let f := s.flash.fw[i]
      let old := s.flash.fw[s.runningSlot]
      let s := { s with kal := { s.kal with activate := none } }
      let s := (s.wrB Reg.HRT_FW_ACTIVATING 0 false).inc Reg.HRT_FW_ACTIVATIONS 0 1
      let s := if accepted then
          let s := s.setFw i { f with seq := some ((old.seq.getD 0) + 1), commit := false }
          let s := ((s.wr Reg.HRT_FW_RUNNING 0 n).wrB Reg.HRT_FW_COMMITTED 0 false).wr Reg.HRT_FW_VER_VERSION 0 f.version.toNat
          (s.raise 0x0605 0 none f.version.toNat).answer q .ok []
        else
          let s := (s.measureFw old).raise 0x0606 0 none f.version.toNat
          (s.answer q (s.rollbackStatus n) []).tick
      s.runEnds.kSettle
  | _, _ => s

/-- Whether the four cores run: from their release, in stage CONFIG, on, but for Slumber (R416, R473). -/
def coresRun (s : State) : Bool := s.powered && decide (2 ≤ s.stage) && s.stage != 5 && s.rd Reg.PWR_STATUS_STATE 0 != 3

/-- A handover cut short by an uncorrectable word: the cores return to the old image (R396, R448). That this is a rollback,
counted and reported as one, is the model's choice (DESIGN CHOICE, log entry 183). -/
def cutHandoff (s : State) : State := match s.kal.activate with
  | none => s
  | some (_, n) =>
    let s := { s with kal := { s.kal with activate := none, running := none } }
    let s := (s.wrB Reg.HRT_FW_ACTIVATING 0 false).inc Reg.HRT_FW_ACTIVATIONS 0 1
    (s.measureFw s.flash.fw[s.runningSlot]).raise 0x0606 0 none s.flash.fw[(Fin.ofNat 2 n)].version.toNat

/-- Kalec restarts (R448): requests in progress are cut short, and an open claim window with them; those that wait for stage
MEMORY stay in their areas. An expiry during a handover is that handover's, and rolls it back (R396). -/
def restart (s : State) (memErr : Bool) : State :=
  if !s.coresRun || s.kal.restart then s
  else if s.kal.activate.isSome && !memErr then s.handoff false
  else if s.preMemory then { s with kal := { s.kal with restart := true, restartMem := memErr } }
  else
    let s := s.cutHandoff
    let cut (b : Mbox) : Mbox := match b.cur with
      | some q => { b with cur := none, cut := some q.hdr }
      | none => b
    let busy := (List.finRange 16).filter fun m => s.kal.boxes[m].cur.isSome
    let s := { s with kal := { s.kal with
      boxes := s.kal.boxes.map cut, claims := [], waiting := [], restart := true, restartMem := memErr } }
    let s := busy.foldl (fun (s : State) (m : Fin 16) => s.wr Reg.KAL_MB_STATUS_STATE m.val 0) s
    if s.ownState = 1 then s.wr Reg.HRT_OWNER_STATE 0 0 else s

/-- The restarted Kalec takes its standing record (R448). -/
def restarted (s : State) (third : Bool) : State :=
  if !s.coresRun || !s.kal.restart then s
  else
    let s := { s with kal := { s.kal with restart := false } }
    let s := s.raise 0x0103 0 none (if s.kal.restartMem then 2 else 1)
    let s := if third then { s with pw := { s.pw with alertHeld := true } } else s
    s.kSettle

end State

end Sys2Proof.Machine
end

