-- ==== Sys2Proof/Machine/Boot.lean ====
section
/-!
DEFINITION. Start-up and lifecycle resets (spec/20, spec/17 R473 to R481), requests written over I3C (R367, R370), and the
meanings of the commands of Kalec.
-/
namespace Sys2Proof.Machine

open State

/-! Requests as bytes (R372, R376). -/

/-- Pairs of words. -/
def wordPairs : List Byte → List (Word × Word)
  | a :: b :: c :: d :: e :: f :: g :: h :: t =>
    (BitVec.ofNat 32 (ofBytes [a, b, c, d]), BitVec.ofNat 32 (ofBytes [e, f, g, h])) :: wordPairs t
  | _ => []

/-- The command of a CMD and payload, none where the payload's length is not the command's (R376). -/
def parseCmd (code : Nat) (pl : List Byte) : Option KCmd :=
  let n := pl.length
  let u (o k : Nat) : Nat := ofBytes ((pl.drop o).take k)
  let fixed (k : Nat) (c : KCmd) : Option KCmd := if n = k then some c else none
  let b (o : Nat) : Byte := BitVec.ofNat 8 (u o 1)
  let h (o : Nat) : BitVec 16 := BitVec.ofNat 16 (u o 2)
  let w (o : Nat) : Word := BitVec.ofNat 32 (u o 4)
  match code with
  | 0x01 => fixed 0 .hello
  | 0x02 => fixed 6 (.readReg (w 0) (h 4))
  | 0x03 => fixed 0 .ownerInfo
  | 0x04 => if n = 10 then some (.readEvents (w 0) (h 4) (some (w 6))) else fixed 6 (.readEvents (w 0) (h 4) none)
  | 0x05 => fixed 6 (.slagRead (w 0) (h 4))
  | 0x06 => fixed 2 (.configRead (h 0))
  | 0x07 => fixed 32 (.quote (BitVec.ofNat 256 (u 0 32)))
  | 0x10 => fixed 1 (.claim (b 0))
  | 0x11 => fixed 9 (.yield (BitVec.ofNat 64 (u 0 8)) (b 8))
  | 0x12 => fixed 0 .keepalive
  | 0x13 => fixed 1 (.forceVacate (b 0))
  | 0x20 => if n % 8 = 0 then some (.writeReg (wordPairs pl)) else none
  | 0x21 => if 9 ≤ n && n % 8 = 1 then some (.configWrite (BitVec.ofNat 64 (u 0 8)) (b 8) (wordPairs (pl.drop 9))) else none
  | 0x30 => fixed 7 (.slotOpen (b 0) (BitVec.ofNat 48 (u 1 6)))
  | 0x31 => fixed 1 (.slotStart (b 0))
  | 0x32 => fixed 1 (.slotStop (b 0))
  | 0x33 => fixed 1 (.slotClose (b 0))
  | 0x34 => fixed 1 (.streamResume (b 0))
  | 0x35 => fixed 1 (.stepMark (b 0))
  | 0x38 => fixed 48 (.qpBind ⟨h 0, b 2, BitVec.ofNat 48 (u 3 6), BitVec.ofNat 48 (u 9 6), h 15, b 17, BitVec.ofNat 24 (u 18 3),
      BitVec.ofNat 128 (u 21 16), BitVec.ofNat 24 (u 37 3), BitVec.ofNat 24 (u 40 3), w 43, b 47⟩)
  | 0x39 => fixed 2 (.qpUnbind (h 0))
  | 0x40 => fixed 4 (.pageClear (w 0))
  | 0x48 => fixed 2 (.setCap (h 0))
  | 0x49 => fixed 2 (.setPhaseOp (b 0) (b 1))
  | 0x4A => fixed 1 (.setGroupOp (b 0))
  | 0x4B => fixed 0 .resume
  | 0x50 => if 5 ≤ n then some (.fwStage (b 0) (w 1) (pl.drop 5)) else none
  | 0x51 => fixed 5 (.fwCommit (b 0) (w 1))
  | 0x52 => fixed 1 (.fwActivate (b 0))
  | 0x60 => if 5 ≤ n then some (.debugToken (w 0) (b 4) (pl.drop 5)) else none
  | _ => none

/-- What a request area reads as where nothing was written. -/
def noAreaByte : Nat → Byte := fun _ => 0

/-- The offset of a frame's last byte within the request area, and whether its LEN is within its version's limit; a frame
of another version starts with its first 16 bytes, and one too long with its header (R372, R373). -/
def frameEnd (hd : Nat) : Nat × Bool :=
  let v := bits hd 3 0
  if v = 3 then (if bits hd 175 160 ≤ 992 then (31 + bits hd 175 160, true) else (31, false))
  else if v = 2 then (if bits hd 79 64 ≤ 1008 then (15 + bits hd 79 64, true) else (15, false))
  else (15, true)

/-- The request that a frame of a mailbox makes (R372). -/
def frameReq (m : Fin 16) (fr : List Byte) : Req :=
  let hd := ofBytes (fr.take 32)
  let v := bits hd 3 0
  let code := bits hd 31 16
  let pl := fr.drop (if v = 3 then 32 else 16)
  ⟨⟨m, v, bits hd 7 4, bits hd 15 8, BitVec.ofNat 32 (bits hd 63 32), BitVec.ofNat 64 (bits hd 127 64),
    BitVec.ofNat 32 (bits hd 159 128), 0, 0, 0, true, none⟩, code, parseCmd code pl⟩

/-- Whether a frame's CRC holds (R372, R373); one of another version is not examined. -/
def frameCrcOk (fr : List Byte) : Bool :=
  let v := bits (ofBytes (fr.take 1)) 3 0
  let at_ := if v = 3 then 28 else 12
  (v != 2 && v != 3) ||
    crc32c (fr.take at_ ++ toBytes 4 0 ++ fr.drop (at_ + 4)) == ofBytes ((fr.drop at_).take 4)

namespace State

/-- Bytes written into a request area; a request starts with the write that covers its last byte (R370, R373, R524). -/
def areaWrite (s : State) (m : Fin 16) (off : Nat) (data : List Byte) : State :=
  if s.preMemory && s.kal.boxes[m].cur.isSome then s.incSat Reg.KAL_MB_STATUS_BADFRAME m
  else
    let put (t : Tab Byte) (k : Nat) : Tab Byte := Tab.set noAreaByte t (off + k) (data.getD k 0)
    let n := min data.length (1024 - off)
    let s := s.modBox m fun b => { b with area := (List.range n).foldl put b.area }
    let area := (List.range 1024).map (Tab.get noAreaByte s.kal.boxes[m].area)
    let (last, fits) := frameEnd (ofBytes (area.take 32))
    let fr := area.take (last + 1)
    if !within off n last then s
    else if !fits || !frameCrcOk fr then s.incSat Reg.KAL_MB_STATUS_BADFRAME m
    else s.kArrive (frameReq m fr)

/-- Byte i of what an I3C read from address b returns: of a response area, or of a register, where an address that is no
multiple of 4 holds none (R13, R14, R367, R370). -/
def i3cByte (s : State) (b i : Nat) : Byte :=
  let a := b + i
  if within 0x010000 0x2000 a && 0x800 ≤ a % 0x1000 then
    let m : Fin 16 := Fin.ofNat 16 (a / 0x1000 % 16)
    ((s.kal.boxes[m].kept.map (·.frame)).getD []).getD (a % 0x1000 - 0x800) 0
  else BitVec.ofNat 8 ((s.readWord (b + i / 4 * 4) true).toNat / 2 ^ (8 * (i % 4)))

/-- Whole words written to consecutive registers (R367). -/
def i3cWords (s : State) (a : Nat) : List Byte → State
  | b0 :: b1 :: b2 :: b3 :: t =>
    let v := ofBytes [b0, b1, b2, b3]
    i3cWords (s.regWrite .i3c a v fun s => s.ctlWrite a v) (a + 4) t
  | _ => s

/-- The bytes of a private write after its address (R367, R370). -/
def privateData (s : State) (a : Nat) (rest : List Byte) : State :=
  if rest = [] then s
  else if within 0x010000 0x2000 a && within 0x400 0x400 (a % 0x1000) then
    s.areaWrite (Fin.ofNat 16 (a / 0x1000 % 16)) (a % 0x1000 - 0x400) rest
  else if within 0x010000 0x2000 a && 0x800 ≤ a % 0x1000 then s
  else s.i3cWords a rest

/-- A private write (R367): its bytes are written, and its address selects what a following read returns. -/
def privateWrite (s : State) (data : List Byte) : State :=
  let a := ofBytes (data.take 3)
  if data.length < 3 then s
  else
    let s := s.privateData a (data.drop 3)
    s.reply ((List.range 2048).map (s.i3cByte a))

/-! Start-up (R473, R391, R521 to R528). -/

/-- A firmware slot as Lendephor finds it at a boot (R394, R473): a staging or an uncommitted image is gone, and an image
written through the debug port is verified (R474). -/
def fwSettled (f : FwSlot) : FwSlot :=
  let n := f.image.foldl (fun m e => max m (e.1 + 1)) 0
  let img := (List.range n).map (Tab.get erasedByte f.image)
  if f.raw then { f with
    seq := some (Config.fwSeqOf img), version := Config.fwVersionOf img, length := BitVec.ofNat 32 n
    digest := BitVec.ofNat 256 (sha256N img), staged := false, commit := false, raw := false
    valid := Config.fwVerifies Config.fwKey img }
  else { f with staged := false, commit := false }

/-- Lendephor's steps 1 to 6 (R473, R474), once the rails of its domain are good: where the module stands in stage RAILS it
passes through ROOT here. -/
def lendephorBoot (s : State) : State :=
  if !s.powered || 2 ≤ s.stage then s
  else
    let lc := if s.fuses.lc = 1 && s.sec.debug then 2 else s.fuses.lc
    let keyed := lc = 1 || lc = 2
    let s := s.extend 0 (toBytes 32 Config.romDigest.toNat)
    let bad := keyed && idDiffers s.fuses
    let s := (s.loadLc lc).wrB Reg.SEC_LC_IDFAIL 0 bad
    let cert := if keyed && !bad then certificate lc (s.rd Reg.SEC_LC_LC_RESETS 0) else []
    let s := ({ s with sec := { s.sec with attCert := cert } }.extend 3 [BitVec.ofNat 8 lc]).drawNonce
    let s := { s with flash := { s.flash with fw := s.flash.fw.map fwSettled } }
    let s := s.wr Reg.SEC_FLOOR_FLOOR 0 s.floorNow.toNat
    match s.fwChoice with
    | none => (s.wrB Reg.SEC_LC_NOFW 0 true).wr Reg.HRT_BOOT_STAGE 0 5
    | some n =>
      let f := s.flash.fw[n]
      (((s.measureFw f).wr Reg.HRT_FW_RUNNING 0 n.val).wr Reg.HRT_FW_VER_VERSION 0 f.version.toNat).wr Reg.HRT_BOOT_STAGE 0 2

/-- A configuration entry written at start-up; Tile Store partitions are laid out before memory is used (R391). -/
def loadEntry (s : State) (e : Word × Word) : State :=
  let a := e.1.toNat
  let v := e.2.toNat
  if a = 0x070000 || a = 0x070004 then
    let d : Fin 2 := Fin.ofNat 2 ((a - 0x070000) / 4)
    if bits v 5 0 + bits v 15 8 + bits v 21 16 + bits v 27 24 ≤ 192 then
      let s := s.plainWrite a v
      { s with ms := { s.ms with part := s.ms.part.set d (s.word a) } }
    else s
  else if persistent a then (s.ctlWrite a v).1 else s

/-- The fence map applied at start-up: of the last fence row and of the loaded copy (R66, R391). An Anvil
with no stripe left is withdrawn without EV_ANVIL_WITHDRAWN: DESIGN CHOICE, R65 raises it where a failing check withdraws,
and the spec is silent on a start-up (log entry 141). -/
def loadFences (s : State) (es : List (Word × Word)) : State :=
  let m := s.rowMap ||| entriesMap es
  let one (s : State) (n : Fin 4) : State :=
    let st := bits m (9 * n.val + 7) (9 * n.val)
    let wd := bit m (9 * n.val + 8) || st == 255
    let s := (s.wr Reg.ANV_FENCE_STRIPE n st).wrB Reg.ANV_FENCE_WITHDRAWN n wd
    let s := s.wr Reg.ANV_STATUS_LIVE_STRIPES n (8 - ones8 st)
    if wd then s.wr Reg.ANV_STATUS_STATE n 3 else s
  let s := ((List.finRange 4).foldl one s).persist
  if s.fenceMap = s.heldMap then s else s.fenceCopy

/-- Requests that started before MEMORY are taken, in the order they started (R374, R524). -/
def takeEarly (s : State) : State :=
  let one (s : State) (q : Req) : State :=
    ((s.modBox q.hdr.mbox fun b => { b with cur := none }).wr Reg.KAL_MB_STATUS_STATE q.hdr.mbox 0).kServe q
  (s.kal.early.foldl one { s with kal := { s.kal with early := [] } }).kSettle

/-- The configuration record loaded (R391, R473 step 6, R528), and stage MEMORY entered. -/
def configLoad (s : State) : State :=
  if !s.powered || s.stage ≠ 2 || s.kal.restart then s
  else
    let s := match s.curCopy with
      | some c =>
        let x := s.flash.cfg[c]
        (((x.entries.foldl (fun (s : State) e => s.loadEntry e) s).measureCopy x).wr Reg.HRT_CFG_SEQ_SEQ 0 x.seq.toNat).loadFences x.entries
      | none => ((s.wrB Reg.HRT_BOOT_CFG_NONE 0 true).raise 0x0603 0 none 0).loadFences []
    (s.wr Reg.HRT_BOOT_STAGE 0 3).takeEarly

/-- The frames of the Slag list, kept from allocation (R274, R304). -/
def slagFrames (s : State) : List Nat := s.flash.slag.foldl (fun l e =>
  let x := e.toNat
  if bits x 7 6 = 2 then insertSorted (frameKey (bits x 1 0) (Fin.ofNat 2 (bits x 2 2)) (bits x 29 8)) l else l) []

/-- The frames out of use after a start-up: those listed, and after a lifecycle reset those that a full list kept out of
use, which stay so until a power-on from Off (R304). -/
def bootRetired (s : State) : List Nat := s.ms.retired.foldl (fun l k => if l.contains k then l else insertSorted k l) s.slagFrames

/-- The map frames of a start-up (R271, R274): near frames 0 to 319 of each die, a listed one replaced by the lowest frame
beyond them that is neither listed nor taken so. -/
def bootMaps (retired : List Nat) : List (Nat × Nat) :=
  let die (d : Fin 2) : List (Nat × Nat) :=
    ((retired.filter fun k => within (frameKey 1 d 0) 320 k).foldl (fun (x : List (Nat × Nat) × Nat) k =>
      let g := (((span x.2 (retired.length + 1)).find? fun f => !retired.contains (frameKey 1 d f)).getD x.2)
      (x.1 ++ [(d.val * 320 + k % 2 ^ 22, g)], g + 1)) ([], 320)).1
  die 0 ++ die 1

/-- A register write held until READY is made, with the authority its writer then has (R524). -/
def heldWriteNow (s : State) (e : Writer × Nat × Word) : State :=
  s.regWrite e.1 e.2.1 e.2.2.toNat fun s => s.ctlWrite e.2.1 e.2.2.toNat

/-- Memory work complete (R274, R521, R524, R526), with the channels that training degraded (R454, R523): Quench where FLOW_OK
has not passed, then what waited for READY. -/
def bootReady (s : State) (degraded : List (Die × Bool × Nat)) : State :=
  if !s.powered || s.stage ≠ 3 then s
  else
    let s := { s with ms := { s.ms with retired := s.bootRetired, mapMoved := bootMaps s.bootRetired } }
    let s := (degraded.foldl (fun (s : State) c => s.degrade c.1 c.2.1 c.2.2) s).wr Reg.HRT_BOOT_STAGE 0 4
    let s := if s.pw.flowOk then s else s.enterQuench 1
    let held := s.kal.held
    let s := { s with kal := { s.kal with held := [] } }
    (held.foldl (fun (s : State) e => s.heldWriteNow e) s).kSettle

/-- The reductions of R467 that no rule lifts at a lifecycle reset, kept through one: degraded channels, lane groups out of
service, failed PLLs and the guard-band. -/
def keepReductions (t s : State) : State :=
  let anv := Vector.ofFn fun (a : Fin 4) => { t.anv[a] with pll := { t.anv[a].pll with failed := s.anv[a].pll.failed } }
  { t with anv := anv, pw := { t.pw with bridgeOut := s.pw.bridgeOut }, ms := { t.ms with degraded := s.ms.degraded } }.setWord
    0x080020 (s.word 0x080020)

/-- A lifecycle reset (R480): every domain but Hearth starts anew from ROOT. -/
def lifecycleReset (s : State) : State := match s.sec.toState with
  | none => s
  | some lc =>
    if !s.powered then s
    else
      let t := s.startUp 1 s.pw.addrSel s.pw.slotId s.pw.flowOk
      let ctl := s.ctl.filter (fun e => decide (e.1 < 0x10000)) ++ t.ctl.filter (fun e => decide (0x10000 ≤ e.1))
      let sec := { t.sec with qseq := s.sec.qseq, everArm := s.sec.everArm, debug := lc == 2 }
      let ms := { t.ms with retired := s.ms.retired, slagFull := s.ms.slagFull }
      let t := { t with ctl := ctl, sec := sec, pw := { t.pw with hot := s.pw.hot }, ms := ms }.keepReductions s
      let t := (t.setWord 0x000020 (BitVec.ofNat 32 (1 + 8 * b2n !s.pw.flowOk))).wr Reg.SEC_LC_LC_RESETS 0 (s.rd Reg.SEC_LC_LC_RESETS 0 + 1)
      let t := ((t.wr Reg.HRT_OWNER_STATE 0 0).wr Reg.HRT_OWNER_PRIORITY 0 0).wr Reg.HRT_OWNER_MBOX 0 0
      let t := ((t.wrB Reg.HRT_OWNER_VIA_I3C 0 false).wr Reg.HRT_OWNER_ID_AGENT_ID 0 0).wr Reg.HRT_CFG_SEQ_SEQ 0 0
      let t := ((t.wr Reg.HRT_FW_RUNNING 0 0).wrB Reg.HRT_FW_ACTIVATING 0 false).wrB Reg.HRT_FW_COMMITTED 0 false
      let t := (t.setWord 0x000114 0).wr Reg.HRT_CD_HOLD_CD1 0 0
      t.wr Reg.HRT_CD_HOLD_CD3 0 0

end State

/-! The meanings of the commands of Kalec. -/

/-- HELLO (R376). -/
def execHello (h : KHdr) (s : State) : Host.Outcome State Fault Refusal := act s (s.kRequest h .hello)

/-- READ_REG (R14, R376). -/
def execReadReg (h : KHdr) (addr : Word) (count : BitVec 16) (s : State) : Host.Outcome State Fault Refusal :=
  act s (s.kRequest h (.readReg addr count))

/-- OWNER_INFO (R376). -/
def execOwnerInfo (h : KHdr) (s : State) : Host.Outcome State Fault Refusal := act s (s.kRequest h .ownerInfo)

/-- READ_EVENTS (R393, R457). -/
def execReadEvents (h : KHdr) (fromDseq : Word) (max : BitVec 16) (boot : Option Word) (s : State) : Host.Outcome State Fault Refusal :=
  act s (s.kRequest h (.readEvents fromDseq max boot))

/-- SLAG_READ (R304). -/
def execSlagRead (h : KHdr) (index : Word) (count : BitVec 16) (s : State) : Host.Outcome State Fault Refusal :=
  act s (s.kRequest h (.slagRead index count))

/-- CONFIG_READ (R376). -/
def execConfigRead (h : KHdr) (offset : BitVec 16) (s : State) : Host.Outcome State Fault Refusal :=
  act s (s.kRequest h (.configRead offset))

/-- QUOTE (R476). -/
def execQuote (h : KHdr) (nonce : BitVec 256) (s : State) : Host.Outcome State Fault Refusal := act s (s.kRequest h (.quote nonce))

/-- QUOTE_SIGNED (R478). -/
def execQuoteSigned (s : State) : Host.Outcome State Fault Refusal := act s (if s.powered then s.quoteEnds else s)

/-- CLAIM (R378, R381). -/
def execClaim (h : KHdr) (priority : Byte) (s : State) : Host.Outcome State Fault Refusal := act s (s.kRequest h (.claim priority))

/-- CLAIM_WINDOW_CLOSE (R381). -/
def execClaimWindowClose (s : State) : Host.Outcome State Fault Refusal :=
  act s (if s.kalecServes && s.ownState == 1 then s.windowClose else s)

/-- YIELD (R383). -/
def execYield (h : KHdr) (successor : DWord) (reserve : Byte) (s : State) : Host.Outcome State Fault Refusal :=
  act s (s.kRequest h (.yield successor reserve))

/-- KEEPALIVE (R382). -/
def execKeepalive (h : KHdr) (s : State) : Host.Outcome State Fault Refusal := act s (s.kRequest h .keepalive)

/-- FORCE_VACATE (R385). -/
def execForceVacate (h : KHdr) (hold : Byte) (s : State) : Host.Outcome State Fault Refusal := act s (s.kRequest h (.forceVacate hold))

/-- LEASE_EXPIRE (R378, R382). -/
def execLeaseExpire (s : State) : Host.Outcome State Fault Refusal := act s s.leaseExpire

/-- RESERVATION_ELAPSE (R378). -/
def execReservationElapse (s : State) : Host.Outcome State Fault Refusal := act s s.reservationEnds

/-- WRITE_REG (R16, R376). -/
def execWriteReg (h : KHdr) (writes : List (Word × Word)) (s : State) : Host.Outcome State Fault Refusal :=
  act s (s.kRequest h (.writeReg writes))

/-- CONFIG_WRITE (R392). -/
def execConfigWrite (h : KHdr) (expectSeq : DWord) (apply : Byte) (entries : List (Word × Word)) (s : State) :
    Host.Outcome State Fault Refusal := act s (s.kRequest h (.configWrite expectSeq apply entries))

/-- CONFIG_COPY_WRITTEN (R392): a CONFIG_WRITE is answered with it. -/
def execConfigCopyWritten (s : State) : Host.Outcome State Fault Refusal :=
  act s (match s.kal.cfgWrite with
    | none => s
    | some w =>
      if !s.kalecServes || !s.copiesLive then s
      else
        let t := s.copyWritten w
        match w.answer, t.kal.running with
        | true, some q => ((t.answer q .ok []).runEnds).kSettle
        | _, _ => t)

/-- SLOT_OPEN (R386). -/
def execSlotOpen (h : KHdr) (slot : Byte) (stateAddr : BitVec 48) (s : State) : Host.Outcome State Fault Refusal :=
  act s (s.kRequest h (.slotOpen slot stateAddr))

/-- SLOT_START (R386). -/
def execSlotStart (h : KHdr) (slot : Byte) (s : State) : Host.Outcome State Fault Refusal := act s (s.kRequest h (.slotStart slot))

/-- SLOT_STOP (R387). -/
def execSlotStop (h : KHdr) (slot : Byte) (s : State) : Host.Outcome State Fault Refusal := act s (s.kRequest h (.slotStop slot))

/-- SLOT_CLOSE (R388). -/
def execSlotClose (h : KHdr) (slot : Byte) (s : State) : Host.Outcome State Fault Refusal := act s (s.kRequest h (.slotClose slot))

/-- STREAM_RESUME (R145). -/
def execStreamResume (h : KHdr) (ring : Byte) (s : State) : Host.Outcome State Fault Refusal := act s (s.kRequest h (.streamResume ring))

/-- STEP_MARK_CMD (R514). -/
def execStepMarkCmd (h : KHdr) (slot : Byte) (s : State) : Host.Outcome State Fault Refusal := act s (s.kRequest h (.stepMark slot))

/-- QP_BIND (R358). -/
def execQpBind (h : KHdr) (a : QpArgs) (s : State) : Host.Outcome State Fault Refusal := act s (s.kRequest h (.qpBind a))

/-- QP_UNBIND (R358). -/
def execQpUnbind (h : KHdr) (qp : BitVec 16) (s : State) : Host.Outcome State Fault Refusal := act s (s.kRequest h (.qpUnbind qp))

/-- PAGE_CLEAR (R303). -/
def execPageClear (h : KHdr) (page : Word) (s : State) : Host.Outcome State Fault Refusal := act s (s.kRequest h (.pageClear page))

/-- SET_CAP (R409). -/
def execSetCap (h : KHdr) (watts : BitVec 16) (s : State) : Host.Outcome State Fault Refusal := act s (s.kRequest h (.setCap watts))

/-- SET_PHASE_OP (R401). -/
def execSetPhaseOp (h : KHdr) (phase op : Byte) (s : State) : Host.Outcome State Fault Refusal := act s (s.kRequest h (.setPhaseOp phase op))

/-- SET_GROUP_OP (R401). -/
def execSetGroupOp (h : KHdr) (op : Byte) (s : State) : Host.Outcome State Fault Refusal := act s (s.kRequest h (.setGroupOp op))

/-- RESUME (R423). -/
def execResume (h : KHdr) (s : State) : Host.Outcome State Fault Refusal := act s (s.kRequest h .resume)

/-- FW_STAGE (R395). -/
def execFwStage (h : KHdr) (fslot : Byte) (offset : Word) (data : List Byte) (s : State) : Host.Outcome State Fault Refusal :=
  act s (s.kRequest h (.fwStage fslot offset data))

/-- FW_COMMIT (R395). -/
def execFwCommit (h : KHdr) (fslot : Byte) (length : Word) (s : State) : Host.Outcome State Fault Refusal :=
  act s (s.kRequest h (.fwCommit fslot length))

/-- FW_ACTIVATE (R396). -/
def execFwActivate (h : KHdr) (fslot : Byte) (s : State) : Host.Outcome State Fault Refusal := act s (s.kRequest h (.fwActivate fslot))

/-- FW_HANDOFF (R396). -/
def execFwHandoff (accepted : Bool) (s : State) : Host.Outcome State Fault Refusal := act s (s.handoff accepted)

/-- KALEC_WATCHDOG_EXPIRE (R448). -/
def execKalecWatchdogExpire (memoryError : Bool) (s : State) : Host.Outcome State Fault Refusal := act s (s.restart memoryError)

/-- KALEC_RESTART_DONE (R448). -/
def execKalecRestartDone (thirdInWindow : Bool) (s : State) : Host.Outcome State Fault Refusal := act s (s.restarted thirdInWindow)

/-- DEBUG_TOKEN (R486). -/
def execDebugToken (h : KHdr) (offset : Word) (final : Byte) (data : List Byte) (s : State) : Host.Outcome State Fault Refusal :=
  act s (s.kRequest h (.debugToken offset final data))

/-- TOKEN_OBSERVE (R487). -/
def execTokenObserve (s : State) : Host.Outcome State Fault Refusal := act s (s.tokenActs 1 fun _ s => s.setPort 1).kSettle

/-- TOKEN_BSCAN (R487): the port opens, and in Doze closes at once (R489). -/
def execTokenBscan (s : State) : Host.Outcome State Fault Refusal := act s (s.tokenActs 2 fun _ s => s.openScan).kSettle

/-- TOKEN_DEBUG (R487): the lifecycle reset follows the response. -/
def execTokenDebug (s : State) : Host.Outcome State Fault Refusal := act s (s.tokenActs 3 fun _ s => s.resetInto 2)

/-- TOKEN_RETURN (R487): the Returned fuse is blown. -/
def execTokenReturn (s : State) : Host.Outcome State Fault Refusal :=
  act s (s.tokenActs 4 fun _ s => { s with fuses := { s.fuses with lc := 3 } }.resetInto 3)

/-- TOKEN_FLOOR (R487): the next floor row. -/
def execTokenFloor (s : State) : Host.Outcome State Fault Refusal :=
  act s (s.tokenActs 5 fun arg s =>
    { s with fuses := { s.fuses with floors := s.fuses.floors ++ [arg] } }.wr Reg.SEC_FLOOR_FLOOR 0 arg.toNat).kSettle

/-! The meanings of the commands of start-up and of I3C writes. -/

/-- I3C_PRIVATE_WRITE (R367, R370). -/
def execI3cPrivateWrite (data : List Byte) (s : State) : Host.Outcome State Fault Refusal :=
  act s (s.addressed fun s => (s.privateWrite data).kSettle)

/-- LIFECYCLE_RESET (R480). -/
def execLifecycleReset (s : State) : Host.Outcome State Fault Refusal := act s s.lifecycleReset

/-- LENDEPHOR_BOOT (R473, R521). -/
def execLendephorBoot (s : State) : Host.Outcome State Fault Refusal := act s s.lendephorBoot

/-- CONFIG_LOAD (R391). -/
def execConfigLoad (s : State) : Host.Outcome State Fault Refusal := act s s.configLoad

/-- BOOT_READY (R521, R526). -/
def execBootReady (degraded : List (Die × Bool × Nat)) (s : State) : Host.Outcome State Fault Refusal :=
  act s (s.bootReady degraded)

/-- MACRO_OP_COMPLETE (R142): the completion that a SLOT_STOP or SLOT_CLOSE waits for ends that command (R387, R388). -/
def execMacroOpComplete (r : RingId) (k : Nat) (s : State) : Host.Outcome State Fault Refusal := act s (s.complete r k).kSettle

end Sys2Proof.Machine
end

