-- ==== Sys2Proof/Machine/Dispatch.lean ====
section
/-!
DEFINITION. The dispatch: one arm for each command of the block, which calls the command's meaning.
-/
namespace Sys2Proof.Machine

/-- The effect of a command on everything but the queue of waiting commands. -/
def exec (i : Instr) (s : State) : Host.Outcome State Fault Refusal :=
  match i with
  | .powerOn addrSel slotIdStrap => Sys2Proof.Machine.execPowerOn addrSel slotIdStrap s
  | .vinFault high => Sys2Proof.Machine.execVinFault high s
  | .pwrEnFall => Sys2Proof.Machine.execPwrEnFall s
  | .vioLoss => Sys2Proof.Machine.execVioLoss s
  | .modResetAssert => Sys2Proof.Machine.execModResetAssert s
  | .modResetRelease => Sys2Proof.Machine.execModResetRelease s
  | .flowOkFilterPass => Sys2Proof.Machine.execFlowOkFilterPass s
  | .quenchEnter => Sys2Proof.Machine.execQuenchEnter s
  | .thermtrip => Sys2Proof.Machine.execThermtrip s
  | .refclkWindow edges => Sys2Proof.Machine.execRefclkWindow edges s
  | .droopFire d => Sys2Proof.Machine.execDroopFire d s
  | .droopRelease d suppressed => Sys2Proof.Machine.execDroopRelease d suppressed s
  | .peakLimit watts => Sys2Proof.Machine.execPeakLimit watts s
  | .capLoopStep m => Sys2Proof.Machine.execCapLoopStep m s
  | .pllLock e => Sys2Proof.Machine.execPllLock e s
  | .pllSwitch a => Sys2Proof.Machine.execPllSwitch a s
  | .pllSwitchDeferExpire a => Sys2Proof.Machine.execPllSwitchDeferExpire a s
  | .pllLockFail a => Sys2Proof.Machine.execPllLockFail a s
  | .guardbandStep anvilRail => Sys2Proof.Machine.execGuardbandStep anvilRail s
  | .laneMarginCheck lane bitErrors => Sys2Proof.Machine.execLaneMarginCheck lane bitErrors s
  | .bridgeRetrain dir group => Sys2Proof.Machine.execBridgeRetrain dir group s
  | .bridgeRetrainDone dir group good => Sys2Proof.Machine.execBridgeRetrainDone dir group good s
  | .linkDown p => Sys2Proof.Machine.execLinkDown p s
  | .linkUp p => Sys2Proof.Machine.execLinkUp p s
  | .preemptVerify p => Sys2Proof.Machine.execPreemptVerify p s
  | .entdaa da => Sys2Proof.Machine.execEntdaa da s
  | .setdasa target da => Sys2Proof.Machine.execSetdasa target da s
  | .rstdaa => Sys2Proof.Machine.execRstdaa s
  | .enec events => Sys2Proof.Machine.execEnec events s
  | .disec events => Sys2Proof.Machine.execDisec events s
  | .getpid => Sys2Proof.Machine.execGetpid s
  | .getbcr => Sys2Proof.Machine.execGetbcr s
  | .getdcr => Sys2Proof.Machine.execGetdcr s
  | .i3cPrivateWrite data => Sys2Proof.Machine.execI3cPrivateWrite data s
  | .tapReset => Sys2Proof.Machine.execTapReset s
  | .idcode => Sys2Proof.Machine.execIdcode s
  | .samplePreload scan => Sys2Proof.Machine.execSamplePreload scan s
  | .extest => Sys2Proof.Machine.execExtest s
  | .clamp => Sys2Proof.Machine.execClamp s
  | .highz => Sys2Proof.Machine.execHighz s
  | .bypass => Sys2Proof.Machine.execBypass s
  | .dbgacc dr => Sys2Proof.Machine.execDbgacc dr s
  | .dbgaccDone => Sys2Proof.Machine.execDbgaccDone s
  | .hello h => Sys2Proof.Machine.execHello h s
  | .readReg h addr count => Sys2Proof.Machine.execReadReg h addr count s
  | .ownerInfo h => Sys2Proof.Machine.execOwnerInfo h s
  | .readEvents h fromDseq max boot => Sys2Proof.Machine.execReadEvents h fromDseq max boot s
  | .slagRead h index count => Sys2Proof.Machine.execSlagRead h index count s
  | .configRead h offset => Sys2Proof.Machine.execConfigRead h offset s
  | .quote h nonce => Sys2Proof.Machine.execQuote h nonce s
  | .claim h priority => Sys2Proof.Machine.execClaim h priority s
  | .claimWindowClose => Sys2Proof.Machine.execClaimWindowClose s
  | .yield h successor reserve => Sys2Proof.Machine.execYield h successor reserve s
  | .keepalive h => Sys2Proof.Machine.execKeepalive h s
  | .forceVacate h hold => Sys2Proof.Machine.execForceVacate h hold s
  | .leaseExpire => Sys2Proof.Machine.execLeaseExpire s
  | .reservationElapse => Sys2Proof.Machine.execReservationElapse s
  | .writeReg h writes => Sys2Proof.Machine.execWriteReg h writes s
  | .configWrite h expectSeq apply entries => Sys2Proof.Machine.execConfigWrite h expectSeq apply entries s
  | .configCopyWritten => Sys2Proof.Machine.execConfigCopyWritten s
  | .slotOpen h slot stateAddr => Sys2Proof.Machine.execSlotOpen h slot stateAddr s
  | .slotStart h slot => Sys2Proof.Machine.execSlotStart h slot s
  | .slotStop h slot => Sys2Proof.Machine.execSlotStop h slot s
  | .slotClose h slot => Sys2Proof.Machine.execSlotClose h slot s
  | .streamResume h ring => Sys2Proof.Machine.execStreamResume h ring s
  | .stepMarkCmd h slot => Sys2Proof.Machine.execStepMarkCmd h slot s
  | .qpBind h a => Sys2Proof.Machine.execQpBind h a s
  | .qpUnbind h qp => Sys2Proof.Machine.execQpUnbind h qp s
  | .pageClear h page => Sys2Proof.Machine.execPageClear h page s
  | .setCap h watts => Sys2Proof.Machine.execSetCap h watts s
  | .setPhaseOp h phase op => Sys2Proof.Machine.execSetPhaseOp h phase op s
  | .setGroupOp h op => Sys2Proof.Machine.execSetGroupOp h op s
  | .resume h => Sys2Proof.Machine.execResume h s
  | .fwStage h fslot offset data => Sys2Proof.Machine.execFwStage h fslot offset data s
  | .fwCommit h fslot length => Sys2Proof.Machine.execFwCommit h fslot length s
  | .fwActivate h fslot => Sys2Proof.Machine.execFwActivate h fslot s
  | .fwHandoff accepted => Sys2Proof.Machine.execFwHandoff accepted s
  | .kalecWatchdogExpire memoryError => Sys2Proof.Machine.execKalecWatchdogExpire memoryError s
  | .kalecRestartDone thirdInWindow => Sys2Proof.Machine.execKalecRestartDone thirdInWindow s
  | .debugToken h offset final data => Sys2Proof.Machine.execDebugToken h offset final data s
  | .tokenObserve => Sys2Proof.Machine.execTokenObserve s
  | .tokenBscan => Sys2Proof.Machine.execTokenBscan s
  | .tokenDebug => Sys2Proof.Machine.execTokenDebug s
  | .tokenReturn => Sys2Proof.Machine.execTokenReturn s
  | .tokenFloor => Sys2Proof.Machine.execTokenFloor s
  | .lifecycleReset => Sys2Proof.Machine.execLifecycleReset s
  | .lendephorBoot => Sys2Proof.Machine.execLendephorBoot s
  | .configLoad => Sys2Proof.Machine.execConfigLoad s
  | .bootReady degraded => Sys2Proof.Machine.execBootReady degraded s
  | .ringConfigWrite w r reg value => Sys2Proof.Machine.execRingConfigWrite w r reg value s
  | .itabLoad w d value => Sys2Proof.Machine.execItabLoad w d value s
  | .itabLoadDone d => Sys2Proof.Machine.execItabLoadDone d s
  | .crucibleEnable w n => Sys2Proof.Machine.execCrucibleEnable w n s
  | .crucibleReady n => Sys2Proof.Machine.execCrucibleReady n s
  | .crucibleDisable w n => Sys2Proof.Machine.execCrucibleDisable w n s
  | .kvPoolEnable w n stallLimit => Sys2Proof.Machine.execKvPoolEnable w n stallLimit s
  | .kvPoolDisable w n stallLimit => Sys2Proof.Machine.execKvPoolDisable w n stallLimit s
  | .tsPartitionWrite w d value => Sys2Proof.Machine.execTsPartitionWrite w d value s
  | .tsPartitionDone d => Sys2Proof.Machine.execTsPartitionDone d s
  | .alloc w flags die => Sys2Proof.Machine.execAlloc w flags die s
  | .free w flags die => Sys2Proof.Machine.execFree w flags die s
  | .setflags w flags die => Sys2Proof.Machine.execSetflags w flags die s
  | .allocDone => Sys2Proof.Machine.execAllocDone s
  | .unprotect w value => Sys2Proof.Machine.execUnprotect w value s
  | .weightRangeEnable w n tiled => Sys2Proof.Machine.execWeightRangeEnable w n tiled s
  | .weightRangeDisable w n tiled => Sys2Proof.Machine.execWeightRangeDisable w n tiled s
  | .disarm w slots => Sys2Proof.Machine.execDisarm w slots s
  | .fiArm w p value => Sys2Proof.Machine.execFiArm w p value s
  | .fiDisarm w p value => Sys2Proof.Machine.execFiDisarm w p value s
  | .netDevIdWrite w value => Sys2Proof.Machine.execNetDevIdWrite w value s
  | .portCfgWrite w p value => Sys2Proof.Machine.execPortCfgWrite w p value s
  | .epochWrite w u value => Sys2Proof.Machine.execEpochWrite w u value s
  | .stateReqRun w => Sys2Proof.Machine.execStateReqRun w s
  | .stateReqDoze w => Sys2Proof.Machine.execStateReqDoze w s
  | .stateReqSlumber w => Sys2Proof.Machine.execStateReqSlumber w s
  | .wake source => Sys2Proof.Machine.execWake source s
  | .padRelease w groups => Sys2Proof.Machine.execPadRelease w groups s
  | .wakeDelayArm w delay => Sys2Proof.Machine.execWakeDelayArm w delay s
  | .wakeDelayExpire => Sys2Proof.Machine.execWakeDelayExpire s
  | .auxFuncWrite w value => Sys2Proof.Machine.execAuxFuncWrite w value s
  | .captureArm w d value => Sys2Proof.Machine.execCaptureArm w d value s
  | .captureDisarm w d value => Sys2Proof.Machine.execCaptureDisarm w d value s
  | .auxCaptureEdge pin => Sys2Proof.Machine.execAuxCaptureEdge pin s
  | .capturePostExpire d => Sys2Proof.Machine.execCapturePostExpire d s
  | .captureDump w d value => Sys2Proof.Machine.execCaptureDump w d value s
  | .captureDumpDone d => Sys2Proof.Machine.execCaptureDumpDone d s
  | .close w => Sys2Proof.Machine.execClose w s
  | .reseal w => Sys2Proof.Machine.execReseal w s
  | .sampleEnable w value => Sys2Proof.Machine.execSampleEnable w value s
  | .telemetrySample => Sys2Proof.Machine.execTelemetrySample s
  | .leadWrite w lead => Sys2Proof.Machine.execLeadWrite w lead s
  | .registerWrite w addr value => Sys2Proof.Machine.execRegisterWrite w addr value s
  | .doorbell line off data => Sys2Proof.Machine.execDoorbell line off data s
  | .descriptorRead r => Sys2Proof.Machine.execDescriptorRead r s
  | .gemm r => Sys2Proof.Machine.execGemm r s
  | .gemmTa r => Sys2Proof.Machine.execGemmTa r s
  | .gemmTb r => Sys2Proof.Machine.execGemmTb r s
  | .gemmAcc r => Sys2Proof.Machine.execGemmAcc r s
  | .attnF r => Sys2Proof.Machine.execAttnF r s
  | .attnB r => Sys2Proof.Machine.execAttnB r s
  | .attnD r => Sys2Proof.Machine.execAttnD r s
  | .dispatch r => Sys2Proof.Machine.execDispatch r s
  | .combine r => Sys2Proof.Machine.execCombine r s
  | .move r => Sys2Proof.Machine.execMove r s
  | .quant r => Sys2Proof.Machine.execQuant r s
  | .send r => Sys2Proof.Machine.execSend r s
  | .recv r => Sys2Proof.Machine.execRecv r s
  | .reduceScatter r => Sys2Proof.Machine.execReduceScatter r s
  | .allReduce r => Sys2Proof.Machine.execAllReduce r s
  | .allGather r => Sys2Proof.Machine.execAllGather r s
  | .update r => Sys2Proof.Machine.execUpdate r s
  | .runSprig r => Sys2Proof.Machine.execRunSprig r s
  | .signal r => Sys2Proof.Machine.execSignal r s
  | .wait r => Sys2Proof.Machine.execWait r s
  | .waitPoll r => Sys2Proof.Machine.execWaitPoll r s
  | .fence r => Sys2Proof.Machine.execFence r s
  | .stepMark r => Sys2Proof.Machine.execStepMark r s
  | .ckptDrain r => Sys2Proof.Machine.execCkptDrain r s
  | .ckptFill r => Sys2Proof.Machine.execCkptFill r s
  | .ckptDigest r => Sys2Proof.Machine.execCkptDigest r s
  | .kvFree r => Sys2Proof.Machine.execKvFree r s
  | .macroOpComplete r k => Sys2Proof.Machine.execMacroOpComplete r k s
  | .tileStart e => Sys2Proof.Machine.execTileStart e s
  | .tileEnd a t => Sys2Proof.Machine.execTileEnd a t s
  | .tileCheckDone a pathUe => Sys2Proof.Machine.execTileCheckDone a pathUe s
  | .fenceRowProgrammed => Sys2Proof.Machine.execFenceRowProgrammed s
  | .itabEntryEnd a gated => Sys2Proof.Machine.execItabEntryEnd a gated s
  | .kvAppend p => Sys2Proof.Machine.execKvAppend p s
  | .kvAppendResume p cycles => Sys2Proof.Machine.execKvAppendResume p cycles s
  | .kvStallExpire p cycles => Sys2Proof.Machine.execKvStallExpire p cycles s
  | .kvFreeReturn p => Sys2Proof.Machine.execKvFreeReturn p s
  | .chunkArrival entry chunk => Sys2Proof.Machine.execChunkArrival entry chunk s
  | .chunkHandler entry run => Sys2Proof.Machine.execChunkHandler entry run s
  | .statsAllreduce entry => Sys2Proof.Machine.execStatsAllreduce entry s
  | .statsAllreduceDone entry => Sys2Proof.Machine.execStatsAllreduceDone entry s
  | .applyHandler entry run holdCycles readerCycles => Sys2Proof.Machine.execApplyHandler entry run holdCycles readerCycles s
  | .layerOutcome entry => Sys2Proof.Machine.execLayerOutcome entry s
  | .ckptHoldRelease r k e => Sys2Proof.Machine.execCkptHoldRelease r k e s
  | .qpError qp => Sys2Proof.Machine.execQpError qp s
  | .fadd sp vd va vb p => Sys2Proof.Machine.execFadd sp vd va vb p s
  | .fsub sp vd va vb p => Sys2Proof.Machine.execFsub sp vd va vb p s
  | .fmul sp vd va vb p => Sys2Proof.Machine.execFmul sp vd va vb p s
  | .fma sp vd va vb vc p => Sys2Proof.Machine.execFma sp vd va vb vc p s
  | .fmin sp vd va vb p => Sys2Proof.Machine.execFmin sp vd va vb p s
  | .fmax sp vd va vb p => Sys2Proof.Machine.execFmax sp vd va vb p s
  | .fabs sp vd va p => Sys2Proof.Machine.execFabs sp vd va p s
  | .fneg sp vd va p => Sys2Proof.Machine.execFneg sp vd va p s
  | .fdiv sp vd va vb p => Sys2Proof.Machine.execFdiv sp vd va vb p s
  | .fsqrt sp vd va p => Sys2Proof.Machine.execFsqrt sp vd va p s
  | .frsq sp vd va p => Sys2Proof.Machine.execFrsq sp vd va p s
  | .fexp sp vd va p => Sys2Proof.Machine.execFexp sp vd va p s
  | .fln sp vd va p => Sys2Proof.Machine.execFln sp vd va p s
  | .fred sp sd va p => Sys2Proof.Machine.execFred sp sd va p s
  | .fcmp sp c pd va vb p => Sys2Proof.Machine.execFcmp sp c pd va vb p s
  | .pand sp pd pa pb => Sys2Proof.Machine.execPand sp pd pa pb s
  | .por sp pd pa pb => Sys2Proof.Machine.execPor sp pd pa pb s
  | .pnot sp pd pa => Sys2Proof.Machine.execPnot sp pd pa s
  | .cvt sp k vd va p => Sys2Proof.Machine.execCvt sp k vd va p s
  | .vld sp f vd sa p => Sys2Proof.Machine.execVld sp f vd sa p s
  | .vst sp f vs sa p => Sys2Proof.Machine.execVst sp f vs sa p s
  | .vlds sp f vd sa st p => Sys2Proof.Machine.execVlds sp f vd sa st p s
  | .vsts sp f vs sa st p => Sys2Proof.Machine.execVsts sp f vs sa st p s
  | .ldacq sp wide scope sd sa => Sys2Proof.Machine.execLdacq sp wide scope sd sa s
  | .strel sp wide scope ss sa => Sys2Proof.Machine.execStrel sp wide scope ss sa s
  | .qblk sp smd sgr sgc vs => Sys2Proof.Machine.execQblk sp smd sgr sgc vs s
  | .pivot sp vd vs st p => Sys2Proof.Machine.execPivot sp vd vs st p s
  | .ret sp => Sys2Proof.Machine.execRet sp s
  | .bellowsSweep d => Sys2Proof.Machine.execBellowsSweep d s
  | .migrationSwing page => Sys2Proof.Machine.execMigrationSwing page s
  | .windowFill d => Sys2Proof.Machine.execWindowFill d s
  | .memoryCe e => Sys2Proof.Machine.execMemoryCe e s
  | .memoryUe e => Sys2Proof.Machine.execMemoryUe e s
  | .scrub e f => Sys2Proof.Machine.execScrub e f s
  | .phyRetrain d deepTier channel res => Sys2Proof.Machine.execPhyRetrain d deepTier channel res s
  | .dataReceive p k => Sys2Proof.Machine.execDataReceive p k s
  | .msgReceive p k => Sys2Proof.Machine.execMsgReceive p k s
  | .reduceReceive p k => Sys2Proof.Machine.execReduceReceive p k s
  | .ackReceive p k => Sys2Proof.Machine.execAckReceive p k s
  | .nakReceive p k => Sys2Proof.Machine.execNakReceive p k s
  | .ackTimer srcDev cls => Sys2Proof.Machine.execAckTimer srcDev cls s
  | .rtoExpire dstDev cls psn => Sys2Proof.Machine.execRtoExpire dstDev cls psn s
  | .rateRaise dstDev => Sys2Proof.Machine.execRateRaise dstDev s
  | .reorderRelease p => Sys2Proof.Machine.execReorderRelease p s
  | .rdmaWriteReceive q => Sys2Proof.Machine.execRdmaWriteReceive q s
  | .rdmaReadReceive q => Sys2Proof.Machine.execRdmaReadReceive q s
  | .roceResponseReceive q => Sys2Proof.Machine.execRoceResponseReceive q s
  | .cnpReceive k => Sys2Proof.Machine.execCnpReceive k s
  | .arpRequest p target vid => Sys2Proof.Machine.execArpRequest p target vid s
  | .neighborSolicitation p target vid => Sys2Proof.Machine.execNeighborSolicitation p target vid s
  | .dozeEntered => Sys2Proof.Machine.execDozeEntered s
  | .slumberEntered => Sys2Proof.Machine.execSlumberEntered s
  | .roceAckTimeout qp => Sys2Proof.Machine.execRoceAckTimeout qp s
  | .quoteSigned => Sys2Proof.Machine.execQuoteSigned s

end Sys2Proof.Machine
end

