-- ==== Sys2Proof/Safety.lean ====
section
/-!
DEFINITION. What counts as a sound state and a safe step: the invariant of the status fields that follow the state,
the canonical form of the sparse stores, and a step that neither faults nor is refused.
-/
namespace Sys2Proof.Safety

open Sys2Proof.Machine

/-- The sparse stores are in their canonical form: memory, the control space, the tier map, the poison markers. -/
def storesWf (s : State) : Bool :=
  Tab.wf noByte s.mem && Tab.wf resetWord s.ctl && Tab.wf noEnt s.ms.tier && Tab.wf noPoison s.ms.poison

/-- A step of s goes on. -/
def goesOn (s : State) : Prop := ∃ t, step s = .next t

/-- The status fields agree with the state they report: range trackers and their peak (R158), arming entries and the held
clip factor (R266), the links that HRT_BOOT shows (R522), and the drains in flight (R443). -/
def Follows (s : State) : Prop :=
  (∀ d : Fin 2, s.rd Reg.STR_TRK_STATUS_IN_USE d = s.trackers d % 2 ^ 7 ∧
    s.rd Reg.STR_TRK_STATUS_IN_USE d ≤ s.rd Reg.STR_TRK_STATUS_PEAK d) ∧
  s.rd Reg.UPD_STATUS_ARMED_W 0 = s.armed 0 % 2 ^ 13 ∧ s.rd Reg.UPD_STATUS_ARMED_E 0 = s.armed 1 % 2 ^ 13 ∧
  s.rdB Reg.UPD_STATUS_CLIP_WAIT 0 = s.clipHeld ∧
  (∀ p : Fin 8, bit (s.rd Reg.HRT_BOOT_LINKS 0) p = s.rdB Reg.NET_PORT_STATUS_LINK p) ∧
  s.rd Reg.UPD_CKPT_STATUS_INFLIGHT 0 = s.drains % 2 ^ 3

/-- The words that an event may change: DSEQ (R510), and those of captures with their countdown (R458, R459). -/
def eventWords : List Nat := [0x03F004, 0x070500, 0x070504, 0x070520, 0x070524, 0x000180]

/-- The words that hold a field of `Follows`: STR_TRK_STATUS of both dies, UPD_STATUS, HRT_BOOT and UPD_CKPT_STATUS. -/
def statusWords : List Nat := [0x020114, 0x020154, 0x090004, 0x000020, 0x090200]

/-- Only registers changed from s to t, and of their words only those listed and those of `Follows`. -/
def RegsOnly (s t : State) (ws : List Nat) : Prop :=
  t = { s with ctl := t.ctl } ∧ ∀ a, a ∉ ws → a ∉ statusWords → t.word a = s.word a

/-- Only registers, the event log, captures, and the journal in flash changed from s to t, and of the registers' words
only those listed, those of events and those of `Follows`. -/
def EventsOnly (s t : State) (ws : List Nat) : Prop :=
  t = { s with ctl := t.ctl, tel := t.tel, flash := t.flash } ∧
  ∀ a, a ∉ ws → a ∉ eventWords → a ∉ statusWords → t.word a = s.word a

/-- Every register reads its Reset value (R18), but for those at the words listed. -/
def AtReset (t : State) (ws : List Nat) : Prop := ∀ a, a ∉ ws → t.word a = resetWord a

/-- The record that an event of s makes is in the event log of t (R393). -/
def Raised (s t : State) (code unit : Nat) (slot : Option (Fin 8)) (arg : Nat) : Prop :=
  s.eventRec code unit slot arg ∈ t.tel.log

/-- A measurement register extended by bytes from s to t, and its count (R472). -/
def Extended (s t : State) (i : Nat) (d : List Byte) : Prop :=
  t.wordsAt (0x040100 + 0x20 * i) 8 = ofBytes (sha256 (toBytes 32 (s.wordsAt (0x040100 + 0x20 * i) 8) ++ d)) ∧
    t.rd Reg.SEC_MEAS_CNT_COUNT i = (s.rd Reg.SEC_MEAS_CNT_COUNT i + 1) % 2 ^ 32

/-- A state with an Anvil at an operating point, its PLL switch done (R403). -/
def atPoint (s : State) (a : Fin 4) (p : Nat) : State :=
  let x := s.anv[a]
  { s with anv := s.anv.set a { x with point := p, pll := { x.pll with target := none, locked := false, defer := false, rail := p } } }

/-- Everything but flash, fuses and what waits is at its reset value in t, with the given power state. -/
def Cleared (s t : State) (p : Power) : Prop :=
  t = { State.offWith s.flash s.fuses with ctl := t.ctl, pending := s.pending, free := s.free, pw := p } ∧
    AtReset t statusWords

/-- Start-up from a stage leads from s to t with the straps ADDR_SEL and SLOT_ID and FLOW_OK as given (R366, R501, R503,
R510, R526). -/
def StartedUp (s t : State) (stage : Nat) (addrSel slotId : BitVec 3) (flow : Bool) : Prop :=
  t = { State.offWith s.flash s.fuses with
    ctl := t.ctl, pending := s.pending, free := s.free,
    pw := { State.powerReset with mode := .on, compute := flow, flowOk := flow, addrSel := addrSel, slotId := slotId },
    flash := { s.flash with boot := s.flash.boot + 1 } } ∧
  t.rd Reg.HRT_BOOT_STAGE 0 = stage ∧ t.rdB Reg.HRT_BOOT_FLOW_WAIT 0 = !flow ∧
  t.rd Reg.HRT_I3C_SA 0 = 0x38 + addrSel.toNat ∧ t.rdB Reg.HRT_I3C_SA_VALID 0 = (addrSel != 6) ∧
  t.rd Reg.TEL_BOOT_BOOT 0 = (s.flash.boot + 1).toNat ∧
  AtReset t (0x000020 :: 0x000080 :: 0x03F00C :: statusWords)

/-- In neither Doze nor Slumber, from which a transfer over I3C or a frame would wake the module (R417). -/
def awake (s : State) : Prop := s.rd Reg.PWR_STATUS_STATE 0 ∉ [2, 3]

/-! Requests to Kalec. -/

/-- The request that a command of Kalec makes at a mailbox: of its CMD, or of a reserved one in its place (R373); one of
version 2 carries no identity (R372). -/
def ask (h : KHdr) (c : KCmd) : Req := State.kPlain (State.kReq h c)

/-- A request reaches Kalec, which serves with nothing waiting or executing: the frame passes the checks of R373 before
the owner's, its mailbox is idle and keeps no response to it, and a datagram arrives on network B over a link that is
up. -/
def Reaches (s : State) (h : KHdr) (c : KCmd) : Prop :=
  let q := ask h c
  h.sound = true ∧ s.kalecServes = true ∧ s.stage = 4 ∧ s.kal.waiting = [] ∧ s.kal.running = none ∧ State.kCheck q = none ∧
    s.kal.boxes[h.mbox].cur = none ∧ s.kal.boxes[h.mbox].cut = none ∧ s.kKept q = none ∧
    (2 ≤ h.mbox.val → s.rdB Reg.NET_PORT_STATUS_LINK h.port = true ∧ 4 ≤ h.port.val)

/-- A request is taken and runs at once: it reaches Kalec, and an owner command comes from the owner. -/
def Takes (s : State) (h : KHdr) (c : KCmd) : Prop :=
  Reaches s h c ∧ (kCode c ∈ ownerCodes → s.isOwner (ask h c).hdr.agent (ask h c).hdr.otok = true)

/-- A state with a request in progress: a datagram counts as a frame received, the mailbox shows the sender and that it
executes (R369, R370). -/
def arrived (s : State) (h : KHdr) (c : KCmd) : State :=
  let q := ask h c
  let s := if 2 ≤ h.mbox.val then s.inc Reg.NET_RX_FRAMES_COUNT h.port 1 else s
  let s := s.wr Reg.KAL_MB_AGENT_AGENT_ID h.mbox q.hdr.agent.toNat
  (s.modBox h.mbox fun b => { b with cur := some q, cut := none }).wr Reg.KAL_MB_STATUS_STATE h.mbox 1

/-- The state after a request whose command leads from its arrival to u and is answered with a status and a payload. -/
def replied (s u : State) (h : KHdr) (c : KCmd) (st : KStat) (pl : List Byte) : State :=
  (u.answer (ask h c) st pl).done s.pending

/-- The state after an accepted register write whose effect leads from s to u. -/
def wrote (s u : State) : State := (u.writeStatus .ok).done s.pending

/-! Macro-ops at issue. -/

/-- How a command issues a macro-op: the opcode, its words among those of one opcode, what makes it wait before its steps,
and the plan of its engine. -/
structure Issuing where
  ring : RingId
  code : Nat
  sub  : Nat → Bool := fun _ => true
  hold : State → RingId → Nat → Bool := fun _ _ _ => false
  plan : State → RingId → Nat → Plan

/-- The commands that issue the macro-op a ring holds (R131, R138). -/
def issuing : Instr → Option Issuing
  | .gemm r => some { ring := r, code := 0x01, plan := State.gemmPlan }
  | .gemmTa r => some { ring := r, code := 0x02, plan := State.gemmPlan }
  | .gemmTb r => some { ring := r, code := 0x03, plan := State.gemmPlan }
  | .gemmAcc r => some { ring := r, code := 0x04, plan := State.gemmPlan }
  | .attnF r => some { ring := r, code := 0x10, plan := State.attnPlan State.attnStart }
  | .attnB r => some { ring := r, code := 0x11, plan := State.attnPlan State.attnStart }
  | .attnD r => some { ring := r, code := 0x12, plan := State.attnPlan State.attnStart }
  | .dispatch r => some { ring := r, code := 0x18, plan := State.dispatchPlan }
  | .combine r => some { ring := r, code := 0x19, plan := State.combinePlan }
  | .move r => some { ring := r, code := 0x20, plan := State.movePlan }
  | .quant r => some { ring := r, code := 0x21, plan := State.movePlan }
  | .send r => some { ring := r, code := 0x28, hold := State.sendWaits, plan := State.sendPlan }
  | .recv r => some { ring := r, code := 0x29, plan := State.recvPlan }
  | .reduceScatter r => some { ring := r, code := 0x2A, sub := fun d => bits (dP d 3) 17 16 == 0 || bits (dP d 3) 17 16 == 3, plan := State.reducePlan }
  | .allReduce r => some { ring := r, code := 0x2A, sub := fun d => bits (dP d 3) 17 16 == 1, plan := State.reducePlan }
  | .allGather r => some { ring := r, code := 0x2A, sub := fun d => bits (dP d 3) 17 16 == 2, plan := State.reducePlan }
  | .update r => some { ring := r, code := 0x30, plan := State.updatePlan }
  | .runSprig r => some { ring := r, code := 0x31, plan := State.runSprigPlan }
  | .signal r => some { ring := r, code := 0x38, plan := State.signalPlan }
  | .wait r => some { ring := r, code := 0x39, plan := State.waitPlan }
  | .fence r => some { ring := r, code := 0x3A, plan := State.fencePlan }
  | .stepMark r => some { ring := r, code := 0x40, plan := State.stepMarkPlan }
  | .ckptDrain r => some { ring := r, code := 0x41, sub := fun d => kMode d == 0 || kMode d == 3, plan := State.ckptPlan }
  | .ckptFill r => some { ring := r, code := 0x41, sub := fun d => kMode d == 1, plan := State.ckptPlan }
  | .ckptDigest r => some { ring := r, code := 0x41, sub := fun d => kMode d == 2, plan := State.ckptPlan }
  | .kvFree r => some { ring := r, code := 0x48, plan := State.kvFreePlan }
  | _ => none

/-- The shape words that a macro-op reads at step 3, as line ranges. -/
def shapeWords (p : Plan) (o : Op) : List (Nat × Nat) := (State.wordRanges p o).map fun x => lineRange x.1 x.2

/-- What steps 1 and 2 find of a held descriptor and of the matrices' descriptors that its good pointers name (R138); the
fields of what carries the marker are not known. -/
def headFindings (s : State) (r : RingId) (d : Nat) (p : Plan) : List (Bool × Nat) :=
  headChecks r d ++ State.ptrChecks d p.roles ++ p.checks1 ++ (if s.lookPoison d p then [] else p.checksR) ++
    s.usedChecks d p.roles

/-- A ring's held descriptor has its turn: the ring reads and issues, nothing holds it, and fewer than 64 are in flight.
-/
def HasTurn (s : State) (k : Issuing) (h : Held) : Prop :=
  s.rings[k.ring].held = some h ∧ dOpcode h.desc = k.code ∧ k.sub h.desc = true ∧ s.ringLive k.ring = true ∧
    s.heldBackBy k.ring = false ∧ (s.ringOps k.ring).length < 64

/-- A held descriptor passes steps 1 to 4 now as macro-op o, reading its descriptors, which leads from s to u; or it has
passed them (R138). -/
def Passes (s u : State) (k : Issuing) (h : Held) (o : Op) : Prop :=
  let p := k.plan s k.ring h.desc
  let v := (s.lookReads k.ring h.desc p).shapeReads k.ring p o
  (h.plan = some o ∧ u = s) ∨
  (h.plan = none ∧ k.hold s k.ring h.desc = false ∧ s.lookPoison h.desc p = false ∧
    firstDetail (headFindings s k.ring h.desc p) = none ∧ o = s.planOp k.ring h p ∧
    (∀ e ∈ s.ringOps k.ring, rangesMeet e.writes (shapeWords p o) = false) ∧
    firstDetail (v.step4Checks p o ++ p.checks4 o) = none ∧ s.shapePoison p o = false ∧
    u = v.modRing k.ring fun x => { x with held := some { h with plan := some o } })

/-- Step 5 holds nothing: the macro-op's own conditions hold, a fence finds its earlier macro-ops complete with no
poison, a drain is not the fifth, a macro-op with ranges has or takes a tracker, which leads from u to v, and conflicts
with no earlier one, and its scale records are still sound (R100, R138, R140, R141, R144). -/
def Proceeds (u v : State) (r : RingId) (h : Held) (p : Plan) (o : Op) : Prop :=
  p.waits = false ∧ ((dFencePre h.desc = true ∨ dOpcode h.desc = 0x3A) → h.passed = false → u.ringOps r = [] ∧ u.rings[r].poison = false) ∧
  (∀ x ∈ State.recRanges p o, u.poisoned x.1 x.2 = false ∧ recValid (u.peek x.1 64) = true) ∧
  (dOpcode h.desc = 0x41 → (u.ops.filter fun x => dOpcode x.desc == 0x41).length < 4) ∧
  (o.reads = [] ∧ o.writes = [] ∧ v = u ∨ ¬(o.reads = [] ∧ o.writes = []) ∧ firstDetail p.late = none ∧ u.takeTracker r h = (v, true) ∧
    ∀ e ∈ u.ringOps r, conflicts o e = false)

/-- Step 6 leads to t: the macro-op, with its scales and counters, joins those in flight, its ring holds none, its engine
starts, and INFLIGHT shows it. -/
def Issued (s t : State) (k : Issuing) (h : Held) (o : Op) : Prop :=
  ∃ (x : State) (o' : Op), t = (((k.plan s k.ring h.desc).start x o').countInflight k.ring).done s.pending ∧
    o'.id = s.opNext ∧ o'.ring = o.ring ∧ o'.desc = o.desc ∧ o'.addr = o.addr ∧ o'.mds = o.mds ∧ o'.shapes = o.shapes ∧
    o'.reads = o.reads ∧ o'.writes = o.writes ∧ x.ops = s.ops ++ [o'] ∧ x.opNext = s.opNext + 1 ∧
    x.rings[k.ring].held = none ∧ ∀ q, q ≠ k.ring → x.rings[q] = s.rings[q]

/-! The Sprigs. -/

/-- The registers of a Sprig as an instruction finds them, after the scalar instructions before it (R246). -/
def sprigNow (s : State) (sp : SprigAt) : Sprig := sp.before.foldl Sprig.scalar s.sprigs[sp.n]

/-- A Sprig instruction leads to t: its Sprig's registers become y's, and nothing else of any Sprig or of the block. -/
def SprigOnly (s t : State) (n : SprigId) (y : Sprig) : Prop :=
  RegsOnly { s with sprigs := s.sprigs.set n y } t []

/-- A vector result of a Sprig (R246): the active lanes take f's values, the others and every other register stay, and the
register derives from poison where a source of its lanes does (R302). -/
def LanesWritten (s t : State) (sp : SprigAt) (vd : Fin 32) (p : Pred) (srcs : List (Fin 32)) (f : Fin 64 → Nat) : Prop :=
  let x := sprigNow s sp
  ∃ y : Sprig, SprigOnly s t sp.n { x with v := y.v, tv := y.tv } ∧
    (∀ l : Fin 64, y.v[vd][l] = if x.active p l then BitVec.ofNat 32 (f l) else x.v[vd][l]) ∧
    (∀ r, r ≠ vd → y.v[r] = x.v[r] ∧ y.tv.toNat.testBit r.val = x.tv.toNat.testBit r.val) ∧
    y.tv.toNat.testBit vd.val = (x.vecTaint srcs || (p.isSome && x.vecTaint [vd]) || x.predTaint p)

/-- Bytes of a range all lie in mapped pages outside every enabled Crucible window, and before the reserved region. -/
def plainRange (s : State) (a n : Nat) : Prop :=
  a + n ≤ resPage * 2 ^ 18 ∧ ∀ b, a ≤ b → b < a + n → s.isMapped (b / 2 ^ 18) = true ∧ s.windowOf (b / 2 ^ 18) = none

/-! Received packets. -/

/-- A packet passes the checks of R335 before the duplicate PSN at a port. -/
def Accepted (s : State) (p : Fin 8) (k : Packet) : Prop :=
  s.rdB Reg.NET_PORT_STATUS_LINK p = true ∧ k.fcsOk = true ∧ k.bytes ≤ 9216 ∧
    k.vid.toNat = s.rd Reg.NET_PORT_CFG_VID p ∧ (s.rdB Reg.NET_PORT_CFG_FAMILY p = true → k.udpOk = true) ∧ k.ver = 1 ∧
    k.badType = false ∧ k.dstDev.toNat = s.rd Reg.NET_DEV_ID_DEV_ID 0 ∧ k.dstDev ≠ 0 ∧
    k.crcOk = true

/-- An accepted packet is new, names a unit at its epoch, and memory is up outside Quench. -/
def Fresh (s : State) (k : Packet) : Prop :=
  State.performed (s.rxOf k.srcDev k.cls) k.psn.toNat = false ∧ k.unit.toNat < 88 ∧
    k.epoch.toNat = s.rd Reg.NET_EPOCH_EPOCH k.unit.toNat ∧ s.memUp = true ∧ s.quench = false

/-- The writer and the address of a command that writes a register. -/
def writes : Instr → Option (Writer × Nat)
  | .ringConfigWrite w r reg _ => some (w, 0x021000 + 0x40 * r.val + 4 * reg.val)
  | .itabLoad w d _ => some (w, 0x020108 + 0x40 * d.val)
  | .crucibleEnable w n => some (w, 0x07800C + 32 * n.val)
  | .crucibleDisable w n => some (w, 0x07800C + 32 * n.val)
  | .kvPoolEnable w n _ => some (w, 0x07900C + 64 * n.val)
  | .kvPoolDisable w n _ => some (w, 0x07900C + 64 * n.val)
  | .tsPartitionWrite w d _ => some (w, 0x070000 + 4 * d.val)
  | .alloc w _ _ => some (w, 0x07010C)
  | .free w _ _ => some (w, 0x07010C)
  | .setflags w _ _ => some (w, 0x07010C)
  | .unprotect w _ => some (w, 0x070300)
  | .weightRangeEnable w n _ => some (w, 0x07100C + 16 * n.val)
  | .weightRangeDisable w n _ => some (w, 0x07100C + 16 * n.val)
  | .disarm w _ => some (w, 0x090000)
  | .fiArm w p _ => some (w, 0x060040 + 0x400 * p.val)
  | .fiDisarm w p _ => some (w, 0x060040 + 0x400 * p.val)
  | .netDevIdWrite w _ => some (w, 0x062000)
  | .portCfgWrite w p _ => some (w, 0x060000 + 0x400 * p.val)
  | .epochWrite w u _ => some (w, 0x064000 + 4 * u.val)
  | .stateReqRun w => some (w, 0x08001C)
  | .stateReqDoze w => some (w, 0x08001C)
  | .stateReqSlumber w => some (w, 0x08001C)
  | .padRelease w _ => some (w, 0x000144)
  | .wakeDelayArm w _ => some (w, 0x000150)
  | .auxFuncWrite w _ => some (w, 0x000184)
  | .captureArm w d _ => some (w, 0x070500 + 0x20 * d.val)
  | .captureDisarm w d _ => some (w, 0x070500 + 0x20 * d.val)
  | .captureDump w d _ => some (w, 0x070500 + 0x20 * d.val)
  | .close w => some (w, 0x040004)
  | .reseal w => some (w, 0x040004)
  | .sampleEnable w _ => some (w, 0x03F008)
  | .leadWrite w _ => some (w, 0x03F000)
  | .registerWrite w addr _ => some (w, addr.toNat)
  | _ => none

/-- A register write reaches its register: its path works, its writer has authority, and it is not held back (R15,
R524). -/
def writable (s : State) (w : Writer) (addr : Nat) : Bool := s.pathUp w && s.mayWrite w && !s.heldBack w addr

end Sys2Proof.Safety
end

