-- ==== Sys2Proof/Certificates/Slice0/Obligations.lean ====
section
/-!
DEFINITION. The statements of the model for the provers. The ranges of words named in a statement are those of
spec/'s register tables; a frame is stated by the record equation and the words it lists (Safety.lean).
-/

open Sys2Proof Sys2Proof.Machine Sys2Proof.Safety

/-! The step, the queue, and what every command does. -/

/-- A step runs the command at the front of the queue on the rest of the state; on an empty queue the block idles, which
is the model's choice (log entry 5). -/
def Obligations.StepRunsTheFrontCommand : Prop :=
  (∀ (s : State) (c : Instr) (q : List Instr), step { s with pending := c :: q } = exec c { s with pending := q }) ∧
  ∀ s : State, s.pending = [] → step s = .next s

/-- No command changes the queue of waiting commands. -/
def Obligations.CommandsLeaveTheQueue : Prop :=
  ∀ (c : Instr) (s t : State), exec c s = .next t → t.pending = s.pending

/-- Every command answers a next state in every state: none faults and none is refused. -/
def Obligations.CommandsGoOn : Prop := ∀ (c : Instr) (s : State), ∃ t, exec c s = .next t

/-- After every step the status fields agree with what they report: the range trackers in use with their peak, the arming
entries and the held clip factor, the links that HRT_BOOT shows, and the checkpoint drains in flight. -/
def Obligations.StatusFieldsFollow : Prop := ∀ s t : State, Follows s → step s = .next t → Follows t

/-- At reset the status fields agree with what they report. -/
def Obligations.StatusFieldsFollowAtReset : Prop := Follows State.reset

/-- At reset every field of every register reads its Reset value, and a field of a bank does at each index (R18); a
field for which the spec gives none reads 0, which for an owner's field is the model's choice (log entry 1). -/
def Obligations.RegistersAtReset : Prop :=
  ∀ f ∈ Reg.all, ∀ i, i < f.count → State.reset.rd f i = f.reset % 2 ^ f.len

/-- A field reads as what was last written to it, cut to its width; no other word, and no other bit of its words, changes,
and nothing but registers does. -/
def Obligations.FieldsReadBack : Prop :=
  ∀ (s : State) (f : Field) (i v : Nat), 0 < f.len →
    (s.wr f i v).rd f i = v % 2 ^ f.len ∧ s.wr f i v = { s with ctl := (s.wr f i v).ctl } ∧
    (∀ a, (∀ k, k < State.fieldWords f → a ≠ State.fieldAddr f i + 4 * k) → (s.wr f i v).word a = s.word a) ∧
    ∀ b, b < f.lo % 32 ∨ f.lo % 32 + f.len ≤ b →
      ((s.wr f i v).wordsAt (State.fieldAddr f i) (State.fieldWords f)).testBit b =
        (s.wordsAt (State.fieldAddr f i) (State.fieldWords f)).testBit b

/-! Register writes. -/

/-- A write by another than the owner has no effect and is denied (R16): nothing changes but the status that its path
carries, and a direct I3C write may count in BADFRAME of mailbox 0 (R367). A WRITE_REG that carries one is answered
KS_DENIED. -/
def Obligations.OtherAgentsWriteNothing : Prop :=
  (∀ (c : Instr) (w : Writer) (a : Nat) (s : State), writes c = some (w, a) → s.pathUp w = true → s.mayWrite w = false →
    ∃ t, exec c s = .next t ∧ t = { s with ctl := t.ctl, wres := .denied } ∧
      (∀ b, b ∉ statusWords → (w = .i3c → b ≠ 0x010000) → t.word b = s.word b) ∧
      (Follows s → (∀ d : Fin 2, s.trackers d < 2 ^ 7) → w ≠ .i3c → ∀ b, t.word b = s.word b)) ∧
  ∀ (s : State) (h : KHdr) (ws : List (Word × Word)), Reaches s h (.writeReg ws) →
    s.isOwner (ask h (.writeReg ws)).hdr.agent (ask h (.writeReg ws)).hdr.otok = false →
    exec (.writeReg h ws) s = .next (replied s (arrived s h (.writeReg ws)) h (.writeReg ws) .denied [])

/-! Power, reset, clocks and links. -/

/-- POWER_ON from Off, unless input protection latched, starts the module up in stage RAILS, and MOD_RESET_RELEASE from
reset in stage ROOT: the static address 0x38 + ADDR_SEL valid unless ADDR_SEL is 6, the boot number one higher, the Sprig
and Anvil rails up only with FLOW_OK, and everything else but flash and fuses at its reset value. -/
def Obligations.StartUp : Prop :=
  ∀ (s : State) (a b : BitVec 3),
    (s.pw.mode = .off → s.pw.latched = false → ∃ t, exec (.powerOn a b) s = .next t ∧ StartedUp s t 0 a b false) ∧
    (s.pw.mode = .held →
      ∃ t, exec .modResetRelease s = .next t ∧ StartedUp s t 1 s.pw.addrSel s.pw.slotId s.pw.flowOk)

/-- VIN_FAULT, PWR_EN_FALL and VIO_LOSS turn the module off, with every register at its Reset value; a fault of the input
is latched. MOD_RESET_ASSERT holds it in reset with its straps and FLOW_OK as they were. THERMTRIP resets every register
outside Hearth, and of what Hearth keeps powered (`hearthWord`) changes only HRT_AUX, both of whose functions are lost while
TRIPPED is set, and in OBSERVE and BSCAN the port, which closes and extends M3 (that SEC_LC and the Debug state then stand is
the model's choice, log entry 197); only PWR_EN ends a latched trip. -/
def Obligations.PowerOffResetAndTrip : Prop :=
  ∀ s : State,
    (∀ high, s.pw.mode ≠ .off → ∃ t, exec (.vinFault high) s = .next t ∧ Cleared s t { State.powerReset with latched := true }) ∧
    (∃ t, exec .pwrEnFall s = .next t ∧ Cleared s t State.powerReset) ∧
    (s.pw.mode ≠ .off → s.pw.mode ≠ .tripped → ∃ t, exec .vioLoss s = .next t ∧ Cleared s t State.powerReset) ∧
    (s.pw.mode = .on → ∃ t, exec .modResetAssert s = .next t ∧
      Cleared s t { State.powerReset with
        mode := .held, addrSel := s.pw.addrSel, slotId := s.pw.slotId, flowOk := s.pw.flowOk }) ∧
    (s.pw.mode = .tripped → (∃ t, exec .modResetAssert s = .next t ∧ t.pw.mode = .tripped ∧
      t.rdB Reg.HRT_AUX_TRIPPED 0 = true ∧ t.rd Reg.HRT_WAKE_CNT_COUNT 0 = 0 ∧ t.rdB Reg.HRT_I3C_DA_VALID 0 = false) ∧
      ∃ t, exec .vioLoss s = .next t ∧ RegsOnly s t []) ∧
    (s.pw.mode = .on → ∃ t, exec .thermtrip s = .next t ∧
      t = { State.offWith s.flash s.fuses with
        ctl := t.ctl, pending := s.pending, free := s.free, sec := { State.secReset with debug := s.sec.debug },
        pw := { State.powerReset with
          mode := .tripped, addrSel := s.pw.addrSel, slotId := s.pw.slotId, flowOk := s.pw.flowOk } } ∧
      t.rdB Reg.HRT_AUX_TRIPPED 0 = true ∧ t.rd Reg.HRT_AUX_FUNC0 0 = 0 ∧ t.rd Reg.HRT_AUX_FUNC1 0 = 0 ∧
      t.rd Reg.SEC_LC_PORT 0 = (if s.rd Reg.SEC_LC_PORT 0 = 3 then 3 else 0) ∧
      (∀ a, State.hearthWord a = true → a ∉ 0x000184 :: statusWords →
        s.rd Reg.SEC_LC_PORT 0 ∈ [0, 3] ∨ a ∉ [0x040000, 0x04020C] ∧ within 0x040160 32 a = false → t.word a = s.word a) ∧
      ∀ a, State.hearthWord a = false → a ∉ statusWords → t.word a = resetWord a)

/-- FLOW_OK past its filter raises the Sprig and Anvil rails outside Doze and Slumber and ends FLOW_WAIT; FLOW_OK low
for 4,000 cycles enters Quench with cause 1 in Run, Idle or Doze, where memory enters self-refresh with its pads held,
countdown 2 is taken and EV_QUENCH raised. A power state entry or wake delay that Quench cancels is no part of this
statement. -/
def Obligations.FlowAndQuench : Prop :=
  ∀ s : State, s.powered = true →
    (s.rd Reg.PWR_STATUS_STATE 0 ∉ [2, 3] → ∃ t, exec .flowOkFilterPass s = .next t ∧
      t.rdB Reg.HRT_BOOT_FLOW_WAIT 0 = false ∧
      RegsOnly { s with pw := { s.pw with flowOk := true, compute := true } } t [0x000020]) ∧
    (s.stage = 4 → s.rd Reg.PWR_STATUS_STATE 0 ≠ 3 → s.quench = false → s.pw.entering = none →
      s.rd Reg.HRT_CD_HOLD_CD2 0 ≠ 1 → ∃ t, exec .quenchEnter s = .next t ∧ t.quench = true ∧
        t.rd Reg.PWR_STATUS_QCAUSE 0 = 1 ∧ t.rd Reg.HRT_CD_HOLD_CD2 0 = 2 ∧
        t.rd Reg.HRT_PAD_HOLD_GROUPS 0 = s.rd Reg.HRT_PAD_HOLD_GROUPS 0 ||| 0x1E ∧ Raised s t 0x0705 0 none 1 ∧
        EventsOnly { s with pw := { s.pw with
          flowOk := false, memAsleep := true,
          dozeHeld := s.pw.dozeHeld || decide (s.rd Reg.PWR_STATUS_STATE 0 = 2) } } t [0x08000C, 0x000180, 0x000140])

/-- The droop detectors and PLL switches: each firing and suppressed edge counts; a switch takes its point where lock is
in and no droop of its Anvil is asserted, is deferred once and counted while one is, and goes ahead when the droop
releases or after 256 cycles; three failures to lock mark the PLL, whose Anvil then takes its point as the remaining PLL
locks, with the cycles it was gated charged. The return to REFCLK at such a switch (R31) is no part of it. -/
def Obligations.DroopsAndSwitches : Prop :=
  ∀ (s : State) (a : Fin 4) (p : Nat), s.rdB Reg.HRT_CLK_STATUS_REF_FALLBACK 0 = false →
    (∀ d, s.droopClocked d = true → d ∉ s.pw.droops → ∃ t, exec (.droopFire d) s = .next t ∧
      t.rd Reg.PWR_DROOP_EVENTS_COUNT 0 = (s.rd Reg.PWR_DROOP_EVENTS_COUNT 0 + 1) % 2 ^ 64 ∧
      RegsOnly { s with pw := { s.pw with droops := s.pw.droops ++ [d] } } t [0x080108, 0x08010C]) ∧
    (∀ d n, d ∈ s.pw.droops → (∀ b, d = .anv b → s.anv[b].pll.defer = false) →
      ∃ t, exec (.droopRelease d n) s = .next t ∧
        t.rd Reg.PWR_DROOP_CYC_COUNT 0 = (s.rd Reg.PWR_DROOP_CYC_COUNT 0 + n) % 2 ^ 64 ∧
        RegsOnly { s with pw := { s.pw with droops := s.pw.droops.filter (· != d) } } t [0x080110, 0x080114]) ∧
    (s.anv[a].pll.target = some p →
      (∀ gated, s.anv[a].pll.failed = false → ∃ t, exec (.pllLock ⟨a, gated⟩) s = .next t ∧
        RegsOnly { s with anv := s.anv.set a { s.anv[a] with pll := { s.anv[a].pll with locked := true, fails := 0 } } } t []) ∧
      (∀ gated, s.anv[a].pll.failed = true → ∃ t, exec (.pllLock ⟨a, gated⟩) s = .next t ∧
        t.rd Reg.PWR_ANV_OP_OP 0 = putBits (s.rd Reg.PWR_ANV_OP_OP 0) (4 * a.val + 3) (4 * a.val) p ∧
        t.anv[a].point = p ∧ t.anv[a].pll.target = none ∧ t.anv[a].charge = s.anv[a].charge + gated ∧
        (∀ b, b ≠ a → t.anv[b] = s.anv[b]) ∧ t.mem = s.mem ∧ t.ops = s.ops ∧ t.rings = s.rings) ∧
      (s.anv[a].pll.locked = true → .anv a ∉ s.pw.droops → ∃ t, exec (.pllSwitch a) s = .next t ∧
        t.rd Reg.PWR_ANV_OP_OP 0 = putBits (s.rd Reg.PWR_ANV_OP_OP 0) (4 * a.val + 3) (4 * a.val) p ∧
        RegsOnly (atPoint s a p) t [0x080010]) ∧
      (s.anv[a].pll.locked = true → .anv a ∈ s.pw.droops → s.anv[a].pll.defer = false →
        ∃ t, exec (.pllSwitch a) s = .next t ∧
          t.rd Reg.PWR_PLL_DEFER_COUNT 0 = (s.rd Reg.PWR_PLL_DEFER_COUNT 0 + 1) % 2 ^ 64 ∧
          RegsOnly { s with anv := s.anv.set a { s.anv[a] with pll := { s.anv[a].pll with defer := true } } } t
            [0x080118, 0x08011C]) ∧
      (s.anv[a].pll.defer = true →
        (∃ t, exec (.pllSwitchDeferExpire a) s = .next t ∧
          t.rd Reg.PWR_ANV_OP_OP 0 = putBits (s.rd Reg.PWR_ANV_OP_OP 0) (4 * a.val + 3) (4 * a.val) p ∧
          RegsOnly (atPoint s a p) t [0x080010]) ∧
        (.anv a ∈ s.pw.droops → ∀ n, ∃ t, exec (.droopRelease (.anv a) n) s = .next t ∧ t.anv = (atPoint s a p).anv)) ∧
      (s.anv[a].pll.failed = false → ∃ t, exec (.pllLockFail a) s = .next t ∧
        (3 ≤ s.anv[a].pll.fails + 1 → Raised s t 0x0105 a none (s.anv[a].pll.fails + 1)) ∧
        EventsOnly { s with anv := s.anv.set a { s.anv[a] with pll := { s.anv[a].pll with
          fails := s.anv[a].pll.fails + 1, locked := false, failed := decide (3 ≤ s.anv[a].pll.fails + 1) } } } t []))

/-- SET_CAP takes 450 to 1,500 W and answers any other value KS_RANGE with the cap unchanged (R409). The peak limiter
sets duty 4 and PEAK above 1,900 W. A step of the cap loop takes the cap in force, shows what was measured, takes the
loop's own step on LIM_CAP, duty and memory admission, counts the energy of the period, and clears what the period
charged; in Slumber it measures the inlet and gives the period's energy to the idle account. -/
def Obligations.CapLoop : Prop :=
  (∀ (s : State) (h : KHdr) (watts : BitVec 16), Takes s h (.setCap watts) →
    let u := arrived s h (.setCap watts)
    exec (.setCap h watts) s = .next (if 450 ≤ watts.toNat ∧ watts.toNat ≤ 1500 then
      replied s (u.wr Reg.PWR_CAP_WATTS 0 watts.toNat) h (.setCap watts) .ok []
      else replied s u h (.setCap watts) .range [])) ∧
  ∀ s : State, s.powered = true →
    (∀ watts, 1900 < watts → ∃ t, exec (.peakLimit watts) s = .next t ∧ t.rd Reg.PWR_STATUS_DUTY 0 = 4 ∧
      t.rdB Reg.PWR_STATUS_PEAK 0 = true ∧ RegsOnly s t [0x08000C]) ∧
    (∀ m : CapSample, 1 ≤ s.stage → s.rd Reg.PWR_STATUS_STATE 0 = 3 → ∃ t, exec (.capLoopStep m) s = .next t ∧
      t.rd Reg.PWR_ENERGY_IDLE_COUNT 0 = (s.rd Reg.PWR_ENERGY_IDLE_COUNT 0 + m.energy) % 2 ^ 64 ∧
      t.rd Reg.PWR_ENERGY_TOTAL_COUNT 0 = (s.rd Reg.PWR_ENERGY_TOTAL_COUNT 0 + m.energy) % 2 ^ 64 ∧
      RegsOnly { s with pw := { s.pw with hot := decide (180 < m.inlet), charged := [], gated := [], moved := [] } } t
        ((List.range 4).map (0x081040 + 4 * ·))) ∧
    ∀ m, 1 ≤ s.stage → s.rd Reg.PWR_STATUS_STATE 0 ≠ 3 → (∀ e ∈ s.pw.moved ++ s.pw.gated, e.1 < 64) →
      let r := State.loopStep m.watts (min (2 * s.rd Reg.PWR_CAP_WATTS 0) (State.ceilingHalf m.inlet)) s.topPoint
        (s.rdB Reg.PWR_STATUS_PEAK 0 && !m.peakClear)
        (s.rd Reg.PWR_STATUS_LIM_CAP 0, s.rd Reg.PWR_STATUS_DUTY 0, s.rd Reg.PWR_STATUS_MEM 0, s.pw.below, s.pw.overs)
      ∃ t, exec (.capLoopStep m) s = .next t ∧
        t.rd Reg.PWR_STATUS_LIM_CAP 0 = r.1 % 16 ∧ t.rd Reg.PWR_STATUS_DUTY 0 = r.2.1 % 32 ∧
        t.rd Reg.PWR_STATUS_MEM 0 = r.2.2.1 % 32 ∧ t.pw.below = r.2.2.2.1 ∧ t.pw.overs = r.2.2.2.2 ∧
        t.rdB Reg.PWR_STATUS_PEAK 0 = (s.rdB Reg.PWR_STATUS_PEAK 0 && !m.peakClear) ∧
        t.rd Reg.PWR_INPUT_WATTS 0 = m.watts % 2 ^ 16 ∧ t.rd Reg.PWR_TEMP_INLET 0 = m.inlet % 256 ∧
        t.rdB Reg.PWR_STATUS_CAP_COOLANT 0 = decide (State.ceilingHalf m.inlet < 2 * s.rd Reg.PWR_CAP_WATTS 0) ∧
        t.rd Reg.PWR_ENERGY_TOTAL_COUNT 0 = (s.rd Reg.PWR_ENERGY_TOTAL_COUNT 0 + m.energy) % 2 ^ 64 ∧
        t.pw.charged = [] ∧ t.pw.gated = [] ∧ t.pw.moved = [] ∧ t.mem = s.mem ∧ t.rings = s.rings ∧ t.ops = s.ops ∧ t.slots = s.slots

/-- REFCLK is judged in windows: a good one counts, and the second bad one in succession declares REFCLK lost, sets
REF_FALLBACK and takes every link down. A guard-band rises by 5 mV up to 30 mV with EV_GUARDBAND; a lane beyond a bit
error ratio of 10^-5 raises EV_LANE_MARGIN; a bridge lane group retrains with EV_BRIDGE_RETRAIN and stays out where that
fails. -/
def Obligations.BackgroundChecks : Prop :=
  ∀ s : State,
    (∀ edges, s.powered = true → s.stage ≠ 0 → s.rd Reg.PWR_STATUS_STATE 0 ≠ 3 →
      (2495 ≤ edges → edges ≤ 2505 → s.rdB Reg.HRT_CLK_STATUS_REF_FALLBACK 0 = false →
        ∃ t, exec (.refclkWindow edges) s = .next t ∧
          RegsOnly { s with pw := { s.pw with refBad := 0, refGood := s.pw.refGood + 1 } } t []) ∧
      (edges < 2495 ∨ 2505 < edges → s.pw.refBad = 1 → s.rdB Reg.HRT_CLK_STATUS_REF_FALLBACK 0 = false →
        ∃ t, exec (.refclkWindow edges) s = .next t ∧ t.rdB Reg.HRT_CLK_STATUS_REF_FALLBACK 0 = true ∧
          (∀ p : Fin 8, t.rdB Reg.NET_PORT_STATUS_LINK p = false) ∧ t.pw = { s.pw with refBad := 2, refGood := 0 })) ∧
    (∀ anvilRail, s.background = true →
      let f := if anvilRail then Reg.PWR_GUARD_GB_ANV else Reg.PWR_GUARD_GB_FIX
      s.rd f 0 < 30 → ∃ t, exec (.guardbandStep anvilRail) s = .next t ∧ t.rd f 0 = s.rd f 0 + 5 ∧
        Raised s t 0x0707 0 none (t.word 0x080020).toNat ∧ EventsOnly s t [0x080020]) ∧
    (∀ (lane : Fin 64) n, s.background = true → s.rdB Reg.NET_PORT_STATUS_LINK (lane.val / 8) = true → 2 ^ 24 * 5440 < n * 100000 →
      ∃ t, exec (.laneMarginCheck lane n) s = .next t ∧ Raised s t 0x0506 lane none 0 ∧ EventsOnly s t []) ∧
    ∀ (dir : Fin 2) (g : Fin 8),
      (s.powered = true → s.stage ≠ 0 → (dir, g) ∉ s.pw.bridgeBusy → (dir, g) ∉ s.pw.bridgeOut →
        ∃ t, exec (.bridgeRetrain dir g) s = .next t ∧ Raised s t 0x0206 dir none g ∧
          EventsOnly { s with pw := { s.pw with bridgeBusy := s.pw.bridgeBusy ++ [(dir, g)] } } t []) ∧
      ∀ good, (dir, g) ∈ s.pw.bridgeBusy → ∃ t, exec (.bridgeRetrainDone dir g good) s = .next t ∧
        EventsOnly { s with pw := { s.pw with
          bridgeBusy := s.pw.bridgeBusy.filter (· != (dir, g)),
          bridgeOut := s.pw.bridgeOut ++ if good then [] else [(dir, g)] } } t []

/-- A link that comes up does so in its configured mode on an enabled port; one that goes down clears its status; each
raises its event, and a port that comes up sends what waits (`pumpAll`). A verified preemption sets PREEMPT_ACTIVE. -/
def Obligations.LinksUpAndDown : Prop :=
  ∀ (s : State) (p : Fin 8),
    let word := 0x060004 + 0x400 * p.val
    let mode := s.rd Reg.NET_PORT_CFG_MODE p
    (s.rdB Reg.NET_PORT_STATUS_LINK p = true →
      (∃ t, exec (.linkDown p) s = .next t ∧ t.rdB Reg.NET_PORT_STATUS_LINK p = false ∧
        t.rdB Reg.NET_PORT_STATUS_PREEMPT_ACTIVE p = false ∧ t.rd Reg.NET_PORT_STATUS_LANES_UP p = 0 ∧
        Raised s t 0x0501 p none 0 ∧ EventsOnly s t [word]) ∧
      (s.rdB Reg.NET_PORT_CFG_PREEMPT p = true → ∃ t, exec (.preemptVerify p) s = .next t ∧
        t.rdB Reg.NET_PORT_STATUS_PREEMPT_ACTIVE p = true ∧ RegsOnly s t [word])) ∧
    (s.rdB Reg.NET_PORT_STATUS_LINK p = false → s.rdB Reg.NET_PORT_CFG_EN p = true → State.modeLanes mode ≠ 0 →
      s.rdB Reg.HRT_CLK_STATUS_REF_FALLBACK 0 = false → s.portsTrain = true →
      ∃ u, exec (.linkUp p) s = .next (u.pumpAll.done s.pending) ∧
        u.rdB Reg.NET_PORT_STATUS_LINK p = true ∧ u.rd Reg.NET_PORT_STATUS_MODE_ACTIVE p = mode ∧
        u.rd Reg.NET_PORT_STATUS_LANES_UP p = 2 ^ State.modeLanes mode - 1 ∧ Raised s u 0x0502 p none mode ∧
        EventsOnly s u [word])

/-! Power states. -/

/-- PWR_STATE_REQ: Doze and Slumber entry begin where nothing holds them, STATE shows the transition, the scratchpad's pages
begin to leave for Slumber, and REQ = 0 in Run has no further effect. A holder is named before Quench. -/
def Obligations.StateRequests : Prop :=
  ∀ (s : State) (w : Writer), writable s w 0x08001C = true → s.pw.entering = none →
    (s.rd Reg.PWR_STATUS_STATE 0 ≠ 2 →
      (∃ t, exec (.stateReqRun w) s = .next t ∧ t.rd Reg.PWR_STATE_REQ_REQ 0 = 0 ∧
        RegsOnly { s with wres := .ok } t [0x08001C]) ∧
      (s.quench = false → s.dozeHolder = none → ∃ t, exec (.stateReqDoze w) s = .next t ∧
        t.rd Reg.PWR_STATE_REQ_REQ 0 = 2 ∧ t.rd Reg.PWR_STATUS_STATE 0 = 4 ∧
        RegsOnly { s with wres := .ok, pw := { s.pw with entering := some 2, fromDoze := false } } t [0x08000C, 0x08001C])) ∧
    (∀ n, s.dozeHolder = some n → ∃ t, exec (.stateReqDoze w) s = .next t ∧ RegsOnly { s with wres := .busy 10 n } t []) ∧
    (∀ h, s.slumberHolder = some h → ∃ t, exec (.stateReqSlumber w) s = .next t ∧
      RegsOnly { s with wres := .busy h.1 h.2 } t []) ∧
    (s.quench = false → s.slumberHolder = none → ∃ t, exec (.stateReqSlumber w) s = .next t ∧
      t.rd Reg.PWR_STATE_REQ_REQ 0 = 3 ∧ t.rd Reg.PWR_STATUS_STATE 0 = 4 ∧ t.pw.entering = some 3 ∧ t.ops = s.ops ∧
      (s.scratchPages = [] → RegsOnly { s with
        wres := .ok
        pw := { s.pw with entering := some 3, fromDoze := decide (s.rd Reg.PWR_STATUS_STATE 0 = 2) } } t [0x08000C, 0x08001C]))

/-- A Doze entry that ends stops the Sprigs and Anvils and leaves memory in self-refresh with its pads held and the
memory-side caches and window fills empty. A Slumber entry that ends holds every pad group, takes every link down and
loses the state of the Sprigs and of the TAP and the slots' snapshots; it does not end while a page stands in the
scratchpad. -/
def Obligations.EntriesEnd : Prop :=
  ∀ s : State,
    (s.pw.entering = some 2 → s.rd Reg.SEC_LC_PORT 0 ≠ 2 → ∃ t, exec .dozeEntered s = .next t ∧
      t.rd Reg.PWR_STATUS_STATE 0 = 2 ∧ t.rd Reg.HRT_PAD_HOLD_GROUPS 0 = s.rd Reg.HRT_PAD_HOLD_GROUPS 0 ||| 0x1E ∧
      RegsOnly { s with
        pw := { s.pw with entering := none, fromDoze := false, memAsleep := true, compute := false },
        ms := { s.ms with msc := Vector.replicate 2 [], fills := Vector.replicate 2 [] } } t [0x08000C, 0x000140]) ∧
    (s.pw.entering = some 3 → s.demoteScratch.scratchPages ≠ [] →
      exec .slumberEntered s = .next (s.demoteScratch.done s.pending)) ∧
    (s.pw.entering = some 3 → s.demoteScratch.scratchPages = [] → ∃ t, exec .slumberEntered s = .next t ∧
      t.rd Reg.PWR_STATUS_STATE 0 = 3 ∧ t.rd Reg.HRT_PAD_HOLD_GROUPS 0 = 0x7F ∧
      (∀ p : Fin 8, t.rdB Reg.NET_PORT_STATUS_LINK p = false) ∧
      t.sprigs = Vector.replicate 24 State.sprigReset ∧ t.slots = (s.slots.map fun x => { x with snap := none }) ∧
      t.pw = { s.pw with entering := none, fromDoze := false, memAsleep := true, compute := false } ∧ t.tap = State.tapReset ∧
      t.ms.msc = Vector.replicate 2 [] ∧ t.ms.fills = Vector.replicate 2 [] ∧ t.rings = s.rings ∧ t.ops = s.ops)

/-- A wake source named for the state returns the module to Run, counts in its byte of HRT_WAKE_CNT and is named in
HRT_WAKE_SRC; from Slumber it also measures the running firmware, draws a new nonce and raises EV_WAKE. PWR_STATE_REQ = 0
wakes Doze as source 2. -/
def Obligations.Wakes : Prop :=
  ∀ (s : State) (n : Fin 5), s.powered = true → s.quench = false → s.pw.flowOk = true → s.pw.hot = false →
    let count := s.rd Reg.HRT_WAKE_CNT_COUNT 0
    let counted := putBits count (8 * n.val - 1) (8 * n.val - 8) (min 255 (bits count (8 * n.val - 1) (8 * n.val - 8) + 1))
    (s.rd Reg.PWR_STATUS_STATE 0 = 2 → n ≠ 0 → ∃ t, exec (.wake n) s = .next t ∧ t.rd Reg.PWR_STATUS_STATE 0 = 0 ∧
      t.rd Reg.HRT_WAKE_SRC_LAST 0 = n.val ∧ t.rd Reg.HRT_WAKE_CNT_COUNT 0 = counted ∧
      t.rd Reg.HRT_PAD_HOLD_GROUPS 0 = s.rd Reg.HRT_PAD_HOLD_GROUPS 0 &&& 0x61 ∧
      RegsOnly { s with pw := { s.pw with memAsleep := false, compute := true } } t
        [0x08000C, 0x000148, 0x00014C, 0x000140]) ∧
    (s.rd Reg.PWR_STATUS_STATE 0 = 3 → n = 1 ∨ n = 4 → ∃ t, exec (.wake n) s = .next t ∧
      t.rd Reg.PWR_STATUS_STATE 0 = 0 ∧ t.rd Reg.HRT_WAKE_SRC_LAST 0 = n.val ∧ t.rd Reg.HRT_WAKE_CNT_COUNT 0 = counted ∧
      t.rd Reg.HRT_PAD_HOLD_GROUPS 0 = s.rd Reg.HRT_PAD_HOLD_GROUPS 0 &&& 0 ∧
      Extended s t 1 (sha256 (State.fwHeader s.flash.fw[s.runningSlot])) ∧
      t.rd Reg.SEC_DBG_NONCE_NONCE 0 = (Config.random s.free).toNat ∧ Raised s t 0x0704 0 none n ∧
      t.pw = { s.pw with memAsleep := false, compute := true }) ∧
    ∀ w, writable s w 0x08001C = true → s.pw.entering = none → s.rd Reg.PWR_STATUS_STATE 0 = 2 →
      ∃ t, exec (.stateReqRun w) s = .next t ∧ t.rd Reg.PWR_STATUS_STATE 0 = 0 ∧ t.rd Reg.HRT_WAKE_SRC_LAST 0 = 2

/-- HRT_PAD_RELEASE releases the named groups whose domains are powered, which is every one but in Slumber;
HRT_WAKE_DELAY takes countdown 2 where Quench does not hold it, and its expiry disarms and releases it; HRT_AUX assigns
functions that no pin holds. -/
def Obligations.PadsDelaysAndPins : Prop :=
  ∀ (s : State) (w : Writer),
    (∀ g : BitVec 7, writable s w 0x000144 = true → ∃ t, exec (.padRelease w g) s = .next t ∧
      t.rd Reg.HRT_PAD_HOLD_GROUPS 0 = (if s.rd Reg.PWR_STATUS_STATE 0 = 3 then s.rd Reg.HRT_PAD_HOLD_GROUPS 0
        else s.rd Reg.HRT_PAD_HOLD_GROUPS 0 &&& (0x7F ^^^ g.toNat)) ∧
      RegsOnly { s with wres := .ok } t [0x000140]) ∧
    (∀ delay : BitVec 24, writable s w 0x000150 = true → s.rd Reg.HRT_CD_HOLD_CD2 0 ≠ 2 →
      ∃ t, exec (.wakeDelayArm w delay) s = .next t ∧ t.rd Reg.HRT_WAKE_DELAY_DELAY 0 = delay.toNat ∧
        t.rdB Reg.HRT_WAKE_DELAY_ARM 0 = true ∧ t.rd Reg.HRT_CD_HOLD_CD2 0 = 1 ∧
        RegsOnly { s with wres := .ok } t [0x000150, 0x000180]) ∧
    (s.powered = true → s.rdB Reg.HRT_WAKE_DELAY_ARM 0 = true → s.rd Reg.PWR_STATUS_STATE 0 ≤ 1 →
      ∃ t, exec .wakeDelayExpire s = .next t ∧ t.rdB Reg.HRT_WAKE_DELAY_ARM 0 = false ∧
        t.rd Reg.HRT_CD_HOLD_CD2 0 = 0 ∧ RegsOnly s t [0x000150, 0x000180]) ∧
    ∀ v : Word, writable s w 0x000184 = true →
      let f0 := bits v.toNat 2 0
      let f1 := bits v.toNat 6 4
      let o0 := s.rd Reg.HRT_AUX_FUNC0 0
      let o1 := s.rd Reg.HRT_AUX_FUNC1 0
      f0 ≤ 3 → f1 ≤ 3 → (f0 = 0 ∨ (o0 = 0 ∨ f0 = o0) ∧ f0 ≠ o1) → (f1 = 0 ∨ (o1 = 0 ∨ f1 = o1) ∧ f1 ≠ o0 ∧ f1 ≠ f0) →
      ∃ t, exec (.auxFuncWrite w v) s = .next t ∧ t.rd Reg.HRT_AUX_FUNC0 0 = f0 ∧ t.rd Reg.HRT_AUX_FUNC1 0 = f1 ∧
        RegsOnly { s with wres := .ok } t [0x000184]

/-! I3C and the debug port. -/

/-- The I3C common commands while Hearth is powered: a dynamic address is assigned once, also through the static address;
RSTDAA takes it back; ENEC and DISEC set and clear IBI_EN; GETPID, GETBCR and GETDCR return their bytes, but for a module
without an address, which is silent. A transfer to the module in Doze or Slumber, which wakes it, is no part of this
statement. -/
def Obligations.I3cCommonCommands : Prop :=
  ∀ (s : State) (da : BitVec 7) (ev : Byte), s.hearthUp = true →
    (s.rdB Reg.HRT_I3C_DA_VALID 0 = false →
      (∃ t, exec (.entdaa da) s = .next t ∧ t.rd Reg.HRT_I3C_DA 0 = da.toNat ∧ t.rdB Reg.HRT_I3C_DA_VALID 0 = true ∧
        RegsOnly s t [0x000080]) ∧
      ∀ sa : BitVec 7, s.rdB Reg.HRT_I3C_SA_VALID 0 = true → s.rd Reg.HRT_I3C_SA 0 = sa.toNat → awake s →
        ∃ t, exec (.setdasa sa da) s = .next t ∧ t.rd Reg.HRT_I3C_DA 0 = da.toNat ∧
          t.rdB Reg.HRT_I3C_DA_VALID 0 = true ∧ RegsOnly s t [0x000080]) ∧
    (∃ t, exec .rstdaa s = .next t ∧ t.rdB Reg.HRT_I3C_DA_VALID 0 = false ∧ RegsOnly s t [0x000080]) ∧
    (bit ev.toNat 0 = true →
      (∃ t, exec (.enec ev) s = .next t ∧ t.rdB Reg.HRT_I3C_IBI_EN 0 = true ∧ RegsOnly s t [0x000080]) ∧
      ∃ t, exec (.disec ev) s = .next t ∧ t.rdB Reg.HRT_I3C_IBI_EN 0 = false ∧ RegsOnly s t [0x000080]) ∧
    (s.rdB Reg.HRT_I3C_DA_VALID 0 = false → s.rdB Reg.HRT_I3C_SA_VALID 0 = false →
      ∀ c, c = .getpid ∨ c = .getbcr ∨ c = .getdcr → ∃ t, exec c s = .next t ∧ RegsOnly s t []) ∧
    (awake s → s.rdB Reg.HRT_I3C_DA_VALID 0 = true ∨ s.rdB Reg.HRT_I3C_SA_VALID 0 = true →
      (∃ t, exec .getpid s = .next t ∧ t.kal.i3cReply = (toBytes 6
        (Config.mipiCode.toNat * 2 ^ 33 + 0x8F16 * 2 ^ 16 + s.pw.slotId.toNat * 2 ^ 12)).reverse ∧
      RegsOnly { s with kal := { s.kal with i3cReply := t.kal.i3cReply } } t []) ∧
      (∃ t, exec .getbcr s = .next t ∧ RegsOnly { s with kal := { s.kal with i3cReply := [0x06] } } t []) ∧
      ∃ t, exec .getdcr s = .next t ∧ RegsOnly { s with kal := { s.kal with i3cReply := [0x00] } } t [])

/-- A direct I3C write (R367) to a module that has an address, and the read that follows it: bytes written in a mailbox's
request area enter it, in its response area they are dropped, and elsewhere whole words go to consecutive registers in
order, each as an owner write; then the address selects what a read returns; fewer than three bytes have no effect, nor has
a write to a module without an address. What waited for a slot to be idle runs after each (`kSettle`). -/
def Obligations.I3cPrivateWrites : Prop :=
  ∀ (s : State) (a : Nat) (data tail : List Byte) (ws : List Word), a < 2 ^ 24 → tail.length < 4 →
    (s.i3cHears = false → ∃ t, exec (.i3cPrivateWrite data) s = .next t ∧ RegsOnly s t []) ∧
    (s.i3cHears = true → awake s →
    let box := within 0x010000 0x2000 a
    let o := a % 0x1000
    let sent := ws.flatMap (fun w => toBytes 4 w.toNat) ++ tail
    let read (x : State) : State := { x with kal := { x.kal with i3cReply := (List.range 2048).map (x.i3cByte a) } }
    (s.kal.waiting = [] → s.kal.running = none → ∃ t, exec (.i3cPrivateWrite (toBytes 3 a)) s = .next t ∧
      RegsOnly (read s) t []) ∧
    (data ≠ [] → box = true → 0x400 ≤ o → o < 0x800 → exec (.i3cPrivateWrite (toBytes 3 a ++ data)) s =
      .next ((read (s.areaWrite (Fin.ofNat 16 (a / 0x1000)) (o - 0x400) data)).kSettle.done s.pending)) ∧
    (data ≠ [] → box = true → 0x800 ≤ o → s.kal.waiting = [] → s.kal.running = none →
      ∃ t, exec (.i3cPrivateWrite (toBytes 3 a ++ data)) s = .next t ∧ RegsOnly (read s) t []) ∧
    (sent ≠ [] → box = false ∨ o < 0x400 → exec (.i3cPrivateWrite (toBytes 3 a ++ sent)) s =
      .next ((read (ws.zipIdx.foldl (fun (x : State) w =>
        x.regWrite .i3c (a + 4 * w.2) w.1.toNat fun y => y.ctlWrite (a + 4 * w.2) w.1.toNat) s)).kSettle.done s.pending)) ∧
    (data.length < 3 → s.kal.waiting = [] → s.kal.running = none →
      ∃ t, exec (.i3cPrivateWrite data) s = .next t ∧ RegsOnly s t []))

/-- The TAP while powered: each instruction selects its register, whose value a scan returns (`drCapture`): IDCODE's word,
the pins, the DBGACC register, or 0 of the bypass register; the boundary register moves the pins only where the port state
permits it, captures them and then takes the bits scanned in, which for EXTEST are a free value (log entry 185) and may be
none; an instruction that is not permitted selects bypass and leaves the pins functional. -/
def Obligations.TapInstructions : Prop :=
  ∀ (s : State) (scan : BitVec 16), s.tapUp = true →
    let ok := decide (2 ≤ s.rd Reg.SEC_LC_PORT 0)
    let sel (code : Nat) (d : PinDrive) : Tap :=
      { s.tap with ir := code, bypassed := !ok, drive := if ok then d else .functional }
    let scanned (c : Instr) (code : Nat) (d : PinDrive) (bits : Option (BitVec 16)) : Prop :=
      let u : State := { s with tap := sel code d }
      ∃ t, exec c s = .next t ∧ RegsOnly { s with
        tap := if ok then (match bits with
          | some b => { sel code d with boundary := b, captured := u.pinCapture }
          | none => sel code d) else sel code d
        free := if ok then s.free + 1 else s.free } t []
    (∀ c, c = .tapReset ∨ c = .idcode → ∃ t, exec c s = .next t ∧ t.drCapture = State.idcodeWord ∧
      RegsOnly { s with tap := { s.tap with ir := 0x01, bypassed := false, drive := .functional } } t []) ∧
    (∃ t, exec .bypass s = .next t ∧ t.drCapture = 0 ∧
      RegsOnly { s with tap := { s.tap with ir := 0xFF, bypassed := false, drive := .functional } } t []) ∧
    scanned (.samplePreload scan) 0x02 .functional (some scan) ∧ scanned .extest 0x04 .boundary (Config.scanIn s.free) ∧
    (∃ t, exec .clamp s = .next t ∧ RegsOnly { s with tap := sel 0x05 .boundary } t []) ∧
    ∃ t, exec .highz s = .next t ∧ RegsOnly { s with tap := sel 0x06 .highz } t []

/-- Debug accesses: DBGACC under OBSERVE or FULL leaves an access in progress, whose STATUS is busy, and under another
port state selects bypass; when the access ends, a read of the control space returns the word, a write at FULL is made
as an owner write, or in Debug and Returned clears bits of an Anvil's fence, memory is read and written, an access that
the port state denies or that writes the reserved region ends denied, and one of memory before READY stays in progress,
as does a write of a MEM_ or STR_ register then (the model's choice, log entry 194). A write of an image in NOFW (R474) is
no part of this statement. -/
def Obligations.DebugAccesses : Prop :=
  ∀ (s : State) (dr : BitVec 84), s.tapUp = true →
    let port := s.rd Reg.SEC_LC_PORT 0
    let op := bits dr.toNat 1 0
    let a := bits dr.toNat 43 3 / 4 * 4
    let v := bits dr.toNat 75 44
    let chosen (byp : Bool) : Tap := { s.tap with ir := 0x10, bypassed := byp, drive := .functional }
    let ended (data status : Nat) : Tap := { s.tap with pending := none, dbg := State.dbgResult dr data status }
    let fence := within 0x050000 0x4000 a && a % 0x1000 == 4 && decide (2 ≤ s.rd Reg.SEC_LC_LC 0)
    (port = 1 ∨ port = 3 →
      (op = 1 ∨ op = 2 → ∃ t, exec (.dbgacc dr) s = .next t ∧
        RegsOnly { s with tap := { chosen false with pending := some dr, dbg := State.dbgResult dr 0 2 } } t []) ∧
      (op = 0 ∨ op = 3 → ∃ t, exec (.dbgacc dr) s = .next t ∧ RegsOnly { s with tap := chosen false } t [])) ∧
    (port = 0 ∨ port = 2 → ∃ t, exec (.dbgacc dr) s = .next t ∧ RegsOnly { s with tap := chosen true } t []) ∧
    (s.tap.pending = some dr →
      (port = 1 ∨ port = 3 → bit dr.toNat 2 = false → op ≠ 2 → ∃ t, exec .dbgaccDone s = .next t ∧
        RegsOnly { s with free := s.free + 1, tap := ended (s.readWord a false).toNat 0 } t []) ∧
      (port = 3 → bit dr.toNat 2 = false → op = 2 → s.heldBack .debug a = true →
        ∃ t, exec .dbgaccDone s = .next t ∧ RegsOnly s t []) ∧
      (port = 3 → bit dr.toNat 2 = false → op = 2 → s.heldBack .debug a = false → fence = false →
        s.stage ≠ 5 ∨ hasReg a = true →
        let u := s.regWrite .debug a v fun s => s.ctlWrite a v
        exec .dbgaccDone s = .next ((u.dbgEnd dr v (if u.wres = KStat.denied then 1 else 0)).done s.pending)) ∧
      (port = 3 → bit dr.toNat 2 = false → op = 2 → s.heldBack .debug a = false → fence = true →
        let u := s.clearFence ((a - 0x050000) / 0x1000) v
        exec .dbgaccDone s = .next ((u.1.dbgEnd dr v (if u.2 = true then 0 else 1)).done s.pending)) ∧
      (s.memUp = true → bit dr.toNat 2 = true →
        (port = 3 → op = 2 → a / 2 ^ 18 < resPage →
          exec .dbgaccDone s = .next (((s.store State.dbgVia a (toBytes 4 v)).dbgEnd dr v 0).done s.pending)) ∧
        (port = 3 → op = 2 → resPage ≤ a / 2 ^ 18 → ∃ t, exec .dbgaccDone s = .next t ∧
          RegsOnly { s with tap := ended v 1 } t []) ∧
        (port = 1 ∨ port = 3 → op ≠ 2 → exec .dbgaccDone s = .next (((s.readRange State.dbgVia a 4).dbgEnd dr
          (if s.poisoned a 4 = true then 0 else s.peek a 4) (if s.poisoned a 4 = true then 3 else 0)).done s.pending))) ∧
      (s.memUp = false → bit dr.toNat 2 = true → port = 3 ∨ port = 1 ∧ op ≠ 2 →
        ∃ t, exec .dbgaccDone s = .next t ∧ RegsOnly s t []) ∧
      (port = 1 → op = 2 → ∃ t, exec .dbgaccDone s = .next t ∧ RegsOnly { s with tap := ended v 1 } t []) ∧
      (port = 0 ∨ port = 2 → ∃ t, exec .dbgaccDone s = .next t ∧ RegsOnly { s with tap := ended 0 1 } t []))

/-! Kalec: requests, ownership, slots and the commands of the owner. -/

/-- What an answer does (R371, R375, R510): the mailbox is idle again and keeps the response with the holder it names, a
command that completes with KS_OK releases the alert of a third restart, and one sequence number is taken. Where no
datagram carries the response nothing else changes; where one does, it leaves through the port of the request, but in
Quench, in which no port sends one. -/
def Obligations.AnswersAreKept : Prop :=
  ∀ (s : State) (q : Req) (st : KStat) (pl : List Byte), s.kal.boxes[q.hdr.mbox].cur = some q →
    let t := s.answer q st pl
    let frame := kFrame q.hdr q.code (kStatus st) s.dseq.toNat (kHolder st ++ pl)
    t.kal = { s.kal with boxes := s.kal.boxes.set q.hdr.mbox { s.kal.boxes[q.hdr.mbox] with
      cur := none, kept := some ⟨q.code, q.hdr, kStatus st, kHolder st ++ pl, frame⟩ } } ∧
    t.rd Reg.KAL_MB_STATUS_STATE q.hdr.mbox = 2 ∧ t.rd Reg.KAL_MB_STATUS_LAST_STATUS q.hdr.mbox = kStatus st ∧
    t.dseq = (if s.dseq + 1 = 0 then 1 else s.dseq + 1) ∧
    (q.hdr.mbox.val < 2 ∨ s.rdB Reg.NET_PORT_STATUS_LINK q.hdr.port = false ∨ s.quench = true →
      RegsOnly { s with kal := t.kal, pw := if st = .ok then { s.pw with alertHeld := false } else s.pw } t
        [0x010000 + 0x1000 * q.hdr.mbox.val, 0x03F004]) ∧
    (2 ≤ q.hdr.mbox.val → s.rdB Reg.NET_PORT_STATUS_LINK q.hdr.port = true → s.quench = false → s.rdB Reg.NET_FI_CTRL_ARM q.hdr.port = false →
      s.net.fi[q.hdr.port].held = [] →
      let f := Frame.datagram q.hdr.peerIp.toNat q.hdr.peerPort.toNat frame
      t.net.sent = s.net.sent ++ [s.sentFrame q.hdr.port f f])

/-- The commands any agent may send are answered KS_OK with what they read: identity, words of the control space, the
owner's registers with the lease remaining, event records from a sequence number on, which then count as returned, Slag
entries, and the configuration record. -/
def Obligations.KalecReads : Prop :=
  ∀ (s : State) (h : KHdr) (a : Word) (n off : BitVec 16) (boot : Option Word),
    let u := arrived s h
    (Takes s h .hello → exec (.hello h) s = .next (replied s (u .hello) h .hello .ok s.helloBytes)) ∧
    (Takes s h (.readReg a n) → 1 ≤ n.toNat → n.toNat ≤ 500 → (∀ i, i < n.toNat → hasReg (a.toNat + 4 * i) = true) →
      exec (.readReg h a n) s = .next ((((u (.readReg a n)).answer (ask h (.readReg a n)) .ok
        ((List.range n.toNat).flatMap fun i =>
          toBytes 4 ((u (.readReg a n)).peekReg (a.toNat + 4 * i) (decide (h.mbox.val < 2))).toNat)).tick).done s.pending)) ∧
    (Takes s h .ownerInfo → exec (.ownerInfo h) s =
      .next ((((u .ownerInfo).answer (ask h .ownerInfo) .ok s.ownerBytes).tick).done s.pending)) ∧
    (∀ rs, Takes s h (.readEvents a n boot) → s.eventSource a.toNat (boot.getD 0) = some rs →
      let out := (rs.filter fun r => seqLe a.toNat (State.recSeq r)).take (min n.toNat (if h.ver = 3 then 125 else 126))
      let v := u (.readEvents a n boot)
      let now := decide (boot.getD 0 = 0 ∨ boot.getD 0 = s.flash.boot)
      exec (.readEvents h a n boot) s = .next (replied s
        (if now then v.returned (out.map State.recSeq) else v) h (.readEvents a n boot) .ok
        (toBytes 4 (((rs.head?).map State.recSeq).getD 0) ++ toBytes 4 (if now then s.tel.lost.toNat else 0) ++
          out.flatMap fun r => toBytes 16 r.toNat))) ∧
    (Takes s h (.slagRead a n) → 1 ≤ n.toNat → n.toNat ≤ 120 → a.toNat + n.toNat ≤ 65536 →
      exec (.slagRead h a n) s = .next (replied s (u (.slagRead a n)) h (.slagRead a n) .ok
        ((span a.toNat n.toNat).flatMap fun k => toBytes 16 (s.flash.slag.getD k (BitVec.allOnes 128)).toNat))) ∧
    ∀ i, Takes s h (.configRead off) → s.curCopy = some i →
      exec (.configRead h off) s = .next (replied s (u (.configRead off)) h (.configRead off) .ok
        (State.copyHeader s.flash.cfg[i] ++ entryBytes ((s.flash.cfg[i].entries.drop off.toNat).take 244)))

/-- What a change of owner leaves: a grant shows the owner, its priority and mailbox with countdown 1 held and gives a
token never drawn before; an end of ownership clears them, names a successor and releases countdown 1. -/
def Obligations.OwnersChange : Prop :=
  ∀ (s : State) (q : Req) (prio st : Nat) (id : DWord), prio < 16 →
    let g := s.grant q prio
    (g.rd Reg.HRT_OWNER_STATE 0 = 2 ∧ g.rd Reg.HRT_OWNER_PRIORITY 0 = prio ∧ g.rd Reg.HRT_OWNER_MBOX 0 = q.hdr.mbox.val ∧
      g.rdB Reg.HRT_OWNER_VIA_I3C 0 = decide (q.hdr.mbox.val < 2) ∧
      g.rd Reg.HRT_OWNER_ID_AGENT_ID 0 = q.hdr.agent.toNat ∧ g.rd Reg.HRT_CD_HOLD_CD1 0 = 1 ∧
      g.kal.otok = s.drawToken.kal.otok) ∧
    (s.kal.toks.Pairwise (· < ·) → 0 ∈ s.kal.toks → (∀ e ∈ s.kal.toks, e < 2 ^ 32) → s.kal.toks.length < 2 ^ 32 →
      let d := s.drawToken
      d.kal.otok.toNat ∉ s.kal.toks ∧ d.kal.otok.toNat ∈ d.kal.toks ∧ d.kal.toks.Pairwise (· < ·)) ∧
    (st < 4 →
      let t := s.ownerEnds st id
      t.rd Reg.HRT_OWNER_STATE 0 = st ∧ t.rd Reg.HRT_OWNER_PRIORITY 0 = 0 ∧ t.rd Reg.HRT_OWNER_MBOX 0 = 0 ∧
      t.rdB Reg.HRT_OWNER_VIA_I3C 0 = false ∧ t.rd Reg.HRT_OWNER_ID_AGENT_ID 0 = id.toNat ∧
      t.rd Reg.HRT_CD_HOLD_CD1 0 = 0 ∧ t.kal.otok = s.kal.otok ∧ t.sec.token = [])

/-- Ownership's commands and timers: a claim joins the window of a vacancy, whose close grants the winner and answers
the others busy; the owner yields or keeps its lease; tray authority vacates; a lease or a reservation that runs out
vacates. -/
def Obligations.Ownership : Prop :=
  ∀ (s : State) (h : KHdr) (p reserve hold : Byte) (succ : DWord),
    let u := arrived s h
    (Takes s h (.claim p) → p.toNat ≤ 15 → (p.toNat = 15 → h.mbox.val < 2) → s.ownState ≤ 1 →
      let v := (u (.claim p)).wr Reg.HRT_OWNER_STATE 0 1
      ∃ t, exec (.claim h p) s = .next t ∧ t.rd Reg.HRT_OWNER_STATE 0 = 1 ∧
        RegsOnly { v with kal := { v.kal with claims := s.kal.claims ++ [((ask h (.claim p)).hdr, p.toNat)] } } t
          [0x000100]) ∧
    (∀ w, s.kalecServes = true → s.ownState = 1 → State.winner s.kal.claims = some w →
      exec .claimWindowClose s = .next (((s.kal.claims.filter (· != w)).foldl
        (fun (x : State) c => x.answer (State.claimReq c) (.busy 1 0) [])
        (({ s with kal := { s.kal with claims := [] } }).grant (State.claimReq w) w.2)).done s.pending)) ∧
    (Takes s h (.yield succ reserve) → 1 ≤ reserve.toNat → reserve.toNat ≤ 100 → succ.toNat ≠ s.ownerId →
      exec (.yield h succ reserve) s = .next (replied s
        ((u (.yield succ reserve)).ownerEnds (if succ = 0 then 0 else 3) succ).noteOwner h (.yield succ reserve) .ok [])) ∧
    (Takes s h .keepalive → exec (.keepalive h) s = .next (replied s (u .keepalive) h .keepalive .ok [])) ∧
    (Takes s h (.forceVacate hold) → h.mbox.val < 2 → hold.toNat ≤ 1 →
      let x := u (.forceVacate hold)
      let v := ({ x with kal := { x.kal with claims := [] } }).ownerEnds (if hold = 1 then 3 else 0) 0
      exec (.forceVacate h hold) s = .next (replied s
        (s.kal.claims.foldl (fun (x : State) c => x.answer (State.claimReq c) (.busy 1 0) [])
          ({ v with kal := { v.kal with hold15 := hold == 1 } }).noteOwner) h (.forceVacate hold) .ok [])) ∧
    (∀ q, s.kalecServes = true → s.owned = true → s.kal.running = some q → ∃ t, exec .leaseExpire s = .next t ∧
      RegsOnly { s with kal := { s.kal with leaseDue := true } } t []) ∧
    (s.kalecServes = true → s.owned = true → s.kal.running = none →
      exec .leaseExpire s = .next (((s.ownerEnds 0 0).raise 0x0602 0 none (s.ownerId % 2 ^ 32)).done s.pending)) ∧
    (s.kalecServes = true → s.ownState = 3 →
      exec .reservationElapse s = .next ((s.ownerEnds 0 0).noteOwner.done s.pending))

/-- WRITE_REG writes in order until a write is refused, whose index its answer carries; CONFIG_WRITE merges its entries,
makes their writes where APPLY is set, has the copy it replaces erased, and executes until the copy is written; then
HRT_CFG_SEQ names the new copy, whose SEQ is one higher, and its command is answered KS_OK. -/
def Obligations.ConfigurationWrites : Prop :=
  ∀ (s : State) (h : KHdr) (seq : DWord) (apply : Byte) (ws : List (Word × Word)),
    (Takes s h (.writeReg ws) → ws.length ≤ 124 →
      let r := State.writeMany ws 0 (arrived s h (.writeReg ws))
      exec (.writeReg h ws) s = .next (replied s r.1 h (.writeReg ws) r.2.1
        (if r.2.1 = .ok then [] else toBytes 4 r.2.2))) ∧
    (Takes s h (.configWrite seq apply ws) → s.copiesLive = true → seq.toNat = s.rd Reg.HRT_CFG_SEQ_SEQ 0 →
      s.kal.cfgWrite = none → apply.toNat ≤ 1 → ws.length ≤ 122 → (ws.foldl putEntry s.curEntries).length ≤ 4996 →
      (∀ e ∈ ws, persistent e.1.toNat = true) →
      let v := arrived s h (.configWrite seq apply ws)
      let r := if apply = 1 then State.writeMany ws 0 v else (v, .ok, 0)
      exec (.configWrite h seq apply ws) s = .next (if r.2.1 = .ok then
        { r.1.eraseNext with kal := { r.1.kal with
          cfgWrite := some ⟨ws.foldl putEntry s.curEntries, true⟩
          running := some (ask h (.configWrite seq apply ws)) } }.done s.pending
        else replied s r.1 h (.configWrite seq apply ws) r.2.1 (toBytes 4 r.2.2))) ∧
    ∀ w, s.kal.cfgWrite = some w → s.kalecServes = true → s.copiesLive = true →
      let v := s.copyWritten w
      v.kal.cfgWrite = none ∧ v.mem = s.mem ∧ v.ops = s.ops ∧ v.slots = s.slots ∧
        v.rd Reg.HRT_CFG_SEQ_SEQ 0 = (match s.curCopy with
          | some c => s.flash.cfg[c].seq + 1
          | none => 1).toNat ∧
        exec .configCopyWritten s = .next ((match w.answer, s.kal.running with
          | true, some q => (v.answer q .ok []).runEnds.kSettle
          | _, _ => v).done s.pending)

/-- Job slots (R386 to R388): a slot opens fresh with a new counter of draws, or from a record that reads well; it
starts in RUN, or in HALTED where a halt bit is kept; it stops, and its command is answered once nothing of it is in
flight; it closes from any state after its waits and transfers are abandoned. -/
def Obligations.JobSlots : Prop :=
  ∀ (s : State) (h : KHdr) (slot : Byte) (n : Fin 8) (a : BitVec 48), n.val = slot.toNat →
    (Takes s h (.slotOpen slot a) → s.slotState n = 0 → s.rd Reg.SEC_LC_PORT 0 ≠ 2 →
      let u := arrived s h (.slotOpen slot a)
      let snap : Option Snap := if s.stagePart 0 = 0 then none else some ⟨0, [], List.replicate 4096 0, 0⟩
      let v := { u with slots := u.slots.set n ⟨0, some s.free, [], [], snap⟩ }
      (a = 0 → exec (.slotOpen h slot a) s = .next (replied s
        (((v.setWordsAt (0x081000 + 8 * n.val) 2 0).wr Reg.STR_SLOT_STATE_STATE n 1).tickN 4096) h (.slotOpen slot a)
        .ok [])) ∧
      (a ≠ 0 → a.toNat % 64 = 0 → a.toNat + 102464 ≤ 2 ^ 41 →
        let w := u.readRange ⟨0, some n, false, 0⟩ a.toNat 102464
        w.poisoned a.toNat 102464 = false → w.peek (a.toNat + 16) 48 = 0 → ∃ t, exec (.slotOpen h slot a) s = .next t ∧
          t.slotState n = 1 ∧ t.slots[n].steps = BitVec.ofNat 64 (w.peek a.toNat 8) ∧ t.slots[n].drawn = none ∧
          t.kal.boxes[h.mbox].kept.map (·.status) = some 0)) ∧
    (Takes s h (.slotStart slot) → s.slotState n = 1 → s.rd Reg.HRT_CFG_SEQ_SEQ 0 ≠ 0 →
      exec (.slotStart h slot) s = .next (replied s ((arrived s h (.slotStart slot)).wr Reg.STR_SLOT_STATE_STATE n
        (if s.rd Reg.STR_SLOT_STATE_HALTED n = 0 then 2 else 3)) h (.slotStart slot) .ok [])) ∧
    (Takes s h (.slotStop slot) → 2 ≤ s.slotState n →
      let u := (arrived s h (.slotStop slot)).wr Reg.STR_SLOT_STATE_STATE n 1
      let v := { u with kal := { u.kal with running := some (ask h (.slotStop slot)) } }
      exec (.slotStop h slot) s = .next (if s.slotOps n = [] then
        (v.answer (ask h (.slotStop slot)) .ok []).runEnds.done s.pending else v.done s.pending)) ∧
    (Takes s h (.slotClose slot) →
      let u := (arrived s h (.slotClose slot)).closeBegin n
      let v := { u with kal := { u.kal with running := some (ask h (.slotClose slot)) } }
      exec (.slotClose h slot) s = .next (if u.slotOps n = [] then
        ((v.closeEnd n).answer (ask h (.slotClose slot)) .ok []).runEnds.done s.pending else v.done s.pending))

/-- The owner's commands on rings, marks, queue pairs and pages are answered KS_OK with their effect: a halted ring
resumes, a slot's counters are latched, a free queue pair is bound with its requester and responder sequence numbers and
full rate, a queue pair is dropped, and a poisoned page is mapped again. -/
def Obligations.RingsPairsAndPages : Prop :=
  ∀ (s : State) (h : KHdr) (ring slot : Byte) (a : QpArgs) (qp : BitVec 16) (page : Word),
    (Takes s h (.streamResume ring) → ring.toNat < 48 → exec (.streamResume h ring) s = .next (replied s
      ((arrived s h (.streamResume ring)).resumeRing (Fin.ofNat 48 ring.toNat)) h (.streamResume ring) .ok [])) ∧
    (Takes s h (.stepMark slot) → slot.toNat < 8 → s.slotState slot.toNat ≠ 0 →
      exec (.stepMarkCmd h slot) s = .next (replied s
        ((arrived s h (.stepMark slot)).latch (Fin.ofNat 8 slot.toNat) true) h (.stepMark slot) .ok [])) ∧
    (Takes s h (.qpBind a) → a.qp.toNat < 256 → a.slot.toNat < 8 → 4 ≤ a.port.toNat → a.port.toNat < 8 →
      a.retry.toNat < 8 → a.mtu.toNat ∈ [1024, 2048, 4096] → s.qpOf a.qp.toNat = none →
      let u := arrived s h (.qpBind a)
      exec (.qpBind h a) s = .next (replied s { u with net := { u.net with
        qps := Tab.set (fun _ => none) u.net.qps a.qp.toNat
          (some ⟨a, a.sqPsn.toNat, a.rqPsn.toNat, false, [], 2 ^ 32⟩) } } h (.qpBind a) .ok [])) ∧
    (Takes s h (.qpUnbind qp) → qp.toNat < 256 → exec (.qpUnbind h qp) s = .next (replied s
      ((arrived s h (.qpUnbind qp)).qpDrop qp.toNat none) h (.qpUnbind qp) .ok [])) ∧
    (Takes s h (.pageClear page) → page.toNat < resPage → (s.ent page.toNat).state = .poisoned →
      exec (.pageClear h page) s = .next (replied s ((arrived s h (.pageClear page)).setEnt page.toNat
        { s.ent page.toNat with state := .mapped, touch := 0, heat := 0 }) h (.pageClear page) .ok []))

/-- The owner's power commands while REFCLK is not lost: SET_PHASE_OP and SET_GROUP_OP take the points of their tables,
and any other value is answered KS_RANGE. RESUME leaves Quench at OP0 with LIM_CAP 0 where FLOW_OK is high and the inlet
is cool. -/
def Obligations.PowerCommands : Prop :=
  ∀ (s : State) (h : KHdr) (phase op : Byte),
    (Takes s h (.setPhaseOp phase op) → s.rdB Reg.HRT_CLK_STATUS_REF_FALLBACK 0 = false →
      let u := arrived s h (.setPhaseOp phase op)
      exec (.setPhaseOp h phase op) s = .next (if phase.toNat ≤ 4 ∧ op.toNat ≤ 15 then
        replied s (u.setWord 0x080004 (BitVec.ofNat 32 (putBits (s.word 0x080004).toNat (4 * phase.toNat + 3)
          (4 * phase.toNat) op.toNat))) h (.setPhaseOp phase op) .ok []
        else replied s u h (.setPhaseOp phase op) .range [])) ∧
    (Takes s h (.setGroupOp op) → s.rdB Reg.HRT_CLK_STATUS_REF_FALLBACK 0 = false →
      let u := arrived s h (.setGroupOp op)
      exec (.setGroupOp h op) s = .next (if op.toNat ≤ 15 then replied s
          (((u.wr Reg.PWR_GROUP_OP 0 op.toNat).wrB Reg.PWR_GROUP_EN 0 true).repointAll) h (.setGroupOp op) .ok []
        else if op = 0xFF then replied s (u.wrB Reg.PWR_GROUP_EN 0 false).repointAll h (.setGroupOp op) .ok []
        else replied s u h (.setGroupOp op) .range [])) ∧
    (Takes s h .resume → s.quench = true → s.pw.flowOk = true → s.pw.hot = false →
      ∃ v : State, exec (.resume h) s = .next ((v.answer (ask h .resume) .ok []).pumpAll.done s.pending) ∧
        v.quench = false ∧ v.rd Reg.PWR_STATUS_QCAUSE 0 = 0 ∧ v.rd Reg.PWR_STATUS_LIM_CAP 0 = 0 ∧
        v.rd Reg.PWR_STATUS_STATE 0 = 0 ∧ v.rd Reg.HRT_CD_HOLD_CD2 0 = 0 ∧ v.rd Reg.PWR_ANV_OP_OP 0 = 0 ∧
        (∀ a : Fin 4, v.anv[a].point = 0) ∧ v.pw = { s.pw with memAsleep := false, compute := true, dozeHeld := false } ∧
        Raised s v 0x0706 0 none 0 ∧ v.mem = s.mem ∧ v.ops = s.ops ∧ v.rings = s.rings)

/-- Firmware (R395, R396): staged bytes stand in the image of the slot that does not run, which the first of them finds
erased; a commit whose image verifies makes the slot valid and committed, and any other is answered KS_AUTH with the slot
erased; activation of a committed slot measures it and sets ACTIVATING, and of another is answered KS_STALE; a number above
1, or staged bytes beyond the slot, earn KS_RANGE, the running slot KS_DENIED; the handover makes the slot the running one
with the next sequence number and EV_FW_ACTIVATED, or measures the old one again with EV_FW_ROLLBACK, and counts. -/
def Obligations.FirmwareSlots : Prop :=
  ∀ (s : State) (h : KHdr) (slot : Byte) (off len : Word) (data : List Byte),
    let n : Fin 2 := Fin.ofNat 2 slot.toNat
    let f := s.flash.fw[n]
    let fits := decide (data.length ≤ 960) && decide (off.toNat + data.length ≤ 2 ^ 26)
    let said (i : Instr) (c : KCmd) (st : KStat) : Prop := exec i s = .next (replied s (arrived s h c) h c st [])
    let put (t : Tab Byte) (k : Nat) : Tab Byte := Tab.set State.erasedByte t (off.toNat + k) (data.getD k 0)
    let base : FwSlot := if f.staged then f else { FwSlot.erased with staged := true }
    let img := (List.range (min len.toNat (2 ^ 26))).map (Tab.get State.erasedByte f.image)
    let good := (f.staged || f.commit) && decide (len.toNat ≤ 2 ^ 26) && Config.fwVerifies Config.fwKey img
    (Takes s h (.fwStage slot off data) → slot.toNat ≤ 1 → fits = true → n ≠ s.runningSlot →
      ∃ t, exec (.fwStage h slot off data) s = .next t ∧
        t.flash = { s.flash with fw := s.flash.fw.set n { base with image := (List.range data.length).foldl put base.image } } ∧
        (∀ k, k < data.length → Tab.get State.erasedByte t.flash.fw[n].image (off.toNat + k) = data.getD k 0) ∧
        t.kal.boxes[h.mbox].kept.map (·.status) = some 0 ∧ t.mem = s.mem ∧ t.ops = s.ops) ∧
    (Takes s h (.fwStage slot off data) → 1 < slot.toNat ∨ fits = false →
      said (.fwStage h slot off data) (.fwStage slot off data) .range) ∧
    (Takes s h (.fwStage slot off data) → slot.toNat ≤ 1 → fits = true → n = s.runningSlot →
      said (.fwStage h slot off data) (.fwStage slot off data) .denied) ∧
    (Takes s h (.fwCommit slot len) → slot.toNat ≤ 1 → n ≠ s.runningSlot →
      ∃ t, exec (.fwCommit h slot len) s = .next t ∧ t.rdB Reg.HRT_FW_COMMITTED 0 = good ∧
        t.kal.boxes[h.mbox].kept.map (·.status) = some (if good = true then 0 else 5) ∧
        t.flash = { s.flash with fw := s.flash.fw.set n (if good = true then { f with
          version := Config.fwVersionOf img, length := len, digest := BitVec.ofNat 256 (sha256N img),
          staged := false, commit := true, valid := true, raw := false } else .erased) } ∧ t.mem = s.mem ∧ t.ops = s.ops) ∧
    (Takes s h (.fwCommit slot len) → 1 < slot.toNat → said (.fwCommit h slot len) (.fwCommit slot len) .range) ∧
    (Takes s h (.fwCommit slot len) → slot.toNat ≤ 1 → n = s.runningSlot →
      said (.fwCommit h slot len) (.fwCommit slot len) .denied) ∧
    (Takes s h (.fwActivate slot) → slot.toNat ≤ 1 → f.commit = true → ∃ t, exec (.fwActivate h slot) s = .next t ∧
      Extended s t 1 (sha256 (State.fwHeader f)) ∧ t.rdB Reg.HRT_FW_ACTIVATING 0 = true ∧
      t.kal.activate = some ((ask h (.fwActivate slot)).hdr, slot.toNat) ∧ t.kal.running = some (ask h (.fwActivate slot)) ∧
      t.flash = s.flash ∧ t.mem = s.mem ∧ t.ops = s.ops) ∧
    (Takes s h (.fwActivate slot) → 1 < slot.toNat → said (.fwActivate h slot) (.fwActivate slot) .range) ∧
    (Takes s h (.fwActivate slot) → slot.toNat ≤ 1 → f.commit = false →
      said (.fwActivate h slot) (.fwActivate slot) .stale) ∧
    ∀ a q, s.kal.activate = some (a, n.val) → s.kal.running = some q → s.kalecUp = true → s.kal.restart = false →
      s.kal.waiting = [] → s.kal.leaseDue = false →
      (∃ t, exec (.fwHandoff true) s = .next t ∧ t.rd Reg.HRT_FW_RUNNING 0 = n.val ∧
        t.rdB Reg.HRT_FW_COMMITTED 0 = false ∧ t.rdB Reg.HRT_FW_ACTIVATING 0 = false ∧
        t.rd Reg.HRT_FW_ACTIVATIONS 0 = (s.rd Reg.HRT_FW_ACTIVATIONS 0 + 1) % 2 ^ 16 ∧
        t.rd Reg.HRT_FW_VER_VERSION 0 = f.version.toNat ∧ Raised s t 0x0605 0 none f.version.toNat ∧
        t.flash.fw = s.flash.fw.set n { f with
          seq := some ((s.flash.fw[s.runningSlot].seq.getD 0) + 1), commit := false } ∧
        t.kal.activate = none ∧ t.kal.running = none ∧ t.mem = s.mem ∧ t.ops = s.ops) ∧
      ∃ t, exec (.fwHandoff false) s = .next t ∧ t.rd Reg.HRT_FW_RUNNING 0 = s.rd Reg.HRT_FW_RUNNING 0 ∧
        t.rdB Reg.HRT_FW_ACTIVATING 0 = false ∧ t.rd Reg.HRT_FW_ACTIVATIONS 0 = (s.rd Reg.HRT_FW_ACTIVATIONS 0 + 1) % 2 ^ 16 ∧
        Extended s t 1 (sha256 (State.fwHeader s.flash.fw[s.runningSlot])) ∧ Raised s t 0x0606 0 none f.version.toNat ∧
        t.flash.fw = s.flash.fw ∧ t.kal.activate = none ∧ t.kal.running = none ∧ t.mem = s.mem ∧ t.ops = s.ops

/-- A restart of Kalec from stage MEMORY on keeps no request in progress, no claim and no waiting command; before that the
requests stay in their areas; an expiry during a handover rolls the handover back. The restarted Kalec serves again and raises
EV_KALEC_RESTART, and the third restart within the window holds TRAY_ALERT_N low. -/
def Obligations.KalecRestarts : Prop :=
  ∀ (s : State) (memErr third : Bool),
    (s.kalecServes = true → ∃ t, exec (.kalecWatchdogExpire memErr) s = .next t ∧ t.kal.restart = true ∧
      t.kal.restartMem = memErr ∧ t.kal.waiting = [] ∧ t.kal.claims = [] ∧ (∀ m : Fin 16, t.kal.boxes[m].cur = none) ∧
      (∀ m : Fin 16, ∀ q, s.kal.boxes[m].cur = some q → t.kal.boxes[m].cut = some q.hdr ∧ t.rd Reg.KAL_MB_STATUS_STATE m = 0) ∧
      (s.ownState = 1 → t.ownState = 0) ∧ t = { s with ctl := t.ctl, kal := t.kal }) ∧
    (s.powered = true → s.stage = 2 → s.rd Reg.PWR_STATUS_STATE 0 ≠ 3 → s.kal.restart = false → s.kal.activate = none →
      ∃ t, exec (.kalecWatchdogExpire memErr) s = .next t ∧
        RegsOnly { s with kal := { s.kal with restart := true, restartMem := memErr } } t []) ∧
    (s.coresRun = true → s.kal.restart = false → s.kal.activate.isSome = true →
      exec (.kalecWatchdogExpire false) s = exec (.fwHandoff false) s) ∧
    (s.coresRun = true → s.kal.restart = true → s.kal.waiting = [] → s.kal.running = none →
      ∃ t, exec (.kalecRestartDone third) s = .next t ∧ Raised s t 0x0103 0 none (if s.kal.restartMem then 2 else 1) ∧
        EventsOnly { s with
          kal := { s.kal with restart := false }
          pw := if third then { s.pw with alertHeld := true } else s.pw } t [])

/-! Tokens, quotes and start-up. -/

/-- Debug tokens (R486, R487): bytes are staged, a FINAL draws a new nonce and clears them; a token that passes every
check is accepted and M3 extended, any other is answered with what it fails; and each kind has its effect with its
answer: OBSERVE and BSCAN open the port, where BSCAN closes again at once in Doze (the model's choice, log entry 184), DEBUG
and RETURN order a lifecycle reset, FLOOR writes the next floor row. -/
def Obligations.DebugTokens : Prop :=
  ∀ (s : State) (h : KHdr) (off : Word) (data : List Byte) (q : Req) (arg : Word),
    (Takes s h (.debugToken off 0 data) → off.toNat + data.length ≤ 7920 → data.length ≤ 960 →
      ∃ t, exec (.debugToken h off 0 data) s = .next t ∧
        (∀ k, k < data.length → Tab.get (fun _ => none) t.sec.token (off.toNat + k) = some (data.getD k 0)) ∧
        t.sec = { s.sec with token := t.sec.token } ∧ t.kal.boxes[h.mbox].kept.map (·.status) = some 0) ∧
    (Takes s h (.debugToken off 1 data) → off.toNat + data.length ≤ 7920 → data.length ≤ 960 →
      let u := arrived s h (.debugToken off 1 data)
      let put (t : Tab (Option Byte)) (k : Nat) := Tab.set (fun _ => none) t (off.toNat + k) (some (data.getD k 0))
      let v := { u with sec := { u.sec with token := (List.range data.length).foldl put u.sec.token } }
      let st := match v.tokenBytes with
        | some bs => v.tokenCheck bs
        | none => .range
      ∃ t, exec (.debugToken h off 1 data) s = .next t ∧ t.sec.token = [] ∧
        t.rd Reg.SEC_DBG_NONCE_NONCE 0 = (Config.random s.free).toNat ∧
        (∀ bs, v.tokenBytes = some bs → st = .ok →
          t.sec.accepted = some (bits (ofBytes (bs.take 64)) 15 8, BitVec.ofNat 32 (bits (ofBytes (bs.take 64)) 63 32)) ∧
          t.kal.running = some (ask h (.debugToken off 1 data)) ∧ Extended s t 3 (sha256 bs)) ∧
        (st ≠ .ok → t.sec.accepted = s.sec.accepted ∧ t.kal.running = none ∧
          t.kal.boxes[h.mbox].kept.map (·.status) = some (kStatus st))) ∧
    (s.kal.running = some q → s.kalecServes = true →
      let clear : State := { s with sec := { s.sec with accepted := none } }
      let ends (u : State) : State := (u.answer q .ok []).runEnds
      (s.sec.accepted = some (1, arg) → exec .tokenObserve s = .next ((ends (clear.setPort 1)).kSettle.done s.pending)) ∧
      (s.sec.accepted = some (2, arg) → exec .tokenBscan s = .next ((ends clear.openScan).kSettle.done s.pending)) ∧
      (s.sec.accepted = some (3, arg) → exec .tokenDebug s = .next ((ends { clear with
        sec := { clear.sec with toState := some 2 } }).done s.pending)) ∧
      (s.sec.accepted = some (4, arg) → exec .tokenReturn s = .next ((ends { clear with
        fuses := { clear.fuses with lc := 3 }, sec := { clear.sec with toState := some 3 } }).done s.pending)) ∧
      (s.sec.accepted = some (5, arg) → exec .tokenFloor s = .next ((ends (({ clear with
        fuses := { clear.fuses with floors := clear.fuses.floors ++ [arg] } } : State).wr Reg.SEC_FLOOR_FLOOR 0
          arg.toNat)).kSettle.done s.pending)))

/-- SEC_CTRL (R481, R488): CLOSE returns OBSERVE and BSCAN to CLOSED, which M3 records; RESEAL in Debug orders a lifecycle
reset into Sealed. A lifecycle reset starts up anew from ROOT in the state ordered, with no owner, and counts; it keeps the
count of activations, and that it keeps the reductions of R467 is the model's choice (log entry 196). -/
def Obligations.ClosesAndLifecycleResets : Prop :=
  ∀ (s : State) (w : Writer),
    (writable s w 0x040004 = true → s.rd Reg.SEC_LC_PORT 0 = 1 ∨ s.rd Reg.SEC_LC_PORT 0 = 2 →
      ∃ t, exec (.close w) s = .next t ∧ t.rd Reg.SEC_LC_PORT 0 = 0 ∧ t.wres = .ok ∧ t.tap.drive = .functional ∧
        Extended s t 3 [0] ∧ t.mem = s.mem ∧ t.ops = s.ops) ∧
    (writable s w 0x040004 = true → s.rd Reg.SEC_LC_LC 0 = 2 → ∃ t, exec (.reseal w) s = .next t ∧
      RegsOnly { s with wres := .ok, sec := { s.sec with toState := some 1 } } t []) ∧
    ∀ lc, s.sec.toState = some lc → s.powered = true → ∃ t, exec .lifecycleReset s = .next t ∧ t.stage = 1 ∧
      t.rd Reg.HRT_OWNER_STATE 0 = 0 ∧ t.rd Reg.HRT_OWNER_ID_AGENT_ID 0 = 0 ∧ t.rd Reg.HRT_CD_HOLD_CD1 0 = 0 ∧
      t.rd Reg.SEC_LC_LC_RESETS 0 = (s.rd Reg.SEC_LC_LC_RESETS 0 + 1) % 2 ^ 16 ∧
      t.sec.debug = (lc == 2) ∧ t.sec.toState = none ∧ t.mem = [] ∧ t.fuses = s.fuses ∧
      t.flash = { s.flash with boot := s.flash.boot + 1 } ∧ t.ops = [] ∧
      t.rd Reg.HRT_WAKE_CNT_COUNT 0 = s.rd Reg.HRT_WAKE_CNT_COUNT 0 ∧
      t.rd Reg.HRT_FW_ACTIVATIONS 0 = s.rd Reg.HRT_FW_ACTIVATIONS 0 ∧ t.ms.degraded = s.ms.degraded ∧
      t.pw.bridgeOut = s.pw.bridgeOut ∧ t.word 0x080020 = s.word 0x080020 ∧
      ∀ a : Fin 4, t.anv[a].pll.failed = s.anv[a].pll.failed

/-- QUOTE (R476 to R478): where Lendephor holds its keys and no quote is under way the snapshot is taken with QSEQ one
higher; its end writes the quote buffer in one step, ends the signing, and answers the request, where it is still in
progress, with the body. Without the keys QUOTE is answered KS_DENIED. -/
def Obligations.Quotes : Prop :=
  ∀ (s : State) (h : KHdr) (nonce : BitVec 256),
    let u := arrived s h (.quote nonce)
    (Takes s h (.quote nonce) → s.keysHeld = true → s.kal.quoting = none →
      exec (.quote h nonce) s = .next ({ u with
        sec := { u.sec with qseq := s.sec.qseq + 1 },
        kal := { u.kal with quoting := some ((ask h (.quote nonce)).hdr, u.quoteBody nonce (s.sec.qseq + 1)) } }.done
          s.pending)) ∧
    (Takes s h (.quote nonce) → s.keysHeld = false →
      exec (.quote h nonce) s = .next (replied s u h (.quote nonce) .denied [])) ∧
    ∀ a body, s.powered = true → s.kal.quoting = some (a, body) →
      let buffer := (body.drop 4).take 4 ++ toBytes 4 448 ++ toBytes 4 17088 ++ toBytes 4 0 ++ body ++
        Config.slhSignFast (State.attSeeds s.lifecycle) body
      let v : State := { s with
        sec := { s.sec with quoteBuf := buffer }
        kal := { s.kal with quoting := none } }
      let q : Req := ⟨a, 0x07, some (.quote (BitVec.ofNat 256 (bits (ofBytes body) 511 256)))⟩
      exec .quoteSigned s = .next ((v.answer q .ok body).done s.pending) ∧
      ∃ t, exec .quoteSigned s = .next t ∧ t.kal.quoting = none ∧ t.sec = { s.sec with quoteBuf := buffer } ∧
        (s.kal.boxes[a.mbox].cur = some q → t.kal.boxes[a.mbox].kept.map (fun x => (x.status, x.payload)) = some (0, body))

/-- Start-up's stages (R391, R473, R474, R521, R526): from RAILS or ROOT Lendephor extends M0 and M3, shows the lifecycle
and the floor, and measures and loads the valid firmware with the higher SEQ, or ends in NOFW; in CONFIG the configuration
record in force is loaded and measured, or CFG_NONE set with EV_CONFIG_NONE, and MEMORY follows; READY follows with the
channels that training degraded, in Quench where FLOW_OK has not passed. -/
def Obligations.BootStages : Prop :=
  ∀ s : State, s.powered = true →
    (s.stage ≤ 1 →
      let lc := if s.fuses.lc = 1 ∧ s.sec.debug = true then 2 else s.fuses.lc
      let u : State := { s with flash := { s.flash with fw := s.flash.fw.map State.fwSettled } }
      let begun (t : State) : Prop := Extended s t 0 (toBytes 32 Config.romDigest.toNat) ∧
        Extended s t 3 [BitVec.ofNat 8 lc] ∧ t.rd Reg.SEC_LC_LC 0 = lc % 4 ∧
        t.rd Reg.SEC_LC_PORT 0 = (if lc = 1 then 0 else 3) ∧ t.rd Reg.SEC_FLOOR_FLOOR 0 = s.floorNow.toNat ∧
        t.rd Reg.SEC_DBG_NONCE_NONCE 0 = (Config.random s.free).toNat ∧ t.flash = u.flash ∧ t.mem = s.mem
      (∀ n, u.fwChoice = some n → ∃ t, exec .lendephorBoot s = .next t ∧ begun t ∧ t.stage = 2 ∧
        Extended s t 1 (sha256 (State.fwHeader u.flash.fw[n])) ∧ t.rd Reg.HRT_FW_RUNNING 0 = n.val ∧
        t.rd Reg.HRT_FW_VER_VERSION 0 = u.flash.fw[n].version.toNat) ∧
      (u.fwChoice = none → ∃ t, exec .lendephorBoot s = .next t ∧ begun t ∧ t.stage = 5 ∧ t.rdB Reg.SEC_LC_NOFW 0 = true)) ∧
    (s.stage = 2 → s.kal.restart = false →
      (∀ c, s.curCopy = some c →
        let x := s.flash.cfg[c]
        let v := ((x.entries.foldl (fun (y : State) e => y.loadEntry e) s).measureCopy x).wr Reg.HRT_CFG_SEQ_SEQ 0 x.seq.toNat
        exec .configLoad s = .next (((v.loadFences x.entries).wr Reg.HRT_BOOT_STAGE 0 3).takeEarly.done s.pending)) ∧
      (s.curCopy = none → s.kal.early = [] → s.kal.waiting = [] → s.kal.running = none → ∃ t, exec .configLoad s = .next t ∧
        t.stage = 3 ∧ t.rdB Reg.HRT_BOOT_CFG_NONE 0 = true ∧ Raised s t 0x0603 0 none 0 ∧ t.mem = s.mem ∧ t.ops = s.ops)) ∧
    ∀ degraded, s.stage = 3 → s.kal.held = [] → s.kal.waiting = [] → s.kal.running = none →
      ∃ t, exec (.bootReady degraded) s = .next t ∧ t.stage = 4 ∧ t.ms.retired = s.bootRetired ∧
        (∀ c ∈ degraded, c ∈ t.ms.degraded ∧ t.rdB Reg.HRT_BOOT_PHY_DEGRADED 0 = true) ∧
        (s.pw.flowOk = false → t.quench = true) ∧
        (degraded = [] → s.pw.flowOk = true → RegsOnly { s with ms := { s.ms with
          retired := s.bootRetired, mapMoved := State.bootMaps s.bootRetired } } t [0x000020])

/-! Memory's registers. -/

/-- Partition changes and allocation (R269, R276): an accepted partition write shows its areas and APPLYING, and the
pages in the frames it takes begin to leave, until none is left and the change is carried out; ALLOC, FREE and SETFLAGS
act on the range of the MEM_ALLOC registers, set BUSY, and change no byte outside it; their end sets DONE and raises
EV_ALLOC_DONE; UNPROTECT ends the protection of the memory-side cache. -/
def Obligations.PartitionsAndAllocation : Prop :=
  ∀ (s : State) (w : Writer) (d : Die) (v : Word) (flags die : BitVec 2),
    let msc := bits v.toNat 5 0
    let win := bits v.toNat 15 8
    let stg := bits v.toNat 21 16
    let fcap := bits v.toNat 27 24
    let first := s.firstOf d (8 * (msc + win + stg + fcap))
    let leave (x : State) (p : Nat) : State := if x.inTaken p = true then x.leaveScratch p else x
    let drained := State.drainScratch leave (s.diePages d) s
    let b := s.allocRange.1
    let n := s.allocRange.2
    let ready : Prop := writable s w 0x07010C = true ∧ n ≠ 0 ∧ b + n ≤ resPage ∧ s.ms.alloc = none
    let shows (t : State) (op : Nat) : Prop := t.rdB Reg.MEM_ALLOC_STATUS_BUSY 0 = true ∧
      t.ms.alloc = some ⟨op, die.toNat, b, n⟩ ∧ t.rd Reg.MEM_ALLOC_CTRL_OP 0 = op ∧
      t.rd Reg.MEM_ALLOC_CTRL_FLAGS 0 = flags.toNat ∧ (die ≠ 3 → t.rd Reg.MEM_ALLOC_CTRL_DIE 0 = die.toNat) ∧
      ∀ p, within b n p = false → Tab.get noPoison t.ms.poison p = Tab.get noPoison s.ms.poison p ∧
        ∀ o, p < resPage → o < 2 ^ 18 → t.byte (p * 2 ^ 18 + o) = s.byte (p * 2 ^ 18 + o)
    let alone (t : State) : Prop := (∀ p, within b n p = false → t.ent p = s.ent p) ∧
      ∀ a, a ∉ [0x07010C, 0x070110] → a ∉ statusWords → t.word a = s.word a
    (writable s w (0x070000 + 4 * d.val) = true → msc ≤ 48 → win ≤ 128 → stg ≤ 32 → fcap ≤ 8 →
      msc + win + stg + fcap ≤ 192 → s.rdB Reg.MEM_TS_PART_APPLYING d = false →
      (s.rd Reg.MEM_TS_PART_STAGE d ≤ stg ∨ s.ckptInFlight d = false) →
      (s.rd Reg.MEM_TS_PART_FCAP d ≤ fcap ∨ s.rdB Reg.MEM_FCAP_STATUS_UNREAD d = false) →
      (∀ pe ∈ s.ms.tier, pe.2.state ≠ .unmapped → pe.2.die = d → pe.2.home = 0 → pe.2.cpin = true → pe.2.nframe < first) →
      let u := ((((s.wr Reg.MEM_TS_PART_MSC d msc).wr Reg.MEM_TS_PART_WIN d win).wr Reg.MEM_TS_PART_STAGE d stg).wr
        Reg.MEM_TS_PART_FCAP d fcap).wrB Reg.MEM_TS_PART_APPLYING d true
      exec (.tsPartitionWrite w d v) s = .next (wrote s ((u.diePages d).foldl leave u)) ∧
      ∃ t, exec (.tsPartitionWrite w d v) s = .next t ∧ t.rd Reg.MEM_TS_PART_MSC d = msc ∧
        t.rd Reg.MEM_TS_PART_WIN d = win ∧ t.rd Reg.MEM_TS_PART_STAGE d = stg ∧ t.rd Reg.MEM_TS_PART_FCAP d = fcap ∧
        t.rdB Reg.MEM_TS_PART_APPLYING d = true ∧ t.mem = s.mem ∧ t.ms.poison = s.ms.poison ∧
        ((∀ p ∈ s.diePages d, u.inTaken p = false) → RegsOnly { s with wres := .ok } t [0x070000 + 4 * d.val])) ∧
    (s.memUp = true → s.quench = false → s.rdB Reg.MEM_TS_PART_APPLYING d = true →
      (drained.partClear d = false → exec (.tsPartitionDone d) s = .next (drained.done s.pending)) ∧
      (drained.partClear d = true → ∃ t, exec (.tsPartitionDone d) s = .next t ∧
        t.rdB Reg.MEM_TS_PART_APPLYING d = false ∧
        t.ms.part[d].toNat = putBits (drained.word (0x070000 + 4 * d.val)).toNat 31 31 0 ∧
        t.ms.fills[d] = State.keepFills (32 * drained.rd Reg.MEM_TS_PART_WIN d) drained.ms.fills[d] ∧
        (d = 0 → drained.rd Reg.MEM_TS_PART_STAGE 0 = 0 → ∀ n : Fin 8, t.slots[n].snap = none) ∧
        t.mem = drained.mem ∧ t.ms.poison = drained.ms.poison ∧ t.ops = s.ops ∧ t.rings = s.rings)) ∧
    (ready → die ≠ 3 → (∀ p, within b n p = true → s.isMapped p = false) → s.allocRoom flags die b n = true →
      exec (.alloc w flags die) s = .next (wrote s ((span b n).foldl (fun (x : State) p =>
        x.allocPage p (State.allocDie die b p) flags) ((s.setAllocCtrl 0 flags die).startAlloc 0 die))) ∧
      ∃ t, exec (.alloc w flags die) s = .next t ∧ shows t 0) ∧
    (ready → s.windowOver none (b * 2 ^ 18) (n * 2 ^ 18) = none → s.poolOver none (b * 2 ^ 18) (n * 2 ^ 18) = none →
      ∃ t, exec (.free w flags die) s = .next t ∧ shows t 1 ∧ alone t ∧
        ∀ p, within b n p = true → s.isMapped p = true → (s.ent p).lock = false → t.ent p = .unmapped) ∧
    (ready → (flags = 3 → ∀ p, within b n p = true → (s.ent p).cpin = false) → (flags = 2 → s.pinRoom b n = true) →
      ∃ t, exec (.setflags w flags die) s = .next t ∧ shows t 2 ∧ alone t ∧ t.mem = s.mem ∧
        ∀ p, within b n p = true → s.isMapped p = true → t.ent p = { s.ent p with flags := flags }) ∧
    (∀ o, s.memUp = true → s.ms.alloc = some o → ∃ t, exec .allocDone s = .next t ∧
      t.rdB Reg.MEM_ALLOC_STATUS_BUSY 0 = false ∧ t.rdB Reg.MEM_ALLOC_STATUS_DONE 0 = true ∧
      Raised s t 0x040A 0 none o.op ∧ EventsOnly { s with ms := { s.ms with alloc := none } } t [0x070110]) ∧
    (writable s w 0x070300 = true → 2 ≤ bits v.toNat 6 0 → bits v.toNat 6 0 ≤ 64 → bits v.toNat 13 8 ≠ 0 →
      ∃ t, exec (.unprotect w v) s = .next t ∧ t.rd Reg.MEM_ARB_CFG_N 0 = bits v.toNat 6 0 ∧
        t.rd Reg.MEM_ARB_CFG_BG_SHARE 0 = bits v.toNat 13 8 ∧ t.rd Reg.MEM_ARB_CFG_KEEP_WAYS 0 = bits v.toNat 19 16 ∧
        (∀ e : Die, (∀ c ∈ t.ms.msc[e], c.prot = false) ∧ t.ms.msc[e].map (·.line) = s.ms.msc[e].map (·.line)) ∧
        RegsOnly { s with wres := .ok, ms := { s.ms with msc := t.ms.msc } } t [0x070300])

/-- Crucible windows, pools and weight ranges (R173, R174, R231, R283): an enabled window shows ZEROING, its words read
0 and its pages are pinned, and once all have their place EV_CRUCIBLE_READY is raised, their shadows are stale and the
writes that waited are made; a disabled one gives its pages up; a pool starts with every frame in its free ring and EV_KV_POOL_READY; a range's fills are discarded when it is
disabled. -/
def Obligations.WindowsPoolsAndRanges : Prop :=
  ∀ (s : State) (w : Writer) (n : Fin 16) (limit : BitVec 16) (tiled : Bool),
    let b := (s.windowRange n).1
    let k := (s.windowRange n).2
    let z := (span b k).foldl (fun (x : State) p => if (x.ent p).shadow then x.setEnt p { x.ent p with dirty := true } else x) s
    let zeroed := ((z.wrB Reg.MEM_CRU_STATUS_ZEROING n false).wrB Reg.MEM_CRU_STATUS_READY n true).raise 0x0401 n none 0
    let wb := (s.weightRange n).1
    let wk := (s.weightRange n).2
    let frames := s.rd Reg.MEM_KV_CFG_NFRAMES n
    (writable s w (0x07800C + 32 * n.val) = true → s.rdB Reg.MEM_CRU_CTRL_EN n = false → k ≠ 0 → b + k ≤ resPage →
      s.windowOver (some n) (b * 2 ^ 18) (k * 2 ^ 18) = none →
      (∀ p, within b k p = true → s.isMapped p = true → (s.ent p).flags ≠ 3) →
      ∃ t, exec (.crucibleEnable w n) s = .next t ∧ t.rdB Reg.MEM_CRU_CTRL_EN n = true ∧
        t.rdB Reg.MEM_CRU_STATUS_ZEROING n = true ∧ t.ops = s.ops ∧
        (∀ p o, p < resPage → o < 2 ^ 18 → t.byte (p * 2 ^ 18 + o) =
          if within b k p = true ∧ s.isMapped p = true then 0 else s.byte (p * 2 ^ 18 + o)) ∧
        (∀ p, within b k p = true → s.isMapped p = true → Tab.get noPoison t.ms.poison p = 0) ∧
        ((∀ p, within b k p = true → (s.ent p).home ≠ 2) →
          (∀ p, within b k p = true → s.isMapped p = true → (s.ent p).lock = false → (t.ent p).cpin = true) ∧
          ∀ p, within b k p = false → t.ent p = s.ent p)) ∧
    (s.memUp = true → s.quench = false → s.rdB Reg.MEM_CRU_STATUS_ZEROING n = true →
      (s.windowPlaced n = true →
        exec (.crucibleReady n) s = .next ((zeroed.heldWrites n).done s.pending) ∧
        (∀ p, z.ent p = if within b k p = true ∧ (s.ent p).shadow = true then { s.ent p with dirty := true } else s.ent p) ∧
        ((∀ x ∈ s.ms.held, within b k (x.line / 4096) = false) → ∃ t, exec (.crucibleReady n) s = .next t ∧
          t.rdB Reg.MEM_CRU_STATUS_ZEROING n = false ∧ t.rdB Reg.MEM_CRU_STATUS_READY n = true ∧
          Raised s t 0x0401 n none 0 ∧ EventsOnly z t [0x078010 + 32 * n.val])) ∧
      (s.windowPlaced n = false → ∃ t, exec (.crucibleReady n) s = .next t ∧ RegsOnly s t [])) ∧
    (writable s w (0x07800C + 32 * n.val) = true → s.rdB Reg.MEM_CRU_CTRL_EN n = true →
      s.rdB Reg.MEM_CRU_STATUS_ZEROING n = false → s.windowWritten n = false →
      ∃ t, exec (.crucibleDisable w n) s = .next t ∧ t.rdB Reg.MEM_CRU_CTRL_EN n = false ∧
        t.rdB Reg.MEM_CRU_STATUS_READY n = false ∧ t.mem = s.mem ∧ t.ms.poison = s.ms.poison ∧
        (∀ p, t.ent p = if within b k p = true then { s.ent p with cpin := false } else s.ent p) ∧
        ∀ a, a ∉ [0x07800C + 32 * n.val, 0x078010 + 32 * n.val] → a ∉ statusWords → t.word a = s.word a) ∧
    (writable s w (0x07900C + 64 * n.val) = true → s.rdB Reg.MEM_KV_CTRL_EN n = false → frames ≠ 0 →
      s.poolBase n + s.poolBytes n ≤ spaceEnd → s.poolOver (some n.val) (s.poolBase n) (s.poolBytes n) = none →
      s.windowOver none (s.poolBase n) (s.poolBytes n) = none →
      let u := (s.wr Reg.MEM_KV_CTRL_STALL_LIMIT n limit.toNat).modPool n fun _ => ⟨[], false, [], 0, [], [], []⟩
      let u := (List.range frames).foldl (fun (x : State) f => x.setCount n f 0) u
      let u := (List.range frames).foldl (fun (x : State) f => x.store (x.kvVia n) (x.poolBase n + 4 * f) (toBytes 4 f)) u
      let u := ((u.wr Reg.MEM_KV_STATUS_FREE n frames).wr Reg.MEM_KV_LIMBO_LIMBO n 0).wrB Reg.MEM_KV_CTRL_EN n true
      exec (.kvPoolEnable w n limit) s = .next (wrote s ((u.wrB Reg.MEM_KV_STATUS_READY n true).raise 0x0404 n none 0))) ∧
    (writable s w (0x07900C + 64 * n.val) = true → s.rdB Reg.MEM_KV_CTRL_EN n = true →
      (∀ o ∈ s.ops, State.poolNamed o ≠ some n.val) →
      ∃ t, exec (.kvPoolDisable w n limit) s = .next t ∧ t.rdB Reg.MEM_KV_CTRL_EN n = false ∧
        t.rdB Reg.MEM_KV_STATUS_READY n = false ∧ t.rd Reg.MEM_KV_CTRL_STALL_LIMIT n = limit.toNat ∧
        RegsOnly { s with wres := .ok } t [0x07900C + 64 * n.val, 0x079010 + 64 * n.val]) ∧
    (writable s w (0x07100C + 16 * n.val) = true → wk ≠ 0 → wb + wk ≤ resPage →
      (∀ q, q < 16 → q ≠ n.val → s.rdB Reg.MEM_WR_CTRL_EN q = true →
        State.overlaps wb wk (s.weightRange q).1 (s.weightRange q).2 = false) →
      ∃ t, exec (.weightRangeEnable w n tiled) s = .next t ∧ t.rdB Reg.MEM_WR_CTRL_EN n = true ∧
        t.rdB Reg.MEM_WR_CTRL_TILED n = tiled ∧ RegsOnly { s with wres := .ok } t [0x07100C + 16 * n.val]) ∧
    (writable s w (0x07100C + 16 * n.val) = true →
      ∃ t, exec (.weightRangeDisable w n tiled) s = .next t ∧ t.rdB Reg.MEM_WR_CTRL_EN n = false ∧
        t.rdB Reg.MEM_WR_CTRL_TILED n = tiled ∧
        (∀ d : Die, ∀ f ∈ t.ms.fills[d], within (wb * 2 ^ 18) (wk * 2 ^ 18) f.base = true → f.ivals = []) ∧
        RegsOnly { s.killFills (fun f => within (wb * 2 ^ 18) (wk * 2 ^ 18) f.base) with wres := .ok } t
          [0x07100C + 16 * n.val])

/-! The sequencers' and the network's registers. -/

/-- Ring configuration, interleave tables and DISARM (R124, R157, R266): a configured ring of a slot in FREE or OPEN
starts at count 0, and in any other state the write has no effect and earns KS_BUSY; a load keeps its table's place and
length, and its end shows LOAD_ERR with EV_ITAB_ERR at the first bad entry, or holds the table until the Anvils take it;
a disarmed slot's layers end. -/
def Obligations.RingsTablesAndDisarm : Prop :=
  ∀ (s : State) (w : Writer) (r : RingId) (reg : Fin 3) (d : Die) (v : Word) (slots : Byte),
    let n := bits v.toNat 12 0
    let a := s.rd Reg.STR_ITAB_ADDR_HI_ADDR_HI d * 2 ^ 32 + s.rd Reg.STR_ITAB_ADDR_LO_ADDR_LO d * 2 ^ 6
    let q := s.seqr[d]
    let x := s.anv[Fin.ofNat 4 (2 * d.val)]
    let y := s.anv[Fin.ofNat 4 (2 * d.val + 1)]
    (writable s w (0x021000 + 0x40 * r.val + 4 * reg.val) = true → s.slotState (State.ringSlot r) ≤ 1 →
      (reg = 2 → bits v.toNat 4 0 = 0 ∨ 4 ≤ bits v.toNat 4 0 ∧ bits v.toNat 4 0 ≤ 16) →
      ∃ t, exec (.ringConfigWrite w r reg v) s = .next t ∧
        (reg = 0 → t.rd Reg.STR_RING_BASE_LO_BASE_LO r = bits v.toNat 31 12) ∧
        (reg = 1 → t.rd Reg.STR_RING_BASE_HI_BASE_HI r = bits v.toNat 8 0) ∧
        (reg = 2 → t.rd Reg.STR_RING_CFG_LOG2N r = bits v.toNat 4 0) ∧ t.rd Reg.STR_RING_HEAD_COUNT r = 0 ∧
        t.rd Reg.STR_RING_TAIL_COUNT r = 0 ∧ t.rd Reg.STR_RING_DONE_COUNT r = 0 ∧
        RegsOnly { s with wres := .ok } t [0x021000 + 0x40 * r.val + 4 * reg.val, 0x02100C + 0x40 * r.val,
          0x021010 + 0x40 * r.val, 0x021014 + 0x40 * r.val]) ∧
    (writable s w (0x021000 + 0x40 * r.val + 4 * reg.val) = true → 2 ≤ s.slotState (State.ringSlot r) →
      ∃ t, exec (.ringConfigWrite w r reg v) s = .next t ∧ (∃ cls idx, t.wres = .busy cls idx) ∧
        RegsOnly { s with wres := t.wres } t []) ∧
    (writable s w (0x020108 + 0x40 * d.val) = true → 1 ≤ n → n ≤ 4096 → s.rdB Reg.STR_ITAB_STATUS_PENDING d = false →
      ∃ t, exec (.itabLoad w d v) s = .next t ∧ t.rd Reg.STR_ITAB_CTRL_LEN d = n ∧
        t.rdB Reg.STR_ITAB_CTRL_LEND d = bit v.toNat 13 ∧
        RegsOnly { s with
          wres := .ok
          seqr := s.seqr.set d { q with loading := some (a, n, bit v.toNat 13) } } t [0x020108 + 0x40 * d.val]) ∧
    (∀ a n lend, s.memUp = true → q.loading = some (a, n, lend) →
      let ws := (List.range n).map fun i => s.peek (a + 4 * i) 4
      let bad (i : Nat) : Bool := State.badEntry (ws.getD i 0) || s.poisoned (a + 4 * i) 4
      (∀ i, i < n → bad i = true → (∀ j, j < i → bad j = false) → ∃ t, exec (.itabLoadDone d) s = .next t ∧
        t.rdB Reg.STR_ITAB_STATUS_LOAD_ERR d = true ∧ t.seqr = s.seqr.set d { q with loading := none } ∧ t.anv = s.anv ∧
        Raised (s.readRange ⟨d, none, false, 0⟩ a (4 * n)) t 0x0303 d none i) ∧
      ((∀ i, i < n → bad i = false) → ∃ t, exec (.itabLoadDone d) s = .next t ∧
        t.rdB Reg.STR_ITAB_STATUS_LOAD_ERR d = false ∧ t.seqr[d].loading = none ∧
        (s.rdB Reg.ANV_FENCE_WITHDRAWN (2 * d.val) = false → s.rdB Reg.ANV_FENCE_WITHDRAWN (2 * d.val + 1) = false →
          t.rdB Reg.STR_ITAB_STATUS_PENDING d = true ∧ t.seqr[d].pending = some (ws.map (BitVec.ofNat 32), lend) ∧
          t.anv = s.anv) ∧
        (s.rdB Reg.ANV_FENCE_WITHDRAWN (2 * d.val) = true → s.rdB Reg.ANV_FENCE_WITHDRAWN (2 * d.val + 1) = true →
          x.switched = false → y.switched = false → t.rdB Reg.STR_ITAB_STATUS_PENDING d = false ∧
          t.seqr[d].pending = none ∧ ∀ k : Fin 4, k.val / 2 = d.val → t.anv[k].table = ws.map (BitVec.ofNat 32) ∧
            t.anv[k].lend = lend ∧ t.anv[k].switched = false))) ∧
    (writable s w 0x090000 = true →
      exec (.disarm w slots) s = .next (wrote s ((List.finRange 8).foldl
        (fun (x : State) n => if bit slots.toNat n.val then x.disarmSlot n else x) s)) ∧
      (∃ t, exec (.disarm w slots) s = .next t ∧ ∀ l ∈ t.layers, bit slots.toNat (State.ringSlot l.ring) = false) ∧
      ((∀ l ∈ s.layers, bit slots.toNat (State.ringSlot l.ring) = false) →
        ∃ t, exec (.disarm w slots) s = .next t ∧ RegsOnly { s with wres := .ok } t []))

/-- The network's registers and REGISTER_WRITE (R14, R329, R331, R333, R341, R360, R363, R472): fault injection armed seeds
its generator, extends M4 with the port and its registers and raises EV_FI_ARMED, and disarmed shows so; a port's
configuration, the device number and an epoch take their fields, PREEMPT = 0 ends preemption, and the waiting packets go to
the connections of a new device number; an address that holds no register earns KS_RANGE and no
effect, and a write at the register of a port's configuration, of the device number or of an epoch is that command. -/
def Obligations.NetworkRegisters : Prop :=
  ∀ (s : State) (w : Writer) (p : Fin 8) (u : Fin 88) (addr : BitVec 24) (v : Word),
    let fi := 0x060040 + 0x400 * p.val
    let cfg := s.plainWrite (0x060000 + 0x400 * p.val) v.toNat
    let done := if bit v.toNat 5 then cfg else cfg.wrB Reg.NET_PORT_STATUS_PREEMPT_ACTIVE p false
    (writable s w fi = true → bits v.toNat 15 8 ≠ 0 → s.rdB Reg.NET_FI_CTRL_ARM p = false →
      ∃ t, exec (.fiArm w p v) s = .next t ∧ t.rdB Reg.NET_FI_CTRL_ARM p = true ∧
        t.rd Reg.NET_FI_CTRL_CLASSES p = bits v.toNat 7 4 ∧ t.rd Reg.NET_FI_CTRL_REORDER_DEPTH p = bits v.toNat 15 8 ∧
        t.rdB Reg.NET_FI_CTRL_DROP_EN p = bit v.toNat 1 ∧ t.rdB Reg.NET_FI_CTRL_CORRUPT_EN p = bit v.toNat 2 ∧
        t.rdB Reg.NET_FI_CTRL_REORDER_EN p = bit v.toNat 3 ∧ t.rdB Reg.NET_PORT_STATUS_FI_ARMED p = true ∧
        Extended s t 4 (toBytes 32 (ofBytes (sha256 (BitVec.ofNat 8 p.val :: t.ctlBytes fi 12)))) ∧ Raised s t 0x0505 p none 0 ∧
        EventsOnly { s with
          wres := .ok
          net := { s.net with fi := s.net.fi.set p { s.net.fi[p] with lfsr := s.word (fi + 8) } }
          sec := { s.sec with everArm := s.sec.everArm ||| BitVec.ofNat 8 (2 ^ p.val) } } t
          (fi :: (0x060004 + 0x400 * p.val) :: 0x040210 :: (List.range 8).map (0x040180 + 4 * ·))) ∧
    (writable s w fi = true → bits v.toNat 15 8 ≠ 0 → ∃ t, exec (.fiDisarm w p v) s = .next t ∧
      t.rdB Reg.NET_FI_CTRL_ARM p = false ∧ t.rdB Reg.NET_PORT_STATUS_FI_ARMED p = false ∧
      RegsOnly { s with wres := .ok } t [fi, 0x060004 + 0x400 * p.val]) ∧
    (writable s w 0x062000 = true → (∀ n, n < 8 → s.slotState n ≠ 2) →
      exec (.netDevIdWrite w v) s = .next (wrote s ((s.wr Reg.NET_DEV_ID_DEV_ID 0 (bits v.toNat 15 0)).reidentify.pumpAll))) ∧
    (writable s w (0x060000 + 0x400 * p.val) = true → bits v.toNat 3 0 < 8 → bits v.toNat 18 7 ≠ 4095 →
      (s.rdB Reg.NET_PORT_CFG_EN p = true → s.rd Reg.NET_PORT_CFG_MODE p = bits v.toNat 3 0 ∧
        s.rd Reg.NET_PORT_CFG_FAMILY p = bits v.toNat 6 6 ∧ s.rd Reg.NET_PORT_CFG_VID p = bits v.toNat 18 7) →
      exec (.portCfgWrite w p v) s = .next (wrote s (if bit v.toNat 4 then done else done.linkDown p)) ∧
      cfg.rd Reg.NET_PORT_CFG_MODE p = bits v.toNat 3 0 ∧ cfg.rdB Reg.NET_PORT_CFG_EN p = bit v.toNat 4 ∧
      cfg.rdB Reg.NET_PORT_CFG_PREEMPT p = bit v.toNat 5 ∧ cfg.rd Reg.NET_PORT_CFG_FAMILY p = bits v.toNat 6 6 ∧
      cfg.rd Reg.NET_PORT_CFG_VID p = bits v.toNat 18 7) ∧
    (writable s w (0x064000 + 4 * u.val) = true → ∃ t, exec (.epochWrite w u v) s = .next t ∧
      t.rd Reg.NET_EPOCH_EPOCH u = bits v.toNat 15 0 ∧ RegsOnly { s with wres := .ok } t [0x064000 + 4 * u.val]) ∧
    (writable s w addr.toNat = true →
      (hasReg addr.toNat = false → ∃ t, exec (.registerWrite w addr v) s = .next t ∧
        RegsOnly { s with wres := .range } t []) ∧
      (within 0x070100 8 addr.toNat = true → addr.toNat % 4 = 0 → ∃ t, exec (.registerWrite w addr v) s = .next t ∧
        (addr.toNat = 0x070100 → t.rd Reg.MEM_ALLOC_BASE_LO_BASE_LO 0 = bits v.toNat 31 18) ∧
        (addr.toNat = 0x070104 → t.rd Reg.MEM_ALLOC_BASE_HI_BASE_HI 0 = bits v.toNat 8 0) ∧
        RegsOnly { s with wres := .ok } t [addr.toNat])) ∧
    ∀ a : Nat, addr.toNat = a →
      (a = 0x060000 + 0x400 * p.val → exec (.registerWrite w addr v) s = exec (.portCfgWrite w p v) s) ∧
      (a = 0x062000 → exec (.registerWrite w addr v) s = exec (.netDevIdWrite w v) s) ∧
      (a = 0x064000 + 4 * u.val → exec (.registerWrite w addr v) s = exec (.epochWrite w u v) s)

/-- Fault capture, sampling and the lead (R458 to R460, R513, R519): an armed capture starts empty and takes countdown 3
for a post-trigger delay, and a DUMP asked for with it earns KS_BUSY; its trigger, or the end of the delay, stops it with
EV_CAPTURE; a dump copies its records to DST and releases it; sampling takes countdown 3 and each sample is written at POS, which advances; LEAD names the lead
slot. -/
def Obligations.CaptureAndSamples : Prop :=
  ∀ (s : State) (w : Writer) (d : Die) (v : Word) (lead : BitVec 3),
    let ctl := 0x070500 + 0x20 * d.val
    let st := 0x070504 + 0x20 * d.val
    let post := s.rd Reg.MEM_FCAP_CTRL_POST d
    let cd3 := s.rd Reg.HRT_CD_HOLD_CD3 0
    let c := s.tel.capture[d]
    let fields (t : State) : Prop := t.rd Reg.MEM_FCAP_CTRL_SRC d = bits v.toNat 3 0 ∧
      t.rd Reg.MEM_FCAP_CTRL_AUXTRIG d = bits v.toNat 5 5 ∧ t.rd Reg.MEM_FCAP_CTRL_POST d = bits v.toNat 15 8 ∧
      t.rd Reg.MEM_FCAP_CTRL_TRIG_CODE d = bits v.toNat 31 16
    let stopped (t : State) : Prop := t.rdB Reg.MEM_FCAP_CTRL_ARM d = false ∧
      t.rdB Reg.MEM_FCAP_STATUS_TRIGGERED d = true ∧ t.rdB Reg.MEM_FCAP_STATUS_UNREAD d = true ∧
      t.rd Reg.HRT_CD_HOLD_CD3 0 = (if post = 0 then cd3 else 0) ∧
      Raised s t 0x040E d none (s.rd Reg.MEM_FCAP_STATUS_RECORDS d) ∧ t.tel.capture[d] = { c with posting := false } ∧
      EventsOnly s t []
    (writable s w ctl = true → bits s.ms.part[d].toNat 27 24 ≠ 0 → s.rdB Reg.MEM_FCAP_CTRL_ARM d = false →
      s.rdB Reg.MEM_FCAP_STATUS_UNREAD d = false → bit v.toNat 6 = false → (bits v.toNat 15 8 = 0 ∨ cd3 = 0) →
      ∃ t, exec (.captureArm w d v) s = .next t ∧ fields t ∧ t.rdB Reg.MEM_FCAP_CTRL_ARM d = true ∧
        t.rd Reg.MEM_FCAP_STATUS_RECORDS d = 0 ∧ t.rdB Reg.MEM_FCAP_STATUS_DROPPED d = false ∧
        t.rd Reg.HRT_CD_HOLD_CD3 0 = (if bits v.toNat 15 8 = 0 then cd3 else 2) ∧
        RegsOnly { s with wres := .ok, tel := { s.tel with capture := s.tel.capture.set d ⟨[], 0, false⟩ } } t
          [ctl, st, 0x000180]) ∧
    (writable s w ctl = true → bits s.ms.part[d].toNat 27 24 ≠ 0 → bit v.toNat 6 = true → ∃ t,
      exec (.captureArm w d v) s = .next t ∧ RegsOnly { s with wres := .busy 7 d.val } t []) ∧
    (writable s w ctl = true → ∃ t, exec (.captureDisarm w d v) s = .next t ∧ fields t ∧
      t.rdB Reg.MEM_FCAP_CTRL_ARM d = false ∧
      t.rd Reg.HRT_CD_HOLD_CD3 0 = (if s.rdB Reg.MEM_FCAP_CTRL_ARM d = true ∧ post ≠ 0 then 0 else cd3) ∧
      RegsOnly { s with wres := .ok, tel := { s.tel with capture := s.tel.capture.set d { c with posting := false } } } t
        [ctl, 0x000180]) ∧
    (∀ pin : Fin 2, s.powered = true → s.rdB Reg.HRT_AUX_TRIPPED 0 = false →
      (if pin = 0 then s.rd Reg.HRT_AUX_FUNC0 0 else s.rd Reg.HRT_AUX_FUNC1 0) = 2 →
      s.rdB Reg.MEM_FCAP_CTRL_AUXTRIG d = true → s.rdB Reg.MEM_FCAP_CTRL_ARM d = true → c.posting = false →
      (∀ e : Die, e ≠ d → s.rdB Reg.MEM_FCAP_CTRL_AUXTRIG e = false) →
      ∃ t, exec (.auxCaptureEdge pin) s = .next t ∧ (post = 0 → stopped t) ∧
        (post ≠ 0 → RegsOnly { s with tel := { s.tel with
          capture := s.tel.capture.set d { c with posting := true } } } t [])) ∧
    (c.posting = true → ∃ t, exec (.capturePostExpire d) s = .next t ∧ stopped t) ∧
    (writable s w ctl = true → s.rdB Reg.MEM_FCAP_STATUS_TRIGGERED d = true → s.rdB Reg.MEM_FCAP_STATUS_DUMPING d = false →
      let u := (s.captureFields d v.toNat).wrB Reg.MEM_FCAP_STATUS_DUMPING d true
      exec (.captureDump w d v) s = .next (wrote s (u.store ⟨d, none, false, 1⟩ (s.rd Reg.MEM_FCAP_DST_DST d * 64)
        (c.recs.flatMap fun r => toBytes 64 r.toNat))) ∧ fields u) ∧
    (s.rdB Reg.MEM_FCAP_STATUS_DUMPING d = true → ∃ t, exec (.captureDumpDone d) s = .next t ∧
      t.rdB Reg.MEM_FCAP_STATUS_DUMPING d = false ∧ t.rdB Reg.MEM_FCAP_STATUS_UNREAD d = false ∧
      t.rdB Reg.MEM_FCAP_STATUS_TRIGGERED d = false ∧ RegsOnly s t [st]) ∧
    (writable s w 0x03F008 = true → bits v.toNat 23 0 ≠ 0 → s.rd Reg.TEL_SRING_LEN_LEN 0 ≠ 0 → cd3 ≠ 2 →
      ∃ t, exec (.sampleEnable w v) s = .next t ∧ t.rd Reg.TEL_SAMPLE_CTRL_PERIOD 0 = bits v.toNat 23 0 ∧
        t.rdB Reg.TEL_SAMPLE_CTRL_EN 0 = true ∧ t.rd Reg.HRT_CD_HOLD_CD3 0 = 1 ∧
        RegsOnly { s with wres := .ok } t [0x03F008, 0x000180]) ∧
    (s.rdB Reg.TEL_SAMPLE_CTRL_EN 0 = true → s.memUp = true → s.rd Reg.TEL_SRING_LEN_LEN 0 ≠ 0 →
      let pos := s.rd Reg.TEL_SRING_LEN_POS 0
      let base := s.rd Reg.TEL_SRING_HI_BASE_HI 0 * 2 ^ 32 + s.rd Reg.TEL_SRING_LO_BASE_LO 0 * 2 ^ 6
      exec .telemetrySample s = .next (((s.takeDseq.store ⟨0, none, false, 1⟩ (base + 64 * pos)
        (toBytes 64 s.sampleRecord)).wr Reg.TEL_SRING_LEN_POS 0 ((pos + 1) % s.rd Reg.TEL_SRING_LEN_LEN 0)).done
        s.pending)) ∧
    (writable s w 0x03F000 = true → ∃ t, exec (.leadWrite w lead) s = .next t ∧ t.rd Reg.TEL_CTRL_LEAD 0 = lead.toNat ∧
      RegsOnly { s with wres := .ok } t [0x03F000])

/-! The command streams. -/

/-- A doorbell (R125, R126): four bytes at the start of a ring's line set TAIL where the slot is open, the ring is
configured and the value lies within its entries; any other counts in BADDB, with EV_DOORBELL_BAD unless the slot is
free; nothing of a slot that is open issues before RUN. A line of no ring has no effect. A descriptor read (R123, R129)
takes the entry at HEAD and advances it; a poisoned entry completes and halts its ring with code 1, one of a reserved
opcode with code 4. -/
def Obligations.DoorbellsAndDescriptorReads : Prop :=
  ∀ (s : State) (r : RingId) (line : Fin 4096) (off : Fin 64) (data : List Byte),
    let t := ofBytes data
    let n := s.rd Reg.STR_RING_CFG_LOG2N r
    let head := s.rd Reg.STR_RING_HEAD_COUNT r
    let tail := s.rd Reg.STR_RING_TAIL_COUNT r
    let taken : Prop := data.length = 4 ∧ off = 0 ∧ s.slotState (State.ringSlot r) ≠ 0 ∧ n ≠ 0 ∧
      (t + 2 ^ 32 - head) % 2 ^ 32 ≤ 2 ^ n ∧ (t + 2 ^ 32 - tail) % 2 ^ 32 < 2 ^ 31
    let a := s.ringEntry r head
    let d := s.peek a 128
    (s.memUp = true → data ≠ [] →
      (line.val = r.val → taken → ∃ u, exec (.doorbell line off data) s = .next u ∧ u.rd Reg.STR_RING_TAIL_COUNT r = t ∧
        RegsOnly s u [0x02100C + 0x40 * r.val]) ∧
      (line.val = r.val → ¬taken → ∃ u, exec (.doorbell line off data) s = .next u ∧
        u.rd Reg.STR_RING_STAT_BADDB r = min (s.rd Reg.STR_RING_STAT_BADDB r + 1) 65535 ∧
        (s.slotState (State.ringSlot r) = 0 → RegsOnly s u [0x021018 + 0x40 * r.val]) ∧
        (s.slotState (State.ringSlot r) ≠ 0 → data.length = 4 → off = 0 →
          Raised s u 0x0302 r (some (State.ringSlot r)) t) ∧ EventsOnly s u [0x021018 + 0x40 * r.val]) ∧
      (48 ≤ line.val → ∃ u, exec (.doorbell line off data) s = .next u ∧ RegsOnly s u [])) ∧
    (∀ c k, issuing c = some k → k.ring = r → s.slotState (State.ringSlot r) = 1 →
      ∃ u, exec c s = .next u ∧ RegsOnly s u []) ∧
    (s.ringLive r = true → s.rings[r].held = none → n ≠ 0 → head ≠ tail → (∀ o ∈ s.ringOps r, dFencePost o.desc = false) →
      ∃ u, exec (.descriptorRead r) s = .next u ∧ u.rd Reg.STR_RING_HEAD_COUNT r = (head + 1) % 2 ^ 32 ∧ u.ops = s.ops ∧
        (s.poisoned a 128 = false → opcodes.contains (dOpcode d) = true →
          u.rings = s.rings.set r { s.rings[r] with held := some ⟨d, a, none, false, false, false⟩ } ∧ u.mem = s.mem) ∧
        (s.poisoned a 128 = true ∨ opcodes.contains (dOpcode d) = false →
          u.rings[r].held = none ∧ u.rdB Reg.STR_RING_STAT_HALTED r = true ∧
          u.rd Reg.STR_RING_STAT_HALT_CODE r = (if s.poisoned a 128 = true then 1 else 4) ∧
          u.rd Reg.STR_RING_HALTSEQ_SEQ r = (if s.poisoned a 128 = true then 0 else dSeq d) ∧
          u.rd Reg.STR_RING_DONE_COUNT r = (s.rd Reg.STR_RING_DONE_COUNT r + 1) % 2 ^ 32))

/-- Every command that issues a macro-op issues the one its ring holds, where it has its turn, passes the checks of
steps 1 to 4 and nothing of step 5 holds it (R100, R138 to R141): one statement for the 26 commands of R131's opcodes that
`issuing` lists: GEMM, GEMM_TA, GEMM_TB, GEMM_ACC, ATTN_F, ATTN_B, ATTN_D, DISPATCH, COMBINE, MOVE, QUANT, SEND, RECV,
REDUCE_SCATTER, ALL_REDUCE, ALL_GATHER, UPDATE, RUN_SPRIG, SIGNAL, WAIT, FENCE, STEP_MARK, CKPT_DRAIN, CKPT_FILL,
CKPT_DIGEST and KV_FREE. -/
def Obligations.MacroOpsIssue : Prop :=
  ∀ (c : Instr) (k : Issuing) (s u v : State) (h : Held) (o : Op), issuing c = some k → HasTurn s k h →
    Passes s u k h o → Proceeds u v k.ring h (k.plan s k.ring h.desc) o → ∃ t, exec c s = .next t ∧ Issued s t k h o

/-- A descriptor that fails a check of steps 1 or 2 does not issue (R138): it completes with code 4, its ring holds none
and halts with code 4 at its number, and DONE counts it. -/
def Obligations.MalformedDescriptorsHalt : Prop :=
  ∀ (c : Instr) (k : Issuing) (s : State) (h : Held) (n : Nat), issuing c = some k → HasTurn s k h → h.plan = none →
    k.hold s k.ring h.desc = false →
    let r := k.ring
    let p := k.plan s r h.desc
    firstDetail (headFindings s r h.desc p) = some n →
    ∃ t, exec c s = .next t ∧ t.ops = s.ops ∧ t.rings = s.rings.set r { s.rings[r] with held := none } ∧
      t.rdB Reg.STR_RING_STAT_HALTED r = true ∧ t.rd Reg.STR_RING_STAT_HALT_CODE r = 4 ∧
      t.rd Reg.STR_RING_HALTSEQ_SEQ r = dSeq h.desc ∧
      t.rd Reg.STR_RING_DONE_COUNT r = (s.rd Reg.STR_RING_DONE_COUNT r + 1) % 2 ^ 32

/-- A WAIT that polls reads its flag again (R318): it is ready where its condition holds or, with POISON, where the flag
is poisoned, and else waits on. The writes of a ring that waited for earlier macro-ops are made where they may be; then
a macro-op whose work is done completes: its records take the completion update, its completion record is written, it is
no longer in flight, and DONE counts it (R142). -/
def Obligations.WaitsAndCompletions : Prop :=
  ∀ (s : State) (r : RingId) (k : Nat) (o : Op),
    (s.memUp = true → ((s.ringOps r).find? fun o => dOpcode o.desc == 0x39 && !o.ready) = some o →
      let a := bits (dP o.desc 0) 47 0
      let n := if bit (dP o.desc 3) 2 then 8 else 4
      let ends := s.poisoned a n || State.waitHolds o.desc (s.peek a n)
      ∃ t, exec (.waitPoll r) s = .next t ∧ t.mem = s.mem ∧ t.rings = s.rings ∧
        t.ops = s.ops.map fun x => if x.id = o.id then { x with
          work := if ends then .made else .engine 1
          flags := if s.poisoned a n then x.flags ||| 1 else x.flags } else x) ∧
    (let v := s.ringDue r
     s.memUp = true → (v.ringOps r)[k]? = some o → v.mayComplete o = true →
      exec (.macroOpComplete r k) s = .next ((((v.takeTag o).recordsDone o).finish o.id).pumpAll.kSettle.done s.pending) ∧
      (v.opOf o.id = some o → v.kal.running = none → v.kal.waiting = [] → ∃ t, exec (.macroOpComplete r k) s = .next t ∧
        (∀ x ∈ t.ops, x.id ≠ o.id) ∧
        t.rd Reg.STR_RING_DONE_COUNT r = (s.rd Reg.STR_RING_DONE_COUNT r + 1) % 2 ^ 32))

/-! The Anvils. -/

/-- Tiles run (R51, R52, R54, R66, R154 to R157, R212, R407, R449, R532): an idle Anvil whose clock no failed PLL gates
starts the tile that its interleave pointer serves, of a unit of attention the tile it cuts next, and charges the cycles
for which the issue duty held it back; a tile that ends moves to the hold buffer, and its cycles, those of the issue duty
among them, are charged to its interleave entry, its macro-op and its counters; gated cycles are charged to the entry's
slot, and an entry that reaches its quota moves the pointer, which takes a pending table at entry 0; a new fence map is
programmed into the next fence row. -/
def Obligations.TilesRun : Prop :=
  ∀ (s : State) (a : Fin 4) (tm : TileTiming) (gated : Nat),
    let x := s.anv[a]
    let pos := s.itabPos a
    let w := s.itabEntry a pos
    let idle := if entStream w = 3 then entQuota w - x.charge else if (s.serves a).isSome then 0 else gated
    let g := s.chargeGated a idle
    let next := if x.table.length ≤ pos + 1 then 0 else pos + 1
    (∀ faults i again t o, s.running = true → s.withdrawn a = false → s.pllGated a = false → x.array = none →
      s.serves a = some (i, again, t) → s.opOf t.op = some o → t.kind ≠ .unit → ∃ u, exec (.tileStart ⟨a, faults⟩) s = .next u ∧
        u.anv[a].array = some (s.runTile o t (s.liveCols a) faults) ∧
        u.anv[a].loan = (if i = pos then none else some i) ∧ u.anv[a].rerun = x.rerun.erase t ∧
        u.anv[a].queue = (if again then x.queue else x.queue.erase t) ∧ u.anv[a].hold = x.hold ∧
        u.anv[a].reqPt = s.tilePoint o ∧ u.anv[a].charge = x.charge + (s.enterWait a).1 ∧
        u.anv[a].count = x.count + (s.enterWait a).1 ∧ u.anv[a].duty = (s.enterWait a).2 ∧ (∀ b, b ≠ a → u.anv[b] = s.anv[b]) ∧
        u.rd Reg.ANV_STATUS_STATE a = (if again then 2 else 1) ∧ u.rd Reg.ANV_STATUS_SLOT a = o.slot.val ∧
        u.rd Reg.ANV_STATUS_STREAM a = State.ringStream o.ring ∧ u.rd Reg.ANV_STATUS_DIE_OF_STREAM a = o.die.val) ∧
    (∀ faults i again t o v p, s.running = true → s.withdrawn a = false → s.pllGated a = false → x.array = none →
      s.serves a = some (i, again, t) → s.opOf t.op = some o → t.kind = .unit → s.cutNext o a t = (v, some p) → ∀ o', v.opOf t.op = some o' →
      exec (.tileStart ⟨a, faults⟩) s = .next ((v.tileEnters o' a i again p faults).done s.pending)) ∧
    (∀ run o, s.running = true → s.pllGated a = false → x.array = some run → x.hold.length + x.leaving.length < 4 →
      s.opOf run.tile.op = some o →
      let held := run.holds + tm.holdWait
      let fill := if tm.gap then 1024 else 0
      let n := fill + run.steps + held + tm.dryA + tm.dryB + tm.dryBoth
      let duty := dutyRun x.duty (s.rd Reg.PWR_STATUS_DUTY 0) x.count tm.early n
      let cycles := n + duty.1
      ∃ u, exec (.tileEnd a tm) s = .next u ∧
        u.anv = s.anv.set a { x with
          array := none, hold := x.hold ++ [run], charge := x.charge + cycles, count := x.count + cycles, duty := duty.2 } ∧
        u.ops = (s.ops.map fun y => if y.id = o.id then { y with cycles := y.cycles + cycles } else y) ∧
        u.rd Reg.ANV_STATUS_STATE a = 0 ∧
        u.rd Reg.ANV_BUSY_CYC_COUNT a = (s.rd Reg.ANV_BUSY_CYC_COUNT a + (fill + run.steps)) % 2 ^ 64 ∧
        u.rd Reg.PWR_THROTTLE_CYC_COUNT 0 = (s.rd Reg.PWR_THROTTLE_CYC_COUNT 0 + duty.1) % 2 ^ 64 ∧
        u.rd Reg.ANV_DRY_A_CYC_COUNT a = (s.rd Reg.ANV_DRY_A_CYC_COUNT a + (tm.dryA + tm.dryBoth)) % 2 ^ 64 ∧
        u.rd Reg.ANV_DRY_B_CYC_COUNT a = (s.rd Reg.ANV_DRY_B_CYC_COUNT a + (tm.dryB + tm.dryBoth)) % 2 ^ 64 ∧
        u.rd Reg.ANV_DRAIN_WAIT_CYC_COUNT a = (s.rd Reg.ANV_DRAIN_WAIT_CYC_COUNT a + held) % 2 ^ 64 ∧
        Tab.get (fun _ => 0) u.pw.charged (State.chargeKey a o) =
          Tab.get (fun _ => 0) s.pw.charged (State.chargeKey a o) + cycles ∧
        u.mem = s.mem ∧ u.ms = s.ms ∧ u.rings = s.rings ∧ u.net = s.net ∧ u.tel = s.tel) ∧
    (s.running = true → s.withdrawn a = false → x.array = none → x.table.length ≤ 4096 →
      (g.anv[a].charge = x.charge + idle ∧ g.anv[a].count = x.count + idle ∧ (∀ b, b ≠ a → g.anv[b] = s.anv[b]) ∧
        g = { s with anv := g.anv, pw := { s.pw with gated := g.pw.gated }, free := g.free } ∧
        ∃ p, p < 5 ∧ Tab.get (fun _ => 0) g.pw.gated (entSlot w * 8 + p) =
          Tab.get (fun _ => 0) s.pw.gated (entSlot w * 8 + p) + idle) ∧
      (x.charge + idle < entQuota w → ∃ u, exec (.itabEntryEnd a gated) s = .next u ∧ RegsOnly g u []) ∧
      (entQuota w ≤ x.charge + idle → ∃ u, exec (.itabEntryEnd a gated) s = .next u ∧ u.itabPos a = next ∧
        u.anv[a].charge = 0 ∧ u.anv[a].loan = none ∧ (next ≠ 0 ∨ s.seqr[(Fin.ofNat 2 (a.val / 2))].pending = none →
          RegsOnly { g with anv := g.anv.set a { g.anv[a] with charge := 0, loan := none } } u
            [0x020110 + 0x40 * (a.val / 2)]) ∧
        ∀ t lend, next = 0 → s.seqr[(Fin.ofNat 2 (a.val / 2))].pending = some (t, lend) → x.switched = false →
          u.anv[a].table = t ∧ u.anv[a].lend = lend)) ∧
    (s.powered = true → s.fenceMap ≠ s.rowMap → s.fuses.fences.length < 64 → ∃ u,
      exec .fenceRowProgrammed s = .next u ∧
        RegsOnly { s with fuses := { s.fuses with fences := s.fuses.fences ++ [BitVec.ofNat 64 s.fenceMap] } } u
          ((List.range 4).map fun n => 0x050004 + 0x1000 * n) ∧
        ∀ n, n < 4 → s.lifecycle ≠ 1 → s.lifecycle ≠ 2 →
          u.rd Reg.ANV_FENCE_PERSISTED n = s.rd Reg.ANV_FENCE_STRIPE n ∧
          u.rd Reg.ANV_FENCE_WD_PERSISTED n = s.rd Reg.ANV_FENCE_WITHDRAWN n)

/-- The checks of the oldest held tile (R53, R63 to R65, R70, R445): one that passes is released, and counts where it is
a re-run; a first mismatch, or a first word that cannot be corrected, discards the tile for a re-run on the same Anvil
with its event, cut to the Anvil's present width; a second mismatch fences the stripes of its columns, or withdraws an
Anvil with no stripe left or no column named. -/
def Obligations.TilesChecked : Prop :=
  ∀ (s : State) (a : Fin 4) (run : TileRun) (rest : List TileRun) (o : Op),
    let x := s.anv[a]
    let t := run.tile
    let f := run.find
    let cols := f.cols
    let fails : Prop := f.rows ≠ [] ∨ cols ≠ [] ∨ f.corner = true
    let mask := State.stripesOf cols
    let all := s.rd Reg.ANV_FENCE_STRIPE a ||| mask
    let arg := o.ring.val + 64 * t.idx
    let checked := (s.dropHold a).inc Reg.ANV_CHK_EXCLUDED_COUNT a run.excl
    let gone (u : State) : Prop := u.rdB Reg.ANV_FENCE_WITHDRAWN a = true ∧ u.rd Reg.ANV_STATUS_STATE a = 3 ∧
      u.anv[a].array = none ∧ u.anv[a].hold = [] ∧ u.anv[a].rerun = [] ∧ u.anv[a].queue = []
    x.hold = run :: rest → s.running = true → s.opOf t.op = some o →
    let failed := (((checked.inc Reg.ANV_CHK_MISMATCH_COUNT a 1).raise 0x0201 a (some o.slot) arg).captureTile a o t 1 f)
    let lost := ((s.dropHold a).inc Reg.ANV_PATH_UE_COUNT a 1).raise 0x0205 a (some o.slot) arg
    (¬fails → exec (.tileCheckDone a false) s = .next
      (((if t.fails = 1 then (checked.inc Reg.ANV_CHK_RETRY_PASS_COUNT a 1).captureTile a o t 0 f else checked).releaseRun a o run).done
        s.pending)) ∧
    (fails → t.fails = 0 → exec (.tileCheckDone a false) s = .next ((failed.rerunTile a { t with fails := 1 }).done s.pending)) ∧
    (fails → t.fails = 0 → s.fitsOn a t = true → s.cutFor a { t with fails := 1 } = [{ t with fails := 1 }] →
      isGemm o.desc = true → ∃ u, exec (.tileCheckDone a false) s = .next u ∧
      u.anv = s.anv.set a { x with hold := rest, rerun := x.rerun ++ [{ t with fails := 1 }] } ∧
      u.rd Reg.ANV_CHK_MISMATCH_COUNT a = (s.rd Reg.ANV_CHK_MISMATCH_COUNT a + 1) % 2 ^ 64 ∧
      u.rd Reg.ANV_CHK_EXCLUDED_COUNT a = (s.rd Reg.ANV_CHK_EXCLUDED_COUNT a + run.excl) % 2 ^ 64 ∧
      Raised s u 0x0201 a (some o.slot) arg ∧ u.mem = s.mem) ∧
    (t.ues = 0 → exec (.tileCheckDone a true) s = .next ((lost.rerunTile a { t with ues := 1 }).done s.pending)) ∧
    (t.ues = 0 → s.fitsOn a t = true → s.cutFor a { t with ues := 1 } = [{ t with ues := 1 }] → isGemm o.desc = true →
      ∃ u, exec (.tileCheckDone a true) s = .next u ∧
      u.anv = s.anv.set a { x with hold := rest, rerun := x.rerun ++ [{ t with ues := 1 }] } ∧
      u.rd Reg.ANV_PATH_UE_COUNT a = (s.rd Reg.ANV_PATH_UE_COUNT a + 1) % 2 ^ 64 ∧
      Raised s u 0x0205 a (some o.slot) arg ∧ u.mem = s.mem) ∧
    (t.ues ≠ 0 → exec (.tileCheckDone a true) s = .next ((lost.poisonTile a o run).done s.pending)) ∧
    (fails → t.fails ≠ 0 → ∃ u, exec (.tileCheckDone a false) s = .next u ∧
      u.rd Reg.ANV_FAULT_LOC_ROW a = (if cols = [] then 0 else (State.least f.rows).getD 0 % 512) ∧
      u.rd Reg.ANV_FAULT_LOC_COL a = (State.least cols).getD 0 % 512 ∧
      u.rdB Reg.ANV_FAULT_LOC_VALID a = !cols.isEmpty ∧ u.rdB Reg.ANV_FAULT_LOC_UNLOCATED a = cols.isEmpty ∧
      u.rd Reg.ANV_FAULT_LOC_COUNT a = min 255 (s.rd Reg.ANV_FAULT_LOC_COUNT a + 1) ∧
      (cols = [] → gone u ∧ Raised s u 0x0203 a none 0) ∧
      (cols ≠ [] → u.rd Reg.ANV_FENCE_STRIPE a = all ∧ Raised s u 0x0202 a none mask ∧
        (all ≠ 255 → u.rd Reg.ANV_STATUS_LIVE_STRIPES a = 8 - ones8 all) ∧ (all = 255 → gone u)))

/-! The key-value pools. -/

/-- The append unit (R232 to R236, R238): its next entry, the oldest that no lower slot of its block of V comes before,
reads what leads to its target, and takes POISON where that is marked; one whose row has no target, or whose page-table
entry names no frame, is discarded with BADPTE; one whose frame is allocated and its own is written there; one with no
frame takes one, and a shared frame is copied first; without a free frame the unit waits, until one returns or
STALL_LIMIT passes. A KV_FREE's frames return to the free ring once the walks that were under way at it have ended. -/
def Obligations.AppendUnits : Prop :=
  ∀ (s : State) (p : Fin 16) (a : App) (o : Op) (cycles : Nat),
    let x := s.pools[p]
    let d := o.desc
    let v := s.kvVia p
    let reads := s.targetReads d a.row
    let read := reads.foldl (fun u y => u.readRange v y.1 y.2) s
    let read := if reads.any (fun y => s.poisoned y.1 y.2) then read.opFlag o.id 1 else read
    s.memUp = true →
    (s.nextApp p = some a → s.opOf a.op = some o → x.stalled = false →
      (read.targetOf d a.row = none →
        exec (.kvAppend p) s = .next (((read.discardRow p o).popApp p a false).done s.pending)) ∧
      ∀ t, read.targetOf d a.row = some t →
        let e := State.pteAddr d t a.head
        let pte := read.peek e 8
        let f := bits pte 23 0
        let u := read.readRange v e 8
        let u := if u.poisoned e 8 then u.opFlag o.id 1 else u
        let u := if a.poison then u.opFlag o.id 1 else u
        let c := u.readRange v (u.countAddr p f) 2
        let free := u.rd Reg.MEM_KV_STATUS_FREE p
        let dropped := x.dropped.any fun y => y.1 == a.op && y.2.1 == t.sidx && decide (y.2.2 ≤ a.row)
        (dropped = true → exec (.kvAppend p) s = .next ((u.popApp p a false).done s.pending)) ∧
        (dropped = false → bit pte 24 = true → u.rd Reg.MEM_KV_CFG_NFRAMES p ≤ f →
          exec (.kvAppend p) s = .next (((u.discardRow p o).popApp p a false).done s.pending)) ∧
        (dropped = false → bit pte 24 = true → f < u.rd Reg.MEM_KV_CFG_NFRAMES p → u.countOf p f ≤ 1 →
          exec (.kvAppend p) s = .next ((c.writeToken p o a t f).done s.pending)) ∧
        (dropped = false → bit pte 24 = false → free ≠ 0 →
          let g := (u.takeFrame p).2
          let w := ((u.takeFrame p).1.setCount p g 1).setEntry v e t.recA g
          exec (.kvAppend p) s = .next (((w.writeToken p o a t g).inc Reg.MEM_KV_ALLOC_COUNT p 1).done s.pending)) ∧
        (dropped = false → bit pte 24 = true → f < u.rd Reg.MEM_KV_CFG_NFRAMES p → 1 < u.countOf p f → free ≠ 0 →
          let g := (c.takeFrame p).2
          let w := (((c.takeFrame p).1.copyFrame p o f g).setCount p g 1).setEntry v e t.recA g
          let n := w.countOf p f - 1
          let w := w.setCount p f n
          let w := if n = 0 then w.setLimbo p (w.pools[p].limbo ++ [f]) else w
          exec (.kvAppend p) s = .next (((w.writeToken p o a t g).inc Reg.MEM_KV_COW_COUNT p 1).done s.pending)) ∧
        (dropped = false → bit pte 24 = false → free = 0 →
          u.rd Reg.MEM_KV_CTRL_STALL_LIMIT p = 0 → exec (.kvAppend p) s = .next
            (((u.starve p o).dropRow p a t.sidx).done s.pending)) ∧
        (dropped = false → bit pte 24 = true → f < u.rd Reg.MEM_KV_CFG_NFRAMES p → 1 < u.countOf p f → free = 0 →
          u.rd Reg.MEM_KV_CTRL_STALL_LIMIT p = 0 → exec (.kvAppend p) s = .next
            (((c.starve p o).dropRow p a t.sidx).done s.pending)) ∧
        (dropped = false → bit pte 24 = false ∨ f < u.rd Reg.MEM_KV_CFG_NFRAMES p ∧ 1 < u.countOf p f → free = 0 →
          u.rd Reg.MEM_KV_CTRL_STALL_LIMIT p ≠ 0 →
          ∃ w, exec (.kvAppend p) s = .next w ∧ w.pools[p].stalled = true ∧ w.pools[p].queue = x.queue ∧ w.mem = s.mem ∧
            w.rdB Reg.MEM_KV_STATUS_EXHAUSTED p = true)) ∧
    (x.stalled = true → s.rd Reg.MEM_KV_STATUS_FREE p ≠ 0 → exec (.kvAppendResume p cycles) s = .next
      ((((s.inc Reg.MEM_KV_STALL_CYC_COUNT p cycles).modPool p fun y => { y with stalled := false }).append p).done
        s.pending)) ∧
    (∀ t, s.nextApp p = some a → x.stalled = true → s.opOf a.op = some o → s.targetOf d a.row = some t →
      ∃ w, exec (.kvStallExpire p cycles) s = .next w ∧
        w.rd Reg.MEM_KV_STALL_CYC_COUNT p = (s.rd Reg.MEM_KV_STALL_CYC_COUNT p + cycles) % 2 ^ 64 ∧
        RegsOnly { s with
          pools := s.pools.set p { x with
            queue := x.queue.erase a, stalled := false, dropped := x.dropped ++ [(a.op, t.sidx, a.row)] }
          ops := (s.dropRow p a t.sidx).ops, anv := (s.dropRow p a t.sidx).anv } w [0x079028 + 0x40 * p.val, 0x07902C + 0x40 * p.val]) ∧
    ∀ f more, x.frees = f :: more → f.walks.any (s.poolWalks p).contains = false → ∃ w, exec (.kvFreeReturn p) s = .next w ∧
      w.pools = s.pools.set p { x with frees := more } ∧ w.ops = (s.opDone f.op).ops ∧
      w.rd Reg.MEM_KV_STATUS_FREE p = (s.rd Reg.MEM_KV_STATUS_FREE p + f.frames.length) % 2 ^ 24

/-! The update engine. -/

/-- Chunks and statistics (R253 to R256, R262): a chunk whose bytes have landed is signalled; its CHUNK handler, where
its turn has come, enters the layer's home Sprig with its registers set, or the reference rule's whole pass is made; the
statistics all-reduce joins its group; its end readies the layer and gives its sum, read, to the UPDATE's norm, where the
layer consumed no poison, its epoch stood and the sum bears no marker, and else leaves the layer to its outcome. -/
def Obligations.ChunksAndStatistics : Prop :=
  ∀ (s : State) (entry : BitVec 48) (l : Layer) (chunk : Nat), s.layerOf entry.toNat = some l →
    let e := s.peek entry.toNat 128
    let r := s.noteReady
    let u := r.chunkFeed l
    let mine (c : Coll) : Bool := c.stats && c.own == State.layerOwn entry.toNat
    let bad := l.stale || l.poison
    let noColl : State := { s with net := { s.net with colls := s.net.colls.filter fun c => !mine c } }
    (s.memUp = true → l.phase = .chunks → chunk < lChunks e → chunk ∉ l.signals →
      hasRange (chunkBytes e chunk).1 (chunkBytes e chunk).2 l.landed = true →
      exec (.chunkArrival entry chunk) s = .next
        ((s.modLayer entry.toNat fun x => { x with signals := x.signals ++ [chunk] }).noteReady.done s.pending) ∧
      ∃ t, exec (.chunkArrival entry chunk) s = .next t ∧ RegsOnly { s with
        layers := s.layers.map fun x => if x.entry = entry.toNat then { x with signals := x.signals ++ [chunk] } else x
        sprigs := t.sprigs } t [] ∧
        ∀ n : SprigId, t.sprigs[n] = { s.sprigs[n] with queue := t.sprigs[n].queue }) ∧
    (State.chunkDue l = true → r.turnNow l = true →
      exec (.chunkHandler entry .stepwise) s = .next ((u.chunkEnter l).done s.pending) ∧
      exec (.chunkHandler entry .reference) s = .next (((((u.chunkEnter l).chunkPass l).modSprig
        (State.homeSprig (u.peek entry.toNat 128)) fun x => { x with job := none }).chunkReturn entry.toNat l.next).done
          s.pending) ∧
      ∃ t, exec (.chunkHandler entry .stepwise) s = .next t ∧
        (∀ x ∈ t.layers, x.entry = l.entry → x.running = true) ∧
        let y := t.sprigs[State.homeSprig (u.peek l.entry 128)]
        y.job = some (.chunk l.entry l.next) ∧ y.entry = bits l.sched 140 128 ∧ y.l1 = [] ∧ y.nonfin = false ∧
        y.s[(0 : Fin 32)].toNat = l.entry % 2 ^ 64 ∧ y.s[(1 : Fin 32)].toNat = l.next % 2 ^ 64 ∧
        y.s[(2 : Fin 32)].toNat = ((if u.wholeInTrough l then troughBase else 0) + lGrad (u.peek l.entry 128) +
          (chunkBytes (u.peek l.entry 128) l.next).1) % 2 ^ 64 ∧
        y.s[(5 : Fin 32)].toNat = l.step.toNat ∧ t.mem = s.mem) ∧
    (s.running = true → l.phase = .statsDue →
      let v := s.modLayer entry.toNat fun x => { x with phase := .stats }
      exec (.statsAllreduce entry) s = .next ((if v.groupBad (State.ringSlot l.ring) (lArg e) then v else
        let g := v.groupEntry (State.ringSlot l.ring) (lArg e)
        v.collStart g (v.peerEntry (State.ringSlot l.ring) (v.succIndex g)) (State.layerOwn entry.toNat) true (State.ringSlot l.ring) (lArg e) 1 false 0 (lScr e) (lScr e)
          (lReduce e)).done s.pending)) ∧
    (s.memUp = true → l.phase = .stats →
      let sum := lScr e + 4 * lCols e
      let done := (noColl.modLayer entry.toNat fun x => { x with phase := .ready }).readRange (s.layerVia l) sum 4
      (bad = true → exec (.statsAllreduceDone entry) s = .next
        (((noColl.modLayer entry.toNat fun x => { x with phase := .applied }).normTake l none).done s.pending)) ∧
      (bad = false → s.net.colls.any mine = false → s.poisoned sum 4 = false →
        exec (.statsAllreduceDone entry) s = .next ((done.normTake l (some (s.peek sum 4))).done s.pending)) ∧
      (bad = false → s.net.colls.any mine = false → s.poisoned sum 4 = true → exec (.statsAllreduceDone entry) s = .next
        (((done.modLayer entry.toNat fun x => { x with phase := .applied, poison := true }).normTake l none).done s.pending)))

/-- Apply passes and outcomes (R254, R255, R260, R262 to R266): the APPLY handler of a layer that is ready, in its turn,
enters its home Sprig with its clip factor, or the reference rule's pass is made, and a norm that is not finite under
DEFERRED skips it; the outcome of a layer whose handlers are over commits a flip or leaves the old parity, and frees its
arming entry. -/
def Obligations.ApplyAndOutcomes : Prop :=
  ∀ (s : State) (entry : BitVec 48) (l : Layer) (held readers : Nat), s.layerOf entry.toNat = some l →
    let r := s.noteReady
    let u := (r.inc Reg.UPD_HOLD_CYC_COUNT 0 held).inc Reg.UPD_READER_CYC_COUNT 0 readers
    let v := State.seqVia l.ring
    let slot := State.ringSlot l.ring
    let out := State.outcome l
    (r.applyDue l = true → r.turnNow l = true →
      (∀ c run, u.clipOf l = (c, none) → exec (.applyHandler entry run held readers) s = .next
          ((c.modLayer entry.toNat fun x => { x with phase := .applied, nonN2 := true }).noteReady.done s.pending) ∧
        ∃ t, exec (.applyHandler entry run held readers) s = .next t ∧
        t.rd Reg.UPD_HOLD_CYC_COUNT 0 = (s.rd Reg.UPD_HOLD_CYC_COUNT 0 + held) % 2 ^ 64 ∧
        t.rd Reg.UPD_READER_CYC_COUNT 0 = (s.rd Reg.UPD_READER_CYC_COUNT 0 + readers) % 2 ^ 64 ∧
        (∀ x ∈ t.layers, x.entry = entry.toNat → x.phase = .applied ∧ x.nonN2 = true) ∧
        t.mem = s.mem ∧ t.ops = s.ops ∧ t.rings = s.rings) ∧
      ∀ c k, u.clipOf l = (c, some k) →
        let w := (c.modLayer entry.toNat fun x => { x with k := k }).applyEnter { l with k := k }
        exec (.applyHandler entry .stepwise held readers) s = .next (w.done s.pending) ∧
        exec (.applyHandler entry .reference held readers) s = .next
          ((((w.applyPass { l with k := k })).modSprig (State.homeSprig (w.peek entry.toNat 128)) fun x =>
            { x with job := none }).done s.pending)) ∧
    (s.memUp = true → l.phase = .applied →
      (out = 1 ∨ out = 4 → exec (.layerOutcome entry) s = .next (((s.flip v l out).layerEnds l).done s.pending)) ∧
      (out = 2 → exec (.layerOutcome entry) s = .next ((((((s.setLstate v entry.toNat 2).store v (entry.toNat + 28)
        (toBytes 4 0)).sageLayer slot l.index 0 true)).layerEnds l).done s.pending)) ∧
      (out = 3 → exec (.layerOutcome entry) s = .next (((((((s.setLstate v entry.toNat 3).opFlag l.op 7).inc
        Reg.UPD_GUARDED_COUNT 0 1).raiseAt 0x0802 l.ring (some slot) l.index l.step.toNat)).layerEnds l).done s.pending)) ∧
      (out = 6 → exec (.layerOutcome entry) s = .next
        ((((s.setLstate v entry.toNat 6).opFlag l.op 1).layerEnds l).done s.pending)) ∧
      (out = 7 → exec (.layerOutcome entry) s = .next
        ((((s.setLstate v entry.toNat 7).opFlag l.op 5).layerEnds l).done s.pending)) ∧
      (out ∈ [1, 2, 3, 4, 6, 7]) ∧
      ∃ t, exec (.layerOutcome entry) s = .next t ∧ t.layerOf entry.toNat = none)

/-! The Sprig instructions. -/

/-- Vector arithmetic and conversion on a Sprig that runs a program or handler, after the scalar instructions that come
with the command (R246): each active lane takes the operation's FP32 result, and the other lanes and registers stay. -/
def Obligations.SprigArithmetic : Prop :=
  ∀ (s : State) (sp : SprigAt) (vd va vb vc : Fin 32) (p : Pred) (k : CvtKind), s.sprigRuns sp.n = true →
    let x := sprigNow s sp
    let one (c : Instr) (f : Nat → Nat) : Prop :=
      ∃ t, exec c s = .next t ∧ LanesWritten s t sp vd p [va] fun l => f (x.lane va l)
    let two (c : Instr) (f : Nat → Nat → Nat) : Prop :=
      ∃ t, exec c s = .next t ∧ LanesWritten s t sp vd p [va, vb] fun l => f (x.lane va l) (x.lane vb l)
    two (.fadd sp vd va vb p) f32Add ∧ two (.fsub sp vd va vb p) f32Sub ∧ two (.fmul sp vd va vb p) f32Mul ∧
    (∃ t, exec (.fma sp vd va vb vc p) s = .next t ∧
      LanesWritten s t sp vd p [va, vb, vc] fun l => f32Fma (x.lane va l) (x.lane vb l) (x.lane vc l)) ∧
    two (.fmin sp vd va vb p) laneMin ∧ two (.fmax sp vd va vb p) laneMax ∧ two (.fdiv sp vd va vb p) f32Div ∧
    one (.fabs sp vd va p) (fun a => fp32.round (f32 a).abs) ∧ one (.fneg sp vd va p) f32Neg ∧
    one (.fsqrt sp vd va p) f32Sqrt ∧ one (.frsq sp vd va p) f32Rsqrt ∧ one (.fexp sp vd va p) f32Exp ∧
    one (.fln sp vd va p) f32Ln ∧ one (.cvt sp k vd va p) (cvtCode k)

/-- Reductions, predicates, PIVOT and RET on a Sprig that runs (R246 to R248): FRED sums the active lanes into a scalar,
FCMP writes the active lanes' bits of a predicate, the logic of predicates is bitwise, PIVOT writes its register and the
next and marks each failing lane in PIVF (of v31, its second result goes where the spec leaves open), and RET ends the
program, whose macro-op has one part less to do. -/
def Obligations.SprigPredicatesAndEnds : Prop :=
  ∀ (s : State) (sp : SprigAt) (c : FCond) (sd va vb vd st : Fin 32) (pd pa pb : Fin 8) (p : Pred) (o : Nat),
    s.sprigRuns sp.n = true →
    let n := sp.n
    let x := sprigNow s sp
    let pred (i : Instr) (f : Fin 64 → Bool) (taint : Bool) : Prop := ∃ t, exec i s = .next t ∧
      ∃ y : Sprig, SprigOnly s t n { x with p := y.p, tp := y.tp } ∧ (∀ l : Fin 64, y.p[pd].toNat.testBit l.val = f l) ∧
        (∀ r, r ≠ pd → y.p[r] = x.p[r] ∧ y.tp.toNat.testBit r.val = x.tp.toNat.testBit r.val) ∧
        y.tp.toNat.testBit pd.val = taint
    let mark (r : Fin 8) : Bool := x.tp.toNat.testBit r.val
    (∃ t, exec (.fred sp sd va p) s = .next t ∧ SprigOnly s t n (x.setScal sd
      (f32Canon (fred (((List.finRange 64).filter (x.active p)).map (x.lane va)))) (x.vecTaint [va] || x.predTaint p))) ∧
    pred (.fcmp sp c pd va vb p)
      (fun l => if x.active p l then condHolds c (x.lane va l) (x.lane vb l) else x.p[pd].toNat.testBit l.val)
      (x.vecTaint [va, vb] || x.predTaint p || (p.isSome && mark pd)) ∧
    pred (.pand sp pd pa pb) (fun l => x.p[pa].toNat.testBit l.val && x.p[pb].toNat.testBit l.val) (mark pa || mark pb) ∧
    pred (.por sp pd pa pb) (fun l => x.p[pa].toNat.testBit l.val || x.p[pb].toNat.testBit l.val) (mark pa || mark pb) ∧
    pred (.pnot sp pd pa) (fun l => !x.p[pa].toNat.testBit l.val) (mark pa) ∧
    (let r (l : Fin 64) := pivotLane (x.lane va l) (x.s[st].toNat % 2 ^ 32)
     ∃ ve : Fin 32, (vd.val < 31 → ve.val = vd.val + 1) ∧ ∃ t, exec (.pivot sp vd va st p) s = .next t ∧ ∃ y : Sprig,
        RegsOnly { s with
          free := s.free + 1
          sprigs := s.sprigs.set n { x with v := y.v, tv := y.tv, pivf := y.pivf } } t [] ∧
        (∀ l : Fin 64, (ve ≠ vd → y.v[vd][l] = (if x.active p l then BitVec.ofNat 32 (r l).1 else x.v[vd][l])) ∧
          y.v[ve][l] = (if x.active p l then BitVec.ofNat 32 (r l).2.1 else x.v[ve][l]) ∧
          y.pivf.toNat.testBit l.val = (x.pivf.toNat.testBit l.val || (x.active p l && (r l).2.2))) ∧
        ∀ q, q ≠ vd → q ≠ ve → y.v[q] = x.v[q]) ∧
    (x.job = some (.program o) → exec (.ret sp) s = .next
      (((((s.sprigDo sp id).modSprig n fun y => { y with job := none }).opDone o).sprigTurns).done s.pending)) ∧
    ∀ e k, (x.job = some (.chunk e k) → exec (.ret sp) s = .next
        (((((s.sprigDo sp id).modSprig n fun y => { y with job := none }).chunkReturn e k).sprigTurns).done s.pending)) ∧
      (x.job = some (.apply e) → exec (.ret sp) s = .next (((((s.sprigDo sp id).modSprig n fun y => { y with job := none }).applyReturn e
        x.nonfin x.uratio.toNat (x.pivf != 0)).sprigTurns).done s.pending))

/-- The Sprigs' accesses of memory (R246, R263, R319, R324): a load with an empty L1 brings each active lane its
element; a program's store writes each active lane's element and no other byte; LDACQ reads its word and, beyond Sprig
scope, empties the L1; STREL writes its word; a misaligned one ends the program; QBLK writes its block. That an access
beyond the logical device space ends the program is the model's choice (log entry 27). -/
def Obligations.SprigMemory : Prop :=
  ∀ (s : State) (sp : SprigAt) (f : LaneFmt) (v r st gr gc : Fin 32) (p : Pred) (wide : Bool) (scope : Fin 4),
    s.sprigRuns sp.n = true →
    let n := sp.n
    let x := sprigNow s sp
    let u := s.sprigDo sp id
    let stops (c : Instr) (detail : Nat) : Prop := exec c s = .next ((u.sprigStop n detail).done s.pending)
    let k := laneBytes f
    let a := x.s[r].toNat
    let w := if wide then 8 else 4
    let at_ (stride : Nat) (l : Fin 64) : Nat := (a + stride * l.val) % 2 ^ 64
    let clean (b m : Nat) : Prop := plainRange s b m ∧ s.poisoned b m = false
    let loads (c : Instr) (stride : Nat) : Prop :=
      x.l1 = [] → (∀ l, x.active p l = true → clean (at_ stride l) k) → ∃ t, exec c s = .next t ∧ t.mem = s.mem ∧
        ∀ l : Fin 64, t.sprigs[n].v[v][l] =
          if x.active p l then BitVec.ofNat 32 (laneLoad f (s.peek (at_ stride l) k)) else x.v[v][l]
    let stores (c : Instr) (stride : Nat) : Prop :=
      s.sprigApply n = none → (∀ l, x.active p l = true → plainRange s (at_ stride l) k) → ∃ t, exec c s = .next t ∧
        (∀ b, b < resPage * 2 ^ 18 → (∀ l, x.active p l = true → b < at_ stride l ∨ at_ stride l + k ≤ b) →
          t.byte b = s.byte b) ∧
        ∀ l, x.active p l = true → (∀ m, x.active p m = true → l < m →
            at_ stride l + k ≤ at_ stride m ∨ at_ stride m + k ≤ at_ stride l) →
          t.peek (at_ stride l) k = laneStore f (x.lane v l) % 2 ^ (8 * k)
    loads (.vld sp f v r p) k ∧ loads (.vlds sp f v r st p) x.s[st].toNat ∧
    stores (.vst sp f v r p) k ∧ stores (.vsts sp f v r st p) x.s[st].toNat ∧
    (a % w = 0 → clean a w → ∃ t, exec (.ldacq sp wide scope v r) s = .next t ∧ t.mem = s.mem ∧
      t.sprigs[n].s[v].toNat = s.peek a w ∧ t.sprigs[n].l1 = (if scope = 0 then x.l1 else []) ∧
      ∀ q, q ≠ v → t.sprigs[n].s[q] = x.s[q]) ∧
    (s.sprigApply n = none → a % w = 0 → plainRange s a w → ∃ t, exec (.strel sp wide scope v r) s = .next t ∧
      t.peek a w = x.s[v].toNat % 2 ^ (8 * w) ∧ ∀ b, b < resPage * 2 ^ 18 → b < a ∨ a + w ≤ b → t.byte b = s.byte b) ∧
    (a % w ≠ 0 → stops (.ldacq sp wide scope v r) 6 ∧ stops (.strel sp wide scope v r) 6) ∧
    (a % w = 0 → spaceEnd < a + w → stops (.ldacq sp wide scope v r) 7 ∧ stops (.strel sp wide scope v r) 7) ∧
    (∀ l, x.active p l = true →
      (u.noPlace n true k (at_ k l) = true → stops (.vld sp f v r p) 7) ∧
      (u.noPlace n true k (at_ x.s[st].toNat l) = true → stops (.vlds sp f v r st p) 7) ∧
      (spaceEnd < at_ k l + k → stops (.vst sp f v r p) 7) ∧
      (spaceEnd < at_ x.s[st].toNat l + k → stops (.vsts sp f v r st p) 7)) ∧
    (a + 128 ≤ spaceEnd → exec (.qblk sp r gr gc v) s = .next ((u.sprigQblk n a x.s[gr].toNat x.s[gc].toNat v
      (x.scalTaint r || x.scalTaint gr || x.scalTaint gc)).done s.pending)) ∧
    (spaceEnd < a + 128 → stops (.qblk sp r gr gc v) 7)

/-! Memory's engines and errors. -/

/-- Bellows' work (R278 to R281, R284 to R286): a sweep changes no byte, mapping, flag or die of a page and raises no
heat; a swing gives a page its new frame, or frees it where a FREE waits, and changes no other page unless a move, a
window or a partition waited for it; a fill joins its die's ring behind the others. -/
def Obligations.SweepsSwingsAndFills : Prop :=
  ∀ (s : State) (d : Die) (page : Nat) (m : Mig) (q : FillReq),
    let e := s.ent page
    let win := 32 * bits s.ms.part[d].toNat 15 8
    let u := fillUnits q.ivals
    (s.memUp = true → s.quench = false →
      (exec (.bellowsSweep d) s = .next ((s.sweep d).done s.pending) ∧
        ∃ t, exec (.bellowsSweep d) s = .next t ∧ t.mem = s.mem ∧ t.ms.poison = s.ms.poison ∧ t.ops = s.ops ∧
        ∀ p, (t.ent p).state = (s.ent p).state ∧ (t.ent p).flags = (s.ent p).flags ∧ (t.ent p).die = (s.ent p).die ∧
          (t.ent p).cpin = (s.ent p).cpin ∧ (t.ent p).heat ≤ (s.ent p).heat) ∧
      exec (.migrationSwing page) s = .next ((s.swing page).done s.pending) ∧
      (s.ms.migs.find? (·.page == page) = some m → s.ms.wants = [] → s.windowOf page = none →
        (m.tier = 0 → m.frame < s.partFirst e.die) → ∃ t, exec (.migrationSwing page) s = .next t ∧
        let keep := !s.ms.retired.contains (frameKey 2 e.die e.dframe)
        t.ms.migs = s.ms.migs.filter (·.page != page) ∧
        (m.freeAfter = true → t.ent page = .unmapped) ∧
        (m.freeAfter = false → t.mem = s.mem ∧ (t.ent page).home = m.tier ∧ (t.ent page).lock = false ∧
          (t.ent page).heat = e.heat ∧ (t.ent page).state = e.state ∧ (t.ent page).cpin = e.cpin ∧
          (m.tier = 2 → (t.ent page).dframe = m.frame ∧ (t.ent page).shadow = false) ∧
          (m.tier ≠ 2 → (t.ent page).nframe = m.frame) ∧
          (m.tier ≠ 2 → e.home = 2 → (t.ent page).shadow = keep ∧ (keep = true → (t.ent page).dframe = e.dframe)) ∧
          (m.tier = 0 → e.home = 1 → (t.ent page).shadow = false)) ∧
        (m.tier < e.home → t.rd Reg.MEM_PROMOTE_COUNT 0 = (s.rd Reg.MEM_PROMOTE_COUNT 0 + 1) % 2 ^ 64) ∧
        (e.home < m.tier → t.rd Reg.MEM_DEMOTE_COUNT 0 = (s.rd Reg.MEM_DEMOTE_COUNT 0 + 1) % 2 ^ 64) ∧
        ∀ p, p ≠ page → t.ent p = s.ent p)) ∧
    (s.running = true → State.nextReq (s.fillReqs d win) = some q → (s.ms.fills[d].map (·.units)).sum + u ≤ win →
      ∃ t, exec (.windowFill d) s = .next t ∧ t.mem = s.mem ∧
        t.ms.fills = s.ms.fills.set d (s.ms.fills[d] ++ [⟨q.ring, q.desc, q.md, q.base, q.ivals, [], u, q.seq, none⟩]))

/-- Memory errors (R298 to R301, R303, R445, R447, R452, R454): a corrected error counts in MEM_CE and an uncorrectable
one in MEM_UE, and neither changes a byte of memory unless a FREE waited for a page; a word on the die counts in
neither; scrub passes a line over that holds the marker and handles what it finds as an access would; a channel that
retraining finds no spare lane for is degraded with its event. -/
def Obligations.MemoryErrors : Prop :=
  ∀ (s : State) (e : ErrLoc) (f : ScrubFind) (d : Die) (deep : Bool) (ch : Nat) (r : RetrainEnd),
    let worse := if s.ms.degraded.contains (d, deep, ch) then s.ms.degraded else s.ms.degraded ++ [(d, deep, ch)]
    let marked := s.markedAt e
    (s.memUp = true →
      (e.inMemory = false → (∃ t, exec (.memoryCe e) s = .next t ∧ RegsOnly s t []) ∧
        ∀ w, e.place = .onDie w → exec (.memoryUe e) s = .next ((s.dieError w).done s.pending)) ∧
      (e.inMemory = true → exec (.memoryUe e) s = .next ((s.uncorrected e).done s.pending)) ∧
      (e.inMemory = true → ∃ t, exec (.memoryCe e) s = .next t ∧ t.rd Reg.MEM_CE_COUNT 0 = (s.rd Reg.MEM_CE_COUNT 0 + 1) % 2 ^ 64 ∧
        t.mem = s.mem ∧ t.ms.poison = s.ms.poison ∧ t.ops = s.ops ∧ ∀ p, (t.ent p).state = (s.ent p).state) ∧
      (e.inMemory = true → (∀ m ∈ s.ms.migs, m.freeAfter = false) → ∃ t, exec (.memoryUe e) s = .next t ∧ t.rd Reg.MEM_UE_COUNT 0 = (s.rd Reg.MEM_UE_COUNT 0 + 1) % 2 ^ 64 ∧
        t.mem = s.mem ∧ t.ops = s.ops) ∧
      (s.quench = false →
        (marked = true ∨ f = .clean → ∃ t, exec (.scrub e f) s = .next t ∧ RegsOnly s t []) ∧
        (marked = false → f = .corrected → exec (.scrub e f) s = exec (.memoryCe e) s) ∧
        (e.inMemory = true → marked = false → f = .uncorrectable → exec (.scrub e f) s = exec (.memoryUe e) s))) ∧
    (s.powered = true → s.pw.memAsleep = false → 3 ≤ s.stage → s.stage ≠ 5 →
      (r ≠ .noSpare ∨ s.rdB Reg.HRT_CLK_STATUS_REF_FALLBACK 0 = true → ∃ t, exec (.phyRetrain d deep ch r) s = .next t ∧
        RegsOnly s t []) ∧
      (s.rdB Reg.HRT_CLK_STATUS_REF_FALLBACK 0 = false → ∃ t, exec (.phyRetrain d deep ch .noSpare) s = .next t ∧
        t.ms.degraded = worse ∧
        (s.stage = 3 → t.rdB Reg.HRT_BOOT_PHY_DEGRADED 0 = true) ∧
        Raised s t 0x040D d none (b2n deep + (ch % 2 ^ 15) * 2) ∧
        EventsOnly { s with ms := { s.ms with degraded := worse } } t [0x000020]))

/-! The transport. -/

/-- A new packet that passes every check is applied and its PSN is performed, in Doze after it woke the module (R335 to
R338, R345, R347, R351, R417): DATA where its reception state has room, MSG, and REDUCE where its collective runs, or has
ended here, when it changes nothing more; DATA in plain pages lands byte for byte and nowhere else. -/
def Obligations.PacketsApply : Prop :=
  ∀ (s : State) (p : Fin 8) (k : Packet), Accepted s p k →
    let u := (s.inc Reg.NET_RX_FRAMES_COUNT p 1).frameWake
    let a := k.addr.toNat
    let n := k.data.length
    Fresh u k → (u.rxOf k.srcDev k.cls).above.length < 2 ^ 30 →
    (u.recFull k = false →
      exec (.dataReceive p k) s = .next (((u.applyData p k).rxPerformed p k).done s.pending) ∧
      ∃ t, exec (.dataReceive p k) s = .next t ∧
        State.performed (t.rxOf k.srcDev k.cls) k.psn.toNat = true ∧
        (u.dataOut k.unit.toNat a n = false → plainRange u a n → ∀ b, b < resPage * 2 ^ 18 →
          t.byte b = if h : a ≤ b ∧ b - a < n then k.data[b - a]'h.2 else u.byte b)) ∧
    exec (.msgReceive p k) s = .next (((u.applyMsg p k).rxPerformed p k).done s.pending) ∧
    (∀ c, u.collOf k = some c →
      exec (.reduceReceive p k) s = .next (((u.collPacket c k).rxPerformed p k).done s.pending)) ∧
    (u.collOf k = none → u.collIssued k = true → exec (.reduceReceive p k) s = .next ((u.rxPerformed p k).done s.pending))

/-- Packets turned away (R317, R335, R336, R340, R352): a port without a link takes none; a frame that fails a check is
discarded and counted; of one that passes them, which wakes the module from Doze (R417), a PSN performed before is
acknowledged again, with POISON where it was a SIGNAL of a marked flag; a unit that does not exist, another epoch, and a
state that is not ready or full are answered with a NAK of their reason. -/
def Obligations.PacketsTurnedAway : Prop :=
  ∀ (s : State) (p : Fin 8) (k : Packet) (c : Instr),
    c = .dataReceive p k ∨ c = .msgReceive p k ∨ c = .reduceReceive p k →
    let u := s.inc Reg.NET_RX_FRAMES_COUNT p 1
    let drop := !k.fcsOk || decide (9216 < k.bytes) || k.vid.toNat != s.rd Reg.NET_PORT_CFG_VID p ||
      (s.rdB Reg.NET_PORT_CFG_FAMILY p && !k.udpOk) || k.ver != 1 || k.badType
    let astray := k.dstDev.toNat != s.rd Reg.NET_DEV_ID_DEV_ID 0 || k.dstDev == 0
    let w := u.frameWake
    let rx := w.rxOf k.srcDev k.cls
    (s.rdB Reg.NET_PORT_STATUS_LINK p = false → ∃ t, exec c s = .next t ∧ RegsOnly s t []) ∧
    (s.rdB Reg.NET_PORT_STATUS_LINK p = true →
      (drop = true → exec c s = .next ((u.inc Reg.NET_RX_DROP_COUNT p 1).done s.pending)) ∧
      (drop = false → astray = true → exec c s = .next ((u.inc Reg.NET_RX_MISDIRECT_COUNT p 1).done s.pending)) ∧
      (drop = false → astray = false → k.crcOk = false →
        exec c s = .next ((u.inc Reg.NET_RX_CRC_COUNT p 1).done s.pending))) ∧
    (Accepted s p k →
      (State.performed rx k.psn.toNat = true →
        exec c s = .next ((w.sendAck { rx with
          port := p.val, ip := k.srcIp.toNat, ce := rx.ce || k.ce
          marked := (rx.refused.find? (·.1 == k.psn.toNat)).map (·.2) }).done s.pending)) ∧
      (State.performed rx k.psn.toNat = false →
        (88 ≤ k.unit.toNat → exec c s = .next ((w.sendNak p k 2).done s.pending)) ∧
        (k.unit.toNat < 88 → k.epoch.toNat ≠ w.rd Reg.NET_EPOCH_EPOCH k.unit.toNat →
          exec c s = .next (((w.inc Reg.NET_ROLE_STALE_COUNT p 1).sendNak p k 1).done s.pending)) ∧
        (k.unit.toNat < 88 → k.epoch.toNat = w.rd Reg.NET_EPOCH_EPOCH k.unit.toNat →
          (w.memUp = false ∨ w.quench = true ∨ c = .dataReceive p k ∧ w.recFull k = true ∨
            c = .reduceReceive p k ∧ w.collOf k = none ∧ w.collIssued k = false) →
          exec c s = .next ((w.sendNak p k 3).done s.pending))))

/-- Answers, timers and rates of the transport (R336, R337, R340, R359): an ACK answers the packets it covers and halves
the rate on an echo; a NAK BUSY keeps its packet and any other reason ends it with ROLE_STALE; the ACK timer
acknowledges; a retransmit timer sends its packet again, and the one that reaches UNREACH marks the connection with its
event; the rate rises by 1/64 up to the full rate; the frames held for REORDER that may leave their port do. An answer
wakes the module from Doze (R417). -/
def Obligations.AnswersTimersAndRates : Prop :=
  ∀ (s : State) (p : Fin 8) (k : Packet) (dev : BitVec 16) (cls : Fin 4) (psn : Word),
    let u := (s.inc Reg.NET_RX_FRAMES_COUNT p 1).frameWake
    let z := u.captureNet p 3 k.code.toNat k.cls.val k.srcDev k.psn.toNat k.opId.toNat
    let c := u.connOf k.srcDev k.cls
    let cum := k.aux.toNat
    let sack := ofBytes (k.data.take 8)
    let covered (x : Unacked) : Bool := State.psnLe x.psn cum ||
      (decide ((x.psn + 2 ^ 32 - (cum + 1)) % 2 ^ 32 < 64) && bit sack ((x.psn + 2 ^ 32 - (cum + 1)) % 2 ^ 32))
    let full := fun (_ : Nat) => 2 ^ 32
    let rate (t : State) : Nat := Tab.get full t.net.rates dev.toNat
    (Accepted s p k → sack = 0 → bit k.code.toNat 0 = false → c.wait = [] → ∃ t, exec (.ackReceive p k) s = .next t ∧
      (t.connOf k.srcDev k.cls).una = c.una.filter (fun x => !covered x) ∧ (t.connOf k.srcDev k.cls).next = c.next ∧
      t.ops = ((c.una.filter covered).foldl (fun (x : State) y =>
        (if k.poison && y.pkt.kind == 1 && y.pkt.opId == k.opId.toNat then x.opFlag y.pkt.own 1 else x).answered y.pkt.own) u).ops ∧
      t.mem = u.mem) ∧
    (Accepted s p k → sack = 0 → bit k.code.toNat 0 = true → c.wait = [] → u.net.halved.contains k.srcDev.toNat = false →
      ∃ t, exec (.ackReceive p k) s = .next t ∧ Tab.get full t.net.rates k.srcDev.toNat =
        Tab.get full u.net.rates k.srcDev.toNat / 2) ∧
    (Accepted s p k → ∀ y, c.una.find? (·.psn == k.psn.toNat) = some y →
      (k.code.toNat = 3 → exec (.nakReceive p k) s = .next ((z.setConn { c with una := c.una.map fun x =>
        if x.psn = k.psn.toNat then { x with busy := true } else x }).done s.pending)) ∧
      (k.code.toNat ≠ 3 → exec (.nakReceive p k) s = .next
        (((((((z.setConn { c with una := c.una.filter (·.psn != k.psn.toNat) }).collRefused y.pkt.own).opFlag y.pkt.own 5).modStats y.pkt.own
          fun l => { l with stale := true }).answered y.pkt.own).pump k.srcDev k.cls).done s.pending))) ∧
    ((s.rxOf dev cls).fresh ≠ 0 → exec (.ackTimer dev cls) s = .next ((s.sendAck (s.rxOf dev cls)).done s.pending)) ∧
    (∀ y, (s.connWith dev cls psn.toNat).una.find? (·.psn == psn.toNat) = some y → s.mayTransmit = true →
      let v := s.connWith dev cls psn.toNat
      let m := if y.busy then y.expiries else y.expiries + 1
      let lost := decide (m = s.rd Reg.NET_XPORT_CFG_UNREACH 0) && !y.busy && !v.unreach
      let w := s.setConn { v with
        unreach := v.unreach || lost
        una := v.una.map fun x => if x.psn = psn.toNat then { x with expiries := m, busy := false } else x }
      let port := State.posPort y.pkt.peer y.pos
      let w := if lost then w.raise 0x0503 port none (dev.toNat + cls * 2 ^ 16) else w
      exec (.rtoExpire dev cls psn) s = .next ((w.resend dev cls psn.toNat).done s.pending)) ∧
    (∃ t, exec (.rateRaise dev) s = .next t ∧ rate t = min (2 ^ 32) (rate s + 2 ^ 26) ∧
      RegsOnly { s with net := { s.net with rates := t.net.rates } } t []) ∧
    let due := s.net.fi[p].held.filter fun h => s.mayLeave p h.1
    ∃ t, exec (.reorderRelease p) s = .next t ∧
      t.rd Reg.NET_TX_FRAMES_COUNT p = (s.rd Reg.NET_TX_FRAMES_COUNT p + due.length) % 2 ^ 64 ∧
      RegsOnly { s with net := { s.net with
        sent := s.net.sent ++ due.map fun h => s.sentFrame p h.1 h.1
        fi := s.net.fi.set p { s.net.fi[p] with held := [] } } } t
        [0x060100 + 0x400 * p.val, 0x060104 + 0x400 * p.val]

/-- RoCEv2 and address resolution (R328, R329, R356 to R358, R436, R438, R439): a request within its window and under its
key, its PSN the next, is performed and answered, a read in frames of at most the path MTU; one of an earlier PSN is only
answered, one of a later is refused with code 5, and any other with code 3 (the PSN's part is the model's, log entry 104);
a CNP lowers the rate of its queue pair; an answer frees the oldest request, the checkpoints going on where staging has
room, and stores what it reads; a timeout sends the oldest request again, or after RETRY of them fails the queue pair, as
an error does; a LAYER entry of a drain is read into staging and sent; a port answers a request for its own address. A
frame that passes wakes the module from Doze (R417). -/
def Obligations.QueuePairsAndAddresses : Prop :=
  ∀ (s : State) (r : RoceReq) (y : RoceResp) (cnp : Cnp) (n : Fin 256) (q : Qp) (ring : RingId) (k e : Nat),
    let u := (s.inc Reg.NET_RX_FRAMES_COUNT r.port 1).frameWake
    let w := if r.ce then u.roceOut r.qp.toNat (.cnp r.qp.toNat 0) else u
    let a := r.addr.toNat
    let inside (len : Nat) : Prop := r.rkey = q.args.rkey ∧ q.args.base.toNat ≤ a ∧
      a + len ≤ q.args.base.toNat + q.args.bytes.toNat
    let via : Via := ⟨State.portDie r.port, some (Fin.ofNat 8 q.args.slot.toNat), false, 1⟩
    let ahead := (r.psn.toNat + 2 ^ 24 - q.rq) % 2 ^ 24
    let next (len : Nat) : State := w.modQp r.qp.toNat fun z => { z with
      rq := (z.rq + max 1 (ceilDiv len q.args.mtu.toNat)) % 2 ^ 24 }
    let live (v : State) : Prop := v.memUp = true ∧ v.quench = false
    (live u → s.rdB Reg.NET_PORT_STATUS_LINK r.port = true → r.bytes ≤ 9216 → 4 ≤ r.port.val →
      r.vid.toNat = s.rd Reg.NET_PORT_CFG_VID r.port → r.icrcOk = true → u.qpOf r.qp.toNat = some q → q.err = false →
      (ahead ≠ 0 → ahead < 2 ^ 23 → ∀ c, c = .rdmaWriteReceive r ∨ c = .rdmaReadReceive r → exec c s = .next
        ((w.roceOut r.qp.toNat (.roce r.qp.toNat 5 q.rq 0 0 0 [])).done s.pending)) ∧
      (2 ^ 23 ≤ ahead → inside r.data.length → exec (.rdmaWriteReceive r) s = .next
        ((w.roceOut r.qp.toNat (.roce r.qp.toNat 2 r.psn.toNat 0 0 0 [])).done s.pending)) ∧
      (2 ^ 23 ≤ ahead → inside r.length → exec (.rdmaReadReceive r) s = .next
        ((((w.readRange via a r.length).tickN r.length).readResponse r.qp.toNat q.args.mtu.toNat r.psn.toNat
          (w.readAnswer a r.length)).done s.pending)) ∧
      (ahead = 0 → inside r.data.length → exec (.rdmaWriteReceive r) s = .next
        ((((next r.data.length).store via a r.data).roceOut r.qp.toNat (.roce r.qp.toNat 2 r.psn.toNat 0 0 0 [])).done
          s.pending)) ∧
      (ahead = 0 → inside r.length →
        let v := ((next r.length).readRange via a r.length).tickN r.length
        exec (.rdmaReadReceive r) s = .next ((v.readResponse r.qp.toNat q.args.mtu.toNat r.psn.toNat
          ((next r.length).readAnswer a r.length)).done s.pending)) ∧
      (ahead = 0 ∨ 2 ^ 23 ≤ ahead → ¬inside r.data.length → exec (.rdmaWriteReceive r) s = .next
        ((w.roceOut r.qp.toNat (.roce r.qp.toNat 3 q.rq 0 0 0 [])).done s.pending)) ∧
      (ahead = 0 ∨ 2 ^ 23 ≤ ahead → ¬inside r.length → exec (.rdmaReadReceive r) s = .next
        ((w.roceOut r.qp.toNat (.roce r.qp.toNat 3 q.rq 0 0 0 [])).done s.pending))) ∧
    let uc := (s.inc Reg.NET_RX_FRAMES_COUNT cnp.port 1).frameWake
    (live uc → s.rdB Reg.NET_PORT_STATUS_LINK cnp.port = true → cnp.bytes ≤ 9216 → 4 ≤ cnp.port.val →
      cnp.vid.toNat = s.rd Reg.NET_PORT_CFG_VID cnp.port → cnp.icrcOk = true → uc.qpOf cnp.qp.toNat = some q →
      ∃ t, exec (.cnpReceive cnp) s = .next t ∧
      ∃ z, z < max 1 q.rate ∧ t.qpOf cnp.qp.toNat = some { q with rate := z } ∧
        RegsOnly { uc with
          free := uc.free + 1
          net := { uc.net with qps := t.net.qps } } t []) ∧
    (∀ x rest, q.err = false → q.out = x :: rest →
      let seen := (s.inc Reg.NET_RX_FRAMES_COUNT y.port 1).frameWake
      (live seen → seen.qpOf n = some q → y.qp.toNat = n.val → y.icrcOk = true →
        s.rdB Reg.NET_PORT_STATUS_LINK y.port = true → 4 ≤ y.port.val → y.bytes ≤ 9216 →
        y.vid.toNat = s.rd Reg.NET_PORT_CFG_VID y.port →
        let got := if y.ce then seen.roceOut n (.cnp n 0) else seen
        let freed := got.setQp n (some { q with out := rest })
        (y.nak = true → exec (.roceResponseReceive y) s = .next ((got.qpFail n).done s.pending)) ∧
        (y.nak = false → freed.ckptOf x.own = none ∨ x.read = false →
          exec (.roceResponseReceive y) s = .next (freed.ckptsGoOn.done s.pending)) ∧
        ∀ z o, y.nak = false → freed.ckptOf x.own = some z → freed.opOf x.own = some o → x.read = true →
          rest.any (fun v => v.own == x.own && v.entry == x.entry) = true →
          let d := y.data.take x.len
          exec (.roceResponseReceive y) s = .next (((((freed.store (State.ckptVia o) x.place d).inc Reg.UPD_CKPT_BYTES_COUNT 0
            d.length).modEnt o.id x.entry fun c => { c with image := c.image ++ d }).ckptsGoOn).done s.pending)) ∧
      (s.qpOf n = some q → s.powered = true → s.quench = false →
        (x.tries < q.args.retry.toNat → exec (.roceAckTimeout n) s = .next (((s.setQp n (some { q with
          out := { x with tries := x.tries + 1 } :: rest })).roceOut n x.frame).done s.pending)) ∧
        (q.args.retry.toNat ≤ x.tries → exec (.roceAckTimeout n) s = exec (.qpError n) s))) ∧
    (s.qpOf n = some q → q.err = false → exec (.qpError n) s = .next
      ((s.qpDrop n (some { q with err := true, out := [] })).done s.pending)) ∧
    (∀ o x c, (s.ringOps ring)[k]? = some o → s.ckptOf o.id = some x → x.ents[e]? = some c → live s → x.mode = 0 →
      c.kind = 1 → State.entWaits c = true → (∀ z ∈ x.ents.take e, State.entWaits z = false) →
      exec (.ckptHoldRelease ring k e) s = .next
        (((State.ckptAdvance o.id x.ents.length (s.drainEntry o e c)).ckptSettle o.id).done s.pending)) ∧
    ∀ (p : Fin 8) (t4 : BitVec 32) (t6 : BitVec 128) (vid : Option (BitVec 12)),
      let v := s.inc Reg.NET_RX_FRAMES_COUNT p 1
      let answer (x : Nat) : State := v.sendFrame p (.address x (s.rd Reg.NET_PORT_MAC_MAC p))
      s.rdB Reg.NET_PORT_STATUS_LINK p = true → s.quench = false → tagOk s p vid = true →
      (s.rd Reg.NET_PORT_CFG_FAMILY p = 0 → s.rd Reg.NET_PORT_IP_IP p = t4.toNat → t4 ≠ 0 →
        exec (.arpRequest p t4 vid) s = .next ((answer t4.toNat).done s.pending)) ∧
      (s.rd Reg.NET_PORT_CFG_FAMILY p = 1 → s.rd Reg.NET_PORT_IP_IP p = t6.toNat → t6 ≠ 0 →
        exec (.neighborSolicitation p t6 vid) s = .next ((answer t6.toNat).done s.pending))
end

