-- ==== Sys2Proof/Laws/Tab.lean ====
section
/-!
SUPPORT. Laws of the sparse tables (read after write, other keys, the canonical form), of bit fields and of little-endian
bytes.
-/
namespace Sys2Proof.Machine

variable {α : Type}

theorem Tab.get_del_same (d : Nat → α) (t : Tab α) (k : Nat) : Tab.get d (Tab.del k t) k = d k := by
  induction t with
  | nil => rfl
  | cons e t ih =>
    obtain ⟨j, w⟩ := e
    by_cases h : j = k
    · simp [Tab.del, h, ih]
    · simp [Tab.del, h, Tab.get, Ne.symm h, ih]

theorem Tab.get_del_other (d : Nat → α) (t : Tab α) {k j : Nat} (h : j ≠ k) : Tab.get d (Tab.del k t) j = Tab.get d t j := by
  induction t with
  | nil => rfl
  | cons e t ih =>
    obtain ⟨i, w⟩ := e
    by_cases hi : i = k
    · subst hi; simp [Tab.del, Tab.get, h, ih]
    · by_cases hj : j = i <;> simp [Tab.del, hi, Tab.get, hj, ih]

theorem Tab.get_put_other (d : Nat → α) (t : Tab α) {k j : Nat} (v : α) (h : j ≠ k) :
    Tab.get d (Tab.put k v t) j = Tab.get d t j := by
  induction t with
  | nil => simp [Tab.put, Tab.get, h]
  | cons e t ih =>
    obtain ⟨i, w⟩ := e
    by_cases hk : k < i
    · simp [Tab.put, hk, Tab.get, h]
    · by_cases hj : j = i <;> simp [Tab.put, hk, Tab.get, hj, ih]

theorem Tab.get_put_del (d : Nat → α) (t : Tab α) (k : Nat) (v : α) : Tab.get d (Tab.put k v (Tab.del k t)) k = v := by
  induction t with
  | nil => simp [Tab.del, Tab.put, Tab.get]
  | cons e t ih =>
    obtain ⟨i, w⟩ := e
    by_cases hi : i = k
    · simp [Tab.del, hi, ih]
    · by_cases hk : k < i
      · simp [Tab.del, hi, Tab.put, hk, Tab.get]
      · simp [Tab.del, hi, Tab.put, hk, Tab.get, Ne.symm hi, ih]

variable [DecidableEq α]

/-- A read of the key just set. -/
@[simp] theorem Tab.get_set_same (d : Nat → α) (t : Tab α) (k : Nat) (v : α) : Tab.get d (Tab.set d t k v) k = v := by
  by_cases h : v = d k
  · simp only [Tab.set, h, if_true]; exact Tab.get_del_same d t k
  · simp only [Tab.set, h, if_false]; exact Tab.get_put_del d t k v

/-- A read of another key. -/
theorem Tab.get_set_other (d : Nat → α) (t : Tab α) {k j : Nat} (v : α) (h : j ≠ k) :
    Tab.get d (Tab.set d t k v) j = Tab.get d t j := by
  by_cases hv : v = d k
  · simp only [Tab.set, hv, if_true]; exact Tab.get_del_other d t h
  · simp only [Tab.set, hv, if_false]; rw [Tab.get_put_other d _ v h, Tab.get_del_other d t h]

/-! The canonical form. -/

omit [DecidableEq α] in
theorem Tab.above_iff (b : Nat) (t : Tab α) : Tab.above b t = true ↔ ∀ e ∈ t, b < e.1 := by
  simp [Tab.above, List.all_eq_true]

omit [DecidableEq α] in
theorem Tab.mem_del {k : Nat} {t : Tab α} {e : Nat × α} (h : e ∈ Tab.del k t) : e ∈ t ∧ e.1 ≠ k := by
  induction t with
  | nil => simp [Tab.del] at h
  | cons x t ih =>
    obtain ⟨j, w⟩ := x
    by_cases hj : j = k
    · simp only [Tab.del, hj, if_true] at h; exact ⟨List.mem_cons_of_mem _ (ih h).1, (ih h).2⟩
    · simp only [Tab.del, hj, if_false, List.mem_cons] at h
      rcases h with rfl | h
      · exact ⟨List.mem_cons_self, hj⟩
      · exact ⟨List.mem_cons_of_mem _ (ih h).1, (ih h).2⟩

theorem Tab.mem_put {k : Nat} {v : α} {t : Tab α} {e : Nat × α} (h : e ∈ Tab.put k v t) : e = (k, v) ∨ e ∈ t := by
  induction t with
  | nil => simpa [Tab.put] using h
  | cons x t ih =>
    obtain ⟨j, w⟩ := x
    by_cases hj : k < j
    · simp only [Tab.put, hj, if_true, List.mem_cons] at h ⊢; tauto
    · simp only [Tab.put, hj, if_false, List.mem_cons] at h ⊢
      rcases h with h | h
      · exact Or.inr (Or.inl h)
      · rcases ih h with h | h <;> tauto

theorem Tab.wf_cons (d : Nat → α) (j : Nat) (v : α) (t : Tab α) :
    Tab.wf d ((j, v) :: t) = true ↔ (∀ e ∈ t, j < e.1) ∧ v ≠ d j ∧ Tab.wf d t = true := by
  simp [Tab.wf, Tab.above_iff, and_assoc]

theorem Tab.wf_del (d : Nat → α) (k : Nat) {t : Tab α} (h : Tab.wf d t = true) : Tab.wf d (Tab.del k t) = true := by
  induction t with
  | nil => simpa [Tab.del] using h
  | cons x t ih =>
    obtain ⟨j, w⟩ := x
    rw [Tab.wf_cons] at h
    by_cases hj : j = k
    · simp only [Tab.del, hj, if_true]; exact ih h.2.2
    · simp only [Tab.del, hj, if_false]
      rw [Tab.wf_cons]
      exact ⟨fun e he => h.1 e (Tab.mem_del he).1, h.2.1, ih h.2.2⟩

theorem Tab.wf_put (d : Nat → α) {k : Nat} {v : α} (hv : v ≠ d k) {t : Tab α} (h : Tab.wf d t = true)
    (hk : ∀ e ∈ t, e.1 ≠ k) : Tab.wf d (Tab.put k v t) = true := by
  induction t with
  | nil => simp [Tab.put, Tab.wf, Tab.above, hv]
  | cons x t ih =>
    obtain ⟨j, w⟩ := x
    rw [Tab.wf_cons] at h
    have hjk : j ≠ k := hk (j, w) List.mem_cons_self
    by_cases hj : k < j
    · simp only [Tab.put, hj, if_true]
      rw [Tab.wf_cons, Tab.wf_cons]
      refine ⟨fun e he => ?_, hv, h⟩
      rcases List.mem_cons.1 he with rfl | he
      · exact hj
      · exact hj.trans (h.1 e he)
    · simp only [Tab.put, hj, if_false]
      rw [Tab.wf_cons]
      refine ⟨fun e he => ?_, h.2.1, ih h.2.2 fun e he => hk e (List.mem_cons_of_mem _ he)⟩
      rcases Tab.mem_put he with rfl | he
      · show j < k; omega
      · exact h.1 e he

/-- Setting a key keeps the canonical form. -/
theorem Tab.wf_set (d : Nat → α) (k : Nat) (v : α) {t : Tab α} (h : Tab.wf d t = true) : Tab.wf d (Tab.set d t k v) = true := by
  by_cases hv : v = d k
  · simp only [Tab.set, hv, if_true]; exact Tab.wf_del d k h
  · simp only [Tab.set, hv, if_false]; exact Tab.wf_put d hv (Tab.wf_del d k h) fun e he => (Tab.mem_del he).2

/-- A part of a table in canonical form is in canonical form. -/
theorem Tab.wf_filter (d : Nat → α) (p : Nat × α → Bool) {t : Tab α} (h : Tab.wf d t = true) : Tab.wf d (t.filter p) = true := by
  induction t with
  | nil => simpa using h
  | cons x t ih =>
    obtain ⟨j, w⟩ := x
    rw [Tab.wf_cons] at h
    by_cases hp : p (j, w) = true
    · rw [List.filter_cons_of_pos hp, Tab.wf_cons]
      exact ⟨fun e he => h.1 e (List.mem_of_mem_filter he), h.2.1, ih h.2.2⟩
    · rw [List.filter_cons_of_neg hp]; exact ih h.2.2

/-! Bit fields. -/

theorem bits_eq (x hi lo : Nat) : bits x hi lo = x / 2 ^ lo % 2 ^ (hi + 1 - lo) := by
  simp [bits, Nat.shiftRight_eq_div_pow]

theorem bits_lt (x hi lo : Nat) : bits x hi lo < 2 ^ (hi + 1 - lo) := by
  rw [bits_eq]; exact Nat.mod_lt _ (by positivity)

/-- The parts of a number below, within and above a field. -/
theorem putBits_parts (x hi lo v : Nat) (h : lo ≤ hi) :
    putBits x hi lo v = x % 2 ^ lo + 2 ^ lo * (v % 2 ^ (hi + 1 - lo) + 2 ^ (hi + 1 - lo) * (x / 2 ^ (hi + 1))) := by
  have hs : hi + 1 = lo + (hi + 1 - lo) := by omega
  have e1 : x / 2 ^ (hi + 1) = x / 2 ^ lo / 2 ^ (hi + 1 - lo) := by
    rw [Nat.div_div_eq_div_mul, ← pow_add, ← hs]
  have e2 := Nat.div_add_mod x (2 ^ lo)
  have e3 := Nat.div_add_mod (x / 2 ^ lo) (2 ^ (hi + 1 - lo))
  simp only [putBits, bits_eq, e1]
  set a := x / 2 ^ lo with ha
  set w := 2 ^ (hi + 1 - lo)
  set p := 2 ^ lo
  have e4 : x = x % p + p * (a % w) + p * (w * (a / w)) := by
    have : p * a = p * (w * (a / w)) + p * (a % w) := by rw [← Nat.mul_add, e3]
    omega
  have e5 : a % w * p = p * (a % w) := Nat.mul_comm _ _
  have e6 : v % w * p = p * (v % w) := Nat.mul_comm _ _
  rw [e5, e6, Nat.mul_add]
  omega

/-- A field just put reads as what was put, cut to its width. -/
theorem bits_putBits_same (x hi lo v : Nat) (h : lo ≤ hi) : bits (putBits x hi lo v) hi lo = v % 2 ^ (hi + 1 - lo) := by
  rw [bits_eq, putBits_parts x hi lo v h, Nat.add_mul_div_left _ _ (by positivity), Nat.div_eq_of_lt (Nat.mod_lt _ (by positivity)),
    Nat.zero_add, Nat.add_mul_mod_self_left, Nat.mod_mod]

/-- A field below the one put is unchanged. -/
theorem bits_putBits_below (x hi lo v hi' lo' : Nat) (h : lo ≤ hi) (hb : hi' < lo) (hl : lo' ≤ hi') :
    bits (putBits x hi lo v) hi' lo' = bits x hi' lo' := by
  rw [bits_eq, bits_eq, putBits_parts x hi lo v h]
  have key : ∀ y : Nat, y / 2 ^ lo' % 2 ^ (hi' + 1 - lo') = y % 2 ^ (hi' + 1) / 2 ^ lo' := by
    intro y
    have : hi' + 1 = lo' + (hi' + 1 - lo') := by omega
    rw [this, pow_add, Nat.mod_mul_right_div_self]; congr 2; omega
  rw [key, key]
  congr 1
  have hd : (2 ^ (hi' + 1)) ∣ 2 ^ lo := pow_dvd_pow 2 (by omega)
  obtain ⟨c, hc⟩ := hd
  rw [hc, Nat.mul_assoc, Nat.add_mul_mod_self_left, Nat.mod_mul_right_mod]

/-- A field above the one put is unchanged. -/
theorem bits_putBits_above (x hi lo v hi' lo' : Nat) (h : lo ≤ hi) (hb : hi < lo') :
    bits (putBits x hi lo v) hi' lo' = bits x hi' lo' := by
  rw [bits_eq, bits_eq]
  congr 1
  obtain ⟨k, rfl⟩ : ∃ k, lo' = hi + 1 + k := ⟨lo' - (hi + 1), by omega⟩
  rw [pow_add, ← Nat.div_div_eq_div_mul, ← Nat.div_div_eq_div_mul]
  congr 1
  have hs : (2 : Nat) ^ (hi + 1) = 2 ^ lo * 2 ^ (hi + 1 - lo) := by rw [← pow_add]; congr 1; omega
  rw [putBits_parts x hi lo v h, hs, ← Nat.div_div_eq_div_mul, Nat.add_mul_div_left _ _ (by positivity),
    Nat.div_eq_of_lt (Nat.mod_lt _ (by positivity)), Nat.zero_add, Nat.add_mul_div_left _ _ (by positivity),
    Nat.div_eq_of_lt (Nat.mod_lt _ (by positivity)), Nat.zero_add]

/-- A field put into a number of n bits leaves a number of n bits. -/
theorem putBits_lt {x n : Nat} (hi lo v : Nat) (h : lo ≤ hi) (hn : hi < n) (hx : x < 2 ^ n) : putBits x hi lo v < 2 ^ n := by
  rw [putBits_parts x hi lo v h]
  set w := hi + 1 - lo with hw
  have a1 : x % 2 ^ lo < 2 ^ lo := Nat.mod_lt _ (by positivity)
  have a2 : v % 2 ^ w < 2 ^ w := Nat.mod_lt _ (by positivity)
  have a3 : x / 2 ^ (hi + 1) < 2 ^ (n - (hi + 1)) := by
    rw [Nat.div_lt_iff_lt_mul (by positivity), ← pow_add]
    have : n - (hi + 1) + (hi + 1) = n := by omega
    rw [this]; exact hx
  have hs : (2 : Nat) ^ n = 2 ^ lo * (2 ^ w * 2 ^ (n - (hi + 1))) := by
    rw [← pow_add, ← pow_add]; congr 1; omega
  rw [hs]
  set p := 2 ^ lo
  set q := 2 ^ w
  set c := 2 ^ (n - (hi + 1))
  set b := x / 2 ^ (hi + 1)
  have b1 : v % q + q * b + 1 ≤ q * c := by
    have : q * (b + 1) ≤ q * c := Nat.mul_le_mul_left _ a3
    rw [Nat.mul_add] at this; omega
  have b2 : p * (v % q + q * b + 1) ≤ p * (q * c) := Nat.mul_le_mul_left _ b1
  rw [Nat.mul_add] at b2
  omega

end Sys2Proof.Machine
end

