-- ==== Sys2Proof/Laws/State.lean ====
section
/-!
SUPPORT. Laws of State and of the shared operations of Ops.lean: words and fields of the control space read after write,
what each operation leaves unchanged, and the form of every command's outcome.
-/
namespace Sys2Proof.Machine

open Sys2Proof.Safety

namespace State

/-! Blanked states: two states with equal blanked states differ at most in the blanked fields. -/

/-- A state without its control space. -/
def noCtl (s : State) : State := { s with ctl := [] }

/-- A state without its control space, events, flash and captures. -/
def noEvent (s : State) : State := { s with ctl := [], tel := telReset, flash := flashFactory }

/-- A state without what an access of memory may change. -/
def noMem (s : State) : State :=
  { s with ctl := [], tel := telReset, flash := flashFactory, mem := [], ms := memReset, free := 0 }

theorem eq_of_noCtl {s t : State} (h : t.noCtl = s.noCtl) : t = { s with ctl := t.ctl } := by
  cases s; cases t; simp only [noCtl] at h ⊢; injection h; subst_vars; rfl

theorem eq_of_noEvent {s t : State} (h : t.noEvent = s.noEvent) :
    t = { s with ctl := t.ctl, tel := t.tel, flash := t.flash } := by
  cases s; cases t; simp only [noEvent] at h ⊢; injection h; subst_vars; rfl

theorem eq_of_noMem {s t : State} (h : t.noMem = s.noMem) :
    t = { s with ctl := t.ctl, tel := t.tel, flash := t.flash, mem := t.mem, ms := t.ms, free := t.free } := by
  cases s; cases t; simp only [noMem] at h ⊢; injection h; subst_vars; rfl

theorem noEvent_of_noCtl {s t : State} (h : t.noCtl = s.noCtl) : t.noEvent = s.noEvent := by
  rw [eq_of_noCtl h]; rfl

theorem noMem_of_noEvent {s t : State} (h : t.noEvent = s.noEvent) : t.noMem = s.noMem := by
  rw [eq_of_noEvent h]; rfl

theorem noMem_of_noCtl {s t : State} (h : t.noCtl = s.noCtl) : t.noMem = s.noMem :=
  noMem_of_noEvent (noEvent_of_noCtl h)

/-! Words. -/

@[simp] theorem setWord_noCtl (s : State) (a : Nat) (v : Word) : (s.setWord a v).noCtl = s.noCtl := id rfl

@[simp] theorem word_setWord_same (s : State) (a : Nat) (v : Word) : (s.setWord a v).word a = v := by
  simp [word, setWord]

theorem word_setWord_other (s : State) {a b : Nat} (v : Word) (h : b ≠ a) : (s.setWord a v).word b = s.word b := by
  simp [word, setWord, Tab.get_set_other _ _ _ h]

@[simp] theorem setWordsAt_noCtl (s : State) (a n v : Nat) : (s.setWordsAt a n v).noCtl = s.noCtl := by
  induction n generalizing s a v with
  | zero => rfl
  | succ n ih => simp only [setWordsAt, ih, setWord_noCtl]

theorem word_setWordsAt_ne (s : State) {a n b : Nat} (v : Nat) (h : ∀ k, k < n → b ≠ a + 4 * k) :
    (s.setWordsAt a n v).word b = s.word b := by
  induction n generalizing s a v with
  | zero => rfl
  | succ n ih =>
    rw [setWordsAt, ih _ _ (fun k hk => by have := h (k + 1) (by omega); omega), word_setWord_other _ _ (by have := h 0 (by omega); omega)]

theorem word_setWordsAt_other (s : State) {a n b : Nat} (v : Nat) (h : b < a ∨ a + 4 * n ≤ b) :
    (s.setWordsAt a n v).word b = s.word b := word_setWordsAt_ne s v fun k hk => by omega

theorem wordsAt_congr {s t : State} {a n : Nat} (h : ∀ b, a ≤ b → b < a + 4 * n → t.word b = s.word b) :
    t.wordsAt a n = s.wordsAt a n := by
  induction n generalizing a with
  | zero => rfl
  | succ n ih =>
    simp only [wordsAt]
    rw [h a (by omega) (by omega), ih fun b h1 h2 => h b (by omega) (by omega)]

theorem wordsAt_setWordsAt_other (s : State) {a n b m : Nat} (v : Nat) (h : b + 4 * m ≤ a ∨ a + 4 * n ≤ b) :
    (s.setWordsAt a n v).wordsAt b m = s.wordsAt b m :=
  wordsAt_congr fun c h1 h2 => word_setWordsAt_other s v (by omega)

theorem wordsAt_setWord_other (s : State) {a b m : Nat} (v : Word) (h : b + 4 * m ≤ a ∨ a + 4 ≤ b) :
    (s.setWord a v).wordsAt b m = s.wordsAt b m :=
  wordsAt_congr fun c h1 h2 => word_setWord_other s v (by omega)

theorem wordsAt_setWordsAt_same (s : State) (a n v : Nat) : (s.setWordsAt a n v).wordsAt a n = v % 2 ^ (32 * n) := by
  induction n generalizing s a v with
  | zero => simp [wordsAt, Nat.mod_one]
  | succ n ih =>
    rw [setWordsAt, wordsAt, ih, word_setWordsAt_other _ _ (by omega), word_setWord_same]
    have e : 32 * (n + 1) = 32 + 32 * n := by omega
    rw [e, pow_add, Nat.mod_mul]
    simp [BitVec.toNat_ofNat]

theorem wordsAt_lt (s : State) (a n : Nat) : s.wordsAt a n < 2 ^ (32 * n) := by
  induction n generalizing a with
  | zero => simp [wordsAt]
  | succ n ih =>
    have h1 := (s.word a).isLt
    have h2 := ih (a + 4)
    have e : 32 * (n + 1) = 32 + 32 * n := by omega
    rw [wordsAt, e, pow_add]
    have : 2 ^ 32 * (s.wordsAt (a + 4) n + 1) ≤ 2 ^ 32 * 2 ^ (32 * n) := Nat.mul_le_mul_left _ h2
    omega

/-! Fields. -/

/-- Two fields of registers apart: in other words, or in one word in other bits. -/
def apart (f : Field) (i : Nat) (g : Field) (j : Nat) : Bool :=
  decide (fieldAddr f i + 4 * fieldWords f ≤ fieldAddr g j) || decide (fieldAddr g j + 4 * fieldWords g ≤ fieldAddr f i) ||
    (decide (0 < f.len) && decide (0 < g.len) && fieldAddr f i == fieldAddr g j && fieldWords f == fieldWords g &&
      (decide (f.lo % 32 + f.len ≤ g.lo % 32) || decide (g.lo % 32 + g.len ≤ f.lo % 32)))

@[simp] theorem wr_noCtl (s : State) (f : Field) (i v : Nat) : (s.wr f i v).noCtl = s.noCtl := setWordsAt_noCtl ..
@[simp] theorem wrB_noCtl (s : State) (f : Field) (i : Nat) (b : Bool) : (s.wrB f i b).noCtl = s.noCtl := wr_noCtl ..
@[simp] theorem inc_noCtl (s : State) (f : Field) (i n : Nat) : (s.inc f i n).noCtl = s.noCtl := wr_noCtl ..
@[simp] theorem incSat_noCtl (s : State) (f : Field) (i : Nat) : (s.incSat f i).noCtl = s.noCtl := wr_noCtl ..

/-- A field's bits lie within its words. -/
theorem field_fits (f : Field) : f.lo % 32 + f.len ≤ 32 * fieldWords f := by
  simp only [fieldWords]; omega

theorem rd_eq_bits (s : State) (f : Field) (i : Nat) (h : 0 < f.len) :
    s.rd f i = bits (s.wordsAt (fieldAddr f i) (fieldWords f)) (f.lo % 32 + f.len - 1) (f.lo % 32) := by
  have e : f.lo % 32 + f.len - 1 + 1 - f.lo % 32 = f.len := by omega
  simp only [rd, bits, e]

theorem rd_lt (s : State) (f : Field) (i : Nat) : s.rd f i < 2 ^ f.len := Nat.mod_lt _ (by positivity)

/-- A field reads as what was written, cut to its width. -/
theorem rd_wr_same (s : State) (f : Field) (i v : Nat) (h : 0 < f.len) : (s.wr f i v).rd f i = v % 2 ^ f.len := by
  have hf := field_fits f
  rw [rd_eq_bits _ _ _ h, wr, wordsAt_setWordsAt_same, Nat.mod_eq_of_lt, bits_putBits_same _ _ _ _ (by omega)]
  · congr 2; omega
  · exact putBits_lt _ _ _ (by omega) (by omega) (wordsAt_lt _ _ _)

/-- A field apart from the one written is unchanged. -/
theorem rd_wr_other (s : State) {f : Field} {i : Nat} {g : Field} {j : Nat} (v : Nat) (h : apart f i g j = true) :
    (s.wr f i v).rd g j = s.rd g j := by
  have hf := field_fits f
  have hg := field_fits g
  simp only [apart, Bool.or_eq_true, Bool.and_eq_true, decide_eq_true_eq, beq_iff_eq] at h
  rcases h with (h | h) | ⟨⟨⟨⟨h0, h1⟩, h2⟩, h3⟩, h4⟩
  · simp only [rd, wr]; rw [wordsAt_setWordsAt_other _ _ (Or.inr h)]
  · simp only [rd, wr]; rw [wordsAt_setWordsAt_other _ _ (Or.inl h)]
  · rw [rd_eq_bits _ _ _ h1, rd_eq_bits _ _ _ h1, wr, ← h2, ← h3, wordsAt_setWordsAt_same, Nat.mod_eq_of_lt]
    · rcases h4 with h4 | h4
      · exact bits_putBits_above _ _ _ _ _ _ (by omega) (by omega)
      · exact bits_putBits_below _ _ _ _ _ _ (by omega) (by omega) (by omega)
    · exact putBits_lt _ _ _ (by omega) (by omega) (wordsAt_lt _ _ _)

theorem word_wr_other (s : State) {f : Field} {i a : Nat} (v : Nat)
    (h : a < fieldAddr f i ∨ fieldAddr f i + 4 * fieldWords f ≤ a) : (s.wr f i v).word a = s.word a :=
  word_setWordsAt_other _ _ h

theorem word_wr_ne (s : State) {f : Field} {i a : Nat} (v : Nat) (h : ∀ k, k < fieldWords f → a ≠ fieldAddr f i + 4 * k) :
    (s.wr f i v).word a = s.word a := word_setWordsAt_ne _ _ h

/-- Whether every word of a field is listed. -/
def within (f : Field) (i : Nat) (ws : List Nat) : Bool := (List.range (fieldWords f)).all fun k => ws.contains (fieldAddr f i + 4 * k)

/-- A word not listed is unchanged where a field whose words are all listed is written. -/
theorem word_wr_listed {s : State} {f : Field} {i v a : Nat} {ws : List Nat} (ha : a ∉ ws) (h : within f i ws = true) :
    (s.wr f i v).word a = s.word a := by
  refine word_wr_ne _ _ fun k hk he => ha ?_
  simp only [within, List.all_eq_true, List.mem_range, List.contains_iff_mem] at h
  exact he ▸ h k hk

theorem rd_congr {s t : State} {f : Field} {i : Nat}
    (h : ∀ a, fieldAddr f i ≤ a → a < fieldAddr f i + 4 * fieldWords f → t.word a = s.word a) : t.rd f i = s.rd f i := by
  simp only [rd]; rw [wordsAt_congr h]

theorem rd_of_ctl {s t : State} (h : t.ctl = s.ctl) (f : Field) (i : Nat) : t.rd f i = s.rd f i :=
  rd_congr fun a _ _ => by simp only [word, h]

theorem word_of_ctl {s t : State} (h : t.ctl = s.ctl) (a : Nat) : t.word a = s.word a := by simp only [word, h]

theorem rdB_wrB_same (s : State) (f : Field) (i : Nat) (b : Bool) (h : f.len = 1) : (s.wrB f i b).rdB f i = b := by
  rw [rdB, wrB, rd_wr_same _ _ _ _ (by omega), h]; cases b <;> rfl

/-! Registers read beside the update of another field of the state. -/

@[simp] theorem word_with_mem (s : State) (v : Tab Byte) (a : Nat) : ({ s with mem := v } : State).word a = s.word a := id rfl
@[simp] theorem rd_with_mem (s : State) (v : Tab Byte) (f : Field) (i : Nat) : ({ s with mem := v } : State).rd f i = s.rd f i :=
  rd_of_ctl (s := s) (t := { s with mem := v }) rfl f i
@[simp] theorem rdB_with_mem (s : State) (v : Tab Byte) (f : Field) (i : Nat) : ({ s with mem := v } : State).rdB f i = s.rdB f i := by
  simp only [rdB, rd_with_mem]
@[simp] theorem word_with_ms (s : State) (v : MemSys) (a : Nat) : ({ s with ms := v } : State).word a = s.word a := id rfl
@[simp] theorem rd_with_ms (s : State) (v : MemSys) (f : Field) (i : Nat) : ({ s with ms := v } : State).rd f i = s.rd f i :=
  rd_of_ctl (s := s) (t := { s with ms := v }) rfl f i
@[simp] theorem rdB_with_ms (s : State) (v : MemSys) (f : Field) (i : Nat) : ({ s with ms := v } : State).rdB f i = s.rdB f i := by
  simp only [rdB, rd_with_ms]
@[simp] theorem word_with_tel (s : State) (v : Tel) (a : Nat) : ({ s with tel := v } : State).word a = s.word a := id rfl
@[simp] theorem rd_with_tel (s : State) (v : Tel) (f : Field) (i : Nat) : ({ s with tel := v } : State).rd f i = s.rd f i :=
  rd_of_ctl (s := s) (t := { s with tel := v }) rfl f i
@[simp] theorem rdB_with_tel (s : State) (v : Tel) (f : Field) (i : Nat) : ({ s with tel := v } : State).rdB f i = s.rdB f i := by
  simp only [rdB, rd_with_tel]
@[simp] theorem word_with_pw (s : State) (v : Power) (a : Nat) : ({ s with pw := v } : State).word a = s.word a := id rfl
@[simp] theorem rd_with_pw (s : State) (v : Power) (f : Field) (i : Nat) : ({ s with pw := v } : State).rd f i = s.rd f i :=
  rd_of_ctl (s := s) (t := { s with pw := v }) rfl f i
@[simp] theorem rdB_with_pw (s : State) (v : Power) (f : Field) (i : Nat) : ({ s with pw := v } : State).rdB f i = s.rdB f i := by
  simp only [rdB, rd_with_pw]
@[simp] theorem word_with_kal (s : State) (v : Kalec) (a : Nat) : ({ s with kal := v } : State).word a = s.word a := id rfl
@[simp] theorem rd_with_kal (s : State) (v : Kalec) (f : Field) (i : Nat) : ({ s with kal := v } : State).rd f i = s.rd f i :=
  rd_of_ctl (s := s) (t := { s with kal := v }) rfl f i
@[simp] theorem rdB_with_kal (s : State) (v : Kalec) (f : Field) (i : Nat) : ({ s with kal := v } : State).rdB f i = s.rdB f i := by
  simp only [rdB, rd_with_kal]
@[simp] theorem word_with_flash (s : State) (v : Flash) (a : Nat) : ({ s with flash := v } : State).word a = s.word a := id rfl
@[simp] theorem rd_with_flash (s : State) (v : Flash) (f : Field) (i : Nat) : ({ s with flash := v } : State).rd f i = s.rd f i :=
  rd_of_ctl (s := s) (t := { s with flash := v }) rfl f i
@[simp] theorem rdB_with_flash (s : State) (v : Flash) (f : Field) (i : Nat) : ({ s with flash := v } : State).rdB f i = s.rdB f i := by
  simp only [rdB, rd_with_flash]
@[simp] theorem word_with_fuses (s : State) (v : Fuses) (a : Nat) : ({ s with fuses := v } : State).word a = s.word a := id rfl
@[simp] theorem rd_with_fuses (s : State) (v : Fuses) (f : Field) (i : Nat) : ({ s with fuses := v } : State).rd f i = s.rd f i :=
  rd_of_ctl (s := s) (t := { s with fuses := v }) rfl f i
@[simp] theorem rdB_with_fuses (s : State) (v : Fuses) (f : Field) (i : Nat) : ({ s with fuses := v } : State).rdB f i = s.rdB f i := by
  simp only [rdB, rd_with_fuses]
@[simp] theorem word_with_sec (s : State) (v : Sec) (a : Nat) : ({ s with sec := v } : State).word a = s.word a := id rfl
@[simp] theorem rd_with_sec (s : State) (v : Sec) (f : Field) (i : Nat) : ({ s with sec := v } : State).rd f i = s.rd f i :=
  rd_of_ctl (s := s) (t := { s with sec := v }) rfl f i
@[simp] theorem rdB_with_sec (s : State) (v : Sec) (f : Field) (i : Nat) : ({ s with sec := v } : State).rdB f i = s.rdB f i := by
  simp only [rdB, rd_with_sec]
@[simp] theorem word_with_tap (s : State) (v : Tap) (a : Nat) : ({ s with tap := v } : State).word a = s.word a := id rfl
@[simp] theorem rd_with_tap (s : State) (v : Tap) (f : Field) (i : Nat) : ({ s with tap := v } : State).rd f i = s.rd f i :=
  rd_of_ctl (s := s) (t := { s with tap := v }) rfl f i
@[simp] theorem rdB_with_tap (s : State) (v : Tap) (f : Field) (i : Nat) : ({ s with tap := v } : State).rdB f i = s.rdB f i := by
  simp only [rdB, rd_with_tap]
@[simp] theorem word_with_rings (s : State) (v : Vector Ring 48) (a : Nat) : ({ s with rings := v } : State).word a = s.word a := id rfl
@[simp] theorem rd_with_rings (s : State) (v : Vector Ring 48) (f : Field) (i : Nat) : ({ s with rings := v } : State).rd f i = s.rd f i :=
  rd_of_ctl (s := s) (t := { s with rings := v }) rfl f i
@[simp] theorem rdB_with_rings (s : State) (v : Vector Ring 48) (f : Field) (i : Nat) : ({ s with rings := v } : State).rdB f i = s.rdB f i := by
  simp only [rdB, rd_with_rings]
@[simp] theorem word_with_seqr (s : State) (v : Vector Seqr 2) (a : Nat) : ({ s with seqr := v } : State).word a = s.word a := id rfl
@[simp] theorem rd_with_seqr (s : State) (v : Vector Seqr 2) (f : Field) (i : Nat) : ({ s with seqr := v } : State).rd f i = s.rd f i :=
  rd_of_ctl (s := s) (t := { s with seqr := v }) rfl f i
@[simp] theorem rdB_with_seqr (s : State) (v : Vector Seqr 2) (f : Field) (i : Nat) : ({ s with seqr := v } : State).rdB f i = s.rdB f i := by
  simp only [rdB, rd_with_seqr]
@[simp] theorem word_with_anv (s : State) (v : Vector Anvil 4) (a : Nat) : ({ s with anv := v } : State).word a = s.word a := id rfl
@[simp] theorem rd_with_anv (s : State) (v : Vector Anvil 4) (f : Field) (i : Nat) : ({ s with anv := v } : State).rd f i = s.rd f i :=
  rd_of_ctl (s := s) (t := { s with anv := v }) rfl f i
@[simp] theorem rdB_with_anv (s : State) (v : Vector Anvil 4) (f : Field) (i : Nat) : ({ s with anv := v } : State).rdB f i = s.rdB f i := by
  simp only [rdB, rd_with_anv]
@[simp] theorem word_with_ops (s : State) (v : List Op) (a : Nat) : ({ s with ops := v } : State).word a = s.word a := id rfl
@[simp] theorem rd_with_ops (s : State) (v : List Op) (f : Field) (i : Nat) : ({ s with ops := v } : State).rd f i = s.rd f i :=
  rd_of_ctl (s := s) (t := { s with ops := v }) rfl f i
@[simp] theorem rdB_with_ops (s : State) (v : List Op) (f : Field) (i : Nat) : ({ s with ops := v } : State).rdB f i = s.rdB f i := by
  simp only [rdB, rd_with_ops]
@[simp] theorem word_with_opNext (s : State) (v : Nat) (a : Nat) : ({ s with opNext := v } : State).word a = s.word a := id rfl
@[simp] theorem rd_with_opNext (s : State) (v : Nat) (f : Field) (i : Nat) : ({ s with opNext := v } : State).rd f i = s.rd f i :=
  rd_of_ctl (s := s) (t := { s with opNext := v }) rfl f i
@[simp] theorem rdB_with_opNext (s : State) (v : Nat) (f : Field) (i : Nat) : ({ s with opNext := v } : State).rdB f i = s.rdB f i := by
  simp only [rdB, rd_with_opNext]
@[simp] theorem word_with_slots (s : State) (v : Vector Slot 8) (a : Nat) : ({ s with slots := v } : State).word a = s.word a := id rfl
@[simp] theorem rd_with_slots (s : State) (v : Vector Slot 8) (f : Field) (i : Nat) : ({ s with slots := v } : State).rd f i = s.rd f i :=
  rd_of_ctl (s := s) (t := { s with slots := v }) rfl f i
@[simp] theorem rdB_with_slots (s : State) (v : Vector Slot 8) (f : Field) (i : Nat) : ({ s with slots := v } : State).rdB f i = s.rdB f i := by
  simp only [rdB, rd_with_slots]
@[simp] theorem word_with_net (s : State) (v : Net) (a : Nat) : ({ s with net := v } : State).word a = s.word a := id rfl
@[simp] theorem rd_with_net (s : State) (v : Net) (f : Field) (i : Nat) : ({ s with net := v } : State).rd f i = s.rd f i :=
  rd_of_ctl (s := s) (t := { s with net := v }) rfl f i
@[simp] theorem rdB_with_net (s : State) (v : Net) (f : Field) (i : Nat) : ({ s with net := v } : State).rdB f i = s.rdB f i := by
  simp only [rdB, rd_with_net]
@[simp] theorem word_with_layers (s : State) (v : List Layer) (a : Nat) : ({ s with layers := v } : State).word a = s.word a := id rfl
@[simp] theorem rd_with_layers (s : State) (v : List Layer) (f : Field) (i : Nat) : ({ s with layers := v } : State).rd f i = s.rd f i :=
  rd_of_ctl (s := s) (t := { s with layers := v }) rfl f i
@[simp] theorem rdB_with_layers (s : State) (v : List Layer) (f : Field) (i : Nat) : ({ s with layers := v } : State).rdB f i = s.rdB f i := by
  simp only [rdB, rd_with_layers]
@[simp] theorem word_with_upds (s : State) (v : List Upd) (a : Nat) : ({ s with upds := v } : State).word a = s.word a := id rfl
@[simp] theorem rd_with_upds (s : State) (v : List Upd) (f : Field) (i : Nat) : ({ s with upds := v } : State).rd f i = s.rd f i :=
  rd_of_ctl (s := s) (t := { s with upds := v }) rfl f i
@[simp] theorem rdB_with_upds (s : State) (v : List Upd) (f : Field) (i : Nat) : ({ s with upds := v } : State).rdB f i = s.rdB f i := by
  simp only [rdB, rd_with_upds]
@[simp] theorem word_with_sprigs (s : State) (v : Vector Sprig 24) (a : Nat) : ({ s with sprigs := v } : State).word a = s.word a := id rfl
@[simp] theorem rd_with_sprigs (s : State) (v : Vector Sprig 24) (f : Field) (i : Nat) : ({ s with sprigs := v } : State).rd f i = s.rd f i :=
  rd_of_ctl (s := s) (t := { s with sprigs := v }) rfl f i
@[simp] theorem rdB_with_sprigs (s : State) (v : Vector Sprig 24) (f : Field) (i : Nat) : ({ s with sprigs := v } : State).rdB f i = s.rdB f i := by
  simp only [rdB, rd_with_sprigs]
@[simp] theorem word_with_ckpts (s : State) (v : List Ckpt) (a : Nat) : ({ s with ckpts := v } : State).word a = s.word a := id rfl
@[simp] theorem rd_with_ckpts (s : State) (v : List Ckpt) (f : Field) (i : Nat) : ({ s with ckpts := v } : State).rd f i = s.rd f i :=
  rd_of_ctl (s := s) (t := { s with ckpts := v }) rfl f i
@[simp] theorem rdB_with_ckpts (s : State) (v : List Ckpt) (f : Field) (i : Nat) : ({ s with ckpts := v } : State).rdB f i = s.rdB f i := by
  simp only [rdB, rd_with_ckpts]
@[simp] theorem word_with_pools (s : State) (v : Vector Pool 16) (a : Nat) : ({ s with pools := v } : State).word a = s.word a := id rfl
@[simp] theorem rd_with_pools (s : State) (v : Vector Pool 16) (f : Field) (i : Nat) : ({ s with pools := v } : State).rd f i = s.rd f i :=
  rd_of_ctl (s := s) (t := { s with pools := v }) rfl f i
@[simp] theorem rdB_with_pools (s : State) (v : Vector Pool 16) (f : Field) (i : Nat) : ({ s with pools := v } : State).rdB f i = s.rdB f i := by
  simp only [rdB, rd_with_pools]
@[simp] theorem word_with_wres (s : State) (v : KStat) (a : Nat) : ({ s with wres := v } : State).word a = s.word a := id rfl
@[simp] theorem rd_with_wres (s : State) (v : KStat) (f : Field) (i : Nat) : ({ s with wres := v } : State).rd f i = s.rd f i :=
  rd_of_ctl (s := s) (t := { s with wres := v }) rfl f i
@[simp] theorem rdB_with_wres (s : State) (v : KStat) (f : Field) (i : Nat) : ({ s with wres := v } : State).rdB f i = s.rdB f i := by
  simp only [rdB, rd_with_wres]
@[simp] theorem word_with_free (s : State) (v : Nat) (a : Nat) : ({ s with free := v } : State).word a = s.word a := id rfl
@[simp] theorem rd_with_free (s : State) (v : Nat) (f : Field) (i : Nat) : ({ s with free := v } : State).rd f i = s.rd f i :=
  rd_of_ctl (s := s) (t := { s with free := v }) rfl f i
@[simp] theorem rdB_with_free (s : State) (v : Nat) (f : Field) (i : Nat) : ({ s with free := v } : State).rdB f i = s.rdB f i := by
  simp only [rdB, rd_with_free]

/-! Events. -/

@[simp] theorem logRec_ctl (s : State) (r : BitVec 128) : (s.logRec r).ctl = s.ctl := id rfl
@[simp] theorem logRec_noEvent (s : State) (r : BitVec 128) : (s.logRec r).noEvent = s.noEvent := id rfl
@[simp] theorem takeDseq_noCtl (s : State) : s.takeDseq.noCtl = s.noCtl := id rfl

@[simp] theorem note_noEvent (s : State) (c u : Nat) (sl : Option (Fin 8)) (a : Nat) : (s.note c u sl a).noEvent = s.noEvent := by
  rw [note, noEvent_of_noCtl (takeDseq_noCtl _), logRec_noEvent]

theorem note_word (s : State) (c u : Nat) (sl : Option (Fin 8)) (a b : Nat) (h : b ≠ 0x03F004) :
    (s.note c u sl a).word b = s.word b := by
  rw [note, takeDseq, word_setWord_other _ _ h]; rfl

@[simp] theorem capturePosts_noEvent (s : State) (d : Fin 2) : (s.capturePosts d).noEvent = s.noEvent := id rfl
@[simp] theorem capturePosts_word (s : State) (d : Fin 2) (b : Nat) : (s.capturePosts d).word b = s.word b := id rfl

@[simp] theorem captureStops_noEvent (s : State) (d : Fin 2) : (s.captureStops d).noEvent = s.noEvent := by
  simp only [captureStops, note_noEvent]
  rw [noEvent_of_noCtl (wrB_noCtl _ _ _ _), noEvent_of_noCtl (wrB_noCtl _ _ _ _), noEvent_of_noCtl (wrB_noCtl _ _ _ _)]
  split
  · exact (noEvent_of_noCtl (wr_noCtl s _ _ _) : _)
  · rfl

@[simp] theorem captureStop_noEvent (s : State) (d : Fin 2) : (s.captureStop d).noEvent = s.noEvent := by
  simp only [captureStop]; split
  · simp
  · split <;> simp

@[simp] theorem captureTrigger_noEvent (s : State) (d : Fin 2) : (s.captureTrigger d).noEvent = s.noEvent := by
  unfold captureTrigger; split
  · rfl
  · split
    · simp
    · rfl

@[simp] theorem captureOn_noEvent (s : State) (c : Nat) : (s.captureOn c).noEvent = s.noEvent := by
  simp only [captureOn]; split <;> split <;> simp

@[simp] theorem raise_noEvent (s : State) (c u : Nat) (sl : Option (Fin 8)) (a : Nat) : (s.raise c u sl a).noEvent = s.noEvent := by
  simp [raise]

@[simp] theorem raiseLong_noEvent (s : State) (c u : Nat) (sl : Option (Fin 8)) (a r : Nat) :
    (s.raiseLong c u sl a r).noEvent = s.noEvent := by simp [raiseLong]

@[simp] theorem capture_noEvent (s : State) (d : Fin 2) (x b : Nat) : (s.capture d x b).noEvent = s.noEvent := by
  unfold capture; split
  · simp only []; rw [noEvent_of_noCtl (wr_noCtl _ _ _ _)]; rfl
  · rfl

theorem captureStops_word (s : State) (d : Fin 2) (b : Nat) (h : b ∉ eventWords) : (s.captureStops d).word b = s.word b := by
  simp only [eventWords, List.mem_cons, List.not_mem_nil, or_false, not_or] at h
  simp only [captureStops]
  have hd : d = 0 ∨ d = 1 := by omega
  rw [note_word _ _ _ _ _ _ h.1]
  rcases hd with rfl | rfl <;>
  · rw [wrB, word_wr_ne _ _ (by simp [fieldAddr, fieldWords, Reg.MEM_FCAP_CTRL_ARM]; omega),
      wrB, word_wr_ne _ _ (by simp [fieldAddr, fieldWords, Reg.MEM_FCAP_STATUS_UNREAD]; omega),
      wrB, word_wr_ne _ _ (by simp [fieldAddr, fieldWords, Reg.MEM_FCAP_STATUS_TRIGGERED]; omega)]
    split
    · exact word_wr_ne _ _ (by simp [fieldAddr, fieldWords, Reg.HRT_CD_HOLD_CD3]; omega)
    · rfl

theorem captureStop_word (s : State) (d : Fin 2) (b : Nat) (h : b ∉ eventWords) : (s.captureStop d).word b = s.word b := by
  simp only [captureStop]; split
  · exact captureStops_word s d b h
  · split <;> simp [captureStops_word _ _ _ h]

theorem captureTrigger_word (s : State) (d : Fin 2) (b : Nat) (h : b ∉ eventWords) :
    (s.captureTrigger d).word b = s.word b := by
  unfold captureTrigger; split
  · rfl
  · split
    · exact captureStop_word s d b h
    · rfl

theorem captureOn_word (s : State) (c b : Nat) (h : b ∉ eventWords) : (s.captureOn c).word b = s.word b := by
  simp only [captureOn]; split <;> split <;> simp [captureTrigger_word _ _ _ h]

/-- An event changes no word but those of `eventWords`. -/
theorem raise_word (s : State) (c u : Nat) (sl : Option (Fin 8)) (a b : Nat) (h : b ∉ eventWords) :
    (s.raise c u sl a).word b = s.word b := by
  have h1 : b ≠ 0x03F004 := by
    rintro rfl; exact h (by decide)
  rw [raise, captureOn_word _ _ _ h, note_word _ _ _ _ _ _ h1]

theorem capture_word (s : State) (d : Fin 2) (x c b : Nat) (h : b ∉ eventWords) : (s.capture d x c).word b = s.word b := by
  have hd : d = 0 ∨ d = 1 := by omega
  simp only [eventWords, List.mem_cons, List.not_mem_nil, or_false, not_or] at h
  unfold capture; split
  · rcases hd with rfl | rfl <;>
    exact word_wr_ne _ _ (by simp [fieldAddr, fieldWords, Reg.MEM_FCAP_STATUS_RECORDS]; omega)
  · rfl

/-- Whether a field lies outside the words that an event may change. -/
def quiet (f : Field) (i : Nat) : Bool :=
  eventWords.all fun b => decide (b + 4 ≤ fieldAddr f i) || decide (fieldAddr f i + 4 * fieldWords f ≤ b)

theorem rd_of_quiet {s t : State} {f : Field} {i : Nat} (hq : quiet f i = true)
    (h : ∀ b, b ∉ eventWords → t.word b = s.word b) : t.rd f i = s.rd f i := by
  refine rd_congr fun a h1 h2 => h a fun hm => ?_
  simp only [quiet, List.all_eq_true, Bool.or_eq_true, decide_eq_true_eq] at hq
  have := hq a hm; omega

theorem rd_raise (s : State) (c u : Nat) (sl : Option (Fin 8)) (a : Nat) {f : Field} {i : Nat} (h : quiet f i = true) :
    (s.raise c u sl a).rd f i = s.rd f i := rd_of_quiet h fun b hb => raise_word s c u sl a b hb

theorem rd_note (s : State) (c u : Nat) (sl : Option (Fin 8)) (a : Nat) {f : Field} {i : Nat} (h : quiet f i = true) :
    (s.note c u sl a).rd f i = s.rd f i := rd_of_quiet h fun b hb => note_word s c u sl a b (by rintro rfl; exact hb (by decide))

/-! The event log. -/

/-- A record stands in the event log with at most n records after it. -/
def logged (s : State) (r : BitVec 128) (n : Nat) : Prop := ∃ l m, s.tel.log = l ++ r :: m ∧ m.length ≤ n

theorem logRec_logs (s : State) (r : BitVec 128) : (s.logRec r).logged r 0 := ⟨_, [], rfl, Nat.le_refl _⟩

theorem logRec_keeps {s : State} {r : BitVec 128} {n : Nat} (q : BitVec 128) (h : s.logged r n) (hn : n < 4095) :
    (s.logRec q).logged r (n + 1) := by
  obtain ⟨l, m, e, hm⟩ := h
  by_cases hf : s.tel.log.length ≥ 4096
  · cases l with
    | nil => rw [e] at hf; simp at hf; omega
    | cons x l => exact ⟨l, m ++ [q], by simp only [logRec, hf, if_true]; simp [e], by simp; omega⟩
  · exact ⟨l, m ++ [q], by simp only [logRec, hf, if_false]; simp [e], by simp; omega⟩

theorem logged_tel {s t : State} {r : BitVec 128} {n : Nat} (e : t.tel.log = s.tel.log) (h : s.logged r n) : t.logged r n := by
  simpa only [logged, e] using h

theorem note_keeps {s : State} {r : BitVec 128} {n : Nat} (c u : Nat) (sl : Option (Fin 8)) (a : Nat) (h : s.logged r n)
    (hn : n < 4095) : (s.note c u sl a).logged r (n + 1) := logged_tel rfl (logRec_keeps _ h hn)

theorem captureStops_keeps {s : State} {r : BitVec 128} {n : Nat} (d : Fin 2) (h : s.logged r n) (hn : n < 4095) :
    (s.captureStops d).logged r (n + 1) := by
  simp only [captureStops]
  refine note_keeps _ _ _ _ (logged_tel ?_ h) hn
  have tel (x : State) (f : Field) (i v : Nat) : (x.wr f i v).tel = x.tel := by rw [eq_of_noCtl (wr_noCtl x f i v)]
  simp only [wrB, tel]; split <;> simp only [tel]

theorem logged_mono {s : State} {r : BitVec 128} {n k : Nat} (h : s.logged r n) (hk : n ≤ k) : s.logged r k := by
  obtain ⟨l, m, e, hm⟩ := h; exact ⟨l, m, e, by omega⟩

theorem captureStop_keeps {s : State} {r : BitVec 128} {n : Nat} (d : Fin 2) (h : s.logged r n) (hn : n < 4094) :
    (s.captureStop d).logged r (n + 2) := by
  have hs := captureStops_keeps d h (by omega)
  have hk : n + 1 < 4095 := by omega
  have hm : n + 1 ≤ n + 2 := by omega
  simp only [captureStop]; split
  · exact logged_mono hs hm
  · split
    · exact captureStops_keeps _ hs hk
    · exact logged_mono (s := (s.captureStops d).capturePosts (1 - d)) (logged_tel (s := s.captureStops d) rfl hs) hm

theorem captureTrigger_keeps {s : State} {r : BitVec 128} {n : Nat} (d : Fin 2) (h : s.logged r n) (hn : n < 4094) :
    (s.captureTrigger d).logged r (n + 2) := by
  unfold captureTrigger; split
  · exact logged_mono h (by omega)
  · split
    · exact captureStop_keeps d h hn
    · exact logged_mono (logged_tel rfl h) (by omega)

theorem captureOn_keeps {s : State} {r : BitVec 128} {n : Nat} (c : Nat) (h : s.logged r n) (hn : n < 4092) :
    (s.captureOn c).logged r (n + 4) := by
  have step (x : State) (k : Nat) (d : Fin 2) (hx : x.logged r k) (hk : k < 4094) :
      (if c ≠ 0 && x.rd Reg.MEM_FCAP_CTRL_TRIG_CODE d = c then x.captureTrigger d else x).logged r (k + 2) := by
    split
    · exact captureTrigger_keeps d hx hk
    · exact logged_mono hx (by omega)
  exact step _ _ 1 (step _ _ 0 h (by omega)) (by omega)

/-- The record of an event is in the event log after it. -/
theorem raise_logs (s : State) (c u : Nat) (sl : Option (Fin 8)) (a : Nat) : s.eventRec c u sl a ∈ (s.raise c u sl a).tel.log := by
  obtain ⟨l, m, e, -⟩ := captureOn_keeps c (logged_tel (t := s.note c u sl a) rfl (logRec_logs s (s.eventRec c u sl a))) (by omega)
  rw [raise, e]; simp

/-! The status fields that follow the state. -/

@[simp] theorem settleTrk_noCtl (s : State) (d : Fin 2) : (s.settleTrk d).noCtl = s.noCtl := by simp [settleTrk]
@[simp] theorem settleArmed_noCtl (s : State) : s.settleArmed.noCtl = s.noCtl := by simp [settleArmed]
@[simp] theorem settle_noCtl (s : State) : s.settle.noCtl = s.noCtl := by simp [settle]

theorem trackers_of_noCtl {s t : State} (h : t.noCtl = s.noCtl) (d : Fin 2) : t.trackers d = s.trackers d := by
  rw [eq_of_noCtl h]; rfl

theorem armed_of_noCtl {s t : State} (h : t.noCtl = s.noCtl) (d : Fin 2) : t.armed d = s.armed d := by
  rw [eq_of_noCtl h]; rfl

theorem clipHeld_of_noCtl {s t : State} (h : t.noCtl = s.noCtl) : t.clipHeld = s.clipHeld := by
  rw [eq_of_noCtl h]; rfl

theorem drains_of_noCtl {s t : State} (h : t.noCtl = s.noCtl) : t.drains = s.drains := by
  rw [eq_of_noCtl h]; rfl

theorem settleTrk_word (s : State) (d : Fin 2) (a : Nat) (h : a ≠ 0x020114 + 0x40 * d.val) : (s.settleTrk d).word a = s.word a := by
  simp only [settleTrk]
  rw [word_wr_ne _ _ (by simp [fieldAddr, fieldWords, Reg.STR_TRK_STATUS_PEAK]; omega),
    word_wr_ne _ _ (by simp [fieldAddr, fieldWords, Reg.STR_TRK_STATUS_IN_USE]; omega)]

theorem settleArmed_word (s : State) (a : Nat) (h : a ≠ 0x090004) : s.settleArmed.word a = s.word a := by
  simp only [settleArmed]
  rw [word_wr_ne _ _ (by simp [fieldAddr, fieldWords, Reg.UPD_STATUS_ARMED_E]; omega),
    word_wr_ne _ _ (by simp [fieldAddr, fieldWords, Reg.UPD_STATUS_ARMED_W]; omega)]

/-- A word that holds no field that follows the state is unchanged. -/
theorem settle_word (s : State) (a : Nat) (h : a ∉ statusWords) : s.settle.word a = s.word a := by
  simp only [statusWords, List.mem_cons, List.not_mem_nil, or_false, not_or] at h
  simp only [settle, wrB]
  rw [word_wr_ne _ _ (by simp [fieldAddr, fieldWords, Reg.UPD_CKPT_STATUS_INFLIGHT]; omega),
    word_wr_ne _ _ (by simp [fieldAddr, fieldWords, Reg.HRT_BOOT_LINKS]; omega),
    word_wr_ne _ _ (by simp [fieldAddr, fieldWords, Reg.UPD_STATUS_CLIP_WAIT]; omega),
    settleArmed_word _ _ h.2.2.1, settleTrk_word _ _ _ h.2.1, settleTrk_word _ _ _ h.1]

theorem rd_settleTrk (s : State) {d : Fin 2} {f : Field} {i : Nat} (h : apart Reg.STR_TRK_STATUS_IN_USE d f i = true)
    (h2 : apart Reg.STR_TRK_STATUS_PEAK d f i = true) : (s.settleTrk d).rd f i = s.rd f i := by
  simp only [settleTrk]; rw [rd_wr_other _ _ h2, rd_wr_other _ _ h]

theorem rd_settleArmed (s : State) {f : Field} {i : Nat} (h : apart Reg.UPD_STATUS_ARMED_W 0 f i = true)
    (h2 : apart Reg.UPD_STATUS_ARMED_E 0 f i = true) : s.settleArmed.rd f i = s.rd f i := by
  simp only [settleArmed]; rw [rd_wr_other _ _ h2, rd_wr_other _ _ h]

/-- Whether a field is none of those that follow the state. -/
def ownField (f : Field) (i : Nat) : Bool :=
  apart Reg.STR_TRK_STATUS_IN_USE 0 f i && apart Reg.STR_TRK_STATUS_PEAK 0 f i && apart Reg.STR_TRK_STATUS_IN_USE 1 f i &&
    apart Reg.STR_TRK_STATUS_PEAK 1 f i && apart Reg.UPD_STATUS_ARMED_W 0 f i && apart Reg.UPD_STATUS_ARMED_E 0 f i &&
    apart Reg.UPD_STATUS_CLIP_WAIT 0 f i && apart Reg.HRT_BOOT_LINKS 0 f i && apart Reg.UPD_CKPT_STATUS_INFLIGHT 0 f i

/-- A field that does not follow the state is unchanged. -/
theorem rd_settle (s : State) {f : Field} {i : Nat} (h : ownField f i = true) : s.settle.rd f i = s.rd f i := by
  simp only [ownField, Bool.and_eq_true] at h
  obtain ⟨⟨⟨⟨⟨⟨⟨⟨h1, h2⟩, h3⟩, h4⟩, h5⟩, h6⟩, h7⟩, h8⟩, h9⟩ := h
  simp only [settle, wrB]
  rw [rd_wr_other _ _ h9, rd_wr_other _ _ h8, rd_wr_other _ _ h7, rd_settleArmed _ h5 h6]
  exact (rd_settleTrk (d := 1) _ h3 h4).trans (rd_settleTrk (d := 0) _ h1 h2)

/-! The values of the fields that follow the state. -/

theorem settleTrk_in_use (s : State) (d : Fin 2) :
    (s.settleTrk d).rd Reg.STR_TRK_STATUS_IN_USE d = s.trackers d % 2 ^ 7 := by
  have h : apart Reg.STR_TRK_STATUS_PEAK d Reg.STR_TRK_STATUS_IN_USE d = true := by revert d; decide
  simp only [settleTrk]; rw [rd_wr_other _ _ h]; exact rd_wr_same _ _ _ _ (by decide)

theorem settleTrk_peak (s : State) (d : Fin 2) :
    (s.settleTrk d).rd Reg.STR_TRK_STATUS_PEAK d = max (s.trackers d) (s.rd Reg.STR_TRK_STATUS_PEAK d) % 2 ^ 7 := by
  have h : apart Reg.STR_TRK_STATUS_IN_USE d Reg.STR_TRK_STATUS_PEAK d = true := by revert d; decide
  simp only [settleTrk]; rw [rd_wr_other _ _ h]; exact rd_wr_same _ _ _ _ (by decide)

theorem settle_in_use (s : State) (d : Fin 2) : s.settle.rd Reg.STR_TRK_STATUS_IN_USE d = s.trackers d % 2 ^ 7 := by
  have hd : d = 0 ∨ d = 1 := by omega
  simp only [settle, wrB]
  rcases hd with rfl | rfl
  · rw [rd_wr_other _ _ (by decide), rd_wr_other _ _ (by decide), rd_wr_other _ _ (by decide), rd_settleArmed _ (by decide) (by decide),
      rd_settleTrk _ (by decide) (by decide), settleTrk_in_use]
  · rw [rd_wr_other _ _ (by decide), rd_wr_other _ _ (by decide), rd_wr_other _ _ (by decide), rd_settleArmed _ (by decide) (by decide),
      settleTrk_in_use, trackers_of_noCtl (settleTrk_noCtl _ _)]

theorem settle_peak (s : State) (d : Fin 2) :
    s.settle.rd Reg.STR_TRK_STATUS_PEAK d = max (s.trackers d) (s.rd Reg.STR_TRK_STATUS_PEAK d) % 2 ^ 7 := by
  have hd : d = 0 ∨ d = 1 := by omega
  simp only [settle, wrB]
  rcases hd with rfl | rfl
  · rw [rd_wr_other _ _ (by decide), rd_wr_other _ _ (by decide), rd_wr_other _ _ (by decide), rd_settleArmed _ (by decide) (by decide),
      rd_settleTrk _ (by decide) (by decide), settleTrk_peak]
  · rw [rd_wr_other _ _ (by decide), rd_wr_other _ _ (by decide), rd_wr_other _ _ (by decide), rd_settleArmed _ (by decide) (by decide),
      settleTrk_peak, trackers_of_noCtl (settleTrk_noCtl _ _), rd_settleTrk _ (by decide) (by decide)]

theorem settle_armed_w (s : State) : s.settle.rd Reg.UPD_STATUS_ARMED_W 0 = s.armed 0 % 2 ^ 13 := by
  simp only [settle, wrB]
  rw [rd_wr_other _ _ (by decide), rd_wr_other _ _ (by decide), rd_wr_other _ _ (by decide), settleArmed, rd_wr_other _ _ (by decide),
    rd_wr_same _ _ _ _ (by decide), armed_of_noCtl (settleTrk_noCtl _ _), armed_of_noCtl (settleTrk_noCtl _ _)]
  rfl

theorem settle_armed_e (s : State) : s.settle.rd Reg.UPD_STATUS_ARMED_E 0 = s.armed 1 % 2 ^ 13 := by
  simp only [settle, wrB]
  rw [rd_wr_other _ _ (by decide), rd_wr_other _ _ (by decide), rd_wr_other _ _ (by decide), settleArmed,
    rd_wr_same _ _ _ _ (by decide), armed_of_noCtl (settleTrk_noCtl _ _), armed_of_noCtl (settleTrk_noCtl _ _)]
  rfl

theorem settle_clip_wait (s : State) : s.settle.rdB Reg.UPD_STATUS_CLIP_WAIT 0 = s.clipHeld := by
  simp only [settle, rdB]
  rw [rd_wr_other _ _ (by decide), rd_wr_other _ _ (by decide), ← rdB, rdB_wrB_same _ _ _ _ rfl]
  exact clipHeld_of_noCtl (by simp)

theorem settle_inflight (s : State) : s.settle.rd Reg.UPD_CKPT_STATUS_INFLIGHT 0 = s.drains % 2 ^ 3 := by
  simp only [settle]
  rw [rd_wr_same _ _ _ _ (by decide), drains_of_noCtl (s := s) (by simp)]
  rfl

theorem links_congr {s t : State} (h : ∀ p : Fin 8, t.rd Reg.NET_PORT_STATUS_LINK p = s.rd Reg.NET_PORT_STATUS_LINK p) :
    t.links = s.links := by
  have e (x : Nat) : (List.range 8).foldl (fun y p => y + t.rd Reg.NET_PORT_STATUS_LINK p * 2 ^ p) x =
      (List.range 8).foldl (fun y p => y + s.rd Reg.NET_PORT_STATUS_LINK p * 2 ^ p) x :=
    List.foldl_ext _ _ _ fun y p hp => by rw [h ⟨p, by simpa using hp⟩]
  exact e 0

theorem settle_links (s : State) : s.settle.rd Reg.HRT_BOOT_LINKS 0 = s.links % 2 ^ 8 := by
  simp only [settle, wrB]
  rw [rd_wr_other _ _ (by decide), rd_wr_same _ _ _ _ (by decide)]
  refine congrArg (· % 2 ^ 8) (links_congr fun p => ?_)
  have h1 : apart Reg.UPD_STATUS_CLIP_WAIT 0 Reg.NET_PORT_STATUS_LINK p = true := by revert p; decide
  have h2 : apart Reg.UPD_STATUS_ARMED_W 0 Reg.NET_PORT_STATUS_LINK p = true := by revert p; decide
  have h3 : apart Reg.UPD_STATUS_ARMED_E 0 Reg.NET_PORT_STATUS_LINK p = true := by revert p; decide
  have h4 : ∀ d : Fin 2, apart Reg.STR_TRK_STATUS_IN_USE d Reg.NET_PORT_STATUS_LINK p = true := by revert p; decide
  have h5 : ∀ d : Fin 2, apart Reg.STR_TRK_STATUS_PEAK d Reg.NET_PORT_STATUS_LINK p = true := by revert p; decide
  rw [rd_wr_other _ _ h1, rd_settleArmed _ h2 h3, rd_settleTrk _ (h4 1) (h5 1), rd_settleTrk _ (h4 0) (h5 0)]

end State

/-! The outcome of a command. -/

open State

/-- What a command that leads from s to t does: t's status fields brought up to date, and the queue as it was. -/
theorem act_next (s t : State) : act s t = .next (t.done s.pending) := id rfl

@[simp] theorem done_pending (t : State) (q : List Instr) : (t.done q).pending = q := id rfl

/-! What the state after a command holds, by the state before the status fields were brought up to date. -/

theorem done_noCtl (t : State) (q : List Instr) : (t.done q).noCtl = { t.noCtl with pending := q } := by
  have h := congrArg (fun x : State => ({ x with pending := q } : State)) (settle_noCtl t)
  simp only [done]; generalize t.settle = v at h ⊢; exact h

theorem word_done {t : State} (q : List Instr) (a : Nat) : (t.done q).word a = t.settle.word a := by
  simp only [done]; generalize t.settle = v; exact word_of_ctl (s := v) (t := { v with pending := q }) rfl a

theorem done_word {t : State} (q : List Instr) {a : Nat} (h : a ∉ statusWords) : (t.done q).word a = t.word a :=
  (word_done q a).trans (settle_word t a h)

theorem rd_done {t : State} (q : List Instr) (f : Field) (i : Nat) : (t.done q).rd f i = t.settle.rd f i := by
  simp only [done]; generalize t.settle = v; exact rd_of_ctl (s := v) (t := { v with pending := q }) rfl f i

theorem done_rd {t : State} (q : List Instr) {f : Field} {i : Nat} (h : ownField f i = true) : (t.done q).rd f i = t.rd f i := by
  rw [rd_done, rd_settle t h]

theorem done_rdB {t : State} (q : List Instr) {f : Field} {i : Nat} (h : ownField f i = true) : (t.done q).rdB f i = t.rdB f i := by
  simp only [rdB]; rw [done_rd q h]

/-- The frame of a command that leads to u, whose registers but those listed are those of s and which is s beside them. -/
theorem done_regsOnly {s u : State} {ws : List Nat} (h : u.noCtl = s.noCtl) (hw : ∀ a, a ∉ ws → u.word a = s.word a) :
    RegsOnly s (u.done s.pending) ws := by
  refine ⟨eq_of_noCtl ?_, fun a h1 h2 => ?_⟩
  · rw [done_noCtl, h]; rfl
  · rw [done_word _ h2, hw a h1]

/-- The same for a command that raises events. -/
theorem done_eventsOnly {s u : State} {ws : List Nat} (h : u.noEvent = s.noEvent)
    (hw : ∀ a, a ∉ ws → a ∉ eventWords → u.word a = s.word a) : EventsOnly s (u.done s.pending) ws := by
  refine ⟨eq_of_noEvent ?_, fun a h1 h3 h2 => ?_⟩
  · have e : ({ u with pending := s.pending } : State).noEvent = { u.noEvent with pending := s.pending } := rfl
    rw [noEvent_of_noCtl (s := { u with pending := s.pending }) (done_noCtl u s.pending), e, h]; rfl
  · rw [done_word _ h2, hw a h1 h3]

/-! A register write that its writer may make. -/

@[simp] theorem writeStatus_noCtl (s : State) (r : KStat) : (s.writeStatus r).noCtl = s.noCtl.writeStatus r := id rfl
@[simp] theorem writeStatus_noEvent (s : State) (r : KStat) : (s.writeStatus r).noEvent = s.noEvent.writeStatus r := id rfl
@[simp] theorem writeStatus_word (s : State) (r : KStat) (a : Nat) : (s.writeStatus r).word a = s.word a := id rfl
@[simp] theorem writeStatus_rd (s : State) (r : KStat) (f : Field) (i : Nat) : (s.writeStatus r).rd f i = s.rd f i :=
  rd_of_ctl (s := s) (t := s.writeStatus r) rfl f i
@[simp] theorem writeStatus_rdB (s : State) (r : KStat) (f : Field) (i : Nat) : (s.writeStatus r).rdB f i = s.rdB f i := by
  simp only [rdB, writeStatus_rd]

/-- What a write whose writer may make it does, by the effect on the register. -/
theorem regWrite_made {s t : State} {r : KStat} {w : Writer} {a v : Nat} {f : State → State × KStat}
    (h : writable s w a = true) (hf : f s = (t, r)) : s.regWrite w a v f = t.writeStatus r := by
  simp only [writable, Bool.and_eq_true, Bool.not_eq_true'] at h
  simp [regWrite, h, hf]

/-- Every command's outcome is a next state. -/
theorem exec_form (c : Instr) (s : State) : ∃ t, exec c s = act s t := by
  cases c <;> exact ⟨_, rfl⟩

end Sys2Proof.Machine
end

