-- ==== Sys2Proof/Laws/Frames.lean ====
section
/-!
SUPPORT. One lemma per field of State and shared operation: what a register write, an event, and the bringing up to date
of the status fields leave as it was.
-/
namespace Sys2Proof.Machine.State

theorem mem_of_noCtl {s t : State} (h : t.noCtl = s.noCtl) : t.mem = s.mem := by rw [eq_of_noCtl h]
theorem mem_of_noEvent {s t : State} (h : t.noEvent = s.noEvent) : t.mem = s.mem := by rw [eq_of_noEvent h]
theorem ms_of_noCtl {s t : State} (h : t.noCtl = s.noCtl) : t.ms = s.ms := by rw [eq_of_noCtl h]
theorem tel_of_noCtl {s t : State} (h : t.noCtl = s.noCtl) : t.tel = s.tel := by rw [eq_of_noCtl h]
theorem pw_of_noCtl {s t : State} (h : t.noCtl = s.noCtl) : t.pw = s.pw := by rw [eq_of_noCtl h]
theorem kal_of_noCtl {s t : State} (h : t.noCtl = s.noCtl) : t.kal = s.kal := by rw [eq_of_noCtl h]
theorem flash_of_noCtl {s t : State} (h : t.noCtl = s.noCtl) : t.flash = s.flash := by rw [eq_of_noCtl h]
theorem fuses_of_noCtl {s t : State} (h : t.noCtl = s.noCtl) : t.fuses = s.fuses := by rw [eq_of_noCtl h]
theorem sec_of_noCtl {s t : State} (h : t.noCtl = s.noCtl) : t.sec = s.sec := by rw [eq_of_noCtl h]
theorem tap_of_noCtl {s t : State} (h : t.noCtl = s.noCtl) : t.tap = s.tap := by rw [eq_of_noCtl h]
theorem rings_of_noCtl {s t : State} (h : t.noCtl = s.noCtl) : t.rings = s.rings := by rw [eq_of_noCtl h]
theorem seqr_of_noCtl {s t : State} (h : t.noCtl = s.noCtl) : t.seqr = s.seqr := by rw [eq_of_noCtl h]
theorem anv_of_noCtl {s t : State} (h : t.noCtl = s.noCtl) : t.anv = s.anv := by rw [eq_of_noCtl h]
theorem ops_of_noCtl {s t : State} (h : t.noCtl = s.noCtl) : t.ops = s.ops := by rw [eq_of_noCtl h]
theorem opNext_of_noCtl {s t : State} (h : t.noCtl = s.noCtl) : t.opNext = s.opNext := by rw [eq_of_noCtl h]
theorem slots_of_noCtl {s t : State} (h : t.noCtl = s.noCtl) : t.slots = s.slots := by rw [eq_of_noCtl h]
theorem net_of_noCtl {s t : State} (h : t.noCtl = s.noCtl) : t.net = s.net := by rw [eq_of_noCtl h]
theorem layers_of_noCtl {s t : State} (h : t.noCtl = s.noCtl) : t.layers = s.layers := by rw [eq_of_noCtl h]
theorem upds_of_noCtl {s t : State} (h : t.noCtl = s.noCtl) : t.upds = s.upds := by rw [eq_of_noCtl h]
theorem sprigs_of_noCtl {s t : State} (h : t.noCtl = s.noCtl) : t.sprigs = s.sprigs := by rw [eq_of_noCtl h]
theorem ckpts_of_noCtl {s t : State} (h : t.noCtl = s.noCtl) : t.ckpts = s.ckpts := by rw [eq_of_noCtl h]
theorem pools_of_noCtl {s t : State} (h : t.noCtl = s.noCtl) : t.pools = s.pools := by rw [eq_of_noCtl h]
theorem wres_of_noCtl {s t : State} (h : t.noCtl = s.noCtl) : t.wres = s.wres := by rw [eq_of_noCtl h]
theorem pending_of_noCtl {s t : State} (h : t.noCtl = s.noCtl) : t.pending = s.pending := by rw [eq_of_noCtl h]
theorem free_of_noCtl {s t : State} (h : t.noCtl = s.noCtl) : t.free = s.free := by rw [eq_of_noCtl h]

@[simp] theorem setWord_mem (s : State) (a : Nat) (v : Word) : (s.setWord a v).mem = s.mem := mem_of_noCtl (setWord_noCtl ..)
@[simp] theorem setWord_ms (s : State) (a : Nat) (v : Word) : (s.setWord a v).ms = s.ms := ms_of_noCtl (setWord_noCtl ..)
@[simp] theorem setWord_tel (s : State) (a : Nat) (v : Word) : (s.setWord a v).tel = s.tel := tel_of_noCtl (setWord_noCtl ..)
@[simp] theorem setWord_pw (s : State) (a : Nat) (v : Word) : (s.setWord a v).pw = s.pw := pw_of_noCtl (setWord_noCtl ..)
@[simp] theorem setWord_kal (s : State) (a : Nat) (v : Word) : (s.setWord a v).kal = s.kal := kal_of_noCtl (setWord_noCtl ..)
@[simp] theorem setWord_flash (s : State) (a : Nat) (v : Word) : (s.setWord a v).flash = s.flash := flash_of_noCtl (setWord_noCtl ..)
@[simp] theorem setWord_fuses (s : State) (a : Nat) (v : Word) : (s.setWord a v).fuses = s.fuses := fuses_of_noCtl (setWord_noCtl ..)
@[simp] theorem setWord_sec (s : State) (a : Nat) (v : Word) : (s.setWord a v).sec = s.sec := sec_of_noCtl (setWord_noCtl ..)
@[simp] theorem setWord_tap (s : State) (a : Nat) (v : Word) : (s.setWord a v).tap = s.tap := tap_of_noCtl (setWord_noCtl ..)
@[simp] theorem setWord_rings (s : State) (a : Nat) (v : Word) : (s.setWord a v).rings = s.rings := rings_of_noCtl (setWord_noCtl ..)
@[simp] theorem setWord_seqr (s : State) (a : Nat) (v : Word) : (s.setWord a v).seqr = s.seqr := seqr_of_noCtl (setWord_noCtl ..)
@[simp] theorem setWord_anv (s : State) (a : Nat) (v : Word) : (s.setWord a v).anv = s.anv := anv_of_noCtl (setWord_noCtl ..)
@[simp] theorem setWord_ops (s : State) (a : Nat) (v : Word) : (s.setWord a v).ops = s.ops := ops_of_noCtl (setWord_noCtl ..)
@[simp] theorem setWord_opNext (s : State) (a : Nat) (v : Word) : (s.setWord a v).opNext = s.opNext := opNext_of_noCtl (setWord_noCtl ..)
@[simp] theorem setWord_slots (s : State) (a : Nat) (v : Word) : (s.setWord a v).slots = s.slots := slots_of_noCtl (setWord_noCtl ..)
@[simp] theorem setWord_net (s : State) (a : Nat) (v : Word) : (s.setWord a v).net = s.net := net_of_noCtl (setWord_noCtl ..)
@[simp] theorem setWord_layers (s : State) (a : Nat) (v : Word) : (s.setWord a v).layers = s.layers := layers_of_noCtl (setWord_noCtl ..)
@[simp] theorem setWord_upds (s : State) (a : Nat) (v : Word) : (s.setWord a v).upds = s.upds := upds_of_noCtl (setWord_noCtl ..)
@[simp] theorem setWord_sprigs (s : State) (a : Nat) (v : Word) : (s.setWord a v).sprigs = s.sprigs := sprigs_of_noCtl (setWord_noCtl ..)
@[simp] theorem setWord_ckpts (s : State) (a : Nat) (v : Word) : (s.setWord a v).ckpts = s.ckpts := ckpts_of_noCtl (setWord_noCtl ..)
@[simp] theorem setWord_pools (s : State) (a : Nat) (v : Word) : (s.setWord a v).pools = s.pools := pools_of_noCtl (setWord_noCtl ..)
@[simp] theorem setWord_wres (s : State) (a : Nat) (v : Word) : (s.setWord a v).wres = s.wres := wres_of_noCtl (setWord_noCtl ..)
@[simp] theorem setWord_pending (s : State) (a : Nat) (v : Word) : (s.setWord a v).pending = s.pending := pending_of_noCtl (setWord_noCtl ..)
@[simp] theorem setWord_free (s : State) (a : Nat) (v : Word) : (s.setWord a v).free = s.free := free_of_noCtl (setWord_noCtl ..)

@[simp] theorem setWordsAt_mem (s : State) (a n v : Nat) : (s.setWordsAt a n v).mem = s.mem := mem_of_noCtl (setWordsAt_noCtl ..)
@[simp] theorem setWordsAt_ms (s : State) (a n v : Nat) : (s.setWordsAt a n v).ms = s.ms := ms_of_noCtl (setWordsAt_noCtl ..)
@[simp] theorem setWordsAt_tel (s : State) (a n v : Nat) : (s.setWordsAt a n v).tel = s.tel := tel_of_noCtl (setWordsAt_noCtl ..)
@[simp] theorem setWordsAt_pw (s : State) (a n v : Nat) : (s.setWordsAt a n v).pw = s.pw := pw_of_noCtl (setWordsAt_noCtl ..)
@[simp] theorem setWordsAt_kal (s : State) (a n v : Nat) : (s.setWordsAt a n v).kal = s.kal := kal_of_noCtl (setWordsAt_noCtl ..)
@[simp] theorem setWordsAt_flash (s : State) (a n v : Nat) : (s.setWordsAt a n v).flash = s.flash := flash_of_noCtl (setWordsAt_noCtl ..)
@[simp] theorem setWordsAt_fuses (s : State) (a n v : Nat) : (s.setWordsAt a n v).fuses = s.fuses := fuses_of_noCtl (setWordsAt_noCtl ..)
@[simp] theorem setWordsAt_sec (s : State) (a n v : Nat) : (s.setWordsAt a n v).sec = s.sec := sec_of_noCtl (setWordsAt_noCtl ..)
@[simp] theorem setWordsAt_tap (s : State) (a n v : Nat) : (s.setWordsAt a n v).tap = s.tap := tap_of_noCtl (setWordsAt_noCtl ..)
@[simp] theorem setWordsAt_rings (s : State) (a n v : Nat) : (s.setWordsAt a n v).rings = s.rings := rings_of_noCtl (setWordsAt_noCtl ..)
@[simp] theorem setWordsAt_seqr (s : State) (a n v : Nat) : (s.setWordsAt a n v).seqr = s.seqr := seqr_of_noCtl (setWordsAt_noCtl ..)
@[simp] theorem setWordsAt_anv (s : State) (a n v : Nat) : (s.setWordsAt a n v).anv = s.anv := anv_of_noCtl (setWordsAt_noCtl ..)
@[simp] theorem setWordsAt_ops (s : State) (a n v : Nat) : (s.setWordsAt a n v).ops = s.ops := ops_of_noCtl (setWordsAt_noCtl ..)
@[simp] theorem setWordsAt_opNext (s : State) (a n v : Nat) : (s.setWordsAt a n v).opNext = s.opNext := opNext_of_noCtl (setWordsAt_noCtl ..)
@[simp] theorem setWordsAt_slots (s : State) (a n v : Nat) : (s.setWordsAt a n v).slots = s.slots := slots_of_noCtl (setWordsAt_noCtl ..)
@[simp] theorem setWordsAt_net (s : State) (a n v : Nat) : (s.setWordsAt a n v).net = s.net := net_of_noCtl (setWordsAt_noCtl ..)
@[simp] theorem setWordsAt_layers (s : State) (a n v : Nat) : (s.setWordsAt a n v).layers = s.layers := layers_of_noCtl (setWordsAt_noCtl ..)
@[simp] theorem setWordsAt_upds (s : State) (a n v : Nat) : (s.setWordsAt a n v).upds = s.upds := upds_of_noCtl (setWordsAt_noCtl ..)
@[simp] theorem setWordsAt_sprigs (s : State) (a n v : Nat) : (s.setWordsAt a n v).sprigs = s.sprigs := sprigs_of_noCtl (setWordsAt_noCtl ..)
@[simp] theorem setWordsAt_ckpts (s : State) (a n v : Nat) : (s.setWordsAt a n v).ckpts = s.ckpts := ckpts_of_noCtl (setWordsAt_noCtl ..)
@[simp] theorem setWordsAt_pools (s : State) (a n v : Nat) : (s.setWordsAt a n v).pools = s.pools := pools_of_noCtl (setWordsAt_noCtl ..)
@[simp] theorem setWordsAt_wres (s : State) (a n v : Nat) : (s.setWordsAt a n v).wres = s.wres := wres_of_noCtl (setWordsAt_noCtl ..)
@[simp] theorem setWordsAt_pending (s : State) (a n v : Nat) : (s.setWordsAt a n v).pending = s.pending := pending_of_noCtl (setWordsAt_noCtl ..)
@[simp] theorem setWordsAt_free (s : State) (a n v : Nat) : (s.setWordsAt a n v).free = s.free := free_of_noCtl (setWordsAt_noCtl ..)

@[simp] theorem wr_mem (s : State) (f : Field) (i v : Nat) : (s.wr f i v).mem = s.mem := mem_of_noCtl (wr_noCtl ..)
@[simp] theorem wr_ms (s : State) (f : Field) (i v : Nat) : (s.wr f i v).ms = s.ms := ms_of_noCtl (wr_noCtl ..)
@[simp] theorem wr_tel (s : State) (f : Field) (i v : Nat) : (s.wr f i v).tel = s.tel := tel_of_noCtl (wr_noCtl ..)
@[simp] theorem wr_pw (s : State) (f : Field) (i v : Nat) : (s.wr f i v).pw = s.pw := pw_of_noCtl (wr_noCtl ..)
@[simp] theorem wr_kal (s : State) (f : Field) (i v : Nat) : (s.wr f i v).kal = s.kal := kal_of_noCtl (wr_noCtl ..)
@[simp] theorem wr_flash (s : State) (f : Field) (i v : Nat) : (s.wr f i v).flash = s.flash := flash_of_noCtl (wr_noCtl ..)
@[simp] theorem wr_fuses (s : State) (f : Field) (i v : Nat) : (s.wr f i v).fuses = s.fuses := fuses_of_noCtl (wr_noCtl ..)
@[simp] theorem wr_sec (s : State) (f : Field) (i v : Nat) : (s.wr f i v).sec = s.sec := sec_of_noCtl (wr_noCtl ..)
@[simp] theorem wr_tap (s : State) (f : Field) (i v : Nat) : (s.wr f i v).tap = s.tap := tap_of_noCtl (wr_noCtl ..)
@[simp] theorem wr_rings (s : State) (f : Field) (i v : Nat) : (s.wr f i v).rings = s.rings := rings_of_noCtl (wr_noCtl ..)
@[simp] theorem wr_seqr (s : State) (f : Field) (i v : Nat) : (s.wr f i v).seqr = s.seqr := seqr_of_noCtl (wr_noCtl ..)
@[simp] theorem wr_anv (s : State) (f : Field) (i v : Nat) : (s.wr f i v).anv = s.anv := anv_of_noCtl (wr_noCtl ..)
@[simp] theorem wr_ops (s : State) (f : Field) (i v : Nat) : (s.wr f i v).ops = s.ops := ops_of_noCtl (wr_noCtl ..)
@[simp] theorem wr_opNext (s : State) (f : Field) (i v : Nat) : (s.wr f i v).opNext = s.opNext := opNext_of_noCtl (wr_noCtl ..)
@[simp] theorem wr_slots (s : State) (f : Field) (i v : Nat) : (s.wr f i v).slots = s.slots := slots_of_noCtl (wr_noCtl ..)
@[simp] theorem wr_net (s : State) (f : Field) (i v : Nat) : (s.wr f i v).net = s.net := net_of_noCtl (wr_noCtl ..)
@[simp] theorem wr_layers (s : State) (f : Field) (i v : Nat) : (s.wr f i v).layers = s.layers := layers_of_noCtl (wr_noCtl ..)
@[simp] theorem wr_upds (s : State) (f : Field) (i v : Nat) : (s.wr f i v).upds = s.upds := upds_of_noCtl (wr_noCtl ..)
@[simp] theorem wr_sprigs (s : State) (f : Field) (i v : Nat) : (s.wr f i v).sprigs = s.sprigs := sprigs_of_noCtl (wr_noCtl ..)
@[simp] theorem wr_ckpts (s : State) (f : Field) (i v : Nat) : (s.wr f i v).ckpts = s.ckpts := ckpts_of_noCtl (wr_noCtl ..)
@[simp] theorem wr_pools (s : State) (f : Field) (i v : Nat) : (s.wr f i v).pools = s.pools := pools_of_noCtl (wr_noCtl ..)
@[simp] theorem wr_wres (s : State) (f : Field) (i v : Nat) : (s.wr f i v).wres = s.wres := wres_of_noCtl (wr_noCtl ..)
@[simp] theorem wr_pending (s : State) (f : Field) (i v : Nat) : (s.wr f i v).pending = s.pending := pending_of_noCtl (wr_noCtl ..)
@[simp] theorem wr_free (s : State) (f : Field) (i v : Nat) : (s.wr f i v).free = s.free := free_of_noCtl (wr_noCtl ..)

@[simp] theorem wrB_mem (s : State) (f : Field) (i : Nat) (b : Bool) : (s.wrB f i b).mem = s.mem := mem_of_noCtl (wrB_noCtl ..)
@[simp] theorem wrB_ms (s : State) (f : Field) (i : Nat) (b : Bool) : (s.wrB f i b).ms = s.ms := ms_of_noCtl (wrB_noCtl ..)
@[simp] theorem wrB_tel (s : State) (f : Field) (i : Nat) (b : Bool) : (s.wrB f i b).tel = s.tel := tel_of_noCtl (wrB_noCtl ..)
@[simp] theorem wrB_pw (s : State) (f : Field) (i : Nat) (b : Bool) : (s.wrB f i b).pw = s.pw := pw_of_noCtl (wrB_noCtl ..)
@[simp] theorem wrB_kal (s : State) (f : Field) (i : Nat) (b : Bool) : (s.wrB f i b).kal = s.kal := kal_of_noCtl (wrB_noCtl ..)
@[simp] theorem wrB_flash (s : State) (f : Field) (i : Nat) (b : Bool) : (s.wrB f i b).flash = s.flash := flash_of_noCtl (wrB_noCtl ..)
@[simp] theorem wrB_fuses (s : State) (f : Field) (i : Nat) (b : Bool) : (s.wrB f i b).fuses = s.fuses := fuses_of_noCtl (wrB_noCtl ..)
@[simp] theorem wrB_sec (s : State) (f : Field) (i : Nat) (b : Bool) : (s.wrB f i b).sec = s.sec := sec_of_noCtl (wrB_noCtl ..)
@[simp] theorem wrB_tap (s : State) (f : Field) (i : Nat) (b : Bool) : (s.wrB f i b).tap = s.tap := tap_of_noCtl (wrB_noCtl ..)
@[simp] theorem wrB_rings (s : State) (f : Field) (i : Nat) (b : Bool) : (s.wrB f i b).rings = s.rings := rings_of_noCtl (wrB_noCtl ..)
@[simp] theorem wrB_seqr (s : State) (f : Field) (i : Nat) (b : Bool) : (s.wrB f i b).seqr = s.seqr := seqr_of_noCtl (wrB_noCtl ..)
@[simp] theorem wrB_anv (s : State) (f : Field) (i : Nat) (b : Bool) : (s.wrB f i b).anv = s.anv := anv_of_noCtl (wrB_noCtl ..)
@[simp] theorem wrB_ops (s : State) (f : Field) (i : Nat) (b : Bool) : (s.wrB f i b).ops = s.ops := ops_of_noCtl (wrB_noCtl ..)
@[simp] theorem wrB_opNext (s : State) (f : Field) (i : Nat) (b : Bool) : (s.wrB f i b).opNext = s.opNext := opNext_of_noCtl (wrB_noCtl ..)
@[simp] theorem wrB_slots (s : State) (f : Field) (i : Nat) (b : Bool) : (s.wrB f i b).slots = s.slots := slots_of_noCtl (wrB_noCtl ..)
@[simp] theorem wrB_net (s : State) (f : Field) (i : Nat) (b : Bool) : (s.wrB f i b).net = s.net := net_of_noCtl (wrB_noCtl ..)
@[simp] theorem wrB_layers (s : State) (f : Field) (i : Nat) (b : Bool) : (s.wrB f i b).layers = s.layers := layers_of_noCtl (wrB_noCtl ..)
@[simp] theorem wrB_upds (s : State) (f : Field) (i : Nat) (b : Bool) : (s.wrB f i b).upds = s.upds := upds_of_noCtl (wrB_noCtl ..)
@[simp] theorem wrB_sprigs (s : State) (f : Field) (i : Nat) (b : Bool) : (s.wrB f i b).sprigs = s.sprigs := sprigs_of_noCtl (wrB_noCtl ..)
@[simp] theorem wrB_ckpts (s : State) (f : Field) (i : Nat) (b : Bool) : (s.wrB f i b).ckpts = s.ckpts := ckpts_of_noCtl (wrB_noCtl ..)
@[simp] theorem wrB_pools (s : State) (f : Field) (i : Nat) (b : Bool) : (s.wrB f i b).pools = s.pools := pools_of_noCtl (wrB_noCtl ..)
@[simp] theorem wrB_wres (s : State) (f : Field) (i : Nat) (b : Bool) : (s.wrB f i b).wres = s.wres := wres_of_noCtl (wrB_noCtl ..)
@[simp] theorem wrB_pending (s : State) (f : Field) (i : Nat) (b : Bool) : (s.wrB f i b).pending = s.pending := pending_of_noCtl (wrB_noCtl ..)
@[simp] theorem wrB_free (s : State) (f : Field) (i : Nat) (b : Bool) : (s.wrB f i b).free = s.free := free_of_noCtl (wrB_noCtl ..)

@[simp] theorem inc_mem (s : State) (f : Field) (i n : Nat) : (s.inc f i n).mem = s.mem := mem_of_noCtl (inc_noCtl ..)
@[simp] theorem inc_ms (s : State) (f : Field) (i n : Nat) : (s.inc f i n).ms = s.ms := ms_of_noCtl (inc_noCtl ..)
@[simp] theorem inc_tel (s : State) (f : Field) (i n : Nat) : (s.inc f i n).tel = s.tel := tel_of_noCtl (inc_noCtl ..)
@[simp] theorem inc_pw (s : State) (f : Field) (i n : Nat) : (s.inc f i n).pw = s.pw := pw_of_noCtl (inc_noCtl ..)
@[simp] theorem inc_kal (s : State) (f : Field) (i n : Nat) : (s.inc f i n).kal = s.kal := kal_of_noCtl (inc_noCtl ..)
@[simp] theorem inc_flash (s : State) (f : Field) (i n : Nat) : (s.inc f i n).flash = s.flash := flash_of_noCtl (inc_noCtl ..)
@[simp] theorem inc_fuses (s : State) (f : Field) (i n : Nat) : (s.inc f i n).fuses = s.fuses := fuses_of_noCtl (inc_noCtl ..)
@[simp] theorem inc_sec (s : State) (f : Field) (i n : Nat) : (s.inc f i n).sec = s.sec := sec_of_noCtl (inc_noCtl ..)
@[simp] theorem inc_tap (s : State) (f : Field) (i n : Nat) : (s.inc f i n).tap = s.tap := tap_of_noCtl (inc_noCtl ..)
@[simp] theorem inc_rings (s : State) (f : Field) (i n : Nat) : (s.inc f i n).rings = s.rings := rings_of_noCtl (inc_noCtl ..)
@[simp] theorem inc_seqr (s : State) (f : Field) (i n : Nat) : (s.inc f i n).seqr = s.seqr := seqr_of_noCtl (inc_noCtl ..)
@[simp] theorem inc_anv (s : State) (f : Field) (i n : Nat) : (s.inc f i n).anv = s.anv := anv_of_noCtl (inc_noCtl ..)
@[simp] theorem inc_ops (s : State) (f : Field) (i n : Nat) : (s.inc f i n).ops = s.ops := ops_of_noCtl (inc_noCtl ..)
@[simp] theorem inc_opNext (s : State) (f : Field) (i n : Nat) : (s.inc f i n).opNext = s.opNext := opNext_of_noCtl (inc_noCtl ..)
@[simp] theorem inc_slots (s : State) (f : Field) (i n : Nat) : (s.inc f i n).slots = s.slots := slots_of_noCtl (inc_noCtl ..)
@[simp] theorem inc_net (s : State) (f : Field) (i n : Nat) : (s.inc f i n).net = s.net := net_of_noCtl (inc_noCtl ..)
@[simp] theorem inc_layers (s : State) (f : Field) (i n : Nat) : (s.inc f i n).layers = s.layers := layers_of_noCtl (inc_noCtl ..)
@[simp] theorem inc_upds (s : State) (f : Field) (i n : Nat) : (s.inc f i n).upds = s.upds := upds_of_noCtl (inc_noCtl ..)
@[simp] theorem inc_sprigs (s : State) (f : Field) (i n : Nat) : (s.inc f i n).sprigs = s.sprigs := sprigs_of_noCtl (inc_noCtl ..)
@[simp] theorem inc_ckpts (s : State) (f : Field) (i n : Nat) : (s.inc f i n).ckpts = s.ckpts := ckpts_of_noCtl (inc_noCtl ..)
@[simp] theorem inc_pools (s : State) (f : Field) (i n : Nat) : (s.inc f i n).pools = s.pools := pools_of_noCtl (inc_noCtl ..)
@[simp] theorem inc_wres (s : State) (f : Field) (i n : Nat) : (s.inc f i n).wres = s.wres := wres_of_noCtl (inc_noCtl ..)
@[simp] theorem inc_pending (s : State) (f : Field) (i n : Nat) : (s.inc f i n).pending = s.pending := pending_of_noCtl (inc_noCtl ..)
@[simp] theorem inc_free (s : State) (f : Field) (i n : Nat) : (s.inc f i n).free = s.free := free_of_noCtl (inc_noCtl ..)

@[simp] theorem incSat_mem (s : State) (f : Field) (i : Nat) : (s.incSat f i).mem = s.mem := mem_of_noCtl (incSat_noCtl ..)
@[simp] theorem incSat_ms (s : State) (f : Field) (i : Nat) : (s.incSat f i).ms = s.ms := ms_of_noCtl (incSat_noCtl ..)
@[simp] theorem incSat_tel (s : State) (f : Field) (i : Nat) : (s.incSat f i).tel = s.tel := tel_of_noCtl (incSat_noCtl ..)
@[simp] theorem incSat_pw (s : State) (f : Field) (i : Nat) : (s.incSat f i).pw = s.pw := pw_of_noCtl (incSat_noCtl ..)
@[simp] theorem incSat_kal (s : State) (f : Field) (i : Nat) : (s.incSat f i).kal = s.kal := kal_of_noCtl (incSat_noCtl ..)
@[simp] theorem incSat_flash (s : State) (f : Field) (i : Nat) : (s.incSat f i).flash = s.flash := flash_of_noCtl (incSat_noCtl ..)
@[simp] theorem incSat_fuses (s : State) (f : Field) (i : Nat) : (s.incSat f i).fuses = s.fuses := fuses_of_noCtl (incSat_noCtl ..)
@[simp] theorem incSat_sec (s : State) (f : Field) (i : Nat) : (s.incSat f i).sec = s.sec := sec_of_noCtl (incSat_noCtl ..)
@[simp] theorem incSat_tap (s : State) (f : Field) (i : Nat) : (s.incSat f i).tap = s.tap := tap_of_noCtl (incSat_noCtl ..)
@[simp] theorem incSat_rings (s : State) (f : Field) (i : Nat) : (s.incSat f i).rings = s.rings := rings_of_noCtl (incSat_noCtl ..)
@[simp] theorem incSat_seqr (s : State) (f : Field) (i : Nat) : (s.incSat f i).seqr = s.seqr := seqr_of_noCtl (incSat_noCtl ..)
@[simp] theorem incSat_anv (s : State) (f : Field) (i : Nat) : (s.incSat f i).anv = s.anv := anv_of_noCtl (incSat_noCtl ..)
@[simp] theorem incSat_ops (s : State) (f : Field) (i : Nat) : (s.incSat f i).ops = s.ops := ops_of_noCtl (incSat_noCtl ..)
@[simp] theorem incSat_opNext (s : State) (f : Field) (i : Nat) : (s.incSat f i).opNext = s.opNext := opNext_of_noCtl (incSat_noCtl ..)
@[simp] theorem incSat_slots (s : State) (f : Field) (i : Nat) : (s.incSat f i).slots = s.slots := slots_of_noCtl (incSat_noCtl ..)
@[simp] theorem incSat_net (s : State) (f : Field) (i : Nat) : (s.incSat f i).net = s.net := net_of_noCtl (incSat_noCtl ..)
@[simp] theorem incSat_layers (s : State) (f : Field) (i : Nat) : (s.incSat f i).layers = s.layers := layers_of_noCtl (incSat_noCtl ..)
@[simp] theorem incSat_upds (s : State) (f : Field) (i : Nat) : (s.incSat f i).upds = s.upds := upds_of_noCtl (incSat_noCtl ..)
@[simp] theorem incSat_sprigs (s : State) (f : Field) (i : Nat) : (s.incSat f i).sprigs = s.sprigs := sprigs_of_noCtl (incSat_noCtl ..)
@[simp] theorem incSat_ckpts (s : State) (f : Field) (i : Nat) : (s.incSat f i).ckpts = s.ckpts := ckpts_of_noCtl (incSat_noCtl ..)
@[simp] theorem incSat_pools (s : State) (f : Field) (i : Nat) : (s.incSat f i).pools = s.pools := pools_of_noCtl (incSat_noCtl ..)
@[simp] theorem incSat_wres (s : State) (f : Field) (i : Nat) : (s.incSat f i).wres = s.wres := wres_of_noCtl (incSat_noCtl ..)
@[simp] theorem incSat_pending (s : State) (f : Field) (i : Nat) : (s.incSat f i).pending = s.pending := pending_of_noCtl (incSat_noCtl ..)
@[simp] theorem incSat_free (s : State) (f : Field) (i : Nat) : (s.incSat f i).free = s.free := free_of_noCtl (incSat_noCtl ..)

@[simp] theorem settle_mem (s : State) : (s.settle).mem = s.mem := mem_of_noCtl (settle_noCtl ..)
@[simp] theorem settle_ms (s : State) : (s.settle).ms = s.ms := ms_of_noCtl (settle_noCtl ..)
@[simp] theorem settle_tel (s : State) : (s.settle).tel = s.tel := tel_of_noCtl (settle_noCtl ..)
@[simp] theorem settle_pw (s : State) : (s.settle).pw = s.pw := pw_of_noCtl (settle_noCtl ..)
@[simp] theorem settle_kal (s : State) : (s.settle).kal = s.kal := kal_of_noCtl (settle_noCtl ..)
@[simp] theorem settle_flash (s : State) : (s.settle).flash = s.flash := flash_of_noCtl (settle_noCtl ..)
@[simp] theorem settle_fuses (s : State) : (s.settle).fuses = s.fuses := fuses_of_noCtl (settle_noCtl ..)
@[simp] theorem settle_sec (s : State) : (s.settle).sec = s.sec := sec_of_noCtl (settle_noCtl ..)
@[simp] theorem settle_tap (s : State) : (s.settle).tap = s.tap := tap_of_noCtl (settle_noCtl ..)
@[simp] theorem settle_rings (s : State) : (s.settle).rings = s.rings := rings_of_noCtl (settle_noCtl ..)
@[simp] theorem settle_seqr (s : State) : (s.settle).seqr = s.seqr := seqr_of_noCtl (settle_noCtl ..)
@[simp] theorem settle_anv (s : State) : (s.settle).anv = s.anv := anv_of_noCtl (settle_noCtl ..)
@[simp] theorem settle_ops (s : State) : (s.settle).ops = s.ops := ops_of_noCtl (settle_noCtl ..)
@[simp] theorem settle_opNext (s : State) : (s.settle).opNext = s.opNext := opNext_of_noCtl (settle_noCtl ..)
@[simp] theorem settle_slots (s : State) : (s.settle).slots = s.slots := slots_of_noCtl (settle_noCtl ..)
@[simp] theorem settle_net (s : State) : (s.settle).net = s.net := net_of_noCtl (settle_noCtl ..)
@[simp] theorem settle_layers (s : State) : (s.settle).layers = s.layers := layers_of_noCtl (settle_noCtl ..)
@[simp] theorem settle_upds (s : State) : (s.settle).upds = s.upds := upds_of_noCtl (settle_noCtl ..)
@[simp] theorem settle_sprigs (s : State) : (s.settle).sprigs = s.sprigs := sprigs_of_noCtl (settle_noCtl ..)
@[simp] theorem settle_ckpts (s : State) : (s.settle).ckpts = s.ckpts := ckpts_of_noCtl (settle_noCtl ..)
@[simp] theorem settle_pools (s : State) : (s.settle).pools = s.pools := pools_of_noCtl (settle_noCtl ..)
@[simp] theorem settle_wres (s : State) : (s.settle).wres = s.wres := wres_of_noCtl (settle_noCtl ..)
@[simp] theorem settle_pending (s : State) : (s.settle).pending = s.pending := pending_of_noCtl (settle_noCtl ..)
@[simp] theorem settle_free (s : State) : (s.settle).free = s.free := free_of_noCtl (settle_noCtl ..)

theorem ms_of_noEvent {s t : State} (h : t.noEvent = s.noEvent) : t.ms = s.ms := by rw [eq_of_noEvent h]
theorem pw_of_noEvent {s t : State} (h : t.noEvent = s.noEvent) : t.pw = s.pw := by rw [eq_of_noEvent h]
theorem kal_of_noEvent {s t : State} (h : t.noEvent = s.noEvent) : t.kal = s.kal := by rw [eq_of_noEvent h]
theorem fuses_of_noEvent {s t : State} (h : t.noEvent = s.noEvent) : t.fuses = s.fuses := by rw [eq_of_noEvent h]
theorem sec_of_noEvent {s t : State} (h : t.noEvent = s.noEvent) : t.sec = s.sec := by rw [eq_of_noEvent h]
theorem tap_of_noEvent {s t : State} (h : t.noEvent = s.noEvent) : t.tap = s.tap := by rw [eq_of_noEvent h]
theorem rings_of_noEvent {s t : State} (h : t.noEvent = s.noEvent) : t.rings = s.rings := by rw [eq_of_noEvent h]
theorem seqr_of_noEvent {s t : State} (h : t.noEvent = s.noEvent) : t.seqr = s.seqr := by rw [eq_of_noEvent h]
theorem anv_of_noEvent {s t : State} (h : t.noEvent = s.noEvent) : t.anv = s.anv := by rw [eq_of_noEvent h]
theorem ops_of_noEvent {s t : State} (h : t.noEvent = s.noEvent) : t.ops = s.ops := by rw [eq_of_noEvent h]
theorem opNext_of_noEvent {s t : State} (h : t.noEvent = s.noEvent) : t.opNext = s.opNext := by rw [eq_of_noEvent h]
theorem slots_of_noEvent {s t : State} (h : t.noEvent = s.noEvent) : t.slots = s.slots := by rw [eq_of_noEvent h]
theorem net_of_noEvent {s t : State} (h : t.noEvent = s.noEvent) : t.net = s.net := by rw [eq_of_noEvent h]
theorem layers_of_noEvent {s t : State} (h : t.noEvent = s.noEvent) : t.layers = s.layers := by rw [eq_of_noEvent h]
theorem upds_of_noEvent {s t : State} (h : t.noEvent = s.noEvent) : t.upds = s.upds := by rw [eq_of_noEvent h]
theorem sprigs_of_noEvent {s t : State} (h : t.noEvent = s.noEvent) : t.sprigs = s.sprigs := by rw [eq_of_noEvent h]
theorem ckpts_of_noEvent {s t : State} (h : t.noEvent = s.noEvent) : t.ckpts = s.ckpts := by rw [eq_of_noEvent h]
theorem pools_of_noEvent {s t : State} (h : t.noEvent = s.noEvent) : t.pools = s.pools := by rw [eq_of_noEvent h]
theorem wres_of_noEvent {s t : State} (h : t.noEvent = s.noEvent) : t.wres = s.wres := by rw [eq_of_noEvent h]
theorem pending_of_noEvent {s t : State} (h : t.noEvent = s.noEvent) : t.pending = s.pending := by rw [eq_of_noEvent h]
theorem free_of_noEvent {s t : State} (h : t.noEvent = s.noEvent) : t.free = s.free := by rw [eq_of_noEvent h]

@[simp] theorem raise_mem (s : State) (c u : Nat) (sl : Option (Fin 8)) (g : Nat) : (s.raise c u sl g).mem = s.mem := mem_of_noEvent (raise_noEvent ..)
@[simp] theorem raise_ms (s : State) (c u : Nat) (sl : Option (Fin 8)) (g : Nat) : (s.raise c u sl g).ms = s.ms := ms_of_noEvent (raise_noEvent ..)
@[simp] theorem raise_pw (s : State) (c u : Nat) (sl : Option (Fin 8)) (g : Nat) : (s.raise c u sl g).pw = s.pw := pw_of_noEvent (raise_noEvent ..)
@[simp] theorem raise_kal (s : State) (c u : Nat) (sl : Option (Fin 8)) (g : Nat) : (s.raise c u sl g).kal = s.kal := kal_of_noEvent (raise_noEvent ..)
@[simp] theorem raise_fuses (s : State) (c u : Nat) (sl : Option (Fin 8)) (g : Nat) : (s.raise c u sl g).fuses = s.fuses := fuses_of_noEvent (raise_noEvent ..)
@[simp] theorem raise_sec (s : State) (c u : Nat) (sl : Option (Fin 8)) (g : Nat) : (s.raise c u sl g).sec = s.sec := sec_of_noEvent (raise_noEvent ..)
@[simp] theorem raise_tap (s : State) (c u : Nat) (sl : Option (Fin 8)) (g : Nat) : (s.raise c u sl g).tap = s.tap := tap_of_noEvent (raise_noEvent ..)
@[simp] theorem raise_rings (s : State) (c u : Nat) (sl : Option (Fin 8)) (g : Nat) : (s.raise c u sl g).rings = s.rings := rings_of_noEvent (raise_noEvent ..)
@[simp] theorem raise_seqr (s : State) (c u : Nat) (sl : Option (Fin 8)) (g : Nat) : (s.raise c u sl g).seqr = s.seqr := seqr_of_noEvent (raise_noEvent ..)
@[simp] theorem raise_anv (s : State) (c u : Nat) (sl : Option (Fin 8)) (g : Nat) : (s.raise c u sl g).anv = s.anv := anv_of_noEvent (raise_noEvent ..)
@[simp] theorem raise_ops (s : State) (c u : Nat) (sl : Option (Fin 8)) (g : Nat) : (s.raise c u sl g).ops = s.ops := ops_of_noEvent (raise_noEvent ..)
@[simp] theorem raise_opNext (s : State) (c u : Nat) (sl : Option (Fin 8)) (g : Nat) : (s.raise c u sl g).opNext = s.opNext := opNext_of_noEvent (raise_noEvent ..)
@[simp] theorem raise_slots (s : State) (c u : Nat) (sl : Option (Fin 8)) (g : Nat) : (s.raise c u sl g).slots = s.slots := slots_of_noEvent (raise_noEvent ..)
@[simp] theorem raise_net (s : State) (c u : Nat) (sl : Option (Fin 8)) (g : Nat) : (s.raise c u sl g).net = s.net := net_of_noEvent (raise_noEvent ..)
@[simp] theorem raise_layers (s : State) (c u : Nat) (sl : Option (Fin 8)) (g : Nat) : (s.raise c u sl g).layers = s.layers := layers_of_noEvent (raise_noEvent ..)
@[simp] theorem raise_upds (s : State) (c u : Nat) (sl : Option (Fin 8)) (g : Nat) : (s.raise c u sl g).upds = s.upds := upds_of_noEvent (raise_noEvent ..)
@[simp] theorem raise_sprigs (s : State) (c u : Nat) (sl : Option (Fin 8)) (g : Nat) : (s.raise c u sl g).sprigs = s.sprigs := sprigs_of_noEvent (raise_noEvent ..)
@[simp] theorem raise_ckpts (s : State) (c u : Nat) (sl : Option (Fin 8)) (g : Nat) : (s.raise c u sl g).ckpts = s.ckpts := ckpts_of_noEvent (raise_noEvent ..)
@[simp] theorem raise_pools (s : State) (c u : Nat) (sl : Option (Fin 8)) (g : Nat) : (s.raise c u sl g).pools = s.pools := pools_of_noEvent (raise_noEvent ..)
@[simp] theorem raise_wres (s : State) (c u : Nat) (sl : Option (Fin 8)) (g : Nat) : (s.raise c u sl g).wres = s.wres := wres_of_noEvent (raise_noEvent ..)
@[simp] theorem raise_pending (s : State) (c u : Nat) (sl : Option (Fin 8)) (g : Nat) : (s.raise c u sl g).pending = s.pending := pending_of_noEvent (raise_noEvent ..)
@[simp] theorem raise_free (s : State) (c u : Nat) (sl : Option (Fin 8)) (g : Nat) : (s.raise c u sl g).free = s.free := free_of_noEvent (raise_noEvent ..)

@[simp] theorem note_mem (s : State) (c u : Nat) (sl : Option (Fin 8)) (g : Nat) : (s.note c u sl g).mem = s.mem := mem_of_noEvent (note_noEvent ..)
@[simp] theorem note_ms (s : State) (c u : Nat) (sl : Option (Fin 8)) (g : Nat) : (s.note c u sl g).ms = s.ms := ms_of_noEvent (note_noEvent ..)
@[simp] theorem note_pw (s : State) (c u : Nat) (sl : Option (Fin 8)) (g : Nat) : (s.note c u sl g).pw = s.pw := pw_of_noEvent (note_noEvent ..)
@[simp] theorem note_kal (s : State) (c u : Nat) (sl : Option (Fin 8)) (g : Nat) : (s.note c u sl g).kal = s.kal := kal_of_noEvent (note_noEvent ..)
@[simp] theorem note_fuses (s : State) (c u : Nat) (sl : Option (Fin 8)) (g : Nat) : (s.note c u sl g).fuses = s.fuses := fuses_of_noEvent (note_noEvent ..)
@[simp] theorem note_sec (s : State) (c u : Nat) (sl : Option (Fin 8)) (g : Nat) : (s.note c u sl g).sec = s.sec := sec_of_noEvent (note_noEvent ..)
@[simp] theorem note_tap (s : State) (c u : Nat) (sl : Option (Fin 8)) (g : Nat) : (s.note c u sl g).tap = s.tap := tap_of_noEvent (note_noEvent ..)
@[simp] theorem note_rings (s : State) (c u : Nat) (sl : Option (Fin 8)) (g : Nat) : (s.note c u sl g).rings = s.rings := rings_of_noEvent (note_noEvent ..)
@[simp] theorem note_seqr (s : State) (c u : Nat) (sl : Option (Fin 8)) (g : Nat) : (s.note c u sl g).seqr = s.seqr := seqr_of_noEvent (note_noEvent ..)
@[simp] theorem note_anv (s : State) (c u : Nat) (sl : Option (Fin 8)) (g : Nat) : (s.note c u sl g).anv = s.anv := anv_of_noEvent (note_noEvent ..)
@[simp] theorem note_ops (s : State) (c u : Nat) (sl : Option (Fin 8)) (g : Nat) : (s.note c u sl g).ops = s.ops := ops_of_noEvent (note_noEvent ..)
@[simp] theorem note_opNext (s : State) (c u : Nat) (sl : Option (Fin 8)) (g : Nat) : (s.note c u sl g).opNext = s.opNext := opNext_of_noEvent (note_noEvent ..)
@[simp] theorem note_slots (s : State) (c u : Nat) (sl : Option (Fin 8)) (g : Nat) : (s.note c u sl g).slots = s.slots := slots_of_noEvent (note_noEvent ..)
@[simp] theorem note_net (s : State) (c u : Nat) (sl : Option (Fin 8)) (g : Nat) : (s.note c u sl g).net = s.net := net_of_noEvent (note_noEvent ..)
@[simp] theorem note_layers (s : State) (c u : Nat) (sl : Option (Fin 8)) (g : Nat) : (s.note c u sl g).layers = s.layers := layers_of_noEvent (note_noEvent ..)
@[simp] theorem note_upds (s : State) (c u : Nat) (sl : Option (Fin 8)) (g : Nat) : (s.note c u sl g).upds = s.upds := upds_of_noEvent (note_noEvent ..)
@[simp] theorem note_sprigs (s : State) (c u : Nat) (sl : Option (Fin 8)) (g : Nat) : (s.note c u sl g).sprigs = s.sprigs := sprigs_of_noEvent (note_noEvent ..)
@[simp] theorem note_ckpts (s : State) (c u : Nat) (sl : Option (Fin 8)) (g : Nat) : (s.note c u sl g).ckpts = s.ckpts := ckpts_of_noEvent (note_noEvent ..)
@[simp] theorem note_pools (s : State) (c u : Nat) (sl : Option (Fin 8)) (g : Nat) : (s.note c u sl g).pools = s.pools := pools_of_noEvent (note_noEvent ..)
@[simp] theorem note_wres (s : State) (c u : Nat) (sl : Option (Fin 8)) (g : Nat) : (s.note c u sl g).wres = s.wres := wres_of_noEvent (note_noEvent ..)
@[simp] theorem note_pending (s : State) (c u : Nat) (sl : Option (Fin 8)) (g : Nat) : (s.note c u sl g).pending = s.pending := pending_of_noEvent (note_noEvent ..)
@[simp] theorem note_free (s : State) (c u : Nat) (sl : Option (Fin 8)) (g : Nat) : (s.note c u sl g).free = s.free := free_of_noEvent (note_noEvent ..)

@[simp] theorem capture_mem (s : State) (d : Fin 2) (x g : Nat) : (s.capture d x g).mem = s.mem := mem_of_noEvent (capture_noEvent ..)
@[simp] theorem capture_ms (s : State) (d : Fin 2) (x g : Nat) : (s.capture d x g).ms = s.ms := ms_of_noEvent (capture_noEvent ..)
@[simp] theorem capture_pw (s : State) (d : Fin 2) (x g : Nat) : (s.capture d x g).pw = s.pw := pw_of_noEvent (capture_noEvent ..)
@[simp] theorem capture_kal (s : State) (d : Fin 2) (x g : Nat) : (s.capture d x g).kal = s.kal := kal_of_noEvent (capture_noEvent ..)
@[simp] theorem capture_fuses (s : State) (d : Fin 2) (x g : Nat) : (s.capture d x g).fuses = s.fuses := fuses_of_noEvent (capture_noEvent ..)
@[simp] theorem capture_sec (s : State) (d : Fin 2) (x g : Nat) : (s.capture d x g).sec = s.sec := sec_of_noEvent (capture_noEvent ..)
@[simp] theorem capture_tap (s : State) (d : Fin 2) (x g : Nat) : (s.capture d x g).tap = s.tap := tap_of_noEvent (capture_noEvent ..)
@[simp] theorem capture_rings (s : State) (d : Fin 2) (x g : Nat) : (s.capture d x g).rings = s.rings := rings_of_noEvent (capture_noEvent ..)
@[simp] theorem capture_seqr (s : State) (d : Fin 2) (x g : Nat) : (s.capture d x g).seqr = s.seqr := seqr_of_noEvent (capture_noEvent ..)
@[simp] theorem capture_anv (s : State) (d : Fin 2) (x g : Nat) : (s.capture d x g).anv = s.anv := anv_of_noEvent (capture_noEvent ..)
@[simp] theorem capture_ops (s : State) (d : Fin 2) (x g : Nat) : (s.capture d x g).ops = s.ops := ops_of_noEvent (capture_noEvent ..)
@[simp] theorem capture_opNext (s : State) (d : Fin 2) (x g : Nat) : (s.capture d x g).opNext = s.opNext := opNext_of_noEvent (capture_noEvent ..)
@[simp] theorem capture_slots (s : State) (d : Fin 2) (x g : Nat) : (s.capture d x g).slots = s.slots := slots_of_noEvent (capture_noEvent ..)
@[simp] theorem capture_net (s : State) (d : Fin 2) (x g : Nat) : (s.capture d x g).net = s.net := net_of_noEvent (capture_noEvent ..)
@[simp] theorem capture_layers (s : State) (d : Fin 2) (x g : Nat) : (s.capture d x g).layers = s.layers := layers_of_noEvent (capture_noEvent ..)
@[simp] theorem capture_upds (s : State) (d : Fin 2) (x g : Nat) : (s.capture d x g).upds = s.upds := upds_of_noEvent (capture_noEvent ..)
@[simp] theorem capture_sprigs (s : State) (d : Fin 2) (x g : Nat) : (s.capture d x g).sprigs = s.sprigs := sprigs_of_noEvent (capture_noEvent ..)
@[simp] theorem capture_ckpts (s : State) (d : Fin 2) (x g : Nat) : (s.capture d x g).ckpts = s.ckpts := ckpts_of_noEvent (capture_noEvent ..)
@[simp] theorem capture_pools (s : State) (d : Fin 2) (x g : Nat) : (s.capture d x g).pools = s.pools := pools_of_noEvent (capture_noEvent ..)
@[simp] theorem capture_wres (s : State) (d : Fin 2) (x g : Nat) : (s.capture d x g).wres = s.wres := wres_of_noEvent (capture_noEvent ..)
@[simp] theorem capture_pending (s : State) (d : Fin 2) (x g : Nat) : (s.capture d x g).pending = s.pending := pending_of_noEvent (capture_noEvent ..)
@[simp] theorem capture_free (s : State) (d : Fin 2) (x g : Nat) : (s.capture d x g).free = s.free := free_of_noEvent (capture_noEvent ..)

/-- After a command only the control space and the queue differ from what it led to. -/
theorem done_eq (s : State) (q : List Instr) : s.done q = { s with ctl := (s.done q).ctl, pending := q } :=
  eq_of_noCtl (s := { s with pending := q }) (done_noCtl s q)

@[simp] theorem done_mem (s : State) (q : List Instr) : (s.done q).mem = s.mem := by rw [done_eq]
@[simp] theorem done_ms (s : State) (q : List Instr) : (s.done q).ms = s.ms := by rw [done_eq]
@[simp] theorem done_tel (s : State) (q : List Instr) : (s.done q).tel = s.tel := by rw [done_eq]
@[simp] theorem done_pw (s : State) (q : List Instr) : (s.done q).pw = s.pw := by rw [done_eq]
@[simp] theorem done_kal (s : State) (q : List Instr) : (s.done q).kal = s.kal := by rw [done_eq]
@[simp] theorem done_flash (s : State) (q : List Instr) : (s.done q).flash = s.flash := by rw [done_eq]
@[simp] theorem done_fuses (s : State) (q : List Instr) : (s.done q).fuses = s.fuses := by rw [done_eq]
@[simp] theorem done_sec (s : State) (q : List Instr) : (s.done q).sec = s.sec := by rw [done_eq]
@[simp] theorem done_tap (s : State) (q : List Instr) : (s.done q).tap = s.tap := by rw [done_eq]
@[simp] theorem done_rings (s : State) (q : List Instr) : (s.done q).rings = s.rings := by rw [done_eq]
@[simp] theorem done_seqr (s : State) (q : List Instr) : (s.done q).seqr = s.seqr := by rw [done_eq]
@[simp] theorem done_anv (s : State) (q : List Instr) : (s.done q).anv = s.anv := by rw [done_eq]
@[simp] theorem done_ops (s : State) (q : List Instr) : (s.done q).ops = s.ops := by rw [done_eq]
@[simp] theorem done_opNext (s : State) (q : List Instr) : (s.done q).opNext = s.opNext := by rw [done_eq]
@[simp] theorem done_slots (s : State) (q : List Instr) : (s.done q).slots = s.slots := by rw [done_eq]
@[simp] theorem done_net (s : State) (q : List Instr) : (s.done q).net = s.net := by rw [done_eq]
@[simp] theorem done_layers (s : State) (q : List Instr) : (s.done q).layers = s.layers := by rw [done_eq]
@[simp] theorem done_upds (s : State) (q : List Instr) : (s.done q).upds = s.upds := by rw [done_eq]
@[simp] theorem done_sprigs (s : State) (q : List Instr) : (s.done q).sprigs = s.sprigs := by rw [done_eq]
@[simp] theorem done_ckpts (s : State) (q : List Instr) : (s.done q).ckpts = s.ckpts := by rw [done_eq]
@[simp] theorem done_pools (s : State) (q : List Instr) : (s.done q).pools = s.pools := by rw [done_eq]
@[simp] theorem done_wres (s : State) (q : List Instr) : (s.done q).wres = s.wres := by rw [done_eq]
@[simp] theorem done_free (s : State) (q : List Instr) : (s.done q).free = s.free := by rw [done_eq]

end Sys2Proof.Machine.State
end

