-- ==== Sys2Proof/Laws/Mem.lean ====
section
/-!
SUPPORT. Laws of the memory operations: what an access of memory leaves unchanged, and that every operation that writes
memory keeps its canonical form.
-/
namespace Sys2Proof.Machine

open Sys2Proof.Safety

/-- What every element of a fold keeps, the fold keeps. -/
theorem foldl_keeps {α β γ : Type} (g : α → γ) (f : α → β → α) (h : ∀ a b, g (f a b) = g a) (l : List β) (a : α) :
    g (l.foldl f a) = g a := by
  induction l generalizing a with
  | nil => rfl
  | cons x l ih => rw [List.foldl_cons, ih, h]

/-- What every element of a fold keeps true, the fold keeps true. -/
theorem foldl_holds {α β : Type} (P : α → Prop) (f : α → β → α) (h : ∀ a b, P a → P (f a b)) (l : List β) (a : α)
    (ha : P a) : P (l.foldl f a) := by
  induction l generalizing a with
  | nil => exact ha
  | cons x l ih => exact ih _ (h _ _ ha)

namespace State

/-! What an access leaves unchanged. -/

theorem ite_noMem {s x y : State} (c : Prop) [Decidable c] (hx : x.noMem = s.noMem) (hy : y.noMem = s.noMem) :
    (if c then x else y).noMem = s.noMem := by split <;> assumption

@[simp] theorem wr_noMem (s : State) (f : Field) (i v : Nat) : (s.wr f i v).noMem = s.noMem := noMem_of_noCtl (wr_noCtl ..)
@[simp] theorem wrB_noMem (s : State) (f : Field) (i : Nat) (b : Bool) : (s.wrB f i b).noMem = s.noMem := noMem_of_noCtl (wrB_noCtl ..)
@[simp] theorem inc_noMem (s : State) (f : Field) (i n : Nat) : (s.inc f i n).noMem = s.noMem := noMem_of_noCtl (inc_noCtl ..)
@[simp] theorem incSat_noMem (s : State) (f : Field) (i : Nat) : (s.incSat f i).noMem = s.noMem := noMem_of_noCtl (incSat_noCtl ..)
@[simp] theorem raise_noMem (s : State) (c u : Nat) (sl : Option (Fin 8)) (a : Nat) : (s.raise c u sl a).noMem = s.noMem :=
  noMem_of_noEvent (raise_noEvent ..)
@[simp] theorem tick_noMem (s : State) : s.tick.noMem = s.noMem := id rfl
@[simp] theorem tickN_noMem (s : State) (n : Nat) : (s.tickN n).noMem = s.noMem := id rfl
@[simp] theorem setEnt_noMem (s : State) (p : Nat) (e : TierEnt) : (s.setEnt p e).noMem = s.noMem := id rfl
@[simp] theorem setPoison_noMem (s : State) (l : Nat) (on : Bool) : (s.setPoison l on).noMem = s.noMem := id rfl
@[simp] theorem unfill_noMem (s : State) (l : Nat) : (s.unfill l).noMem = s.noMem := id rfl

@[simp] theorem putBytes_noMem (s : State) (a : Nat) (bs : List Byte) : (s.putBytes a bs).noMem = s.noMem := by
  induction bs generalizing s a with
  | nil => rfl
  | cons b bs ih => rw [putBytes, ih]; rfl

@[simp] theorem mergeLine_noMem (s : State) (l d m : Nat) : (s.mergeLine l d m).noMem = s.noMem := putBytes_noMem ..

@[simp] theorem unmappedAccess_noMem (s : State) (v : Via) (p : Nat) : (s.unmappedAccess v p).noMem = s.noMem := by
  simp only [unmappedAccess]; split <;> simp

@[simp] theorem reservedWrite_noMem (s : State) (v : Via) (p : Nat) : (s.reservedWrite v p).noMem = s.noMem := by
  simp only [reservedWrite]; split <;> simp

@[simp] theorem addMet_noMem (s : State) (l : Nat) : (s.addMet l).noMem = s.noMem := id rfl

@[simp] theorem deadLine_noMem (s : State) (l : Nat) (b : BitVec 512) (m : Bool) : (s.deadLine l b m).noMem = s.noMem := by
  rw [deadLine, unfill_noMem, setPoison_noMem, putBytes_noMem]

theorem setMsc_noMem (s : State) (d : Fin 2) (l : List MscLine) :
    ({ s with ms := { s.ms with msc := s.ms.msc.set d l } } : State).noMem = s.noMem := id rfl

@[simp] theorem mscAccess_noMem (s : State) (d : Fin 2) (h l : Nat) (w : Bool) : (s.mscAccess d h l w).noMem = s.noMem := by
  simp only [mscAccess]
  split
  · rfl
  · split
    · split
      · split
        · rw [deadLine_noMem, inc_noMem, setMsc_noMem, inc_noMem]
        · rw [setMsc_noMem, inc_noMem]
      · rw [setMsc_noMem, inc_noMem]
    · split
      · rw [tick_noMem, setMsc_noMem, inc_noMem]
      · rw [inc_noMem]

@[simp] theorem ledgerUse_noMem (s : State) (d : Fin 2) (p : Nat) : (s.ledgerUse d p).noMem = s.noMem := by
  simp only [ledgerUse]
  split
  · rfl
  · rw [tick_noMem, inc_noMem]; rfl

@[simp] theorem touchLine_noMem (s : State) (v : Via) (l : Nat) (w : Bool) : (s.touchLine v l w).noMem = s.noMem := by
  unfold touchLine
  exact ite_noMem _ ((mscAccess_noMem ..).trans ((setEnt_noMem ..).trans (ledgerUse_noMem ..))) ((setEnt_noMem ..).trans (ledgerUse_noMem ..))

@[simp] theorem readLine_noMem (s : State) (v : Via) (l : Nat) : (s.readLine v l).noMem = s.noMem := by
  simp only [readLine]
  split
  · rfl
  · split
    · rw [unmappedAccess_noMem, ledgerUse_noMem]
    · rw [touchLine_noMem]; split <;> simp

/-- A read of memory changes only counters, events, the tier map, the caches, and lines whose markers die. -/
@[simp] theorem readRange_noMem (s : State) (v : Via) (a n : Nat) : (s.readRange v a n).noMem = s.noMem := by
  simp only [readRange]; split
  · rfl
  · exact foldl_keeps noMem _ (fun s l => readLine_noMem s v l) _ _

@[simp] theorem doorbellValue_noMem (s : State) (r : RingId) (t : Nat) : (s.doorbellValue r t).noMem = s.noMem := by
  simp only [doorbellValue]; split
  · simp
  · split <;> simp

@[simp] theorem doorbellLine_noMem (s : State) (l d m : Nat) : (s.doorbellLine l d m).noMem = s.noMem := by
  simp only [doorbellLine]; split
  · split <;> simp
  · rfl

@[simp] theorem writeLine_noMem (s : State) (v : Via) (l d m : Nat) (r : Bool) : (s.writeLine v l d m r).noMem = s.noMem := by
  simp only [writeLine]
  split
  · rfl
  split
  · simp
  split
  · simp
  split
  · simp
  split
  · split
    · rfl
    split
    · simp
    · split <;> simp
  · split <;> simp

/-- A store changes only counters, doorbells, events, memory, the tier map and the caches. -/
@[simp] theorem store_noMem (s : State) (v : Via) (a : Nat) (bs : List Byte) : (s.store v a bs).noMem = s.noMem :=
  foldl_keeps noMem _ (fun (s : State) (x : Nat × Nat × Nat) => writeLine_noMem s v x.1 x.2.1 x.2.2 false) _ _

@[simp] theorem update_noMem (s : State) (v : Via) (a : Nat) (bs : List Byte) : (s.update v a bs).noMem = s.noMem :=
  foldl_keeps noMem _ (fun (s : State) (x : Nat × Nat × Nat) => writeLine_noMem s v x.1 x.2.1 x.2.2 true) _ _

@[simp] theorem poisonRange_noMem (s : State) (a n : Nat) : (s.poisonRange a n).noMem = s.noMem := by
  simp only [poisonRange]; split
  · rfl
  · refine foldl_keeps noMem _ (fun s l => ?_) _ _
    split <;> simp

/-! The canonical form of memory. -/

/-- Memory in its canonical form. -/
def memWf (s : State) : Prop := Tab.wf noByte s.mem = true

theorem memWf_of_eq {s t : State} (h : t.mem = s.mem) (hs : s.memWf) : t.memWf := by rw [memWf, h]; exact hs


theorem ite_wf {x y : State} (c : Prop) [Decidable c] (hx : x.memWf) (hy : y.memWf) : (if c then x else y).memWf := by
  split <;> assumption

theorem putBytes_wf {s : State} (a : Nat) (bs : List Byte) (h : s.memWf) : (s.putBytes a bs).memWf := by
  induction bs generalizing s a with
  | nil => exact h
  | cons b bs ih => exact ih _ (Tab.wf_set _ _ _ h)

theorem mergeLine_wf {s : State} (l d m : Nat) (h : s.memWf) : (s.mergeLine l d m).memWf := putBytes_wf _ _ h

theorem zeroPage_wf {s : State} (p : Nat) (h : s.memWf) : (s.zeroPage p).memWf := Tab.wf_filter _ _ h

theorem inc_wf {s : State} (f : Field) (i n : Nat) (h : s.memWf) : (s.inc f i n).memWf := memWf_of_eq (mem_of_noCtl (inc_noCtl ..)) h
theorem incSat_wf {s : State} (f : Field) (i : Nat) (h : s.memWf) : (s.incSat f i).memWf := memWf_of_eq (mem_of_noCtl (incSat_noCtl ..)) h
theorem raise_wf {s : State} (c u : Nat) (sl : Option (Fin 8)) (a : Nat) (h : s.memWf) : (s.raise c u sl a).memWf :=
  memWf_of_eq (mem_of_noEvent (raise_noEvent ..)) h
theorem wr_wf {s : State} (f : Field) (i v : Nat) (h : s.memWf) : (s.wr f i v).memWf := memWf_of_eq (mem_of_noCtl (wr_noCtl ..)) h

theorem tickN_wf {s : State} (n : Nat) (h : s.memWf) : (s.tickN n).memWf := h
theorem tick_wf {s : State} (h : s.memWf) : s.tick.memWf := h
theorem setPoison_wf {s : State} (l : Nat) (on : Bool) (h : s.memWf) : (s.setPoison l on).memWf := h
theorem unfill_wf {s : State} (l : Nat) (h : s.memWf) : (s.unfill l).memWf := h
theorem setEnt_wf {s : State} (p : Nat) (e : TierEnt) (h : s.memWf) : (s.setEnt p e).memWf := h
theorem setMsc_wf {s : State} (d : Fin 2) (l : List MscLine) (h : s.memWf) :
    ({ s with ms := { s.ms with msc := s.ms.msc.set d l } } : State).memWf := h

theorem addMet_wf {s : State} (l : Nat) (h : s.memWf) : (s.addMet l).memWf := h

theorem deadLine_wf {s : State} (l : Nat) (b : BitVec 512) (m : Bool) (h : s.memWf) : (s.deadLine l b m).memWf :=
  unfill_wf _ (setPoison_wf _ _ (putBytes_wf _ _ h))

theorem mscAccess_wf {s : State} (d : Fin 2) (hi l : Nat) (w : Bool) (h : s.memWf) : (s.mscAccess d hi l w).memWf := by
  simp only [mscAccess]
  split
  · exact h
  · split
    · split
      · split
        · exact deadLine_wf _ _ _ (inc_wf _ _ _ (setMsc_wf _ _ (inc_wf _ _ _ h)))
        · exact setMsc_wf _ _ (inc_wf _ _ _ h)
      · exact setMsc_wf _ _ (inc_wf _ _ _ h)
    · split
      · exact tick_wf (setMsc_wf _ _ (inc_wf _ _ _ h))
      · exact inc_wf _ _ _ h

theorem ledgerUse_wf {s : State} (d : Fin 2) (p : Nat) (h : s.memWf) : (s.ledgerUse d p).memWf := by
  simp only [ledgerUse]; split
  · exact h
  · exact inc_wf _ _ _ h

theorem touchLine_wf {s : State} (v : Via) (l : Nat) (w : Bool) (h : s.memWf) : (s.touchLine v l w).memWf := by
  have h2 : (s.ledgerUse v.die (l / 4096)).memWf := ledgerUse_wf _ _ h
  have h3 (p : Nat) (e : TierEnt) : ((s.ledgerUse v.die (l / 4096)).setEnt p e).memWf := setEnt_wf _ _ h2
  unfold touchLine
  exact ite_wf _ (mscAccess_wf _ _ _ _ (h3 _ _)) (h3 _ _)

theorem unmappedAccess_wf {s : State} (v : Via) (p : Nat) (h : s.memWf) : (s.unmappedAccess v p).memWf := by
  simp only [unmappedAccess]; split
  · exact raise_wf _ _ _ _ (inc_wf _ _ _ h)
  · exact inc_wf _ _ _ h

theorem reservedWrite_wf {s : State} (v : Via) (p : Nat) (h : s.memWf) : (s.reservedWrite v p).memWf := by
  simp only [reservedWrite]; split
  · exact raise_wf _ _ _ _ (inc_wf _ _ _ h)
  · exact inc_wf _ _ _ h

theorem readLine_wf {s : State} (v : Via) (l : Nat) (h : s.memWf) : (s.readLine v l).memWf := by
  simp only [readLine]
  split
  · exact h
  · split
    · exact unmappedAccess_wf _ _ (ledgerUse_wf _ _ h)
    · split
      · exact touchLine_wf _ _ _ (inc_wf _ _ _ h)
      · exact touchLine_wf _ _ _ h

theorem readRange_wf {s : State} (v : Via) (a n : Nat) (h : s.memWf) : (s.readRange v a n).memWf := by
  simp only [readRange]; split
  · exact h
  · exact foldl_holds memWf _ (fun s l hs => readLine_wf v l hs) _ _ h

theorem doorbellLine_wf {s : State} (l d m : Nat) (h : s.memWf) : (s.doorbellLine l d m).memWf := by
  simp only [doorbellLine]; split
  · split
    · simp only [doorbellValue]; split
      · exact incSat_wf _ _ h
      · split
        · exact wr_wf _ _ _ h
        · exact raise_wf _ _ _ _ (incSat_wf _ _ h)
    · exact incSat_wf _ _ h
  · exact h

theorem writeLine_wf {s : State} (v : Via) (l d m : Nat) (r : Bool) (h : s.memWf) : (s.writeLine v l d m r).memWf := by
  simp only [writeLine]
  split
  · exact h
  split
  · exact doorbellLine_wf _ _ _ h
  split
  · exact reservedWrite_wf _ _ h
  split
  · exact unmappedAccess_wf _ _ (ledgerUse_wf _ _ h)
  have h2 : ((s.touchLine v l true).unfill l).memWf := unfill_wf _ (touchLine_wf v l true h)
  split
  · split
    · exact h
    split
    · exact raise_wf _ _ _ _ (wr_wf _ _ _ (incSat_wf _ _ h2))
    · split
      · exact addMet_wf _ h2
      · exact mergeLine_wf _ _ _ (inc_wf _ _ _ h2)
  · split
    · exact setPoison_wf _ _ (mergeLine_wf _ _ _ h2)
    · exact mergeLine_wf _ _ _ h2

/-- A store keeps memory in its canonical form. -/
theorem store_wf {s : State} (v : Via) (a : Nat) (bs : List Byte) (h : s.memWf) : (s.store v a bs).memWf :=
  foldl_holds memWf _ (fun _ _ hs => writeLine_wf _ _ _ _ _ hs) _ _ h

/-- An update keeps memory in its canonical form. -/
theorem update_wf {s : State} (v : Via) (a : Nat) (bs : List Byte) (h : s.memWf) : (s.update v a bs).memWf :=
  foldl_holds memWf _ (fun _ _ hs => writeLine_wf _ _ _ _ _ hs) _ _ h

theorem takeRange_wf {s : State} (a n : Nat) (h : s.memWf) : (s.takeRange a n).memWf := by
  refine foldl_holds memWf _ (fun s x hs => ?_) _ _ h
  simp only
  split
  · split
    · exact setPoison_wf _ _ (unfill_wf _ (mergeLine_wf _ _ _ hs))
    · exact unfill_wf _ (mergeLine_wf _ _ _ hs)
  · exact hs

/-- Memory at reset is in its canonical form. -/
theorem reset_memWf : State.reset.memWf := rfl

/-! Memory read after write. -/

theorem byte_putBytes (s : State) (a : Nat) (bs : List Byte) (x : Nat) :
    Tab.get noByte (s.putBytes a bs).mem x = if a ≤ x ∧ x < a + bs.length then bs.getD (x - a) 0 else Tab.get noByte s.mem x := by
  induction bs generalizing s a with
  | nil => simp [putBytes]
  | cons b bs ih =>
    rw [putBytes, ih]
    by_cases h1 : x = a
    · subst h1; simp
    · rw [Tab.get_set_other _ _ _ h1]
      by_cases h2 : a + 1 ≤ x ∧ x < a + 1 + bs.length
      · have h3 : a ≤ x ∧ x < a + (b :: bs).length := by simp; omega
        rw [if_pos h2, if_pos h3]
        obtain ⟨k, rfl⟩ : ∃ k, x = a + 1 + k := ⟨x - (a + 1), by omega⟩
        have e1 : a + 1 + k - (a + 1) = k := by omega
        have e2 : a + 1 + k - a = k + 1 := by omega
        rw [e1, e2]; rfl
      · have h3 : ¬(a ≤ x ∧ x < a + (b :: bs).length) := by simp; omega
        rw [if_neg h2, if_neg h3]

end State

end Sys2Proof.Machine
end

