-- ==== Sys2Proof/Laws/PerInstr.lean ====
section
/-!
SUPPORT. For every command: a register that it writes lies in the 24-bit control space (R12).
-/
namespace Sys2Proof.Laws.Writes

open Sys2Proof.Safety

/-- A command that writes a register writes one of the 24-bit control space, on a word but for REGISTER_WRITE, whose
address is free. -/
def Statement (i : Instr) : Prop :=
  ∀ w a, writes i = some (w, a) → a < 2 ^ 24 ∧ (a % 4 = 0 ∨ ∃ addr v, i = .registerWrite w addr v)

/-- A command that writes no register. -/
theorem none_writes (i : Instr) (h : writes i = none) : Statement i := by
  intro w a e; rw [h] at e; cases e

/-- A command that writes the register word at an address. -/
theorem word_writes (i : Instr) (v : Writer) (b : Nat) (h : writes i = some (v, b)) (hb : b < 2 ^ 24) (h4 : b % 4 = 0) :
    Statement i := by
  intro w a e; rw [h] at e; cases e; exact ⟨hb, .inl h4⟩

theorem powerOn (addrSel slotIdStrap : BitVec 3) : Statement (.powerOn addrSel slotIdStrap) := none_writes _ rfl
theorem vinFault (high : Bool) : Statement (.vinFault high) := none_writes _ rfl
theorem pwrEnFall : Statement .pwrEnFall := none_writes _ rfl
theorem vioLoss : Statement .vioLoss := none_writes _ rfl
theorem modResetAssert : Statement .modResetAssert := none_writes _ rfl
theorem modResetRelease : Statement .modResetRelease := none_writes _ rfl
theorem flowOkFilterPass : Statement .flowOkFilterPass := none_writes _ rfl
theorem quenchEnter : Statement .quenchEnter := none_writes _ rfl
theorem thermtrip : Statement .thermtrip := none_writes _ rfl
theorem refclkWindow (edges : Nat) : Statement (.refclkWindow edges) := none_writes _ rfl
theorem droopFire (d : DroopDomain) : Statement (.droopFire d) := none_writes _ rfl
theorem droopRelease (d : DroopDomain) (suppressed : Nat) : Statement (.droopRelease d suppressed) := none_writes _ rfl
theorem peakLimit (watts : Nat) : Statement (.peakLimit watts) := none_writes _ rfl
theorem capLoopStep (m : CapSample) : Statement (.capLoopStep m) := none_writes _ rfl
theorem pllLock (e : PllLocked) : Statement (.pllLock e) := none_writes _ rfl
theorem pllSwitch (a : Fin 4) : Statement (.pllSwitch a) := none_writes _ rfl
theorem pllSwitchDeferExpire (a : Fin 4) : Statement (.pllSwitchDeferExpire a) := none_writes _ rfl
theorem pllLockFail (a : Fin 4) : Statement (.pllLockFail a) := none_writes _ rfl
theorem guardbandStep (anvilRail : Bool) : Statement (.guardbandStep anvilRail) := none_writes _ rfl
theorem laneMarginCheck (lane : Fin 64) (bitErrors : Nat) : Statement (.laneMarginCheck lane bitErrors) := none_writes _ rfl
theorem bridgeRetrain (dir : Fin 2) (group : Fin 8) : Statement (.bridgeRetrain dir group) := none_writes _ rfl
theorem bridgeRetrainDone (dir : Fin 2) (group : Fin 8) (good : Bool) : Statement (.bridgeRetrainDone dir group good) := none_writes _ rfl
theorem linkDown (p : Fin 8) : Statement (.linkDown p) := none_writes _ rfl
theorem linkUp (p : Fin 8) : Statement (.linkUp p) := none_writes _ rfl
theorem preemptVerify (p : Fin 8) : Statement (.preemptVerify p) := none_writes _ rfl
theorem entdaa (da : BitVec 7) : Statement (.entdaa da) := none_writes _ rfl
theorem setdasa (target : BitVec 7) (da : BitVec 7) : Statement (.setdasa target da) := none_writes _ rfl
theorem rstdaa : Statement .rstdaa := none_writes _ rfl
theorem enec (events : Byte) : Statement (.enec events) := none_writes _ rfl
theorem disec (events : Byte) : Statement (.disec events) := none_writes _ rfl
theorem getpid : Statement .getpid := none_writes _ rfl
theorem getbcr : Statement .getbcr := none_writes _ rfl
theorem getdcr : Statement .getdcr := none_writes _ rfl
theorem i3cPrivateWrite (data : List Byte) : Statement (.i3cPrivateWrite data) := none_writes _ rfl
theorem tapReset : Statement .tapReset := none_writes _ rfl
theorem idcode : Statement .idcode := none_writes _ rfl
theorem samplePreload (scan : BitVec 16) : Statement (.samplePreload scan) := none_writes _ rfl
theorem extest : Statement .extest := none_writes _ rfl
theorem clamp : Statement .clamp := none_writes _ rfl
theorem highz : Statement .highz := none_writes _ rfl
theorem bypass : Statement .bypass := none_writes _ rfl
theorem dbgacc (dr : BitVec 84) : Statement (.dbgacc dr) := none_writes _ rfl
theorem dbgaccDone : Statement .dbgaccDone := none_writes _ rfl
theorem hello (h : KHdr) : Statement (.hello h) := none_writes _ rfl
theorem readReg (h : KHdr) (addr : Word) (count : BitVec 16) : Statement (.readReg h addr count) := none_writes _ rfl
theorem ownerInfo (h : KHdr) : Statement (.ownerInfo h) := none_writes _ rfl
theorem readEvents (h : KHdr) (fromDseq : Word) (max : BitVec 16) (boot : Option Word) : Statement (.readEvents h fromDseq max boot) := none_writes _ rfl
theorem slagRead (h : KHdr) (index : Word) (count : BitVec 16) : Statement (.slagRead h index count) := none_writes _ rfl
theorem configRead (h : KHdr) (offset : BitVec 16) : Statement (.configRead h offset) := none_writes _ rfl
theorem quote (h : KHdr) (nonce : BitVec 256) : Statement (.quote h nonce) := none_writes _ rfl
theorem claim (h : KHdr) (priority : Byte) : Statement (.claim h priority) := none_writes _ rfl
theorem claimWindowClose : Statement .claimWindowClose := none_writes _ rfl
theorem yield (h : KHdr) (successor : DWord) (reserve : Byte) : Statement (.yield h successor reserve) := none_writes _ rfl
theorem keepalive (h : KHdr) : Statement (.keepalive h) := none_writes _ rfl
theorem forceVacate (h : KHdr) (hold : Byte) : Statement (.forceVacate h hold) := none_writes _ rfl
theorem leaseExpire : Statement .leaseExpire := none_writes _ rfl
theorem reservationElapse : Statement .reservationElapse := none_writes _ rfl
theorem writeReg (h : KHdr) (writes : List (Word × Word)) : Statement (.writeReg h writes) := none_writes _ rfl
theorem configWrite (h : KHdr) (expectSeq : DWord) (apply : Byte) (entries : List (Word × Word)) : Statement (.configWrite h expectSeq apply entries) := none_writes _ rfl
theorem configCopyWritten : Statement .configCopyWritten := none_writes _ rfl
theorem slotOpen (h : KHdr) (slot : Byte) (stateAddr : BitVec 48) : Statement (.slotOpen h slot stateAddr) := none_writes _ rfl
theorem slotStart (h : KHdr) (slot : Byte) : Statement (.slotStart h slot) := none_writes _ rfl
theorem slotStop (h : KHdr) (slot : Byte) : Statement (.slotStop h slot) := none_writes _ rfl
theorem slotClose (h : KHdr) (slot : Byte) : Statement (.slotClose h slot) := none_writes _ rfl
theorem streamResume (h : KHdr) (ring : Byte) : Statement (.streamResume h ring) := none_writes _ rfl
theorem stepMarkCmd (h : KHdr) (slot : Byte) : Statement (.stepMarkCmd h slot) := none_writes _ rfl
theorem qpBind (h : KHdr) (a : QpArgs) : Statement (.qpBind h a) := none_writes _ rfl
theorem qpUnbind (h : KHdr) (qp : BitVec 16) : Statement (.qpUnbind h qp) := none_writes _ rfl
theorem pageClear (h : KHdr) (page : Word) : Statement (.pageClear h page) := none_writes _ rfl
theorem setCap (h : KHdr) (watts : BitVec 16) : Statement (.setCap h watts) := none_writes _ rfl
theorem setPhaseOp (h : KHdr) (phase op : Byte) : Statement (.setPhaseOp h phase op) := none_writes _ rfl
theorem setGroupOp (h : KHdr) (op : Byte) : Statement (.setGroupOp h op) := none_writes _ rfl
theorem resume (h : KHdr) : Statement (.resume h) := none_writes _ rfl
theorem fwStage (h : KHdr) (fslot : Byte) (offset : Word) (data : List Byte) : Statement (.fwStage h fslot offset data) := none_writes _ rfl
theorem fwCommit (h : KHdr) (fslot : Byte) (length : Word) : Statement (.fwCommit h fslot length) := none_writes _ rfl
theorem fwActivate (h : KHdr) (fslot : Byte) : Statement (.fwActivate h fslot) := none_writes _ rfl
theorem fwHandoff (accepted : Bool) : Statement (.fwHandoff accepted) := none_writes _ rfl
theorem kalecWatchdogExpire (memoryError : Bool) : Statement (.kalecWatchdogExpire memoryError) := none_writes _ rfl
theorem kalecRestartDone (thirdInWindow : Bool) : Statement (.kalecRestartDone thirdInWindow) := none_writes _ rfl
theorem debugToken (h : KHdr) (offset : Word) (final : Byte) (data : List Byte) : Statement (.debugToken h offset final data) := none_writes _ rfl
theorem tokenObserve : Statement .tokenObserve := none_writes _ rfl
theorem tokenBscan : Statement .tokenBscan := none_writes _ rfl
theorem tokenDebug : Statement .tokenDebug := none_writes _ rfl
theorem tokenReturn : Statement .tokenReturn := none_writes _ rfl
theorem tokenFloor : Statement .tokenFloor := none_writes _ rfl
theorem lifecycleReset : Statement .lifecycleReset := none_writes _ rfl
theorem lendephorBoot : Statement .lendephorBoot := none_writes _ rfl
theorem configLoad : Statement .configLoad := none_writes _ rfl
theorem bootReady (degraded : List (Die × Bool × Nat)) : Statement (.bootReady degraded) := none_writes _ rfl
theorem ringConfigWrite (w : Writer) (r : RingId) (reg : Fin 3) (value : Word) : Statement (.ringConfigWrite w r reg value) := word_writes _ _ _ rfl (by omega) (by omega)
theorem itabLoad (w : Writer) (d : Die) (value : Word) : Statement (.itabLoad w d value) := word_writes _ _ _ rfl (by omega) (by omega)
theorem itabLoadDone (d : Die) : Statement (.itabLoadDone d) := none_writes _ rfl
theorem crucibleEnable (w : Writer) (n : Fin 16) : Statement (.crucibleEnable w n) := word_writes _ _ _ rfl (by omega) (by omega)
theorem crucibleReady (n : Fin 16) : Statement (.crucibleReady n) := none_writes _ rfl
theorem crucibleDisable (w : Writer) (n : Fin 16) : Statement (.crucibleDisable w n) := word_writes _ _ _ rfl (by omega) (by omega)
theorem kvPoolEnable (w : Writer) (n : Fin 16) (stallLimit : BitVec 16) : Statement (.kvPoolEnable w n stallLimit) := word_writes _ _ _ rfl (by omega) (by omega)
theorem kvPoolDisable (w : Writer) (n : Fin 16) (stallLimit : BitVec 16) : Statement (.kvPoolDisable w n stallLimit) := word_writes _ _ _ rfl (by omega) (by omega)
theorem tsPartitionWrite (w : Writer) (d : Die) (value : Word) : Statement (.tsPartitionWrite w d value) := word_writes _ _ _ rfl (by omega) (by omega)
theorem tsPartitionDone (d : Die) : Statement (.tsPartitionDone d) := none_writes _ rfl
theorem alloc (w : Writer) (flags : BitVec 2) (die : BitVec 2) : Statement (.alloc w flags die) := word_writes _ _ _ rfl (by omega) (by omega)
theorem free (w : Writer) (flags : BitVec 2) (die : BitVec 2) : Statement (.free w flags die) := word_writes _ _ _ rfl (by omega) (by omega)
theorem setflags (w : Writer) (flags : BitVec 2) (die : BitVec 2) : Statement (.setflags w flags die) := word_writes _ _ _ rfl (by omega) (by omega)
theorem allocDone : Statement .allocDone := none_writes _ rfl
theorem unprotect (w : Writer) (value : Word) : Statement (.unprotect w value) := word_writes _ _ _ rfl (by omega) (by omega)
theorem weightRangeEnable (w : Writer) (n : Fin 16) (tiled : Bool) : Statement (.weightRangeEnable w n tiled) := word_writes _ _ _ rfl (by omega) (by omega)
theorem weightRangeDisable (w : Writer) (n : Fin 16) (tiled : Bool) : Statement (.weightRangeDisable w n tiled) := word_writes _ _ _ rfl (by omega) (by omega)
theorem disarm (w : Writer) (slots : Byte) : Statement (.disarm w slots) := word_writes _ _ _ rfl (by omega) (by omega)
theorem fiArm (w : Writer) (p : Fin 8) (value : Word) : Statement (.fiArm w p value) := word_writes _ _ _ rfl (by omega) (by omega)
theorem fiDisarm (w : Writer) (p : Fin 8) (value : Word) : Statement (.fiDisarm w p value) := word_writes _ _ _ rfl (by omega) (by omega)
theorem netDevIdWrite (w : Writer) (value : Word) : Statement (.netDevIdWrite w value) := word_writes _ _ _ rfl (by omega) (by omega)
theorem portCfgWrite (w : Writer) (p : Fin 8) (value : Word) : Statement (.portCfgWrite w p value) := word_writes _ _ _ rfl (by omega) (by omega)
theorem epochWrite (w : Writer) (u : Fin 88) (value : Word) : Statement (.epochWrite w u value) := word_writes _ _ _ rfl (by omega) (by omega)
theorem stateReqRun (w : Writer) : Statement (.stateReqRun w) := word_writes _ _ _ rfl (by omega) (by omega)
theorem stateReqDoze (w : Writer) : Statement (.stateReqDoze w) := word_writes _ _ _ rfl (by omega) (by omega)
theorem stateReqSlumber (w : Writer) : Statement (.stateReqSlumber w) := word_writes _ _ _ rfl (by omega) (by omega)
theorem wake (source : Fin 5) : Statement (.wake source) := none_writes _ rfl
theorem padRelease (w : Writer) (groups : BitVec 7) : Statement (.padRelease w groups) := word_writes _ _ _ rfl (by omega) (by omega)
theorem wakeDelayArm (w : Writer) (delay : BitVec 24) : Statement (.wakeDelayArm w delay) := word_writes _ _ _ rfl (by omega) (by omega)
theorem wakeDelayExpire : Statement .wakeDelayExpire := none_writes _ rfl
theorem auxFuncWrite (w : Writer) (value : Word) : Statement (.auxFuncWrite w value) := word_writes _ _ _ rfl (by omega) (by omega)
theorem captureArm (w : Writer) (d : Die) (value : Word) : Statement (.captureArm w d value) := word_writes _ _ _ rfl (by omega) (by omega)
theorem captureDisarm (w : Writer) (d : Die) (value : Word) : Statement (.captureDisarm w d value) := word_writes _ _ _ rfl (by omega) (by omega)
theorem auxCaptureEdge (pin : Fin 2) : Statement (.auxCaptureEdge pin) := none_writes _ rfl
theorem capturePostExpire (d : Die) : Statement (.capturePostExpire d) := none_writes _ rfl
theorem captureDump (w : Writer) (d : Die) (value : Word) : Statement (.captureDump w d value) := word_writes _ _ _ rfl (by omega) (by omega)
theorem captureDumpDone (d : Die) : Statement (.captureDumpDone d) := none_writes _ rfl
theorem close (w : Writer) : Statement (.close w) := word_writes _ _ _ rfl (by omega) (by omega)
theorem reseal (w : Writer) : Statement (.reseal w) := word_writes _ _ _ rfl (by omega) (by omega)
theorem sampleEnable (w : Writer) (value : Word) : Statement (.sampleEnable w value) := word_writes _ _ _ rfl (by omega) (by omega)
theorem telemetrySample : Statement .telemetrySample := none_writes _ rfl
theorem leadWrite (w : Writer) (lead : BitVec 3) : Statement (.leadWrite w lead) := word_writes _ _ _ rfl (by omega) (by omega)
theorem registerWrite (w : Writer) (addr : BitVec 24) (value : Word) : Statement (.registerWrite w addr value) := by
  intro w' a e; cases e; exact ⟨BitVec.isLt _, .inr ⟨_, _, rfl⟩⟩
theorem doorbell (line : Fin 4096) (off : Fin 64) (data : List Byte) : Statement (.doorbell line off data) := none_writes _ rfl
theorem descriptorRead (r : RingId) : Statement (.descriptorRead r) := none_writes _ rfl
theorem gemm (r : RingId) : Statement (.gemm r) := none_writes _ rfl
theorem gemmTa (r : RingId) : Statement (.gemmTa r) := none_writes _ rfl
theorem gemmTb (r : RingId) : Statement (.gemmTb r) := none_writes _ rfl
theorem gemmAcc (r : RingId) : Statement (.gemmAcc r) := none_writes _ rfl
theorem attnF (r : RingId) : Statement (.attnF r) := none_writes _ rfl
theorem attnB (r : RingId) : Statement (.attnB r) := none_writes _ rfl
theorem attnD (r : RingId) : Statement (.attnD r) := none_writes _ rfl
theorem dispatch (r : RingId) : Statement (.dispatch r) := none_writes _ rfl
theorem combine (r : RingId) : Statement (.combine r) := none_writes _ rfl
theorem move (r : RingId) : Statement (.move r) := none_writes _ rfl
theorem quant (r : RingId) : Statement (.quant r) := none_writes _ rfl
theorem send (r : RingId) : Statement (.send r) := none_writes _ rfl
theorem recv (r : RingId) : Statement (.recv r) := none_writes _ rfl
theorem reduceScatter (r : RingId) : Statement (.reduceScatter r) := none_writes _ rfl
theorem allReduce (r : RingId) : Statement (.allReduce r) := none_writes _ rfl
theorem allGather (r : RingId) : Statement (.allGather r) := none_writes _ rfl
theorem update (r : RingId) : Statement (.update r) := none_writes _ rfl
theorem runSprig (r : RingId) : Statement (.runSprig r) := none_writes _ rfl
theorem signal (r : RingId) : Statement (.signal r) := none_writes _ rfl
theorem wait (r : RingId) : Statement (.wait r) := none_writes _ rfl
theorem waitPoll (r : RingId) : Statement (.waitPoll r) := none_writes _ rfl
theorem fence (r : RingId) : Statement (.fence r) := none_writes _ rfl
theorem stepMark (r : RingId) : Statement (.stepMark r) := none_writes _ rfl
theorem ckptDrain (r : RingId) : Statement (.ckptDrain r) := none_writes _ rfl
theorem ckptFill (r : RingId) : Statement (.ckptFill r) := none_writes _ rfl
theorem ckptDigest (r : RingId) : Statement (.ckptDigest r) := none_writes _ rfl
theorem kvFree (r : RingId) : Statement (.kvFree r) := none_writes _ rfl
theorem macroOpComplete (r : RingId) (k : Nat) : Statement (.macroOpComplete r k) := none_writes _ rfl
theorem tileStart (e : TileEntry) : Statement (.tileStart e) := none_writes _ rfl
theorem tileEnd (a : Fin 4) (t : TileTiming) : Statement (.tileEnd a t) := none_writes _ rfl
theorem tileCheckDone (a : Fin 4) (pathUe : Bool) : Statement (.tileCheckDone a pathUe) := none_writes _ rfl
theorem fenceRowProgrammed : Statement .fenceRowProgrammed := none_writes _ rfl
theorem itabEntryEnd (a : Fin 4) (gated : Nat) : Statement (.itabEntryEnd a gated) := none_writes _ rfl
theorem kvAppend (p : Fin 16) : Statement (.kvAppend p) := none_writes _ rfl
theorem kvAppendResume (p : Fin 16) (cycles : Nat) : Statement (.kvAppendResume p cycles) := none_writes _ rfl
theorem kvStallExpire (p : Fin 16) (cycles : Nat) : Statement (.kvStallExpire p cycles) := none_writes _ rfl
theorem kvFreeReturn (p : Fin 16) : Statement (.kvFreeReturn p) := none_writes _ rfl
theorem chunkArrival (entry : BitVec 48) (chunk : Nat) : Statement (.chunkArrival entry chunk) := none_writes _ rfl
theorem chunkHandler (entry : BitVec 48) (run : HandlerRun) : Statement (.chunkHandler entry run) := none_writes _ rfl
theorem statsAllreduce (entry : BitVec 48) : Statement (.statsAllreduce entry) := none_writes _ rfl
theorem statsAllreduceDone (entry : BitVec 48) : Statement (.statsAllreduceDone entry) := none_writes _ rfl
theorem applyHandler (entry : BitVec 48) (run : HandlerRun) (holdCycles readerCycles : Nat) : Statement (.applyHandler entry run holdCycles readerCycles) := none_writes _ rfl
theorem layerOutcome (entry : BitVec 48) : Statement (.layerOutcome entry) := none_writes _ rfl
theorem ckptHoldRelease (r : RingId) (k : Nat) (e : Nat) : Statement (.ckptHoldRelease r k e) := none_writes _ rfl
theorem qpError (qp : Fin 256) : Statement (.qpError qp) := none_writes _ rfl
theorem fadd (sp : SprigAt) (vd va vb : Fin 32) (p : Pred) : Statement (.fadd sp vd va vb p) := none_writes _ rfl
theorem fsub (sp : SprigAt) (vd va vb : Fin 32) (p : Pred) : Statement (.fsub sp vd va vb p) := none_writes _ rfl
theorem fmul (sp : SprigAt) (vd va vb : Fin 32) (p : Pred) : Statement (.fmul sp vd va vb p) := none_writes _ rfl
theorem fma (sp : SprigAt) (vd va vb vc : Fin 32) (p : Pred) : Statement (.fma sp vd va vb vc p) := none_writes _ rfl
theorem fmin (sp : SprigAt) (vd va vb : Fin 32) (p : Pred) : Statement (.fmin sp vd va vb p) := none_writes _ rfl
theorem fmax (sp : SprigAt) (vd va vb : Fin 32) (p : Pred) : Statement (.fmax sp vd va vb p) := none_writes _ rfl
theorem fabs (sp : SprigAt) (vd va : Fin 32) (p : Pred) : Statement (.fabs sp vd va p) := none_writes _ rfl
theorem fneg (sp : SprigAt) (vd va : Fin 32) (p : Pred) : Statement (.fneg sp vd va p) := none_writes _ rfl
theorem fdiv (sp : SprigAt) (vd va vb : Fin 32) (p : Pred) : Statement (.fdiv sp vd va vb p) := none_writes _ rfl
theorem fsqrt (sp : SprigAt) (vd va : Fin 32) (p : Pred) : Statement (.fsqrt sp vd va p) := none_writes _ rfl
theorem frsq (sp : SprigAt) (vd va : Fin 32) (p : Pred) : Statement (.frsq sp vd va p) := none_writes _ rfl
theorem fexp (sp : SprigAt) (vd va : Fin 32) (p : Pred) : Statement (.fexp sp vd va p) := none_writes _ rfl
theorem fln (sp : SprigAt) (vd va : Fin 32) (p : Pred) : Statement (.fln sp vd va p) := none_writes _ rfl
theorem fred (sp : SprigAt) (sd va : Fin 32) (p : Pred) : Statement (.fred sp sd va p) := none_writes _ rfl
theorem fcmp (sp : SprigAt) (c : FCond) (pd : Fin 8) (va vb : Fin 32) (p : Pred) : Statement (.fcmp sp c pd va vb p) := none_writes _ rfl
theorem pand (sp : SprigAt) (pd pa pb : Fin 8) : Statement (.pand sp pd pa pb) := none_writes _ rfl
theorem por (sp : SprigAt) (pd pa pb : Fin 8) : Statement (.por sp pd pa pb) := none_writes _ rfl
theorem pnot (sp : SprigAt) (pd pa : Fin 8) : Statement (.pnot sp pd pa) := none_writes _ rfl
theorem cvt (sp : SprigAt) (k : CvtKind) (vd va : Fin 32) (p : Pred) : Statement (.cvt sp k vd va p) := none_writes _ rfl
theorem vld (sp : SprigAt) (f : LaneFmt) (vd sa : Fin 32) (p : Pred) : Statement (.vld sp f vd sa p) := none_writes _ rfl
theorem vst (sp : SprigAt) (f : LaneFmt) (vs sa : Fin 32) (p : Pred) : Statement (.vst sp f vs sa p) := none_writes _ rfl
theorem vlds (sp : SprigAt) (f : LaneFmt) (vd sa st : Fin 32) (p : Pred) : Statement (.vlds sp f vd sa st p) := none_writes _ rfl
theorem vsts (sp : SprigAt) (f : LaneFmt) (vs sa st : Fin 32) (p : Pred) : Statement (.vsts sp f vs sa st p) := none_writes _ rfl
theorem ldacq (sp : SprigAt) (wide : Bool) (scope : Fin 4) (sd sa : Fin 32) : Statement (.ldacq sp wide scope sd sa) := none_writes _ rfl
theorem strel (sp : SprigAt) (wide : Bool) (scope : Fin 4) (ss sa : Fin 32) : Statement (.strel sp wide scope ss sa) := none_writes _ rfl
theorem qblk (sp : SprigAt) (smd sgr sgc vs : Fin 32) : Statement (.qblk sp smd sgr sgc vs) := none_writes _ rfl
theorem pivot (sp : SprigAt) (vd vs st : Fin 32) (p : Pred) : Statement (.pivot sp vd vs st p) := none_writes _ rfl
theorem ret (sp : SprigAt) : Statement (.ret sp) := none_writes _ rfl
theorem bellowsSweep (d : Die) : Statement (.bellowsSweep d) := none_writes _ rfl
theorem migrationSwing (page : Nat) : Statement (.migrationSwing page) := none_writes _ rfl
theorem windowFill (d : Die) : Statement (.windowFill d) := none_writes _ rfl
theorem memoryCe (e : ErrLoc) : Statement (.memoryCe e) := none_writes _ rfl
theorem memoryUe (e : ErrLoc) : Statement (.memoryUe e) := none_writes _ rfl
theorem scrub (e : ErrLoc) (f : ScrubFind) : Statement (.scrub e f) := none_writes _ rfl
theorem phyRetrain (d : Die) (deepTier : Bool) (channel : Nat) (res : RetrainEnd) : Statement (.phyRetrain d deepTier channel res) := none_writes _ rfl
theorem dataReceive (p : Fin 8) (k : Packet) : Statement (.dataReceive p k) := none_writes _ rfl
theorem msgReceive (p : Fin 8) (k : Packet) : Statement (.msgReceive p k) := none_writes _ rfl
theorem reduceReceive (p : Fin 8) (k : Packet) : Statement (.reduceReceive p k) := none_writes _ rfl
theorem ackReceive (p : Fin 8) (k : Packet) : Statement (.ackReceive p k) := none_writes _ rfl
theorem nakReceive (p : Fin 8) (k : Packet) : Statement (.nakReceive p k) := none_writes _ rfl
theorem ackTimer (srcDev : BitVec 16) (cls : Fin 4) : Statement (.ackTimer srcDev cls) := none_writes _ rfl
theorem rtoExpire (dstDev : BitVec 16) (cls : Fin 4) (psn : Word) : Statement (.rtoExpire dstDev cls psn) := none_writes _ rfl
theorem rateRaise (dstDev : BitVec 16) : Statement (.rateRaise dstDev) := none_writes _ rfl
theorem reorderRelease (p : Fin 8) : Statement (.reorderRelease p) := none_writes _ rfl
theorem rdmaWriteReceive (q : RoceReq) : Statement (.rdmaWriteReceive q) := none_writes _ rfl
theorem rdmaReadReceive (q : RoceReq) : Statement (.rdmaReadReceive q) := none_writes _ rfl
theorem roceResponseReceive (q : RoceResp) : Statement (.roceResponseReceive q) := none_writes _ rfl
theorem cnpReceive (k : Cnp) : Statement (.cnpReceive k) := none_writes _ rfl
theorem arpRequest (p : Fin 8) (target : BitVec 32) (vid : Option (BitVec 12)) : Statement (.arpRequest p target vid) := none_writes _ rfl
theorem neighborSolicitation (p : Fin 8) (target : BitVec 128) (vid : Option (BitVec 12)) : Statement (.neighborSolicitation p target vid) := none_writes _ rfl
theorem dozeEntered : Statement .dozeEntered := none_writes _ rfl
theorem slumberEntered : Statement .slumberEntered := none_writes _ rfl
theorem roceAckTimeout (qp : Fin 256) : Statement (.roceAckTimeout qp) := none_writes _ rfl
theorem quoteSigned : Statement .quoteSigned := none_writes _ rfl

end Sys2Proof.Laws.Writes
end

