-- ==== Sys2Proof/WellFormed.lean ====
section
/-!
DEFINITION. Which commands are well formed: operands within the widths and lengths that the spec's frames, packets and
payloads allow. The operand types bound everything else.
-/
namespace Sys2Proof

/-- A Kalec header whose fields fit their bits (R372). -/
def KHdr.wellFormed (h : KHdr) : Bool := h.ver < 16 && h.kind < 16 && h.frameMb < 256

/-- A transport packet whose fields fit (R332): at most 8,192 bytes beside the address of a DATA packet. -/
def Packet.wellFormed (k : Packet) : Bool := k.ver < 16 && k.data.length ≤ 8192 && k.bytes ≤ 65535

/-- The header of a command that is a request to Kalec. -/
def Instr.request : Instr → Option KHdr
  | .hello h => some h
  | .readReg h _ _ => some h
  | .ownerInfo h => some h
  | .readEvents h _ _ _ => some h
  | .slagRead h _ _ => some h
  | .configRead h _ => some h
  | .quote h _ => some h
  | .claim h _ => some h
  | .yield h _ _ => some h
  | .keepalive h => some h
  | .forceVacate h _ => some h
  | .writeReg h _ => some h
  | .configWrite h _ _ _ => some h
  | .slotOpen h _ _ => some h
  | .slotStart h _ => some h
  | .slotStop h _ => some h
  | .slotClose h _ => some h
  | .streamResume h _ => some h
  | .stepMarkCmd h _ => some h
  | .qpBind h _ => some h
  | .qpUnbind h _ => some h
  | .pageClear h _ => some h
  | .setCap h _ => some h
  | .setPhaseOp h _ _ => some h
  | .setGroupOp h _ => some h
  | .resume h => some h
  | .fwStage h _ _ _ => some h
  | .fwCommit h _ _ => some h
  | .fwActivate h _ => some h
  | .debugToken h _ _ _ => some h
  | _ => none

/-- The lists of a command fit the spec's payloads: WRITE_REG and CONFIG_WRITE (R376, R382), FW_STAGE, DEBUG_TOKEN, a
doorbell within its line (R125), packets (R332) and RoCEv2 requests (R356). -/
def Instr.listsFit : Instr → Bool
  | .writeReg _ w => decide (w.length ≤ 124)
  | .configWrite _ _ _ e => decide (e.length ≤ 122)
  | .fwStage _ _ _ d => decide (d.length ≤ 960)
  | .debugToken _ _ _ d => decide (d.length ≤ 960)
  | .doorbell _ off d => decide (off.val + d.length ≤ 64)
  | .dataReceive _ k => k.wellFormed
  | .msgReceive _ k => k.wellFormed
  | .reduceReceive _ k => k.wellFormed
  | .ackReceive _ k => k.wellFormed
  | .nakReceive _ k => k.wellFormed
  | .rdmaWriteReceive q => decide (q.data.length ≤ 4096)
  | .rdmaReadReceive q => decide (q.data.length = 0)
  | _ => true

/-- A command whose operands fit the spec's formats. -/
def Instr.wellFormed (i : Instr) : Bool := i.request.all KHdr.wellFormed && i.listsFit

end Sys2Proof
end

