-- ==== Sys2Proof/Tests/Slice0.lean ====
section
/-!
SUPPORT. Tests: ill-formed terms that WellFormed refuses, single steps with results calculated by hand from the rules of
spec/, and for every statement with hypotheses a state and operands that meet them (names beginning with met_).
-/
namespace Sys2Proof.Tests

open Sys2Proof Sys2Proof.Machine Sys2Proof.Safety

set_option Elab.async false

/-- READY in Run with every rail up and no owner. -/
def ready : State := { (State.reset.wr Reg.HRT_BOOT_STAGE 0 4) with
  pw := { State.powerReset with mode := .on, compute := true, flowOk := true } }

/-- READY and owned by agent 7 with token 9, through mailbox 0. -/
def owned : State :=
  let s := ((ready.wr Reg.HRT_OWNER_STATE 0 2).wrB Reg.HRT_OWNER_VIA_I3C 0 true).wr Reg.HRT_OWNER_ID_AGENT_ID 0 7
  { s with kal := { s.kal with otok := 9, toks := [0, 9] } }

/-- A request of the owner at I3C mailbox 0. -/
def hd : KHdr := ⟨0, 3, 0, 0, 1, 7, 9, 0, 0, 0, true, none⟩

/-- A request of tray authority that is not the owner. -/
def other : KHdr := ⟨1, 3, 0, 1, 1, 5, 0, 0, 0, 0, true, none⟩

/-- A datagram of the owner at mailbox 2, on port 4. -/
def udp : KHdr := ⟨2, 3, 0, 2, 1, 7, 9, 1, 2, 4, true, none⟩

/-- Port p's link up in mode 0. -/
def up (s : State) (p : Nat) : State := s.wrB Reg.NET_PORT_STATUS_LINK p true

/-- The state in the Sealed lifecycle with its first configuration copy in force. -/
def sealed (s : State) : State := (s.wr Reg.SEC_LC_LC 0 1).wr Reg.HRT_CFG_SEQ_SEQ 0 1

/-- A request executing. -/
def busyWith (s : State) (h : KHdr) (c : KCmd) : State :=
  { s with kal := { s.kal with running := some (ask h c), boxes := s.kal.boxes.set h.mbox ⟨some (ask h c), none, [], none⟩ } }

/-- Pages 0 to n - 1 mapped in the near tier of West. -/
def mapped (s : State) (n : Nat) : State := { s with ms := { s.ms with
  tier := (List.range n).map fun p => (p, { TierEnt.unmapped with state := .mapped, home := 1, nframe := p }) } }

/-- The state after a command that goes on. -/
def after (c : Instr) (s : State) : State := match exec c s with
  | .next t => t
  | _ => s

/-- A macro-op descriptor: opcode and flag bits, SEQ, matrix descriptors and parameters. -/
def dsc (op seq : Nat) (mds ps : List Nat) : Nat :=
  op + seq * 2 ^ 32 + (mds.zipIdx.map fun x => x.1 * 2 ^ (128 + 64 * x.2)).sum + (ps.zipIdx.map fun x => x.1 * 2 ^ (448 + 64 * x.2)).sum

/-- A matrix descriptor: base, format, row pitch, and a shape given in place. -/
def mdesc (base fmt pitch rows cols : Nat) : Nat :=
  base + fmt * 2 ^ 64 + pitch * 2 ^ 96 + rows * 2 ^ 160 + cols * 2 ^ 288

/-- Words placed in memory. -/
def place (s : State) (a n v : Nat) : State := s.putBytes a (toBytes n v)

/-- Slot 0 in RUN with ring 0 of 16 entries from 0x3000, holding the given descriptor at entry 0. -/
def ring0 (s : State) (d : Nat) : State :=
  let s := ((s.wr Reg.STR_SLOT_STATE_STATE 0 2).wr Reg.STR_RING_BASE_LO_BASE_LO 0 3).wr Reg.STR_RING_CFG_LOG2N 0 4
  (place s 0x3000 128 d).wr Reg.STR_RING_TAIL_COUNT 0 1

/-- Slot 0 in RUN with a descriptor held by ring 2, the U ring of die 0. -/
def holding (s : State) (d : Nat) : State :=
  let s := s.wr Reg.STR_SLOT_STATE_STATE 0 2
  { s with rings := s.rings.set 2 { s.rings[2] with held := some ⟨d, 0x3000, none, false, false, false⟩ } }

/-- Whether the macro-op that the ring of a command holds meets the premises of its issue. -/
def canIssue (c : Instr) (s : State) : Bool :=
  match issuing c with
  | none => false
  | some k => match s.rings[k.ring].held with
    | none => false
    | some h =>
      let p := k.plan s k.ring h.desc
      let o := s.planOp k.ring h p
      let v := (s.lookReads k.ring h.desc p).shapeReads k.ring p o
      let u := v.modRing k.ring fun x => { x with held := some { h with plan := some o } }
      (dOpcode h.desc == k.code && k.sub h.desc && s.ringLive k.ring && !s.heldBackBy k.ring &&
        decide ((s.ringOps k.ring).length < 64)) &&
      (h.plan == none && !k.hold s k.ring h.desc && !s.lookPoison h.desc p &&
        firstDetail (headFindings s k.ring h.desc p) == none && s.ringOps k.ring == [] &&
        firstDetail (v.step4Checks p o ++ p.checks4 o) == none && !s.shapePoison p o) &&
      (!p.waits && firstDetail p.late == none && u.ringOps k.ring == [] && !u.rings[k.ring].poison &&
        decide ((u.ops.filter fun x => dOpcode x.desc == 0x41).length < 4) &&
        ((State.recRanges p o).all fun x => !u.poisoned x.1 x.2 && recValid (u.peek x.1 64)) &&
        (o.reads == [] && o.writes == [] || (u.takeTracker k.ring h).2))

theorem canIssue_meets {c : Instr} {s : State} (h : canIssue c s = true) : ∃ k u v x o,
    issuing c = some k ∧ HasTurn s k x ∧ Passes s u k x o ∧ Proceeds u v k.ring x (k.plan s k.ring x.desc) o := by
  unfold canIssue at h
  split at h
  · cases h
  · rename_i k hk
    split at h
    · cases h
    · rename_i x hx
      simp only [Bool.and_eq_true, beq_iff_eq, decide_eq_true_eq, Bool.not_eq_true', Bool.or_eq_true, List.all_eq_true] at h
      obtain ⟨⟨⟨⟨⟨⟨h1, h2⟩, h3⟩, h4⟩, h5⟩, ⟨⟨⟨⟨⟨⟨h6, h7⟩, h8⟩, h10⟩, h11⟩, h12⟩, h13⟩⟩,
        ⟨⟨⟨⟨⟨hw, hl⟩, h14⟩, h15⟩, h16⟩, hr⟩, h17⟩ := h
      by_cases e : (s.planOp k.ring x (k.plan s k.ring x.desc)).reads = [] ∧
        (s.planOp k.ring x (k.plan s k.ring x.desc)).writes = []
      · exact ⟨k, _, _, x, _, hk, ⟨hx, h1, h2, h3, h4, h5⟩,
          .inr ⟨h6, h7, h8, h10, rfl, by rw [h11]; simp, h12, h13, rfl⟩,
          hw, fun _ _ => ⟨h14, h15⟩, hr, fun _ => h16, .inl ⟨e.1, e.2, rfl⟩⟩
      · exact ⟨k, _, _, x, _, hk, ⟨hx, h1, h2, h3, h4, h5⟩,
          .inr ⟨h6, h7, h8, h10, rfl, by rw [h11]; simp, h12, h13, rfl⟩,
          hw, fun _ _ => ⟨h14, h15⟩, hr, fun _ => h16,
          .inr ⟨e, hl, Prod.ext rfl (h17.resolve_left e), by rw [h14]; simp⟩⟩

/-! Every command that issues a macro-op has a state in which it does. -/

/-- READY and owned, with pages 0 to 3 mapped. -/
def base : State := mapped owned 4

/-- A BF16 matrix of r rows and c columns with 64 bytes between rows. -/
def bf (b r c : Nat) : Nat := mdesc b 1 64 r c

/-- A member of the GEMM family over 2 × 2 matrices. -/
def gem (op : Nat) : State := holding (place (place (place base 0x1000 128 (bf 0x1400 2 2)) 0x1080 128 (bf 0x1800 2
    2)) 0x1100 128 (mdesc 0x1c00 0 64 2 2)) (dsc op 79 [0x1000, 0x1080, 0x1100] [])

theorem met_issue_gemm : canIssue (.gemm 2) (gem 1) = true := by decide +kernel
theorem met_issue_gemmTa : canIssue (.gemmTa 2) (gem 2) = true := by decide +kernel
theorem met_issue_gemmTb : canIssue (.gemmTb 2) (gem 3) = true := by decide +kernel
theorem met_issue_gemmAcc : canIssue (.gemmAcc 2) (gem 4) = true := by decide +kernel

/-- Matrix descriptors placed one after the other. -/
def mats (s : State) (a : Nat) (ms : List Nat) : State := (ms.zipIdx).foldl (fun s x => place s (a + 128 * x.2) 128
    x.1) s

/-- ATTN_F of two queries on three keys of one head. -/
def att : State := holding (mats base 0x1000 [bf 0x2000 2 32, bf 0x2400 3 32, bf 0x2800 3 32, bf 0x2c00 2 32]) (dsc
    0x10 80 [0x1000, 0x1080, 0x1100, 0x1180] [0x3f800000 + 2^35, 1 + 2^8 + 32 * 2^16, 0, 0x1800])

theorem met_issue_attnF : canIssue (.attnF 2) att = true := by decide +kernel

/-- ATTN_B of the same. -/
def atb : State := holding (mats base 0x1000 [bf 0x2000 2 32, bf 0x2400 3 32, bf 0x2800 3 32, bf 0x2c00 2 32, bf
    0x3000 2 32, bf 0x3400 2 32, bf 0x3800 3 32, bf 0x3c00 3 32]) (dsc 0x11 81 [0x1000, 0x1080, 0x1100, 0x1180,
    0x1200] [0x3f800000 + 2^35, 1 + 2^8 + 32 * 2^16, 0, 0x1800, 0, 0, 0, 0x1280])

theorem met_issue_attnB : canIssue (.attnB 2) atb = true := by decide +kernel

/-- An E4M3 matrix with E8M0 scales of blocks of 32. -/
def fp8 (b r c : Nat) : Nat := mdesc b 3 64 r c + 2^68 + 2^70 + (b + 0x200) * 2^384 + 64 * 2 ^ 448

/-- Pool 0 ready at 0x40000. -/
def pool : State := (base.wrB Reg.MEM_KV_STATUS_READY 0 true).wr Reg.MEM_KV_BASE_LO_BASE_LO 0 0x40

/-- ATTN_D of one sequence. -/
def atd : State := holding (mats pool 0x1000 [fp8 0x2000 1 32, bf 0x2400 1 32]) (dsc 0x12 82 [0x1000, 0, 0, 0x1080]
    [0x3f800000 + 2^33 + 2^35, 1 + 2^8 + 32 * 2^16, 0, 0x1800, 0x1900, 0x1a00, 0x1c00, 0, 64 + 2^32])

theorem met_issue_attnD : canIssue (.attnD 2) atd = true := by decide +kernel

/-- DISPATCH of two tokens to one expert. -/
def dis : State := holding (mats base 0x1000 [bf 0x2000 2 16, bf 0x2400 4 16]) (dsc 0x18 83 [0x1000, 0x1080]
    [0x2800, 1 + 2^16 + 2^48, 0x2900, 4, 0, 0x2a00, 0x2b00])

theorem met_issue_dispatch : canIssue (.dispatch 2) dis = true := by decide +kernel

/-- COMBINE of the same. -/
def com : State := holding (mats base 0x1000 [bf 0x2000 2 16, bf 0x2400 4 16]) (dsc 0x19 84 [0x1000, 0x1080]
    [0x2800, 1 + 2^16 + 2^48, 0, 4, 0, 0, 0x2b00])

theorem met_issue_combine : canIssue (.combine 2) com = true := by decide +kernel

/-- MOVE or QUANT of FP32 into BF16. -/
def mov (op : Nat) : State := holding (mats base 0x1000 [mdesc 0x1400 0 64 2 3, bf 0x1800 2 3]) (dsc op 85 [0x1000,
    0x1080] [])

theorem met_issue_move : canIssue (.move 2) (mov 0x20) = true := by decide +kernel
theorem met_issue_quant : canIssue (.quant 2) (mov 0x21) = true := by decide +kernel

/-- Slot 0 with one peer at table entry 0, and a group of two over it. -/
def peers : State := (place (place (place base 0x1000 128 (2^17 + 9)) 0x1080 16 (2 + 0x1100 * 2^64)) 0x1100 4 0).wr
    Reg.NET_SLOT_PEER_BASE 0 0x1000 |>.wr Reg.NET_SLOT_PEER_LEN 0 1 |>.wr Reg.NET_SLOT_COLL_BASE 0 0x1080 |>.wr
    Reg.NET_SLOT_COLL_LEN 0 1

theorem met_issue_send : canIssue (.send 2) (holding peers (dsc 0x28 86 [] [0x2000, 0x2800, 64, 0, 7])) = true :=
    by decide +kernel
theorem met_issue_recv : canIssue (.recv 2) (holding base (dsc 0x29 87 [] [2^32])) = true := by decide +kernel

/-- A collective over 64 bytes. -/
def red (op : Nat) : State := holding peers (dsc 0x2A 88 [] [0x2000, 0x2800, 64, op * 2^16])

theorem met_issue_reduceScatter : canIssue (.reduceScatter 2) (red 0) = true := by decide +kernel
theorem met_issue_allReduce : canIssue (.allReduce 2) (red 1) = true := by decide +kernel
theorem met_issue_allGather : canIssue (.allGather 2) (red 2) = true := by decide +kernel

/-- A layer of two rows and four columns in chunks of one row. -/
def le : Nat := 0x1400 + 1 * 2^80 + 2 * 2^96 + 4 * 2^128 + 2 * 2^192 + 0x1800 * 2^256 + 0x1b00 * 2^320 + 0x1900 *
    2^384 + 0x1c00 * 2^448 + 0x1a00 * 2^512 + 0x1d00 * 2^576 + 0x2000 * 2^640 + 0x2080 * 2^704 + 0x2400 * 2^768 +
    0x2500 * 2^832

/-- An UPDATE of that layer, held. -/
def upd : State := holding (place (mats base 0x1000 [le]) 0x2600 64 0x2700) (dsc 0x30 89 [] [0x1000, 2^16, 0x2600]) 

/-- The same with the descriptors of both compute copies. -/
def upd2 : State := mats upd 0x2000 [bf 0x2800 2 4, bf 0x2a00 2 4]

theorem met_issue_update : canIssue (.update 2) upd2 = true := by decide +kernel
theorem met_issue_runSprig : canIssue (.runSprig 2) (holding base (dsc 0x31 90 [] [0x1000, 8 + 2^30])) = true := by
  decide +kernel
theorem met_issue_signal : canIssue (.signal 2) (holding base (dsc 0x38 91 [] [0x1000, 5, 0])) = true := by
  decide +kernel
theorem met_issue_wait : canIssue (.wait 2) (holding base (dsc 0x39 92 [] [0x1000, 5, 0xff, 0])) = true := by
  decide +kernel
theorem met_issue_fence : canIssue (.fence 2) (holding base (dsc 0x3A 93 [] [])) = true := by decide +kernel
theorem met_issue_stepMark : canIssue (.stepMark 2) (holding base (dsc 0x40 94 [] [])) = true := by decide +kernel

/-- The arguments of queue pair 7. -/
def qa : QpArgs := ⟨7, 0, 0x1000, 0x100, 1024, 4, 5, 0, 3, 4, 8, 2⟩

/-- A CKPT_DRAIN of one range of 64 bytes. -/
def ckp (m : Nat) : State := holding { place base 0x1000 32 (2^64 * 0x2000 + 2^128 * 64) with net := { owned.net
    with qps := [(7, some ⟨qa, 3, 4, false, [], 1000⟩)] } } (dsc 0x41 95 [] [0x1000, 1 + m * 2^16 + 7 * 2^24, 0x2800])

/-- The same with a staging area. -/
def ckp' (m : Nat) : State := (ckp m).wr Reg.MEM_TS_PART_STAGE 0 1

theorem met_issue_ckptDrain : canIssue (.ckptDrain 2) (ckp' 0) = true := by decide +kernel
theorem met_issue_ckptFill : canIssue (.ckptFill 2) (ckp' 1) = true := by decide +kernel
theorem met_issue_ckptDigest : canIssue (.ckptDigest 2) (ckp' 2) = true := by decide +kernel
theorem met_issue_kvFree : canIssue (.kvFree 2) (holding pool (dsc 0x48 96 [] [0x1000, 1])) = true := by
  decide +kernel

/-! The premises of the statements are met. -/

theorem met_idle : State.reset.pending = [] := by decide +kernel

theorem met_next : ∃ t, exec (.powerOn 6 7) State.reset = .next t := ⟨_, rfl⟩

/-- A consistent state that waits to take a link down. -/
def linked : State := { (up owned 3).wr Reg.HRT_BOOT_LINKS 0 8 with pending := [.linkDown 3] }

theorem met_follows : Follows linked ∧ ∃ t, step linked = .next t := ⟨by unfold Follows; decide +kernel, _, rfl⟩

theorem met_field : Reg.NET_PORT_CFG_VID ∈ Reg.all ∧ 7 < Reg.NET_PORT_CFG_VID.count ∧ 0 < Reg.NET_PORT_CFG_VID.len := by
  decide +kernel

theorem met_denied : writes (.leadWrite (.kalec 5 0) 3) = some (.kalec 5 0, 0x03F000) ∧
    owned.pathUp (.kalec 5 0) = true ∧ owned.mayWrite (.kalec 5 0) = false ∧ (∀ d : Fin 2, owned.trackers d < 2 ^ 7) := by
  decide +kernel

theorem met_denied_i3c : writes (.registerWrite .i3c 0xffffff 3) = some (.i3c, 0xffffff) ∧
    ready.pathUp .i3c = true ∧ ready.mayWrite .i3c = false := by
  decide +kernel

theorem met_denied_request : Reaches owned other (.writeReg [(0, 1)]) ∧
    owned.isOwner (ask other (.writeReg [(0, 1)])).hdr.agent (ask other (.writeReg [(0, 1)])).hdr.otok = false := by
  unfold Reaches
  decide +kernel

theorem met_powerOn : State.reset.pw.mode = .off ∧ State.reset.pw.latched = false := by decide +kernel

/-- Held in reset with its straps. -/
def heldInReset : State := { State.reset with pw := { State.powerReset with mode := .held, addrSel := 6, flowOk := true } }

theorem met_release : heldInReset.pw.mode = .held := by decide +kernel

theorem met_powerOff : ready.pw.mode ≠ .off ∧ ready.pw.mode = .on ∧ ready.pw.mode ≠ .tripped ∧
    ({ ready with pw := { ready.pw with mode := .tripped } } : State).pw.mode = .tripped := by decide +kernel

/-- The memory domain and the compute rails are down, as in Doze or Slumber. -/
def asleep (st : Nat) : State := { owned.wr Reg.PWR_STATUS_STATE 0 st with
  pw := { owned.pw with memAsleep := true, compute := false } }

theorem met_flow : ready.powered = true ∧ 1 ≤ ready.stage ∧ ready.rd Reg.PWR_STATUS_STATE 0 ∉ [2, 3] := by decide +kernel

theorem met_quench : (asleep 2).powered = true ∧ (asleep 2).stage = 4 ∧ (asleep 2).rd Reg.PWR_STATUS_STATE 0 ≠ 3 ∧
    (asleep 2).quench = false ∧ (asleep 2).pw.entering = none ∧ (asleep 2).rd Reg.HRT_CD_HOLD_CD2 0 ≠ 1 := by
  decide +kernel

/-- Anvil 1's PLL with operating point 9 as its target. -/
def pll (locked defer : Bool) : State := { ready with anv := ready.anv.set 1 { ready.anv[1] with
  pll := { ready.anv[1].pll with target := some 9, locked := locked, defer := defer, fails := 2 } } }

def drooping (s : State) (d : DroopDomain) : State := { s with pw := { s.pw with droops := [d] } }

theorem met_droop : ready.rdB Reg.HRT_CLK_STATUS_REF_FALLBACK 0 = false ∧ ready.droopClocked (.sprig 1) = true ∧
    .sprig 1 ∉ ready.pw.droops := by
  decide +kernel

theorem met_droop_release : .anv 1 ∈ (drooping (pll true false) (.anv 1)).pw.droops ∧
    (∀ b, DroopDomain.anv 1 = .anv b → (drooping (pll true false) (.anv 1)).anv[b].pll.defer = false) :=
  ⟨by decide +kernel, fun b h => by cases h; decide +kernel⟩

theorem met_pll : (pll true false).anv[(1 : Fin 4)].pll.target = some 9 ∧ (pll true false).anv[(1 : Fin 4)].pll.locked = true ∧
    .anv 1 ∉ (pll true false).pw.droops ∧ (pll true false).anv[(1 : Fin 4)].pll.failed = false := by
  decide +kernel

theorem met_pll_defer : let s := drooping (pll true false) (.anv 1)
    s.anv[(1 : Fin 4)].pll.locked = true ∧ .anv 1 ∈ s.pw.droops ∧ s.anv[(1 : Fin 4)].pll.defer = false := by
  decide +kernel

theorem met_pll_deferred : let s := drooping (pll true true) (.anv 1)
    s.anv[(1 : Fin 4)].pll.target = some 9 ∧ s.anv[(1 : Fin 4)].pll.defer = true ∧ .anv 1 ∈ s.pw.droops := by
  decide +kernel

/-- A PLL of Anvil 1 that failed to lock three times, with its target. -/
def pllFailed : State := { ready with anv := ready.anv.set 1 { ready.anv[1] with
  pll := { ready.anv[1].pll with target := some 9, failed := true, fails := 3 } } }

theorem met_pll_failed : pllFailed.anv[(1 : Fin 4)].pll.target = some 9 ∧ pllFailed.anv[(1 : Fin 4)].pll.failed = true ∧
    pllFailed.rdB Reg.HRT_CLK_STATUS_REF_FALLBACK 0 = false := by
  decide +kernel

theorem met_setCap : Takes owned hd (.setCap 450) ∧ Takes owned hd (.setCap 1501) := by
  unfold Takes Reaches
  decide +kernel

theorem met_capLoop : owned.powered = true ∧ 1 ≤ owned.stage ∧ owned.rd Reg.PWR_STATUS_STATE 0 ≠ 3 ∧
    (∀ e ∈ owned.pw.moved ++ owned.pw.gated, e.1 < 64) ∧ (asleep 3).powered = true ∧ 1 ≤ (asleep 3).stage ∧
    (asleep 3).rd Reg.PWR_STATUS_STATE 0 = 3 := by
  decide +kernel

theorem met_refclk : let s : State := { ready with pw := { ready.pw with refBad := 1 } }
    s.powered = true ∧ s.stage ≠ 0 ∧ s.rd Reg.PWR_STATUS_STATE 0 ≠ 3 ∧ s.pw.refBad = 1 ∧
    s.rdB Reg.HRT_CLK_STATUS_REF_FALLBACK 0 = false := by
  decide +kernel

theorem met_guardband : ready.background = true ∧ ready.rd Reg.PWR_GUARD_GB_ANV 0 < 30 := by decide +kernel

theorem met_lane : (up ready 7).background = true ∧ (up ready 7).rdB Reg.NET_PORT_STATUS_LINK ((63 : Fin 64).val / 8) = true ∧
    2 ^ 24 * 5440 < 913000 * 100000 := by
  decide +kernel

theorem met_bridge : ((0, 1) : Fin 2 × Fin 8) ∉ ready.pw.bridgeBusy ∧ ((0, 1) : Fin 2 × Fin 8) ∉ ready.pw.bridgeOut ∧
    ((0, 1) : Fin 2 × Fin 8) ∈ ({ ready with pw := { ready.pw with bridgeBusy := [(0, 1)] } } : State).pw.bridgeBusy := by
  decide +kernel

theorem met_link_down : (up ready 3).rdB Reg.NET_PORT_STATUS_LINK (3 : Fin 8) = true ∧
    ((up ready 3).wrB Reg.NET_PORT_CFG_PREEMPT 3 true).rdB Reg.NET_PORT_CFG_PREEMPT (3 : Fin 8) = true := by
  decide +kernel

theorem met_link_up : let s := (ready.wrB Reg.NET_PORT_CFG_EN 3 true).wr Reg.NET_PORT_CFG_MODE 3 2
    s.rdB Reg.NET_PORT_STATUS_LINK (3 : Fin 8) = false ∧ s.rdB Reg.NET_PORT_CFG_EN (3 : Fin 8) = true ∧
    State.modeLanes (s.rd Reg.NET_PORT_CFG_MODE (3 : Fin 8)) ≠ 0 ∧ s.rdB Reg.HRT_CLK_STATUS_REF_FALLBACK 0 = false ∧
    s.portsTrain = true := by
  decide +kernel

theorem met_state_requests : writable owned .i3c 0x08001C = true ∧ owned.pw.entering = none ∧
    owned.rd Reg.PWR_STATUS_STATE 0 ≠ 2 ∧ owned.quench = false ∧ owned.dozeHolder = none ∧ owned.slumberHolder = none := by
  decide +kernel

/-- Slot 5 in RUN holds Doze, and slot 5 in OPEN, or window 7 enabled, holds Slumber. -/
theorem met_state_holders : let s := owned.wr Reg.STR_SLOT_STATE_STATE 5 2
    let t := owned.wr Reg.STR_SLOT_STATE_STATE 5 1
    let u := owned.wrB Reg.MEM_CRU_CTRL_EN 7 true
    writable s .i3c 0x08001C = true ∧ s.pw.entering = none ∧ s.dozeHolder = some 5 ∧
    writable t .i3c 0x08001C = true ∧ t.pw.entering = none ∧ t.slumberHolder = some (10, 5) ∧ u.slumberHolder = some (3, 7) := by
  decide +kernel

/-- The entry of a state is under way. -/
def entering (n : Nat) : State := { owned.wr Reg.PWR_STATUS_STATE 0 4 with pw := { owned.pw with entering := some n } }

/-- A Slumber entry with a poisoned page in the scratchpad. -/
def scratched : State := { entering 3 with ms := { owned.ms with
  tier := [(2, { TierEnt.unmapped with state := .poisoned, home := 0, nframe := 4 })] } }

theorem met_entries : (entering 2).pw.entering = some 2 ∧ (entering 2).rd Reg.SEC_LC_PORT 0 ≠ 2 ∧
    (entering 3).pw.entering = some 3 ∧ (entering 3).demoteScratch.scratchPages = [] ∧
    scratched.pw.entering = some 3 ∧ scratched.demoteScratch.scratchPages ≠ [] := by
  decide +kernel

theorem met_wakes : (asleep 2).powered = true ∧ (asleep 2).quench = false ∧ (asleep 2).pw.flowOk = true ∧
    (asleep 2).pw.hot = false ∧ (asleep 2).rd Reg.PWR_STATUS_STATE 0 = 2 ∧ (asleep 3).powered = true ∧
    (asleep 3).quench = false ∧ (asleep 3).pw.flowOk = true ∧ (asleep 3).pw.hot = false ∧
    (asleep 3).rd Reg.PWR_STATUS_STATE 0 = 3 ∧ writable (asleep 2) .i3c 0x08001C = true ∧ (asleep 2).pw.entering = none := by
  decide +kernel

theorem met_pads : writable (asleep 3) .i3c 0x000144 = true ∧ writable owned .i3c 0x000150 = true ∧
    owned.rd Reg.HRT_CD_HOLD_CD2 0 ≠ 2 ∧ (owned.wrB Reg.HRT_WAKE_DELAY_ARM 0 true).rdB Reg.HRT_WAKE_DELAY_ARM 0 = true ∧
    owned.rd Reg.PWR_STATUS_STATE 0 ≤ 1 := by
  decide +kernel

/-- Both functions of HRT_AUX: FUNC0 = 3 and FUNC1 = 1. -/
theorem met_aux : writable owned .i3c 0x000184 = true ∧ bits 0x13 2 0 = 3 ∧ bits 0x13 6 4 = 1 ∧
    owned.rd Reg.HRT_AUX_FUNC0 0 = 0 ∧ owned.rd Reg.HRT_AUX_FUNC1 0 = 0 := by
  decide +kernel

/-- A module that answers at its static address, and one that has no address. -/
def staticOnly : State := ready.wrB Reg.HRT_I3C_SA_VALID 0 true

theorem met_i3c : staticOnly.hearthUp = true ∧ staticOnly.rdB Reg.HRT_I3C_DA_VALID 0 = false ∧
    staticOnly.rdB Reg.HRT_I3C_SA_VALID 0 = true ∧ staticOnly.rd Reg.HRT_I3C_SA 0 = (0 : BitVec 7).toNat ∧ awake staticOnly ∧
    bit (1 : Byte).toNat 0 = true ∧ ready.hearthUp = true ∧ ready.rdB Reg.HRT_I3C_DA_VALID 0 = false ∧
    ready.rdB Reg.HRT_I3C_SA_VALID 0 = false := by
  unfold awake
  decide +kernel

/-- The four areas of a direct write: a register, the request and the response area of mailbox 1, its registers. -/
theorem met_i3c_write : staticOnly.i3cHears = true ∧ awake staticOnly ∧ ready.i3cHears = false ∧ 0x080000 < 2 ^ 24 ∧
    staticOnly.kal.waiting = [] ∧ staticOnly.kal.running = none ∧
    within 0x010000 0x2000 0x080000 = false ∧ (within 0x010000 0x2000 0x0117FF = true ∧ 0x400 ≤ 0x0117FF % 0x1000 ∧
    0x0117FF % 0x1000 < 0x800) ∧ (within 0x010000 0x2000 0x011800 = true ∧ 0x800 ≤ 0x011800 % 0x1000) ∧
    (within 0x010000 0x2000 0x0113FC = true ∧ 0x0113FC % 0x1000 < 0x400) ∧
    [(0x5 : Word)].flatMap (fun w => toBytes 4 w.toNat) ++ ([] : List Byte) ≠ [] ∧ ([] : List Byte).length < 3 := by
  unfold awake
  decide +kernel

theorem met_tap : ready.tapUp = true ∧ ready.rd Reg.SEC_LC_PORT 0 < 2 ∧
    (ready.wr Reg.SEC_LC_PORT 0 2).tapUp = true ∧ 2 ≤ (ready.wr Reg.SEC_LC_PORT 0 2).rd Reg.SEC_LC_PORT 0 := by decide +kernel

/-- A DR value of DBGACC: operation, space, address and data. -/
def dr (op space a v : Nat) : BitVec 84 := BitVec.ofNat 84 (op + 4 * space + 8 * a + 2 ^ 44 * v)

/-- An access waiting at a port state. -/
def debugging (p : Nat) (d : BitVec 84) : State :=
  let s := (mapped owned 1).wr Reg.SEC_LC_PORT 0 p
  { s with tap := { s.tap with pending := some d } }

theorem met_debug_start : (debugging 3 0).rd Reg.SEC_LC_PORT 0 = 3 ∧ bits (dr 1 0 0x080000 5).toNat 1 0 = 1 := by decide +kernel

theorem met_debug_register : let d := dr 2 0 0x062000 5
    let s := debugging 3 d
    s.tapUp = true ∧ s.tap.pending = some d ∧ s.rd Reg.SEC_LC_PORT 0 = 3 ∧
    bit d.toNat 2 = false ∧ bits d.toNat 1 0 = 2 ∧ s.rd Reg.SEC_LC_LC 0 ≤ 1 ∧ s.heldBack .debug 0x062000 = false ∧ s.stage ≠ 5 := by
  decide +kernel

/-- A write of a register of memory before READY. -/
theorem met_debug_held : let d := dr 2 0 0x070000 5
    let s := (debugging 3 d).wr Reg.HRT_BOOT_STAGE 0 3
    s.tapUp = true ∧ s.tap.pending = some d ∧ s.rd Reg.SEC_LC_PORT 0 = 3 ∧ bit d.toNat 2 = false ∧ bits d.toNat 1 0 = 2 ∧
    s.heldBack .debug (bits d.toNat 43 3 / 4 * 4) = true := by
  decide +kernel

theorem met_debug_memory : let s := debugging 3 (dr 2 1 0x2003 5)
    s.tapUp = true ∧ s.memUp = true ∧ bit (dr 2 1 0x2003 5).toNat 2 = true ∧
    bits (dr 2 1 0x2003 5).toNat 43 3 / 4 * 4 / 2 ^ 18 < resPage ∧ s.poisoned 0x2000 4 = false ∧
    resPage ≤ bits (dr 2 1 (2 ^ 41 - 4) 5).toNat 43 3 / 4 * 4 / 2 ^ 18 ∧
    ({ s with pw := { s.pw with memAsleep := true } } : State).memUp = false ∧
    ({ s with pw := { s.pw with memAsleep := true } } : State).tapUp = true := by
  decide +kernel

/-- A write of Anvil 1's fence at FULL in the Debug state. -/
theorem met_debug_fence : let d := dr 2 0 0x051004 1
    let s := (debugging 3 d).wr Reg.SEC_LC_LC 0 2
    s.tapUp = true ∧ s.tap.pending = some d ∧ s.rd Reg.SEC_LC_PORT 0 = 3 ∧ bit d.toNat 2 = false ∧ bits d.toNat 1 0 = 2 ∧
    (within 0x050000 0x4000 (bits d.toNat 43 3 / 4 * 4) && bits d.toNat 43 3 / 4 * 4 % 0x1000 == 4 &&
      decide (2 ≤ s.rd Reg.SEC_LC_LC 0)) = true := by
  decide +kernel

theorem met_debug_denied : (debugging 1 (dr 2 0 0 5)).rd Reg.SEC_LC_PORT 0 = 1 ∧
    (debugging 0 (dr 1 0 0 5)).rd Reg.SEC_LC_PORT 0 = 0 ∧ (debugging 0 (dr 1 0 0 5)).tapUp = true ∧
    (debugging 2 (dr 1 0 0 5)).rd Reg.SEC_LC_PORT 0 = 2 := by
  decide +kernel

/-! Kalec. -/

theorem met_answer : (busyWith owned udp .hello).kal.boxes[udp.mbox].cur = some (ask udp .hello) ∧
    (busyWith owned hd .hello).kal.boxes[hd.mbox].cur = some (ask hd .hello) ∧ hd.mbox.val < 2 := by
  decide +kernel

theorem met_answer_sent : let s := up (busyWith owned udp .hello) 4
    2 ≤ udp.mbox.val ∧ s.rdB Reg.NET_PORT_STATUS_LINK udp.port = true ∧ s.rdB Reg.NET_FI_CTRL_ARM udp.port = false ∧
      s.net.fi[udp.port].held = [] ∧ s.quench = false ∧ (s.wrB Reg.PWR_STATUS_QUENCH 0 true).quench = true := by
  decide +kernel

theorem met_hello : Takes (up owned 4) udp .hello := by
  unfold Takes Reaches
  decide +kernel

theorem met_readReg : Takes owned hd (.readReg 0x080000 1) ∧ ∀ i, i < 1 → hasReg (0x080000 + 4 * i) = true := by
  unfold Takes Reaches
  decide +kernel

theorem met_ownerInfo : Takes owned hd .ownerInfo := by
  unfold Takes Reaches
  decide +kernel

theorem met_readEvents : Takes owned hd (.readEvents 0 126 none) ∧ (owned.eventSource 0 0).isSome = true := by
  unfold Takes Reaches
  decide +kernel

theorem met_slagRead : Takes owned other (.slagRead 65416 120) ∧ 65416 + 120 ≤ 65536 := by
  unfold Takes Reaches
  decide +kernel

theorem met_configRead : Takes (sealed owned) hd (.configRead 0) ∧ (sealed owned).curCopy.isSome = true := by
  unfold Takes Reaches
  decide +kernel

theorem met_tokens : owned.kal.toks.Pairwise (· < ·) ∧ 0 ∈ owned.kal.toks ∧ (∀ e ∈ owned.kal.toks, e < 2 ^ 32) ∧
    owned.kal.toks.length < 2 ^ 32 := by
  decide +kernel

theorem met_claim : Takes ready hd (.claim 15) ∧ Takes ready hd (.claim 0) ∧ hd.mbox.val < 2 ∧ ready.ownState ≤ 1 := by
  unfold Takes Reaches
  decide +kernel

/-- A claim window with two claims. -/
def claimed : State := { ready.wr Reg.HRT_OWNER_STATE 0 1 with kal := { ready.kal with claims := [(hd, 3), (other, 5)] } }

theorem met_window : claimed.kalecServes = true ∧ claimed.ownState = 1 ∧ State.winner claimed.kal.claims = some (other, 5) := by
  decide +kernel

theorem met_yield : Takes owned hd (.yield 5 1) ∧ Takes owned hd (.yield 0 100) ∧ (5 : DWord).toNat ≠ owned.ownerId ∧
    (0 : DWord).toNat ≠ owned.ownerId := by
  unfold Takes Reaches
  decide +kernel

theorem met_keepalive : Takes owned hd .keepalive := by
  unfold Takes Reaches
  decide +kernel

theorem met_forceVacate : Takes owned other (.forceVacate 1) ∧ other.mbox.val < 2 := by
  unfold Takes Reaches
  decide +kernel

theorem met_lease : owned.kalecServes = true ∧ owned.owned = true ∧ owned.kal.running = none ∧
    (busyWith owned hd .keepalive).kalecServes = true ∧ (busyWith owned hd .keepalive).owned = true ∧
    (busyWith owned hd .keepalive).kal.running = some (ask hd .keepalive) := by
  decide +kernel

theorem met_reservation : (owned.wr Reg.HRT_OWNER_STATE 0 3).kalecServes = true ∧
    (owned.wr Reg.HRT_OWNER_STATE 0 3).ownState = 3 := by
  decide +kernel

theorem met_writeReg : Takes owned hd (.writeReg [(0x064000, 5)]) := by
  unfold Takes Reaches
  decide +kernel

theorem met_configWrite : let s := sealed owned
    Takes s hd (.configWrite 1 1 [(0x060000, 15)]) ∧ s.copiesLive = true ∧ (1 : DWord).toNat = s.rd Reg.HRT_CFG_SEQ_SEQ 0 ∧
      s.kal.cfgWrite = none ∧ ([((0x060000 : Word), (15 : Word))].foldl putEntry s.curEntries).length ≤ 4996 ∧
      persistent 0x060000 = true := by
  unfold Takes Reaches
  decide +kernel

/-- A configuration copy is being written for a command. -/
def copying : State :=
  let s := sealed (busyWith owned hd (.configWrite 1 1 []))
  { s with kal := { s.kal with cfgWrite := some ⟨[(0x064000, 5)], true⟩ } }

theorem met_copyWritten : copying.kal.cfgWrite.isSome = true ∧ copying.kalecServes = true ∧ copying.copiesLive = true := by
  decide +kernel

theorem met_slotOpen : Takes owned hd (.slotOpen 7 0) ∧ (7 : Fin 8).val = (7 : Byte).toNat ∧ owned.slotState (7 : Fin 8) = 0 ∧
    owned.rd Reg.SEC_LC_PORT 0 ≠ 2 := by
  unfold Takes Reaches
  decide +kernel

/-- A job slot opened. -/
def opened (n : Nat) : State := (sealed owned).wr Reg.STR_SLOT_STATE_STATE n 1

theorem met_slotStart : Takes (opened 7) hd (.slotStart 7) ∧ (opened 7).slotState (7 : Fin 8) = 1 ∧
    (opened 7).rd Reg.HRT_CFG_SEQ_SEQ 0 ≠ 0 := by
  unfold Takes Reaches
  decide +kernel

theorem met_slotStop : Takes ((opened 7).wr Reg.STR_SLOT_STATE_STATE 7 3) hd (.slotStop 7) ∧
    2 ≤ ((opened 7).wr Reg.STR_SLOT_STATE_STATE 7 3).slotState (7 : Fin 8) := by
  unfold Takes Reaches
  decide +kernel

theorem met_slotClose : Takes (opened 7) hd (.slotClose 7) := by
  unfold Takes Reaches
  decide +kernel

theorem met_streamResume : Takes owned hd (.streamResume 47) ∧ (47 : Byte).toNat < 48 := by
  unfold Takes Reaches
  decide +kernel

theorem met_stepMarkCmd : Takes (opened 7) hd (.stepMark 7) ∧ (opened 7).slotState (7 : Byte).toNat ≠ 0 := by
  unfold Takes Reaches
  decide +kernel

/-- Arguments of QP_BIND at the ends of their ranges. -/
def qpEdge : QpArgs := ⟨255, 7, 0, 0, 4096, 7, 5, 0, 3, 4, 8, 7⟩

theorem met_qpBind : Takes owned hd (.qpBind qpEdge) ∧ qpEdge.qp.toNat < 256 ∧ qpEdge.slot.toNat < 8 ∧ 4 ≤ qpEdge.port.toNat ∧
    qpEdge.port.toNat < 8 ∧ qpEdge.retry.toNat < 8 ∧ qpEdge.mtu.toNat ∈ [1024, 2048, 4096] ∧
    owned.qpOf qpEdge.qp.toNat = none := by
  unfold Takes Reaches
  decide +kernel

theorem met_qpUnbind : Takes owned hd (.qpUnbind 255) := by
  unfold Takes Reaches
  decide +kernel

/-- Page 5 is poisoned. -/
def poisonedPage : State := { owned with ms := { owned.ms with
  tier := [(5, { TierEnt.unmapped with state := .poisoned, home := 1, heat := 3 })] } }

theorem met_pageClear : Takes poisonedPage hd (.pageClear 5) ∧ (5 : Word).toNat < resPage ∧
    (poisonedPage.ent 5).state = .poisoned := by
  unfold Takes Reaches
  decide +kernel

theorem met_points : Takes owned hd (.setPhaseOp 4 15) ∧ Takes owned hd (.setGroupOp 0xFF) ∧
    owned.rdB Reg.HRT_CLK_STATUS_REF_FALLBACK 0 = false := by
  unfold Takes Reaches
  decide +kernel

/-- Quench, with FLOW_OK high again. -/
def quenched : State := { (owned.wrB Reg.PWR_STATUS_QUENCH 0 true).wr Reg.HRT_CD_HOLD_CD2 0 2 with
  pw := { owned.pw with memAsleep := true } }

theorem met_resume : Takes quenched hd .resume ∧ quenched.quench = true ∧ quenched.pw.flowOk = true ∧
    quenched.pw.hot = false := by
  unfold Takes Reaches
  decide +kernel

/-- Firmware slot 1 with the given contents, in the Sealed lifecycle. -/
def slotOne (f : FwSlot) (s : State) : State := { sealed s with flash := { s.flash with fw := s.flash.fw.set 1 f } }

theorem met_fwStage : Takes (sealed owned) hd (.fwStage 1 (2 ^ 26 - 3) [1, 2, 3]) ∧ 1 ≠ (sealed owned).runningSlot ∧
    (BitVec.ofNat 32 (2 ^ 26 - 3)).toNat + 3 ≤ 2 ^ 26 := by
  unfold Takes Reaches
  decide +kernel

theorem met_fwStage_range : Takes (sealed owned) hd (.fwStage 2 0 [1]) ∧
    Takes (sealed owned) hd (.fwStage 1 (2 ^ 26 - 2) [1, 2, 3]) ∧ 1 < (2 : Byte).toNat ∧
    ¬(BitVec.ofNat 32 (2 ^ 26 - 2)).toNat + 3 ≤ 2 ^ 26 := by
  unfold Takes Reaches
  decide +kernel

theorem met_fwStage_denied : Takes (sealed owned) hd (.fwStage 0 0 [1]) ∧ Fin.ofNat 2 (0 : Byte).toNat = (sealed owned).runningSlot := by
  unfold Takes Reaches
  decide +kernel

theorem met_fwCommit : let s := slotOne { FwSlot.erased with staged := true } owned
    Takes s hd (.fwCommit 1 2) ∧ 1 ≠ s.runningSlot ∧ (s.flash.fw[(1 : Fin 2)].staged || s.flash.fw[(1 : Fin 2)].commit) = true ∧
    Takes s hd (.fwCommit 0 2) ∧ Takes s hd (.fwCommit 2 2) ∧ (Fin.ofNat 2 (0 : Byte).toNat) = s.runningSlot := by
  unfold Takes Reaches
  decide +kernel

/-- A committed image. -/
def committed : FwSlot := { FwSlot.erased with commit := true, valid := true, version := 7 }

theorem met_fwActivate : Takes (slotOne committed owned) hd (.fwActivate 1) ∧
    (slotOne committed owned).flash.fw[(1 : Fin 2)].commit = true ∧ Takes (slotOne committed owned) hd (.fwActivate 2) ∧
    Takes (slotOne FwSlot.erased owned) hd (.fwActivate 1) ∧
    (slotOne FwSlot.erased owned).flash.fw[(1 : Fin 2)].commit = false := by
  unfold Takes Reaches
  decide +kernel

/-- An activation under way. -/
def activating : State :=
  let s := slotOne committed (busyWith owned hd (.fwActivate 1))
  { s with kal := { s.kal with activate := some ((ask hd (.fwActivate 1)).hdr, 1) } }

theorem met_fwHandoff : activating.kal.activate = some ((ask hd (.fwActivate 1)).hdr, (1 : Fin 2).val) ∧
    activating.kal.running = some (ask hd (.fwActivate 1)) ∧ activating.kalecUp = true ∧ activating.kal.restart = false ∧
    activating.kal.waiting = [] ∧ activating.kal.leaseDue = false := by
  decide +kernel

/-- In CONFIG; with a handover under way; restarting. -/
theorem met_watchdog : let c := owned.wr Reg.HRT_BOOT_STAGE 0 2
    owned.kalecServes = true ∧ claimed.kalecServes = true ∧ claimed.ownState = 1 ∧
    c.powered = true ∧ c.stage = 2 ∧ c.rd Reg.PWR_STATUS_STATE 0 ≠ 3 ∧ c.kal.restart = false ∧ c.kal.activate = none ∧
    activating.coresRun = true ∧ activating.kal.restart = false ∧ activating.kal.activate.isSome = true := by
  decide +kernel

theorem met_restarted : let s : State := { owned with kal := { owned.kal with restart := true, restartMem := true } }
    s.coresRun = true ∧ s.kal.restart = true ∧ s.kal.waiting = [] ∧ s.kal.running = none := by
  decide +kernel

/-! Tokens, quotes and start-up. -/

theorem met_token_staged : Takes (sealed owned) hd (.debugToken 7918 0 [1, 2]) ∧
    Takes (sealed owned) hd (.debugToken 7918 1 [1, 2]) ∧ (7918 : Word).toNat + 2 ≤ 7920 := by
  unfold Takes Reaches
  decide +kernel

/-- A token accepted whose command executes. -/
def accepted (k : Nat) : State := { sealed (busyWith owned hd (.debugToken 0 1 [])) with
  sec := { owned.sec with accepted := some (k, 77) } }

theorem met_token_effect : (accepted 1).kal.running = some (ask hd (.debugToken 0 1 [])) ∧ (accepted 1).kalecServes = true ∧
    (accepted 5).sec.accepted = some (5, 77) := by
  decide +kernel

theorem met_close : writable ((sealed owned).wr Reg.SEC_LC_PORT 0 1) .i3c 0x040004 = true ∧
    ((sealed owned).wr Reg.SEC_LC_PORT 0 1).rd Reg.SEC_LC_PORT 0 = 1 ∧
    ((sealed owned).wr Reg.SEC_LC_LC 0 2).rd Reg.SEC_LC_LC 0 = 2 := by
  decide +kernel

theorem met_lifecycleReset : ({ sealed owned with sec := { owned.sec with toState := some 2 } } : State).sec.toState = some 2 ∧
    (sealed owned).powered = true := by
  decide +kernel

theorem met_quote : Takes (sealed ready) other (.quote 5) ∧ (sealed ready).keysHeld = true ∧ (sealed ready).kal.quoting = none ∧
    Takes ready other (.quote 5) ∧ ready.keysHeld = false := by
  unfold Takes Reaches
  decide +kernel

theorem met_quoteSigned : let s : State := { sealed (busyWith ready hd (.quote 0)) with
      kal := { (busyWith ready hd (.quote 0)).kal with quoting := some (hd, List.replicate 64 0) } }
    let q : Req := ⟨hd, 0x07, some (.quote (BitVec.ofNat 256 (bits (ofBytes (List.replicate 64 0)) 511 256)))⟩
    s.powered = true ∧ s.kal.quoting = some (hd, List.replicate 64 0) ∧ s.kal.boxes[hd.mbox].cur = some q := by
  decide +kernel

/-- A stage of start-up. -/
def booting (n : Nat) : State := (sealed ready).wr Reg.HRT_BOOT_STAGE 0 n

theorem met_boot : let settled (s : State) : State := { s with flash := { s.flash with fw := s.flash.fw.map State.fwSettled } }
    (booting 1).powered = true ∧ (booting 1).stage ≤ 1 ∧ (settled (booting 1)).fwChoice = some 0 ∧
    (settled { booting 1 with flash := { (booting 1).flash with fw := Vector.replicate 2 FwSlot.erased } }).fwChoice = none := by
  decide +kernel

theorem met_configLoad : (booting 2).powered = true ∧ (booting 2).stage = 2 ∧ (booting 2).kal.restart = false ∧ (booting 2).kal.early = [] ∧
    (booting 2).kal.waiting = [] ∧ (booting 2).kal.running = none ∧ (booting 2).curCopy.isSome = true ∧
    ({ booting 2 with flash := { (booting 2).flash with
      cfg := Vector.replicate 2 CfgCopy.erased } } : State).curCopy = none := by
  decide +kernel

theorem met_bootReady : (booting 3).powered = true ∧ (booting 3).stage = 3 ∧ (booting 3).kal.held = [] ∧
    (booting 3).kal.waiting = [] ∧ (booting 3).kal.running = none ∧ (booting 3).pw.flowOk = true ∧
    ({ booting 3 with pw := { (booting 3).pw with flowOk := false } } : State).pw.flowOk = false := by
  decide +kernel

/-! Memory's registers. -/

/-- The range of the MEM_ALLOC registers. -/
def ranged (b n : Nat) (s : State) : State := (s.wr Reg.MEM_ALLOC_BASE_LO_BASE_LO 0 b).wr Reg.MEM_ALLOC_PAGES_PAGES 0 n

/-- Partition sizes at their limits: 48, 64, 32 and 8 of the 192 areas. -/
theorem met_partition : writable owned .i3c 0x070000 = true ∧ bits 0x08204030 5 0 = 48 ∧ bits 0x08204030 15 8 = 64 ∧
    bits 0x08204030 21 16 = 32 ∧ bits 0x08204030 27 24 = 8 ∧ owned.rdB Reg.MEM_TS_PART_APPLYING (0 : Fin 2) = false ∧
    owned.ckptInFlight 0 = false ∧ owned.rdB Reg.MEM_FCAP_STATUS_UNREAD (0 : Fin 2) = false ∧ owned.ms.tier = [] := by
  decide +kernel

/-- A partition change under way, with page 1 mapped so. -/
def applying (e : TierEnt) : State :=
  let s := owned.wrB Reg.MEM_TS_PART_APPLYING 0 true
  { s with ms := { s.ms with tier := [(1, e)] } }

/-- What the pages of a die leave of a partition change. -/
def drainedOf (s : State) : State :=
  State.drainScratch (fun x p => if x.inTaken p = true then x.leaveScratch p else x) (s.diePages 0) s

/-- Nothing is left in the frames taken, or a poisoned page that does not move. -/
theorem met_partition_done : let s := applying { TierEnt.unmapped with state := .mapped, home := 1, nframe := 1535 }
    let t := applying { TierEnt.unmapped with state := .poisoned, home := 0, nframe := 1535 }
    s.memUp = true ∧ s.quench = false ∧ s.rdB Reg.MEM_TS_PART_APPLYING (0 : Fin 2) = true ∧ (drainedOf s).partClear 0 = true ∧
    t.memUp = true ∧ t.quench = false ∧ t.rdB Reg.MEM_TS_PART_APPLYING (0 : Fin 2) = true ∧ (drainedOf t).partClear 0 = false := by
  decide +kernel

theorem met_alloc : let s := ranged 1 3 owned
    writable s .i3c 0x07010C = true ∧ s.allocRange = (1, 3) ∧ s.ms.alloc = none ∧ s.allocRoom 0 2 1 3 = true ∧
    ∀ p, s.isMapped p = false :=
  ⟨by decide +kernel, by decide +kernel, by decide +kernel, by decide +kernel, fun _ => rfl⟩

theorem met_free : let s := ranged 1 3 (mapped owned 5)
    writable s .i3c 0x07010C = true ∧ s.windowOver none (2 ^ 18) (3 * 2 ^ 18) = none ∧ s.poolOver none (2 ^ 18) (3 * 2 ^ 18) = none ∧
    s.isMapped 3 = true ∧ (s.ent 3).lock = false := by
  decide +kernel

theorem met_setflags : (ranged 1 3 (mapped owned 5)).pinRoom 1 3 = true := by decide +kernel

theorem met_allocDone : ({ owned with ms := { owned.ms with alloc := some ⟨1, 2, 3, 4⟩ } } : State).ms.alloc = some ⟨1, 2, 3, 4⟩ := by
  decide +kernel

theorem met_unprotect : writable owned .i3c 0x070300 = true ∧ bits 0x140 6 0 = 64 ∧ bits 0x140 13 8 = 1 := by decide +kernel

/-- Window 15 over pages 1 and 2. -/
def windowed (s : State) : State := (s.wr Reg.MEM_CRU_BASE_LO_BASE_LO 15 1).wr Reg.MEM_CRU_PAGES_PAGES 15 2

theorem met_crucibleEnable : let s := windowed owned
    writable s .i3c (0x07800C + 32 * (15 : Fin 16).val) = true ∧ s.rdB Reg.MEM_CRU_CTRL_EN (15 : Fin 16) = false ∧
    s.windowRange 15 = (1, 2) ∧ s.windowOver (some 15) (2 ^ 18) (2 * 2 ^ 18) = none ∧ ∀ p, (s.ent p).flags ≠ 3 :=
  ⟨by decide +kernel, by decide +kernel, by decide +kernel, by decide +kernel, fun _ => by show TierEnt.unmapped.flags ≠ 3; decide +kernel⟩

theorem met_crucibleReady : let s := (windowed owned).wrB Reg.MEM_CRU_STATUS_ZEROING 15 true
    let t : State := { s with ms := { s.ms with tier := [(1, { TierEnt.unmapped with state := .mapped, home := 2, lock := true })] } }
    s.memUp = true ∧ s.quench = false ∧ s.rdB Reg.MEM_CRU_STATUS_ZEROING (15 : Fin 16) = true ∧ s.windowPlaced 15 = true ∧
    s.ms.held = [] ∧
    t.memUp = true ∧ t.quench = false ∧ t.rdB Reg.MEM_CRU_STATUS_ZEROING (15 : Fin 16) = true ∧ t.windowPlaced 15 = false := by
  decide +kernel

theorem met_crucibleDisable : let s := (windowed owned).wrB Reg.MEM_CRU_CTRL_EN 15 true
    writable s .i3c (0x07800C + 32 * (15 : Fin 16).val) = true ∧ s.rdB Reg.MEM_CRU_CTRL_EN (15 : Fin 16) = true ∧
    s.rdB Reg.MEM_CRU_STATUS_ZEROING (15 : Fin 16) = false ∧ s.windowWritten 15 = false := by
  decide +kernel

theorem met_kvPoolEnable : let s := owned.wr Reg.MEM_KV_CFG_NFRAMES 15 3
    writable s .i3c (0x07900C + 64 * (15 : Fin 16).val) = true ∧ s.rdB Reg.MEM_KV_CTRL_EN (15 : Fin 16) = false ∧
    s.rd Reg.MEM_KV_CFG_NFRAMES (15 : Fin 16) ≠ 0 ∧ s.poolBase (15 : Fin 16) + s.poolBytes (15 : Fin 16) ≤ spaceEnd ∧
    s.poolOver (some 15) (s.poolBase (15 : Fin 16)) (s.poolBytes (15 : Fin 16)) = none ∧
    s.windowOver none (s.poolBase (15 : Fin 16)) (s.poolBytes (15 : Fin 16)) = none := by
  decide +kernel

theorem met_kvPoolDisable : let s := owned.wrB Reg.MEM_KV_CTRL_EN 15 true
    writable s .i3c (0x07900C + 64 * (15 : Fin 16).val) = true ∧ s.rdB Reg.MEM_KV_CTRL_EN (15 : Fin 16) = true ∧
    ∀ o ∈ s.ops, State.poolNamed o ≠ some (15 : Fin 16).val := by
  decide +kernel

theorem met_weightRange : let s := (owned.wr Reg.MEM_WR_BASE_LO_BASE_LO 15 1).wr Reg.MEM_WR_PAGES_PAGES 15 2
    writable s .i3c (0x07100C + 16 * (15 : Fin 16).val) = true ∧ s.rdB Reg.MEM_WR_CTRL_EN (15 : Fin 16) = false ∧
    s.weightRange 15 = (1, 2) ∧ (∀ q, q < 16 → s.rdB Reg.MEM_WR_CTRL_EN q = false) ∧
    (∀ q, q < 16 → q ≠ 15 → (s.wrB Reg.MEM_WR_CTRL_EN 15 true).rdB Reg.MEM_WR_CTRL_EN q = false) := by
  decide +kernel

/-! The sequencers' and the network's registers. -/

theorem met_ringConfig : writable owned .i3c (0x021000 + 0x40 * (47 : RingId).val + 4 * (2 : Fin 3).val) = true ∧
    owned.slotState (State.ringSlot 47) ≤ 1 ∧ (bits 4 4 0 = 4 ∧ bits 16 4 0 = 16) ∧
    2 ≤ (owned.wr Reg.STR_SLOT_STATE_STATE 7 2).slotState (State.ringSlot 47) := by
  decide +kernel

theorem met_itabLoad : writable owned .i3c (0x020108 + 0x40 * (1 : Fin 2).val) = true ∧ bits 0x3000 12 0 = 4096 ∧
    owned.rdB Reg.STR_ITAB_STATUS_PENDING (1 : Fin 2) = false := by
  decide +kernel

/-- A load of n entries from 0x40, whose second entry is malformed. -/
def loadingTable (n : Nat) : State :=
  let s := mapped owned 1
  let s := place s 0x40 8 ((defaultTable.headD 0).toNat + 2 ^ 32 * 0xffffffff)
  { s with seqr := s.seqr.set 1 { s.seqr[1] with loading := some (64, n, true) } }

theorem met_itabLoadDone : (loadingTable 1).memUp = true ∧ (loadingTable 1).seqr[(1 : Fin 2)].loading = some (64, 1, true) ∧
    State.badEntry ((loadingTable 2).peek 64 4) = false ∧ State.badEntry ((loadingTable 2).peek 68 4) = true ∧
    (loadingTable 2).poisoned 64 8 = false ∧ (loadingTable 1).rdB Reg.ANV_FENCE_WITHDRAWN 2 = false ∧
    (loadingTable 1).rdB Reg.ANV_FENCE_WITHDRAWN 3 = false ∧ (loadingTable 1).anv[(2 : Fin 4)].switched = false := by
  decide +kernel

theorem met_disarm : writable owned .i3c 0x090000 = true ∧ owned.layers = [] := by decide +kernel

theorem met_fiArm : writable owned .i3c (0x060040 + 0x400 * (7 : Fin 8).val) = true ∧ bits 0xff0f 15 8 ≠ 0 ∧
    owned.rdB Reg.NET_FI_CTRL_ARM (7 : Fin 8) = false := by
  decide +kernel

theorem met_netWrites : writable owned .i3c 0x062000 = true ∧ (∀ n, n < 8 → owned.slotState n ≠ 2) ∧
    writable owned .i3c (0x060000 + 0x400 * (7 : Fin 8).val) = true ∧ bits 0x1ff17 3 0 < 8 ∧ bits 0x1ff17 18 7 ≠ 4095 ∧
    owned.rdB Reg.NET_PORT_CFG_EN (7 : Fin 8) = false ∧ (owned.wrB Reg.NET_PORT_CFG_EN 7 true).rdB Reg.NET_PORT_CFG_EN (7 : Fin 8) = true ∧
    (owned.wrB Reg.NET_PORT_CFG_EN 7 true).rd Reg.NET_PORT_CFG_MODE (7 : Fin 8) = bits 0x1c 3 0 - 12 ∧ writable owned .i3c (0x064000 + 4 * (87 : Fin 88).val) = true := by
  decide +kernel

theorem met_registerWrite : writable owned .i3c (0xfffffc : BitVec 24).toNat = true ∧ hasReg (0xfffffc : BitVec 24).toNat = false ∧
    writable owned .i3c (0x070104 : BitVec 24).toNat = true ∧ within 0x070100 8 (0x070104 : BitVec 24).toNat = true ∧
    (0x062000 : BitVec 24).toNat = 0x062000 := by
  decide +kernel

/-! Capture and samples. -/

/-- Die 1's capture armed with a post-trigger delay, and its trigger pin assigned. -/
def captureArmed (post : Nat) : State :=
  (((owned.wrB Reg.MEM_FCAP_CTRL_ARM 1 true).wr Reg.MEM_FCAP_CTRL_POST 1 post).wr Reg.MEM_FCAP_CTRL_AUXTRIG 1 1).wr
    Reg.HRT_AUX_FUNC0 0 2

theorem met_captureArm : writable owned .i3c (0x070500 + 0x20 * (1 : Fin 2).val) = true ∧
    bits owned.ms.part[(1 : Fin 2)].toNat 27 24 ≠ 0 ∧ owned.rdB Reg.MEM_FCAP_CTRL_ARM (1 : Fin 2) = false ∧
    owned.rdB Reg.MEM_FCAP_STATUS_UNREAD (1 : Fin 2) = false ∧ owned.rd Reg.HRT_CD_HOLD_CD3 0 = 0 ∧
    bit (0x0101 : Word).toNat 6 = false ∧ bit (0x0141 : Word).toNat 6 = true := by
  decide +kernel

theorem met_captureEdge : let s := captureArmed 3
    s.powered = true ∧ s.rdB Reg.HRT_AUX_TRIPPED 0 = false ∧ s.rd Reg.HRT_AUX_FUNC0 0 = 2 ∧
    s.rdB Reg.MEM_FCAP_CTRL_AUXTRIG (1 : Fin 2) = true ∧ s.rdB Reg.MEM_FCAP_CTRL_ARM (1 : Fin 2) = true ∧
    s.tel.capture[(1 : Fin 2)].posting = false ∧ s.rdB Reg.MEM_FCAP_CTRL_AUXTRIG (0 : Fin 2) = false := by
  decide +kernel

theorem met_capturePost : let s : State := { captureArmed 3 with
    tel := { owned.tel with capture := owned.tel.capture.set 1 ⟨[5, 6], 2, true⟩ } }
    s.tel.capture[(1 : Fin 2)].posting = true := by
  decide +kernel

theorem met_captureDump : let s := owned.wrB Reg.MEM_FCAP_STATUS_TRIGGERED 1 true
    writable s .i3c (0x070500 + 0x20 * (1 : Fin 2).val) = true ∧ s.rdB Reg.MEM_FCAP_STATUS_TRIGGERED (1 : Fin 2) = true ∧
    s.rdB Reg.MEM_FCAP_STATUS_DUMPING (1 : Fin 2) = false ∧
    (s.wrB Reg.MEM_FCAP_STATUS_DUMPING 1 true).rdB Reg.MEM_FCAP_STATUS_DUMPING (1 : Fin 2) = true := by
  decide +kernel

theorem met_sample : let s := owned.wr Reg.TEL_SRING_LEN_LEN 0 4
    writable s .i3c 0x03F008 = true ∧ bits 0xffffff 23 0 ≠ 0 ∧ s.rd Reg.TEL_SRING_LEN_LEN 0 ≠ 0 ∧ s.rd Reg.HRT_CD_HOLD_CD3 0 ≠ 2 ∧
    s.memUp = true ∧ (s.wrB Reg.TEL_SAMPLE_CTRL_EN 0 true).rdB Reg.TEL_SAMPLE_CTRL_EN 0 = true ∧
    writable s .i3c 0x03F000 = true := by
  decide +kernel

/-! The command streams and the Anvils. -/

/-- A macro-op in flight with the given number, ring and descriptor. -/
def blank (id : Nat) (ring : RingId) (desc : Nat) (work : Work) : Op := {
  id := id, ring := ring, desc := desc, addr := 0, mds := [], shapes := [], scales := [], ctrs := [], reads := [], writes := []
  tracker := false, flags := 0, detail := 0, warm := false, outs := [], cycles := 0, serving := [], seen := 0, olds := []
  lens := [], units := [], prog := [], blks := [], work := work }

/-- An entry of ring 0, one with a FENCE and one of no opcode. -/
def fenceRing : State := ring0 base (dsc 0x3A 77 [] [])
def badRing : State := ring0 base (dsc 0x3B 77 [] [])

theorem met_doorbell : fenceRing.memUp = true ∧ fenceRing.slotState (State.ringSlot 0) = 2 ∧
    fenceRing.rd Reg.STR_RING_CFG_LOG2N (0 : RingId) = 4 ∧ fenceRing.rd Reg.STR_RING_HEAD_COUNT (0 : RingId) = 0 ∧
    fenceRing.rd Reg.STR_RING_TAIL_COUNT (0 : RingId) = 1 ∧
    ((ofBytes [16, 0, 0, 0] + 2 ^ 32 - 0) % 2 ^ 32 ≤ 2 ^ 4 ∧ (ofBytes [16, 0, 0, 0] + 2 ^ 32 - 1) % 2 ^ 32 < 2 ^ 31) ∧
    ¬(ofBytes [17, 0, 0, 0] + 2 ^ 32 - 0) % 2 ^ 32 ≤ 2 ^ 4 := by
  decide +kernel

theorem met_doorbell_open : (fenceRing.wr Reg.STR_SLOT_STATE_STATE 0 1).slotState (State.ringSlot 0) = 1 ∧
    (issuing (.fence 0)).isSome = true ∧ (fenceRing.wr Reg.STR_SLOT_STATE_STATE 0 0).slotState (State.ringSlot 0) = 0 := by
  decide +kernel

theorem met_descriptorRead : fenceRing.ringLive 0 = true ∧ fenceRing.rings[(0 : RingId)].held = none ∧
    fenceRing.rd Reg.STR_RING_HEAD_COUNT (0 : RingId) ≠ fenceRing.rd Reg.STR_RING_TAIL_COUNT (0 : RingId) ∧
    fenceRing.ringOps 0 = [] ∧ fenceRing.poisoned (fenceRing.ringEntry 0 0) 128 = false ∧
    opcodes.contains (dOpcode (fenceRing.peek (fenceRing.ringEntry 0 0) 128)) = true ∧
    opcodes.contains (dOpcode (badRing.peek (badRing.ringEntry 0 0) 128)) = false := by
  decide +kernel

/-- A MOVE with a pointer that its opcode does not use: detail 3 of step 1. -/
theorem met_malformed : let s := holding base (dsc 0x20 85 [0x1000, 0x1080, 0x1100] [])
    let k : Issuing := { ring := 2, code := 0x20, plan := State.movePlan }
    issuing (.move 2) = some k ∧ HasTurn s k ⟨dsc 0x20 85 [0x1000, 0x1080, 0x1100] [], 0x3000, none, false, false, false⟩ ∧
    firstDetail (headFindings s 2 (dsc 0x20 85 [0x1000, 0x1080, 0x1100] []) (State.movePlan s 2 (dsc 0x20 85 [0x1000, 0x1080, 0x1100] [])))
      = some 3 :=
  ⟨rfl, by unfold HasTurn; decide +kernel, by decide +kernel⟩

/-- A WAIT in flight that polls. -/
def polling : State := { base with ops := [blank 3 0 (dsc 0x39 77 [] [0x1000, 5, 0xff, 0]) (.engine 1)] }

theorem met_waitPoll : polling.memUp = true ∧ (polling.ringOps 0).find? (fun o => dOpcode o.desc == 0x39 && !o.ready) =
    some (blank 3 0 (dsc 0x39 77 [] [0x1000, 5, 0xff, 0]) (.engine 1)) := by
  decide +kernel

theorem met_complete : let o := blank 3 0 (dsc 0x3A 77 [] []) .made
    let s : State := { base with ops := [o] }
    let v := s.ringDue 0
    s.memUp = true ∧ (v.ringOps 0)[0]? = some o ∧ v.mayComplete o = true ∧ v.opOf o.id = some o ∧ v.kal.running = none ∧
    v.kal.waiting = [] := by
  decide +kernel

/-- A GEMM of one tile in flight. -/
def multiplying : State := after (.gemm 2) (gem 1)

theorem met_tileStart : multiplying.running = true ∧ multiplying.withdrawn 0 = false ∧ multiplying.pllGated 0 = false ∧
    multiplying.anv[(0 : Fin 4)].array = none ∧
    ((multiplying.serves 0).any fun x => x.2.2.kind != .unit && (multiplying.opOf x.2.2.op).isSome) = true := by
  decide +kernel

/-- An ATTN_F in flight, whose first unit is dealt to Anvil 0. -/
def attending : State := after (.attnF 2) att

theorem met_unitStart : attending.running = true ∧ attending.withdrawn 0 = false ∧ attending.pllGated 0 = false ∧
    attending.anv[(0 : Fin 4)].array = none ∧
    ((attending.serves 0).any fun x => x.2.2.kind == .unit && ((attending.opOf x.2.2.op).any fun o =>
      let c := attending.cutNext o 0 x.2.2
      c.2.isSome && (c.1.opOf x.2.2.op).isSome)) = true := by
  decide +kernel

/-- A tile of macro-op 3 that failed and met uncorrectable words so often, as it runs with what its comparisons find. -/
def tileRun (fails ues : Nat) (find : CheckFind) : TileRun :=
  ⟨⟨3, 0, 0, 0, 1, 1, fails, ues, .gemm, 0⟩, [], 0, 0, 0, false, 0, 0, find⟩

/-- No comparison fails; column 511 fails; the corner alone fails. -/
def passing : CheckFind := ⟨[], [], false⟩
def column : CheckFind := ⟨[0], [511], true⟩
def cornerOnly : CheckFind := ⟨[], [], true⟩

/-- Macro-op 3 with a tile in Anvil 0's array. -/
def inArray : State := { base with
  ops := [blank 3 0 (dsc 1 79 [] []) (.tiles 1)], anv := base.anv.set 0 { base.anv[0] with array := some (tileRun 0 0 passing) } }

theorem met_tileEnd : inArray.running = true ∧ inArray.pllGated 0 = false ∧ inArray.anv[(0 : Fin 4)].array = some (tileRun 0 0 passing) ∧
    inArray.anv[(0 : Fin 4)].hold.length + inArray.anv[(0 : Fin 4)].leaving.length < 4 ∧
    inArray.opOf (tileRun 0 0 passing).tile.op = some (blank 3 0 (dsc 1 79 [] []) (.tiles 1)) := by
  decide +kernel

theorem met_entryEnd : base.running = true ∧ base.withdrawn 1 = false ∧ base.anv[(1 : Fin 4)].array = none ∧
    base.anv[(1 : Fin 4)].table.length ≤ 4096 ∧ base.anv[(1 : Fin 4)].switched = false ∧
    base.serves 1 = none ∧ entStream (base.itabEntry 1 (base.itabPos 1)) ≠ 3 ∧
    base.anv[(1 : Fin 4)].charge + 0 < entQuota (base.itabEntry 1 (base.itabPos 1)) ∧
    entQuota (base.itabEntry 1 (base.itabPos 1)) ≤ base.anv[(1 : Fin 4)].charge + 2 ^ 30 := by
  decide +kernel

theorem met_fenceRow : let s := base.wr Reg.ANV_FENCE_STRIPE 1 5
    s.powered = true ∧ s.fenceMap ≠ s.rowMap ∧ s.fuses.fences.length < 64 ∧ s.lifecycle ≠ 1 ∧ s.lifecycle ≠ 2 := by
  decide +kernel

/-- Macro-op 3 with a tile in Anvil 0's hold buffer. -/
def inHold (fails ues : Nat) (find : CheckFind) : State := { base with
  ops := [blank 3 0 (dsc 1 79 [] []) (.tiles 1)], anv := base.anv.set 0 { base.anv[0] with hold := [tileRun fails ues find] } }

/-- Each clause: no failure, a first failure, a first word that cannot be corrected, and the second of each. -/
theorem met_tileCheck :
    ((inHold 0 0 passing).anv[(0 : Fin 4)].hold = tileRun 0 0 passing :: [] ∧ (inHold 0 0 passing).running = true ∧
      (inHold 0 0 passing).opOf (tileRun 0 0 passing).tile.op = some (blank 3 0 (dsc 1 79 [] []) (.tiles 1))) ∧
    ((inHold 0 0 column).anv[(0 : Fin 4)].hold = tileRun 0 0 column :: [] ∧ (inHold 0 0 column).running = true ∧
      (tileRun 0 0 column).find.cols ≠ [] ∧ (tileRun 0 0 column).tile.fails = 0 ∧ (tileRun 0 0 column).tile.ues = 0 ∧
      (inHold 0 0 column).fitsOn 0 (tileRun 0 0 column).tile = true ∧
      (inHold 0 0 column).cutFor 0 (tileRun 1 0 column).tile = [(tileRun 1 0 column).tile] ∧
      (inHold 0 0 column).cutFor 0 (tileRun 0 1 column).tile = [(tileRun 0 1 column).tile] ∧ isGemm (dsc 1 79 [] []) = true) ∧
    ((inHold 1 1 column).anv[(0 : Fin 4)].hold = tileRun 1 1 column :: [] ∧ (tileRun 1 1 column).tile.fails ≠ 0 ∧
      (tileRun 1 1 column).tile.ues ≠ 0 ∧ (tileRun 1 1 column).find.cols ≠ []) ∧
    ((inHold 1 0 cornerOnly).anv[(0 : Fin 4)].hold = tileRun 1 0 cornerOnly :: [] ∧ cornerOnly.corner = true ∧
      cornerOnly.cols = []) := by
  decide +kernel

/-! The key-value pools. -/

/-- Pool 0 of two frames, ready, with a row of sequence 0 to append and a row that names no sequence. -/
def kvPool : State :=
  after (.kvPoolEnable .i3c 0 9) (((mapped owned 4).wr Reg.MEM_KV_BASE_LO_BASE_LO 0 0x40).wr Reg.MEM_KV_CFG_NFRAMES 0 2)

def kvMem : State := place (place (place kvPool 0x1000 16 (2 ^ 64 * 7)) 0x1100 8 0x1200) 0x1200 64 (2 ^ 128)

def appendOp : Op := { blank 3 0 (dsc 0x01 5 [] [0, 0, 0, 0x1000, 0x1100, 0x1200, 0x1000 + 2 ^ 32, 256]) (.tiles 2) with
  shapes := [(0, 0), (0, 0), (2, 64)], mds := [0, 0, 0] }

def entryOf (row : Nat) : App := ⟨3, row, 0, false, 0, List.replicate 64 0x3f800000, false, (0, 0)⟩

/-- The append unit of pool 0 with a queue of two entries. -/
def appending (s : State) (row : Nat) (stalled : Bool) : State := { s with
  ops := [appendOp], pools := s.pools.set 0 { s.pools[0] with queue := [entryOf row, entryOf 0], stalled := stalled } }

/-- The page-table entry of row 0 names a frame. -/
def withFrame (f count : Nat) : State := (place kvMem 0x1240 8 (2 ^ 24 + f)).setCount 0 f count

theorem met_append : (appending kvMem 0 false).memUp = true ∧
    (appending kvMem 0 false).nextApp 0 = some (entryOf 0) ∧
    (appending kvMem 0 false).opOf (entryOf 0).op = some appendOp ∧ (appending kvMem 0 false).pools[(0 : Fin 16)].stalled = false ∧
    (appending kvMem 1 false).targetOf appendOp.desc 1 = none ∧ (appending kvMem 1 false).nextApp 0 = some (entryOf 1) ∧
    (appending kvMem 0 false).rd Reg.MEM_KV_STATUS_FREE (0 : Fin 16) ≠ 0 := by
  decide +kernel

/-- What leads to row 0's target carries no marker. -/
theorem met_append_reads : ((appending kvMem 0 false).targetReads appendOp.desc 0).any
      (fun y => (appending kvMem 0 false).poisoned y.1 y.2) = false ∧
    ((appending kvMem 0 false).targetOf appendOp.desc 0).isSome = true := by
  decide +kernel

/-- The three conditions of an entry that names a frame: beyond NFRAMES, its own, shared. -/
theorem met_append_frame :
    ((appending (withFrame 9 1) 0 false).targetOf appendOp.desc 0).any (fun t => State.pteAddr appendOp.desc t 0 == 0x1240) = true ∧
    bits ((appending (withFrame 9 1) 0 false).peek 0x1240 8) 24 24 = 1 ∧
    (appending (withFrame 9 1) 0 false).rd Reg.MEM_KV_CFG_NFRAMES (0 : Fin 16) ≤ 9 ∧
    (appending (withFrame 1 1) 0 false).countOf 0 1 ≤ 1 ∧ 1 < (appending (withFrame 1 2) 0 false).countOf 0 1 := by
  decide +kernel

theorem met_append_empty : let s := (appending kvMem 0 false).wr Reg.MEM_KV_STATUS_FREE 0 0
    s.rd Reg.MEM_KV_STATUS_FREE (0 : Fin 16) = 0 ∧ s.rd Reg.MEM_KV_CTRL_STALL_LIMIT (0 : Fin 16) ≠ 0 ∧
    (s.wr Reg.MEM_KV_CTRL_STALL_LIMIT 0 0).rd Reg.MEM_KV_CTRL_STALL_LIMIT (0 : Fin 16) = 0 := by
  decide +kernel

theorem met_append_stalled : (appending kvMem 0 true).pools[(0 : Fin 16)].stalled = true ∧
    (appending kvMem 0 true).nextApp 0 = some (entryOf 0) ∧ (appending kvMem 0 true).opOf 3 = some appendOp ∧
    ((appending kvMem 0 true).targetOf appendOp.desc 0).isSome = true ∧
    (appending kvMem 0 true).rd Reg.MEM_KV_STATUS_FREE (0 : Fin 16) ≠ 0 := by
  decide +kernel

theorem met_append_dropped : ([(3, 0, 0)].any fun y : Nat × Nat × Nat => y.1 == (entryOf 0).op && y.2.1 == 0 && decide (y.2.2 ≤ 0)) = true ∧
    ((appending kvMem 0 false).targetOf appendOp.desc 0).any (fun t => t.sidx == 0) = true := by
  decide +kernel

theorem met_freeReturn : let f : FreeOp := ⟨3, [0, 1], []⟩
    let s : State := { kvPool with pools := kvPool.pools.set 0 { kvPool.pools[0] with frees := [f] } }
    s.memUp = true ∧ s.pools[(0 : Fin 16)].frees = f :: [] ∧ f.walks.any (s.poolWalks 0).contains = false := by
  decide +kernel

/-! The update engine. -/

/-- The layer table of one layer at 0x1000, with its copies' descriptors. -/
def layerMem : State := mats (mats base 0x1000 [le]) 0x2000 [bf 0x2800 2 4, bf 0x2a00 2 4]

/-- The layer in a phase, with what has landed and which chunks were signalled. -/
def layerIn (phase : LPhase) (landed : List (Nat × Nat)) (signals : List Nat) : Layer := {
  op := 3, ring := 2, entry := 0x1000, index := 1, step := 9, sched := 0, lr := 0x3f800000, landed := landed, signals := signals
  next := 0, trough := [], running := false, phase := phase, k := 0x3f800000, poison := false, stale := false
  nonfin := false, nonN2 := false, fallback := false, recQ := none, ctr := 0, amax := (0, 0), uratio := 0 }

def armed (l : Layer) : State := { layerMem with
  layers := [l], ops := [blank 3 2 (dsc 0x30 5 [] []) (.engine 1)], upds := [⟨3, 2, 0, [], 1, false, false, some (some one32)⟩] }

theorem met_chunk : let l := layerIn .chunks [(0, 32)] []
    (armed l).layerOf (0x1000 : BitVec 48).toNat = some l ∧ (armed l).memUp = true ∧ l.phase = .chunks ∧
    1 < lChunks ((armed l).peek 0x1000 128) ∧ 1 ∉ l.signals ∧
    hasRange (chunkBytes ((armed l).peek 0x1000 128) 1).1 (chunkBytes ((armed l).peek 0x1000 128) 1).2 l.landed = true := by
  decide +kernel

theorem met_chunk_ready : let l := layerIn .chunks [(0, 32)] [0, 1]
    State.chunkDue l = true ∧ (armed l).noteReady.turnNow l = true := by
  decide +kernel

/-- The sum of the statistics, clean and marked. -/
theorem met_stats : let l := layerIn .stats [] [0, 1]
    let s := armed l
    let a := lScr (s.peek 0x1000 128) + 4 * lCols (s.peek 0x1000 128)
    (armed (layerIn .statsDue [] [0, 1])).running = true ∧ (layerIn .statsDue [] [0, 1]).phase = .statsDue ∧
    s.memUp = true ∧ l.phase = .stats ∧ (l.stale || l.poison) = false ∧ s.net.colls = [] ∧ s.poisoned a 4 = false ∧
    (s.setPoison (a / 64) true).poisoned a 4 = true ∧ (s.setPoison (a / 64) true).layerOf 0x1000 = some l := by
  decide +kernel

theorem met_apply : let l := layerIn .ready [(0, 32)] [0, 1]
    (armed l).noteReady.applyDue l = true ∧ (armed l).noteReady.turnNow l = true ∧ ((armed l).clipOf l).2.isSome = true := by
  decide +kernel

/-- An UPDATE that clips by its deferred norm, whose record holds the code x of the norm before. -/
def deferred (x : Nat) : State :=
  let l := layerIn .ready [(0, 32)] [0, 1]
  { place (armed l) 0x3800 64 (x * 2 ^ 32) with
    upds := [⟨3, 2, 2 ^ 30, [], 1, true, true, none⟩], ops := [blank 3 2 (dsc 0x30 5 [] [0, 2 ^ 30, 0, 0x3800, 0x3f800000]) (.engine 1)] }

theorem met_apply_nonfinite : let l := layerIn .ready [(0, 32)] [0, 1]
    (deferred 0x7f800000).noteReady.applyDue l = true ∧ (deferred 0x7f800000).noteReady.turnNow l = true ∧
    ((deferred 0x7f800000).clipOf l).2 = none := by
  decide +kernel

theorem met_outcome : let l := layerIn .applied [(0, 32)] [0, 1]
    (armed l).layerOf (0x1000 : BitVec 48).toNat = some l ∧ State.outcome l = 1 ∧
    State.outcome { l with fallback := true } = 4 ∧ State.outcome { l with sched := 2 ^ 54 } = 2 ∧
    State.outcome { l with nonfin := true } = 3 ∧ State.outcome { l with poison := true } = 6 ∧
    State.outcome { l with stale := true } = 7 := by
  decide +kernel

/-! The Sprigs. -/

/-- Sprig 5 running a program of macro-op 3. V1 lane l holds 1 + l/2, V2 a NaN in lane 0 and 2 in the others, V3 the
most negative zero, V4 9. S1 is 0x1000, S2 8, S3 0x1003, S4 0.5, S5 the last 128 bytes of the device space, S6 0, S7 its
end. -/
def sprig : Sprig := { State.sprigReset with
  v := Vector.ofFn fun r : Fin 32 => Vector.ofFn fun l : Fin 64 =>
    if r.val = 1 then (if l.val = 0 then 0x3f800000 else 0x3fc00000)
    else if r.val = 2 then (if l.val = 0 then 0x7fc00000 else 0x40000000)
    else if r.val = 3 then 0x80000000 else if r.val = 4 then 0x41100000 else 0
  s := Vector.ofFn fun r : Fin 32 =>
    if r.val = 1 then 0x1000 else if r.val = 2 then 8 else if r.val = 3 then 0x1003 else if r.val = 4 then 0x3f000000
    else if r.val = 5 then 2 ^ 41 - 128 else if r.val = 7 then 2 ^ 41 else 0
  p := Vector.ofFn fun r : Fin 8 => if r.val = 2 then 1 else 0
  job := some (.program 3) }

def onSprig (y : Sprig) : State := { base with
  sprigs := base.sprigs.set 5 y, ops := [blank 3 2 (dsc 0x31 5 [] []) (.engine 1)] }

theorem met_sprig : (onSprig sprig).sprigRuns 5 = true ∧ (sprigNow (onSprig sprig) ⟨5, []⟩).job = some (.program 3) := by
  decide +kernel

theorem met_sprig_jobs : (sprigNow (onSprig { sprig with job := some (.chunk 0x1000 0) }) ⟨5, []⟩).job = some (.chunk 0x1000 0) ∧
    (sprigNow (onSprig { sprig with job := some (.apply 0x1000) }) ⟨5, []⟩).job = some (.apply 0x1000) := by
  decide +kernel

/-- Every page from 0x1000 on that 64 lanes reach is mapped and outside every window. -/
theorem plain_low (a n : Nat) (h : a + n ≤ 2 ^ 20) : plainRange (onSprig sprig) a n := by
  refine ⟨by unfold resPage; omega, fun b _ hb => ?_⟩
  have hp : b / 2 ^ 18 < 4 := by omega
  generalize b / 2 ^ 18 = p at hp
  have : ∀ q : Fin 4, (onSprig sprig).isMapped q.val = true ∧ (onSprig sprig).windowOf q.val = none := by decide +kernel
  exact this ⟨p, hp⟩

theorem met_load : (sprigNow (onSprig sprig) ⟨5, []⟩).l1 = [] ∧ (onSprig sprig).sprigApply 5 = none ∧
    (∀ l : Fin 64, plainRange (onSprig sprig) ((0x1000 + 8 * l.val) % 2 ^ 64) 4) ∧ (onSprig sprig).poisoned 0x1000 512 = false :=
  ⟨by decide +kernel, by decide +kernel, fun l => plain_low _ _ (by omega), by decide +kernel⟩

theorem met_acquire : let x := sprigNow (onSprig sprig) ⟨5, []⟩
    x.s[(1 : Fin 32)].toNat % 8 = 0 ∧ plainRange (onSprig sprig) 0x1000 8 ∧ x.s[(3 : Fin 32)].toNat % 4 ≠ 0 ∧
    x.s[(7 : Fin 32)].toNat % 8 = 0 ∧ spaceEnd < x.s[(7 : Fin 32)].toNat + 8 ∧ x.s[(5 : Fin 32)].toNat + 128 ≤ spaceEnd ∧
    spaceEnd < x.s[(7 : Fin 32)].toNat + 128 :=
  ⟨by decide +kernel, plain_low _ _ (by omega), by decide +kernel, by decide +kernel, by decide +kernel, by decide +kernel,
    by decide +kernel⟩

/-- Lane 32 of a load or store from S5 lies beyond the device space. -/
theorem met_beyond : let x := sprigNow (onSprig sprig) ⟨5, []⟩
    x.active none 32 = true ∧ ((onSprig sprig).sprigDo ⟨5, []⟩ id).noPlace 5 true 4 ((x.s[(5 : Fin 32)].toNat + 4 * 32) % 2 ^ 64) = true ∧
    spaceEnd < (x.s[(5 : Fin 32)].toNat + 4 * 32) % 2 ^ 64 + 4 := by
  decide +kernel

/-! Memory's engines and errors. -/

/-- Page 0 in the deep tier, 1 and 3 near, 2 in the Tile Store, with a migration. -/
def tiered (ms : List Mig) : State :=
  let e (h : Nat) : TierEnt := { TierEnt.unmapped with state := .mapped, home := h, nframe := 5, dframe := 6, heat := 9, touch := 3 }
  { owned with ms := { owned.ms with
    tier := [(0, e 2), (1, e 1), (2, e 0), (3, { e 1 with shadow := true, lock := true })], migs := ms } }

theorem met_swing : (tiered [⟨0, 1, 77, false⟩]).memUp = true ∧ (tiered []).quench = false ∧ (tiered []).ms.wants = [] ∧
    (tiered []).windowOf 0 = none ∧ (tiered []).windowOf 3 = none ∧ 77 < (tiered []).partFirst 0 ∧
    (tiered [⟨0, 1, 77, false⟩]).ms.migs.find? (·.page == 0) = some ⟨0, 1, 77, false⟩ ∧
    (tiered [⟨3, 2, 77, true⟩]).ms.migs.find? (·.page == 3) = some ⟨3, 2, 77, true⟩ ∧
    (tiered [⟨1, 0, 77, false⟩]).ms.migs.find? (·.page == 1) = some ⟨1, 0, 77, false⟩ := by
  decide +kernel

/-- A GEMM published in ring 0 whose B lies in weight range 0. -/
def weights : State :=
  ring0 (mats (((mapped owned 4).wr Reg.MEM_WR_PAGES_PAGES 0 2).wrB Reg.MEM_WR_CTRL_EN 0 true) 0x1000
    [bf 0x1400 2 2, bf 0x1800 2 2, mdesc 0x1c00 0 64 2 2]) (dsc 0x01 79 [0x1000, 0x1080, 0x1100] [])

theorem met_fill : weights.running = true ∧
    ((State.nextReq (weights.fillReqs 0 (32 * bits weights.ms.part[(0 : Fin 2)].toNat 15 8))).any fun q =>
      decide ((weights.ms.fills[(0 : Fin 2)].map (·.units)).sum + fillUnits q.ivals ≤
        32 * bits weights.ms.part[(0 : Fin 2)].toNat 15 8)) = true := by
  decide +kernel

theorem met_scrub : let e : ErrLoc := ⟨0, .near 5, 3, some 1, false⟩
    (tiered []).memUp = true ∧ (tiered []).quench = false ∧ (tiered []).markedAt e = false ∧
    e.inMemory = true ∧ ({ e with place := .onDie (.imem 3) } : ErrLoc).inMemory = false ∧
    ((tiered []).setPoison (1 * 4096 + 3) true).markedAt e = true ∧
    (∀ m ∈ (tiered [⟨0, 1, 77, false⟩]).ms.migs, m.freeAfter = false) := by
  decide +kernel

theorem met_retrain : (tiered []).powered = true ∧ (tiered []).pw.memAsleep = false ∧ 3 ≤ (tiered []).stage ∧
    (tiered []).stage ≠ 5 ∧ (tiered []).rdB Reg.HRT_CLK_STATUS_REF_FALLBACK 0 = false := by
  decide +kernel

/-! The transport. -/

/-- A DATA packet of eight bytes to device 5 with the given PSN, unit and epoch. -/
def packet (psn : Word) (unit epoch : BitVec 16) : Packet := {
  fcsOk := true, udpOk := true, badType := false, srcIp := 6, crcOk := true, vid := 0, bytes := 100, ce := false, ver := 1, cls := 1, last := true, poison := false
  epoch := epoch, srcDev := 9, dstDev := 5, psn := psn, opId := 7, offset := 0, unit := unit, aux := 8, code := 0, tag := 0
  addr := 0x1000, data := [1, 2, 3, 4, 5, 6, 7, 8] }

/-- Device 5 with ports 0 and 4 up. -/
def device : State := (up (up (mapped owned 4) 0) 4).wr Reg.NET_DEV_ID_DEV_ID 0 5

theorem met_packet : let u := (device.inc Reg.NET_RX_FRAMES_COUNT 0 1).frameWake
    Accepted device 0 (packet 0 87 0) ∧ Fresh u (packet 0 87 0) ∧
    (u.rxOf 9 1).above.length < 2 ^ 30 ∧ u.recFull (packet 0 0 0) = false ∧ u.dataOut 0 0x1000 8 = false := by
  unfold Accepted Fresh
  decide +kernel

/-- A collective of slot 0 over group 0 that expects the packet's operation. -/
def coll : Coll := ⟨3, false, 0, 0, 7, 2, 0, 1, false, 0x1000, 0x2000, 64, 0, 0, 0, 0, [], [], false⟩


theorem met_reduce : ({ device with net := { device.net with colls := [coll] } } : State).collOf (packet 0 0 0) = some coll ∧
    device.collOf (packet 0 0 0) = none ∧ device.collIssued (packet 0 0 0) = false ∧
    ({ device with net := { device.net with seqs := [(0, 8)] } } : State).collIssued (packet 0 0 0) = true ∧
    ({ device with net := { device.net with seqs := [(0, 8)] } } : State).collOf (packet 0 0 0) = none := by
  decide +kernel

theorem met_turned_away : device.rdB Reg.NET_PORT_STATUS_LINK (1 : Fin 8) = false ∧
    Accepted device 0 (packet 0 88 0) ∧ 88 ≤ (packet 0 88 0).unit.toNat ∧ Accepted device 0 (packet 0 87 1) ∧
    (packet 0 87 1).epoch.toNat ≠ device.rd Reg.NET_EPOCH_EPOCH (packet 0 87 1).unit.toNat ∧
    State.performed (device.rxOf 9 1) 0 = false ∧
    State.performed ((after (.dataReceive 0 (packet 0 0 0)) device).rxOf 9 1) 0 = true ∧
    device.rd Reg.NET_PORT_CFG_VID (0 : Fin 8) = 0 ∧ (packet 0 0 0).dstDev.toNat = device.rd Reg.NET_DEV_ID_DEV_ID 0 := by
  unfold Accepted
  decide +kernel

/-- Three packets to device 9 unanswered in class 1. -/
def sent1 : OutPkt := { own := 3, dst := 9, cls := 1, kind := 0, last := true, poison := false, epoch := 0, opId := 4, offset := 0
                        unit := 1, aux := 8, code := 0, tag := 0, addr := 64, data := [1], src := 5, peer := 0 }

def unanswered : State := { device with net := { device.net with
  conns := [{ dev := 5, dst := 9, cls := 1, next := 3, una := [⟨0, 0, sent1, 0, false⟩, ⟨1, 0, sent1, 0, false⟩, ⟨2, 0, sent1, 0, true⟩]
              wait := [], unreach := false, turn := 0 }]
  rates := [(9, 1000)] } }

/-- An ACK that covers PSN 0 and 1. -/
def ackPacket : Packet := { packet 0 0 0 with aux := 1, data := [] }

theorem met_ack : Accepted unanswered 0 ackPacket ∧ ofBytes (ackPacket.data.take 8) = 0 ∧ bit ackPacket.code.toNat 0 = false ∧
    (unanswered.connOf 9 1).wait = [] := by
  unfold Accepted
  decide +kernel

theorem met_ce_echo : let k := { ackPacket with code := 1 }
    let u := (unanswered.inc Reg.NET_RX_FRAMES_COUNT 0 1).frameWake
    Accepted unanswered 0 k ∧ bit k.code.toNat 0 = true ∧ (u.connOf 9 1).wait = [] ∧ u.net.halved.contains 9 = false := by
  unfold Accepted
  decide +kernel

theorem met_nak : Accepted unanswered 0 { ackPacket with code := 3, psn := 1 } ∧
    (unanswered.connOf 9 1).una.find? (·.psn == (1 : Word).toNat) = some ⟨1, 0, sent1, 0, false⟩ ∧
    unanswered.mayTransmit = true := by
  unfold Accepted
  decide +kernel

theorem met_rto : (unanswered.connWith 9 1 2).una.find? (·.psn == (2 : Word).toNat) = some ⟨2, 0, sent1, 0, true⟩ ∧
    unanswered.mayTransmit = true := by
  decide +kernel

theorem met_ackTimer : ((after (.dataReceive 0 (packet 0 0 0)) device).rxOf 9 1).fresh ≠ 0 := by decide +kernel

/-- Queue pair 7 over a window of 0x100 bytes at 0x1000, with requests outstanding. -/
def pairArgs : QpArgs := ⟨7, 1, 0x1000, 0x100, 1024, 4, 5, 0, 3, 4, 8, 2⟩
def pair (out : List RoceOut) : Qp := ⟨pairArgs, 3, 4, false, out, 1000⟩
def paired (out : List RoceOut) : State := { device with net := { device.net with qps := [(7, some (pair out))] } }
def outstanding (tries : Nat) : RoceOut := ⟨5, 3, 0, false, 0, 8, .roce 7 0 0 0 0 0 [], tries, (1, 0)⟩

/-- A request at the last byte of the window. -/
def request (addr : BitVec 48) : RoceReq := ⟨4, 0, 100, true, false, 7, 4, 8, addr, 1, [1]⟩

theorem met_roce : (paired []).memUp = true ∧ (paired []).quench = false ∧
    (paired []).rdB Reg.NET_PORT_STATUS_LINK (request 0x10ff).port = true ∧
    (request 0x10ff).vid.toNat = (paired []).rd Reg.NET_PORT_CFG_VID (request 0x10ff).port ∧
    (paired []).qpOf (request 0x10ff).qp.toNat = some (pair []) ∧ (pair []).err = false ∧ (request 0x10ff).rkey = pairArgs.rkey ∧
    (request 0x10ff).addr.toNat + 1 ≤ pairArgs.base.toNat + pairArgs.bytes.toNat ∧
    ¬(request 0x1100).addr.toNat + 1 ≤ pairArgs.base.toNat + pairArgs.bytes.toNat ∧
    ((request 0).psn.toNat + 2 ^ 24 - (pair []).rq) % 2 ^ 24 = 0 ∧
    2 ^ 23 ≤ (({ request 0 with psn := 3 } : RoceReq).psn.toNat + 2 ^ 24 - (pair []).rq) % 2 ^ 24 ∧
    (({ request 0 with psn := 5 } : RoceReq).psn.toNat + 2 ^ 24 - (pair []).rq) % 2 ^ 24 = 1 := by
  decide +kernel

theorem met_roce_received : let u := ((paired []).inc Reg.NET_RX_FRAMES_COUNT 4 1).frameWake
    u.memUp = true ∧ u.quench = false ∧ u.qpOf 7 = some (pair []) := by
  decide +kernel

theorem met_cnp : let c : Cnp := ⟨4, 0, 9216, true, 7⟩
    (paired []).rdB Reg.NET_PORT_STATUS_LINK c.port = true ∧ c.bytes ≤ 9216 ∧ 4 ≤ c.port.val ∧
    c.vid.toNat = (paired []).rd Reg.NET_PORT_CFG_VID c.port ∧ (paired []).qpOf c.qp.toNat = some (pair []) := by
  decide +kernel

theorem met_roce_answer : (paired [outstanding 0]).qpOf (7 : Fin 256) = some (pair [outstanding 0]) ∧
    (pair [outstanding 0]).out = outstanding 0 :: [] ∧ (paired [outstanding 0]).ckptOf (outstanding 0).own = none ∧
    (paired [outstanding 0]).rdB Reg.NET_PORT_STATUS_LINK (4 : Fin 8) = true ∧ (outstanding 0).tries < pairArgs.retry.toNat ∧
    pairArgs.retry.toNat ≤ (outstanding 2).tries := by
  decide +kernel

/-- A CKPT_FILL whose entry waits for two reads of queue pair 7. -/
def filling : State := { paired [⟨5, 3, 0, true, 0x2000, 8, .roce 7 0 0 0 0 0 [], 0, (0, 0)⟩,
    ⟨6, 3, 0, true, 0x2008, 8, .roce 7 0 0 0 0 0 [], 0, (0, 0)⟩] with
  ops := [blank 3 0 (dsc 0x41 5 [] [7]) (.engine 3)]
  ckpts := [⟨3, 1, [⟨1, false, 0x2000, 64, 0, 0, [(0x2000, 64)], 0, false, false, []⟩], 0x2000, false⟩] }

theorem met_roce_read : let seen := (filling.inc Reg.NET_RX_FRAMES_COUNT 4 1).frameWake
    let freed := seen.setQp 7 (some (pair [⟨6, 3, 0, true, 0x2008, 8, .roce 7 0 0 0 0 0 [], 0, (0, 0)⟩]))
    seen.memUp = true ∧ seen.quench = false ∧ (seen.qpOf (7 : Fin 256)).isSome = true ∧ (freed.ckptOf 3).isSome = true ∧
    (freed.opOf 3).isSome = true := by
  decide +kernel

/-- A LAYER entry staged by a drain in flight. -/
def staged : CkEnt := ⟨1, false, 0x1000, 64, 0, 0, [(0x1000, 64)], 0, true, false, []⟩
def draining : State := { paired [] with
  ops := [blank 3 0 (dsc 0x41 5 [] [7]) (.engine 3)], ckpts := [⟨3, 0, [staged], 0x2000, false⟩] }

theorem met_holdRelease : (draining.ringOps 0)[0]? = some (blank 3 0 (dsc 0x41 5 [] [7]) (.engine 3)) ∧
    draining.ckptOf 3 = some ⟨3, 0, [staged], 0x2000, false⟩ ∧ [staged][0]? = some staged ∧ staged.kind = 1 ∧
    State.entWaits staged = true ∧ draining.memUp = true ∧ draining.quench = false := by
  decide +kernel

theorem met_arp : let s := device.wr Reg.NET_PORT_IP_IP 4 5
    s.rdB Reg.NET_PORT_STATUS_LINK (4 : Fin 8) = true ∧ s.quench = false ∧ tagOk s 4 none = true ∧
    s.rd Reg.NET_PORT_CFG_FAMILY (4 : Fin 8) = 0 ∧ s.rd Reg.NET_PORT_IP_IP (4 : Fin 8) = (5 : BitVec 32).toNat ∧
    (s.wr Reg.NET_PORT_CFG_FAMILY 4 1).rd Reg.NET_PORT_CFG_FAMILY (4 : Fin 8) = 1 := by
  decide +kernel

/-! Well-formedness: each check refuses a term that breaks it. -/

theorem test_wf_accepts : (Instr.hello hd).wellFormed = true ∧ (Instr.writeReg hd (List.replicate 124 (0, 0))).wellFormed = true := by
  decide +kernel

theorem test_wf_refuses_header : (Instr.hello { hd with ver := 16 }).wellFormed = false ∧
    (Instr.hello { hd with kind := 16 }).wellFormed = false ∧ (Instr.hello { hd with frameMb := 256 }).wellFormed = false := by
  decide

theorem test_wf_refuses_writeReg : (Instr.writeReg hd (List.replicate 125 (0, 0))).wellFormed = false := by decide +kernel

theorem test_wf_refuses_configWrite : (Instr.configWrite hd 0 0 (List.replicate 123 (0, 0))).wellFormed = false := by decide +kernel

theorem test_wf_refuses_fwStage : (Instr.fwStage hd 0 0 (List.replicate 961 0)).wellFormed = false := by decide +kernel

theorem test_wf_refuses_debugToken : (Instr.debugToken hd 0 0 (List.replicate 961 0)).wellFormed = false := by decide +kernel

theorem test_wf_refuses_doorbell : (Instr.doorbell 0 61 [0, 0, 0, 0]).wellFormed = false := by decide

theorem test_wf_refuses_packet : (Instr.dataReceive 0 { packet 0 0 0 with ver := 16 }).wellFormed = false ∧
    (Instr.msgReceive 0 { packet 0 0 0 with bytes := 65536 }).wellFormed = false ∧
    (Instr.reduceReceive 0 { packet 0 0 0 with data := List.replicate 8193 0 }).wellFormed = false ∧
    (Instr.ackReceive 0 { packet 0 0 0 with ver := 16 }).wellFormed = false ∧
    (Instr.nakReceive 0 { packet 0 0 0 with ver := 16 }).wellFormed = false := by
  decide +kernel

theorem test_wf_refuses_rdma : (Instr.rdmaWriteReceive { request 0 with data := List.replicate 4097 0 }).wellFormed = false ∧
    (Instr.rdmaReadReceive (request 0)).wellFormed = false := by
  decide +kernel

/-- No row of the table has bits: no word spells a command. -/
theorem test_no_words : decodeTableWord 8 0x5A = none ∧ State.reset.withFetchWord 8 0x5A = State.reset := ⟨rfl, rfl⟩

/-! Single steps. Expected values are those of the worked examples of spec/, of the published vectors of AES and SHA-256,
or calculated by hand. -/

/-- FIPS 197, appendix C.1's key and text in byte order: the first byte lies lowest. -/
theorem test_aes128 : aes128 (ofBytes (((List.range 16).map fun i => BitVec.ofNat 8 i)))
    (ofBytes (((List.range 16).map fun i => BitVec.ofNat 8 (17 * i)))) =
    ofBytes [0x69, 0xc4, 0xe0, 0xd8, 0x6a, 0x7b, 0x04, 0x30, 0xd8, 0xcd, 0xb7, 0x80, 0x70, 0xb4, 0xc5, 0x5a] := by
  decide +kernel

/-- FIPS 180-4: the digest of "abc" begins ba7816bf 8f01cfea. -/
theorem test_sha256 : (sha256 [0x61, 0x62, 0x63]).take 8 = [0xba, 0x78, 0x16, 0xbf, 0x8f, 0x01, 0xcf, 0xea] := by
  decide +kernel

/-- A narrow matrix: element format, scale encoding, block shape, scales at 0x200 and a zero map at 0x300 beyond its
base. -/
def narrow (base fmt senc blk axis rows cols pitch : Nat) : Nat :=
  mdesc base fmt pitch rows cols + senc * 2 ^ 68 + blk * 2 ^ 70 + axis * 2 ^ 73 + 2 ^ 75 +
    (base + 0x200) * 2 ^ 384 + 64 * 2 ^ 448 + 64 * 2 ^ 480 + (base + 0x300) * 2 ^ 512

/-- A MOVE of values of format src at 0x1400 into a narrow matrix of one row at 0x1800. -/
def quantised (flags src fmt senc blk cols : Nat) (values : Nat) : State :=
  after (.move 2) (place (holding (mats base 0x1000 [mdesc 0x1400 src 64 1 cols, narrow 0x1800 fmt senc blk 0 1 cols 64])
    (dsc (0x20 + flags) 85 [0x1000, 0x1080] [])) 0x1400 (4 * cols) values)

/-- spec/03, "Worked blocks": the ragged E4M3 block takes scale 0x81 and codes 78 B5 00 68 00. -/
theorem test_e4m3_block : let s := quantised 0 0 3 1 0 5 (0x447A0000 + 0xC0533333 * 2 ^ 32 + 0x437A8000 * 2 ^ 96 + 0x3A83126F * 2 ^ 128)
    s.peek 0x1800 5 = 0x006800B578 ∧ s.peek 0x1A00 1 = 0x81 ∧ s.peek 0x1B00 1 = 0 := by
  decide +kernel

/-- spec/03, "Worked blocks": the E2M1 block under HS8 takes scale 0x80 and the word 0x0000_0000_0590_13E7. -/
theorem test_e2m1_block : let s := quantised 0 0 7 2 0 16 (0x41000000 + 0xC0A00000 * 2 ^ 32 + 0x40000000 * 2 ^ 64 +
      0x3F400000 * 2 ^ 96 + 0x3E800000 * 2 ^ 128 + 0xBF800000 * 2 ^ 160 + 0x40880000 * 2 ^ 192)
    s.peek 0x1800 8 = 0x059013E7 ∧ s.peek 0x1A00 1 = 0x80 := by
  decide +kernel

/-- spec/04, R120's example: heritage scale choice takes scale 0x80 for an amax of 1,000 and writes code 0x7E. -/
theorem test_heritage_block : let s := quantised 2048 1 3 1 1 1 0x447A
    s.peek 0x1800 1 = 0x7E ∧ s.peek 0x1A00 1 = 0x80 := by
  decide +kernel

/-- spec/04, "Two tilings, one result": the chunks 2^24, 1 and 1 give 0x4B80_0000. -/
def chunked : State :=
  let s := holding (mats base 0x1000 [narrow 0x4000 3 1 1 0 1 96 128, narrow 0x8000 3 1 1 1 96 1 1, mdesc 0x1c00 0 64 1 1])
    (dsc 1 79 [0x1000, 0x1080, 0x1100] [])
  let v := 0x38 * 2 ^ 40 + 0x38 * 2 ^ 320 + 0x38 * 2 ^ 560
  let s := place (place (place s 0x4000 96 v) 0x8000 96 v) 0x4200 3 0x7F7F8B
  place (place (place s 0x8200 1 0x8B) 0x8240 1 0x7F) 0x8280 1 0x7F

theorem test_chunks : ((after (.tileStart ⟨0, []⟩) (after (.gemm 2) chunked)).anv[(0 : Fin 4)].array.map (·.acc)) = some [[0x4B800000]] := by
  decide +kernel

/-- R59 and R118: a cell off by one grid unit in a chunk fails its row and its column, and a checksum cell off its
column. -/
theorem test_check : let find (f : CellFault) :=
      (after (.tileStart ⟨0, [f]⟩) (after (.gemm 2) chunked)).anv[(0 : Fin 4)].array.map (·.find)
    find ⟨0, 0, 1, 1⟩ = some ⟨[0], [0], false⟩ ∧ find ⟨512, 0, 1, 1⟩ = some ⟨[], [0], false⟩ := by
  decide +kernel

/-- R246: 1.5 + 2 = 3.5 in lane 1, a NaN operand gives the canonical NaN in lane 0, and lane 2 of register 7 is written
too. -/
theorem test_fadd : let y := (after (.fadd ⟨5, []⟩ 7 1 2 none) (onSprig sprig)).sprigs[(5 : Fin 24)]
    y.v[(7 : Fin 32)][(1 : Fin 64)] = 0x40600000 ∧ y.v[(7 : Fin 32)][(0 : Fin 64)] = 0x7FC00000 ∧
    y.v[(7 : Fin 32)][(2 : Fin 64)] = 0x40600000 := by
  decide +kernel

/-- Only lane 0 is active under P2: 1.0 - 9.0 = -8.0 there, and lane 1 stays 0. -/
theorem test_fsub_predicate : let y := (after (.fsub ⟨5, []⟩ 7 1 4 (some 2)) (onSprig sprig)).sprigs[(5 : Fin 24)]
    y.v[(7 : Fin 32)][(0 : Fin 64)] = 0xC1000000 ∧ y.v[(7 : Fin 32)][(1 : Fin 64)] = 0 := by
  decide +kernel

/-- 1.5 × 2 + 9 = 12; 1.5 / 2 = 0.75; √9 = 3; 1/√9 = 1/3 rounded to nearest even. -/
theorem test_fma_div_roots : let s := onSprig sprig
    (after (.fma ⟨5, []⟩ 7 1 2 4 none) s).sprigs[(5 : Fin 24)].v[(7 : Fin 32)][(1 : Fin 64)] = 0x41400000 ∧
    (after (.fdiv ⟨5, []⟩ 7 1 2 none) s).sprigs[(5 : Fin 24)].v[(7 : Fin 32)][(1 : Fin 64)] = 0x3F400000 ∧
    (after (.fsqrt ⟨5, []⟩ 7 4 none) s).sprigs[(5 : Fin 24)].v[(7 : Fin 32)][(1 : Fin 64)] = 0x40400000 ∧
    (after (.frsq ⟨5, []⟩ 7 4 none) s).sprigs[(5 : Fin 24)].v[(7 : Fin 32)][(1 : Fin 64)] = 0x3EAAAAAB := by
  decide +kernel

/-- FRED of 1 and 63 times 1.5 is 95.5. -/
theorem test_fred : (after (.fred ⟨5, []⟩ 9 1 none) (onSprig sprig)).sprigs[(5 : Fin 24)].s[(9 : Fin 32)] = 0x42BF0000 := by
  decide +kernel

/-- A store of lane 0 only, and a misaligned LDACQ that ends the program with BOUND_ERR, detail 6. -/
theorem test_vst_ldacq : let s := onSprig sprig
    (after (.vst ⟨5, []⟩ .fp32 2 1 (some 2)) s).peek 0x1000 8 = 0x7FC00000 ∧
    (after (.ldacq ⟨5, []⟩ false 1 8 3) s).sprigs[(5 : Fin 24)].job = none ∧
    (after (.ldacq ⟨5, []⟩ false 1 8 3) s).ops.map (fun o => (o.flags, o.detail)) = [(8, 6)] := by
  decide +kernel

/-- A SIGNAL that writes 5 makes its flag read 5 (R317). -/
theorem test_signal : (after (.signal 2) (holding base (dsc 0x38 91 [] [0x1000, 5, 3]))).peek 0x1000 8 = 5 := by decide +kernel

/-- DATA lands byte for byte in little-endian order (R345, R9). -/
theorem test_data : (after (.dataReceive 0 (packet 0 0 0)) device).peek 0x1000 8 = 0x0807060504030201 := by decide +kernel

/-- POWER_ON with ADDR_SEL 5: static address 0x3D, valid (R366). -/
theorem test_powerOn : (after (.powerOn 5 2) State.reset).rd Reg.HRT_I3C_SA 0 = 0x3D ∧
    (after (.powerOn 5 2) State.reset).rdB Reg.HRT_I3C_SA_VALID 0 = true := by
  decide +kernel

/-- A wake count saturates at 255 (R419). -/
theorem test_wake_saturates : (after (.wake 4) ((asleep 2).wr Reg.HRT_WAKE_CNT_COUNT 0 0xFF000001)).rd Reg.HRT_WAKE_CNT_COUNT 0 =
    0xFF000001 := by
  decide +kernel

/-- SET_CAP 449 leaves the cap, 450 writes it (R409). -/
theorem test_setCap : (after (.setCap hd 449) owned).rd Reg.PWR_CAP_WATTS 0 = owned.rd Reg.PWR_CAP_WATTS 0 ∧
    (after (.setCap hd 450) owned).rd Reg.PWR_CAP_WATTS 0 = 450 := by
  decide +kernel

/-- A doorbell of 16 in a ring of 16 entries is taken and one of 17 is counted (R126). -/
theorem test_doorbell : (after (.doorbell 0 0 [16, 0, 0, 0]) fenceRing).rd Reg.STR_RING_TAIL_COUNT (0 : RingId) = 16 ∧
    (after (.doorbell 0 0 [17, 0, 0, 0]) fenceRing).rd Reg.STR_RING_TAIL_COUNT (0 : RingId) = 1 ∧
    (after (.doorbell 0 0 [17, 0, 0, 0]) fenceRing).rd Reg.STR_RING_STAT_BADDB (0 : RingId) = 1 := by
  decide +kernel

end Sys2Proof.Tests
end

section
/-!
Register writes by another than the owner (R16): what settling the status fields leaves as it was, what a refused write
does, and how a request that reaches Kalec runs.
-/
namespace Sys2Proof.Machine.State

open Sys2Proof.Safety

/-! Fields written with the value that they hold. -/

theorem putBits_current {x hi lo v : Nat} (h : v % 2 ^ (hi + 1 - lo) = bits x hi lo) : putBits x hi lo v = x := by
  have hb : bits x hi lo * 2 ^ lo ≤ x := by
    rw [bits_eq]
    exact (Nat.mul_le_mul_right _ (Nat.mod_le _ _)).trans (Nat.div_mul_le_self x _)
  rw [putBits, h]; omega

/-- Words set to what s holds there, in a state whose words are those of s. -/
theorem word_setWordsAt_wordsAt {s t : State} (ht : ∀ b, t.word b = s.word b) (a n b : Nat) :
    (t.setWordsAt a n (s.wordsAt a n)).word b = s.word b := by
  induction n generalizing t a with
  | zero => exact ht b
  | succ n ih =>
    have hlt := (s.word a).isLt
    have hlow : BitVec.ofNat 32 (s.wordsAt a (n + 1)) = s.word a := by
      apply BitVec.eq_of_toNat_eq
      rw [BitVec.toNat_ofNat, wordsAt]; omega
    have hrest : s.wordsAt a (n + 1) / 2 ^ 32 = s.wordsAt (a + 4) n := by rw [wordsAt]; omega
    rw [setWordsAt, hlow, hrest]
    refine ih (fun c => ?_) _
    by_cases hc : c = a
    · rw [hc, word_setWord_same]
    · rw [word_setWord_other _ _ hc, ht]

theorem word_wr_current {s : State} {f : Field} {i v : Nat} (hf : 0 < f.len) (h : v % 2 ^ f.len = s.rd f i) (a : Nat) :
    (s.wr f i v).word a = s.word a := by
  have e : f.lo % 32 + f.len - 1 + 1 - f.lo % 32 = f.len := by omega
  rw [wr, putBits_current (by rw [e, h, rd_eq_bits _ _ _ hf]), word_setWordsAt_wordsAt fun _ => rfl]

theorem rd_eq_b2n (s : State) {f : Field} (i : Nat) (h : f.len = 1) : s.rd f i = b2n (s.rdB f i) := by
  have hlt := s.rd_lt f i
  rw [h] at hlt
  have h01 : s.rd f i = 0 ∨ s.rd f i = 1 := by omega
  rw [rdB]
  rcases h01 with h | h <;> rw [h] <;> rfl

/-- A state t reads as s: in every word of the control space, and the same beside it. The control space itself may differ
in form, since a sparse store need not be canonical. -/
structure ReadsAs (s t : State) : Prop where
  rest  : t.noCtl = s.noCtl
  words : ∀ a, t.word a = s.word a

namespace ReadsAs

variable {s t : State}

theorem refl (s : State) : ReadsAs s s := ⟨rfl, fun _ => rfl⟩

theorem rd (h : ReadsAs s t) (f : Field) (i : Nat) : t.rd f i = s.rd f i := rd_congr fun a _ _ => h.words a

theorem wr (h : ReadsAs s t) {f : Field} {i v : Nat} (hf : 0 < f.len) (hv : v % 2 ^ f.len = s.rd f i) :
    ReadsAs s (t.wr f i v) :=
  ⟨(wr_noCtl ..).trans h.rest, fun a => (word_wr_current hf (hv.trans (h.rd f i).symm) a).trans (h.words a)⟩

theorem wrB (h : ReadsAs s t) {f : Field} {i : Nat} {b : Bool} (hf : f.len = 1) (hb : b = s.rdB f i) :
    ReadsAs s (t.wrB f i b) := by
  refine h.wr (by omega) ?_
  rw [hb, ← rd_eq_b2n _ _ hf]
  exact Nat.mod_eq_of_lt (rd_lt ..)

end ReadsAs

/-! Status fields that already agree with the state: bringing them up to date changes no word. -/

theorem b2n_bit (x i : Nat) : b2n (bit x i) = x / 2 ^ i % 2 := by
  rw [bit, b2n, Nat.shiftRight_eq_div_pow]
  rcases Nat.mod_two_eq_zero_or_one (x / 2 ^ i) with h | h <;> rw [h] <;> rfl

theorem sum_bits_of_lt {x : Nat} (h : x < 2 ^ 8) : (List.range 8).foldl (fun y p => y + b2n (bit x p) * 2 ^ p) 0 = x := by
  simp only [b2n_bit, List.range_succ, List.range_zero, List.foldl_append, List.foldl_cons, List.foldl_nil, List.nil_append]
  omega

theorem links_of_follows {s : State} (hs : Follows s) : s.links % 2 ^ 8 = s.rd Reg.HRT_BOOT_LINKS 0 := by
  obtain ⟨-, -, -, -, hl, -⟩ := hs
  have hlt : s.rd Reg.HRT_BOOT_LINKS 0 < 2 ^ 8 := rd_lt ..
  have hsum : s.links = s.rd Reg.HRT_BOOT_LINKS 0 := by
    rw [← sum_bits_of_lt hlt, links]
    refine List.foldl_ext _ _ _ fun y p hp => ?_
    rw [rd_eq_b2n _ _ rfl, hl ⟨p, by simpa using hp⟩]
  rw [hsum, Nat.mod_eq_of_lt hlt]

/-- The peak stands where the trackers in use fit their field, which the peak then bounds. -/
theorem ReadsAs.settleTrk {s t : State} (h : ReadsAs s t) (hs : Follows s) {d : Fin 2} (hn : s.trackers d < 2 ^ 7) :
    ReadsAs s (t.settleTrk d) := by
  obtain ⟨huse, hpeak⟩ := hs.1 d
  have ht := trackers_of_noCtl h.rest d
  have hlt : s.rd Reg.STR_TRK_STATUS_PEAK d < 2 ^ 7 := rd_lt ..
  have h1 : ReadsAs s (t.wr Reg.STR_TRK_STATUS_IN_USE d (t.trackers d)) := h.wr (by decide) (by rw [ht]; exact huse.symm)
  refine h1.wr (by decide) ?_
  rw [h1.rd, ht, max_eq_right (by omega)]
  exact Nat.mod_eq_of_lt hlt

theorem ReadsAs.settleArmed {s t : State} (h : ReadsAs s t) (hs : Follows s) : ReadsAs s t.settleArmed := by
  obtain ⟨-, hw, he, -⟩ := hs
  have h1 : ReadsAs s (t.wr Reg.UPD_STATUS_ARMED_W 0 (t.armed 0)) :=
    h.wr (by decide) (by rw [armed_of_noCtl h.rest]; exact hw.symm)
  exact h1.wr (by decide) (by rw [armed_of_noCtl h.rest]; exact he.symm)

theorem readsAs_settle {s : State} (hs : Follows s) (hn : ∀ d : Fin 2, s.trackers d < 2 ^ 7) : ReadsAs s s.settle := by
  have h1 := (((ReadsAs.refl s).settleTrk hs (hn 0)).settleTrk hs (hn 1)).settleArmed hs
  have hl := links_of_follows hs
  obtain ⟨-, -, -, hc, -, hi⟩ := hs
  have h2 := h1.wrB (f := Reg.UPD_STATUS_CLIP_WAIT) rfl ((clipHeld_of_noCtl h1.rest).trans hc.symm)
  have h3 := h2.wr (f := Reg.HRT_BOOT_LINKS) (by decide) ((congrArg (· % 2 ^ 8) (links_congr fun p => h2.rd _ _)).trans hl)
  exact h3.wr (by decide) ((congrArg (· % 2 ^ 3) (drains_of_noCtl h3.rest)).trans hi.symm)

theorem follows_writeStatus {s : State} (r : KStat) (h : Follows s) : Follows (s.writeStatus r) := by
  simp only [Follows, writeStatus_rd, writeStatus_rdB]; exact h

theorem word_done_writeStatus {s : State} (r : KStat) (q : List Instr) (hs : Follows s)
    (hn : ∀ d : Fin 2, s.trackers d < 2 ^ 7) (b : Nat) : ((s.writeStatus r).done q).word b = s.word b := by
  rw [word_done, (readsAs_settle (follows_writeStatus r hs) hn).words, writeStatus_word]

/-! A register write refused. -/

theorem regWrite_refused {s : State} {w : Writer} {a v : Nat} {f : State → State × KStat} (hp : s.pathUp w = true)
    (hm : s.mayWrite w = false) : s.regWrite w a v f = s.refuseWrite w a := by
  simp [regWrite, hp, hm]

theorem refuseWrite_of_ne {s : State} {w : Writer} {a : Nat} (h : w ≠ .i3c) : s.refuseWrite w a = s.writeStatus .denied := by
  simp [refuseWrite, h]

theorem refuseWrite_noCtl (s : State) (w : Writer) (a : Nat) : (s.refuseWrite w a).noCtl = (s.writeStatus .denied).noCtl := by
  rw [refuseWrite]
  split
  · exact incSat_noCtl ..
  · rfl

/-- The word of BADFRAME of mailbox 0 is the only one that a refused write may change, one over I3C (R367). -/
theorem refuseWrite_word (s : State) (w : Writer) (a b : Nat) (h : w = .i3c → b ≠ 0x010000) :
    (s.refuseWrite w a).word b = s.word b := by
  by_cases hw : w = .i3c
  · have hb : b ∉ [0x010000] := by simpa using h hw
    rw [refuseWrite]
    split
    · exact word_wr_listed hb (by decide)
    · rfl
  · rw [refuseWrite_of_ne hw, writeStatus_word]

end Sys2Proof.Machine.State

namespace Sys2Proof.Machine

open State Sys2Proof.Safety

/-- Every command that writes a register does it as a register write by its writer. -/
theorem exec_of_writes {c : Instr} {w : Writer} {a : Nat} (s : State) (h : writes c = some (w, a)) :
    ∃ v f, exec c s = act s (s.regWrite w a v f) := by
  cases c <;> cases h <;> exact ⟨_, _, rfl⟩

theorem exec_refused {c : Instr} {w : Writer} {a : Nat} {s : State} (hw : writes c = some (w, a)) (hp : s.pathUp w = true)
    (hm : s.mayWrite w = false) : exec c s = .next ((s.refuseWrite w a).done s.pending) := by
  obtain ⟨v, f, he⟩ := exec_of_writes s hw
  rw [he, regWrite_refused hp hm, act_next]

end Sys2Proof.Machine
end

section
/-!
Requests that reach Kalec (R369 to R374): what their arrival leaves as it was, and that they run at once.
-/
namespace Sys2Proof.Machine.State

open Sys2Proof.Safety

/-! The request that a command makes. -/

@[simp] theorem kReq_hdr (h : KHdr) (c : KCmd) : (kReq h c).hdr = h := by
  rw [kReq]
  split
  · split <;> rfl
  · rfl

@[simp] theorem kPlain_code (q : Req) : (kPlain q).code = q.code := by rw [kPlain]; split <;> rfl

@[simp] theorem kPlain_cmd (q : Req) : (kPlain q).cmd = q.cmd := by rw [kPlain]; split <;> rfl

@[simp] theorem ask_mbox (h : KHdr) (c : KCmd) : (ask h c).hdr.mbox = h.mbox := by
  rw [ask, kPlain]
  split <;> simp

theorem code_of_kCheck {q : Req} (h : kCheck q = none) : (anyCodes.contains q.code || ownerCodes.contains q.code) = true := by
  by_contra hno
  rw [Bool.not_eq_true] at hno
  simp only [kCheck, hno, Bool.not_false, Bool.or_true, Bool.true_or, if_true] at h
  split at h <;> cases h

/-- A request that passes the checks before the owner's is of its command: a reserved CMD fails them (R373). -/
theorem ask_of_kCheck {h : KHdr} {c : KCmd} (hc : kCheck (ask h c) = none) :
    (ask h c).code = kCode c ∧ (ask h c).cmd = some c := by
  have hcode := code_of_kCheck hc
  simp only [ask, kPlain_code, kPlain_cmd, kReq] at hcode ⊢
  split
  next x hx =>
    simp only [hx] at hcode
    split at hcode
    case isTrue hin => rw [if_pos hin]; exact ⟨rfl, rfl⟩
    case isFalse hout => exact absurd hcode hout
  next => exact ⟨rfl, rfl⟩

/-! The arrival. -/

/-- Whether a field is none of those that a request's arrival writes: frames received, and the sender and state of a mailbox. -/
def apartFromArrival (f : Field) (i : Nat) : Bool :=
  decide ((∀ p : Fin 8, apart Reg.NET_RX_FRAMES_COUNT p f i = true) ∧
    ∀ m : Fin 16, apart Reg.KAL_MB_AGENT_AGENT_ID m f i = true ∧ apart Reg.KAL_MB_STATUS_STATE m f i = true)

/-- A state with a request's datagram counted as a frame received (R370). -/
def counted (s : State) (h : KHdr) : State :=
  if 2 ≤ h.mbox.val then s.inc Reg.NET_RX_FRAMES_COUNT h.port 1 else s

theorem counted_noCtl (s : State) (h : KHdr) : (s.counted h).noCtl = s.noCtl := by
  rw [counted]; split <;> simp

theorem counted_kal (s : State) (h : KHdr) : (s.counted h).kal = s.kal := kal_of_noCtl (counted_noCtl s h)

theorem rd_counted (s : State) (h : KHdr) {f : Field} {i : Nat} (hf : apartFromArrival f i = true) :
    (s.counted h).rd f i = s.rd f i := by
  rw [counted]
  split
  · exact rd_wr_other _ _ ((of_decide_eq_true hf).1 h.port)
  · rfl

theorem arrived_eq (s : State) (h : KHdr) (c : KCmd) : arrived s h c =
    (((s.counted h).wr Reg.KAL_MB_AGENT_AGENT_ID h.mbox (ask h c).hdr.agent.toNat).modBox h.mbox
      fun b => { b with cur := some (ask h c), cut := none }).wr Reg.KAL_MB_STATUS_STATE h.mbox 1 := id rfl

theorem rd_arrived (s : State) (h : KHdr) (c : KCmd) {f : Field} {i : Nat} (hf : apartFromArrival f i = true) :
    (arrived s h c).rd f i = s.rd f i := by
  obtain ⟨ha, hs⟩ := (of_decide_eq_true hf).2 h.mbox
  rw [arrived_eq, rd_wr_other _ _ hs, modBox, rd_with_kal, rd_wr_other _ _ ha, rd_counted _ _ hf]

theorem arrived_pw (s : State) (h : KHdr) (c : KCmd) : (arrived s h c).pw = s.pw := by
  rw [arrived_eq, wr_pw, modBox]
  exact (wr_pw ..).trans (pw_of_noCtl (counted_noCtl s h))

theorem arrived_kal (s : State) (h : KHdr) (c : KCmd) : (arrived s h c).kal =
    { s.kal with boxes := s.kal.boxes.set h.mbox { s.kal.boxes[h.mbox] with cur := some (ask h c), cut := none } } := by
  rw [arrived_eq, wr_kal, modBox]
  simp only [wr_kal, counted_kal]

theorem isOwner_arrived (s : State) (h : KHdr) (c : KCmd) (a : DWord) (o : Word) :
    (arrived s h c).isOwner a o = s.isOwner a o := by
  simp only [isOwner, owned, ownerId, arrived_kal]
  rw [rd_arrived _ _ _ (by decide), rd_arrived _ _ _ (by decide)]

theorem kalecServes_iff (s : State) : s.kalecServes = true ↔ (s.powered = true ∧ 3 ≤ s.stage ∧ s.stage ≠ 5 ∧
    s.rd Reg.PWR_STATUS_STATE 0 ≠ 3) ∧ s.kal.restart = false ∧ s.kal.activate = none := by
  simp only [kalecServes, kalecUp, Bool.and_eq_true, Bool.not_eq_true', decide_eq_true_eq, Option.isNone_iff_eq_none, and_assoc,
    ge_iff_le]

theorem kHeld_none {s : State} (hr : s.kal.restart = false) (ha : s.kal.activate = none) : s.kHeld = none := by
  simp [kHeld, hr, ha]

/-- The state of a request's arrival with the request waiting. -/
def queued (s : State) (h : KHdr) (c : KCmd) : State :=
  { arrived s h c with kal := { (arrived s h c).kal with waiting := [ask h c] } }

variable {s : State} {h : KHdr} {c : KCmd}

/-- A request that reaches Kalec passes what stands before the mailboxes (R370, R373, R524). -/
theorem kArrive_of_reaches (hr : Reaches s h c) : s.kArrive (kReq h c) = (s.counted h).kServe (ask h c) := by
  obtain ⟨hsound, hserves, hstage, -, -, -, -, -, -, hudp⟩ := hr
  obtain ⟨⟨hpow, -, -, hawake⟩, -, -⟩ := (kalecServes_iff s).mp hserves
  have hpre : (s.counted h).preMemory = false := by
    have hst : (s.counted h).stage = 4 := (rd_counted _ _ (by decide)).trans hstage
    simp [preMemory, hst]
  by_cases hm : 2 ≤ h.mbox.val
  · obtain ⟨hlink, hport⟩ := hudp hm
    have hp : ¬ h.port.val < 4 := by omega
    simp only [counted, hm, if_true] at hpre ⊢
    simp [kArrive, hpow, hawake, hlink, hm, hp, hsound, hpre, ask]
  · simp only [counted, hm, if_false] at hpre ⊢
    simp [kArrive, hpow, hawake, hm, hsound, hpre, ask]

/-- A mailbox that is idle and keeps no response to a request takes it (R371, R373). -/
theorem kServe_of_reaches (hr : Reaches s h c) : (s.counted h).kServe (ask h c) = queued s h c := by
  obtain ⟨-, hserves, -, hwait, -, hcheck, hcur, hcut, hkept, -⟩ := hr
  obtain ⟨-, hrestart, hact⟩ := (kalecServes_iff s).mp hserves
  have hnow : ((s.counted h).wr Reg.KAL_MB_AGENT_AGENT_ID h.mbox (ask h c).hdr.agent.toNat).kal = s.kal :=
    (wr_kal ..).trans (counted_kal s h)
  have hheld : ((s.counted h).wr Reg.KAL_MB_AGENT_AGENT_ID h.mbox (ask h c).hdr.agent.toNat).kHeld = none :=
    kHeld_none (by rw [hnow, hrestart]) (by rw [hnow, hact])
  have hkeep : ((s.counted h).wr Reg.KAL_MB_AGENT_AGENT_ID h.mbox (ask h c).hdr.agent.toNat).kKept (ask h c) = none := by
    rw [← hkept]; simp only [kKept, hnow]
  have harr : (arrived s h c).kal.waiting = [] := by rw [arrived_kal]; exact hwait
  simp only [kServe, ask_mbox, counted_kal, hcur, hheld, hkeep, hcut, hcheck, hnow, hrestart]
  simp only [kEnter, ask_mbox, queued]
  rw [← arrived_eq, harr]
  simp

theorem mayRun_queued (hr : Reaches s h c) : (queued s h c).mayRun (ask h c) = true := by
  obtain ⟨-, hserves, hstage, -, hrun, -⟩ := hr
  obtain ⟨⟨hpow, h3, h5, hawake⟩, hrestart, hact⟩ := (kalecServes_iff s).mp hserves
  have hrd (f : Field) (i : Nat) (hf : apartFromArrival f i = true) : (queued s h c).rd f i = s.rd f i := by
    rw [queued, rd_with_kal, rd_arrived _ _ _ hf]
  have hst : (queued s h c).stage = s.stage := hrd _ _ (by decide)
  have hup : (queued s h c).kalecServes = true := by
    refine (kalecServes_iff _).mpr ⟨⟨?_, hst ▸ h3, hst ▸ h5, ?_⟩, ?_, ?_⟩
    · rw [powered, queued, arrived_pw]; exact hpow
    · rw [hrd _ _ (by decide)]; exact hawake
    · rw [queued, arrived_kal]; exact hrestart
    · rw [queued, arrived_kal]; exact hact
  have hidle : (queued s h c).kal.running = none := by rw [queued, arrived_kal]; exact hrun
  simp [mayRun, hup, hst, hstage, hidle]

/-- A request that reaches Kalec runs at once (R374). -/
theorem kRequest_of_reaches (hr : Reaches s h c) : s.kRequest h c = ((arrived s h c).kRun (ask h c)).slotSettle := by
  have harr : (arrived s h c).kal.waiting = [] := by
    obtain ⟨-, -, -, hwait, -⟩ := hr
    rw [arrived_kal]; exact hwait
  have htaken : ({ queued s h c with kal := { (queued s h c).kal with waiting := [] } } : State) = arrived s h c := by
    rw [queued, ← harr]
  have hfind : (queued s h c).kal.waiting.find? (queued s h c).mayRun = some (ask h c) :=
    List.find?_cons_of_pos (mayRun_queued hr)
  have hleft : (queued s h c).kal.waiting.filter (· != ask h c) = [] := by simp [queued]
  simp only [kRequest, kArrive_of_reaches hr, kServe_of_reaches hr]
  show kPump 1 (queued s h c) = _
  simp only [kPump, hfind, hleft, htaken]

/-! A request denied. -/

/-- An owner command of another than the owner is denied (R373 step 5). -/
theorem kRun_of_not_owner {q : Req} (hq : q.code ∈ ownerCodes) (ho : s.isOwner q.hdr.agent q.hdr.otok = false) :
    s.kRun q = s.answer q .denied [] := by
  simp [kRun, hq, ho]

@[simp] theorem frameOut_kal (s : State) (p : Fin 8) (o f : Frame) : (s.frameOut p o f).kal = s.kal := by
  simp only [frameOut, inc_kal]

@[simp] theorem sendFrame_kal (s : State) (p : Fin 8) (f : Frame) : (s.sendFrame p f).kal = s.kal := by
  simp only [sendFrame]
  split_ifs <;> simp

@[simp] theorem kSend_kal (s : State) (h : KHdr) (fr : List Byte) : (s.kSend h fr).kal = s.kal := by
  rw [kSend]; split <;> simp

theorem answer_running (s : State) (q : Req) (st : KStat) (pl : List Byte) : (s.answer q st pl).kal.running = s.kal.running := by
  rw [answer]
  split
  · simp only [respond, kSend_kal]
    split_ifs <;> simp [modBox, kal_of_noCtl (takeDseq_noCtl s)]
  · rfl

theorem slotSettle_of_idle (hi : s.kal.running = none) : s.slotSettle = s := by
  rw [slotSettle, hi]

end Sys2Proof.Machine.State

namespace Sys2Proof.Machine

open State Sys2Proof.Safety

/-- A request for an owner command by another than the owner is answered KS_DENIED and does nothing else. -/
theorem kRequest_of_not_owner {s : State} {h : KHdr} {c : KCmd} (hr : Reaches s h c) (hc : kCode c ∈ ownerCodes)
    (ho : s.isOwner (ask h c).hdr.agent (ask h c).hdr.otok = false) :
    s.kRequest h c = (arrived s h c).answer (ask h c) .denied [] := by
  have hrun := kRequest_of_reaches hr
  obtain ⟨-, -, -, -, hidle, hcheck, -⟩ := hr
  have hcode : (ask h c).code ∈ ownerCodes := by rw [(ask_of_kCheck hcheck).1]; exact hc
  rw [hrun, kRun_of_not_owner hcode ((isOwner_arrived ..).trans ho), slotSettle_of_idle]
  rw [answer_running, arrived_kal]
  exact hidle

theorem exec_writeReg_of_not_owner {s : State} {h : KHdr} {ws : List (Word × Word)} (hr : Reaches s h (.writeReg ws))
    (ho : s.isOwner (ask h (.writeReg ws)).hdr.agent (ask h (.writeReg ws)).hdr.otok = false) :
    exec (.writeReg h ws) s = .next (replied s (arrived s h (.writeReg ws)) h (.writeReg ws) .denied []) := by
  have hc : kCode (.writeReg ws) ∈ ownerCodes := by simp [kCode, ownerCodes]
  show act s (s.kRequest h (.writeReg ws)) = _
  rw [kRequest_of_not_owner hr hc ho, act_next, replied]

/-- Settles O8: a refused write leads to `refuseWrite`, of whose words only BADFRAME's can differ, and status fields that
already agree with the state read as before. -/
theorem otherAgentsWriteNothing : Obligations.OtherAgentsWriteNothing := by
  unfold Obligations.OtherAgentsWriteNothing
  refine ⟨fun c w a s hw hp hm => ⟨_, exec_refused hw hp hm, ?_, fun b hb hi => ?_, fun hs hn hi b => ?_⟩,
    fun s h ws hr ho => exec_writeReg_of_not_owner hr ho⟩
  · refine eq_of_noCtl (s := s.writeStatus .denied) ?_
    rw [done_noCtl, refuseWrite_noCtl]
    rfl
  · rw [done_word _ hb, refuseWrite_word s w a b hi]
  · rw [refuseWrite_of_ne hi, word_done_writeStatus .denied s.pending hs hn b]

end Sys2Proof.Machine
end

section
/-!
Registers that an access of memory leaves unchanged: it writes those of the memory system and of events, and a write to
the doorbell page those of a ring's TAIL and STAT (R125, R270, R306).
-/
namespace Sys2Proof.Machine.State

open Sys2Proof.Safety

/-- Whether a word holds neither a register of the memory system nor one that an event may change. -/
def beyondMem (b : Nat) : Prop := b / 0x10000 ≠ 7 ∧ b ∉ eventWords

/-- Whether a word lies beyond what a write to memory may change, doorbells among it. -/
def beyondStore (b : Nat) : Prop := beyondMem b ∧ ∀ r : RingId, b ≠ 0x02100C + 0x40 * r.val ∧ b ≠ 0x021018 + 0x40 * r.val

/-- What both branches keep, the choice keeps. -/
theorem ite_keeps {γ : Type} (g : State → γ) {s x y : State} (c : Prop) [Decidable c] (hx : g x = g s) (hy : g y = g s) :
    g (if c then x else y) = g s := by split <;> assumption

variable {b : Nat}

theorem word_wr_beyondMem (s : State) {f : Field} {i v : Nat} (hb : beyondMem b)
    (hf : 0x070000 ≤ fieldAddr f i ∧ fieldAddr f i + 4 * fieldWords f ≤ 0x080000) : (s.wr f i v).word b = s.word b := by
  obtain ⟨h7, -⟩ := hb
  exact word_wr_other _ _ (by omega)

theorem putBytes_word (s : State) (a : Nat) (bs : List Byte) : (s.putBytes a bs).word b = s.word b := by
  induction bs generalizing s a with
  | nil => rfl
  | cons x bs ih => rw [putBytes, ih, word_with_mem]

@[simp] theorem setPoison_word (s : State) (l : Nat) (on : Bool) : (s.setPoison l on).word b = s.word b := id rfl
@[simp] theorem unfill_word (s : State) (l : Nat) : (s.unfill l).word b = s.word b := id rfl
@[simp] theorem mergeLine_word (s : State) (l d m : Nat) : (s.mergeLine l d m).word b = s.word b := putBytes_word ..

@[simp] theorem deadLine_word (s : State) (l : Nat) (x : BitVec 512) (m : Bool) : (s.deadLine l x m).word b = s.word b := by
  rw [deadLine, unfill_word, setPoison_word, putBytes_word]

theorem unmappedAccess_word (s : State) (v : Via) (p : Nat) (hb : beyondMem b) :
    (s.unmappedAccess v p).word b = s.word b := by
  have hinc : (s.inc Reg.MEM_UNMAPPED_COUNT 0 1).word b = s.word b := word_wr_beyondMem _ hb (by decide)
  simp only [unmappedAccess]
  split
  · rw [raise_word _ _ _ _ _ _ hb.2, hinc]
  · exact hinc

theorem reservedWrite_word (s : State) (v : Via) (p : Nat) (hb : beyondMem b) :
    (s.reservedWrite v p).word b = s.word b := by
  have hinc : (s.inc Reg.MEM_RSV_WRITE_COUNT 0 1).word b = s.word b := word_wr_beyondMem _ hb (by decide)
  simp only [reservedWrite]
  split
  · rw [raise_word _ _ _ _ _ _ hb.2, hinc]
  · exact hinc

theorem ledgerUse_word (s : State) (d : Fin 2) (p : Nat) (hb : beyondMem b) : (s.ledgerUse d p).word b = s.word b := by
  simp only [ledgerUse]
  split
  · rfl
  · exact word_wr_beyondMem _ hb (by decide)

theorem mscAccess_word (s : State) (d : Fin 2) (h l : Nat) (w : Bool) (hb : beyondMem b) :
    (s.mscAccess d h l w).word b = s.word b := by
  have hhit : (s.inc Reg.MEM_MSC_HIT_COUNT 0 1).word b = s.word b := word_wr_beyondMem _ hb (by decide)
  have hmiss : (s.inc Reg.MEM_MSC_MISS_COUNT 0 1).word b = s.word b := word_wr_beyondMem _ hb (by decide)
  have hdead (t : State) : (t.inc Reg.MEM_MSC_DEAD_COUNT 0 1).word b = t.word b := word_wr_beyondMem _ hb (by decide)
  simp only [mscAccess]
  split
  · rfl
  · split
    · split
      · split
        · rw [deadLine_word, hdead]; exact hhit
        · exact hhit
      · exact hhit
    · exact ite_keeps (word · b) _ hmiss hmiss

theorem touchLine_word (s : State) (v : Via) (l : Nat) (w : Bool) (hb : beyondMem b) :
    (s.touchLine v l w).word b = s.word b := by
  unfold touchLine
  exact ite_keeps (word · b) _ ((mscAccess_word _ _ _ _ _ hb).trans (ledgerUse_word _ _ _ hb)) (ledgerUse_word _ _ _ hb)

theorem readLine_word (s : State) (v : Via) (l : Nat) (hb : beyondMem b) : (s.readLine v l).word b = s.word b := by
  simp only [readLine]
  split
  · rfl
  · split
    · rw [unmappedAccess_word _ _ _ hb, ledgerUse_word _ _ _ hb]
    · rw [touchLine_word _ _ _ _ hb]
      exact ite_keeps (word · b) _ (word_wr_beyondMem _ hb (by decide)) rfl

theorem readRange_word (s : State) (v : Via) (a n : Nat) (hb : beyondMem b) : (s.readRange v a n).word b = s.word b := by
  simp only [readRange]
  split
  · rfl
  · exact foldl_keeps (word · b) _ (fun s l => readLine_word s v l hb) _ _

theorem doorbellLine_word (s : State) (l d m : Nat) (hb : beyondStore b) : (s.doorbellLine l d m).word b = s.word b := by
  obtain ⟨⟨-, hev⟩, hring⟩ := hb
  have hbad (r : RingId) : (s.incSat Reg.STR_RING_STAT_BADDB r).word b = s.word b :=
    word_wr_ne _ _ (by have := hring r; simp [fieldAddr, fieldWords, Reg.STR_RING_STAT_BADDB]; omega)
  have htail (r : RingId) (t : Nat) : (s.wr Reg.STR_RING_TAIL_COUNT r t).word b = s.word b :=
    word_wr_ne _ _ (by have := hring r; simp [fieldAddr, fieldWords, Reg.STR_RING_TAIL_COUNT]; omega)
  simp only [doorbellLine]
  split
  case isFalse => rfl
  case isTrue hl =>
    refine ite_keeps (word · b) _ ?_ (hbad ⟨l, hl⟩)
    rw [doorbellValue]
    exact ite_keeps (word · b) _ (hbad _) (ite_keeps (word · b) _ (htail _ _) ((raise_word _ _ _ _ _ _ hev).trans (hbad _)))

theorem writeLine_word (s : State) (v : Via) (l d m : Nat) (r : Bool) (hb : beyondStore b) :
    (s.writeLine v l d m r).word b = s.word b := by
  have htouch : ((s.touchLine v l true).unfill l).word b = s.word b := touchLine_word _ _ _ _ hb.1
  have hcru {t : State} {f : Field} (w : Fin 16) (x : Nat) (hf : ∀ w : Fin 16, 0x070000 ≤ fieldAddr f w ∧
      fieldAddr f w + 4 * fieldWords f ≤ 0x080000) : (t.wr f w x).word b = t.word b := word_wr_beyondMem _ hb.1 (hf w)
  simp only [writeLine]
  refine ite_keeps (word · b) _ rfl (ite_keeps (word · b) _ (doorbellLine_word _ _ _ _ hb) (ite_keeps (word · b) _
    (reservedWrite_word _ _ _ hb.1) (ite_keeps (word · b) _ ?_ ?_)))
  · rw [unmappedAccess_word _ _ _ hb.1, ledgerUse_word _ _ _ hb.1]
  · split
    · refine ite_keeps (word · b) _ rfl (ite_keeps (word · b) _ ?_ (ite_keeps (word · b) _ htouch ?_))
      · rw [raise_word _ _ _ _ _ _ hb.1.2, wrB, hcru _ _ (by decide), incSat, hcru _ _ (by decide), htouch]
      · rw [mergeLine_word, inc, hcru _ _ (by decide), htouch]
    · exact ite_keeps (word · b) _ (by rw [setPoison_word, mergeLine_word, htouch]) (by rw [mergeLine_word, htouch])

theorem store_word (s : State) (v : Via) (a : Nat) (bs : List Byte) (hb : beyondStore b) :
    (s.store v a bs).word b = s.word b :=
  foldl_keeps (word · b) _ (fun (s : State) (x : Nat × Nat × Nat) => writeLine_word s v x.1 x.2.1 x.2.2 false hb) _ _

/-! Fields of registers under an access. -/

/-- Whether a field lies outside the words of the memory system and of events. -/
def quietMem (f : Field) (i : Nat) : Bool :=
  quiet f i && (decide (fieldAddr f i + 4 * fieldWords f ≤ 0x070000) || decide (0x080000 ≤ fieldAddr f i))

/-- Whether a field lies outside the words that a doorbell may change: TAIL and STAT of every ring. -/
def offDoorbells (f : Field) (i : Nat) : Prop := ∀ r : RingId,
  (fieldAddr f i + 4 * fieldWords f ≤ 0x02100C + 0x40 * r.val ∨ 0x021010 + 0x40 * r.val ≤ fieldAddr f i) ∧
    (fieldAddr f i + 4 * fieldWords f ≤ 0x021018 + 0x40 * r.val ∨ 0x02101C + 0x40 * r.val ≤ fieldAddr f i)

theorem beyondMem_of_quietMem {f : Field} {i : Nat} (h : quietMem f i = true) (h1 : fieldAddr f i ≤ b)
    (h2 : b < fieldAddr f i + 4 * fieldWords f) : beyondMem b := by
  simp only [quietMem, quiet, Bool.and_eq_true, List.all_eq_true, Bool.or_eq_true, decide_eq_true_eq] at h
  obtain ⟨hev, hmem⟩ := h
  exact ⟨by omega, fun hb => by have := hev b hb; omega⟩

theorem rd_readRange (s : State) (v : Via) (a n : Nat) {f : Field} {i : Nat} (h : quietMem f i = true) :
    (s.readRange v a n).rd f i = s.rd f i :=
  rd_congr fun _ h1 h2 => readRange_word s v a n (beyondMem_of_quietMem h h1 h2)

theorem rd_store (s : State) (v : Via) (a : Nat) (bs : List Byte) {f : Field} {i : Nat} (h : quietMem f i = true)
    (hd : offDoorbells f i) : (s.store v a bs).rd f i = s.rd f i :=
  rd_congr fun _ h1 h2 => store_word s v a bs ⟨beyondMem_of_quietMem h h1 h2, fun r => by have := hd r; omega⟩

/-! Memory itself under a read: only the dropping of a dirty line under the hint LAST_USE changes it (R289, R291). -/

@[simp] theorem ledgerUse_mem (s : State) (d : Fin 2) (p : Nat) : (s.ledgerUse d p).mem = s.mem := by
  simp only [ledgerUse]
  split
  · rfl
  · exact inc_mem ..

theorem mscAccess_mem (s : State) (d : Fin 2) {h : Nat} (l : Nat) (w : Bool) (hh : h ≠ 3) :
    (s.mscAccess d h l w).mem = s.mem := by
  have hhit := inc_mem s Reg.MEM_MSC_HIT_COUNT 0 1
  have hmiss := inc_mem s Reg.MEM_MSC_MISS_COUNT 0 1
  simp only [mscAccess, hh, decide_false, Bool.false_and, Bool.false_eq_true, if_false]
  split
  · rfl
  · split
    · exact hhit
    · exact ite_keeps State.mem _ hmiss hmiss

theorem readLine_mem (s : State) {v : Via} (l : Nat) (hv : v.hint ≠ 3) : (s.readLine v l).mem = s.mem := by
  have htouch (t : State) : (t.touchLine v l false).mem = t.mem := by
    unfold touchLine
    exact ite_keeps State.mem _ ((mscAccess_mem _ _ _ _ hv).trans (ledgerUse_mem ..)) (ledgerUse_mem ..)
  simp only [readLine]
  split
  · rfl
  · split
    · simp only [unmappedAccess]; split <;> simp
    · rw [htouch]; exact ite_keeps State.mem _ (inc_mem ..) rfl

theorem readRange_mem (s : State) {v : Via} (a n : Nat) (hv : v.hint ≠ 3) : (s.readRange v a n).mem = s.mem := by
  simp only [readRange]
  split
  · rfl
  · exact foldl_keeps State.mem _ (fun s l => readLine_mem s l hv) _ _

end Sys2Proof.Machine.State
end

section
/-!
Doorbells (R125, R126): a write of bytes within one line of the doorbell page is one write of that line, whose mask is a
whole first word exactly where four bytes stand at the line's start.
-/
namespace Sys2Proof.Machine.State

open Sys2Proof.Safety

theorem ofBytes_lt (bs : List Byte) : ofBytes bs < 2 ^ (8 * bs.length) := by
  induction bs with
  | nil => simp [ofBytes]
  | cons x bs ih =>
    have hx := x.isLt
    have e : 2 ^ (8 * (bs.length + 1)) = 2 ^ (8 * bs.length) * 256 := by rw [Nat.mul_add, pow_add]; rfl
    rw [ofBytes, List.length_cons, e]
    omega

/-- Bytes that stay within one line make one write of it. -/
theorem linesOf_within_line {a : Nat} {bs : List Byte} (hb : bs ≠ []) (h : a % 64 + bs.length ≤ 64) :
    linesOf a bs = [(a / 64, ofBytes bs * 2 ^ (8 * (a % 64)), (2 ^ (8 * bs.length) - 1) * 2 ^ (8 * (a % 64)))] := by
  have hpos : 0 < bs.length := List.length_pos_of_ne_nil hb
  have hn : bs.length ≠ 0 := by omega
  have hone : (a + bs.length - 1) / 64 + 1 - a / 64 = 1 := by omega
  have hlo : max a (64 * (a / 64)) = a := by omega
  have hhi : min (a + bs.length) (64 * (a / 64) + 64) = a + bs.length := by omega
  simp [linesOf, hn, hone, span, hlo, hhi]

/-- A mask of n bytes from byte i of a line is that of its first 32-bit word exactly for four bytes from byte 0. -/
theorem mask_eq_firstWord {n i : Nat} (hn : 0 < n) : (2 ^ (8 * n) - 1) * 2 ^ (8 * i) = 2 ^ 32 - 1 ↔ n = 4 ∧ i = 0 := by
  constructor
  · intro h
    obtain rfl | hi := Nat.eq_zero_or_pos i
    · have hpow : 2 ^ (8 * n) = 2 ^ 32 := by
        have := Nat.one_le_two_pow (n := 8 * n)
        simp only [Nat.mul_zero, pow_zero, Nat.mul_one] at h
        omega
      have := Nat.pow_right_injective (le_refl 2) hpow
      omega
    · obtain ⟨k, hk⟩ : 2 ∣ 2 ^ (8 * i) := dvd_pow_self 2 (by omega)
      rw [hk, Nat.mul_left_comm] at h
      omega
  · rintro ⟨rfl, rfl⟩
    rfl

/-- The bytes of a doorbell command that lie in its line (R125). -/
def doorbellBytes (off : Fin 64) (data : List Byte) : List Byte := data.take (64 - off.val)

theorem doorbellBytes_ne_nil {off : Fin 64} {data : List Byte} (h : data ≠ []) : doorbellBytes off data ≠ [] := by
  have := off.isLt
  have := List.length_pos_of_ne_nil h
  exact List.ne_nil_of_length_pos (by simp only [doorbellBytes, List.length_take]; omega)

/-- A write of a line of the doorbell page is that line's doorbell (R125). -/
theorem writeLine_doorbellPage (s : State) (v : Via) (line : Fin 4096) {d m : Nat} (hm : m ≠ 0) :
    s.writeLine v (doorbellPage * 4096 + line.val) d m false = s.doorbellLine line d m := by
  have hl := line.isLt
  have hspace : ¬spaceEnd / 64 ≤ doorbellPage * 4096 + line.val := by simp only [spaceEnd, doorbellPage]; omega
  have hpage : (doorbellPage * 4096 + line.val) / 4096 = doorbellPage := by omega
  have hline : (doorbellPage * 4096 + line.val) % 4096 = line.val := by omega
  simp [writeLine, hm, hspace, hpage, hline]

theorem store_doorbellPage (s : State) (v : Via) (line : Fin 4096) (off : Fin 64) {data : List Byte} (hd : data ≠ []) :
    s.store v (doorbellPage * 2 ^ 18 + 64 * line.val + off.val) (doorbellBytes off data) =
      s.doorbellLine line (ofBytes (doorbellBytes off data) * 2 ^ (8 * off.val))
        ((2 ^ (8 * (doorbellBytes off data).length) - 1) * 2 ^ (8 * off.val)) := by
  have hoff := off.isLt
  have hne := doorbellBytes_ne_nil (off := off) hd
  have hlen : (doorbellBytes off data).length ≤ 64 - off.val := by simp [doorbellBytes]
  have hdiv : (doorbellPage * 2 ^ 18 + 64 * line.val + off.val) / 64 = doorbellPage * 4096 + line.val := by omega
  have hmod : (doorbellPage * 2 ^ 18 + 64 * line.val + off.val) % 64 = off.val := by omega
  have hmask : (2 ^ (8 * (doorbellBytes off data).length) - 1) * 2 ^ (8 * off.val) ≠ 0 := by
    have hpow : 2 ^ 1 ≤ 2 ^ (8 * (doorbellBytes off data).length) :=
      Nat.pow_le_pow_right (by decide) (by have := List.length_pos_of_ne_nil hne; omega)
    exact Nat.mul_ne_zero (by omega) (by positivity)
  rw [store, linesOf_within_line hne (by rw [hmod]; omega), hdiv, hmod, List.foldl_cons, List.foldl_nil]
  exact writeLine_doorbellPage s v line hmask

/-- Four bytes at the start of a ring's line are a doorbell of that ring; any others count in its BADDB (R125). -/
theorem store_doorbell (s : State) (v : Via) (r : RingId) {line : Fin 4096} (off : Fin 64) {data : List Byte} (hd : data ≠ [])
    (hl : line.val = r.val) : s.store v (doorbellPage * 2 ^ 18 + 64 * line.val + off.val) (doorbellBytes off data) =
      if data.length = 4 ∧ off = 0 then s.doorbellValue r (ofBytes data) else s.incSat Reg.STR_RING_STAT_BADDB r := by
  have hr := r.isLt
  have hpos := List.length_pos_of_ne_nil (doorbellBytes_ne_nil (off := off) hd)
  have hiff : (doorbellBytes off data).length = 4 ∧ off.val = 0 ↔ data.length = 4 ∧ off = 0 := by
    simp only [doorbellBytes, List.length_take, Fin.ext_iff, Fin.val_zero]; omega
  rw [store_doorbellPage _ _ _ _ hd, doorbellLine, dif_pos (hl ▸ hr)]
  simp only [mask_eq_firstWord hpos, hiff, hl]
  split
  case isTrue h =>
    obtain ⟨hlen, rfl⟩ := h
    have hall : doorbellBytes 0 data = data := List.take_of_length_le (by rw [hlen]; decide)
    have hmod : ofBytes data % 4294967296 = ofBytes data := Nat.mod_eq_of_lt (by simpa [hlen] using ofBytes_lt data)
    simp [hall, hmod]
  case isFalse => rfl

/-- A write of a line that is no ring's doorbell has no effect (R125). -/
theorem store_no_doorbell (s : State) (v : Via) {line : Fin 4096} (off : Fin 64) {data : List Byte} (hd : data ≠ [])
    (hl : 48 ≤ line.val) : s.store v (doorbellPage * 2 ^ 18 + 64 * line.val + off.val) (doorbellBytes off data) = s := by
  rw [store_doorbellPage _ _ _ _ hd, doorbellLine, dif_neg (by omega)]

/-- Whether a ring takes a doorbell of value T (R126). -/
def takesDoorbell (s : State) (r : RingId) (t : Nat) : Prop :=
  s.slotState (ringSlot r) ≠ 0 ∧ s.rd Reg.STR_RING_CFG_LOG2N r ≠ 0 ∧
    (t + 2 ^ 32 - s.rd Reg.STR_RING_HEAD_COUNT r) % 2 ^ 32 ≤ 2 ^ s.rd Reg.STR_RING_CFG_LOG2N r ∧
    (t + 2 ^ 32 - s.rd Reg.STR_RING_TAIL_COUNT r) % 2 ^ 32 < 2 ^ 31

variable {s : State} {r : RingId} {t : Nat}

theorem doorbellValue_taken (h : s.takesDoorbell r t) : s.doorbellValue r t = s.wr Reg.STR_RING_TAIL_COUNT r t := by
  obtain ⟨hslot, hrest⟩ := h
  rw [doorbellValue, if_neg hslot, if_pos hrest]

theorem doorbellValue_free (h : s.slotState (ringSlot r) = 0) :
    s.doorbellValue r t = s.incSat Reg.STR_RING_STAT_BADDB r := if_pos h

theorem doorbellValue_bad (hslot : s.slotState (ringSlot r) ≠ 0) (h : ¬s.takesDoorbell r t) :
    s.doorbellValue r t = (s.incSat Reg.STR_RING_STAT_BADDB r).raise 0x0302 r (some (ringSlot r)) t := by
  have hrest : ¬_ := fun hrest => h ⟨hslot, hrest⟩
  rw [doorbellValue, if_neg hslot, if_neg hrest]

end Sys2Proof.Machine.State
end

section
/-!
Halts and descriptor reads (R123, R129, R144): what the halt of a ring leaves as it was, and the read of the entry at HEAD.
-/
namespace Sys2Proof.Machine.State

open Sys2Proof.Safety

theorem ops_of_noMem {s t : State} (h : t.noMem = s.noMem) : t.ops = s.ops := by rw [eq_of_noMem h]
theorem rings_of_noMem {s t : State} (h : t.noMem = s.noMem) : t.rings = s.rings := by rw [eq_of_noMem h]

/-! The halt of a ring. -/

/-- A ring shown halted with a code and a number, and its slot in HALTED (R144). -/
def haltShown (s : State) (r : RingId) (code seq : Nat) : State :=
  let s := ((s.wrB Reg.STR_RING_STAT_HALTED r true).wr Reg.STR_RING_STAT_HALT_CODE r code).wr Reg.STR_RING_HALTSEQ_SEQ r seq
  let s := s.wr Reg.STR_SLOT_STATE_HALTED (ringSlot r) (s.rd Reg.STR_SLOT_STATE_HALTED (ringSlot r) ||| haltBit r)
  if s.slotState (ringSlot r) = 2 then s.wr Reg.STR_SLOT_STATE_STATE (ringSlot r) 3 else s

theorem haltRing_eq (s : State) (r : RingId) (opcode code seq : Nat) : s.haltRing r opcode code seq =
    ((s.haltShown r code seq).captureRing r opcode 2 code seq 0).raise 0x0301 r (some (ringSlot r)) seq := id rfl

theorem haltShown_noCtl (s : State) (r : RingId) (code seq : Nat) : (s.haltShown r code seq).noCtl = s.noCtl := by
  simp only [haltShown]
  exact ite_keeps noCtl _ (by simp) (by simp)

theorem rd_captureRing (s : State) (r : RingId) (opcode what code seq cycles : Nat) {f : Field} {i : Nat}
    (h : quiet f i = true) : (s.captureRing r opcode what code seq cycles).rd f i = s.rd f i :=
  rd_of_quiet h fun b hb => capture_word _ _ _ _ b hb

theorem haltRing_noEvent (s : State) (r : RingId) (opcode code seq : Nat) :
    (s.haltRing r opcode code seq).noEvent = s.noEvent := by
  rw [haltRing_eq, raise_noEvent, captureRing, capture_noEvent]
  exact noEvent_of_noCtl (haltShown_noCtl ..)

theorem rd_haltRing (s : State) (r : RingId) (opcode code seq : Nat) {f : Field} {i : Nat} (h : quiet f i = true) :
    (s.haltRing r opcode code seq).rd f i = (s.haltShown r code seq).rd f i := by
  rw [haltRing_eq, rd_raise _ _ _ _ _ h, rd_captureRing _ _ _ _ _ _ _ h]

/-- A field of no slot's state reads the same before and after its ring's slot is shown halted. -/
theorem rd_haltShown (s : State) (r : RingId) (code seq : Nat) {f : Field} {i : Nat}
    (h : ∀ n : Fin 8, apart Reg.STR_SLOT_STATE_HALTED n f i = true ∧ apart Reg.STR_SLOT_STATE_STATE n f i = true) :
    (s.haltShown r code seq).rd f i = (((s.wrB Reg.STR_RING_STAT_HALTED r true).wr Reg.STR_RING_STAT_HALT_CODE r code).wr
      Reg.STR_RING_HALTSEQ_SEQ r seq).rd f i := by
  obtain ⟨hhalted, hstate⟩ := h (ringSlot r)
  simp only [haltShown]
  split
  · rw [rd_wr_other _ _ hstate, rd_wr_other _ _ hhalted]
  · rw [rd_wr_other _ _ hhalted]

/-! A macro-op that ends at its reading: DONE counts it and its ring halts (R129, R138). -/

/-- A macro-op counted in DONE, its completion captured, and its ring halted (R144). -/
def endHalted (s : State) (r : RingId) (opcode code seq : Nat) : State :=
  ((s.inc Reg.STR_RING_DONE_COUNT r 1).captureRing r opcode 1 code seq 0).haltRing r opcode code seq

section
variable (s : State) (r : RingId) (opcode code seq : Nat)

theorem endHalted_noEvent : (s.endHalted r opcode code seq).noEvent = s.noEvent := by
  rw [endHalted, haltRing_noEvent, captureRing, capture_noEvent]
  exact noEvent_of_noCtl (inc_noCtl ..)

theorem endHalted_halted : (s.endHalted r opcode code seq).rdB Reg.STR_RING_STAT_HALTED r = true := by
  have hq : quiet Reg.STR_RING_STAT_HALTED r = true := by revert r; decide
  have hslot : ∀ n : Fin 8, apart Reg.STR_SLOT_STATE_HALTED n Reg.STR_RING_STAT_HALTED r = true ∧
      apart Reg.STR_SLOT_STATE_STATE n Reg.STR_RING_STAT_HALTED r = true := by revert r; decide
  have hseq : apart Reg.STR_RING_HALTSEQ_SEQ r Reg.STR_RING_STAT_HALTED r = true := by revert r; decide
  have hcode : apart Reg.STR_RING_STAT_HALT_CODE r Reg.STR_RING_STAT_HALTED r = true := by revert r; decide
  rw [rdB, endHalted, rd_haltRing _ _ _ _ _ hq, rd_haltShown _ _ _ _ hslot, rd_wr_other _ _ hseq, rd_wr_other _ _ hcode]
  exact rdB_wrB_same _ _ _ _ rfl

theorem endHalted_code : (s.endHalted r opcode code seq).rd Reg.STR_RING_STAT_HALT_CODE r = code % 2 ^ 3 := by
  have hq : quiet Reg.STR_RING_STAT_HALT_CODE r = true := by revert r; decide
  have hslot : ∀ n : Fin 8, apart Reg.STR_SLOT_STATE_HALTED n Reg.STR_RING_STAT_HALT_CODE r = true ∧
      apart Reg.STR_SLOT_STATE_STATE n Reg.STR_RING_STAT_HALT_CODE r = true := by revert r; decide
  have hseq : apart Reg.STR_RING_HALTSEQ_SEQ r Reg.STR_RING_STAT_HALT_CODE r = true := by revert r; decide
  rw [endHalted, rd_haltRing _ _ _ _ _ hq, rd_haltShown _ _ _ _ hslot, rd_wr_other _ _ hseq]
  exact rd_wr_same _ _ _ _ (by decide)

theorem endHalted_seq : (s.endHalted r opcode code seq).rd Reg.STR_RING_HALTSEQ_SEQ r = seq % 2 ^ 32 := by
  have hq : quiet Reg.STR_RING_HALTSEQ_SEQ r = true := by revert r; decide
  have hslot : ∀ n : Fin 8, apart Reg.STR_SLOT_STATE_HALTED n Reg.STR_RING_HALTSEQ_SEQ r = true ∧
      apart Reg.STR_SLOT_STATE_STATE n Reg.STR_RING_HALTSEQ_SEQ r = true := by revert r; decide
  rw [endHalted, rd_haltRing _ _ _ _ _ hq, rd_haltShown _ _ _ _ hslot]
  exact rd_wr_same _ _ _ _ (by decide)

/-- Whether a field is none of those that the halt of a ring writes. -/
def apartFromHalt (r : RingId) (f : Field) (i : Nat) : Prop :=
  quiet f i = true ∧ apart Reg.STR_RING_STAT_HALTED r f i = true ∧ apart Reg.STR_RING_STAT_HALT_CODE r f i = true ∧
    apart Reg.STR_RING_HALTSEQ_SEQ r f i = true ∧
    ∀ n : Fin 8, apart Reg.STR_SLOT_STATE_HALTED n f i = true ∧ apart Reg.STR_SLOT_STATE_STATE n f i = true

theorem rd_endHalted {f : Field} {i : Nat} (h : apartFromHalt r f i) :
    (s.endHalted r opcode code seq).rd f i = (s.inc Reg.STR_RING_DONE_COUNT r 1).rd f i := by
  obtain ⟨hq, hhalted, hcode, hseq, hslot⟩ := h
  rw [endHalted, rd_haltRing _ _ _ _ _ hq, rd_haltShown _ _ _ _ hslot, rd_wr_other _ _ hseq, rd_wr_other _ _ hcode, wrB,
    rd_wr_other _ _ hhalted, rd_captureRing _ _ _ _ _ _ _ hq]

theorem endHalted_done :
    (s.endHalted r opcode code seq).rd Reg.STR_RING_DONE_COUNT r = (s.rd Reg.STR_RING_DONE_COUNT r + 1) % 2 ^ 32 := by
  have h : apartFromHalt r Reg.STR_RING_DONE_COUNT r := by unfold apartFromHalt; revert r; decide
  rw [rd_endHalted _ _ _ _ _ h]
  exact rd_wr_same _ _ _ _ (by decide)

theorem endHalted_head : (s.endHalted r opcode code seq).rd Reg.STR_RING_HEAD_COUNT r = s.rd Reg.STR_RING_HEAD_COUNT r := by
  have h : ∀ r : RingId, apartFromHalt r Reg.STR_RING_HEAD_COUNT r := by unfold apartFromHalt; decide
  have hdone : ∀ r : RingId, apart Reg.STR_RING_DONE_COUNT r Reg.STR_RING_HEAD_COUNT r = true := by decide
  rw [rd_endHalted _ _ _ _ _ (h r), inc, rd_wr_other _ _ (hdone r)]

end

/-! A descriptor read. -/

theorem quietMem_head (r : RingId) : quietMem Reg.STR_RING_HEAD_COUNT r = true := by revert r; decide
theorem quietMem_done (r : RingId) : quietMem Reg.STR_RING_DONE_COUNT r = true := by revert r; decide

theorem offDoorbells_head (r : RingId) : offDoorbells Reg.STR_RING_HEAD_COUNT r := fun q => by
  simp only [fieldAddr, fieldWords, Reg.STR_RING_HEAD_COUNT]; omega

theorem offDoorbells_done (r : RingId) : offDoorbells Reg.STR_RING_DONE_COUNT r := fun q => by
  simp only [fieldAddr, fieldWords, Reg.STR_RING_DONE_COUNT]; omega

/-- The state in which a ring's entry at HEAD has been read and HEAD has passed it (R123, R286). -/
def entryRead (s : State) (r : RingId) : State :=
  ((s.readRange (seqVia r) (s.ringEntry r (s.rd Reg.STR_RING_HEAD_COUNT r)) 128).inc Reg.STR_RING_HEAD_COUNT r 1).fillsPass r
    (s.rd Reg.STR_RING_HEAD_COUNT r)

@[simp] theorem fillsPass_noMem (s : State) (r : RingId) (n : Nat) : (s.fillsPass r n).noMem = s.noMem := id rfl
@[simp] theorem fillsPass_mem (s : State) (r : RingId) (n : Nat) : (s.fillsPass r n).mem = s.mem := id rfl
@[simp] theorem fillsPass_rd (s : State) (r : RingId) (n : Nat) (f : Field) (i : Nat) : (s.fillsPass r n).rd f i = s.rd f i :=
  rd_of_ctl (s := s) (t := s.fillsPass r n) rfl f i

@[simp] theorem modRing_rd (s : State) (r : RingId) (g : Ring → Ring) (f : Field) (i : Nat) : (s.modRing r g).rd f i = s.rd f i :=
  rd_with_rings ..
@[simp] theorem modRing_ops (s : State) (r : RingId) (g : Ring → Ring) : (s.modRing r g).ops = s.ops := id rfl
@[simp] theorem modRing_mem (s : State) (r : RingId) (g : Ring → Ring) : (s.modRing r g).mem = s.mem := id rfl
@[simp] theorem modRing_rings (s : State) (r : RingId) (g : Ring → Ring) :
    (s.modRing r g).rings = s.rings.set r (g s.rings[r]) := id rfl

theorem entryRead_noMem (s : State) (r : RingId) : (s.entryRead r).noMem = s.noMem := by simp [entryRead]

theorem entryRead_mem (s : State) (r : RingId) : (s.entryRead r).mem = s.mem := by
  rw [entryRead, fillsPass_mem, inc_mem, readRange_mem _ _ _ (by simp [seqVia])]

theorem entryRead_head (s : State) (r : RingId) :
    (s.entryRead r).rd Reg.STR_RING_HEAD_COUNT r = (s.rd Reg.STR_RING_HEAD_COUNT r + 1) % 2 ^ 32 := by
  rw [entryRead, fillsPass_rd, inc, rd_wr_same _ _ _ _ (by decide), rd_readRange _ _ _ _ (quietMem_head r)]
  rfl

theorem entryRead_done (s : State) (r : RingId) :
    (s.entryRead r).rd Reg.STR_RING_DONE_COUNT r = s.rd Reg.STR_RING_DONE_COUNT r := by
  have h : apart Reg.STR_RING_HEAD_COUNT r Reg.STR_RING_DONE_COUNT r = true := by revert r; decide
  rw [entryRead, fillsPass_rd, inc, rd_wr_other _ _ h, rd_readRange _ _ _ _ (quietMem_done r)]

/-- A ring may read the entry at its HEAD: it is live and holds no descriptor, it is configured and not empty, and no
macro-op in flight holds it with FENCE_POST (R123). -/
def mayRead (s : State) (r : RingId) : Prop :=
  s.ringLive r = true ∧ s.rings[r].held = none ∧ s.rd Reg.STR_RING_CFG_LOG2N r ≠ 0 ∧
    s.rd Reg.STR_RING_HEAD_COUNT r ≠ s.rd Reg.STR_RING_TAIL_COUNT r ∧ ∀ o ∈ s.ringOps r, dFencePost o.desc = false

variable {s : State} {r : RingId}

theorem readDescriptor_of_mayRead (h : s.mayRead r) : s.readDescriptor r =
    let a := s.ringEntry r (s.rd Reg.STR_RING_HEAD_COUNT r)
    let d := s.peek a 128
    if s.poisoned a 128 then (s.entryRead r).endHalted r 0 1 0
    else if !opcodes.contains (dOpcode d) then (s.entryRead r).rejectOp r d 8 1
    else (s.entryRead r).modRing r fun x => { x with held := some ⟨d, a, none, false, false, false⟩ } := by
  obtain ⟨hlive, hheld, hn, hne, hpost⟩ := h
  have hany : ((s.ringOps r).any fun o => dFencePost o.desc) = false := by
    rw [List.any_eq_false]; intro o ho; rw [hpost o ho]; decide
  have hguard : ¬(!s.ringLive r || s.rings[r].held.isSome || s.rd Reg.STR_RING_CFG_LOG2N r = 0 ||
      s.rd Reg.STR_RING_HEAD_COUNT r = s.rd Reg.STR_RING_TAIL_COUNT r || (s.ringOps r).any (fun o => dFencePost o.desc)) := by
    rw [hlive, hheld, hany]; simp [hn, hne]
  rw [readDescriptor, if_neg hguard]
  rfl

theorem writeRecord_noMem (s : State) (r : RingId) (d code warm flags detail cycles : Nat) :
    (s.writeRecord r d code warm flags detail cycles).noMem = s.noMem := by
  simp only [writeRecord]
  exact ite_keeps noMem _ rfl (store_noMem ..)

theorem rd_writeRecord (s : State) (r : RingId) (d code warm flags detail cycles : Nat) {f : Field} {i : Nat}
    (h : quietMem f i = true) (hd : offDoorbells f i) : (s.writeRecord r d code warm flags detail cycles).rd f i = s.rd f i := by
  simp only [writeRecord]
  exact ite_keeps (rd · f i) _ rfl (rd_store _ _ _ _ h hd)

/-- The state in which a rejected descriptor has left its ring and its completion record is written (R138, R142). -/
def recordedReject (s : State) (r : RingId) (d flags detail : Nat) : State :=
  (s.modRing r fun x => { x with held := none }).writeRecord r d (cplCode flags) 0 flags detail 0

theorem rejectOp_eq (s : State) (r : RingId) (d flags detail : Nat) : s.rejectOp r d flags detail =
    (s.recordedReject r d flags detail).endHalted r (dOpcode d) (cplCode flags) (dSeq d) := id rfl

theorem recordedReject_ops (s : State) (r : RingId) (d flags detail : Nat) : (s.recordedReject r d flags detail).ops = s.ops := by
  rw [recordedReject, ops_of_noMem (writeRecord_noMem ..), modRing_ops]

theorem recordedReject_rings (s : State) (r : RingId) (d flags detail : Nat) :
    (s.recordedReject r d flags detail).rings = s.rings.set r { s.rings[r] with held := none } := by
  rw [recordedReject, rings_of_noMem (writeRecord_noMem ..), modRing_rings]

/-- What the reading of a descriptor that ends at once shows: HEAD advanced, DONE counted, none held, and the ring halted. -/
structure EndsAtRead (s u : State) (r : RingId) (code seq : Nat) : Prop where
  head   : u.rd Reg.STR_RING_HEAD_COUNT r = (s.rd Reg.STR_RING_HEAD_COUNT r + 1) % 2 ^ 32
  ops    : u.ops = s.ops
  held   : u.rings[r].held = none
  halted : u.rdB Reg.STR_RING_STAT_HALTED r = true
  code   : u.rd Reg.STR_RING_STAT_HALT_CODE r = code
  seq    : u.rd Reg.STR_RING_HALTSEQ_SEQ r = seq
  done   : u.rd Reg.STR_RING_DONE_COUNT r = (s.rd Reg.STR_RING_DONE_COUNT r + 1) % 2 ^ 32

theorem endsAtRead_endHalted {x : State} {opcode code seq : Nat} (hcode : code < 2 ^ 3) (hseq : seq < 2 ^ 32)
    (hhead : x.rd Reg.STR_RING_HEAD_COUNT r = (s.rd Reg.STR_RING_HEAD_COUNT r + 1) % 2 ^ 32)
    (hdone : x.rd Reg.STR_RING_DONE_COUNT r = s.rd Reg.STR_RING_DONE_COUNT r) (hops : x.ops = s.ops)
    (hheld : x.rings[r].held = none) : EndsAtRead s (x.endHalted r opcode code seq) r code seq where
  head := (endHalted_head ..).trans hhead
  ops := (ops_of_noEvent (endHalted_noEvent ..)).trans hops
  held := by rw [rings_of_noEvent (endHalted_noEvent ..)]; exact hheld
  halted := endHalted_halted ..
  code := (endHalted_code ..).trans (Nat.mod_eq_of_lt hcode)
  seq := (endHalted_seq ..).trans (Nat.mod_eq_of_lt hseq)
  done := by rw [endHalted_done, hdone]

theorem EndsAtRead.after {u : State} {code seq : Nat} (h : EndsAtRead s u r code seq) (q : List Instr) :
    EndsAtRead s (u.done q) r code seq := by
  have hown : ∀ r : RingId, ∀ f ∈ [Reg.STR_RING_HEAD_COUNT, Reg.STR_RING_STAT_HALTED, Reg.STR_RING_STAT_HALT_CODE,
      Reg.STR_RING_HALTSEQ_SEQ, Reg.STR_RING_DONE_COUNT], ownField f r = true := by decide
  exact {
    head := (done_rd q (hown r _ (by simp))).trans h.head
    ops := (done_ops u q).trans h.ops
    held := by rw [done_rings]; exact h.held
    halted := (done_rdB q (hown r _ (by simp))).trans h.halted
    code := (done_rd q (hown r _ (by simp))).trans h.code
    seq := (done_rd q (hown r _ (by simp))).trans h.seq
    done := (done_rd q (hown r _ (by simp))).trans h.done }

theorem readDescriptor_poisoned (h : s.mayRead r) (hp : s.poisoned (s.ringEntry r (s.rd Reg.STR_RING_HEAD_COUNT r)) 128 = true) :
    EndsAtRead s (s.readDescriptor r) r 1 0 := by
  have hheld : (s.entryRead r).rings[r].held = none := by rw [rings_of_noMem (entryRead_noMem s r)]; exact h.2.1
  simp only [readDescriptor_of_mayRead h, hp, if_true]
  exact endsAtRead_endHalted (by decide) (by decide) (entryRead_head s r) (entryRead_done s r) (ops_of_noMem (entryRead_noMem s r)) hheld

theorem readDescriptor_reserved (h : s.mayRead r) (hp : s.poisoned (s.ringEntry r (s.rd Reg.STR_RING_HEAD_COUNT r)) 128 = false)
    (ho : opcodes.contains (dOpcode (s.peek (s.ringEntry r (s.rd Reg.STR_RING_HEAD_COUNT r)) 128)) = false) :
    EndsAtRead s (s.readDescriptor r) r 4 (dSeq (s.peek (s.ringEntry r (s.rd Reg.STR_RING_HEAD_COUNT r)) 128)) := by
  simp only [readDescriptor_of_mayRead h, hp, ho, Bool.false_eq_true, if_false, Bool.not_false, if_true, rejectOp_eq]
  refine endsAtRead_endHalted (code := 4) (by decide) (bits_lt ..) ?_ ?_ ?_ ?_
  · rw [recordedReject, rd_writeRecord _ _ _ _ _ _ _ _ (quietMem_head r) (offDoorbells_head r), modRing_rd, entryRead_head]
  · rw [recordedReject, rd_writeRecord _ _ _ _ _ _ _ _ (quietMem_done r) (offDoorbells_done r), modRing_rd, entryRead_done]
  · rw [recordedReject_ops, ops_of_noMem (entryRead_noMem s r)]
  · rw [recordedReject_rings]; simp

theorem readDescriptor_held (h : s.mayRead r) (hp : s.poisoned (s.ringEntry r (s.rd Reg.STR_RING_HEAD_COUNT r)) 128 = false)
    (ho : opcodes.contains (dOpcode (s.peek (s.ringEntry r (s.rd Reg.STR_RING_HEAD_COUNT r)) 128)) = true) :
    s.readDescriptor r = (s.entryRead r).modRing r fun x => { x with
      held := some ⟨s.peek (s.ringEntry r (s.rd Reg.STR_RING_HEAD_COUNT r)) 128, s.ringEntry r (s.rd Reg.STR_RING_HEAD_COUNT r),
        none, false, false, false⟩ } := by
  simp only [readDescriptor_of_mayRead h, hp, ho, Bool.false_eq_true, if_false, Bool.not_true]

end Sys2Proof.Machine.State
end

section
/-!
The commands of the command streams (R125, R126, R129, R138): a doorbell, an issue of a ring whose slot is not in RUN, and
a descriptor read.
-/
namespace Sys2Proof.Machine

open State Sys2Proof.Safety

/-! The doorbell. -/

theorem exec_doorbell {s : State} (hm : s.memUp = true) (line : Fin 4096) (off : Fin 64) (data : List Byte) :
    exec (.doorbell line off data) s = .next ((s.store ⟨0, none, true, 0⟩ (doorbellPage * 2 ^ 18 + 64 * line.val + off.val)
      (doorbellBytes off data)).done s.pending) := by
  show act s (if s.memUp then _ else s) = _
  rw [if_pos hm]
  rfl

/-- An event of a slot is recorded by the sequence number and the slots' steps alone (R393). -/
theorem eventRec_of_slot {s t : State} (hd : t.dseq = s.dseq) (hs : t.slots = s.slots) (code unit : Nat) (n : Fin 8) (arg : Nat) :
    t.eventRec code unit (some n) arg = s.eventRec code unit (some n) arg := by
  simp only [eventRec, eventStep, stepLow, hd, hs]

section
variable (s : State) (r : RingId)

/-- A doorbell that counts in BADDB, with its event or without. -/
theorem badDoorbell_word {b : Nat} (hb : b ∉ [0x021018 + 0x40 * r.val]) :
    (s.incSat Reg.STR_RING_STAT_BADDB r).word b = s.word b := by
  rw [List.mem_singleton] at hb
  exact word_wr_ne _ _ (by simp only [fieldAddr, fieldWords, Reg.STR_RING_STAT_BADDB]; omega)

theorem badDoorbell_count : (s.incSat Reg.STR_RING_STAT_BADDB r).rd Reg.STR_RING_STAT_BADDB r =
    min (s.rd Reg.STR_RING_STAT_BADDB r + 1) 65535 := by
  have e : 2 ^ Reg.STR_RING_STAT_BADDB.len - 1 = 65535 := rfl
  have e' : 2 ^ Reg.STR_RING_STAT_BADDB.len = 65536 := rfl
  rw [incSat, rd_wr_same _ _ _ _ (by decide), e, e']
  omega

theorem ownField_baddb : ownField Reg.STR_RING_STAT_BADDB r = true := by revert r; decide

theorem badDoorbell_quiet (q : List Instr) : ((s.incSat Reg.STR_RING_STAT_BADDB r).done q).rd Reg.STR_RING_STAT_BADDB r =
    min (s.rd Reg.STR_RING_STAT_BADDB r + 1) 65535 :=
  (done_rd q (ownField_baddb r)).trans (badDoorbell_count s r)

/-- The event of a bad doorbell (R126). -/
theorem badDoorbell_raised (t : Nat) (q : List Instr) :
    Raised s (((s.incSat Reg.STR_RING_STAT_BADDB r).raise 0x0302 r (some (ringSlot r)) t).done q) 0x0302 r (some (ringSlot r)) t := by
  have hd : (s.incSat Reg.STR_RING_STAT_BADDB r).dseq = s.dseq :=
    badDoorbell_word s r (by have := r.isLt; simp; omega)
  rw [Raised, done_tel, ← eventRec_of_slot hd (incSat_slots ..)]
  exact raise_logs ..

end

variable {s : State} {r : RingId} {line : Fin 4096} {off : Fin 64} {data : List Byte}

theorem exec_doorbell_taken (hm : s.memUp = true) (hl : line.val = r.val) (hlen : data.length = 4) (hoff : off = 0)
    (ht : s.takesDoorbell r (ofBytes data)) : ∃ u, exec (.doorbell line off data) s = .next u ∧
      u.rd Reg.STR_RING_TAIL_COUNT r = ofBytes data ∧ RegsOnly s u [0x02100C + 0x40 * r.val] := by
  have hd : data ≠ [] := List.ne_nil_of_length_pos (by omega)
  have hlt : ofBytes data < 2 ^ 32 := by simpa [hlen] using ofBytes_lt data
  have hown : ownField Reg.STR_RING_TAIL_COUNT r = true := (show ∀ r : RingId, ownField Reg.STR_RING_TAIL_COUNT r = true by decide) r
  refine ⟨_, exec_doorbell hm .., ?_⟩
  rw [store_doorbell s _ r off hd hl, if_pos ⟨hlen, hoff⟩, doorbellValue_taken ht]
  refine ⟨?_, done_regsOnly (wr_noCtl ..) fun a ha => ?_⟩
  · rw [done_rd _ hown, rd_wr_same _ _ _ _ (by decide)]
    exact Nat.mod_eq_of_lt hlt
  · rw [List.mem_singleton] at ha
    exact word_wr_ne _ _ (by simp only [fieldAddr, fieldWords, Reg.STR_RING_TAIL_COUNT]; omega)

/-- A doorbell that is not taken counts in BADDB: without an event where its bytes are none or its slot is free, and else
with one. -/
theorem exec_doorbell_bad (hm : s.memUp = true) (hd : data ≠ []) (hl : line.val = r.val)
    (ht : ¬(data.length = 4 ∧ off = 0 ∧ s.takesDoorbell r (ofBytes data))) : ∃ u, exec (.doorbell line off data) s = .next u ∧
      u.rd Reg.STR_RING_STAT_BADDB r = min (s.rd Reg.STR_RING_STAT_BADDB r + 1) 65535 ∧
      (s.slotState (ringSlot r) = 0 → RegsOnly s u [0x021018 + 0x40 * r.val]) ∧
      (s.slotState (ringSlot r) ≠ 0 → data.length = 4 → off = 0 → Raised s u 0x0302 r (some (ringSlot r)) (ofBytes data)) ∧
      EventsOnly s u [0x021018 + 0x40 * r.val] := by
  refine ⟨_, exec_doorbell hm .., ?_⟩
  rw [store_doorbell s _ r off hd hl]
  by_cases hraise : (data.length = 4 ∧ off = 0) ∧ s.slotState (ringSlot r) ≠ 0
  · obtain ⟨hbytes, hslot⟩ := hraise
    have hq : quiet Reg.STR_RING_STAT_BADDB r = true := (show ∀ r : RingId, quiet Reg.STR_RING_STAT_BADDB r = true by decide) r
    rw [if_pos hbytes, doorbellValue_bad hslot fun h => ht ⟨hbytes.1, hbytes.2, h⟩]
    refine ⟨?_, fun h => absurd h hslot, fun _ _ _ => badDoorbell_raised .., done_eventsOnly ?_ fun a ha he => ?_⟩
    · rw [done_rd _ (ownField_baddb r), rd_raise _ _ _ _ _ hq, badDoorbell_count]
    · rw [raise_noEvent, noEvent_of_noCtl (incSat_noCtl ..)]
    · rw [raise_word _ _ _ _ _ _ he, badDoorbell_word s r ha]
  · have hcount : (if data.length = 4 ∧ off = 0 then s.doorbellValue r (ofBytes data) else s.incSat Reg.STR_RING_STAT_BADDB r) =
        s.incSat Reg.STR_RING_STAT_BADDB r := by
      split
      case isTrue hbytes => exact doorbellValue_free (by by_contra h; exact hraise ⟨hbytes, h⟩)
      case isFalse => rfl
    rw [hcount]
    exact ⟨badDoorbell_quiet .., fun _ => done_regsOnly (incSat_noCtl ..) fun a ha => badDoorbell_word s r ha,
      fun hslot hlen hoff => absurd ⟨⟨hlen, hoff⟩, hslot⟩ hraise,
      done_eventsOnly (noEvent_of_noCtl (incSat_noCtl ..)) fun a ha _ => badDoorbell_word s r ha⟩

theorem exec_doorbell_elsewhere (hm : s.memUp = true) (hd : data ≠ []) (hl : 48 ≤ line.val) :
    ∃ u, exec (.doorbell line off data) s = .next u ∧ RegsOnly s u [] := by
  refine ⟨_, exec_doorbell hm .., ?_⟩
  rw [store_no_doorbell s _ off hd hl]
  exact done_regsOnly rfl fun _ _ => rfl

/-! The issue of a ring that is not live. -/

/-- Nothing holds the issue of a macro-op that no condition makes wait. -/
theorem issueUnless_never (s : State) (r : RingId) (code : Nat) (sub : Nat → Bool) (plan : State → RingId → Nat → Plan) :
    issueUnless (fun _ _ _ => false) s r code sub plan = s.issue r code sub plan := by
  rw [issueUnless]
  split
  case h_1 => rw [Bool.and_false]; rfl
  case h_2 hheld => rw [issue, hheld]

/-- Every command that `issuing` lists issues what its ring holds (R138). -/
theorem exec_of_issuing {c : Instr} {k : Issuing} (s : State) (h : issuing c = some k) :
    exec c s = act s (issueUnless k.hold s k.ring k.code k.sub k.plan) := by
  cases c <;> cases h
  case send => rfl
  all_goals exact congrArg (act s) (issueUnless_never ..).symm

/-- A ring that is not live issues nothing (R138). -/
theorem issueUnless_of_not_live (hold : State → RingId → Nat → Bool) (code : Nat) (sub : Nat → Bool)
    (plan : State → RingId → Nat → Plan) (h : s.ringLive r = false) : issueUnless hold s r code sub plan = s := by
  rw [issueUnless]
  split
  case h_1 x hheld =>
    split
    · rfl
    · simp only [issue, hheld]
      rw [if_pos (by simp [h])]
  case h_2 => rfl

theorem ringLive_of_open (h : s.slotState (ringSlot r) = 1) : s.ringLive r = false := by
  simp [ringLive, h]

theorem exec_issuing_of_open {c : Instr} {k : Issuing} (hc : issuing c = some k) (h : s.slotState (ringSlot k.ring) = 1) :
    ∃ u, exec c s = .next u ∧ RegsOnly s u [] := by
  rw [exec_of_issuing s hc, issueUnless_of_not_live _ _ _ _ (ringLive_of_open h)]
  exact ⟨_, rfl, done_regsOnly rfl fun _ _ => rfl⟩

/-! The descriptor read. -/

theorem exec_descriptorRead (s : State) (r : RingId) :
    exec (.descriptorRead r) s = .next ((s.readDescriptor r).done s.pending) := id rfl

/-- A descriptor of an opcode that no marker touches is held (R123). -/
theorem exec_descriptorRead_held (h : s.mayRead r)
    (hp : s.poisoned (s.ringEntry r (s.rd Reg.STR_RING_HEAD_COUNT r)) 128 = false)
    (ho : opcodes.contains (dOpcode (s.peek (s.ringEntry r (s.rd Reg.STR_RING_HEAD_COUNT r)) 128)) = true) :
    ∃ u, exec (.descriptorRead r) s = .next u ∧
      u.rd Reg.STR_RING_HEAD_COUNT r = (s.rd Reg.STR_RING_HEAD_COUNT r + 1) % 2 ^ 32 ∧ u.ops = s.ops ∧
      u.rings = s.rings.set r { s.rings[r] with held := some ⟨s.peek (s.ringEntry r (s.rd Reg.STR_RING_HEAD_COUNT r)) 128,
        s.ringEntry r (s.rd Reg.STR_RING_HEAD_COUNT r), none, false, false, false⟩ } ∧ u.mem = s.mem := by
  have hown : ∀ r : RingId, ownField Reg.STR_RING_HEAD_COUNT r = true := by decide
  refine ⟨_, exec_descriptorRead s r, ?_⟩
  rw [readDescriptor_held h hp ho]
  refine ⟨?_, ?_, ?_, ?_⟩
  · rw [done_rd _ (hown r), modRing_rd, entryRead_head]
  · rw [done_ops, modRing_ops, ops_of_noMem (entryRead_noMem s r)]
  · rw [done_rings, modRing_rings, rings_of_noMem (entryRead_noMem s r)]
  · rw [done_mem, modRing_mem, entryRead_mem]

/-- A descriptor that a marker touches, or of a reserved opcode, ends at its reading (R123, R129). -/
theorem exec_descriptorRead_ends (h : s.mayRead r) (hbad : s.poisoned (s.ringEntry r (s.rd Reg.STR_RING_HEAD_COUNT r)) 128 = true ∨
      opcodes.contains (dOpcode (s.peek (s.ringEntry r (s.rd Reg.STR_RING_HEAD_COUNT r)) 128)) = false) :
    ∃ u, exec (.descriptorRead r) s = .next u ∧ EndsAtRead s u r
      (if s.poisoned (s.ringEntry r (s.rd Reg.STR_RING_HEAD_COUNT r)) 128 = true then 1 else 4)
      (if s.poisoned (s.ringEntry r (s.rd Reg.STR_RING_HEAD_COUNT r)) 128 = true then 0
        else dSeq (s.peek (s.ringEntry r (s.rd Reg.STR_RING_HEAD_COUNT r)) 128)) := by
  refine ⟨_, exec_descriptorRead s r, ?_⟩
  split
  case isTrue hp => exact (readDescriptor_poisoned h hp).after _
  case isFalse hp =>
    have ho := hbad.resolve_left hp
    exact (readDescriptor_reserved h (Bool.eq_false_iff.mpr hp) ho).after _

/-- Settles O43: a doorbell is one write of its line; an issue asks for a live ring, which an open slot's is not; and a
descriptor read is that of `entryRead`, whose accounting touches no register of a ring. -/
theorem doorbellsAndDescriptorReads : Obligations.DoorbellsAndDescriptorReads := by
  unfold Obligations.DoorbellsAndDescriptorReads
  intro s r line off data
  refine ⟨fun hm hd => ⟨fun hl ⟨hlen, hoff, ht⟩ => exec_doorbell_taken hm hl hlen hoff ht,
    fun hl ht => exec_doorbell_bad hm hd hl ht, fun hl => exec_doorbell_elsewhere hm hd hl⟩,
    fun c k hc hr hopen => exec_issuing_of_open hc (hr ▸ hopen), fun hlive hheld hn hne hpost => ?_⟩
  have hread : s.mayRead r := ⟨hlive, hheld, hn, hne, hpost⟩
  by_cases hgood : s.poisoned (s.ringEntry r (s.rd Reg.STR_RING_HEAD_COUNT r)) 128 = false ∧
      opcodes.contains (dOpcode (s.peek (s.ringEntry r (s.rd Reg.STR_RING_HEAD_COUNT r)) 128)) = true
  · obtain ⟨u, hu, hhead, hops, hrings, hmem⟩ := exec_descriptorRead_held hread hgood.1 hgood.2
    exact ⟨u, hu, hhead, hops, fun _ _ => ⟨hrings, hmem⟩, fun h => by simp_all⟩
  · have hbad : s.poisoned (s.ringEntry r (s.rd Reg.STR_RING_HEAD_COUNT r)) 128 = true ∨
        opcodes.contains (dOpcode (s.peek (s.ringEntry r (s.rd Reg.STR_RING_HEAD_COUNT r)) 128)) = false := by
      rw [not_and_or, Bool.not_eq_false, Bool.not_eq_true] at hgood
      exact hgood
    obtain ⟨u, hu, hends⟩ := exec_descriptorRead_ends hread hbad
    exact ⟨u, hu, hends.head, hends.ops, fun hp ho => absurd ⟨hp, ho⟩ hgood,
      fun _ => ⟨hends.held, hends.halted, hends.code, hends.seq, hends.done⟩⟩

end Sys2Proof.Machine
end

section
/-!
The arming entries of layers under the operations of the engines (R252, R266): what reads and writes matrices is an access
of memory with its counts in Sage, and of the Sprigs' work only the end of a layer frees an entry.
-/
namespace Sys2Proof.Machine.State

/-! Reads and writes of matrices change what an access of memory may change. -/

@[simp] theorem storeRuns_noMem (s : State) (v : Via) (runs : List (Nat × Nat × Nat)) : (s.storeRuns v runs).noMem = s.noMem :=
  foldl_keeps noMem _ (fun (s : State) (x : Nat × Nat × Nat) => writeLine_noMem s v x.1 x.2.1 x.2.2 false) _ _

@[simp] theorem countAt_noMem (s : State) (a n : Nat) : (s.countAt a n).noMem = s.noMem := by
  rw [countAt]
  exact ite_noMem _ rfl (noMem_of_noCtl (setWordsAt_noCtl ..))

@[simp] theorem sageReport_noMem (s : State) (slot : Fin 8) (c : Nat) (notes : List ConvNote) (scales : List Nat) :
    (s.sageReport slot c notes scales).noMem = s.noMem := by
  have hbins (t : State) (b : Nat) : (scales.foldl (fun s x => s.binAt (b + 0x30 + 4 * (x / 16))) t).noMem = t.noMem :=
    foldl_keeps noMem _ (fun (s : State) x => noMem_of_noCtl (setWord_noCtl s _ _)) _ _
  simp only [sageReport, countAt_noMem, hbins]

@[simp] theorem takeRange_noMem (s : State) (a n : Nat) : (s.takeRange a n).noMem = s.noMem := by
  refine foldl_keeps noMem _ (fun t x => ?_) _ _
  have hput (y : State) (m : Nat) : ((y.mergeLine x.1 x.2.1 m).unfill x.1).noMem = y.noMem :=
    (unfill_noMem ..).trans (mergeLine_noMem ..)
  exact ite_noMem _ (ite_noMem _ ((setPoison_noMem ..).trans (hput ..)) (hput ..)) rfl

@[simp] theorem takeHint_noMem (s : State) (md a n : Nat) : (s.takeHint md a n).noMem = s.noMem := by
  rw [takeHint]
  exact ite_noMem _ (takeRange_noMem ..) rfl

@[simp] theorem readRegion_noMem (s : State) (v : Via) (m : Mat) (r0 c0 h w : Nat) :
    (s.readRegion v m r0 c0 h w).noMem = s.noMem := by
  have hread (t : State) (a n : Nat) : ((t.readRange v a n).takeHint m.md a n).noMem = t.noMem := by simp
  rw [readRegion, readRegionBy]
  refine ite_noMem _ rfl (foldl_keeps noMem _ (fun t i => ?_) _ _)
  exact (ite_noMem (s := readElems _ m c0 w t i) _ (hread ..) rfl).trans (hread ..)

@[simp] theorem readCopy_noMem (s : State) (v : Via) (m : Mat) (r0 c0 h w : Nat) :
    (s.readCopy v m r0 c0 h w).noMem = s.noMem := by
  rw [readCopy, readZmap]
  exact (foldl_keeps noMem _ (fun (t : State) (x : Nat × Nat) => (takeHint_noMem ..).trans (readRange_noMem t v x.1 x.2)) _ _).trans
    (readRegion_noMem ..)

@[simp] theorem putConvs_noMem (s : State) (v : Via) (m : Mat) (c0 : Nat) (cs : List (Nat × Conv)) :
    (s.putConvs v m c0 cs).noMem = s.noMem := by simp only [putConvs, storeRuns_noMem]

@[simp] theorem poisonRegion_noMem (s : State) (m : Mat) (r0 c0 h w : Nat) :
    (s.poisonRegion m r0 c0 h w).noMem = s.noMem := by
  rw [poisonRegion]
  refine ite_noMem _ rfl ((foldl_keeps noMem _ (fun (t : State) (x : Nat × Nat) => poisonRange_noMem t x.1 x.2) _ _).trans
    (foldl_keeps noMem _ (fun t i => ?_) _ _))
  exact ite_noMem _ ((poisonRange_noMem ..).trans (poisonRange_noMem ..)) (poisonRange_noMem ..)

@[simp] theorem poisonBlocks_noMem (s : State) (m : Mat) (r0 h w : Nat) (bad : Nat → Nat → Bool) :
    (s.poisonBlocks m r0 h w bad).noMem = s.noMem :=
  foldl_keeps noMem _ (fun t _ => foldl_keeps noMem _ (fun _ _ => ite_noMem _ (poisonRegion_noMem ..) rfl) _ t) _ s

@[simp] theorem writeRegion_noMem (s : State) (v : Via) (slot : Fin 8) (m : Mat) (ctr : Option Nat) (heritage : Bool)
    (r0 c0 h w : Nat) (f : Nat → Nat → SVal) : (s.writeRegion v slot m ctr heritage r0 c0 h w f).1.noMem = s.noMem := by
  simp only [writeRegion, putNoted, putConv, sageReport_noMem, putConvs_noMem]

/-! The layers under the work of the Sprigs. -/

theorem layers_of_noMem {s t : State} (h : t.noMem = s.noMem) : t.layers = s.layers := by rw [eq_of_noMem h]

@[simp] theorem readRange_layers (s : State) (v : Via) (a n : Nat) : (s.readRange v a n).layers = s.layers :=
  layers_of_noMem (readRange_noMem ..)
@[simp] theorem readLine_layers (s : State) (v : Via) (l : Nat) : (s.readLine v l).layers = s.layers :=
  layers_of_noMem (readLine_noMem ..)
@[simp] theorem store_layers (s : State) (v : Via) (a : Nat) (bs : List Byte) : (s.store v a bs).layers = s.layers :=
  layers_of_noMem (store_noMem ..)
@[simp] theorem poisonRange_layers (s : State) (a n : Nat) : (s.poisonRange a n).layers = s.layers :=
  layers_of_noMem (poisonRange_noMem ..)
@[simp] theorem sageReport_layers (s : State) (slot : Fin 8) (c : Nat) (notes : List ConvNote) (scales : List Nat) :
    (s.sageReport slot c notes scales).layers = s.layers := layers_of_noMem (sageReport_noMem ..)
@[simp] theorem readRegion_layers (s : State) (v : Via) (m : Mat) (r0 c0 h w : Nat) :
    (s.readRegion v m r0 c0 h w).layers = s.layers := layers_of_noMem (readRegion_noMem ..)
@[simp] theorem readCopy_layers (s : State) (v : Via) (m : Mat) (r0 c0 h w : Nat) :
    (s.readCopy v m r0 c0 h w).layers = s.layers := layers_of_noMem (readCopy_noMem ..)
@[simp] theorem putConvs_layers (s : State) (v : Via) (m : Mat) (c0 : Nat) (cs : List (Nat × Conv)) :
    (s.putConvs v m c0 cs).layers = s.layers := layers_of_noMem (putConvs_noMem ..)
@[simp] theorem poisonRegion_layers (s : State) (m : Mat) (r0 c0 h w : Nat) :
    (s.poisonRegion m r0 c0 h w).layers = s.layers := layers_of_noMem (poisonRegion_noMem ..)
@[simp] theorem poisonBlocks_layers (s : State) (m : Mat) (r0 h w : Nat) (bad : Nat → Nat → Bool) :
    (s.poisonBlocks m r0 h w bad).layers = s.layers := layers_of_noMem (poisonBlocks_noMem ..)
@[simp] theorem writeRegion_layers (s : State) (v : Via) (slot : Fin 8) (m : Mat) (ctr : Option Nat) (heritage : Bool)
    (r0 c0 h w : Nat) (f : Nat → Nat → SVal) : (s.writeRegion v slot m ctr heritage r0 c0 h w f).1.layers = s.layers :=
  layers_of_noMem (writeRegion_noMem ..)
@[simp] theorem raiseLong_layers (s : State) (c u : Nat) (sl : Option (Fin 8)) (a x : Nat) :
    (s.raiseLong c u sl a x).layers = s.layers := layers_of_noEvent (raiseLong_noEvent ..)

@[simp] theorem modOp_layers (s : State) (n : Nat) (f : Op → Op) : (s.modOp n f).layers = s.layers := id rfl
@[simp] theorem opFlag_layers (s : State) (k n : Nat) : (s.opFlag k n).layers = s.layers := id rfl
@[simp] theorem noteOut_layers (s : State) (n i : Nat) (any : Bool) (a : Nat × Int) :
    (s.noteOut n i any a).layers = s.layers := id rfl
@[simp] theorem modSprig_layers (s : State) (n : SprigId) (f : Sprig → Sprig) : (s.modSprig n f).layers = s.layers := id rfl
@[simp] theorem tick_layers (s : State) : s.tick.layers = s.layers := id rfl
@[simp] theorem noteReady_layers (s : State) : s.noteReady.layers = s.layers := by rw [noteReady]
@[simp] theorem abandonNet_layers (s : State) (own : List Nat) : (s.abandonNet own).layers = s.layers := id rfl

theorem dispatchSlot_layers (s : State) (o : Op) (p : Placed) : (s.dispatchSlot o p).layers = s.layers := by
  unfold dispatchSlot
  extract_lets d x src entry routed slot marked gated dropped now counted row v read tagged spilled
  have hrouted : routed.layers = s.layers := store_layers ..
  have hmarked : marked.layers = s.layers := ite_keeps layers _ ((poisonRange_layers ..).trans hrouted) hrouted
  have hgated : gated.layers = s.layers := ite_keeps layers _ hmarked ((store_layers ..).trans hmarked)
  have hdropped : dropped.layers = s.layers := (inc_layers ..).trans hgated
  have hcounted : counted.layers = s.layers := (inc_layers ..).trans hdropped
  have hread : read.layers = s.layers :=
    ite_keeps layers _ ((readRegion_layers ..).trans hrouted) ((readCopy_layers ..).trans hrouted)
  have htagged : tagged.layers = s.layers := ite_keeps layers _ ((store_layers ..).trans hread) hread
  have hspilled : spilled.layers = s.layers := ite_keeps layers _ ((inc_layers ..).trans htagged) htagged
  exact ite_keeps layers _
    (ite_keeps layers _ hdropped (ite_keeps layers _ hcounted ((raiseLong_layers ..).trans ((modOp_layers ..).trans hcounted))))
    (ite_keeps layers _ ((inc_layers ..).trans hrouted) ((inc_layers ..).trans hspilled))

theorem dispatchRows_layers (s0 s : State) (o : Op) (ps : List Placed) (kind : Nat) :
    (dispatchRows s0 s o ps kind).layers = s.layers := by
  unfold dispatchRows
  extract_lets dst rows cs v put told
  have hput : put.layers = s.layers := putConvs_layers ..
  have htold : told.layers = s.layers :=
    (foldl_keeps layers _ (fun t x => sageReport_layers t _ _ _ _) _ _).trans hput
  refine (foldl_keeps layers _ (fun t p => ?_) _ _).trans htold
  exact ite_keeps layers _ (poisonRegion_layers ..) rfl

theorem dispatchRun_layers (s : State) (o : Op) : (s.dispatchRun o).layers = s.layers := by
  unfold dispatchRun
  extract_lets d finish t es marked wrong bad read flagged xs placing
  have hread : read.layers = s.layers := foldl_keeps layers _ (fun t l => readLine_layers t _ l) _ _
  have hflagged : flagged.layers = s.layers := ite_keeps layers _ ((opFlag_layers ..).trans hread) hread
  have hplacing : placing.layers = s.layers := (readRange_layers ..).trans hflagged
  refine ite_keeps layers _ ((modOp_layers ..).trans ((modOp_layers ..).trans ((opFlag_layers ..).trans hflagged))) ?_
  split
  next c ps hps =>
  extract_lets slots rows hist peer
  have hslots : slots.layers = s.layers := (foldl_keeps layers _ (fun t p => dispatchSlot_layers t o p) _ _).trans hplacing
  have hrows : rows.layers = s.layers := (foldl_keeps layers _ (fun t k => dispatchRows_layers placing t o ps k) _ _).trans hslots
  have hhist : hist.layers = s.layers := (foldl_keeps layers _ (fun t _ => store_layers t _ _ _) _ _).trans hrows
  exact (modOp_layers ..).trans ((foldl_keeps layers _ (fun t _ => store_layers t _ _ _) _ _).trans hhist)

theorem combineRun_layers (s : State) (o : Op) : (s.combineRun o).layers = s.layers := by
  unfold combineRun
  extract_lets d y old s0 free val rows was accBad v read gates gated full whole
  have hread : read.layers = s.layers := by
    refine (foldl_keeps layers _ (fun t i => ?_) _ _).trans (readRange_layers ..)
    split
    · exact readRegion_layers ..
    · rfl
  have hgated : gated.layers = s.layers := (foldl_keeps layers _ (fun t l => readLine_layers t _ l) _ _).trans hread
  have hwhole : whole.layers = s.layers := ite_keeps layers _ ((readRegion_layers ..).trans hgated) hgated
  split
  next written a hwritten =>
  have hlayers : written.layers = s.layers := by
    split at hwritten
    · obtain rfl : _ = written := congrArg Prod.fst hwritten
      exact (writeRegion_layers ..).trans hwhole
    · obtain rfl : whole = written := congrArg Prod.fst hwritten
      exact hwhole
  extract_lets marked ticked
  have hmarked : marked.layers = s.layers :=
    ite_keeps layers _ ((poisonBlocks_layers ..).trans ((opFlag_layers ..).trans hlayers)) hlayers
  have hticked : ticked.layers = s.layers := ite_keeps layers _ ((tick_layers _).trans hmarked) hmarked
  exact (modOp_layers ..).trans ((noteOut_layers ..).trans hticked)

theorem sprigRun_layers (s : State) (o : Op) : (s.sprigRun o).layers = s.layers := by
  unfold sprigRun
  extract_lets d prog image bad ns read loaded start
  have hloaded : loaded.layers = s.layers :=
    (foldl_keeps layers _ (fun t n => modSprig_layers t n _) _ _).trans (readRange_layers ..)
  refine ite_keeps layers _ ((modOp_layers ..).trans ((opFlag_layers ..).trans hloaded))
    (ite_keeps layers _ ((modOp_layers ..).trans hloaded) ?_)
  exact (foldl_keeps layers _ (fun (t : State) (ni : SprigId × Nat) => modSprig_layers t ni.1 _) _ _).trans
    ((modOp_layers ..).trans hloaded)

theorem sprigTurns_layers (s : State) : s.sprigTurns.layers = s.layers := by
  unfold sprigTurns
  refine foldl_keeps layers _ (fun t o => ?_) _ _
  exact ite_keeps layers _ (ite_keeps layers _ rfl (sprigRun_layers ..)) (ite_keeps layers _ rfl
    (ite_keeps layers _ (dispatchRun_layers ..) (ite_keeps layers _ (combineRun_layers ..) (sprigRun_layers ..))))

theorem normAdd_layers (s : State) : s.normAdd.layers = s.layers := by
  unfold normAdd
  extract_lets ready
  split
  · rfl
  next u hu =>
    extract_lets a bad n2 summed flagged
    have hsummed : summed.layers = s.layers := (store_layers ..).trans (readRange_layers ..)
    have hflagged : flagged.layers = s.layers := ite_keeps layers _ ((opFlag_layers ..).trans hsummed) hsummed
    exact ite_keeps layers _ hflagged hflagged

theorem normAll_layers (s : State) : s.normAll.layers = s.layers :=
  foldl_keeps layers _ (fun t _ => normAdd_layers t) _ _

/-! The end of layers. -/

theorem layerEnds_layers (s : State) (l : Layer) : (s.layerEnds l).layers = s.layers.filter fun x => !(x.entry == l.entry) := by
  unfold layerEnds
  exact ite_keeps (s := { s with layers := s.layers.filter fun x => !(x.entry == l.entry) }) layers _ rfl rfl

theorem setLstate_layers (s : State) (v : Via) (entry x : Nat) : (s.setLstate v entry x).layers = s.layers := store_layers ..

/-- A layer that is left after some have ended was armed before, and at none of their entries. -/
theorem mem_layers_foldl_ends {l : Layer} (one : State → Layer → State)
    (hone : ∀ s x, (one s x).layers = s.layers.filter fun y => !(y.entry == x.entry)) (ls : List Layer) (s : State)
    (h : l ∈ (ls.foldl one s).layers) : l ∈ s.layers ∧ ∀ x ∈ ls, l.entry ≠ x.entry := by
  induction ls generalizing s with
  | nil => exact ⟨h, by simp⟩
  | cons x ls ih =>
    obtain ⟨hmem, hne⟩ := ih _ h
    rw [hone, List.mem_filter] at hmem
    exact ⟨hmem.1, List.forall_mem_cons.mpr ⟨by simpa using hmem.2, hne⟩⟩

/-- A disarmed slot keeps no layer, and a disarming arms none (R266). -/
theorem mem_layers_disarmSlot {s : State} {n : Fin 8} {l : Layer} (h : l ∈ (s.disarmSlot n).layers) :
    l ∈ s.layers ∧ ringSlot l.ring ≠ n := by
  unfold disarmSlot at h
  extract_lets ls stop one at h
  have hls {x : Layer} : x ∈ ls ↔ x ∈ s.layers ∧ ringSlot x.ring = n := by simp [ls]
  split at h
  case isTrue hnil => exact ⟨h, fun hn => by simpa [hnil] using hls.mpr ⟨h, hn⟩⟩
  case isFalse =>
    rw [sprigTurns_layers, noteReady_layers, normAll_layers, raise_layers, abandonNet_layers] at h
    obtain ⟨hmem, hne⟩ := mem_layers_foldl_ends one (fun t x => by
      simp only [one, layerEnds_layers, opFlag_layers, setLstate_layers]) ls _ h
    exact ⟨hmem, fun hn => hne l (hls.mpr ⟨hmem, hn⟩) rfl⟩

theorem disarmSlot_of_none {s : State} {n : Fin 8} (h : ∀ l ∈ s.layers, ringSlot l.ring ≠ n) : s.disarmSlot n = s := by
  have hls : (s.layers.filter fun l => ringSlot l.ring == n) = [] := by simpa [List.filter_eq_nil_iff] using h
  rw [disarmSlot]
  exact if_pos hls

/-- The slots that a write of UPD_CTRL names, disarmed in turn (R266). -/
def disarmSlots (s : State) (slots : Nat) (ns : List (Fin 8)) : State :=
  ns.foldl (fun s n => if bit slots n.val then s.disarmSlot n else s) s

theorem mem_layers_disarmSlots {slots : Nat} {l : Layer} (ns : List (Fin 8)) {s : State}
    (h : l ∈ (s.disarmSlots slots ns).layers) : l ∈ s.layers ∧ ∀ n ∈ ns, bit slots n.val = true → ringSlot l.ring ≠ n := by
  induction ns generalizing s with
  | nil => exact ⟨h, by simp⟩
  | cons n ns ih =>
    rw [disarmSlots, List.foldl_cons] at h
    obtain ⟨hmem, hne⟩ := ih h
    split at hmem
    case isTrue =>
      obtain ⟨hmem', hn⟩ := mem_layers_disarmSlot hmem
      exact ⟨hmem', List.forall_mem_cons.mpr ⟨fun _ => hn, hne⟩⟩
    case isFalse hbit => exact ⟨hmem, List.forall_mem_cons.mpr ⟨fun h => absurd h hbit, hne⟩⟩

theorem disarmSlots_of_none {slots : Nat} {s : State} (h : ∀ l ∈ s.layers, bit slots (ringSlot l.ring) = false)
    (ns : List (Fin 8)) : s.disarmSlots slots ns = s := by
  induction ns with
  | nil => rfl
  | cons n ns ih =>
    have hn : (if bit slots n.val then s.disarmSlot n else s) = s := by
      split
      case isTrue hbit => exact disarmSlot_of_none fun l hl hs => by simpa [hs, hbit] using h l hl
      case isFalse => rfl
    rw [disarmSlots, List.foldl_cons, hn]
    exact ih

end Sys2Proof.Machine.State
end

section
/-!
The registers of rings and of interleave tables (R124, R157): what a write of a ring's configuration or of STR_ITAB_CTRL
does, and how the reading of a table ends.
-/
namespace Sys2Proof.Machine.State

open Sys2Proof.Safety

/-! The configuration of a ring. -/

/-- The field that the ring register of a number holds. -/
def ringField : Fin 3 → Field
  | 0 => Reg.STR_RING_BASE_LO_BASE_LO
  | 1 => Reg.STR_RING_BASE_HI_BASE_HI
  | 2 => Reg.STR_RING_CFG_LOG2N

/-- The value that the field of a ring register takes of the value written. -/
def ringValue (reg : Fin 3) (v : Nat) : Nat := match reg with
  | 0 => bits v 31 12
  | 1 => bits v 8 0
  | 2 => bits v 4 0

theorem ringValue_lt (reg : Fin 3) (v : Nat) : ringValue reg v < 2 ^ (ringField reg).len := match reg with
  | 0 => bits_lt ..
  | 1 => bits_lt ..
  | 2 => bits_lt ..

/-- A ring with a register set and its counts at 0 (R124). -/
def ringConfigured (s : State) (r : RingId) (reg : Fin 3) (v : Nat) : State :=
  (((s.wr (ringField reg) r (ringValue reg v)).wr Reg.STR_RING_HEAD_COUNT r 0).wr Reg.STR_RING_TAIL_COUNT r 0).wr
    Reg.STR_RING_DONE_COUNT r 0

section
variable {s : State} {r : RingId} {reg : Fin 3} {v : Nat}

theorem ringConfig_of_open (hslot : s.slotState (ringSlot r) ≤ 1)
    (hn : reg = 2 → bits v 4 0 = 0 ∨ 4 ≤ bits v 4 0 ∧ bits v 4 0 ≤ 16) :
    s.ringConfig r reg v = (s.ringConfigured r reg v, .ok) := by
  unfold ringConfig
  extract_lets st n x
  have hrun : ¬2 ≤ st := by omega
  have hsize : ¬((decide (reg = 2) && decide (n ≠ 0) && !(decide (4 ≤ n) && decide (n ≤ 16))) = true) := by
    by_cases hreg : reg = 2
    · have := hn hreg; simp only [hreg, n]; simp; omega
    · simp [hreg]
  have hx : x = s.wr (ringField reg) r (ringValue reg v) := by
    fin_cases reg
    · rfl
    · rfl
    · rfl
  refine (if_neg hrun).trans ((if_neg hsize).trans ?_)
  rw [ringConfigured, ← hx]

theorem ringConfig_of_running (hslot : 2 ≤ s.slotState (ringSlot r)) :
    s.ringConfig r reg v = (s, .busy 10 (ringSlot r).val) := if_pos hslot

theorem ringConfigured_noCtl (s : State) (r : RingId) (reg : Fin 3) (v : Nat) :
    (s.ringConfigured r reg v).noCtl = s.noCtl := by simp [ringConfigured]

theorem rd_ringConfigured_field (s : State) (r : RingId) (reg : Fin 3) (v : Nat) :
    (s.ringConfigured r reg v).rd (ringField reg) r = ringValue reg v := by
  have h : ∀ (reg : Fin 3) (r : RingId), 0 < (ringField reg).len ∧ ∀ f ∈ [Reg.STR_RING_HEAD_COUNT, Reg.STR_RING_TAIL_COUNT,
      Reg.STR_RING_DONE_COUNT], apart f r (ringField reg) r = true := by decide
  obtain ⟨hlen, hapart⟩ := h reg r
  rw [ringConfigured, rd_wr_other _ _ (hapart _ (by simp)), rd_wr_other _ _ (hapart _ (by simp)),
    rd_wr_other _ _ (hapart _ (by simp)), rd_wr_same _ _ _ _ hlen]
  exact Nat.mod_eq_of_lt (ringValue_lt reg v)

theorem rd_ringConfigured_counts (s : State) (r : RingId) (reg : Fin 3) (v : Nat) :
    (s.ringConfigured r reg v).rd Reg.STR_RING_HEAD_COUNT r = 0 ∧ (s.ringConfigured r reg v).rd Reg.STR_RING_TAIL_COUNT r = 0 ∧
      (s.ringConfigured r reg v).rd Reg.STR_RING_DONE_COUNT r = 0 := by
  have h : ∀ r : RingId, apart Reg.STR_RING_TAIL_COUNT r Reg.STR_RING_HEAD_COUNT r = true ∧
      apart Reg.STR_RING_DONE_COUNT r Reg.STR_RING_HEAD_COUNT r = true ∧
      apart Reg.STR_RING_DONE_COUNT r Reg.STR_RING_TAIL_COUNT r = true := by decide
  obtain ⟨hth, hdh, hdt⟩ := h r
  refine ⟨?_, ?_, ?_⟩
  · rw [ringConfigured, rd_wr_other _ _ hdh, rd_wr_other _ _ hth, rd_wr_same _ _ _ _ (by decide), Nat.zero_mod]
  · rw [ringConfigured, rd_wr_other _ _ hdt, rd_wr_same _ _ _ _ (by decide), Nat.zero_mod]
  · rw [ringConfigured, rd_wr_same _ _ _ _ (by decide), Nat.zero_mod]

theorem ringConfigured_word {b : Nat} (hb : b ∉ [0x021000 + 0x40 * r.val + 4 * reg.val, 0x02100C + 0x40 * r.val,
    0x021010 + 0x40 * r.val, 0x021014 + 0x40 * r.val]) : (s.ringConfigured r reg v).word b = s.word b := by
  have hin : ∀ (reg : Fin 3) (r : RingId), ∀ x ∈ [(ringField reg), Reg.STR_RING_HEAD_COUNT, Reg.STR_RING_TAIL_COUNT,
      Reg.STR_RING_DONE_COUNT], within x r [0x021000 + 0x40 * r.val + 4 * reg.val, 0x02100C + 0x40 * r.val,
      0x021010 + 0x40 * r.val, 0x021014 + 0x40 * r.val] = true := by decide
  rw [ringConfigured, word_wr_listed hb (hin reg r _ (by simp)), word_wr_listed hb (hin reg r _ (by simp)),
    word_wr_listed hb (hin reg r _ (by simp)), word_wr_listed hb (hin reg r _ (by simp))]

end

/-! The load of an interleave table. -/

/-- A die with the length and mode of STR_ITAB_CTRL shown (R157). -/
def itabShown (s : State) (d : Die) (n : Nat) (lend : Bool) : State :=
  (s.wr Reg.STR_ITAB_CTRL_LEN d n).wrB Reg.STR_ITAB_CTRL_LEND d lend

/-- The place that a die's interleave table is read from. -/
def itabAddr (s : State) (d : Die) : Nat :=
  s.rd Reg.STR_ITAB_ADDR_HI_ADDR_HI d * 2 ^ 32 + s.rd Reg.STR_ITAB_ADDR_LO_ADDR_LO d * 2 ^ 6

/-- A die with the length and mode of a table shown, which its sequencer has begun to read (R157). -/
def itabLoading (s : State) (d : Die) (n : Nat) (lend : Bool) : State :=
  { s.itabShown d n lend with seqr := s.seqr.set d { s.seqr[d] with loading := some (s.itabAddr d, n, lend) } }

theorem itabShown_noCtl (s : State) (d : Die) (n : Nat) (lend : Bool) : (s.itabShown d n lend).noCtl = s.noCtl := by
  simp [itabShown]

theorem itabAddr_itabShown (s : State) (d : Die) (n : Nat) (lend : Bool) : (s.itabShown d n lend).itabAddr d = s.itabAddr d := by
  have h : ∀ d : Die, ∀ f ∈ [Reg.STR_ITAB_ADDR_HI_ADDR_HI, Reg.STR_ITAB_ADDR_LO_ADDR_LO],
      apart Reg.STR_ITAB_CTRL_LEND d f d = true ∧ apart Reg.STR_ITAB_CTRL_LEN d f d = true := by decide
  obtain ⟨hhi, hhi'⟩ := h d _ (List.mem_cons_self ..)
  obtain ⟨hlo, hlo'⟩ := h d _ (List.mem_cons_of_mem _ (List.mem_cons_self ..))
  rw [itabAddr, itabAddr, itabShown, wrB, rd_wr_other _ _ hhi, rd_wr_other _ _ hhi', rd_wr_other _ _ hlo, rd_wr_other _ _ hlo']

theorem rd_itabShown (s : State) (d : Die) (lend : Bool) {n : Nat} (hn : n ≤ 4096) :
    (s.itabShown d n lend).rd Reg.STR_ITAB_CTRL_LEN d = n ∧ (s.itabShown d n lend).rdB Reg.STR_ITAB_CTRL_LEND d = lend := by
  have h : ∀ d : Die, apart Reg.STR_ITAB_CTRL_LEND d Reg.STR_ITAB_CTRL_LEN d = true := by decide
  constructor
  · rw [itabShown, wrB, rd_wr_other _ _ (h d), rd_wr_same _ _ _ _ (by decide)]
    exact Nat.mod_eq_of_lt (show n < 2 ^ 13 by omega)
  · exact rdB_wrB_same _ _ _ _ rfl

theorem itabShown_word {s : State} {d : Die} {n b : Nat} {lend : Bool} (hb : b ∉ [0x020108 + 0x40 * d.val]) :
    (s.itabShown d n lend).word b = s.word b := by
  have h : ∀ d : Die, within Reg.STR_ITAB_CTRL_LEN d [0x020108 + 0x40 * d.val] = true ∧
      within Reg.STR_ITAB_CTRL_LEND d [0x020108 + 0x40 * d.val] = true := by decide
  rw [itabShown, wrB, word_wr_listed hb (h d).2, word_wr_listed hb (h d).1]

theorem bits_or_bit14 (v : Nat) : bits (v ||| 2 ^ 14) 12 0 = bits v 12 0 := by
  have h : (v ||| 2 ^ 14) % 2 ^ 13 = v % 2 ^ 13 := by rw [Nat.or_mod_two_pow]; simp
  simpa [bits] using h

theorem bit_or_bit14 (v : Nat) : bit (v ||| 2 ^ 14) 14 = true ∧ bit (v ||| 2 ^ 14) 13 = bit v 13 := by
  have h (x i : Nat) : bit x i = x.testBit i := by rw [bit, Nat.testBit_eq_decide_div_mod_eq, Nat.shiftRight_eq_div_pow]; rfl
  have h14 : Nat.testBit (2 ^ 14) 14 = true := by decide
  have h13 : Nat.testBit (2 ^ 14) 13 = false := by decide
  rw [h, h, h, Nat.testBit_or, Nat.testBit_or, h14, h13, Bool.or_true, Bool.or_false]
  exact ⟨rfl, rfl⟩

/-- A write of STR_ITAB_CTRL with LOAD = 1 begins the reading of a table (R157). -/
theorem itabWrite_load {s : State} {d : Die} {v : Nat} (h1 : 1 ≤ bits v 12 0) (h4 : bits v 12 0 ≤ 4096)
    (hp : s.rdB Reg.STR_ITAB_STATUS_PENDING d = false) :
    s.itabWrite d (v ||| 2 ^ 14) = (s.itabLoading d (bits v 12 0) (bit v 13), .ok) := by
  obtain ⟨h14, h13⟩ := bit_or_bit14 v
  have hlen : ¬(decide (bits v 12 0 = 0) || decide (4096 < bits v 12 0)) = true := by simp; omega
  have hplace := itabAddr_itabShown s d (bits v 12 0) (bit v 13)
  have hseqr : (s.itabShown d (bits v 12 0) (bit v 13)).seqr = s.seqr := seqr_of_noCtl (itabShown_noCtl ..)
  unfold itabWrite
  rw [bits_or_bit14, h14, h13, hp, Bool.and_false, Bool.not_true]
  refine (if_neg Bool.false_ne_true).trans ((if_neg hlen).trans ((if_neg Bool.false_ne_true).trans ?_))
  rw [itabLoading, ← hplace, ← hseqr]
  rfl

end Sys2Proof.Machine.State
end

section
/-!
The end of an interleave table's reading (R157): it is rejected at its first bad entry, or held until both Anvils of the
die have taken it, a withdrawn one at once.
-/
namespace Sys2Proof.Machine.State

open Sys2Proof.Safety

/-! What the reading of a table finds. -/

/-- The words of an interleave table at a place. -/
def itabWords (s : State) (a n : Nat) : List Nat := (List.range n).map fun i => s.peek (a + 4 * i) 4

/-- Whether an entry of an interleave table is bad or carries the marker. -/
def itabBad (s : State) (a n i : Nat) : Bool := badEntry ((s.itabWords a n).getD i 0) || s.poisoned (a + 4 * i) 4

/-- The state in which a die's table has been read, with what is pending of it then. -/
def tableRead (s : State) (d : Die) (a n : Nat) (p : Option (List Word × Bool)) : State :=
  { s.readRange ⟨d, none, false, 0⟩ a (4 * n) with
    seqr := (s.readRange ⟨d, none, false, 0⟩ a (4 * n)).seqr.set d { s.seqr[d] with loading := none, pending := p } }

/-- The state in which a table read whole waits for the Anvils. -/
def tableHeld (s : State) (d : Die) (a n : Nat) (lend : Bool) : State :=
  ((s.tableRead d a n (some ((s.itabWords a n).map (BitVec.ofNat 32), lend))).wrB Reg.STR_ITAB_STATUS_PENDING d true).wrB
    Reg.STR_ITAB_STATUS_LOAD_ERR d false

/-- The lower-numbered and the higher-numbered Anvil of a die. -/
def lowAnvil (d : Die) : Fin 4 := Fin.ofNat 4 (2 * d.val)
def highAnvil (d : Die) : Fin 4 := Fin.ofNat 4 (2 * d.val + 1)

/-- An Anvil takes the pending table where it is withdrawn. -/
def takeWithdrawn (s : State) (n : Fin 4) : State := if s.rdB Reg.ANV_FENCE_WITHDRAWN n then s.takeTable n else s

section
variable {s : State} {d : Die} {a n i : Nat} {lend : Bool} (h : s.seqr[d].loading = some (a, n, lend))
include h

theorem itabLoaded_bad (hi : i < n) (hbad : s.itabBad a n i = true) (hfirst : ∀ j, j < i → s.itabBad a n j = false) :
    s.itabLoaded d = ((s.tableRead d a n s.seqr[d].pending).wrB Reg.STR_ITAB_STATUS_LOAD_ERR d true).raise 0x0303 d none i := by
  have hfind : (List.range n).find? (s.itabBad a n) = some i :=
    List.find?_range_eq_some.mpr ⟨hbad, List.mem_range.mpr hi, fun j hj => by rw [hfirst j hj]; rfl⟩
  unfold itabLoaded
  extract_lets q
  split
  next hq => rw [h] at hq; cases hq
  next a' n' lend' hq =>
    rw [h] at hq
    cases hq
    extract_lets ws bad
    have hb : bad = some i := hfind
    rw [hb]
    rfl

theorem itabLoaded_good (hgood : ∀ i, i < n → s.itabBad a n i = false) :
    s.itabLoaded d = ((s.tableHeld d a n lend).takeWithdrawn (lowAnvil d)).takeWithdrawn (highAnvil d) := by
  have hfind : (List.range n).find? (s.itabBad a n) = none :=
    List.find?_eq_none.mpr fun i hi => by rw [hgood i (List.mem_range.mp hi)]; decide
  unfold itabLoaded
  extract_lets q
  split
  next hq => rw [h] at hq; cases hq
  next a' n' lend' hq =>
    rw [h] at hq
    cases hq
    extract_lets ws bad
    have hb : bad = none := hfind
    rw [hb]
    rfl

end

/-! The table read. -/

section
variable (s : State) (d : Die) (a n : Nat) (p : Option (List Word × Bool))

theorem tableRead_seqr : (s.tableRead d a n p).seqr = s.seqr.set d { s.seqr[d] with loading := none, pending := p } := by
  have h : (s.readRange ⟨d, none, false, 0⟩ a (4 * n)).seqr = s.seqr := by rw [eq_of_noMem (readRange_noMem s _ a (4 * n))]
  exact congrArg (·.set d { s.seqr[d] with loading := none, pending := p }) h

theorem tableRead_anv : (s.tableRead d a n p).anv = s.anv :=
  show (s.readRange ⟨d, none, false, 0⟩ a (4 * n)).anv = s.anv by rw [eq_of_noMem (readRange_noMem s _ a (4 * n))]

theorem rd_tableRead {f : Field} {i : Nat} (h : quietMem f i = true) : (s.tableRead d a n p).rd f i = s.rd f i :=
  (rd_with_seqr ..).trans (rd_readRange _ _ _ _ h)

/-- An event of no slot is recorded by the sequence number, the lead slot, and the slots' states and steps (R393). -/
theorem eventRec_of_none {s t : State} (hd : t.dseq = s.dseq) (hl : t.tel = s.tel) (hs : t.slots = s.slots)
    (hst : ∀ n : Fin 8, t.slotState n = s.slotState n) (code unit arg : Nat) :
    t.eventRec code unit none arg = s.eventRec code unit none arg := by
  have hstep : t.eventStep none = s.eventStep none := by simp only [eventStep, stepLow, lead, hl, hs, hst]; rfl
  rw [eventRec, eventRec, hd, hstep]

/-- The event of a table's rejection. -/
theorem tableRead_raised (i : Nat) (q : List Instr) : Raised (s.readRange ⟨d, none, false, 0⟩ a (4 * n))
    ((((s.tableRead d a n p).wrB Reg.STR_ITAB_STATUS_LOAD_ERR d true).raise 0x0303 d none i).done q) 0x0303 d none i := by
  have hapart : ∀ (d : Die) (n : Fin 8), apart Reg.STR_ITAB_STATUS_LOAD_ERR d Reg.STR_SLOT_STATE_STATE n = true := by decide
  have hd : ((s.tableRead d a n p).wrB Reg.STR_ITAB_STATUS_LOAD_ERR d true).dseq =
      (s.readRange ⟨d, none, false, 0⟩ a (4 * n)).dseq := by
    refine (word_wr_ne _ _ ?_).trans (word_with_seqr ..)
    have := d.isLt
    simp only [fieldAddr, fieldWords, Reg.STR_ITAB_STATUS_LOAD_ERR]; omega
  rw [Raised, done_tel, ← eventRec_of_none hd (wrB_tel ..) (wrB_slots ..) fun m =>
    (rd_wr_other _ _ (hapart d m)).trans (rd_with_seqr ..)]
  exact raise_logs ..

end

/-! The Anvils take the table. -/

/-- Whether a field is none of those that the taking of a table writes. -/
def apartFromTable (f : Field) (i : Nat) : Prop := ∀ e : Die, ∀ g ∈ [Reg.STR_ITAB_STATUS_ACTIVE_LEN,
  Reg.STR_ITAB_STATUS_ACTIVE_LEND, Reg.STR_ITAB_STATUS_PENDING, Reg.STR_ITAB_STATUS_LOADS], apart g e f i = true

theorem rd_showTable (s : State) (e : Die) {f : Field} {i : Nat} (h : apartFromTable f i) :
    (s.showTable e).rd f i = s.rd f i := by
  rw [showTable, wrB, rd_wr_other _ _ (h e _ (by simp)), rd_wr_other _ _ (h e _ (by simp))]

@[simp] theorem showTable_seqr (s : State) (e : Die) : (s.showTable e).seqr = s.seqr := by simp [showTable]
@[simp] theorem showTable_anv (s : State) (e : Die) : (s.showTable e).anv = s.anv := by simp [showTable]

/-- A die whose table waits no longer, and whose Anvils may take another. -/
def switchedOff (s : State) (d : Die) : State :=
  { s with
    seqr := s.seqr.set d { s.seqr[d] with pending := none }
    anv := (s.anv.set (lowAnvil d) { s.anv[lowAnvil d] with switched := false }).set (highAnvil d)
      { s.anv[highAnvil d] with switched := false } }

/-- A table that both Anvils of its die have taken is no longer pending (R157). -/
def tableDone (s : State) (d : Die) : State :=
  ((s.switchedOff d).wrB Reg.STR_ITAB_STATUS_PENDING d false).inc Reg.STR_ITAB_STATUS_LOADS d 1

theorem switchedBoth_eq (s : State) (d : Die) : s.switchedBoth d =
    if s.seqr[d].pending.isSome && s.anv[lowAnvil d].switched && s.anv[highAnvil d].switched then s.tableDone d else s := id rfl

theorem rd_tableDone (s : State) (e : Die) {f : Field} {i : Nat} (h : apartFromTable f i) :
    (s.tableDone e).rd f i = s.rd f i := by
  rw [tableDone, inc, rd_wr_other _ _ (h e _ (by simp)), wrB, rd_wr_other _ _ (h e _ (by simp))]
  exact rd_of_ctl (s := s) (t := s.switchedOff e) rfl f i

@[simp] theorem tableDone_seqr (s : State) (d : Die) :
    (s.tableDone d).seqr = s.seqr.set d { s.seqr[d] with pending := none } := by simp [tableDone, switchedOff]

/-- An Anvil with a table, which it has switched to. -/
def withTable (s : State) (n : Fin 4) (t : List Word) (lend : Bool) : State :=
  { s with anv := s.anv.set n { s.anv[n] with table := t, lend := lend, switched := true } }

@[simp] theorem withTable_seqr (s : State) (n : Fin 4) (t : List Word) (lend : Bool) : (s.withTable n t lend).seqr = s.seqr := rfl

/-- The die of an Anvil. -/
def anvilDie (n : Fin 4) : Die := Fin.ofNat 2 (n.val / 2)

theorem takeTable_pending {s : State} {n : Fin 4} {d : Die} {t : List Word} {lend : Bool} (hd : anvilDie n = d)
    (hp : s.seqr[d].pending = some (t, lend)) (hn : s.anv[n].switched = false) :
    s.takeTable n = ((s.withTable n t lend).showTable d).switchedBoth d := by
  subst hd
  unfold takeTable
  extract_lets d
  split
  next t' lend' hp' =>
    cases hp.symm.trans hp'
    exact if_neg (by rw [hn]; decide)
  next hp' => cases hp.symm.trans hp'

/-- An Anvil either keeps its table, or takes the pending one. -/
theorem takeTable_cases (s : State) (n : Fin 4) : s.takeTable n = s ∨
    ∃ t lend, s.takeTable n = ((s.withTable n t lend).showTable (anvilDie n)).switchedBoth (anvilDie n) := by
  unfold takeTable
  extract_lets d
  split
  next t lend hp =>
    split
    next => exact .inl rfl
    next => exact .inr ⟨t, lend, rfl⟩
  next => exact .inl rfl

/-- What holds of a state whatever an Anvil takes. -/
theorem takeTable_keeps {α : Type} (g : State → α) (htable : ∀ s n t lend, g (withTable s n t lend) = g s)
    (hshow : ∀ s e, g (showTable s e) = g s) (hdone : ∀ s e, g (tableDone s e) = g s) (s : State) (n : Fin 4) :
    g (s.takeTable n) = g s := by
  obtain hs | ⟨t, lend, hs⟩ := takeTable_cases s n
  · rw [hs]
  · rw [hs, switchedBoth_eq]
    split
    · rw [hdone, hshow, htable]
    · rw [hshow, htable]

theorem rd_takeTable (s : State) (n : Fin 4) {f : Field} {i : Nat} (h : apartFromTable f i) :
    (s.takeTable n).rd f i = s.rd f i :=
  takeTable_keeps (·.rd f i) (fun s n t lend => rd_of_ctl (s := s) (t := s.withTable n t lend) rfl f i)
    (fun s e => rd_showTable s e h) (fun s e => rd_tableDone s e h) s n

theorem loading_set (s : Vector Seqr 2) (d e : Die) (p : Option (List Word × Bool)) :
    (s.set d { s[d] with pending := p })[e].loading = s[e].loading := by
  by_cases h : d = e
  · subst h; simp
  · have hne := Fin.val_ne_of_ne h; simp [hne]

theorem loading_takeTable (s : State) (n : Fin 4) (d : Die) : (s.takeTable n).seqr[d].loading = s.seqr[d].loading :=
  takeTable_keeps (·.seqr[d].loading) (fun _ _ _ _ => rfl) (fun s e => by simp) (fun s e => by
    rw [tableDone_seqr]; exact loading_set s.seqr e d none) s n

theorem takeWithdrawn_keeps {α : Type} {g : State → α} {n : Fin 4} (h : ∀ s, g (takeTable s n) = g s) (s : State) :
    g (s.takeWithdrawn n) = g s := by
  unfold takeWithdrawn
  split
  next => exact h s
  next => rfl

theorem takeWithdrawn_of_in_use {s : State} {n : Fin 4} (h : s.rdB Reg.ANV_FENCE_WITHDRAWN n = false) :
    s.takeWithdrawn n = s := if_neg (by rw [h]; decide)

theorem takeWithdrawn_of_withdrawn {s : State} {n : Fin 4} (h : s.rdB Reg.ANV_FENCE_WITHDRAWN n = true) :
    s.takeWithdrawn n = s.takeTable n := if_pos h

end Sys2Proof.Machine.State
end

section
/-!
A table that both Anvils of its die take at once, and what the end of its reading leaves in each case (R157).
-/
namespace Sys2Proof.Machine.State

open Sys2Proof.Safety

/-! Both Anvils take the table. -/

@[simp] theorem lowAnvil_val (d : Die) : (lowAnvil d).val = 2 * d.val := Nat.mod_eq_of_lt (by have := d.isLt; omega)
@[simp] theorem highAnvil_val (d : Die) : (highAnvil d).val = 2 * d.val + 1 := Nat.mod_eq_of_lt (by have := d.isLt; omega)

theorem anvilDie_lowAnvil (d : Die) : anvilDie (lowAnvil d) = d := by revert d; decide
theorem anvilDie_highAnvil (d : Die) : anvilDie (highAnvil d) = d := by revert d; decide

theorem eq_lowAnvil_or_highAnvil {d : Die} {k : Fin 4} (h : k.val / 2 = d.val) : k = lowAnvil d ∨ k = highAnvil d := by
  have hlow := lowAnvil_val d
  have hhigh := highAnvil_val d
  simp only [Fin.ext_iff]
  omega

theorem tableDone_anv (s : State) (d : Die) : (s.tableDone d).anv =
    (s.anv.set (lowAnvil d) { s.anv[lowAnvil d] with switched := false }).set (highAnvil d)
      { s.anv[highAnvil d] with switched := false } := by simp [tableDone, switchedOff]

theorem tableDone_pending (s : State) (d : Die) :
    (s.tableDone d).rdB Reg.STR_ITAB_STATUS_PENDING d = false ∧ (s.tableDone d).seqr[d].pending = none := by
  have h : ∀ d : Die, apart Reg.STR_ITAB_STATUS_LOADS d Reg.STR_ITAB_STATUS_PENDING d = true := by decide
  constructor
  · rw [tableDone, inc, rdB, rd_wr_other _ _ (h d)]; exact rdB_wrB_same _ _ _ _ rfl
  · simp

section
variable {s : State} {d : Die} {t : List Word} {lend : Bool} (hp : s.seqr[d].pending = some (t, lend))
include hp

/-- The first Anvil of a die to take its pending table. -/
theorem takeTable_first (hlow : s.anv[lowAnvil d].switched = false) (hhigh : s.anv[highAnvil d].switched = false) :
    s.takeTable (lowAnvil d) = (s.withTable (lowAnvil d) t lend).showTable d := by
  have hne : ((s.withTable (lowAnvil d) t lend).showTable d).anv[highAnvil d].switched = false := by
    simpa [withTable] using hhigh
  rw [takeTable_pending (anvilDie_lowAnvil d) hp hlow, switchedBoth_eq, if_neg (by rw [hne, Bool.and_false]; decide)]

/-- The second Anvil of a die to take its pending table. -/
theorem takeTable_second (hlow : s.anv[lowAnvil d].switched = true) (hhigh : s.anv[highAnvil d].switched = false) :
    s.takeTable (highAnvil d) = ((s.withTable (highAnvil d) t lend).showTable d).tableDone d := by
  have hl : ((s.withTable (highAnvil d) t lend).showTable d).anv[lowAnvil d].switched = true := by
    simpa [withTable] using hlow
  have hh : ((s.withTable (highAnvil d) t lend).showTable d).anv[highAnvil d].switched = true := by simp [withTable]
  have hq : ((s.withTable (highAnvil d) t lend).showTable d).seqr[d].pending.isSome = true := by
    rw [showTable_seqr, withTable_seqr, hp]; rfl
  rw [takeTable_pending (anvilDie_highAnvil d) hp hhigh, switchedBoth_eq, if_pos (by rw [hq, hl, hh]; rfl)]

end

theorem apartFromTable_withdrawn (n : Fin 4) : apartFromTable Reg.ANV_FENCE_WITHDRAWN n := by
  unfold apartFromTable; revert n; decide

theorem apartFromTable_loadErr (d : Die) : apartFromTable Reg.STR_ITAB_STATUS_LOAD_ERR d := by
  unfold apartFromTable; revert d; decide

theorem rdB_takeTable (s : State) (n : Fin 4) {f : Field} {i : Nat} (h : apartFromTable f i) :
    (s.takeTable n).rdB f i = s.rdB f i := by rw [rdB, rd_takeTable s n h, rdB]

theorem loadErr_takeWithdrawn (s : State) (n : Fin 4) (d : Die) :
    (s.takeWithdrawn n).rdB Reg.STR_ITAB_STATUS_LOAD_ERR d = s.rdB Reg.STR_ITAB_STATUS_LOAD_ERR d :=
  takeWithdrawn_keeps (g := (·.rdB Reg.STR_ITAB_STATUS_LOAD_ERR d))
    (fun t => rdB_takeTable t n (apartFromTable_loadErr d)) s

theorem loading_takeWithdrawn (s : State) (n : Fin 4) (d : Die) : (s.takeWithdrawn n).seqr[d].loading = s.seqr[d].loading :=
  takeWithdrawn_keeps (g := (·.seqr[d].loading)) (fun t => loading_takeTable t n d) s

/-- A table that both withdrawn Anvils of its die have taken. -/
theorem takeWithdrawn_both {s : State} {d : Die} {t : List Word} {lend : Bool} (hp : s.seqr[d].pending = some (t, lend))
    (hwl : s.rdB Reg.ANV_FENCE_WITHDRAWN (lowAnvil d) = true) (hwh : s.rdB Reg.ANV_FENCE_WITHDRAWN (highAnvil d) = true)
    (hlow : s.anv[lowAnvil d].switched = false) (hhigh : s.anv[highAnvil d].switched = false) :
    let v := (s.takeWithdrawn (lowAnvil d)).takeWithdrawn (highAnvil d)
    v.rdB Reg.STR_ITAB_STATUS_PENDING d = false ∧ v.seqr[d].pending = none ∧
      ∀ k : Fin 4, k.val / 2 = d.val → v.anv[k].table = t ∧ v.anv[k].lend = lend ∧ v.anv[k].switched = false := by
  have hw1 : (s.takeTable (lowAnvil d)).rdB Reg.ANV_FENCE_WITHDRAWN (highAnvil d) = true :=
    (rdB_takeTable s _ (apartFromTable_withdrawn _)).trans hwh
  have h1 := takeTable_first hp hlow hhigh
  have hanv : (s.takeTable (lowAnvil d)).anv = s.anv.set (lowAnvil d)
      { s.anv[lowAnvil d] with table := t, lend := lend, switched := true } := by rw [h1, showTable_anv]; rfl
  have hp1 : (s.takeTable (lowAnvil d)).seqr[d].pending = some (t, lend) := by rw [h1, showTable_seqr]; exact hp
  have hlow1 : (s.takeTable (lowAnvil d)).anv[lowAnvil d].switched = true := by rw [hanv]; simp
  have hhigh1 : (s.takeTable (lowAnvil d)).anv[highAnvil d].switched = false := by rw [hanv]; simpa using hhigh
  intro v
  have hv : v = (((s.takeTable (lowAnvil d)).withTable (highAnvil d) t lend).showTable d).tableDone d :=
    (congrArg (takeWithdrawn · (highAnvil d)) (takeWithdrawn_of_withdrawn hwl)).trans
      ((takeWithdrawn_of_withdrawn hw1).trans (takeTable_second hp1 hlow1 hhigh1))
  rw [hv]
  refine ⟨(tableDone_pending _ d).1, (tableDone_pending _ d).2, fun k hk => ?_⟩
  rw [tableDone_anv, showTable_anv, withTable, hanv]
  obtain rfl | rfl := eq_lowAnvil_or_highAnvil hk
  · simp
  · simp

/-! The table held. -/

section
variable (s : State) (d : Die) (a n : Nat) (lend : Bool)

theorem tableHeld_seqr : (s.tableHeld d a n lend).seqr = s.seqr.set d { s.seqr[d] with
    loading := none, pending := some ((s.itabWords a n).map (BitVec.ofNat 32), lend) } := by
  rw [tableHeld, wrB_seqr, wrB_seqr, tableRead_seqr]

theorem tableHeld_anv : (s.tableHeld d a n lend).anv = s.anv := by
  rw [tableHeld, wrB_anv, wrB_anv, tableRead_anv]

theorem rdB_tableHeld_pending : (s.tableHeld d a n lend).rdB Reg.STR_ITAB_STATUS_PENDING d = true := by
  have h : ∀ d : Die, apart Reg.STR_ITAB_STATUS_LOAD_ERR d Reg.STR_ITAB_STATUS_PENDING d = true := by decide
  rw [tableHeld, rdB, wrB, rd_wr_other _ _ (h d)]
  exact rdB_wrB_same _ _ _ _ rfl

theorem rdB_tableHeld_loadErr : (s.tableHeld d a n lend).rdB Reg.STR_ITAB_STATUS_LOAD_ERR d = false :=
  rdB_wrB_same _ _ _ _ rfl

theorem rdB_tableHeld_withdrawn (k : Fin 4) :
    (s.tableHeld d a n lend).rdB Reg.ANV_FENCE_WITHDRAWN k = s.rdB Reg.ANV_FENCE_WITHDRAWN k := by
  have h : ∀ (k : Fin 4) (d : Die), quietMem Reg.ANV_FENCE_WITHDRAWN k = true ∧ ∀ g ∈ [Reg.STR_ITAB_STATUS_LOAD_ERR,
      Reg.STR_ITAB_STATUS_PENDING], apart g d Reg.ANV_FENCE_WITHDRAWN k = true := by decide
  obtain ⟨hquiet, hapart⟩ := h k d
  rw [rdB, tableHeld, wrB, rd_wr_other _ _ (hapart _ (by simp)), wrB, rd_wr_other _ _ (hapart _ (by simp)),
    rd_tableRead _ _ _ _ _ hquiet, rdB]

end

end Sys2Proof.Machine.State

namespace Sys2Proof.Machine

open State Sys2Proof.Safety

/-! The commands. -/

theorem exec_ringConfigWrite {s u : State} {w : Writer} {r : RingId} {reg : Fin 3} {v : Word} {k : KStat}
    (hw : writable s w (0x021000 + 0x40 * r.val + 4 * reg.val) = true) (h : s.ringConfig r reg v.toNat = (u, k)) :
    exec (.ringConfigWrite w r reg v) s = .next ((u.writeStatus k).done s.pending) :=
  congrArg (act s) (regWrite_made hw h)

theorem exec_ringConfigWrite_open {s : State} {w : Writer} {r : RingId} {reg : Fin 3} {v : Word}
    (hw : writable s w (0x021000 + 0x40 * r.val + 4 * reg.val) = true) (hslot : s.slotState (ringSlot r) ≤ 1)
    (hn : reg = 2 → bits v.toNat 4 0 = 0 ∨ 4 ≤ bits v.toNat 4 0 ∧ bits v.toNat 4 0 ≤ 16) :
    ∃ t, exec (.ringConfigWrite w r reg v) s = .next t ∧ t.rd (ringField reg) r = ringValue reg v.toNat ∧
      t.rd Reg.STR_RING_HEAD_COUNT r = 0 ∧ t.rd Reg.STR_RING_TAIL_COUNT r = 0 ∧ t.rd Reg.STR_RING_DONE_COUNT r = 0 ∧
      RegsOnly { s with wres := .ok } t [0x021000 + 0x40 * r.val + 4 * reg.val, 0x02100C + 0x40 * r.val,
        0x021010 + 0x40 * r.val, 0x021014 + 0x40 * r.val] := by
  have hown : ∀ r : RingId, (∀ reg : Fin 3, ownField (ringField reg) r = true) ∧ ∀ f ∈ [Reg.STR_RING_HEAD_COUNT,
      Reg.STR_RING_TAIL_COUNT, Reg.STR_RING_DONE_COUNT], ownField f r = true := by decide
  obtain ⟨hfield, hcount⟩ := hown r
  obtain ⟨hhead, htail, hdone⟩ := rd_ringConfigured_counts s r reg v.toNat
  refine ⟨_, exec_ringConfigWrite hw (ringConfig_of_open hslot hn), ?_, ?_, ?_, ?_, ?_⟩
  · rw [done_rd _ (hfield reg), writeStatus_rd, rd_ringConfigured_field]
  · rw [done_rd _ (hcount _ (by simp)), writeStatus_rd, hhead]
  · rw [done_rd _ (hcount _ (by simp)), writeStatus_rd, htail]
  · rw [done_rd _ (hcount _ (by simp)), writeStatus_rd, hdone]
  · refine done_regsOnly (s := s.writeStatus .ok) ?_ fun b hb => ?_
    · rw [writeStatus_noCtl, ringConfigured_noCtl, writeStatus_noCtl]
    · rw [writeStatus_word, ringConfigured_word hb, writeStatus_word]

theorem exec_ringConfigWrite_running {s : State} {w : Writer} {r : RingId} {reg : Fin 3} {v : Word}
    (hw : writable s w (0x021000 + 0x40 * r.val + 4 * reg.val) = true) (hslot : 2 ≤ s.slotState (ringSlot r)) :
    ∃ t, exec (.ringConfigWrite w r reg v) s = .next t ∧ (∃ cls idx, t.wres = .busy cls idx) ∧
      RegsOnly { s with wres := t.wres } t [] := by
  refine ⟨_, exec_ringConfigWrite hw (ringConfig_of_running hslot), ⟨_, _, done_wres ..⟩, ?_⟩
  rw [done_wres]
  exact done_regsOnly (s := s.writeStatus (.busy 10 (ringSlot r).val)) rfl fun _ _ => rfl

theorem exec_itabLoad {s : State} {w : Writer} {d : Die} {v : Word} (hw : writable s w (0x020108 + 0x40 * d.val) = true)
    (h1 : 1 ≤ bits v.toNat 12 0) (h4 : bits v.toNat 12 0 ≤ 4096) (hp : s.rdB Reg.STR_ITAB_STATUS_PENDING d = false) :
    ∃ t, exec (.itabLoad w d v) s = .next t ∧ t.rd Reg.STR_ITAB_CTRL_LEN d = bits v.toNat 12 0 ∧
      t.rdB Reg.STR_ITAB_CTRL_LEND d = bit v.toNat 13 ∧
      RegsOnly { s with
        wres := .ok
        seqr := s.seqr.set d { s.seqr[d] with loading := some (s.itabAddr d, bits v.toNat 12 0, bit v.toNat 13) } } t
        [0x020108 + 0x40 * d.val] := by
  have hown : ∀ d : Die, ownField Reg.STR_ITAB_CTRL_LEN d = true ∧ ownField Reg.STR_ITAB_CTRL_LEND d = true := by decide
  obtain ⟨hlen, hlend⟩ := rd_itabShown s d (bit v.toNat 13) h4
  refine ⟨_, congrArg (act s) (regWrite_made hw (itabWrite_load h1 h4 hp)), ?_, ?_, ?_⟩
  · rw [done_rd _ (hown d).1, writeStatus_rd, itabLoading, rd_with_seqr, hlen]
  · rw [done_rdB _ (hown d).2, writeStatus_rdB, itabLoading, rdB_with_seqr, hlend]
  · refine done_regsOnly (s := { s with
      wres := .ok
      seqr := s.seqr.set d { s.seqr[d] with loading := some (s.itabAddr d, bits v.toNat 12 0, bit v.toNat 13) } }) ?_ fun b hb => ?_
    · exact congrArg (fun x : State => ({ x with
        wres := .ok
        seqr := s.seqr.set d { s.seqr[d] with loading := some (s.itabAddr d, bits v.toNat 12 0, bit v.toNat 13) } } : State))
        (itabShown_noCtl s d (bits v.toNat 12 0) (bit v.toNat 13))
    · exact itabShown_word hb

theorem exec_itabLoadDone {s : State} (hm : s.memUp = true) (d : Die) :
    exec (.itabLoadDone d) s = .next ((s.itabLoaded d).done s.pending) := congrArg (act s) (if_pos hm)

section
variable {s : State} {d : Die} {a n : Nat} {lend : Bool}

theorem ownField_itabStatus (d : Die) : ownField Reg.STR_ITAB_STATUS_LOAD_ERR d = true ∧
    ownField Reg.STR_ITAB_STATUS_PENDING d = true := by revert d; decide

/-- A table is rejected at its first bad entry (R157). -/
theorem exec_itabLoadDone_bad {i : Nat} (hm : s.memUp = true) (h : s.seqr[d].loading = some (a, n, lend)) (hi : i < n)
    (hbad : s.itabBad a n i = true) (hfirst : ∀ j, j < i → s.itabBad a n j = false) :
    ∃ t, exec (.itabLoadDone d) s = .next t ∧ t.rdB Reg.STR_ITAB_STATUS_LOAD_ERR d = true ∧
      t.seqr = s.seqr.set d { s.seqr[d] with loading := none } ∧ t.anv = s.anv ∧
      Raised (s.readRange ⟨d, none, false, 0⟩ a (4 * n)) t 0x0303 d none i := by
  have hquiet : ∀ d : Die, quiet Reg.STR_ITAB_STATUS_LOAD_ERR d = true := by decide
  refine ⟨_, exec_itabLoadDone hm d, ?_⟩
  rw [itabLoaded_bad h hi hbad hfirst]
  refine ⟨?_, ?_, ?_, tableRead_raised ..⟩
  · rw [done_rdB _ (ownField_itabStatus d).1, rdB, rd_raise _ _ _ _ _ (hquiet d)]
    exact rdB_wrB_same _ _ _ _ rfl
  · rw [done_seqr, raise_seqr, wrB_seqr, tableRead_seqr]
  · rw [done_anv, raise_anv, wrB_anv, tableRead_anv]

/-- A table read whole is held until both Anvils have taken it (R157). -/
theorem exec_itabLoadDone_good (hm : s.memUp = true) (h : s.seqr[d].loading = some (a, n, lend))
    (hgood : ∀ i, i < n → s.itabBad a n i = false) :
    ∃ t, exec (.itabLoadDone d) s = .next t ∧ t.rdB Reg.STR_ITAB_STATUS_LOAD_ERR d = false ∧ t.seqr[d].loading = none ∧
      (s.rdB Reg.ANV_FENCE_WITHDRAWN (2 * d.val) = false → s.rdB Reg.ANV_FENCE_WITHDRAWN (2 * d.val + 1) = false →
        t.rdB Reg.STR_ITAB_STATUS_PENDING d = true ∧
        t.seqr[d].pending = some ((s.itabWords a n).map (BitVec.ofNat 32), lend) ∧ t.anv = s.anv) ∧
      (s.rdB Reg.ANV_FENCE_WITHDRAWN (2 * d.val) = true → s.rdB Reg.ANV_FENCE_WITHDRAWN (2 * d.val + 1) = true →
        s.anv[lowAnvil d].switched = false → s.anv[highAnvil d].switched = false →
        t.rdB Reg.STR_ITAB_STATUS_PENDING d = false ∧ t.seqr[d].pending = none ∧ ∀ k : Fin 4, k.val / 2 = d.val →
          t.anv[k].table = (s.itabWords a n).map (BitVec.ofNat 32) ∧ t.anv[k].lend = lend ∧ t.anv[k].switched = false) := by
  have hseqr := tableHeld_seqr s d a n lend
  have hanv := tableHeld_anv s d a n lend
  have hlow := rdB_tableHeld_withdrawn s d a n lend (lowAnvil d)
  have hhigh := rdB_tableHeld_withdrawn s d a n lend (highAnvil d)
  have hp : (s.tableHeld d a n lend).seqr[d].pending = some ((s.itabWords a n).map (BitVec.ofNat 32), lend) := by
    rw [hseqr]; simp
  rw [lowAnvil_val] at hlow
  rw [highAnvil_val] at hhigh
  refine ⟨_, exec_itabLoadDone hm d, ?_⟩
  rw [itabLoaded_good h hgood, done_rdB _ (ownField_itabStatus d).1, done_rdB _ (ownField_itabStatus d).2, done_seqr, done_anv]
  refine ⟨?_, ?_, fun hl hh => ?_, fun hl hh hx hy => ?_⟩
  · rw [loadErr_takeWithdrawn, loadErr_takeWithdrawn, rdB_tableHeld_loadErr]
  · rw [loading_takeWithdrawn, loading_takeWithdrawn, hseqr]
    simp
  · rw [takeWithdrawn_of_in_use (n := lowAnvil d) (by rw [lowAnvil_val, hlow, hl]),
      takeWithdrawn_of_in_use (n := highAnvil d) (by rw [highAnvil_val, hhigh, hh])]
    exact ⟨rdB_tableHeld_pending .., hp, hanv⟩
  · exact takeWithdrawn_both hp (by rw [lowAnvil_val, hlow, hl]) (by rw [highAnvil_val, hhigh, hh]) (by rw [hanv, hx])
      (by rw [hanv, hy])

end

theorem exec_disarm {s : State} {w : Writer} (hw : writable s w 0x090000 = true) (slots : Byte) :
    exec (.disarm w slots) s = .next (wrote s (s.disarmSlots slots.toNat (List.finRange 8))) :=
  congrArg (act s) (regWrite_made hw rfl)

theorem disarm_regsOnly {s : State} {slots : Byte} (h : ∀ l ∈ s.layers, bit slots.toNat (ringSlot l.ring) = false) :
    RegsOnly { s with wres := .ok } (wrote s (s.disarmSlots slots.toNat (List.finRange 8))) [] := by
  rw [disarmSlots_of_none h]
  exact done_regsOnly (s := s.writeStatus .ok) rfl fun _ _ => rfl

/-- Settles O40: each write is one of its registers, by `ringConfigured` and `itabLoading`; a table's reading ends at its
first bad entry or is taken by the withdrawn Anvils in turn; and a disarmed slot keeps no layer. -/
theorem ringsTablesAndDisarm : Obligations.RingsTablesAndDisarm := by
  unfold Obligations.RingsTablesAndDisarm
  intro s w r reg d v slots n a q x y
  refine ⟨fun hw hslot hn => ?_, exec_ringConfigWrite_running, exec_itabLoad, fun a n lend hm hq => ⟨fun i hi hbad hfirst =>
    exec_itabLoadDone_bad hm hq hi hbad hfirst, exec_itabLoadDone_good hm hq⟩, fun hw => ?_⟩
  · obtain ⟨t, ht, hfield, hcounts⟩ := exec_ringConfigWrite_open hw hslot hn
    refine ⟨t, ht, ?_, ?_, ?_, hcounts⟩
    · rintro rfl; exact hfield
    · rintro rfl; exact hfield
    · rintro rfl; exact hfield
  · refine ⟨exec_disarm hw slots, ⟨_, exec_disarm hw slots, fun l hl => ?_⟩, fun h => ⟨_, exec_disarm hw slots, disarm_regsOnly h⟩⟩
    rw [wrote, done_layers] at hl
    obtain ⟨-, hne⟩ := mem_layers_disarmSlots _ hl
    exact Bool.eq_false_iff.mpr fun hbit => hne _ (List.mem_finRange _) hbit rfl

end Sys2Proof.Machine
end

section
/-!
The cap loop (R406 to R413, R424): what a period of 25 µs changes. What follows the loop's own step writes only status bits,
limits of heat and the accounts of energy, so it is walked through once, for every value that none of these writes changes.
-/
namespace Sys2Proof.Machine.State

open Sys2Proof.Safety

/-! Values that the end of a period keeps. -/

/-- The fields that the end of a period writes beside the loop's own and the accounts of energy. -/
def periodFields : List Field :=
  [Reg.PWR_STATUS_CAP_UNMET, Reg.PWR_ANV_OP_LIM_THERM, Reg.PWR_STATUS_THROTTLE, Reg.PWR_STATUS_GROUP_LAG, Reg.PWR_STATUS_QUENCH,
    Reg.PWR_STATUS_QCAUSE, Reg.PWR_STATUS_STATE, Reg.HRT_CD_HOLD_CD2, Reg.HRT_WAKE_DELAY_ARM, Reg.HRT_PAD_HOLD_GROUPS]

/-- The power state without its inlet flag, its counts of periods but the loop's own, and its entries and holds. -/
def loopPart (p : Power) : Power :=
  { p with hot := false, metCount := 0, lagClear := 0, entering := none, fromDoze := false, dozeHeld := false, memAsleep := false }

/-- A value of the state that the end of a period keeps: none of `periodFields`, no event, no Anvil's point, and no part of
the power state beyond `loopPart` changes it. -/
structure KeptByPeriod {γ : Type} (g : State → γ) : Prop where
  wr    : ∀ (s : State) (f : Field) (v : Nat), f ∈ periodFields → g (s.wr f 0 v) = g s
  raise : ∀ (s : State) (c u : Nat) (sl : Option (Fin 8)) (a : Nat), g (s.raise c u sl a) = g s
  anv   : ∀ (s : State) (a : Fin 4) (x : Anvil), g (s.setAnv a x) = g s
  pw    : ∀ (s : State) (p : Power), loopPart p = loopPart s.pw → g { s with pw := p } = g s

/-- A state without what the end of a period may change beside the accounts of energy. -/
def noPeriod (s : State) : State := { s.noEvent with anv := Vector.replicate 4 anvilReset, pw := loopPart s.pw }

theorem noPeriod_of_noEvent {s t : State} (h : t.noEvent = s.noEvent) : t.noPeriod = s.noPeriod := by
  rw [eq_of_noEvent h]; rfl

theorem noPeriod_of_noCtl {s t : State} (h : t.noCtl = s.noCtl) : t.noPeriod = s.noPeriod :=
  noPeriod_of_noEvent (noEvent_of_noCtl h)

section
variable {s t : State} (h : t.noPeriod = s.noPeriod)
include h

theorem mem_of_noPeriod : t.mem = s.mem := (congrArg State.mem h :)
theorem rings_of_noPeriod : t.rings = s.rings := (congrArg State.rings h :)
theorem ops_of_noPeriod : t.ops = s.ops := (congrArg State.ops h :)
theorem slots_of_noPeriod : t.slots = s.slots := (congrArg State.slots h :)
theorem below_of_noPeriod : t.pw.below = s.pw.below := (congrArg (·.pw.below) h :)
theorem overs_of_noPeriod : t.pw.overs = s.pw.overs := (congrArg (·.pw.overs) h :)
theorem charged_of_noPeriod : t.pw.charged = s.pw.charged := (congrArg (·.pw.charged) h :)
theorem gated_of_noPeriod : t.pw.gated = s.pw.gated := (congrArg (·.pw.gated) h :)
theorem moved_of_noPeriod : t.pw.moved = s.pw.moved := (congrArg (·.pw.moved) h :)

end

theorem keptByPeriod_noPeriod : KeptByPeriod noPeriod where
  wr s f v _ := noPeriod_of_noCtl (wr_noCtl ..)
  raise s c u sl a := noPeriod_of_noEvent (raise_noEvent ..)
  anv s a x := rfl
  pw s p hp := by simp only [noPeriod, hp]; rfl

/-- Whether a field is none of those that the end of a period or an event writes. -/
def offPeriod (f : Field) (i : Nat) : Bool := quiet f i && periodFields.all fun g => apart g 0 f i

theorem keptByPeriod_rd {f : Field} {i : Nat} (h : offPeriod f i = true) : KeptByPeriod (rd · f i) := by
  simp only [offPeriod, Bool.and_eq_true, List.all_eq_true] at h
  obtain ⟨hquiet, hapart⟩ := h
  exact {
    wr := fun s g v hg => rd_wr_other _ _ (hapart g hg)
    raise := fun s c u sl a => rd_raise _ _ _ _ _ hquiet
    anv := fun s a x => rd_with_anv ..
    pw := fun s p _ => rd_with_pw .. }

/-! Quench entered, cut into its parts (R421, R422, R462). -/

/-- Quench shown with its cause, and its event. -/
def quenchShown (s : State) (cause : Nat) : State :=
  ((s.wrB Reg.PWR_STATUS_QUENCH 0 true).wr Reg.PWR_STATUS_QCAUSE 0 cause).raise 0x0705 0 none cause

/-- Countdown 2 taken; a wake delay that held it is cancelled with its event. -/
def countdownTaken (s : State) : State :=
  let t := s.wr Reg.HRT_CD_HOLD_CD2 0 2
  if s.rd Reg.HRT_CD_HOLD_CD2 0 = 1 then (t.wrB Reg.HRT_WAKE_DELAY_ARM 0 false).raise 0x0104 8 none (2 + 2 ^ 16) else t

/-- A pending Doze or Slumber entry cancelled with its event. -/
def entryDropped (s : State) : State :=
  if s.pw.entering.isSome then
    ({ s with pw := { s.pw with entering := none, fromDoze := false } }.wr Reg.PWR_STATUS_STATE 0
      (if s.pw.entering.isSome && s.pw.fromDoze then 2 else 0)).raise 0x0104 10 none (2 ^ 16)
  else s

/-- Memory in self-refresh with its pads held, and whether Doze stands at the end of Quench. -/
def quenchHeld (s : State) (doze : Bool) : State :=
  { s with pw := { s.pw with dozeHeld := doze, memAsleep := true } }.holdPads memPads

theorem enterQuench_form {s : State} (cause : Nat) (hq : ¬s.quench = true) :
    ∃ doze, s.enterQuench cause = (s.quenchShown cause).countdownTaken.entryDropped.quenchHeld doze := by
  rw [enterQuench, if_neg hq]
  exact ⟨_, rfl⟩

section
variable {γ : Type} {g : State → γ} (hk : KeptByPeriod g)
include hk

theorem KeptByPeriod.wrB (s : State) {f : Field} (b : Bool) (hf : f ∈ periodFields) : g (s.wrB f 0 b) = g s := hk.wr s f _ hf

theorem KeptByPeriod.setLimTherm (s : State) (a v : Nat) : g (s.setLimTherm a v) = g s := hk.wr _ _ _ (by decide)

theorem KeptByPeriod.thermalStep (s : State) (a : Fin 4) (tj : Nat) : g (s.thermalStep a tj) = g s := by
  have hset (x : Anvil) (v : Nat) : g ((s.setAnv a x).setLimTherm a v) = g s := (hk.setLimTherm ..).trans (hk.anv ..)
  simp only [State.thermalStep]
  refine ite_keeps g _ (ite_keeps g _ (hset ..) ?_) (ite_keeps g _ (ite_keeps g _ (hset ..) (hk.anv ..)) (hk.anv ..))
  rw [hk.raise, hk.wrB _ _ (by decide), hset]

theorem KeptByPeriod.thermal (s : State) (m : CapSample) : g (s.thermal m) = g s := by
  simp only [State.thermal]
  rw [hk.wrB _ _ (by decide)]
  exact foldl_keeps g _ (fun s a => hk.thermalStep s a _) _ _

theorem KeptByPeriod.groupLag (s : State) : g s.groupLag = g s := by
  have hclear (n : Nat) : g { s with pw := { s.pw with lagClear := n } } = g s := hk.pw _ _ rfl
  simp only [State.groupLag]
  split
  · refine ite_keeps g _ (hclear 0) ?_
    rw [hk.raise, hk.wrB _ _ (by decide), hclear]
  · refine ite_keeps g _ ?_ (hclear _)
    rw [hk.wrB _ _ (by decide), hclear]

theorem KeptByPeriod.repointAll (s : State) : g s.repointAll = g s := by
  refine foldl_keeps g _ (fun s a => ?_) _ _
  rw [repoint]
  exact ite_keeps g _ (hk.anv ..) (ite_keeps g _ rfl (hk.anv ..))

theorem KeptByPeriod.quenchShown (s : State) (cause : Nat) : g (s.quenchShown cause) = g s := by
  rw [State.quenchShown, hk.raise, hk.wr _ _ _ (by decide), hk.wrB _ _ (by decide)]

theorem KeptByPeriod.countdownTaken (s : State) : g s.countdownTaken = g s := by
  have hcd : g (s.wr Reg.HRT_CD_HOLD_CD2 0 2) = g s := hk.wr _ _ _ (by decide)
  simp only [State.countdownTaken]
  refine ite_keeps g _ ?_ hcd
  rw [hk.raise, hk.wrB _ _ (by decide), hcd]

theorem KeptByPeriod.entryDropped (s : State) : g s.entryDropped = g s := by
  simp only [State.entryDropped]
  refine ite_keeps g _ ?_ rfl
  rw [hk.raise, hk.wr _ _ _ (by decide)]
  exact hk.pw _ _ rfl

theorem KeptByPeriod.quenchHeld (s : State) (doze : Bool) : g (s.quenchHeld doze) = g s := by
  simp only [State.quenchHeld, holdPads]
  rw [hk.wr _ _ _ (by decide)]
  exact hk.pw _ _ rfl

theorem KeptByPeriod.enterQuench (s : State) (cause : Nat) : g (s.enterQuench cause) = g s := by
  by_cases hq : s.quench = true
  · rw [State.enterQuench, if_pos hq]
  · obtain ⟨doze, he⟩ := enterQuench_form cause hq
    rw [he, hk.quenchHeld, hk.entryDropped, hk.countdownTaken, hk.quenchShown]

/-- After the energy is attributed a period ends with what it keeps. -/
theorem KeptByPeriod.capPeriod (s : State) (m : CapSample) :
    g (s.capPeriod m) = g (((((s.sensors m).capLoop m).thermal m).groupLag).attributeEnergy m) := by
  simp only [State.capPeriod]
  exact ite_keeps g _ ((hk.enterQuench ..).trans (hk.repointAll _)) (hk.repointAll _)

end

/-! The loop's own step (R406, R408, R410). -/

/-- PEAK cleared where the limiter has released it (R410). -/
def peakEased (s : State) (m : CapSample) : State :=
  if s.rdB Reg.PWR_STATUS_PEAK 0 && m.peakClear then s.wrB Reg.PWR_STATUS_PEAK 0 false else s

/-- The loop's step on what a state shows: LIM_CAP, duty, memory admission, and the two counts (R406). -/
def loopOf (s : State) (m : CapSample) (peak : Bool) : Nat × Nat × Nat × Nat × Nat :=
  loopStep m.watts (s.capHalf m.inlet) s.topPoint peak
    (s.rd Reg.PWR_STATUS_LIM_CAP 0, s.rd Reg.PWR_STATUS_DUTY 0, s.rd Reg.PWR_STATUS_MEM 0, s.pw.below, s.pw.overs)

/-- The registers that the loop's step reads, but for PEAK. -/
def loopInputs : List Field :=
  [Reg.PWR_CAP_WATTS, Reg.PWR_STATUS_LIM_CAP, Reg.PWR_STATUS_DUTY, Reg.PWR_STATUS_MEM, Reg.PWR_GROUP_EN, Reg.PWR_GROUP_OP,
    Reg.PWR_ANV_OP_LIM_THERM]

theorem topPoint_congr {s t : State} (ha : t.anv = s.anv) (h : ∀ f ∈ loopInputs, t.rd f 0 = s.rd f 0) :
    t.topPoint = s.topPoint := by
  have hen : t.rdB Reg.PWR_GROUP_EN 0 = s.rdB Reg.PWR_GROUP_EN 0 := by rw [rdB, rdB, h _ (by decide)]
  refine List.foldl_ext _ _ _ fun x a _ => ?_
  rw [reqPoint, reqPoint, limTherm, limTherm, ha, hen, h Reg.PWR_GROUP_OP (by decide), h Reg.PWR_ANV_OP_LIM_THERM (by decide)]

theorem loopOf_congr {s t : State} (m : CapSample) (peak : Bool) (ha : t.anv = s.anv) (hb : t.pw.below = s.pw.below)
    (ho : t.pw.overs = s.pw.overs) (h : ∀ f ∈ loopInputs, t.rd f 0 = s.rd f 0) : t.loopOf m peak = s.loopOf m peak := by
  rw [loopOf, loopOf, capHalf, capHalf, topPoint_congr ha h, hb, ho, h Reg.PWR_CAP_WATTS (by decide),
    h Reg.PWR_STATUS_LIM_CAP (by decide), h Reg.PWR_STATUS_DUTY (by decide), h Reg.PWR_STATUS_MEM (by decide)]

theorem peakEased_noCtl (s : State) (m : CapSample) : (s.peakEased m).noCtl = s.noCtl :=
  ite_keeps noCtl _ (wrB_noCtl ..) rfl

theorem rd_peakEased (s : State) (m : CapSample) {f : Field} {i : Nat} (h : apart Reg.PWR_STATUS_PEAK 0 f i = true) :
    (s.peakEased m).rd f i = s.rd f i := ite_keeps (rd · f i) _ (rd_wr_other _ _ h) rfl

theorem peak_peakEased (s : State) (m : CapSample) :
    (s.peakEased m).rdB Reg.PWR_STATUS_PEAK 0 = (s.rdB Reg.PWR_STATUS_PEAK 0 && !m.peakClear) := by
  rw [peakEased]
  split
  case isTrue h => rw [rdB_wrB_same _ _ _ _ rfl]; simp_all
  case isFalse h => cases hc : m.peakClear <;> simp_all

theorem loopOf_peakEased (s : State) (m : CapSample) (peak : Bool) : (s.peakEased m).loopOf m peak = s.loopOf m peak := by
  have hpw := pw_of_noCtl (peakEased_noCtl s m)
  refine loopOf_congr m peak (anv_of_noCtl (peakEased_noCtl s m)) (by rw [hpw]) (by rw [hpw]) fun f hf => rd_peakEased s m ?_
  revert f; decide

/-- The loop's variables that PWR_STATUS shows (R406). -/
def loopShown (s : State) (x : Nat × Nat × Nat × Nat × Nat) : State :=
  ((s.wr Reg.PWR_STATUS_LIM_CAP 0 x.1).wr Reg.PWR_STATUS_DUTY 0 x.2.1).wr Reg.PWR_STATUS_MEM 0 x.2.2.1

/-- The loop's own counts (R406). -/
def withCounts (s : State) (below overs : Nat) : State := { s with pw := { s.pw with below := below, overs := overs } }

/-- The count of periods within the cap (R408). -/
def withMet (s : State) (met : Nat) : State := { s with pw := { s.pw with metCount := met } }

/-- The loop's own variables shown and kept. -/
def loopTaken (s : State) (x : Nat × Nat × Nat × Nat × Nat) : State := (s.loopShown x).withCounts x.2.2.2.1 x.2.2.2.2

/-- CAP_UNMET set or cleared, with its event (R408). -/
def unmetShown (s : State) (overs met watts : Nat) : State :=
  let unmet := s.rdB Reg.PWR_STATUS_CAP_UNMET 0
  if 40 ≤ overs && !unmet then (s.wrB Reg.PWR_STATUS_CAP_UNMET 0 true).raise 0x0702 0 none watts
  else if unmet && decide (40 ≤ met) then s.wrB Reg.PWR_STATUS_CAP_UNMET 0 false
  else s

/-- What the loop's step takes from a state, with PEAK as the limiter leaves it. -/
def loopResult (s : State) (m : CapSample) : Nat × Nat × Nat × Nat × Nat :=
  s.loopOf m (s.rdB Reg.PWR_STATUS_PEAK 0 && !m.peakClear)

theorem capLoop_form (s : State) (m : CapSample) : ∃ met, s.capLoop m =
    (((s.peakEased m).loopTaken (s.loopResult m)).withMet met).unmetShown (s.loopResult m).2.2.2.2 met m.watts := by
  have hcap : (s.peakEased m).capHalf m.inlet = s.capHalf m.inlet := by
    rw [capHalf, capHalf, rd_peakEased s m (by decide)]
  rw [loopResult, ← loopOf_peakEased, ← peak_peakEased, loopOf, hcap, State.capLoop, ← peakEased]
  generalize s.peakEased m = t
  generalize loopStep m.watts (s.capHalf m.inlet) t.topPoint _ _ = x
  exact ⟨_, rfl⟩

theorem KeptByPeriod.withMet {γ : Type} {g : State → γ} (hk : KeptByPeriod g) (s : State) (met : Nat) :
    g (s.withMet met) = g s := hk.pw s _ rfl

theorem KeptByPeriod.capLoop {γ : Type} {g : State → γ} (hk : KeptByPeriod g) (s : State) (m : CapSample) :
    g (s.capLoop m) = g ((s.peakEased m).loopTaken (s.loopResult m)) := by
  have hunmet (t : State) (overs met watts : Nat) : g (t.unmetShown overs met watts) = g t := by
    simp only [State.unmetShown]
    refine ite_keeps g _ ?_ (ite_keeps g _ (hk.wrB _ _ (by decide)) rfl)
    rw [hk.raise, hk.wrB _ _ (by decide)]
  obtain ⟨met, he⟩ := capLoop_form s m
  rw [he, hunmet, hk.withMet]

theorem rd_loopTaken (s : State) (x : Nat × Nat × Nat × Nat × Nat) (f : Field) (i : Nat) :
    (s.loopTaken x).rd f i = (s.loopShown x).rd f i := rd_with_pw ..

theorem rd_loopTaken_other (s : State) (x : Nat × Nat × Nat × Nat × Nat) {f : Field} {i : Nat}
    (h : ∀ g ∈ [Reg.PWR_STATUS_LIM_CAP, Reg.PWR_STATUS_DUTY, Reg.PWR_STATUS_MEM], apart g 0 f i = true) :
    (s.loopTaken x).rd f i = s.rd f i := by
  rw [rd_loopTaken, loopShown, rd_wr_other _ _ (h _ (by simp)), rd_wr_other _ _ (h _ (by simp)), rd_wr_other _ _ (h _ (by simp))]

theorem loopTaken_limCap (s : State) (x : Nat × Nat × Nat × Nat × Nat) :
    (s.loopTaken x).rd Reg.PWR_STATUS_LIM_CAP 0 = x.1 % 16 := by
  rw [rd_loopTaken, loopShown, rd_wr_other _ _ (by decide), rd_wr_other _ _ (by decide)]
  exact rd_wr_same _ _ _ _ (by decide)

theorem loopTaken_duty (s : State) (x : Nat × Nat × Nat × Nat × Nat) :
    (s.loopTaken x).rd Reg.PWR_STATUS_DUTY 0 = x.2.1 % 32 := by
  rw [rd_loopTaken, loopShown, rd_wr_other _ _ (by decide)]
  exact rd_wr_same _ _ _ _ (by decide)

theorem loopTaken_mem (s : State) (x : Nat × Nat × Nat × Nat × Nat) :
    (s.loopTaken x).rd Reg.PWR_STATUS_MEM 0 = x.2.2.1 % 32 := by
  rw [rd_loopTaken, loopShown]
  exact rd_wr_same _ _ _ _ (by decide)

theorem loopShown_noCtl (s : State) (x : Nat × Nat × Nat × Nat × Nat) : (s.loopShown x).noCtl = s.noCtl := by simp [loopShown]

theorem withCounts_noPeriod {s t : State} (h : t.noPeriod = s.noPeriod) (below overs : Nat) :
    (t.withCounts below overs).noPeriod = (s.withCounts below overs).noPeriod :=
  (congrArg (withCounts · below overs) h :)

/-! What the sensors show (R411, R426). -/

theorem rd_of_word (s : State) {f : Field} {i : Nat} (h : fieldWords f = 1) :
    s.rd f i = (s.word (fieldAddr f i)).toNat >>> (f.lo % 32) % 2 ^ f.len := by
  rw [rd, h]; simp [wordsAt]

/-- The words of PWR_TEMP and PWR_INPUT as measured. -/
def measured (s : State) (m : CapSample) : State :=
  (s.setWord 0x080014 (BitVec.ofNat 32 (m.tjWest % 256 + (m.tjEast % 256) * 2 ^ 8 + (m.inlet % 256) * 2 ^ 16 +
    (m.outlet % 256) * 2 ^ 24))).setWord 0x080018 (BitVec.ofNat 32 (m.watts % 2 ^ 16 + m.vin.toNat * 2 ^ 16))

theorem rd_measured (s : State) (m : CapSample) {f : Field} {i : Nat}
    (h : fieldAddr f i + 4 * fieldWords f ≤ 0x080014 ∨ 0x08001C ≤ fieldAddr f i) : (s.measured m).rd f i = s.rd f i := by
  rw [rd, measured, wordsAt_setWord_other _ _ (by omega), wordsAt_setWord_other _ _ (by omega), rd]

theorem measured_watts (s : State) (m : CapSample) : (s.measured m).rd Reg.PWR_INPUT_WATTS 0 = m.watts % 2 ^ 16 := by
  have ha : fieldAddr Reg.PWR_INPUT_WATTS 0 = 0x080018 := by decide
  have hl : Reg.PWR_INPUT_WATTS.lo % 32 = 0 ∧ Reg.PWR_INPUT_WATTS.len = 16 := by decide
  rw [rd_of_word _ (by decide), ha, hl.1, hl.2, measured, word_setWord_same, BitVec.toNat_ofNat, Nat.shiftRight_zero]
  omega

theorem measured_inlet (s : State) (m : CapSample) : (s.measured m).rd Reg.PWR_TEMP_INLET 0 = m.inlet % 256 := by
  have ha : fieldAddr Reg.PWR_TEMP_INLET 0 = 0x080014 := by decide
  have hl : Reg.PWR_TEMP_INLET.lo % 32 = 16 ∧ Reg.PWR_TEMP_INLET.len = 8 := by decide
  rw [rd_of_word _ (by decide), ha, hl.1, hl.2, measured, word_setWord_other _ _ (by decide), word_setWord_same,
    BitVec.toNat_ofNat, Nat.shiftRight_eq_div_pow]
  omega

/-- CAP_COOLANT shown where the coolant ceiling lies below the cap (R412). -/
def coolantShown (s : State) (m : CapSample) : State :=
  s.wrB Reg.PWR_STATUS_CAP_COOLANT 0 (decide (ceilingHalf m.inlet < 2 * s.rd Reg.PWR_CAP_WATTS 0))

/-- Whether the inlet average exceeds 45 °C (R412). -/
def withHot (s : State) (hot : Bool) : State := { s with pw := { s.pw with hot := hot } }

theorem sensors_eq (s : State) (m : CapSample) : s.sensors m = ((s.measured m).coolantShown m).withHot (decide (180 < m.inlet)) :=
  id rfl

theorem withHot_anv (s : State) (hot : Bool) : (s.withHot hot).anv = s.anv := id rfl

theorem KeptByPeriod.withHot {γ : Type} {g : State → γ} (hk : KeptByPeriod g) (s : State) (hot : Bool) :
    g (s.withHot hot) = g s := hk.pw s _ rfl

theorem withHot_noCtl {s t : State} (h : t.noCtl = s.noCtl) (hot : Bool) : (t.withHot hot).noCtl = (s.withHot hot).noCtl :=
  (congrArg (withHot · hot) h :)

theorem withHot_word (s : State) (hot : Bool) (a : Nat) : (s.withHot hot).word a = s.word a := word_with_pw ..

theorem rd_withHot (s : State) (hot : Bool) (f : Field) (i : Nat) : (s.withHot hot).rd f i = s.rd f i := rd_with_pw ..

theorem rd_sensors (s : State) (m : CapSample) {f : Field} {i : Nat} (h : apart Reg.PWR_STATUS_CAP_COOLANT 0 f i = true) :
    (s.sensors m).rd f i = (s.measured m).rd f i := by
  rw [sensors_eq, rd_withHot, coolantShown, wrB, rd_wr_other _ _ h]

theorem sensors_coolant (s : State) (m : CapSample) : (s.sensors m).rdB Reg.PWR_STATUS_CAP_COOLANT 0 =
    decide (ceilingHalf m.inlet < 2 * s.rd Reg.PWR_CAP_WATTS 0) := by
  rw [sensors_eq, rdB, rd_withHot, ← rdB, coolantShown, rdB_wrB_same _ _ _ _ rfl, rd_measured _ _ (by decide)]

theorem measured_noCtl (s : State) (m : CapSample) : (s.measured m).noCtl = s.noCtl := by
  rw [measured, setWord_noCtl, setWord_noCtl]

theorem sensors_noPeriod (s : State) (m : CapSample) : (s.sensors m).noPeriod = s.noPeriod := by
  have hshown : ((s.measured m).coolantShown m).noCtl = s.noCtl := by rw [coolantShown, wrB_noCtl, measured_noCtl]
  rw [sensors_eq, keptByPeriod_noPeriod.withHot, noPeriod_of_noCtl hshown]

theorem loopResult_sensors (s : State) (m : CapSample) : (s.sensors m).loopResult m = s.loopResult m := by
  have hin : ∀ f ∈ Reg.PWR_STATUS_PEAK :: loopInputs, apart Reg.PWR_STATUS_CAP_COOLANT 0 f 0 = true ∧
      (fieldAddr f 0 + 4 * fieldWords f ≤ 0x080014 ∨ 0x08001C ≤ fieldAddr f 0) := by decide
  have hrd (f : Field) (hf : f ∈ Reg.PWR_STATUS_PEAK :: loopInputs) : (s.sensors m).rd f 0 = s.rd f 0 :=
    (rd_sensors s m (hin f hf).1).trans (rd_measured s m (hin f hf).2)
  have hrest := sensors_noPeriod s m
  have hanv : (s.sensors m).anv = s.anv := by
    rw [sensors_eq, withHot_anv, coolantShown, wrB_anv, anv_of_noCtl (measured_noCtl s m)]
  rw [loopResult, rdB, hrd _ (by simp), ← rdB]
  exact loopOf_congr m _ hanv (below_of_noPeriod hrest) (overs_of_noPeriod hrest) fun f hf => hrd f (by simp [hf])

/-! The energy of a period (R424, R425). -/

/-- The charges of a period cleared. -/
def withoutCharges (s : State) : State := { s with pw := { s.pw with charged := [], gated := [], moved := [] } }

/-- The energy of a period counted in the total, and its charges cleared. -/
def energyCounted (s : State) (m : CapSample) : State := (s.inc Reg.PWR_ENERGY_TOTAL_COUNT 0 m.energy).withoutCharges

theorem energyCounted_noCtl (s : State) (m : CapSample) : (s.energyCounted m).noCtl = s.withoutCharges.noCtl :=
  (congrArg withoutCharges (inc_noCtl s Reg.PWR_ENERGY_TOTAL_COUNT 0 m.energy) :)

theorem withoutCharges_noPeriod {s t : State} (h : t.noPeriod = s.noPeriod) :
    t.withoutCharges.noPeriod = s.withoutCharges.noPeriod := (congrArg withoutCharges h :)

theorem rd_energyCounted (s : State) (m : CapSample) (f : Field) (i : Nat) :
    (s.energyCounted m).rd f i = (s.inc Reg.PWR_ENERGY_TOTAL_COUNT 0 m.energy).rd f i := rd_with_pw ..

theorem energyCounted_word (s : State) (m : CapSample) (a : Nat) :
    (s.energyCounted m).word a = (s.inc Reg.PWR_ENERGY_TOTAL_COUNT 0 m.energy).word a := word_with_pw ..

theorem shareOut_keys (total : Nat) (ws : List (Nat × Nat)) : (shareOut total ws).map (·.1) = ws.map (·.1) := by
  have h (f : Nat → Nat → Nat) (ws : List (Nat × Nat)) (x : List (Nat × Nat) × Nat) :
      (ws.foldl (fun (x : List (Nat × Nat) × Nat) e => (x.1 ++ [(e.1, f x.2 e.2)], x.2 + e.2)) x).1.map (·.1) =
        x.1.map (·.1) ++ ws.map (·.1) := by
    induction ws generalizing x with
    | nil => simp
    | cons w ws ih => simp [ih]
  exact h (fun a b => total * (a + b) / (ws.map (·.2)).sum - total * a / (ws.map (·.2)).sum) ws ([], 0)

theorem shareOut_lt {total n : Nat} {ws : List (Nat × Nat)} (h : ∀ e ∈ ws, e.1 < n) : ∀ e ∈ shareOut total ws, e.1 < n := by
  intro e he
  have hmem : e.1 ∈ (shareOut total ws).map (·.1) := List.mem_map_of_mem he
  rw [shareOut_keys] at hmem
  obtain ⟨w, hw, hwe⟩ := List.mem_map.mp hmem
  exact hwe ▸ h w hw

theorem chargedOf_lt (s : State) (a : Nat) : ∀ e ∈ s.chargedOf a, e.1 < 64 := by
  simp only [chargedOf, List.mem_map]
  rintro _ ⟨e, -, rfl⟩
  exact Nat.mod_lt _ (by decide)

/-- A period's energy goes to the idle account whole, or to the accounts of slots and phases. -/
theorem attributeEnergy_cases (s : State) (m : CapSample) :
    s.attributeEnergy m = (s.energyCounted m).inc Reg.PWR_ENERGY_IDLE_COUNT 0 m.energy ∨
      ∃ l : List (Nat × Nat), s.attributeEnergy m = l.foldl (fun t e => t.addEnergy e.1 e.2) (s.energyCounted m) ∧
        ((∀ e ∈ s.pw.moved ++ s.pw.gated, e.1 < 64) → ∀ e ∈ l, e.1 < 64) := by
  simp only [attributeEnergy]
  split
  · exact .inl rfl
  · refine .inr ⟨_, rfl, fun h e he => ?_⟩
    have hmoved : ∀ e ∈ s.pw.moved, e.1 < 64 := fun e he => h e (List.mem_append_left _ he)
    have hall : ∀ e ∈ s.pw.charged.map (fun e => (e.1 % 64, e.2)) ++ s.pw.gated, e.1 < 64 := by
      intro e he
      rcases List.mem_append.mp he with he | he
      · obtain ⟨x, -, rfl⟩ := List.mem_map.mp he
        exact Nat.mod_lt _ (by decide)
      · exact h e (List.mem_append_right _ he)
    rcases List.mem_append.mp he with he | he
    · obtain ⟨a, -, ha⟩ := List.mem_flatMap.mp he
      exact shareOut_lt (s.chargedOf_lt a.val) e ha
    · refine shareOut_lt (fun e he => ?_) e he
      split at he
      · exact hall e he
      · exact hmoved e he

theorem attributeEnergy_asleep {s : State} (m : CapSample) (h : 2 ≤ s.rd Reg.PWR_STATUS_STATE 0) :
    s.attributeEnergy m = (s.energyCounted m).inc Reg.PWR_ENERGY_IDLE_COUNT 0 m.energy := by
  simp only [attributeEnergy, h, decide_true, Bool.or_true, Bool.true_or, if_true]
  rfl

theorem addEnergy_noCtl (s : State) (k e : Nat) : (s.addEnergy k e).noCtl = s.noCtl := by simp [addEnergy]

theorem attributeEnergy_noCtl (s : State) (m : CapSample) : (s.attributeEnergy m).noCtl = (s.energyCounted m).noCtl := by
  rcases attributeEnergy_cases s m with h | ⟨l, h, -⟩
  · rw [h, inc_noCtl]
  · rw [h]; exact foldl_keeps noCtl _ (fun (t : State) (e : Nat × Nat) => addEnergy_noCtl t e.1 e.2) _ _

theorem apart_of_le {f g : Field} {i j : Nat} (h : fieldAddr g j + 4 * fieldWords g ≤ fieldAddr f i) : apart f i g j = true := by
  simp [apart, h]

/-- The accounts of energy lie from 0x081000 on. -/
theorem rd_attributeEnergy_below (s : State) (m : CapSample) {f : Field} {i : Nat}
    (hf : fieldAddr f i + 4 * fieldWords f ≤ 0x081000) : (s.attributeEnergy m).rd f i = s.rd f i := by
  have hadd (t : State) (k e : Nat) : (t.addEnergy k e).rd f i = t.rd f i := by
    simp only [rd, addEnergy]
    rw [wordsAt_setWordsAt_other _ _ (by omega), wordsAt_setWordsAt_other _ _ (by omega)]
  have hcount : (s.energyCounted m).rd f i = s.rd f i := by
    rw [rd_energyCounted, inc, rd_wr_other _ _ (apart_of_le (hf.trans (by decide)))]
  rcases attributeEnergy_cases s m with h | ⟨l, h, -⟩
  · rw [h, inc, rd_wr_other _ _ (apart_of_le (hf.trans (by decide))), hcount]
  · rw [h]
    exact (foldl_keeps (rd · f i) _ (fun (t : State) (e : Nat × Nat) => hadd t e.1 e.2) _ _).trans hcount

theorem energyCounted_total (s : State) (m : CapSample) : (s.energyCounted m).rd Reg.PWR_ENERGY_TOTAL_COUNT 0 =
    (s.rd Reg.PWR_ENERGY_TOTAL_COUNT 0 + m.energy) % 2 ^ 64 := by
  rw [rd_energyCounted]
  exact rd_wr_same _ _ _ _ (by decide)

/-- The accounts of the 64 slots and phases leave the total as it is. -/
theorem rd_addEnergy_total (s : State) {k : Nat} (e : Nat) (hk : k < 64) :
    (s.addEnergy k e).rd Reg.PWR_ENERGY_TOTAL_COUNT 0 = s.rd Reg.PWR_ENERGY_TOTAL_COUNT 0 := by
  simp only [rd, addEnergy]
  rw [wordsAt_setWordsAt_other _ _ (by simp [fieldAddr, fieldWords, Reg.PWR_ENERGY_TOTAL_COUNT]; omega),
    wordsAt_setWordsAt_other _ _ (by simp [fieldAddr, fieldWords, Reg.PWR_ENERGY_TOTAL_COUNT]; omega)]

theorem rd_foldl_addEnergy_total (l : List (Nat × Nat)) (s : State) (hl : ∀ e ∈ l, e.1 < 64) :
    (l.foldl (fun t e => t.addEnergy e.1 e.2) s).rd Reg.PWR_ENERGY_TOTAL_COUNT 0 = s.rd Reg.PWR_ENERGY_TOTAL_COUNT 0 := by
  induction l generalizing s with
  | nil => rfl
  | cons e l ih =>
    rw [List.foldl_cons, ih _ fun x hx => hl x (List.mem_cons_of_mem _ hx), rd_addEnergy_total _ _ (hl e List.mem_cons_self)]

theorem attributeEnergy_total {s : State} (m : CapSample) (h : ∀ e ∈ s.pw.moved ++ s.pw.gated, e.1 < 64) :
    (s.attributeEnergy m).rd Reg.PWR_ENERGY_TOTAL_COUNT 0 = (s.rd Reg.PWR_ENERGY_TOTAL_COUNT 0 + m.energy) % 2 ^ 64 := by
  rcases attributeEnergy_cases s m with he | ⟨l, he, hl⟩
  · rw [he, inc, rd_wr_other _ _ (by decide), energyCounted_total]
  · rw [he, rd_foldl_addEnergy_total _ _ (hl h), energyCounted_total]

/-! A period outside Slumber. -/

/-- The state in which the sensors and the loop's own step are shown. -/
def looped (s : State) (m : CapSample) : State := ((s.sensors m).peakEased m).loopTaken (s.loopResult m)

/-- The state in which a period's energy is attributed. -/
def beforeEnergy (s : State) (m : CapSample) : State := (((s.sensors m).capLoop m).thermal m).groupLag

theorem KeptByPeriod.beforeEnergy {γ : Type} {g : State → γ} (hk : KeptByPeriod g) (s : State) (m : CapSample) :
    g (s.beforeEnergy m) = g (s.looped m) := by
  rw [State.beforeEnergy, hk.groupLag, hk.thermal, hk.capLoop, loopResult_sensors, looped]

theorem rd_capPeriod (s : State) (m : CapSample) {f : Field} {i : Nat} (h : offPeriod f i = true)
    (hf : fieldAddr f i + 4 * fieldWords f ≤ 0x081000) : (s.capPeriod m).rd f i = (s.looped m).rd f i := by
  have hk := keptByPeriod_rd h
  rw [hk.capPeriod, ← beforeEnergy, rd_attributeEnergy_below _ _ hf, hk.beforeEnergy]

theorem looped_noPeriod (s : State) (m : CapSample) :
    (s.looped m).noPeriod = (s.withCounts (s.loopResult m).2.2.2.1 (s.loopResult m).2.2.2.2).noPeriod := by
  refine withCounts_noPeriod ?_ _ _
  rw [noPeriod_of_noCtl (loopShown_noCtl ..), noPeriod_of_noCtl (peakEased_noCtl ..), sensors_noPeriod]

/-- After a period: the loop's counts and no charges, and beside them what the period keeps. -/
theorem capPeriod_noPeriod (s : State) (m : CapSample) : (s.capPeriod m).noPeriod =
    (s.withCounts (s.loopResult m).2.2.2.1 (s.loopResult m).2.2.2.2).withoutCharges.noPeriod := by
  have hbefore : (s.beforeEnergy m).noPeriod = (s.looped m).noPeriod := keptByPeriod_noPeriod.beforeEnergy s m
  have hcounted : ((s.beforeEnergy m).inc Reg.PWR_ENERGY_TOTAL_COUNT 0 m.energy).noPeriod = (s.looped m).noPeriod :=
    (noPeriod_of_noCtl (inc_noCtl ..)).trans hbefore
  rw [keptByPeriod_noPeriod.capPeriod, ← beforeEnergy, noPeriod_of_noCtl (attributeEnergy_noCtl ..)]
  exact withoutCharges_noPeriod (hcounted.trans (looped_noPeriod s m))

theorem rd_looped_other (s : State) (m : CapSample) {f : Field} {i : Nat}
    (h : ∀ g ∈ [Reg.PWR_STATUS_PEAK, Reg.PWR_STATUS_LIM_CAP, Reg.PWR_STATUS_DUTY, Reg.PWR_STATUS_MEM], apart g 0 f i = true) :
    (s.looped m).rd f i = (s.sensors m).rd f i := by
  obtain ⟨hpeak, hrest⟩ := List.forall_mem_cons.mp h
  rw [looped, rd_loopTaken_other _ _ hrest, rd_peakEased _ _ hpeak]

theorem looped_peak (s : State) (m : CapSample) :
    (s.looped m).rdB Reg.PWR_STATUS_PEAK 0 = (s.rdB Reg.PWR_STATUS_PEAK 0 && !m.peakClear) := by
  have hpeak : (s.sensors m).rdB Reg.PWR_STATUS_PEAK 0 = s.rdB Reg.PWR_STATUS_PEAK 0 := by
    rw [rdB, rd_sensors _ _ (by decide), rd_measured _ _ (by decide), rdB]
  rw [rdB, looped, rd_loopTaken_other _ _ (by decide), ← rdB, peak_peakEased, hpeak]

/-- The total counts the period's energy where the charges are of the 64 slots and phases. -/
theorem capPeriod_total {s : State} (m : CapSample) (h : ∀ e ∈ s.pw.moved ++ s.pw.gated, e.1 < 64) :
    (s.capPeriod m).rd Reg.PWR_ENERGY_TOTAL_COUNT 0 = (s.rd Reg.PWR_ENERGY_TOTAL_COUNT 0 + m.energy) % 2 ^ 64 := by
  have hk : KeptByPeriod (rd · Reg.PWR_ENERGY_TOTAL_COUNT 0) := keptByPeriod_rd (by decide)
  have hrest : (s.beforeEnergy m).noPeriod = _ := (keptByPeriod_noPeriod.beforeEnergy s m).trans (looped_noPeriod s m)
  have hkeys : ∀ e ∈ (s.beforeEnergy m).pw.moved ++ (s.beforeEnergy m).pw.gated, e.1 < 64 := by
    rw [moved_of_noPeriod hrest, gated_of_noPeriod hrest]
    exact h
  have htotal : (s.beforeEnergy m).rd Reg.PWR_ENERGY_TOTAL_COUNT 0 = s.rd Reg.PWR_ENERGY_TOTAL_COUNT 0 := by
    rw [hk.beforeEnergy, rd_looped_other _ _ (by decide), rd_sensors _ _ (by decide), rd_measured _ _ (by decide)]
  rw [hk.capPeriod, ← beforeEnergy, attributeEnergy_total m hkeys, htotal]

/-- Whether a field reads after a period as the sensors and the loop's own step show it. -/
def shownByLoop (f : Field) : Bool := offPeriod f 0 && decide (fieldAddr f 0 + 4 * fieldWords f ≤ 0x081000) && ownField f 0

theorem rd_afterPeriod (s : State) (m : CapSample) (q : List Instr) {f : Field} (h : shownByLoop f = true) :
    ((s.capPeriod m).done q).rd f 0 = (s.looped m).rd f 0 := by
  simp only [shownByLoop, Bool.and_eq_true, decide_eq_true_eq] at h
  obtain ⟨⟨hoff, hbelow⟩, hown⟩ := h
  rw [done_rd q hown, rd_capPeriod s m hoff hbelow]

theorem rdB_afterPeriod (s : State) (m : CapSample) (q : List Instr) {f : Field} (h : shownByLoop f = true) :
    ((s.capPeriod m).done q).rdB f 0 = (s.looped m).rdB f 0 := by
  rw [rdB, rd_afterPeriod s m q h, rdB]

theorem rd_afterPeriod_sensors (s : State) (m : CapSample) (q : List Instr) {f : Field} (h : shownByLoop f = true)
    (ho : ∀ g ∈ [Reg.PWR_STATUS_PEAK, Reg.PWR_STATUS_LIM_CAP, Reg.PWR_STATUS_DUTY, Reg.PWR_STATUS_MEM], apart g 0 f 0 = true) :
    ((s.capPeriod m).done q).rd f 0 = (s.sensors m).rd f 0 :=
  (rd_afterPeriod s m q h).trans (rd_looped_other s m ho)

end Sys2Proof.Machine.State
end

section
/-!
The commands of the cap loop (R406, R409, R410): SET_CAP as a request that Kalec runs, the peak limiter, and a period in and
outside Slumber.
-/
namespace Sys2Proof.Machine

open State Sys2Proof.Safety

/-! Requests that Kalec takes (R373, R374). -/

theorem isOwner_of_takes {s : State} {h : KHdr} {c : KCmd} (ht : Takes s h c) (hc : kCode c ∈ ownerCodes) :
    (arrived s h c).isOwner (ask h c).hdr.agent (ask h c).hdr.otok = true :=
  (isOwner_arrived ..).trans (ht.2 hc)

theorem cmd_of_reaches {s : State} {h : KHdr} {c : KCmd} (hr : Reaches s h c) : (ask h c).cmd = some c := by
  obtain ⟨-, -, -, -, -, hcheck, -⟩ := hr
  exact (ask_of_kCheck hcheck).2

/-- A request whose command answers it from a state with the mailboxes of its arrival does nothing else. -/
theorem kRequest_of_answered {s u : State} {h : KHdr} {c : KCmd} {st : KStat} {pl : List Byte} (hr : Reaches s h c)
    (hrun : (arrived s h c).kRun (ask h c) = u.answer (ask h c) st pl) (hkal : u.kal = (arrived s h c).kal) :
    s.kRequest h c = u.answer (ask h c) st pl := by
  have hrequest := kRequest_of_reaches hr
  obtain ⟨-, -, -, -, hidle, -⟩ := hr
  rw [hrequest, hrun, slotSettle_of_idle]
  rw [answer_running, hkal, arrived_kal]
  exact hidle

/-! SET_CAP. -/

theorem State.setCap_eq (s : State) (w : Nat) :
    s.setCap w = if 450 ≤ w ∧ w ≤ 1500 then (s.wr Reg.PWR_CAP_WATTS 0 w, .ok) else (s, .range) := by
  simp [setCap]

theorem State.setCap_kal (s : State) (w : Nat) : (s.setCap w).1.kal = s.kal := by
  rw [setCap_eq]
  split
  · exact wr_kal ..
  · rfl

/-- SET_CAP of the owner runs at once and is answered with its status. -/
theorem exec_setCap {s : State} {h : KHdr} {watts : BitVec 16} (ht : Takes s h (.setCap watts)) :
    exec (.setCap h watts) s = .next (replied s ((arrived s h (.setCap watts)).setCap watts.toNat).1 h (.setCap watts)
      ((arrived s h (.setCap watts)).setCap watts.toNat).2 []) := by
  have hown := isOwner_of_takes ht (by simp [kCode, ownerCodes])
  have hcmd := cmd_of_reaches ht.1
  have hrun : (arrived s h (.setCap watts)).kRun (ask h (.setCap watts)) =
      ((arrived s h (.setCap watts)).setCap watts.toNat).1.answer (ask h (.setCap watts))
        ((arrived s h (.setCap watts)).setCap watts.toNat).2 [] := by
    rw [kRun, hown, hcmd]
    simp [answered1]
  show act s (s.kRequest h (.setCap watts)) = _
  rw [kRequest_of_answered ht.1 hrun (setCap_kal ..), act_next, replied]

theorem exec_setCap_range {s : State} {h : KHdr} {watts : BitVec 16} (ht : Takes s h (.setCap watts)) :
    exec (.setCap h watts) s = .next (if 450 ≤ watts.toNat ∧ watts.toNat ≤ 1500 then
      replied s ((arrived s h (.setCap watts)).wr Reg.PWR_CAP_WATTS 0 watts.toNat) h (.setCap watts) .ok []
      else replied s (arrived s h (.setCap watts)) h (.setCap watts) .range []) := by
  rw [exec_setCap ht, setCap_eq]
  split <;> rfl

/-! The peak limiter and the cap loop. -/

variable {s : State}

theorem exec_peakLimit {watts : Nat} (hp : s.powered = true) (hw : 1900 < watts) :
    ∃ t, exec (.peakLimit watts) s = .next t ∧ t.rd Reg.PWR_STATUS_DUTY 0 = 4 ∧ t.rdB Reg.PWR_STATUS_PEAK 0 = true ∧
      RegsOnly s t [0x08000C] := by
  have hact : exec (.peakLimit watts) s =
      .next (((s.wr Reg.PWR_STATUS_DUTY 0 4).wrB Reg.PWR_STATUS_PEAK 0 true).done s.pending) := by
    show act s (if s.powered && decide (1900 < watts) then _ else s) = _
    rw [if_pos (by simp [hp, hw]), act_next]
  refine ⟨_, hact, ?_, ?_, done_regsOnly ((wrB_noCtl ..).trans (wr_noCtl ..)) fun a ha => ?_⟩
  · rw [done_rd _ (by decide), wrB, rd_wr_other _ _ (by decide), rd_wr_same _ _ _ _ (by decide)]
    rfl
  · rw [done_rdB _ (by decide), rdB_wrB_same _ _ _ _ rfl]
  · rw [wrB, word_wr_listed ha (by decide), word_wr_listed ha (by decide)]

theorem exec_capLoopStep (m : CapSample) (hp : s.powered = true) (hs : 1 ≤ s.stage) :
    exec (.capLoopStep m) s =
      .next ((if s.rd Reg.PWR_STATUS_STATE 0 = 3 then s.sleepPeriod m else s.capPeriod m).done s.pending) := by
  have hstage : ¬(!s.powered || s.stage == 0) = true := by simp [hp]; omega
  show act s (if !s.powered || s.stage == 0 then s else _) = _
  rw [if_neg hstage, act_next]

/-- A period in Slumber (R422, R424, R425). -/
theorem exec_capLoopStep_slumber (m : CapSample) (hp : s.powered = true) (hs : 1 ≤ s.stage)
    (h3 : s.rd Reg.PWR_STATUS_STATE 0 = 3) : ∃ t, exec (.capLoopStep m) s = .next t ∧
      t.rd Reg.PWR_ENERGY_IDLE_COUNT 0 = (s.rd Reg.PWR_ENERGY_IDLE_COUNT 0 + m.energy) % 2 ^ 64 ∧
      t.rd Reg.PWR_ENERGY_TOTAL_COUNT 0 = (s.rd Reg.PWR_ENERGY_TOTAL_COUNT 0 + m.energy) % 2 ^ 64 ∧
      RegsOnly { s with pw := { s.pw with hot := decide (180 < m.inlet), charged := [], gated := [], moved := [] } } t
        ((List.range 4).map (0x081040 + 4 * ·)) := by
  have hsleep : s.sleepPeriod m =
      ((s.energyCounted m).inc Reg.PWR_ENERGY_IDLE_COUNT 0 m.energy).withHot (decide (180 < m.inlet)) := by
    rw [sleepPeriod, attributeEnergy_asleep m (by rw [h3]; decide)]
    rfl
  refine ⟨_, (exec_capLoopStep m hp hs).trans (by rw [if_pos h3]), ?_, ?_, ?_⟩
  · have hidle : (s.energyCounted m).rd Reg.PWR_ENERGY_IDLE_COUNT 0 = s.rd Reg.PWR_ENERGY_IDLE_COUNT 0 := by
      rw [rd_energyCounted, inc, rd_wr_other _ _ (by decide)]
    rw [done_rd _ (by decide), hsleep, rd_withHot, inc, hidle]
    exact rd_wr_same _ _ _ _ (by decide)
  · rw [done_rd _ (by decide), hsleep, rd_withHot, inc, rd_wr_other _ _ (by decide), energyCounted_total]
  · rw [hsleep]
    refine done_regsOnly ?_ fun a ha => ?_
    · exact withHot_noCtl ((inc_noCtl ..).trans (energyCounted_noCtl s m)) _
    · rw [withHot_word, inc, word_wr_listed ha (by decide), energyCounted_word, inc, word_wr_listed ha (by decide)]
      exact (word_with_pw ..).symm

/-- A period outside Slumber (R406 to R413, R424). -/
theorem exec_capLoopStep_run (m : CapSample) (hp : s.powered = true) (hs : 1 ≤ s.stage)
    (h3 : s.rd Reg.PWR_STATUS_STATE 0 ≠ 3) :
    exec (.capLoopStep m) s = .next ((s.capPeriod m).done s.pending) := by
  rw [exec_capLoopStep m hp hs, if_neg h3]

/-- Settles O13: SET_CAP runs at once; and what ends a period keeps what the sensors and the loop's own step leave. -/
theorem capLoop : Obligations.CapLoop := by
  unfold Obligations.CapLoop
  refine ⟨fun s h watts ht => exec_setCap_range ht, fun s hp => ⟨fun watts hw => exec_peakLimit hp hw,
    fun m hs h3 => exec_capLoopStep_slumber m hp hs h3, fun m hs h3 hkeys => ?_⟩⟩
  refine ⟨_, exec_capLoopStep_run m hp hs h3, ?_⟩
  have hrest := capPeriod_noPeriod s m
  refine ⟨?_, ?_, ?_, ?_, ?_, ?_, ?_, ?_, ?_, ?_, ?_, ?_, ?_, ?_, ?_, ?_, ?_⟩
  · exact (rd_afterPeriod s m _ (by decide)).trans (loopTaken_limCap ..)
  · exact (rd_afterPeriod s m _ (by decide)).trans (loopTaken_duty ..)
  · exact (rd_afterPeriod s m _ (by decide)).trans (loopTaken_mem ..)
  · rw [done_pw, below_of_noPeriod hrest]; rfl
  · rw [done_pw, overs_of_noPeriod hrest]; rfl
  · rw [rdB_afterPeriod s m _ (by decide), looped_peak]
  · rw [rd_afterPeriod_sensors s m _ (by decide) (by decide), rd_sensors _ _ (by decide), measured_watts]
  · rw [rd_afterPeriod_sensors s m _ (by decide) (by decide), rd_sensors _ _ (by decide), measured_inlet]
  · rw [rdB, rd_afterPeriod_sensors s m _ (by decide) (by decide), ← rdB, sensors_coolant]
  · rw [done_rd _ (by decide), capPeriod_total m hkeys]
  · rw [done_pw, charged_of_noPeriod hrest]; rfl
  · rw [done_pw, gated_of_noPeriod hrest]; rfl
  · rw [done_pw, moved_of_noPeriod hrest]; rfl
  · rw [done_mem, mem_of_noPeriod hrest]; rfl
  · rw [done_rings, rings_of_noPeriod hrest]; rfl
  · rw [done_ops, ops_of_noPeriod hrest]; rfl
  · rw [done_slots, slots_of_noPeriod hrest]; rfl

end Sys2Proof.Machine
end


section
/-!
The step, the queue and the status fields (spec/95): every command's outcome is a next state whose status fields have been
brought up to date, with the queue of the state before.
-/
namespace Sys2Proof.Machine

open State Sys2Proof.Safety

theorem exec_next (c : Instr) (s : State) : ∃ u : State, exec c s = .next (u.done s.pending) := by
  obtain ⟨u, h⟩ := exec_form c s
  exact ⟨u, h.trans (act_next s u)⟩

theorem step_of_pending {s : State} {c : Instr} {q : List Instr} (h : s.pending = c :: q) :
    step s = exec c { s with pending := q } := by
  rw [step, h]

theorem step_idle {s : State} (h : s.pending = []) : step s = .next s := by
  rw [step, h]

/-- Settles O1: both clauses are the two branches of a step. -/
theorem stepRunsTheFrontCommand : Obligations.StepRunsTheFrontCommand := by
  unfold Obligations.StepRunsTheFrontCommand
  exact ⟨fun s c q => step_of_pending rfl, fun s h => step_idle h⟩

/-- Settles O2: the queue is put back after every command. -/
theorem commandsLeaveTheQueue : Obligations.CommandsLeaveTheQueue := by
  unfold Obligations.CommandsLeaveTheQueue
  intro c s t h
  obtain ⟨u, hu⟩ := exec_next c s
  cases hu.symm.trans h
  exact done_pending u s.pending

/-- Settles O3: every command's outcome is a next state. -/
theorem commandsGoOn : Obligations.CommandsGoOn := by
  unfold Obligations.CommandsGoOn
  intro c s
  obtain ⟨u, hu⟩ := exec_next c s
  exact ⟨_, hu⟩

/-! The status fields follow the state after every command. -/

theorem b2n_le_one (b : Bool) : b2n b ≤ 1 := by cases b <;> decide

theorem b2n_injective {a b : Bool} (h : b2n a = b2n b) : a = b := by
  revert a b
  decide

/-- A number of eight bits, one for each port, shows each of them. -/
theorem bit_sum_ports (f : Nat → Bool) (p : Fin 8) :
    bit ((List.range 8).foldl (fun y q => y + b2n (f q) * 2 ^ q) 0 % 2 ^ 8) p = f p := by
  have hle (q : Nat) := b2n_le_one (f q)
  have h0 := hle 0
  have h1 := hle 1
  have h2 := hle 2
  have h3 := hle 3
  have h4 := hle 4
  have h5 := hle 5
  have h6 := hle 6
  have h7 := hle 7
  refine b2n_injective ?_
  rw [b2n_bit]
  simp only [List.range_succ, List.range_zero, List.foldl_append, List.foldl_cons, List.foldl_nil, List.nil_append]
  fin_cases p <;> simp only <;> omega

theorem links_eq_sum (s : State) :
    s.links = (List.range 8).foldl (fun y q => y + b2n (s.rdB Reg.NET_PORT_STATUS_LINK q) * 2 ^ q) 0 :=
  List.foldl_ext _ _ _ fun y q _ => by rw [rd_eq_b2n _ _ rfl]

theorem links_settle (s : State) : s.settle.links = s.links :=
  links_congr fun p => rd_settle s (by revert p; decide)

theorem settle_links_bit (s : State) (p : Fin 8) :
    bit (s.settle.rd Reg.HRT_BOOT_LINKS 0) p = s.settle.rdB Reg.NET_PORT_STATUS_LINK p := by
  rw [settle_links, ← links_settle, links_eq_sum, bit_sum_ports]

/-- The trackers in use never exceed their peak, which is cut to its width only where it is their number. -/
theorem settle_in_use_le_peak (s : State) (d : Fin 2) :
    s.settle.rd Reg.STR_TRK_STATUS_IN_USE d ≤ s.settle.rd Reg.STR_TRK_STATUS_PEAK d := by
  have hpeak : s.rd Reg.STR_TRK_STATUS_PEAK d < 2 ^ 7 := rd_lt ..
  rw [settle_in_use, settle_peak]
  omega

/-- After the status fields are brought up to date they agree with the state. -/
theorem follows_settle (s : State) : Follows s.settle := by
  have hrest := settle_noCtl s
  refine ⟨fun d => ⟨?_, settle_in_use_le_peak s d⟩, ?_, ?_, ?_, settle_links_bit s, ?_⟩
  · rw [settle_in_use, trackers_of_noCtl hrest]
  · rw [settle_armed_w, armed_of_noCtl hrest]
  · rw [settle_armed_e, armed_of_noCtl hrest]
  · rw [settle_clip_wait, clipHeld_of_noCtl hrest]
  · rw [settle_inflight, drains_of_noCtl hrest]

/-- The queue of waiting commands is no part of what the status fields report. -/
theorem follows_with_pending {s : State} (q : List Instr) (h : Follows s) : Follows { s with pending := q } := by
  have hrd (f : Field) (i : Nat) := rd_of_ctl (s := s) (t := { s with pending := q }) rfl f i
  have hrdB (f : Field) (i : Nat) : State.rdB { s with pending := q } f i = s.rdB f i := by rw [rdB, hrd, rdB]
  obtain ⟨htrk, hw, he, hclip, hlinks, hin⟩ := h
  refine ⟨fun d => ?_, ?_, ?_, ?_, fun p => ?_, ?_⟩ <;> simp only [hrd, hrdB]
  exacts [htrk d, hw, he, hclip, hlinks p, hin]

theorem follows_done (s : State) (q : List Instr) : Follows (s.done q) := follows_with_pending q (follows_settle s)

/-- Settles O4: a command ends by bringing the status fields up to date, after which they agree whatever it led to; and an
idle step changes nothing. -/
theorem statusFieldsFollow : Obligations.StatusFieldsFollow := by
  unfold Obligations.StatusFieldsFollow
  intro s t hs h
  cases hp : s.pending with
  | nil =>
    cases (step_idle hp).symm.trans h
    exact hs
  | cons c q =>
    obtain ⟨u, hu⟩ := exec_next c { s with pending := q }
    cases ((step_of_pending hp).trans hu).symm.trans h
    exact follows_done u q

/-- Settles O5: nothing is in flight at reset, no layer is armed and no link is up. -/
theorem statusFieldsFollowAtReset : Obligations.StatusFieldsFollowAtReset := by
  unfold Obligations.StatusFieldsFollowAtReset Follows
  decide +kernel

/-! The registers at reset (R18). -/

theorem resetWord_of_uncovered {a : Nat} (h : ∀ f ∈ Reg.nonzeroReset, f.covers a = false) : resetWord a = 0 := by
  have hnil : Reg.nonzeroReset.filter (·.covers a) = [] := List.filter_eq_nil_iff.mpr fun f hf => by rw [h f hf]; decide
  rw [resetWord, hnil]
  rfl

theorem covers_of_outside {f : Field} {a : Nat} (hs : 0 < f.stride) (h : a < f.base ∨ f.base + f.stride * f.count ≤ a) :
    f.covers a = false := by
  have hidx : f.base ≤ a → ¬f.indexOf a < f.count := fun hb hi => by
    have := (Nat.div_lt_iff_lt_mul hs).mp hi
    rw [Nat.mul_comm] at this
    omega
  rw [Bool.eq_false_iff]
  intro hc
  simp only [Field.covers, Bool.and_eq_true, decide_eq_true_eq] at hc
  obtain ⟨⟨⟨⟨hb, -⟩, hi⟩, -⟩, -⟩ := hc
  exact hidx hb hi

/-- No field with a Reset value lies among the words of STR_BND. -/
theorem resetWord_bindings {a : Nat} (h1 : 0x024000 ≤ a) (h2 : a < 0x027000) : resetWord a = 0 := by
  have hout : ∀ f ∈ Reg.nonzeroReset, 0 < f.stride ∧ (0x027000 ≤ f.base ∨ f.base + f.stride * f.count ≤ 0x024000) := by decide
  refine resetWord_of_uncovered fun f hf => ?_
  obtain ⟨hs, hr⟩ := hout f hf
  exact covers_of_outside hs (by omega)

theorem reset_rd_binding {i : Nat} (hi : i < 3072) : State.reset.rd Reg.STR_BND_VALUE i = 0 := by
  have hw : State.reset.word (0x024000 + 4 * i) = resetWord (0x024000 + 4 * i) := rfl
  have ha : fieldAddr Reg.STR_BND_VALUE i = 0x024000 + 4 * i := rfl
  rw [rd_of_word _ (by decide), ha, hw, resetWord_bindings (by omega) (by omega)]
  rfl

theorem reset_rd_small_bank : ∀ f ∈ Reg.all, f.count ≤ 88 → ∀ i, i < f.count → State.reset.rd f i = f.reset % 2 ^ f.len := by
  decide +kernel

theorem large_bank : ∀ f ∈ Reg.all, ¬f.count ≤ 88 → f = Reg.STR_BND_VALUE := by
  decide +kernel

/-- Settles O6: the banks of at most 88 registers are read through, and the words of STR_BND hold no field with a Reset
value. -/
theorem registersAtReset : Obligations.RegistersAtReset := by
  unfold Obligations.RegistersAtReset
  intro f hf i hi
  by_cases hc : f.count ≤ 88
  · exact reset_rd_small_bank f hf hc i hi
  · obtain rfl := large_bank f hf hc
    exact reset_rd_binding hi

/-! Fields read after a write. -/

theorem testBit_eq_bits (x b : Nat) : x.testBit b = (bits x b b == 1) := by
  rw [Nat.testBit_eq_decide_div_mod_eq, bits_eq, show b + 1 - b = 1 by omega, pow_one]
  rfl

/-- A bit beside a field put into a number is unchanged. -/
theorem testBit_putBits {x hi lo v b : Nat} (h : lo ≤ hi) (hb : b < lo ∨ hi < b) :
    (putBits x hi lo v).testBit b = x.testBit b := by
  rw [testBit_eq_bits, testBit_eq_bits]
  rcases hb with hb | hb
  · rw [bits_putBits_below _ _ _ _ _ _ h hb (le_refl b)]
  · rw [bits_putBits_above _ _ _ _ _ _ h hb]

theorem State.wordsAt_wr_same (s : State) (f : Field) (i v : Nat) (h : 0 < f.len) :
    (s.wr f i v).wordsAt (fieldAddr f i) (fieldWords f) =
      putBits (s.wordsAt (fieldAddr f i) (fieldWords f)) (f.lo % 32 + f.len - 1) (f.lo % 32) v := by
  have hf := field_fits f
  rw [wr, wordsAt_setWordsAt_same, Nat.mod_eq_of_lt]
  exact putBits_lt _ _ _ (by omega) (by omega) (wordsAt_lt _ _ _)

/-- Settles O7: a field's write puts its bits into its words and touches no other. -/
theorem fieldsReadBack : Obligations.FieldsReadBack := by
  unfold Obligations.FieldsReadBack
  refine fun s f i v hf => ⟨rd_wr_same s f i v hf, eq_of_noCtl (wr_noCtl ..), fun a ha => word_wr_ne s v ha, fun b hb => ?_⟩
  rw [wordsAt_wr_same s f i v hf]
  exact testBit_putBits (by omega) (by omega)

end Sys2Proof.Machine
end


section
/-!
Droop detectors and PLL switches (R402 to R405, R449): what each leaves of the Anvils and the registers.
-/
namespace Sys2Proof.Machine

open State Sys2Proof.Safety

theorem State.rd_inc_same (s : State) (f : Field) (i n : Nat) (h : 0 < f.len) :
    (s.inc f i n).rd f i = (s.rd f i + n) % 2 ^ f.len := rd_wr_same _ _ _ _ h

theorem State.word_inc_listed {s : State} {f : Field} {i n a : Nat} {ws : List Nat} (ha : a ∉ ws) (h : within f i ws = true) :
    (s.inc f i n).word a = s.word a := word_wr_listed ha h

theorem State.word_wrB_listed {s : State} {f : Field} {i a : Nat} {b : Bool} {ws : List Nat} (ha : a ∉ ws)
    (h : within f i ws = true) : (s.wrB f i b).word a = s.word a := word_wr_listed ha h

@[simp] theorem State.setAnv_noCtl (s : State) (a : Fin 4) (x : Anvil) :
    (s.setAnv a x).noCtl = ({ s with anv := s.anv.set a x } : State).noCtl := rfl

@[simp] theorem State.word_setAnv (s : State) (a : Fin 4) (x : Anvil) (b : Nat) : (s.setAnv a x).word b = s.word b :=
  word_with_anv ..

@[simp] theorem State.rd_setAnv (s : State) (a : Fin 4) (x : Anvil) (f : Field) (i : Nat) : (s.setAnv a x).rd f i = s.rd f i :=
  rd_with_anv ..

@[simp] theorem State.anv_setAnv_same (s : State) (a : Fin 4) (x : Anvil) : (s.setAnv a x).anv[a] = x := by
  simp [setAnv]

theorem State.anv_setAnv_other (s : State) {a b : Fin 4} (x : Anvil) (h : b ≠ a) : (s.setAnv a x).anv[b] = s.anv[b] := by
  have hne : a.val ≠ b.val := fun e => h (Fin.ext e.symm)
  simp [setAnv, hne]

/-! The switch (R403). -/

section
variable {s : State} {a : Fin 4}

/-- With REFCLK in use a switch takes the pending point. -/
theorem State.switchNow_eq {p : Nat} (href : s.rdB Reg.HRT_CLK_STATUS_REF_FALLBACK 0 = false)
    (hp : s.anv[a].pll.target = some p) : s.switchNow a = s.setPoint a p := by
  have hkeep : (s.setPoint a p).rdB Reg.HRT_CLK_STATUS_REF_FALLBACK 0 = s.rdB Reg.HRT_CLK_STATUS_REF_FALLBACK 0 := by
    rw [rdB, setPoint, rd_wr_other _ _ (by decide), rd_setAnv, rdB]
  rw [switchNow, hp]
  simp [refRestore, hkeep, href]

theorem State.setPoint_noCtl (s : State) (a : Fin 4) (p : Nat) : (s.setPoint a p).noCtl = (atPoint s a p).noCtl := by
  rw [setPoint, wr_noCtl]
  rfl

theorem State.setPoint_word (s : State) (a : Fin 4) (p : Nat) {b : Nat} (hb : b ∉ [0x080010]) :
    (s.setPoint a p).word b = (atPoint s a p).word b := by
  rw [setPoint, word_wr_listed hb (by decide), word_setAnv]
  exact (word_with_anv ..).symm

theorem State.setPoint_shown (s : State) (a : Fin 4) (p : Nat) : (s.setPoint a p).rd Reg.PWR_ANV_OP_OP 0 =
    putBits (s.rd Reg.PWR_ANV_OP_OP 0) (4 * a.val + 3) (4 * a.val) p := by
  have hle := a.isLt
  have hlt : s.rd Reg.PWR_ANV_OP_OP 0 < 2 ^ 16 := rd_lt ..
  rw [setPoint, rd_wr_same _ _ _ _ (by decide)]
  exact Nat.mod_eq_of_lt (putBits_lt (n := 16) _ _ _ (by omega) (by omega) hlt)

/-- What takes the pending point shows it, and changes nothing else. -/
theorem exec_takes_point {c : Instr} {p : Nat} (hc : exec c s = act s (s.setPoint a p)) : ∃ t, exec c s = .next t ∧
    t.rd Reg.PWR_ANV_OP_OP 0 = putBits (s.rd Reg.PWR_ANV_OP_OP 0) (4 * a.val + 3) (4 * a.val) p ∧
    RegsOnly (atPoint s a p) t [0x080010] := by
  refine ⟨_, hc.trans (act_next ..), ?_, ?_⟩
  · rw [done_rd _ (by decide), setPoint_shown]
  · exact done_regsOnly (s := atPoint s a p) (setPoint_noCtl s a p) fun b hb => setPoint_word s a p hb

/-! Droop detectors (R404, R405). -/

theorem exec_droopFire {d : DroopDomain} (hclk : s.droopClocked d = true) (hd : d ∉ s.pw.droops) :
    ∃ t, exec (.droopFire d) s = .next t ∧
      t.rd Reg.PWR_DROOP_EVENTS_COUNT 0 = (s.rd Reg.PWR_DROOP_EVENTS_COUNT 0 + 1) % 2 ^ 64 ∧
      RegsOnly { s with pw := { s.pw with droops := s.pw.droops ++ [d] } } t [0x080108, 0x08010C] := by
  have hact : exec (.droopFire d) s =
      act s (({ s with pw := { s.pw with droops := s.pw.droops ++ [d] } } : State).inc Reg.PWR_DROOP_EVENTS_COUNT 0 1) := by
    show act s (s.droopFires d) = _
    rw [droopFires, if_neg (by simp [hclk, hd])]
  refine ⟨_, hact.trans (act_next ..), ?_, ?_⟩
  · rw [done_rd _ (by decide), rd_inc_same _ _ _ _ (by decide), rd_with_pw]
    rfl
  · exact done_regsOnly (s := { s with pw := { s.pw with droops := s.pw.droops ++ [d] } }) (inc_noCtl ..)
      fun b hb => word_inc_listed hb (by decide)

/-- The state in which a released detector's suppressed edges have been counted. -/
def State.droopCounted (s : State) (d : DroopDomain) (n : Nat) : State :=
  ({ s with pw := { s.pw with droops := s.pw.droops.filter (· != d) } } : State).inc Reg.PWR_DROOP_CYC_COUNT 0 n

theorem State.droopReleases_of_mem {d : DroopDomain} (n : Nat) (hd : d ∈ s.pw.droops) : s.droopReleases d n =
    match d with
    | .anv b => if (s.droopCounted d n).anv[b].pll.defer then (s.droopCounted d n).switchNow b else s.droopCounted d n
    | _ => s.droopCounted d n := by
  rw [droopReleases, if_neg (by simp [hd])]
  cases d <;> rfl

theorem State.droopCounted_anv (s : State) (d : DroopDomain) (n : Nat) : (s.droopCounted d n).anv = s.anv := inc_anv ..

theorem State.droopReleases_eq {d : DroopDomain} (n : Nat) (hd : d ∈ s.pw.droops)
    (hdefer : ∀ b, d = .anv b → s.anv[b].pll.defer = false) : s.droopReleases d n = s.droopCounted d n := by
  rw [droopReleases_of_mem n hd]
  cases d with
  | anv b => exact if_neg (by rw [droopCounted_anv, hdefer b rfl]; decide)
  | sprig _ => rfl
  | fab _ => rfl

theorem exec_droopRelease {d : DroopDomain} (n : Nat) (hd : d ∈ s.pw.droops)
    (hdefer : ∀ b, d = .anv b → s.anv[b].pll.defer = false) : ∃ t, exec (.droopRelease d n) s = .next t ∧
      t.rd Reg.PWR_DROOP_CYC_COUNT 0 = (s.rd Reg.PWR_DROOP_CYC_COUNT 0 + n) % 2 ^ 64 ∧
      RegsOnly { s with pw := { s.pw with droops := s.pw.droops.filter (· != d) } } t [0x080110, 0x080114] := by
  have hact : exec (.droopRelease d n) s = act s (s.droopCounted d n) := by
    show act s (s.droopReleases d n) = _
    rw [droopReleases_eq n hd hdefer]
  refine ⟨_, hact.trans (act_next ..), ?_, ?_⟩
  · rw [done_rd _ (by decide), droopCounted, rd_inc_same _ _ _ _ (by decide), rd_with_pw]
    rfl
  · exact done_regsOnly (s := { s with pw := { s.pw with droops := s.pw.droops.filter (· != d) } }) (inc_noCtl ..)
      fun b hb => word_inc_listed hb (by decide)

/-- The droop that deferred a switch releases, and the switch is made. -/
theorem exec_droopRelease_deferred {p : Nat} (n : Nat) (href : s.rdB Reg.HRT_CLK_STATUS_REF_FALLBACK 0 = false)
    (hp : s.anv[a].pll.target = some p) (hdefer : s.anv[a].pll.defer = true) (hd : .anv a ∈ s.pw.droops) :
    ∃ t, exec (.droopRelease (.anv a) n) s = .next t ∧ t.anv = (atPoint s a p).anv := by
  have href' : (s.droopCounted (.anv a) n).rdB Reg.HRT_CLK_STATUS_REF_FALLBACK 0 = false := by
    rw [rdB, droopCounted, inc, rd_wr_other _ _ (by decide), rd_with_pw]
    exact href
  have hact : exec (.droopRelease (.anv a) n) s = act s ((s.droopCounted (.anv a) n).setPoint a p) := by
    show act s (s.droopReleases (.anv a) n) = _
    rw [droopReleases_of_mem n hd, ← switchNow_eq (a := a) href' (by rw [droopCounted_anv]; exact hp)]
    exact congrArg (act s) (if_pos (by rw [droopCounted_anv]; exact hdefer))
  refine ⟨_, hact.trans (act_next ..), ?_⟩
  rw [done_anv, anv_of_noCtl (setPoint_noCtl ..), atPoint, atPoint, droopCounted_anv]

/-! PLLs that lock, fail to lock, and switch (R402, R403, R405, R449). -/

theorem exec_pllLock {p : Nat} (g : Nat) (hp : s.anv[a].pll.target = some p) (hf : s.anv[a].pll.failed = false) :
    ∃ t, exec (.pllLock ⟨a, g⟩) s = .next t ∧
      RegsOnly { s with anv := s.anv.set a { s.anv[a] with pll := { s.anv[a].pll with locked := true, fails := 0 } } } t [] := by
  have hact : exec (.pllLock ⟨a, g⟩) s =
      act s (s.setAnv a { s.anv[a] with pll := { s.anv[a].pll with locked := true, fails := 0 } }) := by
    show act s (s.pllLocked a g) = _
    simp [-Fin.getElem_fin, pllLocked, hp, hf]
  refine ⟨_, hact.trans (act_next ..), ?_⟩
  exact done_regsOnly (s := s.setAnv a { s.anv[a] with pll := { s.anv[a].pll with locked := true, fails := 0 } }) rfl fun _ _ => rfl

/-- Gated cycles are charged to their Anvil, and change neither a register nor an Anvil's PLL. -/
theorem State.chargeGated_cases (s : State) (a : Fin 4) (n : Nat) : ∃ (w : Power) (d c f : Nat),
    s.chargeGated a n = { s with
      anv := s.anv.set a { s.anv[a] with charge := s.anv[a].charge + n, count := c, duty := d }, pw := w, free := f } := by
  rw [chargeGated]
  split
  case isTrue h =>
    subst h
    refine ⟨s.pw, s.anv[a].duty, s.anv[a].count, s.free, ?_⟩
    have hself : s.anv.set a s.anv[a] = s.anv := Vector.set_getElem_self _
    exact congrArg (fun v => { s with anv := v }) hself.symm
  case isFalse => exact ⟨_, _, _, _, rfl⟩

/-- With a failed PLL the remaining one locks, and the Anvil, gated until then, runs at the pending point (R449). -/
theorem exec_pllLock_failed {p : Nat} (g : Nat) (href : s.rdB Reg.HRT_CLK_STATUS_REF_FALLBACK 0 = false)
    (hp : s.anv[a].pll.target = some p) (hf : s.anv[a].pll.failed = true) : ∃ t, exec (.pllLock ⟨a, g⟩) s = .next t ∧
      t.rd Reg.PWR_ANV_OP_OP 0 = putBits (s.rd Reg.PWR_ANV_OP_OP 0) (4 * a.val + 3) (4 * a.val) p ∧
      t.anv[a].point = p ∧ t.anv[a].pll.target = none ∧ t.anv[a].charge = s.anv[a].charge + g ∧
      (∀ b, b ≠ a → t.anv[b] = s.anv[b]) ∧ t.mem = s.mem ∧ t.ops = s.ops ∧ t.rings = s.rings := by
  obtain ⟨w, d, c, f, hcharge⟩ := chargeGated_cases s a g
  have hctl : (s.chargeGated a g).ctl = s.ctl := by rw [hcharge]
  have hp' : (s.chargeGated a g).anv[a].pll.target = some p := by rw [hcharge]; simpa using hp
  have hact : exec (.pllLock ⟨a, g⟩) s = act s ((s.chargeGated a g).setPoint a p) := by
    show act s (s.pllLocked a g) = _
    simp only [pllLocked, hp, hf, Option.isNone_some]
    rw [switchNow_eq (by rw [rdB, rd_of_ctl hctl]; exact href) hp']
    rfl
  have hanv := anv_of_noCtl (setPoint_noCtl (s.chargeGated a g) a p)
  refine ⟨_, hact.trans (act_next ..), ?_, ?_, ?_, ?_, fun b hb => ?_, ?_, ?_, ?_⟩
  · rw [done_rd _ (by decide), setPoint_shown, rd_of_ctl hctl]
  · simp [hanv, atPoint]
  · simp [hanv, atPoint]
  · simp [anv_of_noCtl (setPoint_noCtl ..), atPoint, hcharge]
  · have hne : a.val ≠ b.val := fun e => hb (Fin.ext e.symm)
    simp [anv_of_noCtl (setPoint_noCtl ..), atPoint, hcharge, hne]
  · rw [done_mem, mem_of_noCtl (setPoint_noCtl ..), atPoint, hcharge]
  · rw [done_ops, ops_of_noCtl (setPoint_noCtl ..), atPoint, hcharge]
  · rw [done_rings, rings_of_noCtl (setPoint_noCtl ..), atPoint, hcharge]

theorem exec_pllSwitch {p : Nat} (href : s.rdB Reg.HRT_CLK_STATUS_REF_FALLBACK 0 = false)
    (hp : s.anv[a].pll.target = some p) (hl : s.anv[a].pll.locked = true) (hd : .anv a ∉ s.pw.droops) :
    exec (.pllSwitch a) s = act s (s.setPoint a p) := by
  show act s (s.switchDue a) = _
  rw [← switchNow_eq href hp]
  simp [-Fin.getElem_fin, switchDue, hp, hl, hd]

/-- A switch is deferred once, and counted, while a droop of its Anvil is asserted (R405). -/
theorem exec_pllSwitch_deferred {p : Nat} (hp : s.anv[a].pll.target = some p) (hl : s.anv[a].pll.locked = true)
    (hd : .anv a ∈ s.pw.droops) (hdefer : s.anv[a].pll.defer = false) : ∃ t, exec (.pllSwitch a) s = .next t ∧
      t.rd Reg.PWR_PLL_DEFER_COUNT 0 = (s.rd Reg.PWR_PLL_DEFER_COUNT 0 + 1) % 2 ^ 64 ∧
      RegsOnly { s with anv := s.anv.set a { s.anv[a] with pll := { s.anv[a].pll with defer := true } } } t
        [0x080118, 0x08011C] := by
  have hact : exec (.pllSwitch a) s =
      act s ((s.setAnv a { s.anv[a] with pll := { s.anv[a].pll with defer := true } }).inc Reg.PWR_PLL_DEFER_COUNT 0 1) := by
    show act s (s.switchDue a) = _
    simp [-Fin.getElem_fin, switchDue, hp, hl, hd, hdefer]
  refine ⟨_, hact.trans (act_next ..), ?_, ?_⟩
  · rw [done_rd _ (by decide), rd_inc_same _ _ _ _ (by decide), rd_setAnv]
    rfl
  · exact done_regsOnly (s := s.setAnv a { s.anv[a] with pll := { s.anv[a].pll with defer := true } }) (inc_noCtl ..)
      fun b hb => word_inc_listed hb (by decide)

theorem exec_pllSwitchDeferExpire {p : Nat} (href : s.rdB Reg.HRT_CLK_STATUS_REF_FALLBACK 0 = false)
    (hp : s.anv[a].pll.target = some p) (hdefer : s.anv[a].pll.defer = true) :
    exec (.pllSwitchDeferExpire a) s = act s (s.setPoint a p) := by
  show act s (if s.anv[a].pll.defer then s.switchNow a else s) = _
  rw [if_pos hdefer, switchNow_eq href hp]

/-- The third failure to lock in succession marks the PLL, with its event (R449). -/
theorem exec_pllLockFail {p : Nat} (hp : s.anv[a].pll.target = some p) (hf : s.anv[a].pll.failed = false) :
    ∃ t, exec (.pllLockFail a) s = .next t ∧
      (3 ≤ s.anv[a].pll.fails + 1 → Raised s t 0x0105 a none (s.anv[a].pll.fails + 1)) ∧
      EventsOnly { s with anv := s.anv.set a { s.anv[a] with pll := { s.anv[a].pll with
        fails := s.anv[a].pll.fails + 1, locked := false, failed := decide (3 ≤ s.anv[a].pll.fails + 1) } } } t [] := by
  have hopen : ¬(s.anv[a].pll.target.isNone || s.anv[a].pll.failed) = true := by rw [hp, hf]; simp
  obtain ⟨x, hx⟩ : ∃ x : Anvil, x = { s.anv[a] with pll := { s.anv[a].pll with
    fails := s.anv[a].pll.fails + 1, locked := false, failed := decide (3 ≤ s.anv[a].pll.fails + 1) } } := ⟨_, rfl⟩
  rw [← hx]
  have hact : exec (.pllLockFail a) s = act s (if 3 ≤ s.anv[a].pll.fails + 1 then
      (s.setAnv a x).raise 0x0105 a none (s.anv[a].pll.fails + 1) else s.setAnv a x) := by
    show act s (s.pllFails a) = _
    rw [pllFails, if_neg hopen, hx]
  refine ⟨_, hact.trans (act_next ..), fun h3 => ?_, ?_⟩
  · rw [Raised, done_tel, if_pos h3]
    exact raise_logs (s.setAnv a x) _ _ _ _
  · refine done_eventsOnly (s := s.setAnv a x) ?_ fun b _ hb => ?_ <;> split
    · exact raise_noEvent ..
    · rfl
    · exact raise_word _ _ _ _ _ _ hb
    · rfl

end

/-- Settles O12: a clause for each command, by the branch that it takes. -/
theorem droopsAndSwitches : Obligations.DroopsAndSwitches := by
  unfold Obligations.DroopsAndSwitches
  refine fun s a p href => ⟨fun d hclk hd => exec_droopFire hclk hd, fun d n hd hdefer => exec_droopRelease n hd hdefer,
    fun hp => ⟨fun g hf => exec_pllLock g hp hf, fun g hf => exec_pllLock_failed g href hp hf,
      fun hl hd => exec_takes_point (exec_pllSwitch href hp hl hd),
      fun hl hd hdefer => exec_pllSwitch_deferred hp hl hd hdefer,
      fun hdefer => ⟨exec_takes_point (exec_pllSwitchDeferExpire href hp hdefer),
        fun hd n => exec_droopRelease_deferred n href hp hdefer hd⟩,
      fun hf => exec_pllLockFail hp hf⟩⟩

end Sys2Proof.Machine
end


section
/-!
The issue of a held descriptor that has its turn (R138): it fails the checks of steps 1 and 2, or passes those of steps 1
to 4, or has passed them before.
-/
namespace Sys2Proof.Machine.State

open Sys2Proof.Safety

/-- Fewer than 64 macro-ops in flight, a live ring that nothing holds back, and the command's own opcode. -/
theorem turn_guard {s : State} {k : Issuing} {h : Held} (ht : HasTurn s k h) :
    ¬(dOpcode h.desc ≠ k.code || !k.sub h.desc || !s.ringLive k.ring || s.heldBackBy k.ring ||
      decide (64 ≤ (s.ringOps k.ring).length)) = true := by
  obtain ⟨-, hop, hsub, hlive, hback, hlen⟩ := ht
  simp [hop, hsub, hlive, hback, hlen]

section
variable {s : State} {k : Issuing} {h : Held} (ht : HasTurn s k h)
include ht

/-- A held descriptor that has passed the checks goes on with step 5. -/
theorem issueUnless_planned {o : Op} (hp : h.plan = some o) :
    issueUnless k.hold s k.ring k.code k.sub k.plan = s.stepFive k.ring h (k.plan s k.ring h.desc) o := by
  have hguard := turn_guard ht
  obtain ⟨hheld, -⟩ := ht
  simp only [issueUnless, issue, hheld, hp, Option.isNone_some, Bool.false_and, Bool.false_eq_true, if_false]
  exact if_neg hguard

/-- A held descriptor that is not made to wait goes through the checks of steps 1 and 2. -/
theorem issueUnless_malformed {n : Nat} (hp : h.plan = none) (hhold : k.hold s k.ring h.desc = false)
    (hn : firstDetail (headFindings s k.ring h.desc (k.plan s k.ring h.desc)) = some n) :
    issueUnless k.hold s k.ring k.code k.sub k.plan =
      (s.lookReads k.ring h.desc (k.plan s k.ring h.desc)).rejectOp k.ring h.desc
        (8 + b2n (s.lookPoison h.desc (k.plan s k.ring h.desc))) n := by
  have hguard := turn_guard ht
  obtain ⟨hheld, -⟩ := ht
  rw [headFindings] at hn
  simp only [issueUnless, issue, hheld, hp, hhold, Bool.and_false, Bool.false_eq_true, if_false, hn]
  exact if_neg hguard

/-- A held descriptor that passes steps 1 to 4 goes on with step 5, its descriptors and shape words read. -/
theorem issueUnless_passed {o : Op} (hp : h.plan = none) (hhold : k.hold s k.ring h.desc = false)
    (hlook : s.lookPoison h.desc (k.plan s k.ring h.desc) = false)
    (hhead : firstDetail (headFindings s k.ring h.desc (k.plan s k.ring h.desc)) = none)
    (ho : o = s.planOp k.ring h (k.plan s k.ring h.desc))
    (hmeet : ∀ e ∈ s.ringOps k.ring, rangesMeet e.writes (shapeWords (k.plan s k.ring h.desc) o) = false)
    (h4 : firstDetail (((s.lookReads k.ring h.desc (k.plan s k.ring h.desc)).shapeReads k.ring (k.plan s k.ring h.desc) o).step4Checks
      (k.plan s k.ring h.desc) o ++ (k.plan s k.ring h.desc).checks4 o) = none)
    (hshape : s.shapePoison (k.plan s k.ring h.desc) o = false) :
    issueUnless k.hold s k.ring k.code k.sub k.plan =
      (((s.lookReads k.ring h.desc (k.plan s k.ring h.desc)).shapeReads k.ring (k.plan s k.ring h.desc) o).modRing k.ring
        fun x => { x with held := some { h with plan := some o } }).stepFive k.ring { h with plan := some o }
          (k.plan s k.ring h.desc) o := by
  have hguard := turn_guard ht
  obtain ⟨hheld, -⟩ := ht
  have hany : ¬((s.ringOps k.ring).any fun e => rangesMeet e.writes
      ((wordRanges (k.plan s k.ring h.desc) (s.planOp k.ring h (k.plan s k.ring h.desc))).map fun x => lineRange x.1 x.2)) = true := by
    rw [Bool.not_eq_true, List.any_eq_false]
    intro e he
    rw [Bool.not_eq_true, ← ho]
    exact hmeet e he
  simp only [headFindings, hlook, Bool.false_eq_true, if_false] at hhead
  simp only [issueUnless, issue, hheld, hp, hhold, hlook, hhead, Bool.and_false, Bool.false_eq_true, if_false]
  rw [if_neg hguard, if_neg hany]
  simp only [← ho, h4, hshape, ite_self, Bool.false_eq_true, if_false]

end

/-! A descriptor that fails its checks. -/

section
variable (s : State) (r : RingId) (d : Nat) (p : Plan)

theorem lookReads_noMem : (s.lookReads r d p).noMem = s.noMem := foldl_keeps noMem _ (fun _ _ => readRange_noMem ..) _ _

theorem rd_lookReads {f : Field} {i : Nat} (hf : quietMem f i = true) : (s.lookReads r d p).rd f i = s.rd f i :=
  foldl_keeps (rd · f i) _ (fun _ _ => rd_readRange _ _ _ _ hf) _ _

theorem shapeReads_noMem (o : Op) : (s.shapeReads r p o).noMem = s.noMem :=
  foldl_keeps noMem _ (fun _ _ => readRange_noMem ..) _ _

end

/-- A descriptor found malformed completes with code 4, whether it is poisoned too or not (R138, R143). -/
theorem cplCode_malformed (b : Bool) : cplCode (8 + b2n b) = 4 := by cases b <;> rfl

end Sys2Proof.Machine.State

namespace Sys2Proof.Machine

open State Sys2Proof.Safety

theorem exec_malformed {c : Instr} {k : Issuing} {s : State} {h : Held} {n : Nat} (hc : issuing c = some k)
    (ht : HasTurn s k h) (hp : h.plan = none) (hhold : k.hold s k.ring h.desc = false)
    (hn : firstDetail (headFindings s k.ring h.desc (k.plan s k.ring h.desc)) = some n) :
    ∃ x : State, exec c s = .next ((x.endHalted k.ring (dOpcode h.desc) 4 (dSeq h.desc)).done s.pending) ∧ x.ops = s.ops ∧
      x.rings = s.rings.set k.ring { s.rings[k.ring] with held := none } ∧
      x.rd Reg.STR_RING_DONE_COUNT k.ring = s.rd Reg.STR_RING_DONE_COUNT k.ring := by
  have hlook := lookReads_noMem s k.ring h.desc (k.plan s k.ring h.desc)
  refine ⟨(s.lookReads k.ring h.desc (k.plan s k.ring h.desc)).recordedReject k.ring h.desc
    (8 + b2n (s.lookPoison h.desc (k.plan s k.ring h.desc))) n, ?_, (recordedReject_ops ..).trans (ops_of_noMem hlook), ?_, ?_⟩
  · rw [exec_of_issuing s hc, issueUnless_malformed ht hp hhold hn, act_next, rejectOp_eq, cplCode_malformed]
  · rw [recordedReject_rings, rings_of_noMem hlook]
  · rw [recordedReject, rd_writeRecord _ _ _ _ _ _ _ _ (quietMem_done k.ring) (offDoorbells_done k.ring), modRing_rd,
      rd_lookReads _ _ _ _ (quietMem_done k.ring)]

/-- Settles O45: the descriptor's completion is that of any which ends before its issue. -/
theorem malformedDescriptorsHalt : Obligations.MalformedDescriptorsHalt := by
  unfold Obligations.MalformedDescriptorsHalt
  intro c k s h n hc ht hp hhold r p hn
  obtain ⟨x, hexec, hops, hrings, hdone⟩ := exec_malformed hc ht hp hhold hn
  have hrest : (x.endHalted k.ring (dOpcode h.desc) 4 (dSeq h.desc)).noEvent = x.noEvent := endHalted_noEvent ..
  have hown : ∀ r : RingId, ∀ f ∈ [Reg.STR_RING_STAT_HALTED, Reg.STR_RING_STAT_HALT_CODE, Reg.STR_RING_HALTSEQ_SEQ,
      Reg.STR_RING_DONE_COUNT], ownField f r = true := by decide
  have hseq : dSeq h.desc < 2 ^ 32 := bits_lt ..
  refine ⟨_, hexec, ?_, ?_, ?_, ?_, ?_, ?_⟩
  · rw [done_ops, ops_of_noEvent hrest, hops]
  · rw [done_rings, rings_of_noEvent hrest, hrings]
  · rw [done_rdB _ (hown r _ (by simp)), endHalted_halted]
  · rw [done_rd _ (hown r _ (by simp)), endHalted_code]
    rfl
  · rw [done_rd _ (hown r _ (by simp)), endHalted_seq, Nat.mod_eq_of_lt hseq]
  · rw [done_rd _ (hown r _ (by simp)), endHalted_done, hdone]

end Sys2Proof.Machine
end

section
/-!
Steps 5 and 6 of the issue (R138, R140, R141, R144): nothing holds the macro-op, and it joins those in flight.
-/
namespace Sys2Proof.Machine.State

open Sys2Proof.Safety

/-! What the issue takes: scales, counters and a tracker. -/

/-- A macro-op without the scales and counters that its issue takes (R90, R98, R99). -/
def unscaled (o : Op) : Op := { o with scales := [], ctrs := [], olds := [], warm := false }

/-- A state without what the accesses and counters of an issue change. -/
def noScales (s : State) : State := { s.noMem with slots := State.reset.slots }

theorem noScales_of_noMem {s t : State} (h : t.noMem = s.noMem) : t.noScales = s.noScales := by
  rw [noScales, noScales, h]

theorem rings_of_noScales {s t : State} (h : t.noScales = s.noScales) : t.rings = s.rings := by
  have hr := congrArg State.rings h
  exact hr

theorem ops_of_noScales {s t : State} (h : t.noScales = s.noScales) : t.ops = s.ops := by
  have ho := congrArg State.ops h
  exact ho

theorem opNext_of_noScales {s t : State} (h : t.noScales = s.noScales) : t.opNext = s.opNext := by
  have hn := congrArg State.opNext h
  exact hn

theorem opNext_of_noMem {s t : State} (h : t.noMem = s.noMem) : t.opNext = s.opNext := by
  have hn := congrArg State.opNext h
  exact hn

theorem takeCounter_noScales (s : State) (n : Fin 8) (i : Nat) : (s.takeCounter n i).1.noScales = s.noScales := rfl

theorem takeScales_keeps (s : State) (p : Plan) (o : Op) :
    (s.takeScales p o).1.noScales = s.noScales ∧ unscaled (s.takeScales p o).2 = unscaled o := by
  have hpair := foldl_keeps (fun x : State × Op => (x.1.noScales, unscaled x.2)) (α := State × Op) (β := Role × Nat)
  simp only [takeScales]
  generalize hg : List.foldl _ (s, o) _ = g
  refine Prod.mk.inj ((congrArg (fun x : State × Op => (x.1.noScales, unscaled x.2)) hg.symm).trans (hpair _ ?_ _ _))
  intro ⟨t, q⟩ ⟨role, i⟩
  cases Role.writes role
  case false => rfl
  case true =>
    by_cases hpts : mdPts (q.mat i).md = true <;> by_cases hrnd : mdRnd (q.mat i).md = true <;>
      simp only [hpts, hrnd, if_true, if_false, Bool.false_eq_true]
    · exact congrArg (·, unscaled q) ((takeCounter_noScales ..).trans (noScales_of_noMem (update_noMem ..)))
    · exact congrArg (·, unscaled q) (noScales_of_noMem (update_noMem ..))
    · exact congrArg (·, unscaled q) (takeCounter_noScales ..)
    · rfl

/-- Fills that a macro-op uses are marked in the memory system alone (R286). -/
theorem fillsMatch_noMem (s : State) (o : Op) : (s.fillsMatch o).noMem = s.noMem := by
  simp only [fillsMatch]
  exact ite_keeps noMem _ rfl rfl

/-- What the issue of a macro-op leaves of a state with its macro-ops, its next number and the other rings as given. -/
structure HandedOver (s x : State) (r : RingId) (o o' : Op) : Prop where
  scaled : unscaled o' = unscaled o
  ops : x.ops = s.ops ++ [o']
  next : x.opNext = s.opNext + 1
  held : x.rings[r].held = none
  others : ∀ q, q ≠ r → x.rings[q] = s.rings[q]

/-- Step 6 starts the macro-op's engine once the macro-op has joined those in flight (R138). -/
theorem handOver_starts {s w : State} {r : RingId} (h : Held) (p : Plan) (o : Op) (hops : w.ops = s.ops)
    (hnext : w.opNext = s.opNext) (hrings : ∀ q, q ≠ r → w.rings[q] = s.rings[q]) :
    ∃ (x : State) (o' : Op), w.handOver r h p o = (p.start x o').countInflight r ∧
      HandedOver s x r { o with id := s.opNext, tracker := h.tracker } o' := by
  obtain ⟨y, hy⟩ : ∃ y : State, y = ({ w with opNext := w.opNext + 1 } : State).modRing r fun x => { x with held := none } := ⟨_, rfl⟩
  obtain ⟨hkeep, hscaled⟩ := takeScales_keeps y p { o with id := w.opNext, tracker := h.tracker }
  obtain ⟨z, hz⟩ : ∃ z : State × Op, z = y.takeScales p { o with id := w.opNext, tracker := h.tracker } := ⟨_, rfl⟩
  rw [← hz] at hkeep hscaled
  obtain ⟨x, hx⟩ : ∃ x : State, x = (({ z.1 with ops := z.1.ops ++ [z.2] } : State).captureRing r (dOpcode z.2.desc) 0 0
    (dSeq z.2.desc) 0).fillsMatch z.2 := ⟨_, rfl⟩
  have hrest : x.noMem = ({ z.1 with ops := z.1.ops ++ [z.2] } : State).noMem := by
    rw [hx, fillsMatch_noMem, captureRing]
    exact noMem_of_noEvent (capture_noEvent ..)
  have hzrings : z.1.rings = y.rings := rings_of_noScales hkeep
  have hzops : z.1.ops = s.ops := (ops_of_noScales hkeep).trans (by rw [hy]; exact hops)
  refine ⟨x, z.2, ?_, ?_, ?_, ?_, ?_, fun q hq => ?_⟩
  · rw [handOver, hx, hz, hy]
  · rw [hscaled, hnext]
  · rw [ops_of_noMem hrest, ← hzops]
  · rw [opNext_of_noMem hrest]
    exact (opNext_of_noScales hkeep).trans (by rw [hy, ← hnext]; rfl)
  · rw [rings_of_noMem hrest]
    show z.1.rings[r].held = none
    rw [hzrings, hy]
    simp
  · have hne : r.val ≠ q.val := fun e => hq (Fin.ext e.symm)
    rw [rings_of_noMem hrest, ← hrings q hq]
    show z.1.rings[q] = w.rings[q]
    rw [hzrings, hy]
    simp [hne]

/-! Step 5. -/

/-- A tracker taken for a held descriptor is taken for it in whatever step of its checks it stands. -/
theorem takeTracker_of_planned {s v : State} {r : RingId} {h h' : Held} (ht : h'.tracker = h.tracker)
    (hv : s.takeTracker r h = (v, true)) : ∃ (q : Vector Seqr 2) (l : Vector Ring 48),
      s.takeTracker r h' = ({ s with seqr := q, rings := l }, true) ∧ ∀ q, q ≠ r → l[q] = s.rings[q] := by
  simp only [takeTracker, ht] at hv ⊢
  split
  case isTrue => exact ⟨s.seqr, s.rings, rfl, fun _ _ => rfl⟩
  case isFalse hno =>
    rw [if_neg hno] at hv
    split
    case isTrue =>
      refine ⟨_, _, rfl, fun q hq => ?_⟩
      have hne : r.val ≠ q.val := fun e => hq (Fin.ext e.symm)
      simp [hne]
    case isFalse hfree =>
      rw [if_neg hfree] at hv
      split at hv <;> cases hv

/-- Scale records that are sound let the issue go on to the hand-over (R100). -/
theorem stepSix_sound {s : State} {r : RingId} {p : Plan} {o : Op} (h : Held)
    (hrec : ∀ x ∈ recRanges p o, s.poisoned x.1 x.2 = false ∧ recValid (s.peek x.1 64) = true) :
    s.stepSix r h p o = s.handOver r h p o := by
  have hbad : ((recRanges p o).any fun x => s.poisoned x.1 x.2) = false :=
    List.any_eq_false.mpr fun x hx => by simp [(hrec x hx).1]
  have hwrong : ((recRanges p o).any fun x => !s.poisoned x.1 x.2 && !recValid (s.peek x.1 64)) = false :=
    List.any_eq_false.mpr fun x hx => by simp [(hrec x hx).2]
  simp only [stepSix, hbad, hwrong, Bool.or_false, Bool.false_eq_true, if_false]

/-- A macro-op that nothing of step 5 holds is handed over, in a state with the macro-ops in flight, the next number and the
other rings as they were. -/
theorem stepFive_proceeds {u v : State} {r : RingId} {h h' : Held} {p : Plan} {o : Op} (hd : h'.desc = h.desc)
    (hpass : h'.passed = h.passed) (ht : h'.tracker = h.tracker) (hgo : Proceeds u v r h p o) :
    ∃ (w : State) (h'' : Held), u.stepFive r h' p o = w.handOver r h'' p o ∧ w.ops = u.ops ∧ w.opNext = u.opNext ∧
      ∀ q, q ≠ r → w.rings[q] = u.rings[q] := by
  obtain ⟨hwaits, hfence, hrec, hdrain, hranges⟩ := hgo
  have hdrain' : ¬(p.waits || (dOpcode h.desc == 0x41 && decide (4 ≤ (u.ops.filter fun x => dOpcode x.desc == 0x41).length))) = true := by
    simp only [hwaits, Bool.false_or, Bool.and_eq_true, beq_iff_eq, decide_eq_true_eq, not_and, Nat.not_le]
    exact hdrain
  have hopen : (dFencePre h.desc || dOpcode h.desc == 0x3A) = true → h.passed = false → u.ringOps r = [] ∧ u.rings[r].poison = false :=
    fun hf => hfence (by simpa using hf)
  have hearlier : ¬((dFencePre h.desc || dOpcode h.desc == 0x3A) && !h.passed && u.ringOps r ≠ []) = true := fun hc => by
    simp only [Bool.and_eq_true, Bool.not_eq_true', decide_eq_true_eq] at hc
    exact hc.2 (hopen hc.1.1 hc.1.2).1
  have hpoison : ¬((dFencePre h.desc || dOpcode h.desc == 0x3A) && !h.passed && u.rings[r].poison) = true := fun hc => by
    simp only [Bool.and_eq_true, Bool.not_eq_true'] at hc
    exact absurd hc.2 (by simp only [(hopen hc.1.1 hc.1.2).2, Bool.false_eq_true, not_false_iff])
  simp only [stepFive, hd, hpass]
  rw [if_neg hdrain', if_neg hearlier, if_neg hpoison]
  rcases hranges with ⟨hr, hw, rfl⟩ | ⟨hne, hlate, htake, hconf⟩
  · refine ⟨v, h', ?_, rfl, rfl, fun _ _ => rfl⟩
    rw [if_pos (by simp [hr, hw]), stepSix_sound _ hrec]
  · obtain ⟨q, l, hw, hrings⟩ := takeTracker_of_planned ht htake
    have hany : ((u.ringOps r).any (conflicts o)) = false := List.any_eq_false.mpr fun e he => by simp [hconf e he]
    refine ⟨{ u with seqr := q, rings := l }, { h' with tracker := true }, ?_, rfl, rfl, hrings⟩
    rw [if_neg (by simpa using hne), if_neg (by simp [hlate]), hw]
    simp only [hany, Bool.not_true, Bool.or_false, Bool.false_eq_true, if_false]
    exact stepSix_sound _ hrec

/-- What steps 1 to 4 lead to differs from the state before in what they read and in the ring's own held descriptor. -/
theorem keeps_of_passes {s u : State} {k : Issuing} {h : Held} {o : Op} (hp : Passes s u k h o) :
    u.ops = s.ops ∧ u.opNext = s.opNext ∧ ∀ q, q ≠ k.ring → u.rings[q] = s.rings[q] := by
  rcases hp with ⟨-, rfl⟩ | ⟨-, -, -, -, -, -, -, -, rfl⟩
  · exact ⟨rfl, rfl, fun _ _ => rfl⟩
  · have hreads := (shapeReads_noMem (s.lookReads k.ring h.desc (k.plan s k.ring h.desc)) k.ring (k.plan s k.ring h.desc) o).trans
      (lookReads_noMem ..)
    have hops := ops_of_noMem hreads
    have hnext := opNext_of_noMem hreads
    refine ⟨hops, hnext, fun q hq => ?_⟩
    have hne : k.ring.val ≠ q.val := fun e => hq (Fin.ext e.symm)
    rw [modRing_rings, rings_of_noMem hreads]
    simp [hne]

/-- What passes steps 1 to 4 reaches step 5. -/
theorem issueUnless_of_passes {s u : State} {k : Issuing} {h : Held} {o : Op} (ht : HasTurn s k h) (hp : Passes s u k h o) :
    ∃ h' : Held, issueUnless k.hold s k.ring k.code k.sub k.plan = u.stepFive k.ring h' (k.plan s k.ring h.desc) o ∧
      h'.desc = h.desc ∧ h'.passed = h.passed ∧ h'.tracker = h.tracker := by
  rcases hp with ⟨hplan, rfl⟩ | ⟨hplan, hhold, hlook, hhead, ho, hmeet, h4, hshape, rfl⟩
  · exact ⟨h, issueUnless_planned ht hplan, rfl, rfl, rfl⟩
  · exact ⟨{ h with plan := some o }, issueUnless_passed ht hplan hhold hlook hhead ho hmeet h4 hshape, rfl, rfl, rfl⟩

end Sys2Proof.Machine.State

namespace Sys2Proof.Machine

open State Sys2Proof.Safety

/-- Settles O44: what passes the checks reaches step 5, where nothing holds it, and is handed over. -/
theorem macroOpsIssue : Obligations.MacroOpsIssue := by
  unfold Obligations.MacroOpsIssue
  intro c k s u v h o hc ht hp hgo
  obtain ⟨hops, hnext, hrings⟩ := keeps_of_passes hp
  obtain ⟨h', hissue, hd, hpass, htr⟩ := issueUnless_of_passes ht hp
  obtain ⟨w, h'', hfive, hwops, hwnext, hwrings⟩ := stepFive_proceeds hd hpass htr hgo
  obtain ⟨x, o', hover, hx⟩ := handOver_starts (s := s) (w := w) h'' (k.plan s k.ring h.desc) o (hwops.trans hops)
    (hwnext.trans hnext) fun q hq => (hwrings q hq).trans (hrings q hq)
  obtain ⟨hscaled, hxops, hxnext, hheld, hothers⟩ := hx
  refine ⟨_, (exec_of_issuing s hc).trans (act_next ..), x, o', ?_, (congrArg Op.id hscaled :), (congrArg Op.ring hscaled :),
    (congrArg Op.desc hscaled :), (congrArg Op.addr hscaled :), (congrArg Op.mds hscaled :), (congrArg Op.shapes hscaled :),
    (congrArg Op.reads hscaled :), (congrArg Op.writes hscaled :), hxops, hxnext, hheld, hothers⟩
  rw [hissue, hfive, hover]

end Sys2Proof.Machine
end


section
/-!
The registers of a Sprig after an instruction that touches only them (R246, R247): the lanes of a vector register, the bits of
a predicate, and the marks of poison beside them (R302).
-/
namespace Sys2Proof.Machine

open State Sys2Proof.Safety

/-! Marks of poison. -/

theorem testBit_markBit_same {w : Nat} (m : BitVec w) {i : Nat} (hi : i < w) (on : Bool) :
    (markBit m i on).toNat.testBit i = on := by
  cases on <;> simp only [markBit, Bool.false_eq_true, if_false, if_true, BitVec.testBit_toNat, BitVec.getLsbD_or,
    BitVec.getLsbD_and, BitVec.getLsbD_not, BitVec.getLsbD_ofNat, Nat.testBit_two_pow] <;> simp [hi]

theorem testBit_markBit_other {w : Nat} (m : BitVec w) {i j : Nat} (h : j ≠ i) (on : Bool) :
    (markBit m i on).toNat.testBit j = m.toNat.testBit j := by
  by_cases hj : j < w
  · cases on <;> simp only [markBit, Bool.false_eq_true, if_false, if_true, BitVec.testBit_toNat, BitVec.getLsbD_or,
      BitVec.getLsbD_and, BitVec.getLsbD_not, BitVec.getLsbD_ofNat, Nat.testBit_two_pow] <;> simp [hj, h.symm]
  · rw [BitVec.testBit_toNat, BitVec.testBit_toNat, BitVec.getLsbD_of_ge _ _ (by omega), BitVec.getLsbD_of_ge _ _ (by omega)]

/-! The number whose bits are given. -/

theorem foldl_bits_range (g : Nat → Bool) (n : Nat) :
    (List.range n).foldl (fun acc i => acc + b2n (g i) * 2 ^ i) 0 < 2 ^ n ∧
      ∀ j, ((List.range n).foldl (fun acc i => acc + b2n (g i) * 2 ^ i) 0).testBit j = (decide (j < n) && g j) := by
  induction n with
  | zero => simp
  | succ n ih =>
    obtain ⟨hlt, hbit⟩ := ih
    rw [List.range_succ, List.foldl_append, List.foldl_cons, List.foldl_nil]
    have hle := b2n_le_one (g n)
    refine ⟨?_, fun j => ?_⟩
    · have := Nat.mul_le_mul_right (2 ^ n) hle
      rw [pow_succ]
      omega
    · rw [Nat.add_comm, Nat.mul_comm, Nat.testBit_two_pow_mul_add _ hlt, hbit]
      by_cases h : j < n
      · simp [h, Nat.lt_succ_of_lt h]
      · by_cases he : j = n
        · subst he
          cases g j <;> simp [b2n]
        · have hnot : ¬j < n + 1 := by omega
          have hhigh : b2n (g n) < 2 ^ (j - n) := hle.trans_lt (Nat.one_lt_two_pow (by omega))
          simp [h, hnot, Nat.testBit_lt_two_pow hhigh]

theorem laneBits_eq (f : Fin 64 → Bool) : laneBits f =
    (List.range 64).foldl (fun acc i => acc + b2n (if h : i < 64 then f ⟨i, h⟩ else false) * 2 ^ i) 0 := by
  rw [← List.map_coe_finRange_eq_range, List.foldl_map, laneBits]
  refine List.foldl_ext _ _ _ fun acc l _ => ?_
  rw [dif_pos l.isLt]

theorem testBit_laneBits (f : Fin 64 → Bool) (l : Fin 64) : (laneBits f).testBit l.val = f l := by
  rw [laneBits_eq, (foldl_bits_range _ 64).2]
  simp [l.isLt]

theorem testBit_ofNat_laneBits (f : Fin 64 → Bool) (l : Fin 64) : (BitVec.ofNat 64 (laneBits f)).toNat.testBit l.val = f l := by
  rw [BitVec.testBit_toNat, BitVec.getLsbD_ofNat, testBit_laneBits]
  simp [l.isLt]

/-! Registers written. -/

section
variable (x : Sprig)

theorem Sprig.setVec_lane (vd : Fin 32) (p : Pred) (f : Fin 64 → Nat) (taint : Bool) (l : Fin 64) :
    (x.setVec vd p f taint).v[vd][l] = if x.active p l then BitVec.ofNat 32 (f l) else x.v[vd][l] := by
  simp [setVec]

theorem Sprig.setVec_other {vd r : Fin 32} (p : Pred) (f : Fin 64 → Nat) (taint : Bool) (h : r ≠ vd) :
    (x.setVec vd p f taint).v[r] = x.v[r] := by
  have hne : vd.val ≠ r.val := fun e => h (Fin.ext e.symm)
  simp [setVec, hne]

theorem Sprig.setVec_mark (vd : Fin 32) (p : Pred) (f : Fin 64 → Nat) (taint : Bool) :
    (x.setVec vd p f taint).tv.toNat.testBit vd.val = (taint || (p.isSome && x.vecTaint [vd]) || x.predTaint p) :=
  testBit_markBit_same _ vd.isLt _

theorem Sprig.setVec_mark_other {vd r : Fin 32} (p : Pred) (f : Fin 64 → Nat) (taint : Bool) (h : r ≠ vd) :
    (x.setVec vd p f taint).tv.toNat.testBit r.val = x.tv.toNat.testBit r.val :=
  testBit_markBit_other _ (fun e => h (Fin.ext e)) _

theorem Sprig.setPred_same (pd : Fin 8) (n : Nat) (taint : Bool) : (x.setPred pd n taint).p[pd] = BitVec.ofNat 64 n := by
  simp [setPred]

theorem Sprig.setPred_other {pd r : Fin 8} (n : Nat) (taint : Bool) (h : r ≠ pd) : (x.setPred pd n taint).p[r] = x.p[r] := by
  have hne : pd.val ≠ r.val := fun e => h (Fin.ext e.symm)
  simp [setPred, hne]

end

/-! Instructions that touch only their Sprig's registers. -/

section
variable {s : State} {sp : SprigAt} (hr : s.sprigRuns sp.n = true)
include hr

theorem State.sprigDo_eq (f : Sprig → Sprig) : s.sprigDo sp f = { s with sprigs := s.sprigs.set sp.n (f (sprigNow s sp)) } := by
  rw [sprigDo, if_pos hr]
  rfl

/-- An instruction on the registers of a running Sprig changes nothing else. -/
theorem exec_sprigDo {c : Instr} {f : Sprig → Sprig} (hc : exec c s = act s (s.sprigDo sp f)) :
    ∃ t, exec c s = .next t ∧ SprigOnly s t sp.n (f (sprigNow s sp)) := by
  refine ⟨_, hc.trans (act_next ..), ?_⟩
  rw [sprigDo_eq hr]
  exact done_regsOnly (s := { s with sprigs := s.sprigs.set sp.n (f (sprigNow s sp)) }) rfl fun _ _ => rfl

/-- A vector result: the active lanes take a function of the registers (R246). -/
theorem exec_lanesWritten {c : Instr} {vd : Fin 32} {p : Pred} (srcs : List (Fin 32)) (f : Sprig → Fin 64 → Nat)
    (hc : exec c s = act s (s.sprigDo sp fun x => x.setVec vd p (f x) (x.vecTaint srcs))) :
    ∃ t, exec c s = .next t ∧ LanesWritten s t sp vd p srcs (f (sprigNow s sp)) := by
  obtain ⟨t, ht, honly⟩ := exec_sprigDo hr hc
  let x := sprigNow s sp
  exact ⟨t, ht, x.setVec vd p (f x) (x.vecTaint srcs), honly, x.setVec_lane vd p _ _,
    fun r h => ⟨x.setVec_other p _ _ h, x.setVec_mark_other p _ _ h⟩, x.setVec_mark vd p _ _⟩

/-- A predicate written, with its mark of poison (R302). -/
theorem exec_predWritten {c : Instr} {pd : Fin 8} {f : Sprig → Nat} {taint : Sprig → Bool}
    (hc : exec c s = act s (s.sprigDo sp fun x => x.setPred pd (f x) (taint x))) : ∃ t, exec c s = .next t ∧
      ∃ y : Sprig, SprigOnly s t sp.n { sprigNow s sp with p := y.p, tp := y.tp } ∧
        (∀ l : Fin 64, y.p[pd].toNat.testBit l.val = (BitVec.ofNat 64 (f (sprigNow s sp))).toNat.testBit l.val) ∧
        (∀ r, r ≠ pd → y.p[r] = (sprigNow s sp).p[r] ∧ y.tp.toNat.testBit r.val = (sprigNow s sp).tp.toNat.testBit r.val) ∧
        y.tp.toNat.testBit pd.val = taint (sprigNow s sp) := by
  obtain ⟨t, ht, honly⟩ := exec_sprigDo hr hc
  let x := sprigNow s sp
  exact ⟨t, ht, x.setPred pd (f x) (taint x), honly, fun l => by rw [x.setPred_same],
    fun r h => ⟨x.setPred_other _ _ h, testBit_markBit_other _ (fun e => h (Fin.ext e)) _⟩, testBit_markBit_same _ pd.isLt _⟩

end

/-- Settles O52: each operation writes the active lanes of one register. -/
theorem sprigArithmetic : Obligations.SprigArithmetic := by
  unfold Obligations.SprigArithmetic
  intro s sp vd va vb vc p k hr x one two
  have htwo (c : Instr) (f : Nat → Nat → Nat) (hc : exec c s = act s (s.sprigDo sp fun x => x.map2 vd va vb p f)) : two c f :=
    exec_lanesWritten hr [va, vb] (fun x l => f (x.lane va l) (x.lane vb l)) hc
  have hone (c : Instr) (f : Nat → Nat) (hc : exec c s = act s (s.sprigDo sp fun x => x.map1 vd va p f)) : one c f :=
    exec_lanesWritten hr [va] (fun x l => f (x.lane va l)) hc
  exact ⟨htwo _ _ rfl, htwo _ _ rfl, htwo _ _ rfl,
    exec_lanesWritten hr [va, vb, vc] (fun x l => f32Fma (x.lane va l) (x.lane vb l) (x.lane vc l)) rfl,
    htwo _ _ rfl, htwo _ _ rfl, htwo _ _ rfl, hone (.fabs sp vd va p) (fun a => fp32.round (f32 a).abs) rfl, hone _ _ rfl,
    hone _ _ rfl, hone _ _ rfl, hone _ _ rfl, hone _ _ rfl, hone _ _ rfl⟩

/-! PIVOT (R247). -/

section
variable (x : Sprig) (vd ve va st : Fin 32) (p : Pred)

/-- The results of PIVOT for a lane: its code, the second result, and whether it fails. -/
def Sprig.pivotOf (x : Sprig) (va st : Fin 32) (l : Fin 64) : Nat × Nat × Bool := pivotLane (x.lane va l) (x.s[st].toNat % 2 ^ 32)

/-- PIVOT's first result written. -/
def Sprig.pivotHalf (x : Sprig) (vd va st : Fin 32) (p : Pred) : Sprig :=
  x.setVec vd p (fun l => (x.pivotOf va st l).1) (x.vecTaint [va] || x.scalTaint st)

theorem Sprig.pivot_v : (x.pivot vd ve va st p).v = ((x.pivotHalf vd va st p).setVec ve p (fun l => (x.pivotOf va st l).2.1)
    (x.vecTaint [va] || x.scalTaint st)).v := rfl

theorem Sprig.pivotHalf_active (l : Fin 64) : (x.pivotHalf vd va st p).active p l = x.active p l := rfl

theorem Sprig.pivot_second (l : Fin 64) : (x.pivot vd ve va st p).v[ve][l] =
    if x.active p l then BitVec.ofNat 32 (x.pivotOf va st l).2.1 else x.v[ve][l] := by
  rw [pivot_v, setVec_lane, pivotHalf_active]
  split
  case isTrue => rfl
  case isFalse ha =>
    rw [pivotHalf]
    by_cases he : ve = vd
    · subst he
      rw [setVec_lane, if_neg ha]
    · rw [setVec_other _ _ _ _ he]

theorem Sprig.pivot_first (h : ve ≠ vd) (l : Fin 64) : (x.pivot vd ve va st p).v[vd][l] =
    if x.active p l then BitVec.ofNat 32 (x.pivotOf va st l).1 else x.v[vd][l] := by
  rw [pivot_v, setVec_other _ _ _ _ h.symm, pivotHalf, setVec_lane]

theorem Sprig.pivot_others {q : Fin 32} (hd : q ≠ vd) (he : q ≠ ve) : (x.pivot vd ve va st p).v[q] = x.v[q] := by
  rw [pivot_v, setVec_other _ _ _ _ he, pivotHalf, setVec_other _ _ _ _ hd]

theorem Sprig.pivot_fails (l : Fin 64) : (x.pivot vd ve va st p).pivf.toNat.testBit l.val =
    (x.pivf.toNat.testBit l.val || (x.active p l && (x.pivotOf va st l).2.2)) := by
  have hpivf : (x.pivot vd ve va st p).pivf =
      x.pivf ||| BitVec.ofNat 64 (laneBits fun l => x.active p l && (x.pivotOf va st l).2.2) := rfl
  rw [hpivf, BitVec.toNat_or, Nat.testBit_or, testBit_ofNat_laneBits]

end

/-- The register that takes PIVOT's second result (R247). -/
def pivotNext (s : State) (vd : Fin 32) : Fin 32 := if vd.val < 31 then Fin.ofNat 32 (vd.val + 1) else Fin.ofNat 32 (s.choose 32)

theorem pivotNext_val {s : State} {vd : Fin 32} (h : vd.val < 31) : (pivotNext s vd).val = vd.val + 1 := by
  rw [pivotNext, if_pos h]
  exact Nat.mod_eq_of_lt (by omega)

theorem exec_pivot {s : State} {sp : SprigAt} (hr : s.sprigRuns sp.n = true) (vd va st : Fin 32) (p : Pred) :
    ∃ t, exec (.pivot sp vd va st p) s = .next t ∧ RegsOnly { s with
      free := s.free + 1
      sprigs := s.sprigs.set sp.n ((sprigNow s sp).pivot vd (pivotNext s vd) va st p) } t [] := by
  have hact : exec (.pivot sp vd va st p) s = act s (s.sprigDo sp fun x => x.pivot vd (pivotNext s vd) va st p).tick := by
    show act s (if s.sprigRuns sp.n then _ else s) = _
    rw [if_pos hr]
    rfl
  refine ⟨_, hact.trans (act_next ..), ?_⟩
  rw [sprigDo_eq hr]
  exact done_regsOnly (s := { s with
    free := s.free + 1
    sprigs := s.sprigs.set sp.n ((sprigNow s sp).pivot vd (pivotNext s vd) va st p) }) rfl fun _ _ => rfl

/-! RET (R246, R248). -/

/-- RET ends the program or handler that the Sprig runs. -/
theorem exec_ret {s : State} {sp : SprigAt} (hr : s.sprigRuns sp.n = true) :
    exec (.ret sp) s = .next (((s.sprigDo sp id).sprigRet sp.n).done s.pending) := by
  show act s (if s.sprigRuns sp.n then _ else s) = _
  rw [if_pos hr, act_next]

theorem State.sprigDo_now {s : State} {sp : SprigAt} (hr : s.sprigRuns sp.n = true) :
    (s.sprigDo sp id).sprigs[sp.n] = sprigNow s sp := by
  rw [sprigDo_eq hr]
  simp

/-- Settles O53: each instruction acts on the registers of its Sprig, and RET on what the Sprig runs. -/
theorem sprigPredicatesAndEnds : Obligations.SprigPredicatesAndEnds := by
  unfold Obligations.SprigPredicatesAndEnds
  intro s sp c sd va vb vd st pd pa pb p o hr n x pred mark
  have hpred (i : Instr) (f : Sprig → Nat) (g : Fin 64 → Bool) (taint : Sprig → Bool)
      (hc : exec i s = act s (s.sprigDo sp fun x => x.setPred pd (f x) (taint x)))
      (hg : ∀ l : Fin 64, (BitVec.ofNat 64 (f x)).toNat.testBit l.val = g l) : pred i g (taint x) := by
    obtain ⟨t, ht, y, honly, hbits, hothers, hmark⟩ := exec_predWritten hr hc
    exact ⟨t, ht, y, honly, fun l => (hbits l).trans (hg l), hothers, hmark⟩
  have hjob : (sprigNow s sp).job = x.job := rfl
  refine ⟨exec_sprigDo (f := fun x => x.fred sd va p) hr rfl, ?_, ?_, ?_, ?_, ⟨pivotNext s vd, pivotNext_val, ?_⟩, fun ho => ?_, fun e k => ⟨fun hk => ?_, fun he => ?_⟩⟩
  · exact hpred _ _ _ (fun x => x.vecTaint [va, vb] || x.predTaint p || (p.isSome && x.tp.toNat.testBit pd.val)) rfl
      fun l => testBit_ofNat_laneBits _ l
  · refine hpred _ _ _ (fun x => x.tp.toNat.testBit pa.val || x.tp.toNat.testBit pb.val) rfl fun l => ?_
    rw [BitVec.ofNat_toNat, BitVec.setWidth_eq, BitVec.toNat_and, Nat.testBit_and]
  · refine hpred _ _ _ (fun x => x.tp.toNat.testBit pa.val || x.tp.toNat.testBit pb.val) rfl fun l => ?_
    rw [BitVec.ofNat_toNat, BitVec.setWidth_eq, BitVec.toNat_or, Nat.testBit_or]
  · refine hpred _ _ _ (fun x => x.tp.toNat.testBit pa.val) rfl fun l => ?_
    rw [BitVec.ofNat_toNat, BitVec.setWidth_eq, BitVec.testBit_toNat, BitVec.testBit_toNat, BitVec.getLsbD_not]
    simp [l.isLt]
  · obtain ⟨t, ht, honly⟩ := exec_pivot hr vd va st p
    exact ⟨t, ht, x.pivot vd (pivotNext s vd) va st p, honly,
      fun l => ⟨fun h => x.pivot_first vd _ va st p h l, x.pivot_second vd _ va st p l, x.pivot_fails vd _ va st p l⟩,
      fun q hd he => x.pivot_others vd _ va st p hd he⟩
  all_goals simp only [exec_ret hr, sprigRet, sprigDo_now hr, hjob]
  · rw [ho]
  · rw [hk]
  · rw [he]

end Sys2Proof.Machine
end


section
/-!
Bytes of plain memory: what an access of a mapped page outside every window leaves, as a change of bytes under a mask, for one
line, for the lines of a byte string, and for joined lines (R309, R312, R323).
-/
namespace Sys2Proof.Machine

open Sys2Proof.Safety

/-! Bytes of numbers. -/

theorem shiftRight_ofBytes_cons (b : Byte) (bs : List Byte) (i : Nat) :
    ofBytes (b :: bs) >>> (8 * (i + 1)) = ofBytes bs >>> (8 * i) := by
  have hb := b.isLt
  rw [ofBytes, show 8 * (i + 1) = 8 + 8 * i by omega, Nat.shiftRight_add]
  congr 1
  rw [Nat.shiftRight_eq_div_pow]
  omega

/-- A byte of the number of a byte string (R9). -/
theorem ofNat_shiftRight_ofBytes (bs : List Byte) (i : Nat) : BitVec.ofNat 8 (ofBytes bs >>> (8 * i)) = bs.getD i 0 := by
  induction bs generalizing i with
  | nil => simp [ofBytes]
  | cons b bs ih =>
    cases i with
    | zero => simp [ofBytes, BitVec.ofNat_add, BitVec.ofNat_mul]
    | succ i => rw [shiftRight_ofBytes_cons, ih, List.getD_cons_succ]

@[simp] theorem length_toBytes (n x : Nat) : (toBytes n x).length = n := by
  induction n generalizing x with
  | zero => rfl
  | succ n ih => rw [toBytes, List.length_cons, ih]

theorem getD_toBytes (n x : Nat) {i : Nat} (h : i < n) : (toBytes n x).getD i 0 = BitVec.ofNat 8 (x >>> (8 * i)) := by
  induction n generalizing x i with
  | zero => omega
  | succ n ih =>
    cases i with
    | zero => rfl
    | succ i =>
      have hbyte : x / 256 = x >>> 8 := (Nat.shiftRight_eq_div_pow x 8).symm
      rw [toBytes, List.getD_cons_succ, ih _ (by omega), show 8 * (i + 1) = 8 + 8 * i by omega, Nat.shiftRight_add, hbyte]

theorem ofBytes_toBytes (n x : Nat) : ofBytes (toBytes n x) = x % 2 ^ (8 * n) := by
  induction n generalizing x with
  | zero => simp [toBytes, ofBytes, Nat.mod_one]
  | succ n ih =>
    rw [toBytes, ofBytes, ih, BitVec.toNat_ofNat, show 8 * (n + 1) = 8 + 8 * n by omega, Nat.pow_add, Nat.mod_mul]

/-! A change of bytes under a mask. -/

/-- The byte of a line's data or mask that an address has. -/
def byteOf (n b : Nat) : Byte := BitVec.ofNat 8 (n >>> (8 * (b % 64)))

/-- Bytes after a write to a line of data under a mask. -/
def lineEffect (f : Nat → Byte) (x : Nat × Nat × Nat) (b : Nat) : Byte :=
  if b / 64 = x.1 then (f b &&& ~~~byteOf x.2.2 b) ||| (byteOf x.2.1 b &&& byteOf x.2.2 b) else f b

/-- Bytes after some bytes are written at an address. -/
def overlay (f : Nat → Byte) (a : Nat) (bs : List Byte) (b : Nat) : Byte :=
  if a ≤ b ∧ b < a + bs.length then bs.getD (b - a) 0 else f b

theorem lineEffect_other (f : Nat → Byte) {x : Nat × Nat × Nat} {b : Nat} (h : b / 64 ≠ x.1) : lineEffect f x b = f b := if_neg h

theorem lineEffect_congr {f g : Nat → Byte} (x : Nat × Nat × Nat) {b : Nat} (h : f b = g b) : lineEffect f x b = lineEffect g x b := by
  rw [lineEffect, lineEffect, h]

/-- The effect of writes to lines that all differ. -/
theorem foldl_lineEffect_lines (F : Nat → Nat × Nat × Nat) (hF : ∀ l, (F l).1 = l) {ls : List Nat} (hls : ls.Nodup)
    (f : Nat → Byte) (b : Nat) :
    (ls.map F).foldl lineEffect f b = if b / 64 ∈ ls then lineEffect f (F (b / 64)) b else f b := by
  induction ls generalizing f with
  | nil => simp
  | cons l ls ih =>
    obtain ⟨hl, hls⟩ := List.nodup_cons.mp hls
    rw [List.map_cons, List.foldl_cons, ih hls]
    by_cases hb : b / 64 = l
    · subst hb
      rw [if_neg hl, if_pos List.mem_cons_self]
    · have hkeep : lineEffect f (F l) b = f b := lineEffect_other f (by rw [hF]; exact hb)
      rw [lineEffect_congr _ hkeep, hkeep]
      simp [hb]

/-! The lines of a byte string (R323). -/

theorem byteOf_shifted (x q b : Nat) : byteOf (x * 2 ^ (8 * q)) b =
    if q ≤ b % 64 then BitVec.ofNat 8 (x >>> (8 * (b % 64 - q))) else 0 := by
  rw [byteOf]
  split
  case isTrue h =>
    have e : 8 * (b % 64) = 8 * q + 8 * (b % 64 - q) := by omega
    rw [e, Nat.shiftRight_add, ← Nat.shiftLeft_eq, Nat.shiftLeft_shiftRight]
  case isFalse h =>
    refine BitVec.eq_of_getLsbD_eq fun i hi => ?_
    rw [BitVec.getLsbD_ofNat, Nat.testBit_shiftRight, Nat.testBit_mul_two_pow]
    have hlt : ¬8 * q ≤ 8 * (b % 64) + i := by omega
    simp [hlt]

theorem byteOf_mask (c q b : Nat) : byteOf ((2 ^ (8 * c) - 1) * 2 ^ (8 * q)) b =
    if q ≤ b % 64 ∧ b % 64 < q + c then BitVec.allOnes 8 else 0 := by
  rw [byteOf_shifted]
  by_cases hq : q ≤ b % 64
  · refine BitVec.eq_of_getLsbD_eq fun i hi => ?_
    rw [if_pos hq, BitVec.getLsbD_ofNat, Nat.testBit_shiftRight, Nat.testBit_two_pow_sub_one]
    by_cases hc : b % 64 < q + c
    · have hlt : 8 * (b % 64 - q) + i < 8 * c := by omega
      rw [if_pos ⟨hq, hc⟩, BitVec.getLsbD_allOnes]
      simp [hlt]
    · have hlt : ¬8 * (b % 64 - q) + i < 8 * c := by omega
      simp [hc, hlt]
  · simp [hq]

/-- The part of a byte string that lies in a line, as that line's write. -/
def linePart (a : Nat) (bs : List Byte) (line : Nat) : Nat × Nat × Nat :=
  let lo := max a (64 * line)
  let hi := min (a + bs.length) (64 * line + 64)
  (line, ofBytes ((bs.drop (lo - a)).take (hi - lo)) * 2 ^ (8 * (lo % 64)), (2 ^ (8 * (hi - lo)) - 1) * 2 ^ (8 * (lo % 64)))

theorem linesOf_eq (a : Nat) {bs : List Byte} (h : bs ≠ []) : State.linesOf a bs =
    (span (a / 64) ((a + bs.length - 1) / 64 + 1 - a / 64)).map (linePart a bs) := by
  have hlen : bs.length ≠ 0 := fun e => h (List.length_eq_zero_iff.mp e)
  rw [State.linesOf, if_neg hlen]
  rfl

theorem nodup_span (a n : Nat) : (span a n).Nodup := List.nodup_range.map fun _ _ h => Nat.add_left_cancel h

theorem mem_span {a n x : Nat} : x ∈ span a n ↔ a ≤ x ∧ x < a + n := by
  simp only [span, List.mem_map, List.mem_range]
  constructor
  · rintro ⟨i, hi, rfl⟩
    omega
  · rintro ⟨h1, h2⟩
    exact ⟨x - a, by omega, by omega⟩

theorem masked_all (f d : Byte) : (f &&& ~~~BitVec.allOnes 8) ||| (d &&& BitVec.allOnes 8) = d := by
  rw [BitVec.and_allOnes, BitVec.not_allOnes]
  simp

theorem masked_none (f d : Byte) : (f &&& ~~~(0 : Byte)) ||| (d &&& 0) = f := by
  have hones : ~~~(0 : Byte) = BitVec.allOnes 8 := by decide
  rw [hones, BitVec.and_allOnes]
  simp

theorem lineEffect_linePart (f : Nat → Byte) (a : Nat) (bs : List Byte) (b : Nat) :
    lineEffect f (linePart a bs (b / 64)) b = overlay f a bs b := by
  have hlo : max a (64 * (b / 64)) % 64 = max a (64 * (b / 64)) - 64 * (b / 64) ∨ 64 * (b / 64) + 64 ≤ a := by omega
  rw [lineEffect, if_pos (show b / 64 = (linePart a bs (b / 64)).1 from rfl), overlay]
  simp only [linePart]
  rw [byteOf_mask, byteOf_shifted, ofNat_shiftRight_ofBytes]
  by_cases hin : a ≤ b ∧ b < a + bs.length
  · obtain ⟨h1, h2⟩ := hin
    have hq : max a (64 * (b / 64)) % 64 ≤ b % 64 := by omega
    have hc : b % 64 < max a (64 * (b / 64)) % 64 + (min (a + bs.length) (64 * (b / 64) + 64) - max a (64 * (b / 64))) := by omega
    rw [if_pos ⟨hq, hc⟩, if_pos hq, if_pos ⟨h1, h2⟩]
    have hidx : b % 64 - max a (64 * (b / 64)) % 64 < min (a + bs.length) (64 * (b / 64) + 64) - max a (64 * (b / 64)) := by omega
    have hget : max a (64 * (b / 64)) - a + (b % 64 - max a (64 * (b / 64)) % 64) = b - a := by omega
    have hpart : ((bs.drop (max a (64 * (b / 64)) - a)).take (min (a + bs.length) (64 * (b / 64) + 64) - max a (64 * (b / 64)))).getD
        (b % 64 - max a (64 * (b / 64)) % 64) 0 = bs.getD (b - a) 0 := by
      rw [List.getD_eq_getElem?_getD, List.getElem?_take_of_lt hidx, List.getElem?_drop, hget, ← List.getD_eq_getElem?_getD]
    rw [hpart, masked_all]
  · have hout : ¬(max a (64 * (b / 64)) % 64 ≤ b % 64 ∧
        b % 64 < max a (64 * (b / 64)) % 64 + (min (a + bs.length) (64 * (b / 64) + 64) - max a (64 * (b / 64)))) := by omega
    rw [if_neg hout, if_neg hin, masked_none]

/-- The lines of a byte string together write its bytes. -/
theorem foldl_lineEffect_linesOf (f : Nat → Byte) (a : Nat) (bs : List Byte) (b : Nat) :
    (State.linesOf a bs).foldl lineEffect f b = overlay f a bs b := by
  by_cases hbs : bs = []
  · subst hbs
    have hno : ¬(a ≤ b ∧ b < a) := by omega
    simp [State.linesOf, overlay, hno]
  · have hpos : 0 < bs.length := List.length_pos_iff.mpr hbs
    rw [linesOf_eq a hbs, foldl_lineEffect_lines _ (fun _ => rfl) (nodup_span ..)]
    split
    case isTrue => rw [lineEffect_linePart]
    case isFalse h =>
      have hout : ¬(a ≤ b ∧ b < a + bs.length) := fun hin => h (mem_span.mpr (by omega))
      rw [overlay, if_neg hout]

/-! Joined lines. -/

/-- A line's write whose data lies under its mask. -/
def tidy (x : Nat × Nat × Nat) : Prop := x.2.1 &&& x.2.2 = x.2.1

/-- Two writes that touch no byte both. -/
def noClash (x y : Nat × Nat × Nat) : Prop := x.1 = y.1 → x.2.2 &&& y.2.2 = 0

/-- Two writes of a line joined. -/
def joined (x y : Nat × Nat × Nat) : Nat × Nat × Nat := (x.1, x.2.1 ||| y.2.1, x.2.2 ||| y.2.2)

theorem byteOf_or (m n b : Nat) : byteOf (m ||| n) b = byteOf m b ||| byteOf n b := by
  rw [byteOf, Nat.shiftRight_or_distrib, BitVec.ofNat_or]
  rfl

theorem byteOf_and (m n b : Nat) : byteOf (m &&& n) b = byteOf m b &&& byteOf n b := by
  rw [byteOf, Nat.shiftRight_and_distrib, BitVec.ofNat_and]
  rfl

theorem joined_byte (f dx mx dy my : Byte) (hx : dx &&& mx = dx) (hy : dy &&& my = dy) (hm : mx &&& my = 0) :
    (f &&& ~~~(mx ||| my)) ||| ((dx ||| dy) &&& (mx ||| my)) =
      ((f &&& ~~~mx) ||| (dx &&& mx)) &&& ~~~my ||| (dy &&& my) := by
  refine BitVec.eq_of_getLsbD_eq fun i hi => ?_
  have h1 := congrArg (fun z : Byte => z.getLsbD i) hx
  have h2 := congrArg (fun z : Byte => z.getLsbD i) hy
  have h3 : (mx &&& my).getLsbD i = false := by rw [hm]; exact BitVec.getLsbD_zero
  simp only [BitVec.getLsbD_and, BitVec.getLsbD_or, BitVec.getLsbD_not, hi, decide_true, Bool.true_and] at h1 h2 h3 ⊢
  revert h1 h2 h3
  generalize f.getLsbD i = f, dx.getLsbD i = dx, mx.getLsbD i = mx, dy.getLsbD i = dy, my.getLsbD i = my
  revert f dx mx dy my
  decide

theorem lineEffect_joined (f : Nat → Byte) {x y : Nat × Nat × Nat} (he : y.1 = x.1) (hx : tidy x) (hy : tidy y) (hm : noClash x y) :
    lineEffect f (joined x y) = lineEffect (lineEffect f x) y := by
  funext b
  by_cases hb : b / 64 = x.1
  case neg => simp only [lineEffect, joined, he, hb, if_false]
  case pos =>
    have htx : byteOf x.2.1 b &&& byteOf x.2.2 b = byteOf x.2.1 b := by rw [← byteOf_and, hx]
    have hty : byteOf y.2.1 b &&& byteOf y.2.2 b = byteOf y.2.1 b := by rw [← byteOf_and, hy]
    have hcl : byteOf x.2.2 b &&& byteOf y.2.2 b = 0 := by rw [← byteOf_and, hm he.symm]; simp [byteOf]
    simp only [lineEffect, joined, he, hb, if_true, byteOf_or]
    exact joined_byte _ _ _ _ _ htx hty hcl

theorem joinLines_cons (x : Nat × Nat × Nat) (xs : List (Nat × Nat × Nat)) : joinLines (x :: xs) =
    match joinLines xs with
    | [] => [x]
    | y :: ys => if y.1 = x.1 then joined x y :: ys else x :: y :: ys := rfl

theorem tidy_joined {x y : Nat × Nat × Nat} (hx : tidy x) (hy : tidy y) : tidy (joined x y) := by
  refine Nat.eq_of_testBit_eq fun i => ?_
  have h1 := congrArg (Nat.testBit · i) hx
  have h2 := congrArg (Nat.testBit · i) hy
  simp only [joined, Nat.testBit_and, Nat.testBit_or] at h1 h2 ⊢
  revert h1 h2
  generalize x.2.1.testBit i = a, x.2.2.testBit i = b, y.2.1.testBit i = c, y.2.2.testBit i = d
  revert a b c d
  decide

theorem noClash_joined {z x y : Nat × Nat × Nat} (he : y.1 = x.1) (hx : noClash z x) (hy : noClash z y) : noClash z (joined x y) := by
  intro h
  have h1 := hx h
  have h2 := hy (h.trans he.symm)
  simp only [joined, Nat.and_or_distrib_left, h1, h2, Nat.or_zero]

/-- What every line's write satisfies alone and joined, the joined lines satisfy. -/
theorem forall_joinLines {P : Nat × Nat × Nat → Prop} (hP : ∀ x y, y.1 = x.1 → P x → P y → P (joined x y))
    {xs : List (Nat × Nat × Nat)} (h : ∀ x ∈ xs, P x) : ∀ x ∈ joinLines xs, P x := by
  induction xs with
  | nil => simp [joinLines]
  | cons x xs ih =>
    obtain ⟨hx, hxs⟩ := List.forall_mem_cons.mp h
    have ih := ih hxs
    rw [joinLines_cons]
    split
    case h_1 => simpa using hx
    case h_2 y ys hys =>
      rw [hys, List.forall_mem_cons] at ih
      obtain ⟨hy, hys⟩ := ih
      split
      case isTrue he => exact List.forall_mem_cons.mpr ⟨hP x y he hx hy, hys⟩
      case isFalse => exact List.forall_mem_cons.mpr ⟨hx, List.forall_mem_cons.mpr ⟨hy, hys⟩⟩

/-- Joining the parts of a line that touch no byte twice changes nothing of what is written. -/
theorem foldl_lineEffect_joinLines {xs : List (Nat × Nat × Nat)} (ht : ∀ x ∈ xs, tidy x) (hc : xs.Pairwise noClash)
    (f : Nat → Byte) : (joinLines xs).foldl lineEffect f = xs.foldl lineEffect f := by
  induction xs generalizing f with
  | nil => rfl
  | cons x xs ih =>
    obtain ⟨hx, hxs⟩ := List.forall_mem_cons.mp ht
    obtain ⟨hcx, hcxs⟩ := List.pairwise_cons.mp hc
    rw [List.foldl_cons, ← ih hxs hcxs, joinLines_cons]
    split
    case h_1 hnil => rw [hnil]; rfl
    case h_2 y ys hys =>
      have htidy := forall_joinLines (fun _ _ _ => tidy_joined) hxs
      have hclash := forall_joinLines (P := noClash x) (fun _ _ he => noClash_joined he) hcx
      rw [hys, List.forall_mem_cons] at htidy hclash
      rw [hys]
      split
      case isTrue he => rw [List.foldl_cons, List.foldl_cons, lineEffect_joined f he hx htidy.1 hclash.1]
      case isFalse => rfl

theorem tidy_linePart (a : Nat) (bs : List Byte) (line : Nat) : tidy (linePart a bs line) := by
  have hlt : ofBytes ((bs.drop (max a (64 * line) - a)).take (min (a + bs.length) (64 * line + 64) - max a (64 * line))) <
      2 ^ (8 * (min (a + bs.length) (64 * line + 64) - max a (64 * line))) := by
    refine (State.ofBytes_lt _).trans_le (Nat.pow_le_pow_right (by decide) ?_)
    exact Nat.mul_le_mul_left 8 (List.length_take_le ..)
  rw [tidy]
  simp only [linePart]
  rw [← Nat.shiftLeft_eq, ← Nat.shiftLeft_eq, ← Nat.shiftLeft_and_distrib, Nat.and_two_pow_sub_one_of_lt_two_pow hlt]

/-- Parts of byte strings that share no address touch no byte both. -/
theorem noClash_linePart {a c : Nat} {bs cs : List Byte} (h : a + bs.length ≤ c ∨ c + cs.length ≤ a) (l m : Nat) :
    noClash (linePart a bs l) (linePart c cs m) := by
  intro he
  obtain rfl : l = m := he
  simp only [linePart]
  refine Nat.eq_of_testBit_eq fun i => ?_
  rw [Nat.testBit_and, Nat.testBit_mul_two_pow, Nat.testBit_mul_two_pow, Nat.testBit_two_pow_sub_one, Nat.testBit_two_pow_sub_one,
    Nat.zero_testBit]
  simp only [Bool.and_eq_false_iff, decide_eq_false_iff_not]
  omega

theorem noClash_of_lines {a : Nat} {bs : List Byte} {l m : Nat} (h : l ≠ m) : noClash (linePart a bs l) (linePart a bs m) :=
  fun he => absurd he h

theorem mem_linesOf {a : Nat} {bs : List Byte} {x : Nat × Nat × Nat} (h : x ∈ State.linesOf a bs) :
    ∃ l, x = linePart a bs l ∧ a / 64 ≤ l ∧ 64 * l < a + bs.length ∧ bs ≠ [] := by
  by_cases hbs : bs = []
  · subst hbs
    cases h
  · have hpos : 0 < bs.length := List.length_pos_iff.mpr hbs
    rw [linesOf_eq a hbs, List.mem_map] at h
    obtain ⟨l, hl, rfl⟩ := h
    have := mem_span.mp hl
    exact ⟨l, rfl, by omega, by omega, hbs⟩

theorem pairwise_linesOf (a : Nat) (bs : List Byte) : (State.linesOf a bs).Pairwise noClash := by
  by_cases hbs : bs = []
  · subst hbs
    exact List.Pairwise.nil
  · rw [linesOf_eq a hbs, List.pairwise_map]
    exact (nodup_span ..).imp fun h => noClash_of_lines h

end Sys2Proof.Machine
end

section
/-!
Accesses of plain lines: a mapped page outside every enabled window, before the reserved region. Reads leave the bytes and the
markers, writes leave the bytes under their mask, and both leave which pages are mapped and which windows are enabled.
-/
namespace Sys2Proof.Machine.State

open Sys2Proof.Safety

/-! Which pages are mapped, and which lie in a window. -/

/-- Which pages are mapped, and the window of each. -/
def mapView (s : State) : (Nat → Bool) × (Nat → Option (Fin 16)) := (s.isMapped, s.windowOf)

/-- The fields that say which pages a window holds (R172). -/
def windowFields : List Field :=
  [Reg.MEM_CRU_CTRL_EN, Reg.MEM_CRU_BASE_HI_BASE_HI, Reg.MEM_CRU_BASE_LO_BASE_LO, Reg.MEM_CRU_PAGES_PAGES]

theorem windowOf_congr {s t : State} (h : ∀ w : Fin 16, ∀ f ∈ windowFields, t.rd f w = s.rd f w) : t.windowOf = s.windowOf := by
  funext p
  simp only [windowOf]
  congr 1
  funext w
  have hw := h w
  simp only [windowFields, List.forall_mem_cons] at hw
  obtain ⟨hen, hhi, hlo, hn, -⟩ := hw
  rw [rdB, rdB, hen, hhi, hlo, hn]

/-- What leaves the tier map's states and the windows' fields leaves both views. -/
theorem mapView_congr {s t : State} (hm : ∀ p, (t.ent p).state = (s.ent p).state)
    (hw : ∀ w : Fin 16, ∀ f ∈ windowFields, t.rd f w = s.rd f w) : t.mapView = s.mapView := by
  refine Prod.ext (funext fun p => ?_) (windowOf_congr hw)
  simp only [mapView, isMapped, hm]

theorem mapView_with_ms (s : State) (m : MemSys) (h : m.tier = s.ms.tier) : ({ s with ms := m } : State).mapView = s.mapView :=
  mapView_congr (fun p => by simp only [ent, h]) fun _ _ _ => rd_with_ms ..

theorem mapView_with_free (s : State) (n : Nat) : ({ s with free := n } : State).mapView = s.mapView :=
  mapView_congr (fun _ => rfl) fun _ _ _ => rd_with_free ..

/-- The counters of the accesses of memory. -/
def memCounters : List Field :=
  [Reg.MEM_LEDGER_MISS_COUNT, Reg.MEM_MSC_HIT_COUNT, Reg.MEM_MSC_MISS_COUNT, Reg.MEM_MSC_DEAD_COUNT, Reg.MEM_POISON_READS_COUNT]

theorem mapView_inc (s : State) {c : Field} (n : Nat) (hc : c ∈ memCounters) : (s.inc c 0 n).mapView = s.mapView := by
  have hapart : ∀ c ∈ memCounters, ∀ w : Fin 16, ∀ f ∈ windowFields, apart c 0 f w = true := by decide
  refine mapView_congr (fun p => ?_) fun w f hf => rd_wr_other _ _ (hapart c hc w f hf)
  rw [ent, inc_ms, ent]

theorem mapView_setEnt (s : State) (p : Nat) (e : TierEnt) (h : e.state = (s.ent p).state) : (s.setEnt p e).mapView = s.mapView := by
  refine mapView_congr (fun q => ?_) fun _ _ _ => rd_with_ms ..
  by_cases hq : q = p
  · subst hq
    rw [← h]
    exact congrArg TierEnt.state (Tab.get_set_same ..)
  · exact congrArg TierEnt.state (Tab.get_set_other _ _ _ hq)

theorem mapView_putBytes (s : State) (a : Nat) (bs : List Byte) : (s.putBytes a bs).mapView = s.mapView := by
  induction bs generalizing s a with
  | nil => rfl
  | cons b bs ih =>
    rw [putBytes, ih]
    exact mapView_congr (fun _ => rfl) fun _ _ _ => rd_with_mem ..

theorem mapView_setPoison (s : State) (l : Nat) (on : Bool) : (s.setPoison l on).mapView = s.mapView := mapView_with_ms _ _ rfl
theorem mapView_unfill (s : State) (l : Nat) : (s.unfill l).mapView = s.mapView := mapView_with_ms _ _ rfl

theorem mapView_deadLine (s : State) (l : Nat) (b : BitVec 512) (m : Bool) : (s.deadLine l b m).mapView = s.mapView := by
  rw [deadLine, mapView_unfill, mapView_setPoison, mapView_putBytes]

theorem mapView_ledgerUse (s : State) (d : Fin 2) (p : Nat) : (s.ledgerUse d p).mapView = s.mapView := by
  simp only [ledgerUse]
  split
  · rfl
  · exact (mapView_with_free ..).trans ((mapView_inc _ _ (by decide)).trans (mapView_with_ms _ _ rfl))

theorem mapView_mscAccess (s : State) (d : Fin 2) (h l : Nat) (w : Bool) : (s.mscAccess d h l w).mapView = s.mapView := by
  have hhit : (s.inc Reg.MEM_MSC_HIT_COUNT 0 1).mapView = s.mapView := mapView_inc _ _ (by decide)
  have hmiss : (s.inc Reg.MEM_MSC_MISS_COUNT 0 1).mapView = s.mapView := mapView_inc _ _ (by decide)
  have hput (t : State) (x : Vector (List MscLine) 2) : ({ t with ms := { t.ms with msc := x } } : State).mapView = t.mapView :=
    mapView_with_ms _ _ rfl
  simp only [mscAccess]
  split
  · rfl
  · split
    · split
      · split
        · rw [mapView_deadLine, mapView_inc _ _ (by decide), hput, hhit]
        · rw [hput, hhit]
      · rw [hput, hhit]
    · refine ite_keeps mapView _ ?_ hmiss
      exact (mapView_with_free ..).trans ((hput ..).trans hmiss)

theorem mapView_touchLine (s : State) (v : Via) (l : Nat) (w : Bool) : (s.touchLine v l w).mapView = s.mapView := by
  have hent (e : TierEnt) (h : e.state = ((s.ledgerUse v.die (l / 4096)).ent (l / 4096)).state) :
      ((s.ledgerUse v.die (l / 4096)).setEnt (l / 4096) e).mapView = s.mapView :=
    (mapView_setEnt _ _ e h).trans (mapView_ledgerUse ..)
  unfold touchLine
  exact ite_keeps mapView _ ((mapView_mscAccess ..).trans (hent _ rfl)) (hent _ rfl)

/-! The bytes and the markers under the accounting of an access. -/

/-- The bytes that memory holds before the reserved region. -/
def memByte (s : State) : Nat → Byte := Tab.get noByte s.mem

theorem byte_eq_memByte (s : State) {b : Nat} (h : b < resPage * 2 ^ 18) : s.byte b = s.memByte b := if_pos h

theorem memByte_of_mem {s t : State} (h : t.mem = s.mem) : t.memByte = s.memByte := by rw [memByte, memByte, h]

theorem bytesAt_eq_memByte (s : State) {a n : Nat} (h : a + n ≤ resPage * 2 ^ 18) : s.bytesAt a n = (span a n).map s.memByte := by
  refine List.map_congr_left fun b hb => byte_eq_memByte s ?_
  have := mem_span.mp hb
  omega

theorem getD_bytesAt (s : State) (a n : Nat) {i : Nat} (h : i < n) : (s.bytesAt a n).getD i 0 = s.byte (a + i) := by
  simp [bytesAt, span, List.getD_eq_getElem?_getD, h]

theorem poison_ledgerUse (s : State) (d : Fin 2) (p : Nat) : (s.ledgerUse d p).ms.poison = s.ms.poison := by
  simp only [ledgerUse]
  split
  · rfl
  · simp [tick]

theorem poison_mscAccess (s : State) (d : Fin 2) {h : Nat} (l : Nat) {w : Bool} (hh : h ≠ 3 ∨ w = true) :
    (s.mscAccess d h l w).ms.poison = s.ms.poison := by
  have hdrop : ¬(h = 3 && !w) = true := by rcases hh with hh | hh <;> simp [hh]
  have hhit := congrArg MemSys.poison (inc_ms s Reg.MEM_MSC_HIT_COUNT 0 1)
  have hmiss := congrArg MemSys.poison (inc_ms s Reg.MEM_MSC_MISS_COUNT 0 1)
  simp only [mscAccess]
  split
  · rfl
  · split
    · exact hhit
    · exact ite_keeps (·.ms.poison) _ hmiss hmiss

/-- A write, or a read that is not hinted LAST_USE, drops no line (R289). -/
theorem mscAccess_mem_of_write (s : State) (d : Fin 2) (h l : Nat) : (s.mscAccess d h l true).mem = s.mem := by
  have hdrop : ¬(h = 3 && !true) = true := by simp
  have hhit := inc_mem s Reg.MEM_MSC_HIT_COUNT 0 1
  have hmiss := inc_mem s Reg.MEM_MSC_MISS_COUNT 0 1
  simp only [mscAccess]
  split
  · rfl
  · split
    · exact hhit
    · exact ite_keeps State.mem _ hmiss hmiss

theorem poison_touchLine (s : State) {v : Via} (l : Nat) {w : Bool} (hv : v.hint ≠ 3 ∨ w = true) :
    (s.touchLine v l w).ms.poison = s.ms.poison := by
  have hent (e : TierEnt) : ((s.ledgerUse v.die (l / 4096)).setEnt (l / 4096) e).ms.poison = s.ms.poison := poison_ledgerUse ..
  unfold touchLine
  exact ite_keeps (·.ms.poison) _ ((poison_mscAccess _ _ _ hv).trans (hent _)) (hent _)

theorem touchLine_mem_of_write (s : State) (v : Via) (l : Nat) : (s.touchLine v l true).mem = s.mem := by
  unfold touchLine
  exact ite_keeps State.mem _ ((mscAccess_mem_of_write ..).trans (ledgerUse_mem ..)) (ledgerUse_mem ..)

/-! Reads of plain lines. -/

/-- A line of a mapped page outside every window, before the reserved region. -/
def plainAt (s : State) (l : Nat) : Prop := l / 4096 < resPage ∧ s.isMapped (l / 4096) = true ∧ s.windowOf (l / 4096) = none

theorem plainAt_of_mapView {s t : State} (h : t.mapView = s.mapView) {l : Nat} (hl : s.plainAt l) : t.plainAt l := by
  obtain ⟨hres, hmap, hwin⟩ := hl
  obtain ⟨hm, hw⟩ := Prod.mk.inj h
  exact ⟨hres, by rw [hm]; exact hmap, by rw [hw]; exact hwin⟩

theorem linePoison_of_poison {s t : State} (h : t.ms.poison = s.ms.poison) (l : Nat) : t.linePoison l = s.linePoison l := by
  rw [linePoison, linePoison, h]

theorem readLine_plain (s : State) (v : Via) {l : Nat} (hl : s.plainAt l) :
    s.readLine v l = (if s.linePoison l then s.inc Reg.MEM_POISON_READS_COUNT 0 1 else s).touchLine v l false := by
  obtain ⟨hres, hmap, -⟩ := hl
  have hplain : plainLine l = true := decide_eq_true hres
  rw [readLine, hplain, hmap]
  rfl

theorem mapView_readLine {s : State} (v : Via) {l : Nat} (hl : s.plainAt l) : (s.readLine v l).mapView = s.mapView := by
  rw [readLine_plain s v hl, mapView_touchLine]
  exact ite_keeps mapView _ (mapView_inc _ _ (by decide)) rfl

theorem poison_readLine {s : State} {v : Via} {l : Nat} (hl : s.plainAt l) (hv : v.hint ≠ 3) :
    (s.readLine v l).ms.poison = s.ms.poison := by
  rw [readLine_plain s v hl, poison_touchLine _ _ (.inl hv)]
  exact ite_keeps (·.ms.poison) _ (congrArg MemSys.poison (inc_ms ..)) rfl

/-! Writes of plain lines. -/

theorem memByte_mergeLine (s : State) {l : Nat} (d m : Nat) (hl : l / 4096 < resPage) :
    (s.mergeLine l d m).memByte = lineEffect s.memByte (l, d, m) := by
  funext b
  have hput := byte_putBytes s (64 * l) (toBytes 64 (s.peek (64 * l) 64 ^^^ ((s.peek (64 * l) 64 ^^^ d) &&& m))) b
  rw [length_toBytes] at hput
  have hshow : (s.mergeLine l d m).memByte b = Tab.get noByte (s.putBytes (64 * l)
      (toBytes 64 (s.peek (64 * l) 64 ^^^ ((s.peek (64 * l) 64 ^^^ d) &&& m)))).mem b := rfl
  rw [hshow, hput]
  by_cases hb : b / 64 = l
  · have hi : b - 64 * l = b % 64 := by omega
    have hold : BitVec.ofNat 8 (s.peek (64 * l) 64 >>> (8 * (b % 64))) = s.memByte b := by
      rw [peek, ofNat_shiftRight_ofBytes, getD_bytesAt _ _ _ (Nat.mod_lt _ (by decide)), byte_eq_memByte _ (by omega)]
      congr 1
      omega
    rw [if_pos (by omega), hi, getD_toBytes _ _ (Nat.mod_lt _ (by decide)), Nat.shiftRight_xor_distrib, Nat.shiftRight_and_distrib,
      Nat.shiftRight_xor_distrib, BitVec.ofNat_xor, BitVec.ofNat_and, BitVec.ofNat_xor, hold]
    show _ = lineEffect s.memByte (l, d, m) b
    rw [lineEffect, if_pos hb]
    refine BitVec.eq_of_getLsbD_eq fun i hi => ?_
    simp only [byteOf, BitVec.getLsbD_xor, BitVec.getLsbD_and, BitVec.getLsbD_or, BitVec.getLsbD_not, hi, decide_true, Bool.true_and]
    generalize (s.memByte b).getLsbD i = x, (BitVec.ofNat 8 (d >>> (8 * (b % 64)))).getLsbD i = y,
      (BitVec.ofNat 8 (m >>> (8 * (b % 64)))).getLsbD i = z
    revert x y z
    decide
  · rw [if_neg (by omega), lineEffect_other _ hb]
    rfl

theorem lineEffect_no_mask (f : Nat → Byte) (l d : Nat) : lineEffect f (l, d, 0) = f := by
  funext b
  rw [lineEffect]
  split
  · have h0 : byteOf 0 b = 0 := by simp [byteOf]
    simp only [h0, masked_none]
  · rfl

/-- A write to a plain line leaves its bytes under the mask. -/
theorem writeLine_plain {s : State} (v : Via) {l : Nat} (d m : Nat) (hl : s.plainAt l) :
    (s.writeLine v l d m false).memByte = lineEffect s.memByte (l, d, m) ∧ (s.writeLine v l d m false).mapView = s.mapView := by
  obtain ⟨hres, hmap, hwin⟩ := hl
  have hspace : ¬spaceEnd / 64 ≤ l := by
    have : resPage = 8386560 := rfl
    have : spaceEnd / 64 = 34359738368 := rfl
    omega
  have hdoor : l / 4096 ≠ doorbellPage := by
    have : resPage = 8386560 := rfl
    have : doorbellPage = 8388607 := rfl
    omega
  have hplain : plainLine l = true := decide_eq_true hres
  by_cases hm : m = 0
  · have hsame : s.writeLine v l d m false = s := by rw [writeLine, if_pos (by simp [hm])]
    rw [hsame, hm, lineEffect_no_mask]
    exact ⟨rfl, rfl⟩
  · obtain ⟨u, hu⟩ : ∃ u : State, u = (s.touchLine v l true).unfill l := ⟨_, rfl⟩
    have humem : u.mem = s.mem := by rw [hu]; exact touchLine_mem_of_write ..
    have huview : u.mapView = s.mapView := by rw [hu, mapView_unfill, mapView_touchLine]
    have huwin : u.windowOf (l / 4096) = none := by rw [(Prod.mk.inj huview).2]; exact hwin
    have hwrite : s.writeLine v l d m false =
        if m = 2 ^ 512 - 1 then (u.mergeLine l d m).setPoison l false else u.mergeLine l d m := by
      simp only [writeLine, hm, hspace, hdoor, hplain, hmap, decide_false, Bool.or_self, Bool.false_eq_true, if_false, Bool.not_true]
      rw [← hu]
      simp only [huwin]
    have hbytes : (u.mergeLine l d m).memByte = lineEffect s.memByte (l, d, m) := by
      rw [memByte_mergeLine _ _ _ hres, memByte_of_mem humem]
    have hview : (u.mergeLine l d m).mapView = s.mapView := (mapView_putBytes ..).trans huview
    rw [hwrite]
    split
    · exact ⟨hbytes, (mapView_setPoison ..).trans hview⟩
    · exact ⟨hbytes, hview⟩

end Sys2Proof.Machine.State
end


section
/-!
Memory as a Sprig's loads and stores meet it (R246, R263, R319, R324): the pieces that it stores, written through, and the
lines that its L1 brings.
-/
namespace Sys2Proof.Machine.State

open Sys2Proof.Safety

/-! Lines stored. -/

theorem memByte_l1Put (s : State) (n : SprigId) (l d m : Nat) (k : Bool) : (s.l1Put n l d m k).memByte = s.memByte := rfl

theorem mapView_l1Put (s : State) (n : SprigId) (l d m : Nat) (k : Bool) : (s.l1Put n l d m k).mapView = s.mapView :=
  mapView_congr (fun _ => rfl) fun _ _ _ => rd_with_sprigs ..

/-- Lines of plain memory stored by a Sprig leave their bytes under their masks. -/
theorem sprigStore_plain {s : State} (n : SprigId) (taint : Bool) {ls : List (Nat × Nat × Nat)} (hls : ∀ x ∈ ls, s.plainAt x.1) :
    (s.sprigStore n taint ls).memByte = ls.foldl lineEffect s.memByte ∧ (s.sprigStore n taint ls).mapView = s.mapView := by
  induction ls generalizing s with
  | nil => exact ⟨rfl, rfl⟩
  | cons x ls ih =>
    obtain ⟨l, d, m⟩ := x
    obtain ⟨hx, hrest⟩ := List.forall_mem_cons.mp hls
    obtain ⟨hbytes, hview⟩ := writeLine_plain (s.sprigVia n) d m hx
    obtain ⟨u, hu⟩ : ∃ u : State, u = (s.writeLine (s.sprigVia n) l d m false).l1Put n l d m (taint && m != 0) := ⟨_, rfl⟩
    obtain ⟨t, ht⟩ : ∃ t : State, t = if taint && m != 0 && plainLine l && u.isMapped (l / 4096) then u.setPoison l true else u :=
      ⟨_, rfl⟩
    have htbytes : t.memByte = lineEffect s.memByte (l, d, m) := by
      rw [ht, ← hbytes]
      refine ite_keeps memByte (s := s.writeLine (s.sprigVia n) l d m false) _ ?_ ?_ <;> rw [hu] <;> rfl
    have htview : t.mapView = s.mapView := by
      rw [ht, ← hview]
      have huview : u.mapView = (s.writeLine (s.sprigVia n) l d m false).mapView := by rw [hu, mapView_l1Put]
      exact ite_keeps mapView _ ((mapView_setPoison ..).trans huview) huview
    have hstep : s.sprigStore n taint ((l, d, m) :: ls) = t.sprigStore n taint ls := by rw [ht, hu]; rfl
    obtain ⟨ihbytes, ihview⟩ := ih fun y hy => plainAt_of_mapView htview (hrest y hy)
    rw [hstep, List.foldl_cons, ihbytes, ihview, htbytes, htview]
    exact ⟨rfl, rfl⟩

/-! Pieces stored. -/

/-- The bytes after pieces (address, bytes, number) are written in order. -/
def piecesWritten (f : Nat → Byte) (ps : List (Nat × Nat × Nat × List Nat)) : Nat → Byte :=
  ps.foldl (fun f p => overlay f p.1 (toBytes p.2.1 p.2.2.1)) f

/-- The lines of some pieces. -/
def pieceLines (ps : List (Nat × Nat × Nat × List Nat)) : List (Nat × Nat × Nat) :=
  ps.flatMap fun p => linesOf p.1 (toBytes p.2.1 p.2.2.1)

theorem foldl_pieceLines (f : Nat → Byte) (ps : List (Nat × Nat × Nat × List Nat)) :
    (pieceLines ps).foldl lineEffect f = piecesWritten f ps := by
  rw [pieceLines, List.foldl_flatMap, piecesWritten]
  refine List.foldl_ext _ _ _ fun g p _ => funext fun b => foldl_lineEffect_linesOf g p.1 _ b

/-- Two pieces that share no address. -/
def sharesNone (p q : Nat × Nat × Nat × List Nat) : Prop := p.1 + p.2.1 ≤ q.1 ∨ q.1 + q.2.1 ≤ p.1

theorem mem_pieceLines {ps : List (Nat × Nat × Nat × List Nat)} {x : Nat × Nat × Nat} (h : x ∈ pieceLines ps) :
    ∃ p ∈ ps, ∃ l, x = linePart p.1 (toBytes p.2.1 p.2.2.1) l ∧ p.1 / 64 ≤ l ∧ 64 * l < p.1 + p.2.1 ∧ p.2.1 ≠ 0 := by
  rw [pieceLines, List.mem_flatMap] at h
  obtain ⟨p, hp, hx⟩ := h
  obtain ⟨l, he, h1, h2, h3⟩ := mem_linesOf hx
  rw [length_toBytes] at h2
  exact ⟨p, hp, l, he, h1, h2, fun h0 => h3 (by rw [h0]; rfl)⟩

theorem pairwise_pieceLines {ps : List (Nat × Nat × Nat × List Nat)} (h : ps.Pairwise sharesNone) : (pieceLines ps).Pairwise noClash := by
  rw [pieceLines, List.pairwise_flatMap]
  refine ⟨fun p _ => pairwise_linesOf .., h.imp fun {p q} hpq x hx y hy => ?_⟩
  obtain ⟨l, rfl, -⟩ := mem_linesOf hx
  obtain ⟨m, rfl, -⟩ := mem_linesOf hy
  exact noClash_linePart (by simpa [sharesNone] using hpq) l m

/-- A range of plain bytes: every line that it touches is plain. -/
theorem plainAt_of_plainRange {s : State} {a n l : Nat} (h : plainRange s a n) (hn : n ≠ 0) (h1 : a / 64 ≤ l) (h2 : 64 * l < a + n) :
    s.plainAt l := by
  obtain ⟨hres, hall⟩ := h
  have hres' : a + n ≤ 8386560 * 2 ^ 18 := hres
  have hpage : max a (64 * l) / 2 ^ 18 = l / 4096 := by omega
  obtain ⟨hmap, hwin⟩ := hall (max a (64 * l)) (by omega) (by omega)
  rw [hpage] at hmap hwin
  exact ⟨show l / 4096 < 8386560 by omega, hmap, hwin⟩

theorem plainAt_pieceLines {s : State} {ps : List (Nat × Nat × Nat × List Nat)} (h : ∀ p ∈ ps, plainRange s p.1 p.2.1) :
    ∀ x ∈ pieceLines ps, s.plainAt x.1 := by
  intro x hx
  obtain ⟨p, hp, l, rfl, h1, h2, h3⟩ := mem_pieceLines hx
  exact plainAt_of_plainRange (h p hp) h3 h1 h2

/-- Pieces of plain memory stored by a Sprig outside an APPLY handler leave their bytes; joined, where no two share an address. -/
theorem sprigPieces_plain {s : State} {n : SprigId} (taint : Bool) {whole : Bool} {ps : List (Nat × Nat × Nat × List Nat)}
    (ha : s.sprigApply n = none) (hps : ∀ p ∈ ps, plainRange s p.1 p.2.1) (hw : whole = true → ps.Pairwise sharesNone) :
    (s.sprigPieces n taint whole ps).memByte = piecesWritten s.memByte ps := by
  have hplain := plainAt_pieceLines hps
  cases whole with
  | false =>
    have hstore : s.sprigPieces n taint false ps = s.sprigStore n taint (pieceLines ps) := by simp only [sprigPieces, ha]; rfl
    rw [hstore, (sprigStore_plain n taint hplain).1, foldl_pieceLines]
  | true =>
    have hstore : s.sprigPieces n taint true ps = s.sprigStore n taint (joinLines (pieceLines ps)) := by
      simp only [sprigPieces, ha]; rfl
    have htidy : ∀ x ∈ pieceLines ps, tidy x := fun x hx => by
      obtain ⟨p, -, l, rfl, -⟩ := mem_pieceLines hx
      exact tidy_linePart ..
    have hjoined : ∀ x ∈ joinLines (pieceLines ps), s.plainAt x.1 := forall_joinLines (fun _ _ _ hx _ => hx) hplain
    rw [hstore, (sprigStore_plain n taint hjoined).1, foldl_lineEffect_joinLines htidy (pairwise_pieceLines (hw rfl)), foldl_pieceLines]

theorem piecesWritten_outside (f : Nat → Byte) {ps : List (Nat × Nat × Nat × List Nat)} {b : Nat}
    (h : ∀ p ∈ ps, b < p.1 ∨ p.1 + p.2.1 ≤ b) : piecesWritten f ps b = f b := by
  induction ps generalizing f with
  | nil => rfl
  | cons p ps ih =>
    obtain ⟨hp, hps⟩ := List.forall_mem_cons.mp h
    rw [piecesWritten, List.foldl_cons]
    refine (ih _ hps).trans (if_neg ?_)
    rw [length_toBytes]
    omega

/-- The bytes of a piece that none after it touches. -/
theorem piecesWritten_last (f : Nat → Byte) {p : Nat × Nat × Nat × List Nat} {ps qs : List (Nat × Nat × Nat × List Nat)}
    (h : ∀ q ∈ qs, sharesNone p q) {b : Nat} (h1 : p.1 ≤ b) (h2 : b < p.1 + p.2.1) :
    piecesWritten f (ps ++ p :: qs) b = (toBytes p.2.1 p.2.2.1).getD (b - p.1) 0 := by
  rw [piecesWritten, List.foldl_append, List.foldl_cons]
  refine (piecesWritten_outside _ fun q hq => ?_).trans (if_pos ?_)
  · have := h q hq
    rw [sharesNone] at this
    omega
  · rw [length_toBytes]
    exact ⟨h1, h2⟩

/-- The number read where memory holds a piece's bytes. -/
theorem peek_of_memByte {s : State} {a k x : Nat} (hres : a + k ≤ resPage * 2 ^ 18)
    (h : ∀ i, i < k → s.memByte (a + i) = (toBytes k x).getD i 0) : s.peek a k = x % 2 ^ (8 * k) := by
  have hbytes : s.bytesAt a k = toBytes k x := by
    rw [bytesAt_eq_memByte s hres]
    refine List.ext_getElem (by simp [span]) fun i h1 h2 => ?_
    have hi : i < k := by simpa using h2
    have := h i hi
    rw [List.getD_eq_getElem _ _ h2] at this
    simpa [span] using this
  rw [peek, hbytes, ofBytes_toBytes]

/-! Lines brought by the L1. -/

/-- Lines read by a Sprig's L1, from a state and what was read before. -/
def l1Fold (s : State) (n : SprigId) (got : List (Nat × List Byte × Bool)) (ls : List Nat) : State × List (Nat × List Byte × Bool) :=
  ls.foldl (fun (s, got) line =>
    let (s, bs, bad) := s.l1Line n line
    (s, got ++ [(line, bs, bad)])) (s, got)

/-- A state in which a Sprig's L1 holds none but some lines, and in which memory, its markers and its map are as before. -/
structure L1Kept (s t : State) (n : SprigId) (ls : List Nat) : Prop where
  mem    : t.mem = s.mem
  poison : t.ms.poison = s.ms.poison
  view   : t.mapView = s.mapView
  sprig  : t.sprigs[n] = { s.sprigs[n] with l1 := t.sprigs[n].l1 }
  held   : ∀ c ∈ t.sprigs[n].l1, c.1 ∈ ls

theorem sprigs_of_noMem {s t : State} (h : t.noMem = s.noMem) : t.sprigs = s.sprigs := by
  have hs := congrArg State.sprigs h
  exact hs

/-- A line that the Sprig's L1 does not hold is read from memory. -/
theorem l1Line_absent {s : State} {n : SprigId} {l : Nat} (hl : s.plainAt l) (hp : s.linePoison l = false)
    (hno : ∀ c ∈ s.sprigs[n].l1, c.1 ≠ l) : ∃ t : State, s.l1Line n l = (t, s.bytesAt (64 * l) 64, false) ∧ t.mem = s.mem ∧
      t.ms.poison = s.ms.poison ∧ t.mapView = s.mapView ∧ t.sprigs[n] = { s.sprigs[n] with l1 := t.sprigs[n].l1 } ∧
      ∀ c ∈ t.sprigs[n].l1, c.1 = l ∨ c ∈ s.sprigs[n].l1 := by
  have hfind : s.sprigs[n].l1.find? (·.1 == l) = none := List.find?_eq_none.mpr fun c hc => by simpa using hno c hc
  have htrough : ¬troughBase / 64 ≤ l := by
    have h1 : resPage = 8386560 := rfl
    have h2 : troughBase / 64 = 2 ^ 41 := rfl
    have := hl.1
    omega
  obtain ⟨u, hu⟩ : ∃ u : State, u = s.readLine (s.sprigVia n) l := ⟨_, rfl⟩
  have hmem : u.mem = s.mem := by rw [hu]; exact readLine_mem s l (by simp [sprigVia])
  have hpoison : u.ms.poison = s.ms.poison := by rw [hu]; exact poison_readLine hl (by simp [sprigVia])
  have hview : u.mapView = s.mapView := by rw [hu]; exact mapView_readLine _ hl
  have hsprigs : u.sprigs = s.sprigs := by rw [hu]; exact sprigs_of_noMem (readLine_noMem ..)
  have hbytes : u.bytesAt (64 * l) 64 = s.bytesAt (64 * l) 64 := by
    have hres : 64 * l + 64 ≤ resPage * 2 ^ 18 := by have := hl.1; omega
    rw [bytesAt_eq_memByte _ hres, bytesAt_eq_memByte _ hres, memByte_of_mem hmem]
  obtain ⟨t, ht⟩ : ∃ t : State, t = u.modSprig n fun y => { y with
    l1 := ((l, u.bytesAt (64 * l) 64, u.linePoison l) :: y.l1.filter (·.1 != l)).take 512 } := ⟨_, rfl⟩
  have hline : s.l1Line n l = (t, u.bytesAt (64 * l) 64, false) := by
    rw [ht]
    simp only [l1Line, htrough, if_false, hfind, Option.isSome_none, Bool.false_eq_true]
    rw [← hu, linePoison_of_poison hpoison, hp]
    rfl
  have hview' : t.mapView = u.mapView := by
    rw [ht]
    exact mapView_congr (fun _ => rfl) fun _ _ _ => rd_with_sprigs ..
  refine ⟨t, hline.trans (by rw [hbytes]), by rw [ht]; exact hmem, by rw [ht]; exact hpoison, hview'.trans hview, ?_, ?_⟩
  · rw [ht]
    simp [modSprig, hsprigs]
  · rw [ht]
    intro c hc
    simp only [modSprig, Fin.getElem_fin, Vector.getElem_set_self, hsprigs] at hc
    rcases List.mem_cons.mp (List.mem_of_mem_take hc) with rfl | hc
    · exact .inl rfl
    · exact .inr (List.mem_of_mem_filter hc)

theorem l1Fold_plain {s t : State} {n : SprigId} {done ls : List Nat} (hk : L1Kept s t n done) (hnd : (done ++ ls).Nodup)
    (hls : ∀ l ∈ ls, s.plainAt l ∧ s.linePoison l = false) (got : List (Nat × List Byte × Bool)) :
    ∃ u : State, t.l1Fold n got ls = (u, got ++ ls.map fun l => (l, s.bytesAt (64 * l) 64, false)) ∧ L1Kept s u n (done ++ ls) := by
  induction ls generalizing t done got with
  | nil => exact ⟨t, by simp [l1Fold], by simpa using hk⟩
  | cons l ls ih =>
    obtain ⟨⟨hplain, hclean⟩, hrest⟩ := List.forall_mem_cons.mp hls
    have hnew : l ∉ done := fun h => (List.nodup_append.mp hnd).2.2 l h l List.mem_cons_self rfl
    have hres : 64 * l + 64 ≤ resPage * 2 ^ 18 := by have := hplain.1; omega
    have hbytes : t.bytesAt (64 * l) 64 = s.bytesAt (64 * l) 64 := by
      rw [bytesAt_eq_memByte _ hres, bytesAt_eq_memByte _ hres, memByte_of_mem hk.mem]
    obtain ⟨v, hline, hmem, hpoison, hview, hsprig, hheld⟩ := l1Line_absent (plainAt_of_mapView hk.view hplain)
      ((linePoison_of_poison hk.poison l).trans hclean) (n := n) fun c hc he => hnew (he ▸ hk.held c hc)
    have hkv : L1Kept s v n (done ++ [l]) := {
      mem := hmem.trans hk.mem
      poison := hpoison.trans hk.poison
      view := hview.trans hk.view
      sprig := by rw [hsprig, hk.sprig]
      held := fun c hc => by
        rcases hheld c hc with rfl | hc
        · simp
        · simp [hk.held c hc] }
    obtain ⟨u, hu, hku⟩ := ih hkv (by simpa using hnd) hrest (got ++ [(l, s.bytesAt (64 * l) 64, false)])
    refine ⟨u, ?_, by simpa using hku⟩
    have hstep : t.l1Fold n got (l :: ls) = v.l1Fold n (got ++ [(l, s.bytesAt (64 * l) 64, false)]) ls := by
      rw [← hbytes, l1Fold, List.foldl_cons]
      simp only [hline]
      rfl
    rw [hstep, hu]
    simp

/-- A piece of lines read, as memory holds it. -/
theorem pieceOf_lines {s : State} {ls : List Nat} {a k : Nat} (h : ∀ b, a ≤ b → b < a + k → b / 64 ∈ ls) :
    pieceOf (ls.map fun l => (l, s.bytesAt (64 * l) 64, false)) a k = s.peek a k := by
  rw [pieceOf, peek, bytesAt]
  congr 1
  refine List.map_congr_left fun b hb => ?_
  obtain ⟨h1, h2⟩ := mem_span.mp hb
  have hfind (ls : List Nat) (hb : b / 64 ∈ ls) : (ls.map fun l => (l, s.bytesAt (64 * l) 64, false)).find? (·.1 == b / 64) =
      some (b / 64, s.bytesAt (64 * (b / 64)) 64, false) := by
    induction ls with
    | nil => cases hb
    | cons l ls ih =>
      rw [List.map_cons, List.find?_cons]
      by_cases hl : l = b / 64
      · simp [hl]
      · rw [beq_false_of_ne hl]
        exact ih ((List.mem_cons.mp hb).resolve_left (Ne.symm hl))
  rw [hfind ls (h b h1 h2)]
  simp only
  rw [getD_bytesAt _ _ _ (Nat.mod_lt _ (by decide))]
  congr 1
  omega

end Sys2Proof.Machine.State
end


section
/-!
The Sprigs' accesses of memory (R246, R263, R319, R324): loads through an empty L1, stores, LDACQ and STREL, and the accesses
that end the program.
-/
namespace Sys2Proof.Machine

open State Sys2Proof.Safety

/-! Small facts about lists. -/

theorem nodup_eraseDups (l : List Nat) : l.eraseDups.Nodup := by
  induction hn : l.length using Nat.strongRecOn generalizing l with
  | ind n ih =>
    cases l with
    | nil => simp
    | cons a l =>
      rw [List.eraseDups_cons]
      refine List.nodup_cons.mpr ⟨by simp [List.mem_eraseDups], ih _ ?_ _ rfl⟩
      have := List.length_filter_le (fun b => !b == a) l
      rw [← hn, List.length_cons]
      omega

/-- The entry of a key in a list of keys with a value each. -/
theorem find?_keyed {α β : Type} [DecidableEq α] (g : α → β) (L : List α) {l : α} (h : l ∈ L) :
    (L.map fun m => (m, g m)).find? (·.1 == l) = some (l, g l) := by
  induction L with
  | nil => cases h
  | cons m L ih =>
    rw [List.map_cons, List.find?_cons]
    by_cases hm : m = l
    · simp [hm]
    · rw [beq_false_of_ne hm]
      exact ih ((List.mem_cons.mp h).resolve_left (Ne.symm hm))

/-! The Sprig as an access finds it. -/

theorem sprigNow_job (s : State) (sp : SprigAt) : (sprigNow s sp).job = s.sprigs[sp.n].job :=
  foldl_keeps Sprig.job _ (fun x c => by cases c <;> rfl) _ _

theorem mapView_with_sprigs (s : State) (v : Vector Sprig 24) : ({ s with sprigs := v } : State).mapView = s.mapView :=
  mapView_congr (fun _ => rfl) fun _ _ _ => rd_with_sprigs ..

theorem plainRange_of_mapView {s t : State} (h : t.mapView = s.mapView) {a n : Nat} (hp : plainRange s a n) : plainRange t a n := by
  obtain ⟨hm, hw⟩ := Prod.mk.inj h
  refine ⟨hp.1, fun b h1 h2 => ?_⟩
  rw [hm, hw]
  exact hp.2 b h1 h2

section
variable {s : State} {sp : SprigAt} (hr : s.sprigRuns sp.n = true)
include hr

theorem State.mapView_sprigDo : (s.sprigDo sp id).mapView = s.mapView := by
  rw [sprigDo_eq hr]
  exact mapView_with_sprigs ..

theorem State.sprigDo_memByte : (s.sprigDo sp id).memByte = s.memByte := by
  rw [sprigDo_eq hr]
  rfl

theorem State.sprigDo_peek (a k : Nat) : (s.sprigDo sp id).peek a k = s.peek a k := by
  rw [sprigDo_eq hr]
  rfl

theorem State.sprigDo_linePoison (l : Nat) : (s.sprigDo sp id).linePoison l = s.linePoison l := by
  rw [sprigDo_eq hr]
  rfl

/-- The layer whose APPLY handler the Sprig runs is that of its job. -/
theorem State.sprigDo_apply (h : s.sprigApply sp.n = none) : (s.sprigDo sp id).sprigApply sp.n = none := by
  have hjob : (s.sprigDo sp id).sprigs[sp.n].job = s.sprigs[sp.n].job := by rw [sprigDo_now hr, sprigNow_job]
  have hlayers : (s.sprigDo sp id).layerOf = s.layerOf := by
    rw [sprigDo_eq hr]
    rfl
  rw [sprigApply, hjob, hlayers]
  exact h

/-- An access of a running Sprig. -/
theorem State.sprigAccess_eq (load : Bool) (k : Nat) (as : Sprig → List (Fin 64 × Nat))
    (f : State → Sprig → List (Fin 64 × Nat) → State) : s.sprigAccess sp load k as f =
      if (as (sprigNow s sp)).any fun a => (s.sprigDo sp id).noPlace sp.n load k a.2 then (s.sprigDo sp id).sprigStop sp.n 7
      else f (s.sprigDo sp id) (sprigNow s sp) (as (sprigNow s sp)) := by
  simp only [sprigAccess, hr, Bool.not_true, Bool.false_eq_true, if_false, sprigDo_now hr]

/-- A synchronising access of a running Sprig. -/
theorem State.sprigSync_eq (k : Nat) (sa : Fin 32) (f : State → Sprig → Nat → State) : s.sprigSync sp k sa f =
      if (sprigNow s sp).s[sa].toNat % k ≠ 0 then (s.sprigDo sp id).sprigStop sp.n 6
      else if spaceEnd < (sprigNow s sp).s[sa].toNat + k then (s.sprigDo sp id).sprigStop sp.n 7
      else f (s.sprigDo sp id) (sprigNow s sp) (sprigNow s sp).s[sa].toNat := by
  simp only [sprigSync, hr, Bool.not_true, Bool.false_eq_true, if_false, sprigDo_now hr]

end

/-! The lanes of an access. -/

/-- The address of a lane of an access. -/
def laneAddr (base stride : Nat) (l : Fin 64) : Nat := (base + stride * l.val) % 2 ^ 64

/-- The active lanes of an access. -/
def lanesOf (x : Sprig) (p : Pred) : List (Fin 64) := (List.finRange 64).filter (x.active p)

theorem mem_lanesOf {x : Sprig} {p : Pred} {l : Fin 64} : l ∈ lanesOf x p ↔ x.active p l = true := by simp [lanesOf]

theorem laneAddrs_eq (x : Sprig) (base stride : Nat) (p : Pred) :
    laneAddrs x base stride p = (lanesOf x p).map fun l => (l, laneAddr base stride l) := rfl

theorem noPlace_of_space {s : State} {n : SprigId} {load : Bool} {k a : Nat} (h : a + k ≤ spaceEnd) :
    s.noPlace n load k a = false := by
  have hno : ¬spaceEnd < a + k := by omega
  simp [noPlace, hno]

theorem noPlace_beyond {s : State} {n : SprigId} {k a : Nat} (h : spaceEnd < a + k) : s.noPlace n false k a = true := by
  simp [noPlace, h]

theorem space_of_plainRange {s : State} {a n : Nat} (h : plainRange s a n) : a + n ≤ spaceEnd := by
  have h1 : resPage * 2 ^ 18 ≤ spaceEnd := by decide
  exact h.1.trans h1

/-- No lane of plain memory ends the program. -/
theorem lanes_have_place {s u : State} {n : SprigId} {load : Bool} {k base stride : Nat} {x : Sprig} {p : Pred}
    (h : ∀ l, x.active p l = true → plainRange s (laneAddr base stride l) k) :
    ((laneAddrs x base stride p).any fun a => u.noPlace n load k a.2) = false := by
  rw [laneAddrs_eq, List.any_map, List.any_eq_false]
  intro l hl
  simp only [Function.comp, noPlace_of_space (space_of_plainRange (h l (mem_lanesOf.mp hl)))]
  decide

/-! Loads (R246, R324). -/

/-- The lines of the pieces that a load reads. -/
def linesRead (pieces : List (Nat × Nat)) : List Nat := (pieces.flatMap fun (a, k) => [a / 64, (a + k - 1) / 64]).eraseDups

theorem mem_linesRead {pieces : List (Nat × Nat)} {l : Nat} :
    l ∈ linesRead pieces ↔ ∃ q ∈ pieces, l = q.1 / 64 ∨ l = (q.1 + q.2 - 1) / 64 := by
  simp [linesRead, List.mem_eraseDups]

/-- A clean range: every line that it touches is plain and carries no marker. -/
theorem clean_line {s : State} {a k l : Nat} (hp : plainRange s a k) (hm : s.poisoned a k = false) (hk : k ≠ 0)
    (hl : l = a / 64 ∨ l = (a + k - 1) / 64) : s.plainAt l ∧ s.linePoison l = false := by
  refine ⟨plainAt_of_plainRange hp hk (by omega) (by omega), ?_⟩
  have hk' : (k != 0) = true := by simpa using hk
  rw [poisoned, hk', Bool.true_and, List.any_eq_false] at hm
  have := hm l (mem_span.mpr (by omega))
  simpa using this

theorem l1Lines_eq (s : State) (n : SprigId) (pieces : List (Nat × Nat)) :
    s.l1Lines n pieces = s.l1Fold n [] (linesRead pieces) := rfl

/-- The value of a lane of a load, from the lines read. -/
def laneValue (f : LaneFmt) (as : List (Fin 64 × Nat)) (got : List (Nat × List Byte × Bool)) (l : Fin 64) : Nat :=
  (((as.map fun y => (y.1, laneLoad f (pieceOf got y.2 (laneBytes f)))).find? (·.1 == l)).map (·.2)).getD 0

theorem laneValue_of_mem (f : LaneFmt) {x : Sprig} {base stride : Nat} {p : Pred} (got : List (Nat × List Byte × Bool)) {l : Fin 64}
    (hl : x.active p l = true) : laneValue f (laneAddrs x base stride p) got l =
      laneLoad f (pieceOf got (laneAddr base stride l) (laneBytes f)) := by
  have hfind := find?_keyed (fun m => laneLoad f (pieceOf got (laneAddr base stride m) (laneBytes f))) _ (mem_lanesOf.mpr hl)
  rw [laneValue, laneAddrs_eq, List.map_map]
  simp only [Function.comp_def, hfind, Option.map_some, Option.getD_some]

theorem modSprig_same (s : State) (n : SprigId) (g : Sprig → Sprig) : (s.modSprig n g).sprigs[n] = g s.sprigs[n] := by
  simp [modSprig]

/-- A load of clean pieces through an empty L1 brings each lane its element and changes no byte. -/
theorem sprigLoad_clean {u : State} {n : SprigId} {x : Sprig} (f : LaneFmt) (v : Fin 32) (p : Pred) {base stride : Nat} (taint : Bool)
    (hx : u.sprigs[n] = x) (hl1 : x.l1 = [])
    (h : ∀ l, x.active p l = true → plainRange u (laneAddr base stride l) (laneBytes f) ∧
      u.poisoned (laneAddr base stride l) (laneBytes f) = false) :
    (u.sprigLoad n f v (laneAddrs x base stride p) p taint).mem = u.mem ∧
      ∀ l : Fin 64, (u.sprigLoad n f v (laneAddrs x base stride p) p taint).sprigs[n].v[v][l] =
        if x.active p l then BitVec.ofNat 32 (laneLoad f (u.peek (laneAddr base stride l) (laneBytes f))) else x.v[v][l] := by
  have hk : laneBytes f ≠ 0 ∧ laneBytes f ≤ 4 := by cases f <;> decide
  obtain ⟨ls, hls⟩ : ∃ ls, ls = linesRead ((laneAddrs x base stride p).map fun y => (y.2, laneBytes f)) := ⟨_, rfl⟩
  have hmem (l : Fin 64) (hl : x.active p l = true) (j : Nat)
      (hj : j = laneAddr base stride l / 64 ∨ j = (laneAddr base stride l + laneBytes f - 1) / 64) : j ∈ ls := by
    rw [hls, mem_linesRead]
    refine ⟨(laneAddr base stride l, laneBytes f), ?_, hj⟩
    rw [laneAddrs_eq, List.map_map, List.mem_map]
    exact ⟨l, mem_lanesOf.mpr hl, rfl⟩
  have hclean : ∀ j ∈ ls, u.plainAt j ∧ u.linePoison j = false := by
    intro j hj
    rw [hls, mem_linesRead] at hj
    obtain ⟨q, hq, hj⟩ := hj
    rw [laneAddrs_eq, List.map_map, List.mem_map] at hq
    obtain ⟨l, hl, rfl⟩ := hq
    obtain ⟨hp, hm⟩ := h l (mem_lanesOf.mp hl)
    exact clean_line hp hm hk.1 hj
  have hstart : L1Kept u u n [] := ⟨rfl, rfl, rfl, rfl, fun c hc => by rw [hx, hl1] at hc; cases hc⟩
  have hnodup : ([] ++ ls).Nodup := by
    rw [hls]
    exact nodup_eraseDups _
  obtain ⟨t, hfold, hkept⟩ := l1Fold_plain hstart hnodup hclean []
  have hload : u.sprigLoad n f v (laneAddrs x base stride p) p taint = t.modSprig n fun y => y.setVec v p
      (laneValue f (laneAddrs x base stride p) (ls.map fun l => (l, u.bytesAt (64 * l) 64, false)))
      (taint || (ls.map fun l => (l, u.bytesAt (64 * l) 64, false)).any (·.2.2)) := by
    simp only [sprigLoad, l1Lines_eq, ← hls]
    rw [hfold]
    rfl
  refine ⟨by rw [hload]; exact hkept.mem, fun l => ?_⟩
  have hsprig : t.sprigs[n] = { x with l1 := t.sprigs[n].l1 } := by rw [hkept.sprig, hx]
  have hactive : t.sprigs[n].active p l = x.active p l := by rw [hsprig]; rfl
  have hold : t.sprigs[n].v = x.v := by rw [hsprig]
  rw [hload, modSprig_same, Sprig.setVec_lane, hactive, hold]
  split
  case isFalse => rfl
  case isTrue hl =>
    have hpiece := pieceOf_lines (s := u) (ls := ls) (a := laneAddr base stride l) (k := laneBytes f)
      fun b h1 h2 => hmem l hl _ (by omega)
    rw [laneValue_of_mem f _ hl, hpiece]

/-! Stores (R246, R263). -/

/-- The pieces of a store of some lanes. -/
def savedPieces (f : LaneFmt) (x : Sprig) (v : Fin 32) (base stride : Nat) (p : Pred) : List (Nat × Nat × Nat × List Nat) :=
  (lanesOf x p).map fun l => (laneAddr base stride l, laneBytes f, laneStore f (x.lane v l), [x.lane v l])

theorem sprigSave_eq {u : State} {n : SprigId} {x : Sprig} (f : LaneFmt) (v : Fin 32) (base stride : Nat) (p : Pred)
    (whole taint : Bool) (hx : u.sprigs[n] = x) : u.sprigSave n f v (laneAddrs x base stride p) whole taint =
      u.sprigPieces n (taint || x.vecTaint [v]) whole (savedPieces f x v base stride p) := by
  subst hx
  simp only [sprigSave, laneAddrs_eq, List.map_map]
  rfl

/-- Lanes side by side share no address. -/
theorem laneAddr_apart (f : LaneFmt) (base : Nat) {l m : Fin 64} (h : l < m) :
    laneAddr base (laneBytes f) l + laneBytes f ≤ laneAddr base (laneBytes f) m ∨
      laneAddr base (laneBytes f) m + laneBytes f ≤ laneAddr base (laneBytes f) l := by
  have hlt : l.val < m.val := h
  have hm := m.isLt
  simp only [laneAddr]
  cases f <;> simp only [laneBytes] <;> omega

theorem pairwise_savedPieces (f : LaneFmt) (x : Sprig) (v : Fin 32) (base : Nat) (p : Pred) :
    (savedPieces f x v base (laneBytes f) p).Pairwise sharesNone := by
  have hsorted : (lanesOf x p).Pairwise (· < ·) := (List.pairwise_lt_finRange 64).filter _
  rw [savedPieces, List.pairwise_map]
  exact hsorted.imp fun h => laneAddr_apart f base h

/-- What a store of plain lanes leaves: the bytes outside them, and each lane's element where no later lane overlaps it. -/
theorem savedPieces_written (f : LaneFmt) {t : State} (g : Nat → Byte) {x : Sprig} {v : Fin 32} {base stride : Nat} {p : Pred}
    (ht : t.memByte = piecesWritten g (savedPieces f x v base stride p)) :
    (∀ b, (∀ l, x.active p l = true → b < laneAddr base stride l ∨ laneAddr base stride l + laneBytes f ≤ b) → t.memByte b = g b) ∧
      ∀ l, x.active p l = true → laneAddr base stride l + laneBytes f ≤ resPage * 2 ^ 18 →
        (∀ m, x.active p m = true → l < m → laneAddr base stride l + laneBytes f ≤ laneAddr base stride m ∨
          laneAddr base stride m + laneBytes f ≤ laneAddr base stride l) →
        t.peek (laneAddr base stride l) (laneBytes f) = laneStore f (x.lane v l) % 2 ^ (8 * laneBytes f) := by
  refine ⟨fun b hb => ?_, fun l hl hres hlast => ?_⟩
  · rw [ht]
    refine piecesWritten_outside _ fun q hq => ?_
    rw [savedPieces, List.mem_map] at hq
    obtain ⟨l, hl, rfl⟩ := hq
    exact hb l (mem_lanesOf.mp hl)
  · have hsorted : (lanesOf x p).Pairwise (· < ·) := (List.pairwise_lt_finRange 64).filter _
    obtain ⟨before, after, hsplit⟩ := List.append_of_mem (mem_lanesOf.mpr hl)
    rw [hsplit] at hsorted
    have hafter : ∀ m ∈ after, l < m := (List.pairwise_cons.mp (List.pairwise_append.mp hsorted).2.1).1
    refine peek_of_memByte hres fun i hi => ?_
    rw [ht, savedPieces, hsplit, List.map_append, List.map_cons]
    refine (piecesWritten_last g (fun q hq => ?_) (Nat.le_add_right ..) (Nat.add_lt_add_left hi _)).trans (by simp)
    obtain ⟨m, hm, rfl⟩ := List.mem_map.mp hq
    have hactive : m ∈ lanesOf x p := by rw [hsplit]; simp [hm]
    exact hlast m (mem_lanesOf.mp hactive) (hafter m hm)

/-! Synchronising accesses (R310, R319, R324). -/

theorem peek_of_mem {s t : State} (h : t.mem = s.mem) {a k : Nat} (hres : a + k ≤ resPage * 2 ^ 18) : t.peek a k = s.peek a k := by
  rw [peek, peek, bytesAt_eq_memByte _ hres, bytesAt_eq_memByte _ hres, memByte_of_mem h]

theorem peek_lt (s : State) (a k : Nat) : s.peek a k < 2 ^ (8 * k) := by
  have hlen : (s.bytesAt a k).length = k := by simp [bytesAt, span]
  have h := ofBytes_lt (s.bytesAt a k)
  rw [hlen] at h
  exact h

/-- LDACQ of a clean word reads it and changes no byte. -/
theorem sprigAcquire_clean {u : State} {n : SprigId} {x : Sprig} {k a : Nat} (scope : Fin 4) (v : Fin 32) (taint : Bool)
    (hx : u.sprigs[n] = x) (hk : k ≠ 0 ∧ k ≤ 8) (hp : plainRange u a k) (hm : u.poisoned a k = false) :
    (u.sprigAcquire n k scope v a taint).mem = u.mem ∧
      (u.sprigAcquire n k scope v a taint).sprigs[n].s[v].toNat = u.peek a k ∧
      (u.sprigAcquire n k scope v a taint).sprigs[n].l1 = (if scope = 0 then x.l1 else []) ∧
      ∀ q, q ≠ v → (u.sprigAcquire n k scope v a taint).sprigs[n].s[q] = x.s[q] := by
  obtain ⟨hplain, hclean⟩ := clean_line hp hm hk.1 (.inl rfl)
  obtain ⟨t, ht⟩ : ∃ t : State, t = u.readLine (u.sprigVia n) (a / 64) := ⟨_, rfl⟩
  have hmem : t.mem = u.mem := by rw [ht]; exact readLine_mem u _ (by simp [sprigVia])
  have hpoison : t.linePoison (a / 64) = false := by
    rw [← hclean, ht]
    exact linePoison_of_poison (poison_readLine hplain (by simp [sprigVia])) _
  have hsprigs : t.sprigs[n] = x := by rw [← hx, ht, sprigs_of_noMem (readLine_noMem ..)]
  have hacq : u.sprigAcquire n k scope v a taint =
      t.modSprig n fun y => { y.setScal v (u.peek a k) taint with l1 := if scope = 0 then y.l1 else [] } := by
    simp only [sprigAcquire, ← ht, hpoison, Bool.false_eq_true, if_false, Bool.false_or, peek_of_mem hmem hp.1]
  have hlt : u.peek a k < 2 ^ 64 := (peek_lt u a k).trans_le (Nat.pow_le_pow_right (by decide) (by omega))
  rw [hacq, modSprig_same, hsprigs]
  refine ⟨hmem, ?_, rfl, fun q hq => ?_⟩
  · simp only [Sprig.setScal, Fin.getElem_fin, Vector.getElem_set_self, BitVec.toNat_ofNat]
    exact Nat.mod_eq_of_lt hlt
  · have hne : v.val ≠ q.val := fun e => hq (Fin.ext e.symm)
    simp [Sprig.setScal, hne]

/-- STREL of a plain word writes it and no other byte. -/
theorem sprigRelease_plain {u : State} {n : SprigId} {x : Sprig} {k a : Nat} (v : Fin 32) (taint : Bool) (hx : u.sprigs[n] = x)
    (ha : u.sprigApply n = none) (hp : plainRange u a k) (g : Nat → Byte) (hg : u.memByte = g) :
    (u.sprigRelease n k v a taint).memByte = overlay g a (toBytes k (x.s[v].toNat % 2 ^ (8 * k))) := by
  subst hx hg
  exact sprigPieces_plain _ ha (by simpa using hp) fun _ => List.pairwise_singleton ..

/-! The instructions. -/

section
variable {s : State} {sp : SprigAt} (hr : s.sprigRuns sp.n = true)
include hr

/-- A load of clean lanes through an empty L1. -/
theorem exec_load {c : Instr} {f : LaneFmt} {v : Fin 32} {p : Pred} {base stride : Sprig → Nat} {taint : Sprig → Bool}
    (hc : exec c s = act s (s.sprigAccess sp true (laneBytes f) (fun x => laneAddrs x (base x) (stride x) p) fun s x as =>
      s.sprigLoad sp.n f v as p (taint x)))
    (hl1 : (sprigNow s sp).l1 = []) (h : ∀ l, (sprigNow s sp).active p l = true →
      plainRange s (laneAddr (base (sprigNow s sp)) (stride (sprigNow s sp)) l) (laneBytes f) ∧
        s.poisoned (laneAddr (base (sprigNow s sp)) (stride (sprigNow s sp)) l) (laneBytes f) = false) :
    ∃ t, exec c s = .next t ∧ t.mem = s.mem ∧ ∀ l : Fin 64, t.sprigs[sp.n].v[v][l] =
      if (sprigNow s sp).active p l then BitVec.ofNat 32 (laneLoad f
        (s.peek (laneAddr (base (sprigNow s sp)) (stride (sprigNow s sp)) l) (laneBytes f))) else (sprigNow s sp).v[v][l] := by
  have hplace := lanes_have_place (u := s.sprigDo sp id) (n := sp.n) (load := true) fun l hl => (h l hl).1
  have hpoison : (s.sprigDo sp id).poisoned = s.poisoned := by
    rw [sprigDo_eq hr]
    rfl
  obtain ⟨hmem, hlanes⟩ := sprigLoad_clean f v p (taint (sprigNow s sp)) (sprigDo_now hr) hl1 fun l hl =>
    ⟨plainRange_of_mapView (mapView_sprigDo hr) (h l hl).1, by rw [hpoison]; exact (h l hl).2⟩
  have hact : exec c s = act s ((s.sprigDo sp id).sprigLoad sp.n f v
      (laneAddrs (sprigNow s sp) (base (sprigNow s sp)) (stride (sprigNow s sp)) p) p (taint (sprigNow s sp))) := by
    rw [hc, sprigAccess_eq hr, hplace]
    rfl
  refine ⟨_, hact.trans (act_next ..), ?_, fun l => ?_⟩
  · rw [done_mem, hmem, sprigDo_eq hr]
  · rw [done_sprigs, hlanes, sprigDo_peek hr]

/-- A store of plain lanes of a program. -/
theorem exec_store {c : Instr} {f : LaneFmt} {v : Fin 32} {p : Pred} {base stride : Sprig → Nat} {taint : Sprig → Bool} {whole : Bool}
    (hc : exec c s = act s (s.sprigAccess sp false (laneBytes f) (fun x => laneAddrs x (base x) (stride x) p) fun s x as =>
      s.sprigSave sp.n f v as whole (taint x)))
    (ha : s.sprigApply sp.n = none)
    (h : ∀ l, (sprigNow s sp).active p l = true →
      plainRange s (laneAddr (base (sprigNow s sp)) (stride (sprigNow s sp)) l) (laneBytes f))
    (hw : whole = true → (savedPieces f (sprigNow s sp) v (base (sprigNow s sp)) (stride (sprigNow s sp)) p).Pairwise sharesNone) :
    ∃ t, exec c s = .next t ∧
      (∀ b, b < resPage * 2 ^ 18 → (∀ l, (sprigNow s sp).active p l = true →
        b < laneAddr (base (sprigNow s sp)) (stride (sprigNow s sp)) l ∨
          laneAddr (base (sprigNow s sp)) (stride (sprigNow s sp)) l + laneBytes f ≤ b) → t.byte b = s.byte b) ∧
      ∀ l, (sprigNow s sp).active p l = true → (∀ m, (sprigNow s sp).active p m = true → l < m →
          laneAddr (base (sprigNow s sp)) (stride (sprigNow s sp)) l + laneBytes f ≤
            laneAddr (base (sprigNow s sp)) (stride (sprigNow s sp)) m ∨
          laneAddr (base (sprigNow s sp)) (stride (sprigNow s sp)) m + laneBytes f ≤
            laneAddr (base (sprigNow s sp)) (stride (sprigNow s sp)) l) →
        t.peek (laneAddr (base (sprigNow s sp)) (stride (sprigNow s sp)) l) (laneBytes f) =
          laneStore f ((sprigNow s sp).lane v l) % 2 ^ (8 * laneBytes f) := by
  have hplace := lanes_have_place (u := s.sprigDo sp id) (n := sp.n) (load := false) h
  obtain ⟨x, hx⟩ : ∃ x, x = sprigNow s sp := ⟨_, rfl⟩
  rw [← hx] at h hw hplace ⊢
  obtain ⟨t, ht⟩ : ∃ t : State, t = (s.sprigDo sp id).sprigPieces sp.n (taint x || x.vecTaint [v]) whole
    (savedPieces f x v (base x) (stride x) p) := ⟨_, rfl⟩
  have hact : exec c s = act s t := by
    rw [hc, sprigAccess_eq hr, ← hx, hplace, ht, ← sprigSave_eq f v _ _ p whole (taint x) ((sprigDo_now hr).trans hx.symm)]
    rfl
  have hpieces : ∀ q ∈ savedPieces f x v (base x) (stride x) p, plainRange (s.sprigDo sp id) q.1 q.2.1 := by
    intro q hq
    obtain ⟨l, hl, rfl⟩ := List.mem_map.mp hq
    exact plainRange_of_mapView (mapView_sprigDo hr) (h l (mem_lanesOf.mp hl))
  have hbytes : (t.done s.pending).memByte = piecesWritten s.memByte (savedPieces f x v (base x) (stride x) p) := by
    rw [memByte_of_mem (done_mem ..), ht, sprigPieces_plain _ (sprigDo_apply hr ha) hpieces hw, sprigDo_memByte hr]
  obtain ⟨hout, hlast⟩ := savedPieces_written f s.memByte hbytes
  refine ⟨_, hact.trans (act_next ..), fun b hb hl => ?_, fun l hl hm => hlast l hl (h l hl).1 hm⟩
  rw [byte_eq_memByte _ hb, byte_eq_memByte _ hb]
  exact hout b hl

/-- A misaligned LDACQ or STREL, and one beyond the logical device space, ends the program (R319). -/
theorem exec_sync_stops {c : Instr} {k : Nat} {sa : Fin 32} {f : State → Sprig → Nat → State}
    (hc : exec c s = act s (s.sprigSync sp k sa f)) :
    ((sprigNow s sp).s[sa].toNat % k ≠ 0 → exec c s = .next (((s.sprigDo sp id).sprigStop sp.n 6).done s.pending)) ∧
      ((sprigNow s sp).s[sa].toNat % k = 0 → spaceEnd < (sprigNow s sp).s[sa].toNat + k →
        exec c s = .next (((s.sprigDo sp id).sprigStop sp.n 7).done s.pending)) := by
  rw [hc, sprigSync_eq hr, act_next]
  refine ⟨fun h => by rw [if_pos h], fun h h7 => by rw [if_neg (by simpa using h), if_pos h7]⟩

theorem exec_sync_goes {c : Instr} {k : Nat} {sa : Fin 32} {f : State → Sprig → Nat → State}
    (hc : exec c s = act s (s.sprigSync sp k sa f)) (h : (sprigNow s sp).s[sa].toNat % k = 0)
    (hp : plainRange s (sprigNow s sp).s[sa].toNat k) :
    exec c s = act s (f (s.sprigDo sp id) (sprigNow s sp) (sprigNow s sp).s[sa].toNat) := by
  have hspace := space_of_plainRange hp
  rw [hc, sprigSync_eq hr, if_neg (by simpa using h), if_neg (by omega)]

/-- An access with a lane that has no place ends the program. -/
theorem exec_lane_stops {c : Instr} {load : Bool} {k : Nat} {p : Pred} {base stride : Sprig → Nat}
    {f : State → Sprig → List (Fin 64 × Nat) → State}
    (hc : exec c s = act s (s.sprigAccess sp load k (fun x => laneAddrs x (base x) (stride x) p) f))
    {l : Fin 64} (hl : (sprigNow s sp).active p l = true)
    (hno : (s.sprigDo sp id).noPlace sp.n load k (laneAddr (base (sprigNow s sp)) (stride (sprigNow s sp)) l) = true) :
    exec c s = .next (((s.sprigDo sp id).sprigStop sp.n 7).done s.pending) := by
  have hany : ((laneAddrs (sprigNow s sp) (base (sprigNow s sp)) (stride (sprigNow s sp)) p).any fun a =>
      (s.sprigDo sp id).noPlace sp.n load k a.2) = true := by
    rw [laneAddrs_eq, List.any_map]
    exact List.any_eq_true.mpr ⟨l, mem_lanesOf.mpr hl, hno⟩
  rw [hc, sprigAccess_eq hr, act_next, hany]
  rfl

/-- LDACQ of a clean word (R311, R319, R324). -/
theorem exec_ldacq {wide : Bool} {scope : Fin 4} {v r : Fin 32}
    (h : (sprigNow s sp).s[r].toNat % (if wide then 8 else 4) = 0)
    (hp : plainRange s (sprigNow s sp).s[r].toNat (if wide then 8 else 4))
    (hm : s.poisoned (sprigNow s sp).s[r].toNat (if wide then 8 else 4) = false) :
    ∃ t, exec (.ldacq sp wide scope v r) s = .next t ∧ t.mem = s.mem ∧
      t.sprigs[sp.n].s[v].toNat = s.peek (sprigNow s sp).s[r].toNat (if wide then 8 else 4) ∧
      t.sprigs[sp.n].l1 = (if scope = 0 then (sprigNow s sp).l1 else []) ∧
      ∀ q, q ≠ v → t.sprigs[sp.n].s[q] = (sprigNow s sp).s[q] := by
  have hk : (if wide then 8 else 4) ≠ 0 ∧ (if wide then 8 else 4) ≤ 8 := by cases wide <;> decide
  have hpoison : (s.sprigDo sp id).poisoned = s.poisoned := by
    rw [sprigDo_eq hr]
    rfl
  obtain ⟨hmem, hval, hl1, hother⟩ := sprigAcquire_clean scope v ((sprigNow s sp).scalTaint r) (sprigDo_now hr) hk
    (plainRange_of_mapView (mapView_sprigDo hr) hp) (by rw [hpoison]; exact hm)
  refine ⟨_, (exec_sync_goes (c := .ldacq sp wide scope v r) hr rfl h hp).trans (act_next ..), ?_, ?_, ?_, fun q hq => ?_⟩
  · rw [done_mem, hmem, sprigDo_eq hr]
  · rw [done_sprigs, hval, sprigDo_peek hr]
  · rw [done_sprigs, hl1]
  · rw [done_sprigs, hother q hq]

/-- STREL of a plain word of a program (R310, R319). -/
theorem exec_strel {wide : Bool} {scope : Fin 4} {v r : Fin 32} (ha : s.sprigApply sp.n = none)
    (h : (sprigNow s sp).s[r].toNat % (if wide then 8 else 4) = 0)
    (hp : plainRange s (sprigNow s sp).s[r].toNat (if wide then 8 else 4)) :
    ∃ t, exec (.strel sp wide scope v r) s = .next t ∧
      t.peek (sprigNow s sp).s[r].toNat (if wide then 8 else 4) =
        (sprigNow s sp).s[v].toNat % 2 ^ (8 * if wide then 8 else 4) ∧
      ∀ b, b < resPage * 2 ^ 18 → b < (sprigNow s sp).s[r].toNat ∨ (sprigNow s sp).s[r].toNat + (if wide then 8 else 4) ≤ b →
        t.byte b = s.byte b := by
  have hbytes := sprigRelease_plain v ((sprigNow s sp).scalTaint r) (sprigDo_now hr) (sprigDo_apply hr ha)
    (plainRange_of_mapView (mapView_sprigDo hr) hp) _ (sprigDo_memByte hr)
  rw [← memByte_of_mem (done_mem _ s.pending)] at hbytes
  refine ⟨_, (exec_sync_goes (c := .strel sp wide scope v r) hr rfl h hp).trans (act_next ..), ?_, fun b hb hout => ?_⟩
  · rw [peek_of_memByte (x := (sprigNow s sp).s[v].toNat % 2 ^ (8 * if wide then 8 else 4)) hp.1 fun i hi => ?_, Nat.mod_mod]
    rw [hbytes, overlay, length_toBytes, if_pos (by omega)]
    congr 1
    omega
  · rw [byte_eq_memByte _ hb, byte_eq_memByte _ hb, hbytes, overlay, length_toBytes, if_neg (by omega)]

/-- QBLK reads its descriptor, or ends the program where that lies beyond the logical device space. -/
theorem exec_qblk (r gr gc v : Fin 32) :
    ((sprigNow s sp).s[r].toNat + 128 ≤ spaceEnd → exec (.qblk sp r gr gc v) s = .next (((s.sprigDo sp id).sprigQblk sp.n
      (sprigNow s sp).s[r].toNat (sprigNow s sp).s[gr].toNat (sprigNow s sp).s[gc].toNat v
      ((sprigNow s sp).scalTaint r || (sprigNow s sp).scalTaint gr || (sprigNow s sp).scalTaint gc)).done s.pending)) ∧
    (spaceEnd < (sprigNow s sp).s[r].toNat + 128 →
      exec (.qblk sp r gr gc v) s = .next (((s.sprigDo sp id).sprigStop sp.n 7).done s.pending)) := by
  have hact : exec (.qblk sp r gr gc v) s = act s (s.sprigAccess sp false 128 (fun x => [(0, x.s[r].toNat)]) fun s x as =>
    s.sprigQblk sp.n (as.map (·.2)).sum x.s[gr].toNat x.s[gc].toNat v
      (x.scalTaint r || x.scalTaint gr || x.scalTaint gc)) := rfl
  rw [hact, sprigAccess_eq hr, act_next]
  refine ⟨fun h => ?_, fun h => ?_⟩
  · rw [List.any_cons, noPlace_of_space h]
    simp
  · have hno : (s.sprigDo sp id).noPlace sp.n false 128 (sprigNow s sp).s[r].toNat = true := by
      simp [-Fin.getElem_fin, noPlace, h]
    rw [List.any_cons, hno]
    rfl

end

/-- Settles O54: the loads and stores by their lanes, the synchronising accesses by their word. -/
theorem sprigMemory : Obligations.SprigMemory := by
  unfold Obligations.SprigMemory
  intro s sp f v r st gr gc p wide scope hr n x u stops k a w at_ clean loads stores
  refine ⟨?_, ?_, ?_, ?_, ?_, ?_, ?_, ?_, fun l hl => ⟨?_, ?_, ?_, ?_⟩, ?_, ?_⟩
  · exact fun hl1 h => exec_load (base := fun x => x.s[r].toNat) (stride := fun _ => laneBytes f) hr rfl hl1 h
  · exact fun hl1 h => exec_load (base := fun x => x.s[r].toNat) (stride := fun x => x.s[st].toNat) hr rfl hl1 h
  · exact fun ha h => exec_store (base := fun x => x.s[r].toNat) (stride := fun _ => laneBytes f) hr rfl ha h
      fun _ => pairwise_savedPieces ..
  · exact fun ha h => exec_store (base := fun x => x.s[r].toNat) (stride := fun x => x.s[st].toNat) hr rfl ha h
      fun hw => absurd hw (by decide)
  · exact fun hw hc => exec_ldacq hr hw hc.1 hc.2
  · exact fun ha hw hp => exec_strel hr ha hw hp
  · exact fun hw => ⟨(exec_sync_stops hr rfl).1 hw, (exec_sync_stops hr rfl).1 hw⟩
  · exact fun hw h7 => ⟨(exec_sync_stops hr rfl).2 hw h7, (exec_sync_stops hr rfl).2 hw h7⟩
  · exact fun h7 => exec_lane_stops (base := fun x => x.s[r].toNat) (stride := fun _ => laneBytes f) hr rfl hl h7
  · exact fun h7 => exec_lane_stops (base := fun x => x.s[r].toNat) (stride := fun x => x.s[st].toNat) hr rfl hl h7
  · exact fun h7 => exec_lane_stops (base := fun x => x.s[r].toNat) (stride := fun _ => laneBytes f) hr rfl hl
      (noPlace_beyond h7)
  · exact fun h7 => exec_lane_stops (base := fun x => x.s[r].toNat) (stride := fun x => x.s[st].toNat) hr rfl hl
      (noPlace_beyond h7)
  · exact (exec_qblk hr r gr gc v).1
  · exact (exec_qblk hr r gr gc v).2

end Sys2Proof.Machine
end


section
/-!
What a frame sent and a Kalec answer change (R329, R359, R371, R375): the network's state and the control space, and of the
rest the mailbox and the alert of R448.
-/
namespace Sys2Proof.Machine.State

open Sys2Proof.Safety

/-! The network. -/

/-- A state without its control space and the network's state. -/
def noNet (s : State) : State := { s.noCtl with net := netReset }

theorem noNet_of_noCtl {s t : State} (h : t.noCtl = s.noCtl) : t.noNet = s.noNet :=
  congrArg (fun x : State => { x with net := netReset }) h

section
variable {s t : State} (h : t.noNet = s.noNet)
include h

theorem eq_of_noNet : t = { s with ctl := t.ctl, net := t.net } := by
  cases s; cases t; simp only [noNet, noCtl] at h ⊢; injection h; subst_vars; rfl

theorem kal_of_noNet : t.kal = s.kal := (congrArg State.kal h :)
theorem pw_of_noNet : t.pw = s.pw := (congrArg State.pw h :)
theorem mem_of_noNet : t.mem = s.mem := (congrArg State.mem h :)
theorem ops_of_noNet : t.ops = s.ops := (congrArg State.ops h :)
theorem slots_of_noNet : t.slots = s.slots := (congrArg State.slots h :)

end

theorem frameOut_noNet (s : State) (p : Fin 8) (o f : Frame) : (s.frameOut p o f).noNet = s.noNet :=
  (noNet_of_noCtl (inc_noCtl { s with net := _ } ..)).trans rfl

theorem sendFrame_noNet (s : State) (p : Fin 8) (f : Frame) : (s.sendFrame p f).noNet = s.noNet := by
  simp only [sendFrame]
  refine ite_keeps noNet _ rfl (ite_keeps noNet _ ?_ (frameOut_noNet ..))
  have hact (u : State) (b : Bool) (hu : u.noNet = s.noNet) :
      (if b = true then u.inc Reg.NET_FI_ACTIONS_COUNT p 1 else u).noNet = s.noNet :=
    ite_keeps noNet _ ((noNet_of_noCtl (inc_noCtl ..)).trans hu) hu
  refine ite_keeps noNet _ (hact _ _ rfl) (ite_keeps noNet _ ?_ (ite_keeps noNet _ ?_ ?_))
  · exact (frameOut_noNet ..).trans (hact _ _ rfl)
  · exact hact { s with net := _ } _ rfl
  · exact (frameOut_noNet ..).trans (hact _ _ rfl)

/-- Whether a field is none of those that a frame sent counts in. -/
def apartFromSending (f : Field) (i : Nat) : Bool :=
  decide (∀ p : Fin 8, apart Reg.NET_TX_FRAMES_COUNT p f i = true ∧ apart Reg.NET_FI_ACTIONS_COUNT p f i = true)

theorem rd_frameOut (s : State) (p : Fin 8) (o g : Frame) {f : Field} {i : Nat} (h : apartFromSending f i = true) :
    (s.frameOut p o g).rd f i = s.rd f i := by
  rw [frameOut, inc, rd_wr_other _ _ (of_decide_eq_true h p).1, rd_with_net]

theorem rd_sendFrame (s : State) (p : Fin 8) (g : Frame) {f : Field} {i : Nat} (h : apartFromSending f i = true) :
    (s.sendFrame p g).rd f i = s.rd f i := by
  simp only [sendFrame]
  refine ite_keeps (rd · f i) _ rfl (ite_keeps (rd · f i) _ ?_ (rd_frameOut _ _ _ _ h))
  have hact (u : State) (b : Bool) (hu : u.rd f i = s.rd f i) :
      (if b = true then u.inc Reg.NET_FI_ACTIONS_COUNT p 1 else u).rd f i = s.rd f i :=
    ite_keeps (rd · f i) _ ((rd_wr_other _ _ (of_decide_eq_true h p).2).trans hu) hu
  have hdrawn (n : Net) (b : Bool) :
      (if b = true then ({ s with net := n } : State).inc Reg.NET_FI_ACTIONS_COUNT p 1 else { s with net := n }).rd f i = s.rd f i :=
    hact _ b (rd_with_net ..)
  refine ite_keeps (rd · f i) _ (hdrawn ..) (ite_keeps (rd · f i) _ ?_ (ite_keeps (rd · f i) _ ?_ ?_))
  · exact (rd_frameOut _ _ _ _ h).trans (hdrawn ..)
  · exact (rd_with_net ..).trans (hdrawn ..)
  · exact (rd_frameOut _ _ _ _ h).trans (hdrawn ..)

theorem pumpN_noNet (dst : BitVec 16) (cls : Nat) (n : Nat) (s : State) : (s.pumpN dst cls n).noNet = s.noNet := by
  induction n generalizing s with
  | zero => rfl
  | succ n ih =>
    rw [pumpN]
    simp only []
    split
    · rfl
    · split
      · rfl
      · refine ite_keeps noNet _ rfl ?_
        rw [ih, sendFrame_noNet]
        rfl

theorem pumpAll_noNet (s : State) : s.pumpAll.noNet = s.noNet :=
  foldl_keeps noNet _ (fun (t : State) (c : Conn) => pumpN_noNet c.dst c.cls _ t) _ _

/-! Answers (R371, R375, R510). -/

/-- The response that a request's mailbox keeps. -/
def keptResp (s : State) (q : Req) (st : KStat) (pl : List Byte) : Resp :=
  ⟨q.code, q.hdr, kStatus st, kHolder st ++ pl, kFrame q.hdr q.code (kStatus st) s.dseq.toNat (kHolder st ++ pl)⟩

/-- The mailboxes after an answer to their request in progress. -/
def boxesAfter (s : State) (q : Req) (st : KStat) (pl : List Byte) : Vector Mbox 16 :=
  s.kal.boxes.set q.hdr.mbox { s.kal.boxes[q.hdr.mbox] with cur := none, kept := some (s.keptResp q st pl) }

/-- A state with a response's number taken, and the response kept and shown (R371). -/
def answerShown (s : State) (q : Req) (st : KStat) (pl : List Byte) : State :=
  ({ s.takeDseq with kal := { s.kal with boxes := s.boxesAfter q st pl } }.wr Reg.KAL_MB_STATUS_STATE q.hdr.mbox 2).wr
    Reg.KAL_MB_STATUS_LAST_STATUS q.hdr.mbox (kStatus st)

/-- A state with the alert of R448 released by KS_OK. -/
def alertEased (s : State) (st : KStat) : State := if st = .ok then { s with pw := { s.pw with alertHeld := false } } else s

/-- What an answer to the request in progress of a mailbox does. -/
theorem answer_eq {s : State} {q : Req} (st : KStat) (pl : List Byte) (h : s.kal.boxes[q.hdr.mbox].cur = some q) :
    s.answer q st pl = ((s.answerShown q st pl).alertEased st).kSend q.hdr (s.keptResp q st pl).frame := by
  have hmine : (s.takeDseq.kal.boxes[q.hdr.mbox].cur == some q) = true := by
    rw [kal_of_noCtl (takeDseq_noCtl s), h]; exact beq_self_eq_true _
  have hcur : (s.takeDseq.modBox q.hdr.mbox fun b => { b with cur := none, kept := some (s.keptResp q st pl) }).kal.boxes[
      q.hdr.mbox].cur.isSome = false := by simp [modBox]
  rw [answer, if_pos (kal_of_noCtl (takeDseq_noCtl s) ▸ hmine), respond]
  simp only [hmine, if_true]
  rw [← keptResp]
  simp only [hcur]
  rfl

theorem kSend_noNet (s : State) (h : KHdr) (fr : List Byte) : (s.kSend h fr).noNet = s.noNet := by
  rw [kSend]
  exact ite_keeps noNet _ rfl (sendFrame_noNet ..)

theorem rd_kSend (s : State) (h : KHdr) (fr : List Byte) {f : Field} {i : Nat} (hf : apartFromSending f i = true) :
    (s.kSend h fr).rd f i = s.rd f i := by
  rw [kSend]
  exact ite_keeps (rd · f i) _ rfl (rd_sendFrame _ _ _ hf)

@[simp] theorem alertEased_ctl (s : State) (st : KStat) : (s.alertEased st).ctl = s.ctl := by
  rw [alertEased]; split <;> rfl

theorem word_alertEased (s : State) (st : KStat) (a : Nat) : (s.alertEased st).word a = s.word a :=
  word_of_ctl (alertEased_ctl s st) a

theorem rd_alertEased (s : State) (st : KStat) (f : Field) (i : Nat) : (s.alertEased st).rd f i = s.rd f i :=
  rd_of_ctl (alertEased_ctl s st) f i

/-- What the answer to a request in progress leaves, beside registers and the network's state. -/
theorem answerShown_eased (s : State) (q : Req) (st : KStat) (pl : List Byte) : ((s.answerShown q st pl).alertEased st).noCtl =
    ({ s with
      kal := { s.kal with boxes := s.boxesAfter q st pl }
      pw := if st = .ok then { s.pw with alertHeld := false } else s.pw } : State).noCtl := by
  have hshown : (s.answerShown q st pl).noCtl = ({ s with kal := { s.kal with boxes := s.boxesAfter q st pl } } : State).noCtl := by
    rw [answerShown, wr_noCtl, wr_noCtl]; rfl
  rw [alertEased]
  split
  · exact congrArg (fun x : State => { x with pw := { x.pw with alertHeld := false } }) hshown
  · exact hshown

theorem dseq_of_rd {s t : State} (h : t.rd Reg.TEL_DSEQ_DSEQ 0 = s.rd Reg.TEL_DSEQ_DSEQ 0) : t.dseq = s.dseq := by
  have hrd (u : State) : u.rd Reg.TEL_DSEQ_DSEQ 0 = u.dseq.toNat :=
    (rd_of_word _ (by decide)).trans (Nat.mod_eq_of_lt (BitVec.isLt _))
  exact BitVec.eq_of_toNat_eq ((hrd t).symm.trans (h.trans (hrd s)))

/-- Whether a field is none of those that an answer writes: the sequence number, a mailbox's status, frames sent. -/
def apartFromAnswer (f : Field) (i : Nat) : Bool :=
  apartFromSending f i && (decide (0x03F004 + 4 ≤ fieldAddr f i) || decide (fieldAddr f i + 4 * fieldWords f ≤ 0x03F004)) &&
    decide (∀ m : Fin 16, apart Reg.KAL_MB_STATUS_STATE m f i = true ∧ apart Reg.KAL_MB_STATUS_LAST_STATUS m f i = true)

theorem rd_takeDseq (s : State) {f : Field} {i : Nat}
    (h : 0x03F004 + 4 ≤ fieldAddr f i ∨ fieldAddr f i + 4 * fieldWords f ≤ 0x03F004) : s.takeDseq.rd f i = s.rd f i := by
  refine rd_congr fun a h1 h2 => ?_
  rw [takeDseq, word_setWord_other _ _ (by omega)]

theorem rd_answerShown (s : State) (q : Req) (st : KStat) (pl : List Byte) {f : Field} {i : Nat}
    (h : apartFromAnswer f i = true) : (s.answerShown q st pl).rd f i = s.rd f i := by
  simp only [apartFromAnswer, Bool.and_eq_true, Bool.or_eq_true, decide_eq_true_eq] at h
  obtain ⟨⟨-, hseq⟩, hbox⟩ := h
  rw [answerShown, rd_wr_other _ _ (hbox q.hdr.mbox).2, rd_wr_other _ _ (hbox q.hdr.mbox).1, rd_with_kal, rd_takeDseq _ hseq]

/-- A request in progress that its mailbox does not hold is not answered. -/
theorem answer_cases (s : State) (q : Req) (st : KStat) (pl : List Byte) : s.answer q st pl = s ∨
    s.answer q st pl = ((s.answerShown q st pl).alertEased st).kSend q.hdr (s.keptResp q st pl).frame := by
  by_cases hcur : s.kal.boxes[q.hdr.mbox].cur = some q
  · exact .inr (answer_eq st pl hcur)
  · exact .inl (by rw [answer, if_neg (by simpa using hcur)])

theorem rd_answer (s : State) (q : Req) (st : KStat) (pl : List Byte) {f : Field} {i : Nat} (h : apartFromAnswer f i = true) :
    (s.answer q st pl).rd f i = s.rd f i := by
  have hsend : apartFromSending f i = true := by
    simp only [apartFromAnswer, Bool.and_eq_true] at h
    exact h.1.1
  rcases answer_cases s q st pl with he | he
  · rw [he]
  · rw [he, rd_kSend _ _ _ hsend, rd_alertEased, rd_answerShown _ _ _ _ h]

/-- A state without what an answer may change. -/
def noReply (s : State) : State :=
  { s.noNet with kal := { s.kal with boxes := kalecReset.boxes }, pw := { s.pw with alertHeld := false } }

theorem noReply_of_noNet {s t : State} (h : t.noNet = s.noNet) : t.noReply = s.noReply :=
  congrArg (fun x : State => { x with
    kal := { x.kal with boxes := kalecReset.boxes }, pw := { x.pw with alertHeld := false } }) h

theorem answer_noReply (s : State) (q : Req) (st : KStat) (pl : List Byte) : (s.answer q st pl).noReply = s.noReply := by
  rcases answer_cases s q st pl with he | he
  · rw [he]
  · rw [he, noReply_of_noNet (kSend_noNet ..), noReply_of_noNet (noNet_of_noCtl (answerShown_eased ..))]
    by_cases hst : st = .ok
    · simp only [hst, if_true]; rfl
    · simp only [hst, if_false]; rfl

end Sys2Proof.Machine.State

namespace Sys2Proof.Machine

open State Sys2Proof.Safety

section
variable {s : State} {q : Req} {st : KStat} {pl : List Byte} (hcur : s.kal.boxes[q.hdr.mbox].cur = some q)
include hcur

theorem State.answer_noNet : (s.answer q st pl).noNet = ({ s with
      kal := { s.kal with boxes := s.boxesAfter q st pl }
      pw := if st = .ok then { s.pw with alertHeld := false } else s.pw } : State).noNet := by
  rw [answer_eq st pl hcur, kSend_noNet, noNet_of_noCtl (answerShown_eased ..)]

theorem State.answer_kal : (s.answer q st pl).kal = { s.kal with boxes := s.boxesAfter q st pl } :=
  kal_of_noNet (answer_noNet hcur)

theorem State.rd_answer_own {f : Field} {i : Nat} (hf : apartFromSending f i = true) :
    (s.answer q st pl).rd f i = (s.answerShown q st pl).rd f i := by
  rw [answer_eq st pl hcur, rd_kSend _ _ _ hf, rd_alertEased]

theorem State.answer_state : (s.answer q st pl).rd Reg.KAL_MB_STATUS_STATE q.hdr.mbox = 2 := by
  have hfield : ∀ m : Fin 16, apartFromSending Reg.KAL_MB_STATUS_STATE m = true ∧
      apart Reg.KAL_MB_STATUS_LAST_STATUS m Reg.KAL_MB_STATUS_STATE m = true := by decide
  obtain ⟨hsend, hlast⟩ := hfield q.hdr.mbox
  rw [rd_answer_own hcur hsend, answerShown, rd_wr_other _ _ hlast, rd_wr_same _ _ _ _ (by decide)]
  rfl

theorem State.answer_lastStatus : (s.answer q st pl).rd Reg.KAL_MB_STATUS_LAST_STATUS q.hdr.mbox = kStatus st := by
  have hsend : ∀ m : Fin 16, apartFromSending Reg.KAL_MB_STATUS_LAST_STATUS m = true := by decide
  rw [rd_answer_own hcur (hsend _), answerShown, rd_wr_same _ _ _ _ (by decide)]
  cases st <;> rfl

theorem State.answer_dseq : (s.answer q st pl).dseq = if s.dseq + 1 = 0 then 1 else s.dseq + 1 := by
  have hbox : ∀ m : Fin 16, apart Reg.KAL_MB_STATUS_STATE m Reg.TEL_DSEQ_DSEQ 0 = true ∧
      apart Reg.KAL_MB_STATUS_LAST_STATUS m Reg.TEL_DSEQ_DSEQ 0 = true := by decide
  have htake : s.takeDseq.dseq = if s.dseq + 1 = 0 then 1 else s.dseq + 1 := by
    rw [takeDseq, dseq, word_setWord_same]
  rw [← htake]
  refine dseq_of_rd ?_
  rw [rd_answer_own hcur (by decide), answerShown, rd_wr_other _ _ (hbox _).2, rd_wr_other _ _ (hbox _).1, rd_with_kal]

/-- Where no frame carries a response nothing changes but what the answer itself writes. -/
theorem State.answer_unsent (hsend : q.hdr.mbox.val < 2 ∨ s.rdB Reg.NET_PORT_STATUS_LINK q.hdr.port = false ∨ s.quench = true) :
    s.answer q st pl = (s.answerShown q st pl).alertEased st := by
  have hkeep : ∀ p : Fin 8, apartFromAnswer Reg.NET_PORT_STATUS_LINK p = true := by decide
  have hlink : ((s.answerShown q st pl).alertEased st).rdB Reg.NET_PORT_STATUS_LINK q.hdr.port =
      s.rdB Reg.NET_PORT_STATUS_LINK q.hdr.port := by
    rw [rdB, rd_alertEased, rd_answerShown _ _ _ _ (hkeep _), rdB]
  have hq : ((s.answerShown q st pl).alertEased st).quench = s.quench := by
    rw [quench, rdB, rd_alertEased, rd_answerShown _ _ _ _ (by decide), ← rdB, quench]
  rw [answer_eq st pl hcur, kSend]
  split
  case isTrue => rfl
  case isFalse hno =>
    rw [hlink] at hno
    rw [sendFrame, if_pos]
    simp only [mayLeave, hlink, hq]
    simp only [Bool.or_eq_true, decide_eq_true_eq, Bool.not_eq_true', not_or, Bool.not_eq_false] at hno
    rcases hsend with h | h | h
    · exact absurd h hno.1
    · rw [h] at hno; cases hno.2
    · simp [h]

omit hcur in
theorem State.answerShown_word {a : Nat} (ha : a ∉ [0x010000 + 0x1000 * q.hdr.mbox.val, 0x03F004]) :
    (s.answerShown q st pl).word a = s.word a := by
  have hbox : ∀ m : Fin 16, fieldAddr Reg.KAL_MB_STATUS_STATE m = 0x010000 + 0x1000 * m.val ∧
      fieldAddr Reg.KAL_MB_STATUS_LAST_STATUS m = 0x010000 + 0x1000 * m.val := by decide
  have hone : fieldWords Reg.KAL_MB_STATUS_STATE = 1 ∧ fieldWords Reg.KAL_MB_STATUS_LAST_STATUS = 1 := by decide
  simp only [List.mem_cons, List.not_mem_nil, or_false, not_or] at ha
  rw [answerShown, word_wr_ne _ _ (by rw [(hbox _).2, hone.2]; omega), word_wr_ne _ _ (by rw [(hbox _).1, hone.1]; omega),
    word_with_kal, takeDseq, word_setWord_other _ _ ha.2]

/-- A port that injects no faults and holds no frame sends a response that may leave it. -/
theorem State.answer_sent (hm : 2 ≤ q.hdr.mbox.val) (hl : s.rdB Reg.NET_PORT_STATUS_LINK q.hdr.port = true) (hq : s.quench = false)
    (hf : s.rdB Reg.NET_FI_CTRL_ARM q.hdr.port = false) (hh : s.net.fi[q.hdr.port].held = []) :
    (s.answer q st pl).net.sent = s.net.sent ++ [s.sentFrame q.hdr.port
      (.datagram q.hdr.peerIp.toNat q.hdr.peerPort.toNat (s.keptResp q st pl).frame)
      (.datagram q.hdr.peerIp.toNat q.hdr.peerPort.toNat (s.keptResp q st pl).frame)] := by
  rw [answer_eq st pl hcur]
  obtain ⟨u, hu⟩ : ∃ u : State, u = (s.answerShown q st pl).alertEased st := ⟨_, rfl⟩
  have hport : ∀ f ∈ [Reg.NET_PORT_STATUS_LINK, Reg.NET_FI_CTRL_ARM, Reg.NET_PORT_NEXTHOP_MAC, Reg.NET_PORT_MAC_MAC,
      Reg.NET_PORT_STATUS_PREEMPT_ACTIVE, Reg.NET_PORT_CFG_FAMILY, Reg.NET_PORT_IP_IP, Reg.NET_PORT_CFG_VID], ∀ p : Fin 8,
      apartFromAnswer f p = true := by decide
  have hrd {f : Field} {i : Nat} (h : apartFromAnswer f i = true) : u.rd f i = s.rd f i := by
    rw [hu, rd_alertEased, rd_answerShown _ _ _ _ h]
  have hnet : u.net = s.net := by
    rw [hu]; exact (congrArg State.net (answerShown_eased s q st pl) :)
  rw [← hu, kSend, if_neg (by
    rw [rdB, hrd (hport _ (by simp) _), ← rdB, hl]
    simp; omega)]
  have hquench : u.quench = false := by rw [quench, rdB, hrd (by decide), ← rdB, ← quench, hq]
  have hlink : u.rdB Reg.NET_PORT_STATUS_LINK q.hdr.port = true := by rw [rdB, hrd (hport _ (by simp) _), ← rdB, hl]
  have harm : u.rdB Reg.NET_FI_CTRL_ARM q.hdr.port = false := by rw [rdB, hrd (hport _ (by simp) _), ← rdB, hf]
  rw [sendFrame, if_neg (by simp [mayLeave, hquench, hlink]), if_neg (by simp [harm]), frameOut, inc_net, hnet, hh]
  simp only [List.map_nil, List.filter_nil, List.append_nil]
  refine congrArg (fun x => s.net.sent ++ [x]) ?_
  simp only [sentFrame, ipUdp, isTagged, frameClass, frameQp, rdB]
  rw [hrd (hport _ (by simp) _), hrd (hport _ (by simp) _), hrd (hport _ (by simp) _), hrd (hport _ (by simp) _),
    hrd (hport _ (by simp) _), hrd (hport _ (by simp) _)]

end

/-- Settles O24: an answer is the response shown in its mailbox, then the frame that carries it, which a mailbox of I3C, a
port without a link, or Quench sends none of. -/
theorem answersAreKept : Obligations.AnswersAreKept := by
  unfold Obligations.AnswersAreKept
  intro s q st pl hcur
  refine ⟨answer_kal hcur, answer_state hcur, answer_lastStatus hcur, answer_dseq hcur, fun hsend => ?_,
    fun hm hl hq hf hh => answer_sent hcur hm hl hq hf hh⟩
  rw [answer_kal hcur, answer_unsent hcur hsend]
  refine ⟨eq_of_noCtl (answerShown_eased ..), fun a ha _ => ?_⟩
  rw [word_alertEased, answerShown_word ha]
  rfl

end Sys2Proof.Machine
end


section
/-!
Requests that Kalec takes, whose command answers them at once (R373, R374), and the owner's power commands among them
(R401, R423).
-/
namespace Sys2Proof.Machine

open State Sys2Proof.Safety

/-! A field that an event leaves, by the fields that the captures it triggers write (R458). -/

/-- Whether a field is none of those that an event writes. -/
def State.apartFromEvent (f : Field) (i : Nat) : Bool :=
  (decide (0x03F004 + 4 ≤ fieldAddr f i) || decide (fieldAddr f i + 4 * fieldWords f ≤ 0x03F004)) &&
    apart Reg.HRT_CD_HOLD_CD3 0 f i && decide (∀ d : Fin 2, apart Reg.MEM_FCAP_STATUS_TRIGGERED d f i = true ∧
      apart Reg.MEM_FCAP_STATUS_UNREAD d f i = true ∧ apart Reg.MEM_FCAP_CTRL_ARM d f i = true)

section
variable {f : Field} {i : Nat} (h : apartFromEvent f i = true)
include h

theorem State.rd_note_apart (s : State) (c u : Nat) (sl : Option (Fin 8)) (a : Nat) : (s.note c u sl a).rd f i = s.rd f i := by
  simp only [apartFromEvent, Bool.and_eq_true, Bool.or_eq_true, decide_eq_true_eq] at h
  rw [note, rd_takeDseq _ h.1.1]
  exact rd_of_ctl (logRec_ctl ..) f i

theorem State.rd_captureStops_apart (s : State) (d : Fin 2) : (s.captureStops d).rd f i = s.rd f i := by
  have hfields := h
  simp only [apartFromEvent, Bool.and_eq_true, decide_eq_true_eq] at hfields
  obtain ⟨⟨-, hcd⟩, hcap⟩ := hfields
  obtain ⟨htrig, hunread, harm⟩ := hcap d
  simp only [captureStops]
  rw [rd_note_apart h, wrB, rd_wr_other _ _ harm, wrB, rd_wr_other _ _ hunread, wrB, rd_wr_other _ _ htrig, rd_with_tel]
  exact ite_keeps (rd · f i) _ (rd_wr_other _ _ hcd) rfl

theorem State.rd_captureStop_apart (s : State) (d : Fin 2) : (s.captureStop d).rd f i = s.rd f i := by
  simp only [captureStop]
  refine ite_keeps (rd · f i) _ (rd_captureStops_apart h ..) (ite_keeps (rd · f i) _ ?_ ?_)
  · rw [rd_captureStops_apart h, rd_captureStops_apart h]
  · exact (rd_with_tel ..).trans (rd_captureStops_apart h ..)

theorem State.rd_captureTrigger_apart (s : State) (d : Fin 2) : (s.captureTrigger d).rd f i = s.rd f i := by
  rw [captureTrigger]
  exact ite_keeps (rd · f i) _ rfl (ite_keeps (rd · f i) _ (rd_captureStop_apart h ..) (rd_with_tel ..))

theorem State.rd_raise_apart (s : State) (c u : Nat) (sl : Option (Fin 8)) (a : Nat) : (s.raise c u sl a).rd f i = s.rd f i := by
  have htrigger (t : State) (d : Fin 2) :
      (if c ≠ 0 && t.rd Reg.MEM_FCAP_CTRL_TRIG_CODE d = c then t.captureTrigger d else t).rd f i = t.rd f i :=
    ite_keeps (rd · f i) _ (rd_captureTrigger_apart h ..) rfl
  rw [raise, captureOn]
  exact (htrigger _ 1).trans ((htrigger _ 0).trans (rd_note_apart h ..))

end

/-! Requests taken. -/

section
variable {s : State} {h : KHdr} {c : KCmd}

/-- A request that Kalec takes passes the owner's check (R373 step 5). -/
theorem permitted (ht : Takes s h c) : ¬(ownerCodes.contains (ask h c).code &&
    !(arrived s h c).isOwner (ask h c).hdr.agent (ask h c).hdr.otok) = true := by
  have hcheck : kCheck (ask h c) = none := by
    obtain ⟨⟨-, -, -, -, -, hcheck, -⟩, -⟩ := ht
    exact hcheck
  rw [(ask_of_kCheck hcheck).1]
  by_cases hc : kCode c ∈ ownerCodes
  · rw [isOwner_of_takes ht hc]; simp
  · simp [hc]

theorem arrived_idle (hr : Reaches s h c) : (arrived s h c).kal.running = none := by
  obtain ⟨-, -, -, -, hidle, -⟩ := hr
  rw [arrived_kal]
  exact hidle

/-- The mailbox of a request in progress holds it. -/
theorem arrived_cur (s : State) (h : KHdr) (c : KCmd) :
    (arrived s h c).kal.boxes[(ask h c).hdr.mbox].cur = some (ask h c) := by
  simp [arrived_kal]

/-- What a command that leaves nothing executing leads to is the outcome of its request. -/
theorem act_of_run (hr : Reaches s h c) {x t : State} (hx : x = arrived s h c) (hrun : x.kRun (ask h c) = t)
    (hidle : t.kal.running = none) : act s (s.kRequest h c) = .next (t.done s.pending) := by
  subst hx
  rw [kRequest_of_reaches hr, hrun, slotSettle_of_idle hidle, act_next]

/-- A command that answers its request and leaves nothing executing. -/
theorem act_of_answered (hr : Reaches s h c) {x u : State} {st : KStat} {pl : List Byte} (hx : x = arrived s h c)
    (hrun : x.kRun (ask h c) = u.answer (ask h c) st pl) (hidle : u.kal.running = none) :
    act s (s.kRequest h c) = .next (replied s u h c st pl) :=
  act_of_run hr hx hrun ((answer_running ..).trans hidle)

end

theorem State.answered1_eq (q : Req) (t : State) (st : KStat) : answered1 q (t, st) = t.answer q st [] := rfl

/-! What a request's arrival leaves as it was. -/

theorem arrived_noCtl (s : State) (h : KHdr) (c : KCmd) :
    (arrived s h c).noCtl = ({ s with kal := (arrived s h c).kal } : State).noCtl := by
  have hcounted : (s.counted h).noCtl = s.noCtl := counted_noCtl s h
  have hagent : ((s.counted h).wr Reg.KAL_MB_AGENT_AGENT_ID h.mbox (ask h c).hdr.agent.toNat).noCtl = s.noCtl :=
    (wr_noCtl ..).trans hcounted
  rw [arrived_kal, arrived_eq, wr_noCtl, modBox]
  have hkal := kal_of_noCtl hagent
  rw [hkal]
  exact congrArg (fun x : State => { x with kal := { s.kal with
    boxes := s.kal.boxes.set h.mbox { s.kal.boxes[h.mbox] with cur := some (ask h c), cut := none } } }) hagent

theorem arrived_form (s : State) (h : KHdr) (c : KCmd) :
    arrived s h c = { s with ctl := (arrived s h c).ctl, kal := (arrived s h c).kal } := eq_of_noCtl (arrived_noCtl s h c)

theorem arrived_tel (s : State) (h : KHdr) (c : KCmd) : (arrived s h c).tel = s.tel := by rw [arrived_form]
theorem arrived_slots (s : State) (h : KHdr) (c : KCmd) : (arrived s h c).slots = s.slots := by rw [arrived_form]
theorem arrived_mem (s : State) (h : KHdr) (c : KCmd) : (arrived s h c).mem = s.mem := by rw [arrived_form]
theorem arrived_ms (s : State) (h : KHdr) (c : KCmd) : (arrived s h c).ms = s.ms := by rw [arrived_form]
theorem arrived_ops (s : State) (h : KHdr) (c : KCmd) : (arrived s h c).ops = s.ops := by rw [arrived_form]
theorem arrived_rings (s : State) (h : KHdr) (c : KCmd) : (arrived s h c).rings = s.rings := by rw [arrived_form]
theorem arrived_flash (s : State) (h : KHdr) (c : KCmd) : (arrived s h c).flash = s.flash := by rw [arrived_form]
theorem arrived_sec (s : State) (h : KHdr) (c : KCmd) : (arrived s h c).sec = s.sec := by rw [arrived_form]
theorem arrived_net (s : State) (h : KHdr) (c : KCmd) : (arrived s h c).net = s.net := by rw [arrived_form]

theorem arrived_free (s : State) (h : KHdr) (c : KCmd) : (arrived s h c).free = s.free := by
  rw [arrived_form]

/-- Words outside the mailboxes' and the ports' registers are those before the arrival. -/
theorem word_arrived (s : State) (h : KHdr) (c : KCmd) {a : Nat}
    (ha : a < 0x010000 ∨ 0x020000 ≤ a ∧ a < 0x060000 ∨ 0x062000 ≤ a) : (arrived s h c).word a = s.word a := by
  have hm := h.mbox.isLt
  have hp := h.port.isLt
  have hcounted : (s.counted h).word a = s.word a := by
    rw [counted]
    split
    · exact word_wr_ne _ _ (by simp only [fieldAddr, fieldWords, Reg.NET_RX_FRAMES_COUNT]; omega)
    · rfl
  rw [arrived_eq, word_wr_ne _ _ (by simp only [fieldAddr, fieldWords, Reg.KAL_MB_STATUS_STATE]; omega), modBox, word_with_kal,
    word_wr_ne _ _ (by simp only [fieldAddr, fieldWords, Reg.KAL_MB_AGENT_AGENT_ID]; omega), hcounted]

/-! Operating points (R401). -/

section
variable {s : State} {h : KHdr}

theorem State.setPhaseOp_eq {u : State} (phase op : Nat) (href : u.rdB Reg.HRT_CLK_STATUS_REF_FALLBACK 0 = false) :
    u.setPhaseOp phase op = if phase ≤ 4 ∧ op ≤ 15 then
      (u.setWord 0x080004 (BitVec.ofNat 32 (putBits (u.word 0x080004).toNat (4 * phase + 3) (4 * phase) op)), .ok)
      else (u, .range) := by
  by_cases hr : phase ≤ 4 ∧ op ≤ 15
  · rw [setPhaseOp, if_neg (by simp; omega), if_neg (by simp [href]), if_pos hr]
  · rw [setPhaseOp, if_pos (by simp; omega), if_neg hr]

theorem State.setGroupOp_eq {u : State} (op : Nat) (href : u.rdB Reg.HRT_CLK_STATUS_REF_FALLBACK 0 = false) :
    u.setGroupOp op = if op ≤ 15 then (((u.wr Reg.PWR_GROUP_OP 0 op).wrB Reg.PWR_GROUP_EN 0 true).repointAll, .ok)
      else if op = 0xFF then ((u.wrB Reg.PWR_GROUP_EN 0 false).repointAll, .ok) else (u, .range) := by
  by_cases hr : op ≤ 15
  · rw [setGroupOp, if_neg (by simp; omega), if_neg (by simp [href]), if_neg (by omega), if_pos hr]
  · by_cases hf : op = 0xFF
    · rw [setGroupOp, if_neg (by simp [hf]), if_neg (by simp [href]), if_pos hf, if_neg hr, if_pos hf]
    · rw [setGroupOp, if_pos (by simp [hf]; omega), if_neg hr, if_neg hf]

theorem State.repointAll_kal (s : State) : s.repointAll.kal = s.kal :=
  foldl_keeps State.kal _ (fun t a => by
    rw [repoint]
    exact ite_keeps State.kal _ rfl (ite_keeps State.kal _ rfl rfl)) _ _

theorem exec_setPhaseOp {phase op : Byte} (ht : Takes s h (.setPhaseOp phase op))
    (href : s.rdB Reg.HRT_CLK_STATUS_REF_FALLBACK 0 = false) :
    exec (.setPhaseOp h phase op) s = .next (if phase.toNat ≤ 4 ∧ op.toNat ≤ 15 then
      replied s ((arrived s h (.setPhaseOp phase op)).setWord 0x080004 (BitVec.ofNat 32 (putBits (s.word 0x080004).toNat
        (4 * phase.toNat + 3) (4 * phase.toNat) op.toNat))) h (.setPhaseOp phase op) .ok []
      else replied s (arrived s h (.setPhaseOp phase op)) h (.setPhaseOp phase op) .range []) := by
  obtain ⟨u, hu⟩ : ∃ u : State, u = arrived s h (.setPhaseOp phase op) := ⟨_, rfl⟩
  have href' : u.rdB Reg.HRT_CLK_STATUS_REF_FALLBACK 0 = false := by rw [hu, rdB, rd_arrived _ _ _ (by decide), ← rdB, href]
  have hword : u.word 0x080004 = s.word 0x080004 := by
    rw [hu, word_arrived _ _ _ (by decide)]
  have hrun : u.kRun (ask h (.setPhaseOp phase op)) = answered1 (ask h (.setPhaseOp phase op)) (u.setPhaseOp phase.toNat op.toNat) := by
    rw [hu, kRun, if_neg (permitted ht), cmd_of_reaches ht.1]
  have hidle : u.kal.running = none := hu ▸ arrived_idle ht.1
  rw [setPhaseOp_eq _ _ href', hword] at hrun
  rw [← hu]
  split
  case isTrue hr =>
    rw [if_pos hr, answered1_eq] at hrun
    exact act_of_answered ht.1 hu hrun ((congrArg Kalec.running (setWord_kal ..)).trans hidle)
  case isFalse hr =>
    rw [if_neg hr, answered1_eq] at hrun
    exact act_of_answered ht.1 hu hrun hidle

theorem exec_setGroupOp {op : Byte} (ht : Takes s h (.setGroupOp op)) (href : s.rdB Reg.HRT_CLK_STATUS_REF_FALLBACK 0 = false) :
    let u := arrived s h (.setGroupOp op)
    exec (.setGroupOp h op) s = .next (if op.toNat ≤ 15 then
      replied s (((u.wr Reg.PWR_GROUP_OP 0 op.toNat).wrB Reg.PWR_GROUP_EN 0 true).repointAll) h (.setGroupOp op) .ok []
      else if op = 0xFF then replied s (u.wrB Reg.PWR_GROUP_EN 0 false).repointAll h (.setGroupOp op) .ok []
      else replied s u h (.setGroupOp op) .range []) := by
  obtain ⟨u, hu⟩ : ∃ u : State, u = arrived s h (.setGroupOp op) := ⟨_, rfl⟩
  have href' : u.rdB Reg.HRT_CLK_STATUS_REF_FALLBACK 0 = false := by rw [hu, rdB, rd_arrived _ _ _ (by decide), ← rdB, href]
  have hrun : u.kRun (ask h (.setGroupOp op)) = answered1 (ask h (.setGroupOp op)) (u.setGroupOp op.toNat) := by
    rw [hu, kRun, if_neg (permitted ht), cmd_of_reaches ht.1]
  have hidle : u.kal.running = none := hu ▸ arrived_idle ht.1
  have hff : op.toNat = 0xFF ↔ op = 0xFF := ⟨fun h => BitVec.eq_of_toNat_eq h, fun h => h ▸ rfl⟩
  simp only [← hu]
  rw [setGroupOp_eq _ href'] at hrun
  by_cases hr : op.toNat ≤ 15
  · rw [if_pos hr, answered1_eq] at hrun
    rw [if_pos hr]
    refine act_of_answered ht.1 hu hrun ?_
    rw [repointAll_kal, wrB_kal, wr_kal, hidle]
  rw [if_neg hr] at hrun ⊢
  by_cases hf : op = 0xFF
  · rw [if_pos (hff.mpr hf), answered1_eq] at hrun
    rw [if_pos hf]
    refine act_of_answered ht.1 hu hrun ?_
    rw [repointAll_kal, wrB_kal, hidle]
  · rw [if_neg (mt hff.mp hf), answered1_eq] at hrun
    rw [if_neg hf]
    exact act_of_answered ht.1 hu hrun hidle

end

/-! RESUME (R423). -/

namespace State

/-- Every Anvil at OP0. -/
def allSlow (s : State) : State := (List.finRange 4).foldl (fun s a => s.setPoint a 0) s

/-- Memory out of self-refresh with its pads released, LIM_CAP 0, and the domains that Quench gated running. -/
def requickened (s : State) : State :=
  { (s.releasePads memPads).wr Reg.PWR_STATUS_LIM_CAP 0 0 with
    pw := { s.pw with memAsleep := false, compute := true, dozeHeld := false } }

/-- Quench no more shown, in Run, with countdown 2 free. -/
def quenchEnded (s : State) : State :=
  (((s.wr Reg.PWR_STATUS_STATE 0 0).wr Reg.HRT_CD_HOLD_CD2 0 0).wrB Reg.PWR_STATUS_QUENCH 0 false).wr Reg.PWR_STATUS_QCAUSE 0 0

/-- The state that RESUME leads to, before its event. -/
def resumed (s : State) : State := s.requickened.allSlow.quenchEnded

theorem resumeRun_eq {s : State} (hq : s.quench = true) (hf : s.pw.flowOk = true) (hh : s.pw.hot = false) :
    s.resumeRun = (s.resumed.raise 0x0706 0 none 0, .ok) := by
  have hpw : ((s.releasePads memPads).wr Reg.PWR_STATUS_LIM_CAP 0 0).pw = s.pw := by simp [releasePads]
  rw [resumeRun, if_neg (by simp [hq]), if_neg (by simp [hf, hh])]
  simp only [hpw]
  rfl

/-- A state without its control space and Anvils. -/
def noAnv (s : State) : State := { s.noCtl with anv := Vector.replicate 4 anvilReset }

theorem noAnv_of_noCtl {s t : State} (h : t.noCtl = s.noCtl) : t.noAnv = s.noAnv :=
  congrArg (fun x : State => { x with anv := Vector.replicate 4 anvilReset }) h

section
variable {s t : State} (h : t.noAnv = s.noAnv)
include h

theorem kal_of_noAnv : t.kal = s.kal := (congrArg State.kal h :)
theorem pw_of_noAnv : t.pw = s.pw := (congrArg State.pw h :)
theorem tel_of_noAnv : t.tel = s.tel := (congrArg State.tel h :)
theorem slots_of_noAnv : t.slots = s.slots := (congrArg State.slots h :)
theorem mem_of_noAnv : t.mem = s.mem := (congrArg State.mem h :)
theorem ops_of_noAnv : t.ops = s.ops := (congrArg State.ops h :)
theorem rings_of_noAnv : t.rings = s.rings := (congrArg State.rings h :)

end

theorem allSlow_noAnv (s : State) : s.allSlow.noAnv = s.noAnv :=
  foldl_keeps noAnv _ (fun t a => (noAnv_of_noCtl (setPoint_noCtl t a 0)).trans rfl) _ _

theorem rd_allSlow (s : State) {f : Field} {i : Nat} (h : apart Reg.PWR_ANV_OP_OP 0 f i = true) : s.allSlow.rd f i = s.rd f i :=
  foldl_keeps (rd · f i) _ (fun t a => by rw [setPoint, rd_wr_other _ _ h, rd_setAnv]) _ _

theorem point_setPoint (s : State) (a b : Fin 4) (p : Nat) :
    (s.setPoint a p).anv[b].point = if b = a then p else s.anv[b].point := by
  rw [anv_of_noCtl (setPoint_noCtl s a p), atPoint]
  by_cases hb : b = a
  · subst hb; simp
  · have hne : a.val ≠ b.val := fun e => hb (Fin.ext e.symm)
    simp [hb, hne]

theorem point_allSlow (s : State) (a : Fin 4) : s.allSlow.anv[a].point = 0 := by
  have hfin : List.finRange 4 = [0, 1, 2, 3] := by decide
  simp only [allSlow, hfin, List.foldl_cons, List.foldl_nil, point_setPoint]
  have ha : a = 0 ∨ a = 1 ∨ a = 2 ∨ a = 3 := by omega
  rcases ha with rfl | rfl | rfl | rfl <;> simp

theorem shown_allSlow (s : State) : s.allSlow.rd Reg.PWR_ANV_OP_OP 0 = 0 := by
  have hfin : List.finRange 4 = [0, 1, 2, 3] := by decide
  have hlt : s.rd Reg.PWR_ANV_OP_OP 0 < 2 ^ 16 := rd_lt ..
  simp only [allSlow, hfin, List.foldl_cons, List.foldl_nil, setPoint_shown]
  simp only [putBits, bits_eq, Fin.val_zero, Fin.val_one, Fin.val_two, show (3 : Fin 4).val = 3 from rfl]
  omega

theorem resumed_noAnv (s : State) : s.resumed.noAnv =
    ({ s with pw := { s.pw with memAsleep := false, compute := true, dozeHeld := false } } : State).noAnv := by
  have hmem : ((s.releasePads memPads).wr Reg.PWR_STATUS_LIM_CAP 0 0).noCtl = s.noCtl := (wr_noCtl ..).trans (wr_noCtl ..)
  have hended (t : State) : t.quenchEnded.noCtl = t.noCtl := by rw [quenchEnded, wr_noCtl, wrB_noCtl, wr_noCtl, wr_noCtl]
  rw [resumed, noAnv_of_noCtl (hended _), allSlow_noAnv]
  exact congrArg (fun x : State => { x with
    anv := Vector.replicate 4 anvilReset, pw := { s.pw with memAsleep := false, compute := true, dozeHeld := false } }) hmem

theorem rd_resumed (s : State) {f : Field} {i : Nat} (h : ∀ g ∈ [Reg.PWR_STATUS_QCAUSE, Reg.PWR_STATUS_QUENCH,
    Reg.HRT_CD_HOLD_CD2, Reg.PWR_STATUS_STATE, Reg.PWR_ANV_OP_OP, Reg.PWR_STATUS_LIM_CAP, Reg.HRT_PAD_HOLD_GROUPS],
    apart g 0 f i = true) : s.resumed.rd f i = s.rd f i := by
  rw [resumed, quenchEnded, wrB, rd_wr_other _ _ (h _ (by simp)), rd_wr_other _ _ (h _ (by simp)), rd_wr_other _ _ (h _ (by simp)),
    rd_wr_other _ _ (h _ (by simp)), rd_allSlow _ (h _ (by simp)), requickened, rd_with_pw, rd_wr_other _ _ (h _ (by simp)),
    releasePads, rd_wr_other _ _ (h _ (by simp))]

/-- What PWR_STATUS and HRT_CD_HOLD show after RESUME. -/
theorem resumed_shown (s : State) : s.resumed.quench = false ∧ s.resumed.rd Reg.PWR_STATUS_QCAUSE 0 = 0 ∧
    s.resumed.rd Reg.PWR_STATUS_LIM_CAP 0 = 0 ∧ s.resumed.rd Reg.PWR_STATUS_STATE 0 = 0 ∧
    s.resumed.rd Reg.HRT_CD_HOLD_CD2 0 = 0 ∧ s.resumed.rd Reg.PWR_ANV_OP_OP 0 = 0 := by
  have hlim : s.requickened.rd Reg.PWR_STATUS_LIM_CAP 0 = 0 := by
    rw [requickened, rd_with_pw, rd_wr_same _ _ _ _ (by decide)]; rfl
  have hzero (t : State) {f : Field} (hf : 0 < f.len) : (t.wr f 0 0).rd f 0 = 0 := (rd_wr_same _ _ _ _ hf).trans (Nat.zero_mod _)
  simp only [resumed, quenchEnded]
  refine ⟨?_, hzero _ (by decide), ?_, ?_, ?_, ?_⟩
  · rw [quench, rdB, rd_wr_other _ _ (by decide), ← rdB, rdB_wrB_same _ _ _ _ rfl]
  · rw [rd_wr_other _ _ (by decide), wrB, rd_wr_other _ _ (by decide), rd_wr_other _ _ (by decide), rd_wr_other _ _ (by decide),
      rd_allSlow _ (by decide), hlim]
  · rw [rd_wr_other _ _ (by decide), wrB, rd_wr_other _ _ (by decide), rd_wr_other _ _ (by decide), hzero _ (by decide)]
  · rw [rd_wr_other _ _ (by decide), wrB, rd_wr_other _ _ (by decide), hzero _ (by decide)]
  · rw [rd_wr_other _ _ (by decide), wrB, rd_wr_other _ _ (by decide), rd_wr_other _ _ (by decide), rd_wr_other _ _ (by decide),
      shown_allSlow]

theorem point_resumed (s : State) (a : Fin 4) : s.resumed.anv[a].point = 0 := by
  have hended (t : State) : t.quenchEnded.noCtl = t.noCtl := by rw [quenchEnded, wr_noCtl, wrB_noCtl, wr_noCtl, wr_noCtl]
  rw [resumed, anv_of_noCtl (hended _), point_allSlow]

/-- An event without a slot has the same record in two states that agree on what it carries. -/
theorem eventRec_resumed_arrived (s : State) (h : KHdr) (c : KCmd) (code unit arg : Nat) :
    (arrived s h c).resumed.eventRec code unit none arg = s.eventRec code unit none arg := by
  have hrest := resumed_noAnv (arrived s h c)
  have hslot : ∀ n : Fin 8, apartFromArrival Reg.STR_SLOT_STATE_STATE n = true ∧ ∀ g ∈ [Reg.PWR_STATUS_QCAUSE, Reg.PWR_STATUS_QUENCH,
      Reg.HRT_CD_HOLD_CD2, Reg.PWR_STATUS_STATE, Reg.PWR_ANV_OP_OP, Reg.PWR_STATUS_LIM_CAP, Reg.HRT_PAD_HOLD_GROUPS],
      apart g 0 Reg.STR_SLOT_STATE_STATE n = true := by decide
  refine eventRec_of_none (dseq_of_rd ?_) ?_ ?_ (fun n => ?_) code unit arg
  · rw [rd_resumed _ (by decide), rd_arrived _ _ _ (by decide)]
  · exact (tel_of_noAnv hrest).trans (arrived_tel s h c)
  · exact (slots_of_noAnv hrest).trans (arrived_slots s h c)
  · rw [slotState, rd_resumed _ (hslot n).2, rd_arrived _ _ _ (hslot n).1, slotState]

end State

theorem exec_resume {s : State} {h : KHdr} (ht : Takes s h .resume) (hq : s.quench = true) (hf : s.pw.flowOk = true)
    (hh : s.pw.hot = false) : exec (.resume h) s =
      .next ((((arrived s h .resume).resumed.raise 0x0706 0 none 0).answer (ask h .resume) .ok []).pumpAll.done s.pending) := by
  have hrun : (arrived s h .resume).kRun (ask h .resume) = (answered1 (ask h .resume) (arrived s h .resume).resumeRun).pumpAll := by
    rw [kRun, if_neg (permitted ht), cmd_of_reaches ht.1]
  have hq' : (arrived s h .resume).quench = true := by rw [quench, rdB, rd_arrived _ _ _ (by decide), ← rdB, ← quench, hq]
  rw [resumeRun_eq hq' (by rw [arrived_pw, hf]) (by rw [arrived_pw, hh]), answered1_eq] at hrun
  refine act_of_run ht.1 rfl hrun ?_
  have hkal : (arrived s h .resume).resumed.kal = (arrived s h .resume).kal := (kal_of_noAnv (resumed_noAnv _)).trans rfl
  rw [kal_of_noNet (pumpAll_noNet _), answer_running, raise_kal, hkal, arrived_idle ht.1]

/-- Settles O31: SET_PHASE_OP and SET_GROUP_OP are checked against their tables, since no frequency is withheld while REFCLK
is not lost; and RESUME leads to `resumed`, whose event is the last thing it does. -/
theorem powerCommands : Obligations.PowerCommands := by
  unfold Obligations.PowerCommands
  intro s h phase op
  refine ⟨exec_setPhaseOp, exec_setGroupOp, fun ht hq hf hh => ⟨_, exec_resume ht hq hf hh, ?_⟩⟩
  obtain ⟨u, hu⟩ : ∃ u : State, u = arrived s h .resume := ⟨_, rfl⟩
  have hrest := resumed_noAnv u
  obtain ⟨hquench, hcause, hlim, hstate, hcd, hop⟩ := resumed_shown u
  rw [← hu]
  refine ⟨?_, ?_, ?_, ?_, ?_, ?_, fun a => ?_, ?_, ?_, ?_, ?_, ?_⟩
  · rw [quench, rdB, rd_raise _ _ _ _ _ (by decide), ← rdB, ← quench, hquench]
  · rw [rd_raise _ _ _ _ _ (by decide), hcause]
  · rw [rd_raise _ _ _ _ _ (by decide), hlim]
  · rw [rd_raise _ _ _ _ _ (by decide), hstate]
  · rw [rd_raise_apart (by decide), hcd]
  · rw [rd_raise _ _ _ _ _ (by decide), hop]
  · rw [raise_anv, point_resumed]
  · rw [raise_pw]; rw [pw_of_noAnv hrest, hu, arrived_pw]
  · rw [Raised, ← eventRec_resumed_arrived s h .resume, ← hu]; exact raise_logs ..
  · rw [raise_mem]; rw [mem_of_noAnv hrest, hu]; exact arrived_mem s h .resume
  · rw [raise_ops]; rw [ops_of_noAnv hrest, hu]; exact arrived_ops s h .resume
  · rw [raise_rings]; rw [rings_of_noAnv hrest, hu]; exact arrived_rings s h .resume

end Sys2Proof.Machine
end


section
/-!
Commands that any agent may send, which only read (R376, R393), and the owner's commands on rings, marks, queue pairs and
pages (R145, R303, R358, R514).
-/
namespace Sys2Proof.Machine

open State Sys2Proof.Safety

/-! What a checkpoint's work changes (R436, R438). -/

namespace State

/-- A state without what a checkpoint in flight changes: memory, the network, macro-ops in flight, and the queues of Sprigs. -/
def noCkpt (s : State) : State :=
  { s.noMem with net := netReset, sprigs := Vector.replicate 24 sprigReset, ckpts := [], ops := [] }

theorem noCkpt_of_noMem {s t : State} (h : t.noMem = s.noMem) : t.noCkpt = s.noCkpt :=
  congrArg (fun x : State => { x with net := netReset, sprigs := Vector.replicate 24 sprigReset, ckpts := [], ops := [] }) h

theorem noCkpt_of_noNet {s t : State} (h : t.noNet = s.noNet) : t.noCkpt = s.noCkpt := by rw [eq_of_noNet h]; rfl

theorem kal_of_noCkpt {s t : State} (h : t.noCkpt = s.noCkpt) : t.kal = s.kal := (congrArg State.kal h :)

theorem noteReady_noCkpt (s : State) : s.noteReady.noCkpt = s.noCkpt := by
  obtain ⟨v, hv⟩ : ∃ v, s.noteReady = { s with sprigs := v } := ⟨_, rfl⟩
  rw [hv]
  rfl

theorem modCkpt_noCkpt (s : State) (op : Nat) (f : Ckpt → Ckpt) : (s.modCkpt op f).noCkpt = s.noCkpt := rfl
theorem modEnt_noCkpt (s : State) (op i : Nat) (f : CkEnt → CkEnt) : (s.modEnt op i f).noCkpt = s.noCkpt := rfl
theorem opFlag_noCkpt (s : State) (id n : Nat) : (s.opFlag id n).noCkpt = s.noCkpt := rfl

theorem clearHold_noCkpt (s : State) (o : Op) (i : Nat) (c : CkEnt) : (s.clearHold o i c).noCkpt = s.noCkpt := by
  rw [clearHold]
  refine ite_keeps noCkpt _ rfl ?_
  have hstore (a x : Nat) : (s.storeHold o a x).noCkpt = s.noCkpt := noCkpt_of_noMem (store_noMem ..)
  rw [noteReady_noCkpt, modEnt_noCkpt, hstore]

theorem roceOut_noNet (s : State) (n : Nat) (f : Frame) : (s.roceOut n f).noNet = s.noNet := by
  rw [roceOut]
  split
  · rfl
  · exact ite_keeps noNet _ (sendFrame_noNet ..) rfl

theorem roceTransfer_noNet (s : State) (n own entry : Nat) (read : Bool) (place remote key len : Nat) (data : List Byte)
    (dies : List (Fin 2)) : (s.roceTransfer n own entry read place remote key len data dies).noNet = s.noNet := by
  refine foldl_keeps noNet _ (fun t i => ?_) _ _
  simp only [roceRequest]
  split
  · rfl
  · exact (roceOut_noNet ..).trans rfl

theorem sendImage_noCkpt (s : State) (o : Op) (i : Nat) (c : CkEnt) (bytes : List Byte) (dies : List (Fin 2)) :
    (s.sendImage o i c bytes dies).noCkpt = s.noCkpt := by
  rw [sendImage]
  refine ite_keeps noCkpt _ (noCkpt_of_noNet ?_) rfl
  exact (roceTransfer_noNet ..).trans (noNet_of_noCtl (inc_noCtl ..))

theorem drainEntry_noCkpt (s : State) (o : Op) (i : Nat) (c : CkEnt) : (s.drainEntry o i c).noCkpt = s.noCkpt := by
  have hreads (ls : List Nat) (t : State) : (ls.foldl (fun s l => s.readLine (ckptVia o) l) t).noCkpt = t.noCkpt :=
    foldl_keeps noCkpt _ (fun t l => noCkpt_of_noMem (readLine_noMem ..)) _ _
  simp only [drainEntry]
  refine ite_keeps noCkpt _ (ite_keeps noCkpt _ rfl (by rw [sendImage_noCkpt, modEnt_noCkpt])) ?_
  rw [sendImage_noCkpt]
  split
  · rw [clearHold_noCkpt, opFlag_noCkpt, modCkpt_noCkpt, modEnt_noCkpt, noCkpt_of_noMem (readLine_noMem ..), modEnt_noCkpt, hreads]
  · refine ite_keeps noCkpt _ ?_ ?_
    · rw [clearHold_noCkpt, modEnt_noCkpt, hreads]
    · rw [modEnt_noCkpt, hreads]

theorem fillEntry_noCkpt (s : State) (o : Op) (i : Nat) (c : CkEnt) : (s.fillEntry o i c).noCkpt = s.noCkpt := by
  simp only [fillEntry]
  exact foldl_keeps (fun x : State × Nat => x.1.noCkpt) _
    (fun (x : State × Nat) (p : Nat × Nat) => noCkpt_of_noNet (roceTransfer_noNet ..)) _ _

theorem ckptAdvance_noCkpt (op n : Nat) (s : State) : (ckptAdvance op n s).noCkpt = s.noCkpt := by
  induction n generalizing s with
  | zero => rfl
  | succ n ih =>
    rw [ckptAdvance]
    split
    · split
      · rfl
      · refine ite_keeps noCkpt _ rfl ((ih _).trans ?_)
        exact ite_keeps noCkpt _ (fillEntry_noCkpt ..) (drainEntry_noCkpt ..)
    · rfl

theorem ckptSettle_noCkpt (s : State) (op : Nat) : (s.ckptSettle op).noCkpt = s.noCkpt := by
  rw [ckptSettle]
  split
  next k o _ _ =>
    refine ite_keeps noCkpt _ rfl (ite_keeps noCkpt _ rfl ?_)
    have hwritten (t : List Byte) : (((s.takeDseq.store (ckptVia o) (kTab o.desc) t).modCkpt op fun k =>
        { k with table := true })).noCkpt = s.noCkpt :=
      (modCkpt_noCkpt ..).trans
        ((noCkpt_of_noMem (store_noMem ..)).trans (noCkpt_of_noMem (noMem_of_noCtl (takeDseq_noCtl s))))
    exact ite_keeps noCkpt _ ((noCkpt_of_noNet (roceTransfer_noNet ..)).trans (hwritten _)) (hwritten _)
  · rfl

theorem ckptFail_noCkpt (s : State) (n : Nat) (due : List RoceOut) (k : Ckpt) : (s.ckptFail n due k).noCkpt = s.noCkpt := by
  rw [ckptFail]
  split
  · rfl
  · rw [ckptSettle_noCkpt, noCkpt_of_noMem (noMem_of_noEvent (raise_noEvent ..)), noCkpt_of_noMem (noMem_of_noCtl (wrB_noCtl ..))]
    have hlost (l : List (CkEnt × Nat)) (o : Op) : (l.foldl (fun s (c, i) => (s.modEnt o.id i fun c =>
        { c with status := 3 }).clearHold o i c) s).noCkpt = s.noCkpt :=
      foldl_keeps noCkpt _ (fun t (x : CkEnt × Nat) => (clearHold_noCkpt (t.modEnt o.id x.2 _) o x.2 x.1).trans
        (modEnt_noCkpt ..)) _ _
    exact ite_keeps noCkpt _ ((noCkpt_of_noMem (store_noMem ..)).trans (hlost _ _)) (hlost _ _)

/-- A queue pair dropped changes what checkpoints do, and nothing else. -/
theorem qpDrop_noCkpt (s : State) (n : Nat) (left : Option Qp) : (s.qpDrop n left).noCkpt = s.noCkpt := by
  have hon (t : State) : t.ckptsGoOn.noCkpt = t.noCkpt :=
    foldl_keeps noCkpt _ (fun t (k : Ckpt) => (ckptSettle_noCkpt ..).trans (ckptAdvance_noCkpt ..)) _ _
  simp only [qpDrop]
  rw [hon]
  exact (foldl_keeps noCkpt _ (fun t (k : Ckpt) => ckptFail_noCkpt ..) _ _).trans rfl

/-! What a latch changes (R512). -/

theorem zeroWords_noCtl (s : State) (a n : Nat) : (s.zeroWords a n).noCtl = s.noCtl := rfl

theorem copyWords_noCtl (s : State) (dst src n : Nat) : (s.copyWords dst src n).noCtl = s.noCtl :=
  (foldl_keeps noCtl _ (fun _ (_ : Nat × Word) => setWord_noCtl ..) _ _).trans (zeroWords_noCtl ..)

theorem latchSlot_noCtl (s : State) (n : Nat) : (s.latchSlot n).noCtl = s.noCtl := by
  simp only [latchSlot, zeroWords_noCtl, copyWords_noCtl]

theorem latchDevice_noCtl (s : State) : s.latchDevice.noCtl = s.noCtl := by
  simp only [latchDevice, copyWords_noCtl, wr_noCtl, setWord_noCtl, settleTrk_noCtl]
  exact foldl_keeps noCtl _ (fun _ (_ : Nat × Nat × Nat) => (zeroWords_noCtl ..).trans (copyWords_noCtl ..)) _ _

theorem takeLead_kal (s : State) : s.takeLead.kal = s.kal := rfl
theorem takeSnap_kal (s : State) (slot : Fin 8) : (s.takeSnap slot).kal = s.kal := rfl

theorem latch_kal (s : State) (slot : Fin 8) (cmd : Bool) : (s.latch slot cmd).kal = s.kal := by
  have hslot : (((s.takeLead.takeSnap slot).takeDseq).latchSlot slot).kal = s.kal := by
    rw [kal_of_noCtl (latchSlot_noCtl ..), kal_of_noCtl (takeDseq_noCtl _), takeSnap_kal, takeLead_kal]
  have hdevice (v : Nat) : ((((s.takeLead.takeSnap slot).takeDseq).latchSlot slot).latchDevice.setWordsAt deviceBank 4 v).kal =
      s.kal := by rw [setWordsAt_kal, kal_of_noCtl (latchDevice_noCtl _), hslot]
  rw [latch]
  refine (setWordsAt_kal ..).trans ?_
  split
  · exact hdevice _
  · exact hslot

end State

section
variable {s : State} {h : KHdr}

/-! Rings, marks, queue pairs and pages. -/

/-- A value of the state that a resumed ring keeps. -/
theorem State.resumeRing_kal (s : State) (r : RingId) : (s.resumeRing r).kal = s.kal := by
  rw [resumeRing]
  refine ite_keeps State.kal _ rfl (ite_keeps State.kal _ ?_ ?_)
  · rw [wr_kal, wr_kal]; exact wrB_kal ..
  · rw [wr_kal]; exact wrB_kal ..

theorem exec_streamResume {ring : Byte} (ht : Takes s h (.streamResume ring)) (hr : ring.toNat < 48) :
    exec (.streamResume h ring) s = .next (replied s ((arrived s h (.streamResume ring)).resumeRing (Fin.ofNat 48 ring.toNat))
      h (.streamResume ring) .ok []) := by
  have hrun : (arrived s h (.streamResume ring)).kRun (ask h (.streamResume ring)) =
      answered1 (ask h (.streamResume ring)) ((arrived s h (.streamResume ring)).streamResume ring.toNat) := by
    rw [kRun, if_neg (permitted ht), cmd_of_reaches ht.1]
  rw [streamResume, if_neg (by omega), answered1_eq] at hrun
  exact act_of_answered ht.1 rfl hrun (by rw [resumeRing_kal, arrived_idle ht.1])

theorem exec_stepMarkCmd {slot : Byte} (ht : Takes s h (.stepMark slot)) (hr : slot.toNat < 8) (hs : s.slotState slot.toNat ≠ 0) :
    exec (.stepMarkCmd h slot) s = .next (replied s
        ((arrived s h (.stepMark slot)).latch (Fin.ofNat 8 slot.toNat) true) h (.stepMark slot) .ok []) := by
  have hfree : (arrived s h (.stepMark slot)).slotState slot.toNat ≠ 0 := by
    have hfield : ∀ n : Fin 8, apartFromArrival Reg.STR_SLOT_STATE_STATE n = true := by decide
    rw [slotState, rd_arrived _ _ _ (hfield ⟨_, hr⟩)]
    exact hs
  have hrun : (arrived s h (.stepMark slot)).kRun (ask h (.stepMark slot)) =
      answered1 (ask h (.stepMark slot)) ((arrived s h (.stepMark slot)).stepMarkNow slot.toNat) := by
    rw [kRun, if_neg (permitted ht), cmd_of_reaches ht.1]
  rw [stepMarkNow, if_neg (by simp [hfree]; omega), answered1_eq] at hrun
  exact act_of_answered ht.1 rfl hrun (by rw [latch_kal, arrived_idle ht.1])

theorem exec_qpBind {a : QpArgs} (ht : Takes s h (.qpBind a)) (hn : a.qp.toNat < 256) (hslot : a.slot.toNat < 8)
    (hp4 : 4 ≤ a.port.toNat) (hp8 : a.port.toNat < 8) (hretry : a.retry.toNat < 8) (hmtu : a.mtu.toNat ∈ [1024, 2048, 4096])
    (hfree : s.qpOf a.qp.toNat = none) :
    let u := arrived s h (.qpBind a)
    exec (.qpBind h a) s = .next (replied s { u with net := { u.net with
      qps := Tab.set (fun _ => none) u.net.qps a.qp.toNat
        (some ⟨a, a.sqPsn.toNat, a.rqPsn.toNat, false, [], 2 ^ 32⟩) } } h (.qpBind a) .ok []) := by
  have hfree' : (arrived s h (.qpBind a)).qpOf a.qp.toNat = none := by rw [qpOf, arrived_net]; exact hfree
  have hrun : (arrived s h (.qpBind a)).kRun (ask h (.qpBind a)) =
      answered1 (ask h (.qpBind a)) ((arrived s h (.qpBind a)).qpBind a) := by
    rw [kRun, if_neg (permitted ht), cmd_of_reaches ht.1]
  have hargs : ¬(255 < a.qp.toNat || 7 < a.slot.toNat || a.port.toNat < 4 || 7 < a.port.toNat || 7 < a.retry.toNat ||
      !([1024, 2048, 4096].contains a.mtu.toNat)) = true := by
    rw [List.contains_iff_mem.mpr hmtu]
    simp only [Bool.or_eq_true, decide_eq_true_eq, Bool.not_true, Bool.false_eq_true, or_false]
    omega
  rw [qpBind, if_neg hargs, hfree', answered1_eq] at hrun
  exact act_of_answered ht.1 rfl hrun (arrived_idle ht.1)

theorem exec_qpUnbind {qp : BitVec 16} (ht : Takes s h (.qpUnbind qp)) (hn : qp.toNat < 256) :
    exec (.qpUnbind h qp) s = .next (replied s ((arrived s h (.qpUnbind qp)).qpDrop qp.toNat none) h (.qpUnbind qp) .ok []) := by
  have hrun : (arrived s h (.qpUnbind qp)).kRun (ask h (.qpUnbind qp)) =
      answered1 (ask h (.qpUnbind qp)) ((arrived s h (.qpUnbind qp)).qpUnbind qp.toNat) := by
    rw [kRun, if_neg (permitted ht), cmd_of_reaches ht.1]
  rw [qpUnbind, if_neg (by omega), answered1_eq] at hrun
  exact act_of_answered ht.1 rfl hrun (by rw [kal_of_noCkpt (qpDrop_noCkpt ..), arrived_idle ht.1])

theorem exec_pageClear {page : Word} (ht : Takes s h (.pageClear page)) (hp : page.toNat < resPage)
    (he : (s.ent page.toNat).state = .poisoned) :
    exec (.pageClear h page) s = .next (replied s ((arrived s h (.pageClear page)).setEnt page.toNat
      { s.ent page.toNat with state := .mapped, touch := 0, heat := 0 }) h (.pageClear page) .ok []) := by
  have hent : (arrived s h (.pageClear page)).ent page.toNat = s.ent page.toNat := by rw [ent, arrived_ms, ent]
  have hrun : (arrived s h (.pageClear page)).kRun (ask h (.pageClear page)) =
      answered1 (ask h (.pageClear page)) ((arrived s h (.pageClear page)).pageClear page.toNat) := by
    rw [kRun, if_neg (permitted ht), cmd_of_reaches ht.1]
  have hclear : (arrived s h (.pageClear page)).clearPage page.toNat = some ((arrived s h (.pageClear page)).setEnt page.toNat
      { s.ent page.toNat with state := .mapped, touch := 0, heat := 0 }) := by
    rw [clearPage, hent]
    exact if_pos (by simp [hp, he])
  rw [pageClear, hclear, answered1_eq] at hrun
  exact act_of_answered ht.1 rfl hrun (arrived_idle ht.1)

end

/-- Settles O30: each command is taken and answers at once. -/
theorem ringsPairsAndPages : Obligations.RingsPairsAndPages := by
  unfold Obligations.RingsPairsAndPages
  intro s h ring slot a qp page
  exact ⟨exec_streamResume, exec_stepMarkCmd, exec_qpBind, exec_qpUnbind, exec_pageClear⟩

end Sys2Proof.Machine
end


section
/-!
The commands that any agent may send (R376, R393): what each is answered with.
-/
namespace Sys2Proof.Machine

open State Sys2Proof.Safety

section
variable {s : State} {h : KHdr}

theorem rdB_arrived (s : State) (h : KHdr) (c : KCmd) {f : Field} {i : Nat} (hf : apartFromArrival f i = true) :
    (arrived s h c).rdB f i = s.rdB f i := by rw [rdB, rd_arrived _ _ _ hf, rdB]

theorem copiesLive_arrived (s : State) (h : KHdr) (c : KCmd) : (arrived s h c).copiesLive = s.copiesLive := by
  rw [copiesLive, lifecycle, rd_arrived _ _ _ (by decide), rdB_arrived _ _ _ (by decide)]
  rfl

theorem curCopy_arrived (s : State) (h : KHdr) (c : KCmd) : (arrived s h c).curCopy = s.curCopy := by
  simp only [curCopy, copiesLive_arrived, arrived_flash]

theorem helloBytes_arrived (s : State) (h : KHdr) (c : KCmd) : (arrived s h c).helloBytes = s.helloBytes := by
  simp only [helloBytes, runningSlot, arrived_pw]
  rw [rd_arrived _ _ _ (by decide), rd_arrived _ _ _ (by decide), rd_arrived _ _ _ (by decide), rd_arrived _ _ _ (by decide)]

theorem exec_hello (ht : Takes s h .hello) :
    exec (.hello h) s = .next (replied s (arrived s h .hello) h .hello .ok s.helloBytes) := by
  have hrun : (arrived s h .hello).kRun (ask h .hello) = (arrived s h .hello).answer (ask h .hello) .ok (arrived s h .hello).helloBytes := by
    rw [kRun, if_neg (permitted ht), cmd_of_reaches ht.1]
  rw [helloBytes_arrived] at hrun
  exact act_of_answered ht.1 rfl hrun (arrived_idle ht.1)

theorem exec_readReg {a : Word} {n : BitVec 16} (ht : Takes s h (.readReg a n)) (h1 : 1 ≤ n.toNat) (h2 : n.toNat ≤ 500)
    (hr : ∀ i, i < n.toNat → hasReg (a.toNat + 4 * i) = true) : let u := arrived s h (.readReg a n)
    exec (.readReg h a n) s = .next (((u.answer (ask h (.readReg a n)) .ok ((List.range n.toNat).flatMap fun i =>
      toBytes 4 (u.peekReg (a.toNat + 4 * i) (decide (h.mbox.val < 2))).toNat)).tick).done s.pending) := by
  have hrun : (arrived s h (.readReg a n)).kRun (ask h (.readReg a n)) =
      let r := (arrived s h (.readReg a n)).readRegs a.toNat n.toNat (decide ((ask h (.readReg a n)).hdr.mbox.val < 2))
      ((arrived s h (.readReg a n)).answer (ask h (.readReg a n)) r.1 r.2).tick := by
    rw [kRun, if_neg (permitted ht), cmd_of_reaches ht.1]
  have hall : ((List.range n.toNat).map fun i => a.toNat + 4 * i).any (fun x => !hasReg x) = false := by
    simpa using hr
  rw [readRegs, if_neg (by rw [hall]; simp; omega), ask_mbox] at hrun
  simp only [List.flatMap_map] at hrun
  exact act_of_run ht.1 rfl hrun ((congrArg Kalec.running rfl).trans ((answer_running ..).trans (arrived_idle ht.1)))

theorem ownerBytes_arrived (s : State) (h : KHdr) (c : KCmd) : (arrived s h c).ownerBytes = s.ownerBytes := by
  simp only [ownerBytes, ctlBytes, leaseLeft, owned, choose, wordsAt, arrived_free]
  rw [rd_arrived _ _ _ (by decide), rd_arrived _ _ _ (by decide), word_arrived _ _ _ (by decide), word_arrived _ _ _ (by decide),
    word_arrived _ _ _ (by decide)]
  rfl

theorem exec_ownerInfo (ht : Takes s h .ownerInfo) : exec (.ownerInfo h) s =
    .next ((((arrived s h .ownerInfo).answer (ask h .ownerInfo) .ok s.ownerBytes).tick).done s.pending) := by
  have hrun : (arrived s h .ownerInfo).kRun (ask h .ownerInfo) =
      ((arrived s h .ownerInfo).answer (ask h .ownerInfo) .ok (arrived s h .ownerInfo).ownerBytes).tick := by
    rw [kRun, if_neg (permitted ht), cmd_of_reaches ht.1]
  rw [ownerBytes_arrived] at hrun
  exact act_of_run ht.1 rfl hrun ((congrArg Kalec.running rfl).trans ((answer_running ..).trans (arrived_idle ht.1)))

theorem exec_slagRead {a : Word} {n : BitVec 16} (ht : Takes s h (.slagRead a n)) (h1 : 1 ≤ n.toNat) (h2 : n.toNat ≤ 120)
    (h3 : a.toNat + n.toNat ≤ 65536) : exec (.slagRead h a n) s = .next (replied s (arrived s h (.slagRead a n)) h (.slagRead a n)
      .ok ((span a.toNat n.toNat).flatMap fun k => toBytes 16 (s.flash.slag.getD k (BitVec.allOnes 128)).toNat)) := by
  have hrun : (arrived s h (.slagRead a n)).kRun (ask h (.slagRead a n)) =
      let r := (arrived s h (.slagRead a n)).slagBytes a.toNat n.toNat
      (arrived s h (.slagRead a n)).answer (ask h (.slagRead a n)) r.1 r.2 := by
    rw [kRun, if_neg (permitted ht), cmd_of_reaches ht.1]
  rw [slagBytes, if_neg (by simp; omega), arrived_flash] at hrun
  exact act_of_answered ht.1 rfl hrun (arrived_idle ht.1)

theorem exec_configRead {off : BitVec 16} {i : Fin 2} (ht : Takes s h (.configRead off)) (hi : s.curCopy = some i) :
    exec (.configRead h off) s = .next (replied s (arrived s h (.configRead off)) h (.configRead off) .ok
        (State.copyHeader s.flash.cfg[i] ++ entryBytes ((s.flash.cfg[i].entries.drop off.toNat).take 244))) := by
  have hrun : (arrived s h (.configRead off)).kRun (ask h (.configRead off)) =
      let r := (arrived s h (.configRead off)).configBytes off.toNat
      (arrived s h (.configRead off)).answer (ask h (.configRead off)) r.1 r.2 := by
    rw [kRun, if_neg (permitted ht), cmd_of_reaches ht.1]
  rw [configBytes, curCopy_arrived, hi] at hrun
  simp only [arrived_flash] at hrun
  exact act_of_answered ht.1 rfl hrun (arrived_idle ht.1)

theorem eventSource_arrived (s : State) (h : KHdr) (c : KCmd) (n : Nat) (b : Word) :
    (arrived s h c).eventSource n b = s.eventSource n b := by
  simp only [eventSource, journalOf, arrived_flash, arrived_tel]

theorem exec_readEvents {a : Word} {n : BitVec 16} {boot : Option Word} {rs : List (BitVec 128)}
    (ht : Takes s h (.readEvents a n boot)) (hrs : s.eventSource a.toNat (boot.getD 0) = some rs) :
    let out := (rs.filter fun r => seqLe a.toNat (State.recSeq r)).take (min n.toNat (if h.ver = 3 then 125 else 126))
    let v := arrived s h (.readEvents a n boot)
    let now := decide (boot.getD 0 = 0 ∨ boot.getD 0 = s.flash.boot)
    exec (.readEvents h a n boot) s = .next (replied s
      (if now then v.returned (out.map State.recSeq) else v) h (.readEvents a n boot) .ok
      (toBytes 4 (((rs.head?).map State.recSeq).getD 0) ++ toBytes 4 (if now then s.tel.lost.toNat else 0) ++
        out.flatMap fun r => toBytes 16 r.toNat)) := by
  intro out v now
  have hrun : v.kRun (ask h (.readEvents a n boot)) =
      v.readEvents (ask h (.readEvents a n boot)) a.toNat n.toNat (boot.getD 0) := by
    rw [kRun, if_neg (permitted ht), cmd_of_reaches ht.1]
  have hver : (ask h (.readEvents a n boot)).hdr.ver = h.ver := by
    rw [ask, kPlain]
    split <;> simp
  have hidle : v.kal.running = none := arrived_idle ht.1
  simp only [readEvents, eventSource_arrived, v, hrs, hver, arrived_flash, arrived_tel] at hrun
  by_cases hnow : boot.getD 0 = 0 ∨ boot.getD 0 = s.flash.boot
  · have hb : (decide (boot.getD 0 = 0) || decide (boot.getD 0 = s.flash.boot)) = true := by simpa using hnow
    simp only [hb, if_true] at hrun
    simp only [now, hnow, decide_true, if_true]
    exact act_of_answered ht.1 rfl hrun hidle
  · have hb : (decide (boot.getD 0 = 0) || decide (boot.getD 0 = s.flash.boot)) = false := by simpa using hnow
    simp only [hb] at hrun
    simp only [now, hnow, decide_false]
    exact act_of_answered ht.1 rfl hrun hidle

end

/-- Settles O25: each command reads what the state held before the request arrived. -/
theorem kalecReads : Obligations.KalecReads := by
  unfold Obligations.KalecReads
  intro s h a n off boot
  exact ⟨exec_hello, exec_readReg, exec_ownerInfo, fun rs => exec_readEvents, exec_slagRead, fun i => exec_configRead⟩

end Sys2Proof.Machine
end


section
/-!
Changes of owner (R377 to R385): what a grant, an end of ownership and a token drawn leave.
-/
namespace Sys2Proof.Machine

open State Sys2Proof.Safety

/-! Tokens (R380). -/

/-- The number that a draw reaches, which passes over those of a list. -/
def passOver (l : List Nat) (x : Nat) : Nat := l.foldl (fun x e => if e ≤ x then x + 1 else x) x

theorem passOver_of_lt {l : List Nat} {x : Nat} (h : ∀ e ∈ l, x < e) : passOver l x = x := by
  induction l with
  | nil => rfl
  | cons e l ih =>
    rw [List.forall_mem_cons] at h
    rw [passOver, List.foldl_cons, if_neg (by omega), ← passOver, ih h.2]

/-- Passing over an ordered list ends beside it, and no further than its length. -/
theorem passOver_spec {l : List Nat} (hl : l.Pairwise (· < ·)) (x : Nat) :
    passOver l x ∉ l ∧ x ≤ passOver l x ∧ passOver l x ≤ x + l.length := by
  induction l generalizing x with
  | nil => simp [passOver]
  | cons e l ih =>
    obtain ⟨hfirst, hrest⟩ := List.pairwise_cons.mp hl
    by_cases he : e ≤ x
    · obtain ⟨hout, hle, hup⟩ := ih hrest (x + 1)
      have hstep : passOver (e :: l) x = passOver l (x + 1) := by rw [passOver, List.foldl_cons, if_pos he, ← passOver]
      rw [hstep, List.mem_cons, List.length_cons]
      exact ⟨by rintro (h | h); · omega
                · exact hout h, by omega, by omega⟩
    · have hself : passOver (e :: l) x = x := passOver_of_lt (List.forall_mem_cons.mpr
        ⟨by omega, fun a ha => by have := hfirst a ha; omega⟩)
      rw [hself, List.mem_cons, List.length_cons]
      exact ⟨by rintro (h | h); · omega
                · have := hfirst x h; omega, le_refl _, by omega⟩

theorem mem_insertSorted (k a : Nat) (l : List Nat) : a ∈ insertSorted k l ↔ a = k ∨ a ∈ l := by
  induction l with
  | nil => simp [insertSorted]
  | cons j l ih =>
    simp only [insertSorted]
    split_ifs with hlt heq
    · rw [List.mem_cons]
    · subst heq; simp
    · rw [List.mem_cons, ih, List.mem_cons]
      tauto

theorem pairwise_insertSorted (k : Nat) {l : List Nat} (h : l.Pairwise (· < ·)) : (insertSorted k l).Pairwise (· < ·) := by
  induction l with
  | nil => simp [insertSorted]
  | cons j l ih =>
    obtain ⟨hfirst, hrest⟩ := List.pairwise_cons.mp h
    simp only [insertSorted]
    split_ifs with hlt heq
    · refine List.pairwise_cons.mpr ⟨fun a ha => ?_, h⟩
      rcases List.mem_cons.mp ha with rfl | ha
      · exact hlt
      · exact hlt.trans (hfirst a ha)
    · exact h
    · refine List.pairwise_cons.mpr ⟨fun a ha => ?_, ih hrest⟩
      rcases (mem_insertSorted k a l).mp ha with rfl | ha
      · omega
      · exact hfirst a ha

/-- A token drawn is none of those drawn before, and stands among them from then on. -/
theorem drawToken_new {s : State} (hsort : s.kal.toks.Pairwise (· < ·)) (hlen : s.kal.toks.length < 2 ^ 32) :
    s.drawToken.kal.otok.toNat ∉ s.kal.toks ∧ s.drawToken.kal.otok.toNat ∈ s.drawToken.kal.toks ∧
      s.drawToken.kal.toks.Pairwise (· < ·) := by
  obtain ⟨x, hx⟩ : ∃ x : Nat, x = (Config.random s.free).toNat % (2 ^ 32 - s.kal.toks.length) := ⟨_, rfl⟩
  have hxlt : x < 2 ^ 32 - s.kal.toks.length := hx ▸ Nat.mod_lt _ (by omega)
  obtain ⟨hout, -, hup⟩ := passOver_spec hsort x
  have htok : s.drawToken.kal.otok.toNat = passOver s.kal.toks x := by
    show (BitVec.ofNat 32 (passOver s.kal.toks _)).toNat = _
    rw [← hx, BitVec.toNat_ofNat, Nat.mod_eq_of_lt (by omega)]
  have htoks : s.drawToken.kal.toks = insertSorted (passOver s.kal.toks x) s.kal.toks := by rw [hx]; rfl
  rw [htok, htoks]
  exact ⟨hout, (mem_insertSorted _ _ _).mpr (.inl rfl), pairwise_insertSorted _ hsort⟩

/-! The debug port closed (R488). -/

namespace State

/-- Whether a field is none of those that a change of the port state writes: the port, M3, and its count. -/
def apartFromPort (f : Field) (i : Nat) : Bool :=
  apart Reg.SEC_LC_PORT 0 f i && apart Reg.SEC_MEAS_CNT_COUNT 3 f i &&
    (decide (fieldAddr f i + 4 * fieldWords f ≤ 0x040160) || decide (0x040180 ≤ fieldAddr f i))

theorem rd_setWordsAt_apart (s : State) {a n v : Nat} {f : Field} {i : Nat}
    (h : fieldAddr f i + 4 * fieldWords f ≤ a ∨ a + 4 * n ≤ fieldAddr f i) : (s.setWordsAt a n v).rd f i = s.rd f i := by
  rw [rd, rd, wordsAt_setWordsAt_other _ _ (by omega)]

theorem rd_setPort (s : State) (p : Nat) {f : Field} {i : Nat} (h : apartFromPort f i = true) : (s.setPort p).rd f i = s.rd f i := by
  simp only [apartFromPort, Bool.and_eq_true, Bool.or_eq_true, decide_eq_true_eq] at h
  obtain ⟨⟨hport, hcount⟩, hmeas⟩ := h
  rw [setPort]
  refine ite_keeps (rd · f i) _ rfl ?_
  rw [extend, inc, rd_wr_other _ _ hcount, rd_setWordsAt_apart _ (by omega), rd_wr_other _ _ hport, rd_with_tap]

theorem rd_closePort (s : State) {f : Field} {i : Nat} (h : apartFromPort f i = true) : s.closePort.rd f i = s.rd f i := by
  rw [closePort]
  exact ite_keeps (rd · f i) _ (rd_setPort _ _ h) rfl

/-- A state without its control space and its TAP. -/
def noTap (s : State) : State := { s.noCtl with tap := tapReset }

theorem noTap_of_noCtl {s t : State} (h : t.noCtl = s.noCtl) : t.noTap = s.noTap :=
  congrArg (fun x : State => { x with tap := tapReset }) h

theorem extend_noCtl (s : State) (i : Nat) (d : List Byte) : (s.extend i d).noCtl = s.noCtl := by
  rw [extend, inc_noCtl, setWordsAt_noCtl]

theorem setPort_noTap (s : State) (p : Nat) : (s.setPort p).noTap = s.noTap := by
  rw [setPort]
  exact ite_keeps noTap _ rfl ((noTap_of_noCtl (extend_noCtl ..)).trans ((noTap_of_noCtl (wr_noCtl ..)).trans rfl))

theorem closePort_noTap (s : State) : s.closePort.noTap = s.noTap := by
  rw [closePort]
  exact ite_keeps noTap _ (setPort_noTap ..) rfl

theorem kal_of_noTap {s t : State} (h : t.noTap = s.noTap) : t.kal = s.kal := (congrArg State.kal h :)
theorem sec_of_noTap {s t : State} (h : t.noTap = s.noTap) : t.sec = s.sec := (congrArg State.sec h :)

/-! HRT_OWNER (R378). -/

/-- HRT_OWNER, HRT_OWNER_ID and countdown 1 set for a change of owner. -/
def ownerShown (s : State) (st prio mbox : Nat) (via : Bool) (id cd : Nat) : State :=
  (((((s.setOwnState st).wr Reg.HRT_OWNER_PRIORITY 0 prio).wr Reg.HRT_OWNER_MBOX 0 mbox).wrB Reg.HRT_OWNER_VIA_I3C 0 via).wr
    Reg.HRT_OWNER_ID_AGENT_ID 0 id).wr Reg.HRT_CD_HOLD_CD1 0 cd

theorem ownerShown_noCtl (s : State) (st prio mbox : Nat) (via : Bool) (id cd : Nat) :
    (s.ownerShown st prio mbox via id cd).noCtl = s.noCtl := by
  have hown : (s.setOwnState st).noCtl = s.noCtl := (wr_noCtl ..).trans (ite_keeps noCtl _ rfl (inc_noCtl ..))
  rw [ownerShown, wr_noCtl, wr_noCtl, wrB_noCtl, wr_noCtl, wr_noCtl, hown]

/-- What a change of owner shows. -/
theorem ownerShown_reads (s : State) {st prio mbox id cd : Nat} (via : Bool) (hst : st < 4) (hp : prio < 16) (hm : mbox < 16)
    (hid : id < 2 ^ 64) (hcd : cd < 4) : let t := s.ownerShown st prio mbox via id cd
    t.rd Reg.HRT_OWNER_STATE 0 = st ∧ t.rd Reg.HRT_OWNER_PRIORITY 0 = prio ∧ t.rd Reg.HRT_OWNER_MBOX 0 = mbox ∧
      t.rdB Reg.HRT_OWNER_VIA_I3C 0 = via ∧ t.rd Reg.HRT_OWNER_ID_AGENT_ID 0 = id ∧ t.rd Reg.HRT_CD_HOLD_CD1 0 = cd := by
  have hown {t : State} {f : Field} (v : Nat) (hf : 0 < f.len) (hv : v < 2 ^ f.len) : (t.wr f 0 v).rd f 0 = v :=
    (rd_wr_same _ _ _ _ hf).trans (Nat.mod_eq_of_lt hv)
  simp only [ownerShown, setOwnState]
  refine ⟨?_, ?_, ?_, ?_, ?_, hown _ (by decide) hcd⟩
  · rw [rd_wr_other _ _ (by decide), rd_wr_other _ _ (by decide), wrB, rd_wr_other _ _ (by decide), rd_wr_other _ _ (by decide),
      rd_wr_other _ _ (by decide), hown _ (by decide) hst]
  · rw [rd_wr_other _ _ (by decide), rd_wr_other _ _ (by decide), wrB, rd_wr_other _ _ (by decide), rd_wr_other _ _ (by decide),
      hown _ (by decide) hp]
  · rw [rd_wr_other _ _ (by decide), rd_wr_other _ _ (by decide), wrB, rd_wr_other _ _ (by decide), hown _ (by decide) hm]
  · rw [rdB, rd_wr_other _ _ (by decide), rd_wr_other _ _ (by decide), ← rdB, rdB_wrB_same _ _ _ _ rfl]
  · rw [rd_wr_other _ _ (by decide), hown _ (by decide) hid]

/-- A state with a token drawn for a new owner, before HRT_OWNER shows it (R380). -/
def tokenGiven (s : State) : State :=
  { s.drawToken with
    sec := { s.drawToken.sec with token := [] }
    kal := { s.drawToken.kal with hold15 := false, leaseDue := false } }

/-- The new owner shown, the port closed, and the event of the change. -/
def ownerSet (s : State) (q : Req) (prio : Nat) : State :=
  ((s.tokenGiven.ownerShown 2 prio q.hdr.mbox (decide (q.hdr.mbox.val < 2)) q.hdr.agent.toNat 1).closePort).noteOwner

theorem grant_eq (s : State) (q : Req) (prio : Nat) :
    s.grant q prio = (s.ownerSet q prio).answer q .ok (toBytes 4 (s.ownerSet q prio).kal.otok.toNat) := rfl

theorem rd_noteOwner (s : State) {f : Field} {i : Nat} (h : apartFromEvent f i = true) : s.noteOwner.rd f i = s.rd f i :=
  rd_raise_apart h ..

theorem ownerSet_kal (s : State) (q : Req) (prio : Nat) : (s.ownerSet q prio).kal = s.tokenGiven.kal := by
  rw [ownerSet, noteOwner, raise_kal, kal_of_noTap (closePort_noTap _), kal_of_noCtl (ownerShown_noCtl ..)]

theorem answer_otok (s : State) (q : Req) (st : KStat) (pl : List Byte) : (s.answer q st pl).kal.otok = s.kal.otok :=
  (congrArg (fun x : State => x.kal.otok) (answer_noReply s q st pl) :)

/-- Whether a field reads after a grant as the change of owner shows it. -/
def shownByGrant (f : Field) : Bool := apartFromAnswer f 0 && apartFromEvent f 0 && apartFromPort f 0

theorem rd_grant (s : State) (q : Req) (prio : Nat) {f : Field} (h : shownByGrant f = true) : (s.grant q prio).rd f 0 =
    (s.tokenGiven.ownerShown 2 prio q.hdr.mbox (decide (q.hdr.mbox.val < 2)) q.hdr.agent.toNat 1).rd f 0 := by
  simp only [shownByGrant, Bool.and_eq_true] at h
  obtain ⟨⟨hanswer, hevent⟩, hport⟩ := h
  rw [grant_eq, rd_answer _ _ _ _ hanswer, ownerSet, rd_noteOwner _ hevent, rd_closePort _ hport]

/-- A state as ownership ends, before HRT_OWNER shows it: any staging, token and lease gone (R379). -/
def ownerCleared (s : State) : State :=
  let x := if s.owned then s.dropStaging else s
  { x with sec := { x.sec with token := [] }, kal := { x.kal with leaseDue := false, hold15 := false } }

theorem ownerEnds_eq (s : State) (st : Nat) (id : DWord) :
    s.ownerEnds st id = (s.ownerCleared.ownerShown st 0 0 false id.toNat 0).closePort := rfl

theorem ownerCleared_otok (s : State) : s.ownerCleared.kal.otok = s.kal.otok := by
  show (if s.owned then s.dropStaging else s).kal.otok = _
  split <;> rfl

theorem ownerEnds_noTap (s : State) (st : Nat) (id : DWord) : (s.ownerEnds st id).noTap = s.ownerCleared.noTap := by
  rw [ownerEnds_eq, closePort_noTap, noTap_of_noCtl (ownerShown_noCtl ..)]

end State

/-- Settles O26: a grant and an end of ownership write HRT_OWNER, HRT_OWNER_ID and countdown 1 alike, and nothing after them
writes those; and a token is found by passing over those drawn before. -/
theorem ownersChange : Obligations.OwnersChange := by
  unfold Obligations.OwnersChange
  intro s q prio st id hprio
  refine ⟨?_, fun hsort _ _ hlen => drawToken_new hsort hlen, fun hst => ?_⟩
  · obtain ⟨h1, h2, h3, h4, h5, h6⟩ := ownerShown_reads s.tokenGiven (st := 2) (decide (q.hdr.mbox.val < 2)) (by decide) hprio
      q.hdr.mbox.isLt q.hdr.agent.isLt (cd := 1) (by decide)
    refine ⟨?_, ?_, ?_, ?_, ?_, ?_, ?_⟩
    · rw [rd_grant _ _ _ (by decide), h1]
    · rw [rd_grant _ _ _ (by decide), h2]
    · rw [rd_grant _ _ _ (by decide), h3]
    · rw [rdB, rd_grant _ _ _ (by decide), ← rdB, h4]
    · rw [rd_grant _ _ _ (by decide), h5]
    · rw [rd_grant _ _ _ (by decide), h6]
    · rw [grant_eq, answer_otok, ownerSet_kal]
      rfl
  · obtain ⟨h1, h2, h3, h4, h5, h6⟩ := ownerShown_reads s.ownerCleared (prio := 0) (mbox := 0) false hst (by decide) (by decide)
      id.isLt (cd := 0) (by decide)
    have hrest := ownerEnds_noTap s st id
    refine ⟨?_, ?_, ?_, ?_, ?_, ?_, ?_, ?_⟩
    · rw [ownerEnds_eq, rd_closePort _ (by decide), h1]
    · rw [ownerEnds_eq, rd_closePort _ (by decide), h2]
    · rw [ownerEnds_eq, rd_closePort _ (by decide), h3]
    · rw [ownerEnds_eq, rdB, rd_closePort _ (by decide), ← rdB, h4]
    · rw [ownerEnds_eq, rd_closePort _ (by decide), h5]
    · rw [ownerEnds_eq, rd_closePort _ (by decide), h6]
    · rw [kal_of_noTap hrest, ownerCleared_otok]
    · rw [sec_of_noTap hrest]
      rfl

end Sys2Proof.Machine
end


section
/-!
The commands and timers of ownership (R378 to R385).
-/
namespace Sys2Proof.Machine

open State Sys2Proof.Safety

namespace State

/-- A state with the claims of an open window as given. -/
def withClaims (s : State) (cs : List (KHdr × Nat)) : State := { s with kal := { s.kal with claims := cs } }

theorem withClaims_noCtl {s t : State} (h : t.noCtl = s.noCtl) (cs : List (KHdr × Nat)) :
    (t.withClaims cs).noCtl = (s.withClaims cs).noCtl := (congrArg (withClaims · cs) h :)

theorem word_withClaims (s : State) (cs : List (KHdr × Nat)) (a : Nat) : (s.withClaims cs).word a = s.word a := word_with_kal ..

theorem rd_withClaims (s : State) (cs : List (KHdr × Nat)) (f : Field) (i : Nat) : (s.withClaims cs).rd f i = s.rd f i :=
  rd_with_kal ..

theorem withClaims_pending (s : State) (cs : List (KHdr × Nat)) : (s.withClaims cs).pending = s.pending := rfl

theorem withClaims_running (s : State) (cs : List (KHdr × Nat)) : (s.withClaims cs).kal.running = s.kal.running := rfl

/-- Answers to a list of claims leave what executes. -/
theorem foldl_answer_running (cs : List (KHdr × Nat)) (s : State) :
    (cs.foldl (fun (x : State) c => x.answer (claimReq c) (.busy 1 0) []) s).kal.running = s.kal.running :=
  foldl_keeps (fun x : State => x.kal.running) _ (fun _ (_ : KHdr × Nat) => answer_running ..) _ _

theorem ownerCleared_running (s : State) : s.ownerCleared.kal.running = s.kal.running := by
  show (if s.owned then s.dropStaging else s).kal.running = _
  split <;> rfl

theorem ownerEnds_running (s : State) (st : Nat) (id : DWord) : (s.ownerEnds st id).kal.running = s.kal.running := by
  rw [kal_of_noTap (ownerEnds_noTap ..), ownerCleared_running]

theorem noteOwner_kal (s : State) : s.noteOwner.kal = s.kal := raise_kal ..

end State

section
variable {s : State} {h : KHdr}

theorem arrived_pending (s : State) (h : KHdr) (c : KCmd) : (arrived s h c).pending = s.pending := by rw [arrived_form]

theorem ownState_arrived (s : State) (h : KHdr) (c : KCmd) : (arrived s h c).ownState = s.ownState :=
  rd_arrived _ _ _ (by decide)

theorem ownerId_arrived (s : State) (h : KHdr) (c : KCmd) : (arrived s h c).ownerId = s.ownerId :=
  rd_arrived _ _ _ (by decide)

/-- A claim joins the window of a vacancy, or opens it (R381). -/
theorem exec_claim {p : Byte} {u : State} (hu : u = arrived s h (.claim p)) (ht : Takes s h (.claim p)) (hp : p.toNat ≤ 15)
    (hbox : p.toNat = 15 → h.mbox.val < 2) (hst : s.ownState ≤ 1) :
    ∃ t, exec (.claim h p) s = .next t ∧ t.rd Reg.HRT_OWNER_STATE 0 = 1 ∧
      RegsOnly ((u.wr Reg.HRT_OWNER_STATE 0 1).withClaims (s.kal.claims ++ [((ask h (.claim p)).hdr, p.toNat)])) t [0x000100] := by
  obtain ⟨x, hx⟩ : ∃ x : State, x = if u.ownState = 0 then u.wr Reg.HRT_OWNER_STATE 0 1 else u := ⟨_, rfl⟩
  have hown : u.ownState = s.ownState := hu ▸ ownState_arrived ..
  have hclaims : u.kal.claims = s.kal.claims := by rw [hu, arrived_kal]
  have hxkal : x.kal = u.kal := by rw [hx]; exact ite_keeps State.kal _ (wr_kal ..) rfl
  have hrun : u.kRun (ask h (.claim p)) =
      x.withClaims (s.kal.claims ++ [((ask h (.claim p)).hdr, p.toNat)]) := by
    have hclaim : u.kRun (ask h (.claim p)) = u.claim (ask h (.claim p)) p.toNat := by
      rw [hu, kRun, if_neg (permitted ht), cmd_of_reaches ht.1]
    rw [hclaim, claim, if_neg (by rw [ask_mbox]; simp; omega), if_pos (hown ▸ hst), ← hclaims, ← hxkal, hx]
    rfl
  have hxst : x.rd Reg.HRT_OWNER_STATE 0 = 1 := by
    rw [hx]
    split
    · rw [rd_wr_same _ _ _ _ (by decide)]; rfl
    · have : u.rd Reg.HRT_OWNER_STATE 0 = u.ownState := rfl
      omega
  have hxv : x.noCtl = (u.wr Reg.HRT_OWNER_STATE 0 1).noCtl := by
    rw [wr_noCtl, hx]
    exact ite_keeps noCtl _ (wr_noCtl ..) rfl
  refine ⟨_, act_of_run ht.1 hu hrun ?_, ?_, ?_⟩
  · rw [withClaims_running, hxkal, hu, arrived_idle ht.1]
  · rw [done_rd _ (by decide), rd_withClaims, hxst]
  · have hpend : ((u.wr Reg.HRT_OWNER_STATE 0 1).withClaims
        (s.kal.claims ++ [((ask h (.claim p)).hdr, p.toNat)])).pending = s.pending := by
      rw [withClaims_pending, wr_pending, hu, arrived_pending]
    rw [← hpend]
    refine done_regsOnly (withClaims_noCtl hxv _) fun a ha => ?_
    have hw : (u.wr Reg.HRT_OWNER_STATE 0 1).word a = u.word a := word_wr_listed ha (by decide)
    rw [word_withClaims, word_withClaims, hw, hx]
    exact ite_keeps (word · a) _ hw rfl

theorem exec_claimWindowClose {w : KHdr × Nat} (hs : s.kalecServes = true) (hst : s.ownState = 1)
    (hw : winner s.kal.claims = some w) : exec .claimWindowClose s = .next (((s.kal.claims.filter (· != w)).foldl
      (fun (x : State) c => x.answer (claimReq c) (.busy 1 0) [])
      (({ s with kal := { s.kal with claims := [] } }).grant (claimReq w) w.2)).done s.pending) := by
  show act s (if s.kalecServes && s.ownState == 1 then s.windowClose else s) = _
  rw [if_pos (by simp [hs, hst]), windowClose, hw, act_next]

theorem exec_yield {succ : DWord} {reserve : Byte} (ht : Takes s h (.yield succ reserve)) (h1 : 1 ≤ reserve.toNat)
    (h2 : reserve.toNat ≤ 100) (hid : succ.toNat ≠ s.ownerId) : exec (.yield h succ reserve) s = .next (replied s
      ((arrived s h (.yield succ reserve)).ownerEnds (if succ = 0 then 0 else 3) succ).noteOwner h (.yield succ reserve) .ok []) := by
  have hrun : (arrived s h (.yield succ reserve)).kRun (ask h (.yield succ reserve)) =
      answered1 (ask h (.yield succ reserve)) ((arrived s h (.yield succ reserve)).yieldOwner succ reserve.toNat) := by
    rw [kRun, if_neg (permitted ht), cmd_of_reaches ht.1]
  rw [yieldOwner, ownerId_arrived, if_neg (by simp [hid]; omega), answered1_eq] at hrun
  exact act_of_answered ht.1 rfl hrun (by rw [noteOwner_kal, ownerEnds_running, arrived_idle ht.1])

theorem exec_keepalive (ht : Takes s h .keepalive) :
    exec (.keepalive h) s = .next (replied s (arrived s h .keepalive) h .keepalive .ok []) := by
  have hrun : (arrived s h .keepalive).kRun (ask h .keepalive) = (arrived s h .keepalive).answer (ask h .keepalive) .ok [] := by
    rw [kRun, if_neg (permitted ht), cmd_of_reaches ht.1]
  exact act_of_answered ht.1 rfl hrun (arrived_idle ht.1)

theorem exec_forceVacate {hold : Byte} {x v : State} (hx : x = arrived s h (.forceVacate hold))
    (hv : v = (x.withClaims []).ownerEnds (if hold = 1 then 3 else 0) 0) (ht : Takes s h (.forceVacate hold))
    (hm : h.mbox.val < 2) (hh : hold.toNat ≤ 1) : exec (.forceVacate h hold) s = .next (replied s
      (s.kal.claims.foldl (fun (x : State) c => x.answer (claimReq c) (.busy 1 0) [])
        ({ v with kal := { v.kal with hold15 := hold == 1 } }).noteOwner) h (.forceVacate hold) .ok []) := by
  have hrun : x.kRun (ask h (.forceVacate hold)) =
      answered1 (ask h (.forceVacate hold)) (x.vacate (ask h (.forceVacate hold)).hdr.mbox hold.toNat) := by
    rw [hx, kRun, if_neg (permitted ht), cmd_of_reaches ht.1]
  have hclaims : x.kal.claims = s.kal.claims := by rw [hx, arrived_kal]
  have hone : (hold.toNat = 1) = (hold = 1) := propext ⟨fun e => BitVec.eq_of_toNat_eq e, fun e => e ▸ rfl⟩
  have hbool : (hold.toNat == 1) = (hold == 1) := Bool.eq_iff_iff.mpr (by simp only [beq_iff_eq, hone])
  have hvacate : x.vacate h.mbox hold.toNat = (s.kal.claims.foldl (fun (x : State) c => x.answer (claimReq c) (.busy 1 0) [])
        ({ v with kal := { v.kal with hold15 := hold == 1 } }).noteOwner, .ok) := by
    rw [vacate, if_neg (by omega), if_neg (by omega)]
    simp only [hclaims, hone, hbool]
    rw [← withClaims, ← hv]
  rw [ask_mbox, hvacate, answered1_eq] at hrun
  have hidle : v.kal.running = none := by rw [hv, ownerEnds_running, withClaims_running, hx, arrived_idle ht.1]
  refine act_of_answered ht.1 hx hrun ?_
  rw [foldl_answer_running, noteOwner_kal]
  exact hidle

theorem exec_leaseExpire_executing {q : Req} (hs : s.kalecServes = true) (ho : s.owned = true) (hq : s.kal.running = some q) :
    ∃ t, exec .leaseExpire s = .next t ∧ RegsOnly { s with kal := { s.kal with leaseDue := true } } t [] := by
  have hact : exec .leaseExpire s = act s { s with kal := { s.kal with leaseDue := true } } := by
    show act s s.leaseExpire = _
    rw [leaseExpire, if_neg (by simp [hs, ho]), if_pos (by simp [hq])]
  exact ⟨_, hact.trans (act_next ..), done_regsOnly (s := { s with kal := { s.kal with leaseDue := true } }) rfl fun _ _ => rfl⟩

theorem exec_leaseExpire (hs : s.kalecServes = true) (ho : s.owned = true) (hq : s.kal.running = none) :
    exec .leaseExpire s = .next (((s.ownerEnds 0 0).raise 0x0602 0 none (s.ownerId % 2 ^ 32)).done s.pending) := by
  show act s s.leaseExpire = _
  rw [leaseExpire, if_neg (by simp [hs, ho]), if_neg (by simp [hq]), leaseEnds, act_next]

theorem exec_reservationElapse (hs : s.kalecServes = true) (hst : s.ownState = 3) :
    exec .reservationElapse s = .next ((s.ownerEnds 0 0).noteOwner.done s.pending) := by
  show act s s.reservationEnds = _
  rw [reservationEnds, if_neg (by simp [hs, hst]), act_next]

end

/-- Settles O27: each command of a request is taken and answers at once, but for a claim, which waits for the window's close. -/
theorem ownership : Obligations.Ownership := by
  unfold Obligations.Ownership
  intro s h p reserve hold succ
  exact ⟨exec_claim rfl, fun w => exec_claimWindowClose, exec_yield, exec_keepalive, exec_forceVacate rfl rfl,
    fun q => exec_leaseExpire_executing, exec_leaseExpire, exec_reservationElapse⟩

end Sys2Proof.Machine
end


section
/-!
Job slots (R386 to R388): a slot's commands are taken at once, and a stop or a close is answered when its slot has nothing
in flight.
-/
namespace Sys2Proof.Machine

open State Sys2Proof.Safety

theorem State.kal_of_noMem {s t : State} (h : t.noMem = s.noMem) : t.kal = s.kal := by rw [eq_of_noMem h]
theorem State.slots_of_noMem {s t : State} (h : t.noMem = s.noMem) : t.slots = s.slots := by rw [eq_of_noMem h]

section
variable {s : State} {h : KHdr}

theorem apartFromArrival_slotState (n : Fin 8) : apartFromArrival Reg.STR_SLOT_STATE_STATE n = true := by revert n; decide

theorem slotState_arrived (s : State) (h : KHdr) (c : KCmd) (n : Fin 8) : (arrived s h c).slotState n = s.slotState n :=
  rd_arrived _ _ _ (apartFromArrival_slotState n)

theorem exec_slotOpen_fresh {slot : Byte} {n : Fin 8} (hn : n.val = slot.toNat) (ht : Takes s h (.slotOpen slot 0))
    (hs : s.slotState n = 0) (hp : s.rd Reg.SEC_LC_PORT 0 ≠ 2) {u v : State} {snap : Option Snap}
    (hu : u = arrived s h (.slotOpen slot 0))
    (hsnap : snap = if s.stagePart 0 = 0 then none else some ⟨0, [], List.replicate 4096 0, 0⟩)
    (hv : v = { u with slots := u.slots.set n ⟨0, some s.free, [], [], snap⟩ }) :
    exec (.slotOpen h slot 0) s = .next (replied s (((v.setWordsAt (0x081000 + 8 * n.val) 2 0).wr Reg.STR_SLOT_STATE_STATE n
      1).tickN 4096) h (.slotOpen slot 0) .ok []) := by
  have hrun : u.kRun (ask h (.slotOpen slot 0)) = answered1 (ask h (.slotOpen slot 0)) (u.slotOpen slot.toNat 0) := by
    rw [hu, kRun, if_neg (permitted ht), cmd_of_reaches ht.1]
    rfl
  have hfin : Fin.ofNat 8 slot.toNat = n := Fin.ext (by rw [Fin.val_ofNat, ← hn]; exact Nat.mod_eq_of_lt n.isLt)
  have hstate : u.slotState slot.toNat = 0 := by rw [hu, ← hn, slotState_arrived, hs]
  have hport : u.rd Reg.SEC_LC_PORT 0 ≠ 2 := by rw [hu, rd_arrived _ _ _ (by decide)]; exact hp
  have hstage : u.stagePart 0 = s.stagePart 0 := by rw [stagePart, hu, arrived_ms, stagePart]
  have hfree : u.free = s.free := by rw [hu, arrived_free]
  have hopen : u.openWith n 0 0 (List.replicate 4096 0) (some u.free) [] [] =
      (v.setWordsAt (0x081000 + 8 * n.val) 2 0).wr Reg.STR_SLOT_STATE_STATE n 1 := by
    rw [hv, hsnap, ← hstage, ← hfree]
    rfl
  have hidle : (((v.setWordsAt (0x081000 + 8 * n.val) 2 0).wr Reg.STR_SLOT_STATE_STATE n 1).tickN 4096).kal.running = none := by
    show ((v.setWordsAt (0x081000 + 8 * n.val) 2 0).wr Reg.STR_SLOT_STATE_STATE n 1).kal.running = none
    rw [wr_kal, setWordsAt_kal, hv]
    show u.kal.running = none
    rw [hu, arrived_idle ht.1]
  rw [slotOpen, hfin, if_neg (by omega), if_neg (by rw [hstate]; simp), if_neg hport, if_pos rfl, hopen, answered1_eq] at hrun
  exact act_of_answered ht.1 hu hrun hidle

theorem exec_slotStart {slot : Byte} {n : Fin 8} (hn : n.val = slot.toNat) (ht : Takes s h (.slotStart slot))
    (hs : s.slotState n = 1) (hc : s.rd Reg.HRT_CFG_SEQ_SEQ 0 ≠ 0) :
    exec (.slotStart h slot) s = .next (replied s ((arrived s h (.slotStart slot)).wr Reg.STR_SLOT_STATE_STATE n
      (if s.rd Reg.STR_SLOT_STATE_HALTED n = 0 then 2 else 3)) h (.slotStart slot) .ok []) := by
  obtain ⟨u, hu⟩ : ∃ u : State, u = arrived s h (.slotStart slot) := ⟨_, rfl⟩
  have hrun : u.kRun (ask h (.slotStart slot)) = answered1 (ask h (.slotStart slot)) (u.slotStart slot.toNat) := by
    rw [hu, kRun, if_neg (permitted ht), cmd_of_reaches ht.1]
  have hfield : ∀ n : Fin 8, apartFromArrival Reg.STR_SLOT_STATE_HALTED n = true := by decide
  have hstate : u.slotState n = 1 := by rw [hu, slotState_arrived, hs]
  have hcfg : u.rd Reg.HRT_CFG_SEQ_SEQ 0 ≠ 0 := by rw [hu, rd_arrived _ _ _ (by decide)]; exact hc
  have hhalt : u.rd Reg.STR_SLOT_STATE_HALTED n = s.rd Reg.STR_SLOT_STATE_HALTED n := by rw [hu, rd_arrived _ _ _ (hfield n)]
  rw [← hn, slotStart, if_neg (by omega), if_neg (by rw [hstate]; simp), if_neg hcfg, hhalt, answered1_eq] at hrun
  rw [← hu]
  exact act_of_answered ht.1 hu hrun (by rw [wr_kal, hu, arrived_idle ht.1])

/-- The cursor that a slot's record gives, zero where the slot keeps none (R428). -/
def State.recordCursor (w : State) (n : Fin 8) (a : Nat) : List Byte :=
  if w.cursorBase n = 0 then List.replicate 4096 0 else w.bytesAt (a + 64) 4096

/-- A slot opened with what its record gives (R431). -/
def State.openedWith (w : State) (n : Fin 8) (a : Nat) : State :=
  w.openWith n (BitVec.ofNat 64 (w.peek a 8)) (BitVec.ofNat 64 (w.peek (a + 8) 8)) (w.recordCursor n a) none
    (tabOf fun i => BitVec.ofNat 128 (w.peek (a + 4160 + 24 * i) 16)) (tabOf fun i => BitVec.ofNat 64 (w.peek (a + 4176 + 24 * i) 8))

/-- A slot opened from its record, whose cursor is written where the slot keeps one. -/
def State.openedFrom (w : State) (n : Fin 8) (a : Nat) : State :=
  if w.cursorBase n = 0 then w.openedWith n a
  else (w.openedWith n a).store ⟨0, some n, false, 0⟩ (w.cursorBase n) (w.recordCursor n a)

theorem State.openWith_noCtl (s : State) (n : Fin 8) (steps energy : DWord) (cursor : List Byte) (drawn : Option Nat)
    (keys : Tab (BitVec 128)) (ctrs : Tab DWord) : (s.openWith n steps energy cursor drawn keys ctrs).noCtl =
      ({ s with slots := s.slots.set n ⟨steps, drawn, keys, ctrs,
        if s.stagePart 0 = 0 then none else some ⟨steps, ctrs, cursor, energy⟩⟩ } : State).noCtl := by
  rw [openWith, wr_noCtl, setWordsAt_noCtl]

theorem State.openWith_slotState (s : State) (n : Fin 8) (steps energy : DWord) (cursor : List Byte) (drawn : Option Nat)
    (keys : Tab (BitVec 128)) (ctrs : Tab DWord) : (s.openWith n steps energy cursor drawn keys ctrs).slotState n = 1 := by
  rw [openWith, slotState, rd_wr_same _ _ _ _ (by decide)]
  rfl

theorem State.openWith_slots (s : State) (n : Fin 8) (steps energy : DWord) (cursor : List Byte) (drawn : Option Nat)
    (keys : Tab (BitVec 128)) (ctrs : Tab DWord) : (s.openWith n steps energy cursor drawn keys ctrs).slots[n].steps = steps ∧
      (s.openWith n steps energy cursor drawn keys ctrs).slots[n].drawn = drawn := by
  rw [slots_of_noCtl (openWith_noCtl ..)]
  simp

theorem State.openedWith_slots (w : State) (n : Fin 8) (a : Nat) :
    (w.openedWith n a).slots[n].steps = BitVec.ofNat 64 (w.peek a 8) ∧ (w.openedWith n a).slots[n].drawn = none := by
  rw [openedWith]
  exact openWith_slots ..

theorem State.openWith_kal (s : State) (n : Fin 8) (steps energy : DWord) (cursor : List Byte) (drawn : Option Nat)
    (keys : Tab (BitVec 128)) (ctrs : Tab DWord) : (s.openWith n steps energy cursor drawn keys ctrs).kal = s.kal := by
  rw [kal_of_noCtl (openWith_noCtl ..)]

theorem State.openedWith_kal (w : State) (n : Fin 8) (a : Nat) : (w.openedWith n a).kal = w.kal := by
  rw [openedWith, openWith_kal]

theorem State.openedFrom_noMem (w : State) (n : Fin 8) (a : Nat) : (w.openedFrom n a).noMem = (w.openedWith n a).noMem := by
  rw [openedFrom]
  exact ite_keeps noMem _ rfl (store_noMem ..)

theorem State.openedFrom_slotState (w : State) (n : Fin 8) (a : Nat) : (w.openedFrom n a).slotState n = 1 := by
  have hfield : ∀ n : Fin 8, quietMem Reg.STR_SLOT_STATE_STATE n = true := by decide
  have hdoor : offDoorbells Reg.STR_SLOT_STATE_STATE n := fun q => by
    simp only [fieldAddr, fieldWords, Reg.STR_SLOT_STATE_STATE]; omega
  have hst : (w.openedWith n a).slotState n = 1 := by rw [openedWith, openWith_slotState]
  rw [openedFrom, ← hst]
  exact ite_keeps (slotState · n) _ rfl (rd_store _ _ _ _ (hfield n) hdoor)

theorem State.answer_slots (s : State) (q : Req) (st : KStat) (pl : List Byte) : (s.answer q st pl).slots = s.slots :=
  (congrArg State.slots (answer_noReply s q st pl) :)

theorem State.slotOpen_record {u w : State} {n : Fin 8} {a : Nat} (hstate : u.slotState n = 0)
    (hport : u.rd Reg.SEC_LC_PORT 0 ≠ 2) (hne : a ≠ 0) (hal : a % 64 = 0) (hau : a + 102464 ≤ 2 ^ 41)
    (hw : w = u.readRange ⟨0, some n, false, 0⟩ a 102464) (hpois : w.poisoned a 102464 = false)
    (hzero : w.peek (a + 16) 48 = 0) : u.slotOpen n a = (w.openedFrom n a, .ok) := by
  have hfin : Fin.ofNat 8 n.val = n := Fin.ext (Nat.mod_eq_of_lt n.isLt)
  rw [slotOpen, if_neg (by omega), if_neg (by rw [hstate]; simp), if_neg hport, if_neg hne, if_neg (by simp; omega), hfin]
  simp only [← hw, hpois, hzero, Bool.false_eq_true, ne_eq, not_true_eq_false, if_false]
  rw [openedFrom, openedWith, recordCursor]

theorem exec_slotOpen_record {slot : Byte} {n : Fin 8} {a : BitVec 48} (hn : n.val = slot.toNat)
    (ht : Takes s h (.slotOpen slot a)) (hs : s.slotState n = 0) (hp : s.rd Reg.SEC_LC_PORT 0 ≠ 2) (ha0 : a ≠ 0)
    (hal : a.toNat % 64 = 0) (hau : a.toNat + 102464 ≤ 2 ^ 41) {u w : State} (hu : u = arrived s h (.slotOpen slot a))
    (hw : w = u.readRange ⟨0, some n, false, 0⟩ a.toNat 102464) (hpois : w.poisoned a.toNat 102464 = false)
    (hzero : w.peek (a.toNat + 16) 48 = 0) : ∃ t, exec (.slotOpen h slot a) s = .next t ∧
      t.slotState n = 1 ∧ t.slots[n].steps = BitVec.ofNat 64 (w.peek a.toNat 8) ∧ t.slots[n].drawn = none ∧
      t.kal.boxes[h.mbox].kept.map (·.status) = some 0 := by
  have hrun : u.kRun (ask h (.slotOpen slot a)) = answered1 (ask h (.slotOpen slot a)) (u.slotOpen slot.toNat a.toNat) := by
    rw [hu, kRun, if_neg (permitted ht), cmd_of_reaches ht.1]
  have hstate : u.slotState n = 0 := by rw [hu, slotState_arrived, hs]
  have hport : u.rd Reg.SEC_LC_PORT 0 ≠ 2 := by rw [hu, rd_arrived _ _ _ (by decide)]; exact hp
  have hne : a.toNat ≠ 0 := fun e => ha0 (BitVec.eq_of_toNat_eq e)
  have hopen : u.slotOpen n a.toNat = (w.openedFrom n a.toNat, .ok) :=
    slotOpen_record hstate hport hne hal hau hw hpois hzero
  obtain ⟨hsteps, hdrawn⟩ := w.openedWith_slots n a.toNat
  have hmem := w.openedFrom_noMem n a.toNat
  have hkalu : (w.openedFrom n a.toNat).kal = (arrived s h (.slotOpen slot a)).kal := by
    rw [kal_of_noMem hmem, openedWith_kal, hw, kal_of_noMem (readRange_noMem ..), hu]
  rw [← hn, hopen, answered1_eq] at hrun
  have hcur : (w.openedFrom n a.toNat).kal.boxes[(ask h (.slotOpen slot a)).hdr.mbox].cur = some (ask h (.slotOpen slot a)) := by
    rw [hkalu, arrived_cur]
  have hown : ∀ n : Fin 8, ownField Reg.STR_SLOT_STATE_STATE n = true ∧ apartFromAnswer Reg.STR_SLOT_STATE_STATE n = true := by decide
  refine ⟨_, act_of_answered ht.1 hu hrun (by rw [hkalu, arrived_idle ht.1]), ?_, ?_, ?_, ?_⟩
  · rw [slotState, replied, done_rd _ (hown n).1, rd_answer _ _ _ _ (hown n).2]
    exact openedFrom_slotState w n a.toNat
  · rw [replied, done_slots, answer_slots, slots_of_noMem hmem]
    exact hsteps
  · rw [replied, done_slots, answer_slots, slots_of_noMem hmem]
    exact hdrawn
  · rw [replied, done_kal, answer_kal hcur]
    simp [boxesAfter, keptResp, kStatus]

/-- What a command that executes on leads to, once what it leaves executing has ended where it can, is the outcome of its
request. -/
theorem act_of_executing {c : KCmd} (hr : Reaches s h c) {x t : State} (hx : x = arrived s h c)
    (hrun : x.kRun (ask h c) = t) : act s (s.kRequest h c) = .next (t.slotSettle.done s.pending) := by
  subst hx
  rw [kRequest_of_reaches hr, hrun, act_next]

/-- A slot stops, and its command is answered where nothing of it is in flight (R387). -/
theorem exec_slotStop {slot : Byte} {n : Fin 8} (hn : n.val = slot.toNat) (ht : Takes s h (.slotStop slot)) (hs : 2 ≤ s.slotState n)
    {u v : State} (hu : u = (arrived s h (.slotStop slot)).wr Reg.STR_SLOT_STATE_STATE n 1)
    (hv : v = { u with kal := { u.kal with running := some (ask h (.slotStop slot)) } }) :
    exec (.slotStop h slot) s = .next (if s.slotOps n = [] then
      (v.answer (ask h (.slotStop slot)) .ok []).runEnds.done s.pending else v.done s.pending) := by
  obtain ⟨x, hx⟩ : ∃ x : State, x = arrived s h (.slotStop slot) := ⟨_, rfl⟩
  have hstate : x.slotState n = s.slotState n := by rw [hx, slotState_arrived]
  rw [← hx] at hu
  have hrun : x.kRun (ask h (.slotStop slot)) = v := by
    have hstop : x.kRun (ask h (.slotStop slot)) = x.stopSlot (ask h (.slotStop slot)) slot.toNat := by
      rw [hx, kRun, if_neg (permitted ht), cmd_of_reaches ht.1]
    rw [hstop, ← hn, stopSlot, if_neg (by omega), if_neg (by omega), hv, hu, wr_kal]
  have hops : v.slotOps n = s.slotOps n := by
    have hvops : v.ops = s.ops := by
      rw [hv]
      show u.ops = s.ops
      rw [hu, wr_ops, hx, arrived_ops]
    rw [slotOps, hvops, slotOps]
  have hrunning : v.kal.running = some (ask h (.slotStop slot)) := by rw [hv]
  refine (act_of_executing ht.1 hx hrun).trans ?_
  rw [slotSettle, hrunning]
  simp only [cmd_of_reaches ht.1]
  rw [← hn, hops]
  split <;> rfl

/-- A slot closes at once where nothing of it is left in flight (R388). -/
theorem exec_slotClose {slot : Byte} {n : Fin 8} (hn : n.val = slot.toNat) (ht : Takes s h (.slotClose slot))
    {u v : State} (hu : u = (arrived s h (.slotClose slot)).closeBegin n)
    (hv : v = { u with kal := { u.kal with running := some (ask h (.slotClose slot)) } }) :
    exec (.slotClose h slot) s = .next (if u.slotOps n = [] then
      ((v.closeEnd n).answer (ask h (.slotClose slot)) .ok []).runEnds.done s.pending else v.done s.pending) := by
  obtain ⟨x, hx⟩ : ∃ x : State, x = arrived s h (.slotClose slot) := ⟨_, rfl⟩
  have hfin : Fin.ofNat 8 n.val = n := Fin.ext (Nat.mod_eq_of_lt n.isLt)
  rw [← hx] at hu
  have hrun : x.kRun (ask h (.slotClose slot)) = v := by
    have hclose : x.kRun (ask h (.slotClose slot)) = x.closeSlot (ask h (.slotClose slot)) slot.toNat := by
      rw [hx, kRun, if_neg (permitted ht), cmd_of_reaches ht.1]
    rw [hclose, ← hn, closeSlot, if_neg (by omega), hfin, hv, hu]
  have hops : v.slotOps n = u.slotOps n := by rw [hv]; rfl
  have hrunning : v.kal.running = some (ask h (.slotClose slot)) := by rw [hv]
  refine (act_of_executing ht.1 hx hrun).trans ?_
  rw [slotSettle, hrunning]
  simp only [cmd_of_reaches ht.1]
  rw [← hn, hops, hfin]
  split <;> rfl

end

/-- Settles O29: an open and a start answer at once, and what a stop or a close leaves executing ends where its slot has
nothing in flight. -/
theorem jobSlots : Obligations.JobSlots := by
  unfold Obligations.JobSlots
  intro s h slot n a hn
  refine ⟨fun ht hs hp => ⟨?_, fun ha hal hau hpois hz => exec_slotOpen_record hn ht hs hp ha hal hau rfl rfl hpois hz⟩,
    exec_slotStart hn, fun ht hs => exec_slotStop hn ht hs rfl rfl, fun ht => exec_slotClose hn ht rfl rfl⟩
  rintro rfl
  exact exec_slotOpen_fresh hn ht hs hp rfl rfl rfl

end Sys2Proof.Machine
end


section
/-!
What the firmware slots, debug tokens and quotes share: measurement registers extended, bytes staged in a table, and the
firmware slots under events.
-/
namespace Sys2Proof.Machine

open State Sys2Proof.Safety

/-- Values put into a table one after another stand where they were put. -/
theorem Tab.get_foldl_set {α : Type} [DecidableEq α] (d : Nat → α) (g : Nat → α) (off n : Nat) (t : Tab α) {k : Nat} (hk : k < n) :
    Tab.get d ((List.range n).foldl (fun t k => Tab.set d t (off + k) (g k)) t) (off + k) = g k := by
  induction n with
  | zero => omega
  | succ n ih =>
    rw [List.range_succ, List.foldl_append, List.foldl_cons, List.foldl_nil]
    by_cases hkn : k = n
    · rw [hkn, Tab.get_set_same]
    · rw [Tab.get_set_other _ _ _ (by omega), ih (by omega)]

/-! The length of a digest (FIPS 180-4). -/

theorem length_shaRound (h : List Nat) (k w : Nat) : (shaRound h k w).length = h.length := by
  unfold shaRound
  split
  · rfl
  · rfl

theorem length_shaBlock (h ws : List Nat) : (shaBlock h ws).length = h.length := by
  have hrounds (l : List (Nat × Nat)) :
      (l.foldl (fun st (i, x) => shaRound st (bits shaKTable (32 * i + 31) (32 * i)) x) h).length = h.length :=
    foldl_keeps List.length _ (fun st (e : Nat × Nat) => length_shaRound ..) _ _
  simp only [shaBlock, List.length_zipWith, hrounds, min_self]

theorem length_shaBlocks (n : Nat) (bs : List Byte) (h : List Nat) : (shaBlocks n bs h).length = h.length := by
  induction n generalizing bs h with
  | zero => rfl
  | succ n ih => rw [shaBlocks, ih, length_shaBlock]

theorem length_sha256 (m : List Byte) : (sha256 m).length = 32 := by
  have hword (x : Nat) : (toBytesBE 4 x).length = 4 := by rw [toBytesBE, List.length_reverse, length_toBytes]
  have hinit : shaInit.length = 8 := by rw [shaInit, List.length_map, List.length_range]
  simp only [sha256, List.length_flatMap, hword, List.map_const', List.sum_replicate, length_shaBlocks, hinit]
  rfl

/-! Measurement registers (R472). -/

section
variable {s t x : State} {i : Nat} {d : List Byte}

/-- A measurement register as its field reads. -/
theorem State.rd_meas (s : State) (i : Nat) : s.rd Reg.SEC_MEAS_M i = s.wordsAt (0x040100 + 0x20 * i) 8 := by
  have hlt : s.wordsAt (0x040100 + 0x20 * i) 8 < 2 ^ 256 := wordsAt_lt ..
  have hlo : Reg.SEC_MEAS_M.lo % 32 = 0 ∧ Reg.SEC_MEAS_M.len = 256 ∧ fieldWords Reg.SEC_MEAS_M = 8 := by decide
  rw [rd, hlo.1, hlo.2.1, hlo.2.2, Nat.shiftRight_zero]
  exact Nat.mod_eq_of_lt hlt

theorem extended_iff : Extended s t i d ↔
    t.rd Reg.SEC_MEAS_M i = ofBytes (sha256 (toBytes 32 (s.rd Reg.SEC_MEAS_M i) ++ d)) ∧
      t.rd Reg.SEC_MEAS_CNT_COUNT i = (s.rd Reg.SEC_MEAS_CNT_COUNT i + 1) % 2 ^ 32 := by
  rw [Extended, ← rd_meas, ← rd_meas]

/-- What keeps a register and its count in both states keeps that it was extended. -/
theorem extended_congr {s' t' : State} (h : Extended s t i d) (hs : ∀ f ∈ [Reg.SEC_MEAS_M, Reg.SEC_MEAS_CNT_COUNT], s'.rd f i = s.rd f i)
    (ht : ∀ f ∈ [Reg.SEC_MEAS_M, Reg.SEC_MEAS_CNT_COUNT], t'.rd f i = t.rd f i) : Extended s' t' i d := by
  rw [extended_iff] at h ⊢
  rw [ht _ (by simp), ht _ (by simp), hs _ (by simp), hs _ (by simp)]
  exact h

theorem extended_extend (s : State) {i : Nat} (hi : i < 8) (d : List Byte) : Extended s (s.extend i d) i d := by
  have hapart : ∀ n : Fin 8, apart Reg.SEC_MEAS_CNT_COUNT n Reg.SEC_MEAS_M n = true := by decide
  have hlt : ofBytes (sha256 (toBytes 32 (s.wordsAt (0x040100 + 0x20 * i) 8) ++ d)) < 2 ^ 256 := by
    simpa [length_sha256] using ofBytes_lt (sha256 (toBytes 32 (s.wordsAt (0x040100 + 0x20 * i) 8) ++ d))
  rw [extended_iff, extend]
  refine ⟨?_, ?_⟩
  · rw [inc, rd_wr_other _ _ (hapart ⟨i, hi⟩), rd_meas, wordsAt_setWordsAt_same, rd_meas]
    exact Nat.mod_eq_of_lt hlt
  · rw [rd_inc_same _ _ _ _ (by decide), rd_setWordsAt_apart]
    · rfl
    · simp only [fieldAddr, fieldWords, Reg.SEC_MEAS_CNT_COUNT]
      omega

end

/-! The firmware slots under events: an event changes the journal in flash, and no firmware slot (R457). -/

namespace State

theorem note_fw (s : State) (c u : Nat) (sl : Option (Fin 8)) (a : Nat) : (s.note c u sl a).flash.fw = s.flash.fw := rfl

theorem captureStops_fw (s : State) (d : Fin 2) : (s.captureStops d).flash.fw = s.flash.fw := by
  simp only [captureStops, note_fw, wrB_flash]
  exact ite_keeps (·.flash.fw) _ (by rw [wr_flash]) rfl

theorem captureStop_fw (s : State) (d : Fin 2) : (s.captureStop d).flash.fw = s.flash.fw := by
  simp only [captureStop]
  refine ite_keeps (·.flash.fw) _ (captureStops_fw ..) (ite_keeps (·.flash.fw) _ ?_ ?_)
  · rw [captureStops_fw, captureStops_fw]
  · exact captureStops_fw s d

theorem captureTrigger_fw (s : State) (d : Fin 2) : (s.captureTrigger d).flash.fw = s.flash.fw := by
  rw [captureTrigger]
  exact ite_keeps (·.flash.fw) _ rfl (ite_keeps (·.flash.fw) _ (captureStop_fw ..) rfl)

theorem raise_fw (s : State) (c u : Nat) (sl : Option (Fin 8)) (a : Nat) : (s.raise c u sl a).flash.fw = s.flash.fw := by
  have htrigger (t : State) (d : Fin 2) :
      (if c ≠ 0 && t.rd Reg.MEM_FCAP_CTRL_TRIG_CODE d = c then t.captureTrigger d else t).flash.fw = t.flash.fw :=
    ite_keeps (·.flash.fw) _ (captureTrigger_fw ..) rfl
  rw [raise, captureOn]
  exact (htrigger _ 1).trans ((htrigger _ 0).trans (note_fw ..))

/-! What an answer leaves as it was. -/

section
variable (s : State) (q : Req) (st : KStat) (pl : List Byte)

theorem answer_flash : (s.answer q st pl).flash = s.flash := (congrArg State.flash (answer_noReply s q st pl) :)
theorem answer_tel : (s.answer q st pl).tel = s.tel := (congrArg State.tel (answer_noReply s q st pl) :)
theorem answer_mem : (s.answer q st pl).mem = s.mem := (congrArg State.mem (answer_noReply s q st pl) :)
theorem answer_ops : (s.answer q st pl).ops = s.ops := (congrArg State.ops (answer_noReply s q st pl) :)
theorem answer_sec : (s.answer q st pl).sec = s.sec := (congrArg State.sec (answer_noReply s q st pl) :)
theorem answer_activate : (s.answer q st pl).kal.activate = s.kal.activate :=
  (congrArg (fun x : State => x.kal.activate) (answer_noReply s q st pl) :)
theorem answer_waiting : (s.answer q st pl).kal.waiting = s.kal.waiting :=
  (congrArg (fun x : State => x.kal.waiting) (answer_noReply s q st pl) :)
theorem answer_leaseDue : (s.answer q st pl).kal.leaseDue = s.kal.leaseDue :=
  (congrArg (fun x : State => x.kal.leaseDue) (answer_noReply s q st pl) :)
theorem answer_quoting : (s.answer q st pl).kal.quoting = s.kal.quoting :=
  (congrArg (fun x : State => x.kal.quoting) (answer_noReply s q st pl) :)

end

/-- The response that an answered mailbox keeps has the status and payload of the answer. -/
theorem answer_kept {s : State} {q : Req} {st : KStat} {pl : List Byte} (hcur : s.kal.boxes[q.hdr.mbox].cur = some q) :
    (s.answer q st pl).kal.boxes[q.hdr.mbox].kept.map (fun x => (x.status, x.payload)) = some (kStatus st, kHolder st ++ pl) := by
  rw [answer_kal hcur]
  simp [boxesAfter, keptResp]

end State

end Sys2Proof.Machine
end


section
/-!
Firmware staged, committed, activated and handed over (R395, R396).
-/
namespace Sys2Proof.Machine

open State Sys2Proof.Safety

section
variable {s : State} {h : KHdr}

theorem runningSlot_arrived (s : State) (h : KHdr) (c : KCmd) : (arrived s h c).runningSlot = s.runningSlot := by
  rw [runningSlot, rd_arrived _ _ _ (by decide), runningSlot]

/-- A command answered with a status alone, which does nothing else. -/
theorem act_of_said {c : KCmd} {st : KStat} (ht : Takes s h c)
    (hrun : (arrived s h c).kRun (ask h c) = (arrived s h c).answer (ask h c) st []) :
    act s (s.kRequest h c) = .next (replied s (arrived s h c) h c st []) :=
  act_of_answered ht.1 rfl hrun (arrived_idle ht.1)

/-- The state after a request answered from a state with the mailboxes of its arrival. -/
theorem replied_kept {u : State} {c : KCmd} (st : KStat) (hu : u.kal.boxes = (arrived s h c).kal.boxes) :
    (replied s u h c st []).kal.boxes[h.mbox].kept.map (·.status) = some (kStatus st) := by
  have hcur : u.kal.boxes[(ask h c).hdr.mbox].cur = some (ask h c) := by
    rw [show u.kal.boxes[(ask h c).hdr.mbox] = (arrived s h c).kal.boxes[(ask h c).hdr.mbox] by rw [hu]]
    exact arrived_cur s h c
  rw [replied, done_kal, answer_kal hcur]
  simp [boxesAfter, keptResp]

section
variable (s u : State) (h : KHdr) (c : KCmd) (st : KStat) (pl : List Byte)

theorem replied_flash : (replied s u h c st pl).flash = u.flash := (done_flash _ _).trans (answer_flash ..)
theorem replied_mem : (replied s u h c st pl).mem = u.mem := (done_mem _ _).trans (answer_mem ..)
theorem replied_ops : (replied s u h c st pl).ops = u.ops := (done_ops _ _).trans (answer_ops ..)
theorem replied_sec : (replied s u h c st pl).sec = u.sec := (done_sec _ _).trans (answer_sec ..)
theorem replied_tel : (replied s u h c st pl).tel = u.tel := (done_tel _ _).trans (answer_tel ..)

theorem replied_rd {f : Field} {i : Nat} (hown : ownField f i = true) (hapart : apartFromAnswer f i = true) :
    (replied s u h c st pl).rd f i = u.rd f i := (done_rd _ hown).trans (rd_answer _ _ _ _ hapart)

theorem replied_rdB {f : Field} {i : Nat} (hown : ownField f i = true) (hapart : apartFromAnswer f i = true) :
    (replied s u h c st pl).rdB f i = u.rdB f i := by rw [rdB, replied_rd _ _ _ _ _ _ hown hapart, rdB]

end

/-! What an event record carries of the state it is raised in (R393), and what keeps it. -/

/-- The sequence number and the step that an event record carries. -/
def State.stamp (s : State) (sl : Option (Fin 8)) : Word × Nat := (s.dseq, s.eventStep sl)

theorem State.eventRec_of_stamp {s t : State} {sl : Option (Fin 8)} (hst : t.stamp sl = s.stamp sl) (c u a : Nat) :
    t.eventRec c u sl a = s.eventRec c u sl a := by
  have hd : t.dseq = s.dseq := congrArg Prod.fst hst
  have hstep : t.eventStep sl = s.eventStep sl := congrArg Prod.snd hst
  simp only [eventRec, hd, hstep]

theorem State.stamp_eq {s t : State} (sl : Option (Fin 8)) (hd : t.rd Reg.TEL_DSEQ_DSEQ 0 = s.rd Reg.TEL_DSEQ_DSEQ 0)
    (hslot : ∀ n : Fin 8, t.rd Reg.STR_SLOT_STATE_STATE n = s.rd Reg.STR_SLOT_STATE_STATE n) (htel : t.tel = s.tel)
    (hslots : t.slots = s.slots) : t.stamp sl = s.stamp sl := by
  have hstep : t.eventStep sl = s.eventStep sl := by
    cases sl with
    | none => simp only [eventStep, slotState, lead, stepLow, htel, hslots, hslot]; rfl
    | some n => simp only [eventStep, stepLow, hslots]
  rw [stamp, stamp, dseq_of_rd hd, hstep]

/-- Whether a field is none of those that an event record reads. -/
def State.apartFromStamp (f : Field) (i : Nat) : Bool :=
  apart f i Reg.TEL_DSEQ_DSEQ 0 && decide (∀ n : Fin 8, apart f i Reg.STR_SLOT_STATE_STATE n = true)

theorem State.stamp_wr (s : State) {f : Field} {i v : Nat} (sl : Option (Fin 8)) (h : apartFromStamp f i = true) :
    (s.wr f i v).stamp sl = s.stamp sl := by
  simp only [apartFromStamp, Bool.and_eq_true, decide_eq_true_eq] at h
  exact stamp_eq sl (rd_wr_other _ _ h.1) (fun n => rd_wr_other _ _ (h.2 n)) (wr_tel ..) (wr_slots ..)

theorem State.stamp_arrived (s : State) (h : KHdr) (c : KCmd) (sl : Option (Fin 8)) : (arrived s h c).stamp sl = s.stamp sl :=
  have hslot : ∀ n : Fin 8, apartFromArrival Reg.STR_SLOT_STATE_STATE n = true := by decide
  stamp_eq sl (rd_arrived _ _ _ (by decide)) (fun n => rd_arrived _ _ _ (hslot n)) (arrived_tel s h c) (arrived_slots s h c)

/-! What a measurement leaves (R472). -/

/-- Whether a field is none of those of a measurement register. -/
def State.apartFromMeas (f : Field) (j i : Nat) : Bool :=
  apart Reg.SEC_MEAS_CNT_COUNT i f j &&
    (decide (fieldAddr f j + 4 * fieldWords f ≤ 0x040100 + 0x20 * i) || decide (0x040100 + 0x20 * i + 32 ≤ fieldAddr f j))

theorem State.rd_extend (s : State) (d : List Byte) {f : Field} {j i : Nat} (h : apartFromMeas f j i = true) :
    (s.extend i d).rd f j = s.rd f j := by
  simp only [apartFromMeas, Bool.and_eq_true, Bool.or_eq_true, decide_eq_true_eq] at h
  rw [extend, inc, rd_wr_other _ _ h.1, rd_setWordsAt_apart _ (by omega)]

theorem State.stamp_extend (s : State) (d : List Byte) {i : Nat} (hi : i < 8) (sl : Option (Fin 8)) :
    (s.extend i d).stamp sl = s.stamp sl := by
  have hapart : ∀ k : Fin 8, apartFromMeas Reg.TEL_DSEQ_DSEQ 0 k = true ∧
      ∀ n : Fin 8, apartFromMeas Reg.STR_SLOT_STATE_STATE n k = true := by decide
  exact stamp_eq sl (rd_extend _ _ (hapart ⟨i, hi⟩).1) (fun n => rd_extend _ _ ((hapart ⟨i, hi⟩).2 n))
    (tel_of_noCtl (extend_noCtl ..)) (slots_of_noCtl (extend_noCtl ..))

theorem extended_done {u v : State} {d : List Byte} {i : Nat} (hi : i < 8) (q : List Instr) (hext : Extended u v i d) :
    Extended u (v.done q) i d := by
  have hown : ∀ k : Fin 8, ∀ f ∈ [Reg.SEC_MEAS_M, Reg.SEC_MEAS_CNT_COUNT], ownField f k = true := by decide
  exact extended_congr hext (fun _ _ => rfl) fun f hf => done_rd q (hown ⟨i, hi⟩ f hf)

theorem extended_of_arrived {s v : State} {h : KHdr} {c : KCmd} {d : List Byte} {i : Nat} (hi : i < 8)
    (hext : Extended (arrived s h c) v i d) : Extended s v i d := by
  have hapart : ∀ k : Fin 8, ∀ f ∈ [Reg.SEC_MEAS_M, Reg.SEC_MEAS_CNT_COUNT], apartFromArrival f k = true := by decide
  exact extended_congr hext (fun f hf => (rd_arrived s h c (hapart ⟨i, hi⟩ f hf)).symm) fun _ _ => rfl

/-! Staging (R395). -/

/-- The place of staging prepared: the first of the staged bytes finds its slot erased. -/
def State.stageBegun (s : State) (f : FwSlot) (otok : Word) : State :=
  if f.staged then s else { s with kal := { s.kal with stageTok := some otok } }.wrB Reg.HRT_FW_COMMITTED 0 false

theorem State.stageBegun_noCtl (s : State) (f : FwSlot) (otok : Word) : (s.stageBegun f otok).noCtl =
    ({ s with kal := (s.stageBegun f otok).kal } : State).noCtl := by
  rw [stageBegun]
  split
  · rfl
  · rw [wrB_kal, wrB_noCtl]

theorem State.stageBegun_kal (s : State) (f : FwSlot) (otok : Word) : (s.stageBegun f otok).kal.boxes = s.kal.boxes ∧
    (s.stageBegun f otok).kal.running = s.kal.running := by
  rw [stageBegun]
  split
  · exact ⟨rfl, rfl⟩
  · rw [wrB_kal]; exact ⟨rfl, rfl⟩

/-- A firmware slot with bytes staged in it from an offset. -/
def FwSlot.stagedAt (f : FwSlot) (off : Nat) (data : List Byte) : FwSlot :=
  { f with image := (List.range data.length).foldl (fun t k => Tab.set State.erasedByte t (off + k) (data.getD k 0)) f.image }

theorem State.fwStage_made {u : State} {n off : Nat} {i : Fin 2} {data : List Byte} {otok : Word} (hi : i = Fin.ofNat 2 n)
    (hn : n ≤ 1) (h960 : data.length ≤ 960) (hoff : off + data.length ≤ 2 ^ 26) (hrun : i ≠ u.runningSlot) :
    u.fwStage otok n off data =
      ((u.stageBegun u.flash.fw[i] otok).setFw i
        (FwSlot.stagedAt (if u.flash.fw[i].staged then u.flash.fw[i] else { FwSlot.erased with staged := true }) off data), .ok) := by
  subst hi
  rw [fwStage, if_neg (by simp; omega), if_neg hrun]
  rfl

/-- What a FW_STAGE runs. -/
theorem kRun_fwStage {slot : Byte} {off : Word} {data : List Byte} (ht : Takes s h (.fwStage slot off data)) :
    (arrived s h (.fwStage slot off data)).kRun (ask h (.fwStage slot off data)) =
      answered1 (ask h (.fwStage slot off data)) ((arrived s h (.fwStage slot off data)).fwStage
        (ask h (.fwStage slot off data)).hdr.otok slot.toNat off.toNat data) := by
  rw [kRun, if_neg (permitted ht), cmd_of_reaches ht.1]

theorem exec_fwStage {slot : Byte} {off : Word} {data : List Byte} {n : Fin 2} {base : FwSlot} (hn : n = Fin.ofNat 2 slot.toNat)
    (hbase : base = if s.flash.fw[n].staged then s.flash.fw[n] else { FwSlot.erased with staged := true })
    (ht : Takes s h (.fwStage slot off data)) (hslot : slot.toNat ≤ 1) (h960 : data.length ≤ 960)
    (hoff : off.toNat + data.length ≤ 2 ^ 26) (hrun : n ≠ s.runningSlot) :
    ∃ t, exec (.fwStage h slot off data) s = .next t ∧
      t.flash = { s.flash with fw := s.flash.fw.set n (base.stagedAt off.toNat data) } ∧
      (∀ k, k < data.length → Tab.get State.erasedByte t.flash.fw[n].image (off.toNat + k) = data.getD k 0) ∧
      t.kal.boxes[h.mbox].kept.map (·.status) = some 0 ∧ t.mem = s.mem ∧ t.ops = s.ops := by
  obtain ⟨u, hu⟩ : ∃ u : State, u = arrived s h (.fwStage slot off data) := ⟨_, rfl⟩
  obtain ⟨otok, hotok⟩ : ∃ o : Word, o = (ask h (.fwStage slot off data)).hdr.otok := ⟨_, rfl⟩
  have hrunning : u.runningSlot = s.runningSlot := hu ▸ runningSlot_arrived s h _
  have hflash : u.flash = s.flash := by rw [hu, arrived_flash]
  have humem : u.mem = s.mem := by rw [hu, arrived_mem]
  have huops : u.ops = s.ops := by rw [hu, arrived_ops]
  have hk := kRun_fwStage ht
  rw [← hu, ← hotok, fwStage_made hn hslot h960 hoff (by rw [hrunning]; exact hrun), hflash, ← hbase, answered1_eq] at hk
  obtain ⟨v, hv⟩ : ∃ v : State, v = (u.stageBegun s.flash.fw[n] otok).setFw n (base.stagedAt off.toNat data) := ⟨_, rfl⟩
  have hbegun := stageBegun_noCtl u s.flash.fw[n] otok
  obtain ⟨hboxes, hexec⟩ := stageBegun_kal u s.flash.fw[n] otok
  have hvflash : v.flash = { s.flash with fw := s.flash.fw.set n (base.stagedAt off.toNat data) } := by
    have hb : (u.stageBegun s.flash.fw[n] otok).flash = s.flash := (flash_of_noCtl hbegun).trans hflash
    rw [hv, setFw, hb]
  have hvkal : v.kal = (u.stageBegun s.flash.fw[n] otok).kal := by rw [hv, setFw]
  have hvmem : v.mem = s.mem := by
    rw [hv, setFw]
    exact (mem_of_noCtl hbegun).trans humem
  have hvops : v.ops = s.ops := by
    rw [hv, setFw]
    exact (ops_of_noCtl hbegun).trans huops
  rw [← hv] at hk
  refine ⟨_, act_of_answered ht.1 hu hk (by rw [hvkal, hexec, hu]; exact arrived_idle ht.1), ?_, fun k hk => ?_, ?_, ?_, ?_⟩
  · exact (replied_flash ..).trans hvflash
  · rw [(replied_flash ..).trans hvflash]
    simp only [Fin.getElem_fin, Vector.getElem_set_self]
    exact Tab.get_foldl_set _ _ _ _ _ hk
  · exact replied_kept .ok (by rw [hvkal, hboxes, hu])
  · exact (replied_mem ..).trans hvmem
  · exact (replied_ops ..).trans hvops

theorem exec_fwStage_range {slot : Byte} {off : Word} {data : List Byte} (ht : Takes s h (.fwStage slot off data))
    (hbad : 1 < slot.toNat ∨ (decide (data.length ≤ 960) && decide (off.toNat + data.length ≤ 2 ^ 26)) = false) :
    exec (.fwStage h slot off data) s = .next (replied s (arrived s h (.fwStage slot off data)) h (.fwStage slot off data) .range []) := by
  have hk := kRun_fwStage ht
  rw [fwStage, if_pos (by simp at hbad ⊢; omega), answered1_eq] at hk
  exact act_of_said ht hk

theorem exec_fwStage_denied {slot : Byte} {off : Word} {data : List Byte} (ht : Takes s h (.fwStage slot off data))
    (hslot : slot.toNat ≤ 1) (hfits : (decide (data.length ≤ 960) && decide (off.toNat + data.length ≤ 2 ^ 26)) = true)
    (hrun : Fin.ofNat 2 slot.toNat = s.runningSlot) :
    exec (.fwStage h slot off data) s = .next (replied s (arrived s h (.fwStage slot off data)) h (.fwStage slot off data) .denied []) := by
  have hk := kRun_fwStage ht
  rw [fwStage, if_neg (by simp at hfits ⊢; omega), if_pos (by rw [runningSlot_arrived]; exact hrun), answered1_eq] at hk
  exact act_of_said ht hk

/-! Commit (R395). -/

theorem kRun_fwCommit {slot : Byte} {len : Word} (ht : Takes s h (.fwCommit slot len)) :
    (arrived s h (.fwCommit slot len)).kRun (ask h (.fwCommit slot len)) =
      answered1 (ask h (.fwCommit slot len)) ((arrived s h (.fwCommit slot len)).fwCommit slot.toNat len.toNat) := by
  rw [kRun, if_neg (permitted ht), cmd_of_reaches ht.1]

/-- A firmware slot that a commit verified. -/
def FwSlot.committedAs (f : FwSlot) (img : List Byte) (len : Word) : FwSlot :=
  { f with
    version := Config.fwVersionOf img, length := len, digest := BitVec.ofNat 256 (sha256N img)
    staged := false, commit := true, valid := true, raw := false }

/-- A slot after its commit, and COMMITTED with it. -/
def State.slotCommitted (s : State) (n : Fin 2) (g : FwSlot) (good : Bool) : State :=
  ({ s with kal := { s.kal with stageTok := none } }.setFw n g).wrB Reg.HRT_FW_COMMITTED 0 good

theorem State.fwCommit_made {u : State} {slot : Nat} {len : Word} {i : Fin 2} {img : List Byte} {good : Bool} {g : FwSlot}
    (hi : i = Fin.ofNat 2 slot) (hslot : slot ≤ 1) (hrun : i ≠ u.runningSlot)
    (himg : img = (List.range (min len.toNat (2 ^ 26))).map (Tab.get State.erasedByte u.flash.fw[i].image))
    (hgood : good = ((u.flash.fw[i].staged || u.flash.fw[i].commit) && decide (len.toNat ≤ 2 ^ 26) &&
      Config.fwVerifies Config.fwKey img)) (hg : g = if good = true then FwSlot.committedAs u.flash.fw[i] img len else .erased) :
    u.fwCommit slot len.toNat = (u.slotCommitted i g good, if good = true then .ok else .auth) := by
  subst hi
  have hlen : BitVec.ofNat 32 len.toNat = len := BitVec.ofNat_toNat ..|>.trans (BitVec.setWidth_eq len)
  rw [fwCommit, if_neg (by omega), if_neg hrun, hlen]
  simp only [← himg, ← hgood]
  cases good
  · rw [hg]; rfl
  · rw [hg]; rfl

theorem exec_fwCommit {slot : Byte} {len : Word} {n : Fin 2} {img : List Byte} {good : Bool} (hn : n = Fin.ofNat 2 slot.toNat)
    (himg : img = (List.range (min len.toNat (2 ^ 26))).map (Tab.get State.erasedByte s.flash.fw[n].image))
    (hgood : good = ((s.flash.fw[n].staged || s.flash.fw[n].commit) && decide (len.toNat ≤ 2 ^ 26) &&
      Config.fwVerifies Config.fwKey img)) {g : FwSlot}
    (hg : g = if good = true then FwSlot.committedAs s.flash.fw[n] img len else .erased)
    (ht : Takes s h (.fwCommit slot len)) (hslot : slot.toNat ≤ 1) (hrun : n ≠ s.runningSlot) :
    ∃ t, exec (.fwCommit h slot len) s = .next t ∧ t.rdB Reg.HRT_FW_COMMITTED 0 = good ∧
      t.kal.boxes[h.mbox].kept.map (·.status) = some (if good = true then 0 else 5) ∧
      t.flash = { s.flash with fw := s.flash.fw.set n g } ∧ t.mem = s.mem ∧ t.ops = s.ops := by
  obtain ⟨u, hu⟩ : ∃ u : State, u = arrived s h (.fwCommit slot len) := ⟨_, rfl⟩
  have hrunning : u.runningSlot = s.runningSlot := hu ▸ runningSlot_arrived s h _
  have hflash : u.flash = s.flash := by rw [hu, arrived_flash]
  have humem : u.mem = s.mem := by rw [hu, arrived_mem]
  have huops : u.ops = s.ops := by rw [hu, arrived_ops]
  have hk := kRun_fwCommit ht
  rw [← hu, fwCommit_made (img := img) (good := good) (g := g) hn hslot (by rw [hrunning]; exact hrun) (by rw [hflash]; exact himg)
    (by rw [hflash]; exact hgood) (by rw [hflash]; exact hg), answered1_eq] at hk
  obtain ⟨v, hv⟩ : ∃ v : State, v = u.slotCommitted n g good := ⟨_, rfl⟩
  rw [← hv] at hk
  have hrest : v.noCtl = (({ u with kal := { u.kal with stageTok := none } } : State).setFw n g).noCtl := by
    rw [hv, slotCommitted, wrB_noCtl]
  have hkal : v.kal.boxes = u.kal.boxes ∧ v.kal.running = u.kal.running := by
    rw [kal_of_noCtl hrest, setFw]
    exact ⟨rfl, rfl⟩
  have hvflash : v.flash = { s.flash with fw := s.flash.fw.set n g } := by
    rw [flash_of_noCtl hrest, setFw, hflash]
  refine ⟨_, act_of_answered ht.1 hu hk (by rw [hkal.2, hu]; exact arrived_idle ht.1), ?_, ?_, ?_, ?_, ?_⟩
  · rw [replied_rdB _ _ _ _ _ _ (by decide) (by decide), hv, slotCommitted, rdB_wrB_same _ _ _ _ rfl]
  · rw [replied_kept _ (by rw [hkal.1, hu])]
    cases good <;> rfl
  · exact (replied_flash ..).trans hvflash
  · exact (replied_mem ..).trans (((mem_of_noCtl hrest).trans rfl).trans humem)
  · exact (replied_ops ..).trans (((ops_of_noCtl hrest).trans rfl).trans huops)

theorem exec_fwCommit_range {slot : Byte} {len : Word} (ht : Takes s h (.fwCommit slot len)) (hslot : 1 < slot.toNat) :
    exec (.fwCommit h slot len) s = .next (replied s (arrived s h (.fwCommit slot len)) h (.fwCommit slot len) .range []) := by
  have hk := kRun_fwCommit ht
  rw [fwCommit, if_pos hslot, answered1_eq] at hk
  exact act_of_said ht hk

theorem exec_fwCommit_denied {slot : Byte} {len : Word} (ht : Takes s h (.fwCommit slot len)) (hslot : slot.toNat ≤ 1)
    (hrun : Fin.ofNat 2 slot.toNat = s.runningSlot) :
    exec (.fwCommit h slot len) s = .next (replied s (arrived s h (.fwCommit slot len)) h (.fwCommit slot len) .denied []) := by
  have hk := kRun_fwCommit ht
  rw [fwCommit, if_neg (by omega), if_pos (by rw [runningSlot_arrived]; exact hrun), answered1_eq] at hk
  exact act_of_said ht hk

/-! Activation (R396). -/

/-- A firmware slot measured and its handover begun, whose command executes on. -/
def State.handoverBegun (s : State) (q : Req) (f : FwSlot) (n : Nat) : State :=
  let u := (s.measureFw f).wrB Reg.HRT_FW_ACTIVATING 0 true
  { u with kal := { u.kal with activate := some (q.hdr, n), running := some q } }

theorem State.handoverBegun_noCtl (s : State) (q : Req) (f : FwSlot) (n : Nat) : (s.handoverBegun q f n).noCtl =
    ({ s with kal := { s.kal with activate := some (q.hdr, n), running := some q } } : State).noCtl := by
  obtain ⟨u, hu⟩ : ∃ u : State, u = (s.measureFw f).wrB Reg.HRT_FW_ACTIVATING 0 true := ⟨_, rfl⟩
  have hrest : u.noCtl = s.noCtl := by rw [hu, wrB_noCtl, measureFw, extend_noCtl]
  have hkal : u.kal = s.kal := kal_of_noCtl hrest
  rw [handoverBegun, ← hu, ← hkal]
  exact congrArg (fun x : State => { x with kal := { u.kal with activate := some (q.hdr, n), running := some q } }) hrest

theorem kRun_fwActivate {slot : Byte} (ht : Takes s h (.fwActivate slot)) :
    (arrived s h (.fwActivate slot)).kRun (ask h (.fwActivate slot)) =
      (arrived s h (.fwActivate slot)).fwActivate (ask h (.fwActivate slot)) slot.toNat := by
  rw [kRun, if_neg (permitted ht), cmd_of_reaches ht.1]

theorem exec_fwActivate {slot : Byte} {n : Fin 2} (hn : n = Fin.ofNat 2 slot.toNat) (ht : Takes s h (.fwActivate slot))
    (hslot : slot.toNat ≤ 1) (hcommit : s.flash.fw[n].commit = true) :
    ∃ t, exec (.fwActivate h slot) s = .next t ∧ Extended s t 1 (sha256 (State.fwHeader s.flash.fw[n])) ∧
      t.rdB Reg.HRT_FW_ACTIVATING 0 = true ∧ t.kal.activate = some ((ask h (.fwActivate slot)).hdr, slot.toNat) ∧
      t.kal.running = some (ask h (.fwActivate slot)) ∧ t.flash = s.flash ∧ t.mem = s.mem ∧ t.ops = s.ops := by
  obtain ⟨u, hu⟩ : ∃ u : State, u = arrived s h (.fwActivate slot) := ⟨_, rfl⟩
  obtain ⟨q, hq⟩ : ∃ q : Req, q = ask h (.fwActivate slot) := ⟨_, rfl⟩
  obtain ⟨v, hv⟩ : ∃ v : State, v = u.handoverBegun q s.flash.fw[n] slot.toNat := ⟨_, rfl⟩
  have huflash : u.flash = s.flash := by rw [hu, arrived_flash]
  have humem : u.mem = s.mem := by rw [hu, arrived_mem]
  have huops : u.ops = s.ops := by rw [hu, arrived_ops]
  have hk := kRun_fwActivate ht
  subst hn
  rw [← hu, ← hq, fwActivate, if_neg (by omega), huflash, if_neg (by rw [hcommit]; decide)] at hk
  replace hk : u.kRun q = v := by rw [hv]; exact hk
  have hrest := handoverBegun_noCtl u q s.flash.fw[Fin.ofNat 2 slot.toNat] slot.toNat
  rw [← hv] at hrest
  have hsettle : v.slotSettle = v := by
    have hrunning : v.kal.running = some q := by rw [kal_of_noCtl hrest]
    rw [slotSettle, hrunning, hq]
    simp only [cmd_of_reaches ht.1]
  have hext : Extended u v 1 (sha256 (State.fwHeader s.flash.fw[Fin.ofNat 2 slot.toNat])) := by
    refine extended_congr (extended_extend u (by decide) _) (fun _ _ => rfl) fun f hf => ?_
    have hap : ∀ f ∈ [Reg.SEC_MEAS_M, Reg.SEC_MEAS_CNT_COUNT], apart Reg.HRT_FW_ACTIVATING 0 f 1 = true := by decide
    rw [hv, handoverBegun, rd_with_kal, wrB, rd_wr_other _ _ (hap f hf), measureFw]
  have hex : exec (.fwActivate h slot) s = .next (v.done s.pending) := by
    rw [← hsettle]
    exact act_of_executing ht.1 hu (hq ▸ hk)
  have hkal : v.kal.activate = some (q.hdr, slot.toNat) ∧ v.kal.running = some q := by
    rw [kal_of_noCtl hrest]
    exact ⟨rfl, rfl⟩
  refine ⟨_, hex, extended_done (by decide) _ (extended_of_arrived (by decide) (hu ▸ hext)), ?_, ?_, ?_, ?_, ?_, ?_⟩
  · rw [done_rdB _ (by decide), hv, handoverBegun, rdB, rd_with_kal, ← rdB, rdB_wrB_same _ _ _ _ rfl]
  · rw [← hq]
    exact (congrArg Kalec.activate (done_kal v _)).trans hkal.1
  · rw [← hq]
    exact (congrArg Kalec.running (done_kal v _)).trans hkal.2
  · exact (done_flash v _).trans ((flash_of_noCtl hrest).trans huflash)
  · exact (done_mem v _).trans ((mem_of_noCtl hrest).trans humem)
  · exact (done_ops v _).trans ((ops_of_noCtl hrest).trans huops)

theorem exec_fwActivate_range {slot : Byte} (ht : Takes s h (.fwActivate slot)) (hslot : 1 < slot.toNat) :
    exec (.fwActivate h slot) s = .next (replied s (arrived s h (.fwActivate slot)) h (.fwActivate slot) .range []) := by
  have hk := kRun_fwActivate ht
  rw [fwActivate, if_pos hslot] at hk
  exact act_of_said ht hk

theorem exec_fwActivate_stale {slot : Byte} (ht : Takes s h (.fwActivate slot)) (hslot : slot.toNat ≤ 1)
    (hcommit : s.flash.fw[Fin.ofNat 2 slot.toNat].commit = false) :
    exec (.fwActivate h slot) s = .next (replied s (arrived s h (.fwActivate slot)) h (.fwActivate slot) .stale []) := by
  have hk := kRun_fwActivate ht
  rw [fwActivate, if_neg (by omega), arrived_flash, if_pos (by rw [hcommit]; rfl)] at hk
  exact act_of_said ht hk

/-! The handover (R396). -/

/-- The state after a command that executed has ended, its own end and no more. -/
def State.runEnded (s : State) : State := { s with kal := { s.kal with running := none, leaseDue := false } }

theorem State.runEnds_settled {x : State} (hlease : x.kal.leaseDue = false) (hwait : x.kal.waiting = []) :
    x.runEnds.kSettle = x.runEnded := by
  have hends : x.runEnds = x.runEnded := by rw [runEnds, hlease]; rfl
  have hsettle : x.runEnded.slotSettle = x.runEnded := rfl
  have hnone : x.runEnded.kal.waiting = [] := hwait
  rw [hends, kSettle]
  simp only [hsettle, hnone, List.length_nil]
  rfl

/-- A handover that ends: no slot is activated any more, and ACTIVATIONS counts. -/
def State.handoverOver (s : State) : State :=
  (({ s with kal := { s.kal with activate := none } } : State).wrB Reg.HRT_FW_ACTIVATING 0 false).inc Reg.HRT_FW_ACTIVATIONS 0 1

/-- The slot handed over to becomes the running one, with the next sequence number. -/
def State.handedOver (s : State) (n : Fin 2) (k : Nat) (g : FwSlot) : State :=
  (((s.setFw n g).wr Reg.HRT_FW_RUNNING 0 k).wrB Reg.HRT_FW_COMMITTED 0 false).wr Reg.HRT_FW_VER_VERSION 0 g.version.toNat

/-- The slot handed over to takes its place, with its event and its answer. -/
def State.acceptedOver (s : State) (q : Req) (n : Fin 2) (k : Nat) (g : FwSlot) : State :=
  ((s.handedOver n k g).raise 0x0605 0 none g.version.toNat).answer q .ok []

/-- The slot that ran stays, measured again, with its event and its answer. -/
def State.rolledBack (s : State) (q : Req) (k : Nat) (old f : FwSlot) : State :=
  let u := (s.measureFw old).raise 0x0606 0 none f.version.toNat
  (u.answer q (u.rollbackStatus k) []).tick

/-- What a handover leads to. -/
theorem State.handoff_eq {s : State} {a : KHdr} {n r : Fin 2} {k : Nat} {q : Req} {f old : FwSlot} (hn : n = Fin.ofNat 2 k)
    (hact : s.kal.activate = some (a, k)) (hrunning : s.kal.running = some q) (hup : s.kalecUp = true)
    (hrestart : s.kal.restart = false) (hf : f = s.flash.fw[n]) (hr : r = s.runningSlot) (hold : old = s.flash.fw[r])
    (accepted : Bool) : s.handoff accepted =
      (if accepted then s.handoverOver.acceptedOver q n k { f with seq := some ((old.seq.getD 0) + 1), commit := false }
        else s.handoverOver.rolledBack q k old f).runEnds.kSettle := by
  have hnot : ¬ (!s.kalecUp || s.kal.restart) = true := by rw [hup, hrestart]; decide
  subst hf hr hold hn
  unfold handoff
  split
  case h_2 hnone => exact absurd hrunning (hnone _ _ _ hact)
  case h_1 a' k' q' hact' hrunning' =>
    cases hact.symm.trans hact'
    cases hrunning.symm.trans hrunning'
    rw [if_neg hnot]
    rfl

theorem State.handoverOver_noCtl (s : State) :
    s.handoverOver.noCtl = ({ s with kal := { s.kal with activate := none } } : State).noCtl := by
  rw [handoverOver, inc_noCtl, wrB_noCtl]

theorem State.rd_handoverOver (s : State) {f : Field} {i : Nat} (hwritten : apart Reg.HRT_FW_ACTIVATING 0 f i = true)
    (hcount : apart Reg.HRT_FW_ACTIVATIONS 0 f i = true) : s.handoverOver.rd f i = s.rd f i := by
  rw [handoverOver, inc, rd_wr_other _ _ hcount, wrB, rd_wr_other _ _ hwritten, rd_with_kal]

theorem State.handoverOver_shown (s : State) : s.handoverOver.rdB Reg.HRT_FW_ACTIVATING 0 = false ∧
    s.handoverOver.rd Reg.HRT_FW_ACTIVATIONS 0 = (s.rd Reg.HRT_FW_ACTIVATIONS 0 + 1) % 2 ^ 16 := by
  refine ⟨?_, ?_⟩
  · rw [handoverOver, rdB, inc, rd_wr_other _ _ (by decide), ← rdB, rdB_wrB_same _ _ _ _ rfl]
  · rw [handoverOver, rd_inc_same _ _ _ _ (by decide), wrB, rd_wr_other _ _ (by decide), rd_with_kal]
    rfl

theorem State.stamp_handoverOver (s : State) : s.handoverOver.stamp none = s.stamp none := by
  rw [handoverOver, inc, stamp_wr _ _ (by decide), wrB, stamp_wr _ _ (by decide)]
  rfl

/-- What a command that ended leaves: the fields of the state it ended in. -/
theorem State.runEnded_done_rd (x : State) (q : List Instr) {f : Field} {i : Nat} (hown : ownField f i = true) :
    (x.runEnded.done q).rd f i = x.rd f i := (done_rd q hown).trans (rd_with_kal ..)

section
variable (x : State) (q : List Instr)

theorem State.runEnded_done_flash : (x.runEnded.done q).flash = x.flash := (done_flash x.runEnded q).trans rfl
theorem State.runEnded_done_tel : (x.runEnded.done q).tel = x.tel := (done_tel x.runEnded q).trans rfl
theorem State.runEnded_done_mem : (x.runEnded.done q).mem = x.mem := (done_mem x.runEnded q).trans rfl
theorem State.runEnded_done_ops : (x.runEnded.done q).ops = x.ops := (done_ops x.runEnded q).trans rfl

theorem State.runEnded_done_kal : (x.runEnded.done q).kal.activate = x.kal.activate ∧ (x.runEnded.done q).kal.running = none := by
  rw [done_kal]
  exact ⟨rfl, rfl⟩

end

section
variable {a : KHdr} {n r : Fin 2} {k : Nat} {q : Req} {f old : FwSlot} (hn : n = Fin.ofNat 2 k)
  (hact : s.kal.activate = some (a, k)) (hrunning : s.kal.running = some q) (hup : s.kalecUp = true)
  (hrestart : s.kal.restart = false) (hf : f = s.flash.fw[n]) (hr : r = s.runningSlot) (hold : old = s.flash.fw[r])
  (hwait : s.kal.waiting = []) (hlease : s.kal.leaseDue = false)
include hn hact hrunning hup hrestart hf hr hold hwait hlease

theorem exec_fwHandoff_accepted (hk : k < 2) : ∃ t, exec (.fwHandoff true) s = .next t ∧ t.rd Reg.HRT_FW_RUNNING 0 = k ∧
    t.rdB Reg.HRT_FW_COMMITTED 0 = false ∧ t.rdB Reg.HRT_FW_ACTIVATING 0 = false ∧
    t.rd Reg.HRT_FW_ACTIVATIONS 0 = (s.rd Reg.HRT_FW_ACTIVATIONS 0 + 1) % 2 ^ 16 ∧
    t.rd Reg.HRT_FW_VER_VERSION 0 = f.version.toNat ∧ Raised s t 0x0605 0 none f.version.toNat ∧
    t.flash.fw = s.flash.fw.set n { f with seq := some ((old.seq.getD 0) + 1), commit := false } ∧
    t.kal.activate = none ∧ t.kal.running = none ∧ t.mem = s.mem ∧ t.ops = s.ops := by
  obtain ⟨g, hg⟩ : ∃ g : FwSlot, g = { f with seq := some ((old.seq.getD 0) + 1), commit := false } := ⟨_, rfl⟩
  have hver : g.version = f.version := by rw [hg]
  have hform := handoff_eq hn hact hrunning hup hrestart hf hr hold true
  rw [if_pos rfl, ← hg] at hform
  obtain ⟨u, hu⟩ : ∃ u : State, u = s.handoverOver := ⟨_, rfl⟩
  obtain ⟨v, hv⟩ : ∃ v : State, v = u.handedOver n k g := ⟨_, rfl⟩
  obtain ⟨x, hx⟩ : ∃ x : State, x = (v.raise 0x0605 0 none g.version.toNat).answer q .ok [] := ⟨_, rfl⟩
  have hurest := handoverOver_noCtl s
  have hvrest : v.noCtl = (u.setFw n g).noCtl := by rw [hv, handedOver, wr_noCtl, wrB_noCtl, wr_noCtl]
  rw [← hu] at hurest
  have hvkal : v.kal = { s.kal with activate := none } := (kal_of_noCtl hvrest).trans (kal_of_noCtl hurest)
  have hvflash : v.flash.fw = s.flash.fw.set n g := by
    have huflash : u.flash = s.flash := (flash_of_noCtl hurest).trans rfl
    rw [flash_of_noCtl hvrest, setFw, huflash]
  have hexec : exec (.fwHandoff true) s = .next (x.runEnded.done s.pending) := by
    have hsettled := runEnds_settled (x := x) (by rw [hx, answer_leaseDue, raise_kal, hvkal]; exact hlease)
      (by rw [hx, answer_waiting, raise_kal, hvkal]; exact hwait)
    have hends : s.handoff true = x.runEnds.kSettle := by rw [hform, hx, hv, hu]; rfl
    show act s (s.handoff true) = _
    rw [hends, hsettled, act_next]
  have hrd {fl : Field} {i : Nat} (hown : ownField fl i = true) (hans : apartFromAnswer fl i = true)
      (hev : apartFromEvent fl i = true) : (x.runEnded.done s.pending).rd fl i = v.rd fl i := by
    rw [runEnded_done_rd _ _ hown, hx, rd_answer _ _ _ _ hans, rd_raise_apart hev]
  have hvrd {fl : Field} {i : Nat} (hr : apart Reg.HRT_FW_RUNNING 0 fl i = true) (hc : apart Reg.HRT_FW_COMMITTED 0 fl i = true)
      (hver : apart Reg.HRT_FW_VER_VERSION 0 fl i = true) : v.rd fl i = u.rd fl i := by
    rw [hv, handedOver, rd_wr_other _ _ hver, wrB, rd_wr_other _ _ hc, rd_wr_other _ _ hr, setFw, rd_with_flash]
  obtain ⟨hbusy, hcount⟩ := handoverOver_shown s
  have hstamp : v.stamp none = s.stamp none := by
    rw [hv, handedOver, stamp_wr _ _ (by decide), wrB, stamp_wr _ _ (by decide), stamp_wr _ _ (by decide)]
    exact (rfl : _ = u.stamp none).trans (by rw [hu, stamp_handoverOver])
  refine ⟨_, hexec, ?_, ?_, ?_, ?_, ?_, ?_, ?_, ?_, ?_, ?_, ?_⟩
  · rw [hrd (by decide) (by decide) (by decide), hv, handedOver, rd_wr_other _ _ (by decide), wrB, rd_wr_other _ _ (by decide),
      rd_wr_same _ _ _ _ (by decide)]
    exact Nat.mod_eq_of_lt hk
  · rw [rdB, hrd (by decide) (by decide) (by decide), hv, handedOver, rd_wr_other _ _ (by decide), ← rdB, rdB_wrB_same _ _ _ _ rfl]
  · rw [rdB, hrd (by decide) (by decide) (by decide), hvrd (by decide) (by decide) (by decide), ← rdB, hu, hbusy]
  · rw [hrd (by decide) (by decide) (by decide), hvrd (by decide) (by decide) (by decide), hu, hcount]
  · rw [hrd (by decide) (by decide) (by decide), hv, handedOver, rd_wr_same _ _ _ _ (by decide), hver]
    exact Nat.mod_eq_of_lt f.version.isLt
  · rw [Raised, runEnded_done_tel, hx, answer_tel, ← eventRec_of_stamp hstamp, ← hver]
    exact raise_logs ..
  · rw [runEnded_done_flash, hx, answer_flash, raise_fw, hvflash, hg]
  · rw [(runEnded_done_kal x _).1, hx, answer_activate, raise_kal, hvkal]
  · exact (runEnded_done_kal x _).2
  · rw [runEnded_done_mem, hx, answer_mem, raise_mem, mem_of_noCtl hvrest]
    exact (mem_of_noCtl hurest).trans rfl
  · rw [runEnded_done_ops, hx, answer_ops, raise_ops, ops_of_noCtl hvrest]
    exact (ops_of_noCtl hurest).trans rfl

theorem exec_fwHandoff_rolledBack : ∃ t, exec (.fwHandoff false) s = .next t ∧
    t.rd Reg.HRT_FW_RUNNING 0 = s.rd Reg.HRT_FW_RUNNING 0 ∧ t.rdB Reg.HRT_FW_ACTIVATING 0 = false ∧
    t.rd Reg.HRT_FW_ACTIVATIONS 0 = (s.rd Reg.HRT_FW_ACTIVATIONS 0 + 1) % 2 ^ 16 ∧
    Extended s t 1 (sha256 (State.fwHeader old)) ∧ Raised s t 0x0606 0 none f.version.toNat ∧
    t.flash.fw = s.flash.fw ∧ t.kal.activate = none ∧ t.kal.running = none ∧ t.mem = s.mem ∧ t.ops = s.ops := by
  have hform := handoff_eq hn hact hrunning hup hrestart hf hr hold false
  rw [if_neg Bool.false_ne_true] at hform
  obtain ⟨u, hu⟩ : ∃ u : State, u = s.handoverOver := ⟨_, rfl⟩
  obtain ⟨v, hv⟩ : ∃ v : State, v = u.measureFw old := ⟨_, rfl⟩
  obtain ⟨st, hst⟩ : ∃ st : KStat, st = (v.raise 0x0606 0 none f.version.toNat).rollbackStatus k := ⟨_, rfl⟩
  obtain ⟨x, hx⟩ : ∃ x : State, x = (v.raise 0x0606 0 none f.version.toNat).answer q st [] := ⟨_, rfl⟩
  have hurest := handoverOver_noCtl s
  have hvrest : v.noCtl = u.noCtl := by rw [hv, measureFw, extend_noCtl]
  rw [← hu] at hurest
  have hvkal : v.kal = { s.kal with activate := none } := (kal_of_noCtl hvrest).trans (kal_of_noCtl hurest)
  have hexec : exec (.fwHandoff false) s = .next (x.tick.runEnded.done s.pending) := by
    have hsettled := runEnds_settled (x := x.tick) (by rw [tick, hx, answer_leaseDue, raise_kal, hvkal]; exact hlease)
      (by rw [tick, hx, answer_waiting, raise_kal, hvkal]; exact hwait)
    have hends : s.handoff false = x.tick.runEnds.kSettle := by rw [hform, hx, hst, hv, hu]; rfl
    show act s (s.handoff false) = _
    rw [hends, hsettled, act_next]
  have hrd {fl : Field} {i : Nat} (hown : ownField fl i = true) (hans : apartFromAnswer fl i = true)
      (hev : apartFromEvent fl i = true) : (x.tick.runEnded.done s.pending).rd fl i = v.rd fl i := by
    rw [runEnded_done_rd _ _ hown, tick, rd_with_free, hx, rd_answer _ _ _ _ hans, rd_raise_apart hev]
  have hvrd {fl : Field} {i : Nat} (hm : apartFromMeas fl i 1 = true) : v.rd fl i = u.rd fl i := by
    rw [hv, measureFw, rd_extend _ _ hm]
  obtain ⟨hbusy, hcount⟩ := handoverOver_shown s
  have hstamp : v.stamp none = s.stamp none := by
    rw [hv, measureFw, stamp_extend _ _ (by decide), hu, stamp_handoverOver]
  have hext : Extended u v 1 (sha256 (State.fwHeader old)) := by
    rw [hv, measureFw]
    exact extended_extend u (by decide) _
  have hmeas : ∀ fl ∈ [Reg.SEC_MEAS_M, Reg.SEC_MEAS_CNT_COUNT], apart Reg.HRT_FW_ACTIVATING 0 fl 1 = true ∧
      apart Reg.HRT_FW_ACTIVATIONS 0 fl 1 = true ∧ ownField fl 1 = true ∧ apartFromAnswer fl 1 = true ∧
      apartFromEvent fl 1 = true := by decide
  refine ⟨_, hexec, ?_, ?_, ?_, extended_congr hext (fun fl hfl => ?_) fun fl hfl => ?_, ?_, ?_, ?_, ?_, ?_, ?_⟩
  · rw [hrd (by decide) (by decide) (by decide), hvrd (by decide), hu, rd_handoverOver _ (by decide) (by decide)]
  · rw [rdB, hrd (by decide) (by decide) (by decide), hvrd (by decide), ← rdB, hu, hbusy]
  · rw [hrd (by decide) (by decide) (by decide), hvrd (by decide), hu, hcount]
  · obtain ⟨hbusy, hcount, -⟩ := hmeas fl hfl
    rw [hu, rd_handoverOver _ hbusy hcount]
  · obtain ⟨-, -, hown, hans, hev⟩ := hmeas fl hfl
    exact hrd hown hans hev
  · rw [Raised, runEnded_done_tel, tick, hx, answer_tel, ← eventRec_of_stamp hstamp]
    exact raise_logs ..
  · rw [runEnded_done_flash, tick, hx, answer_flash, raise_fw, flash_of_noCtl hvrest]
    exact (congrArg Flash.fw (flash_of_noCtl hurest)).trans rfl
  · rw [(runEnded_done_kal x.tick _).1, tick, hx, answer_activate, raise_kal, hvkal]
  · exact (runEnded_done_kal x.tick _).2
  · rw [runEnded_done_mem, tick, hx, answer_mem, raise_mem, mem_of_noCtl hvrest]
    exact (mem_of_noCtl hurest).trans rfl
  · rw [runEnded_done_ops, tick, hx, answer_ops, raise_ops, ops_of_noCtl hvrest]
    exact (ops_of_noCtl hurest).trans rfl

end

end

/-- Settles O32: a stage, a commit and an activation by what they do at the arrival of their command, and the handover by the
two ways in which it ends. -/
theorem firmwareSlots : Obligations.FirmwareSlots := by
  unfold Obligations.FirmwareSlots
  intro s h slot off len data n f fits said put base img good
  refine ⟨fun ht hslot hfits hrun => ?_, fun ht hbad => exec_fwStage_range ht hbad,
    fun ht hslot hfits hrun => exec_fwStage_denied ht hslot hfits hrun,
    fun ht hslot hrun => exec_fwCommit rfl rfl rfl rfl ht hslot hrun,
    fun ht hslot => exec_fwCommit_range ht hslot, fun ht hslot hrun => exec_fwCommit_denied ht hslot hrun,
    fun ht hslot hcommit => exec_fwActivate rfl ht hslot hcommit, fun ht hslot => exec_fwActivate_range ht hslot,
    fun ht hslot hcommit => exec_fwActivate_stale ht hslot hcommit,
    fun a q hact hrunning hup hrestart hwait hlease => ⟨?_, ?_⟩⟩
  · have hboth : decide (data.length ≤ 960) = true ∧ decide (off.toNat + data.length ≤ 2 ^ 26) = true := by
      simpa only [fits, Bool.and_eq_true] using hfits
    exact exec_fwStage rfl rfl ht hslot (of_decide_eq_true hboth.1) (of_decide_eq_true hboth.2) hrun
  · exact exec_fwHandoff_accepted (Fin.ofNat_val_eq_self n).symm hact hrunning hup hrestart rfl rfl rfl hwait hlease n.isLt
  · exact exec_fwHandoff_rolledBack (Fin.ofNat_val_eq_self n).symm hact hrunning hup hrestart rfl rfl rfl hwait hlease

end Sys2Proof.Machine
end


section
/-!
Quotes (R476 to R478) and debug tokens (R486, R487).
-/
namespace Sys2Proof.Machine

open State Sys2Proof.Safety

section
variable {s : State} {h : KHdr}

theorem arrived_quoting (s : State) (h : KHdr) (c : KCmd) : (arrived s h c).kal.quoting = s.kal.quoting := by
  rw [arrived_kal]

/-- Whether Lendephor holds its keys shows in two registers. -/
theorem keysHeld_arrived (s : State) (h : KHdr) (c : KCmd) : (arrived s h c).keysHeld = s.keysHeld := by
  rw [keysHeld, keysHeld, lifecycle, lifecycle, rd_arrived _ _ _ (by decide), rdB_arrived _ _ _ (by decide)]

/-! Quotes. -/

/-- The snapshot of a quote taken, whose signing is under way. -/
def State.quoteBegun (s : State) (q : Req) (nonce : BitVec 256) (n : Word) : State :=
  { s with sec := { s.sec with qseq := n }, kal := { s.kal with quoting := some (q.hdr, s.quoteBody nonce n) } }

theorem State.quoteBegun_running (s : State) (q : Req) (nonce : BitVec 256) (n : Word) :
    (s.quoteBegun q nonce n).kal.running = s.kal.running := rfl

theorem kRun_quote {nonce : BitVec 256} (ht : Takes s h (.quote nonce)) :
    (arrived s h (.quote nonce)).kRun (ask h (.quote nonce)) =
      (arrived s h (.quote nonce)).quoteBegin (ask h (.quote nonce)) nonce := by
  rw [kRun, if_neg (permitted ht), cmd_of_reaches ht.1]

theorem exec_quote {nonce : BitVec 256} {u : State} {q : Req} (hu : u = arrived s h (.quote nonce)) (hq : q = ask h (.quote nonce))
    (ht : Takes s h (.quote nonce)) (hkeys : s.keysHeld = true) (hfree : s.kal.quoting = none) :
    exec (.quote h nonce) s = .next ((u.quoteBegun q nonce (s.sec.qseq + 1)).done s.pending) := by
  have hk := kRun_quote ht
  have hquoting : u.kal.quoting = none := by rw [hu, arrived_quoting, hfree]
  have hsec : u.sec = s.sec := by rw [hu, arrived_sec]
  rw [← hu, ← hq, quoteBegin, if_neg (by rw [hu, keysHeld_arrived, hkeys]; decide), hquoting] at hk
  have hidle : u.kal.running = none := by rw [hu, arrived_idle ht.1]
  refine act_of_run ht.1 hu ?_ ((quoteBegun_running ..).trans hidle)
  rw [← hq, hk, quoteBegun, hsec]

theorem exec_quote_denied {nonce : BitVec 256} (ht : Takes s h (.quote nonce)) (hkeys : s.keysHeld = false) :
    exec (.quote h nonce) s = .next (replied s (arrived s h (.quote nonce)) h (.quote nonce) .denied []) := by
  have hk := kRun_quote ht
  rw [quoteBegin, if_pos (by rw [keysHeld_arrived, hkeys]; rfl)] at hk
  exact act_of_said ht hk

theorem exec_quoteSigned {a : KHdr} {body : List Byte} {v : State} {q : Req} (hpow : s.powered = true)
    (hquoting : s.kal.quoting = some (a, body)) (hv : v = { s.putQuote body with kal := { s.kal with quoting := none } })
    (hq : q = ⟨a, 0x07, some (.quote (BitVec.ofNat 256 (bits (ofBytes body) 511 256)))⟩) :
    exec .quoteSigned s = .next ((v.answer q .ok body).done s.pending) := by
  show act s (if s.powered then s.quoteEnds else s) = _
  rw [if_pos hpow, quoteEnds, hquoting, act_next, hv, hq]

end

/-- Settles O36: the snapshot, the refusal without keys, and the end of the signing. -/
theorem quotes : Obligations.Quotes := by
  unfold Obligations.Quotes
  intro s h nonce u
  refine ⟨fun ht hkeys hfree => exec_quote rfl rfl ht hkeys hfree, fun ht hkeys => exec_quote_denied ht hkeys, ?_⟩
  intro a body hpow hquoting buffer v q
  have hend : exec .quoteSigned s = .next ((v.answer q .ok body).done s.pending) := exec_quoteSigned hpow hquoting rfl rfl
  have hkal : ((v.answer q .ok body).done s.pending).kal = (v.answer q .ok body).kal := done_kal _ _
  refine ⟨hend, _, hend, ?_, (done_sec _ _).trans (answer_sec ..), fun hcur => ?_⟩
  · rw [hkal, answer_quoting]
  · rw [hkal]
    exact (answer_kept (s := v) (st := .ok) hcur).trans rfl

/-! Debug tokens. -/

/-- A state with bytes of a token staged from an offset. -/
def State.tokenStaged (s : State) (off : Nat) (data : List Byte) : State :=
  { s with sec := { s.sec with token :=
    (List.range data.length).foldl (fun t k => Tab.set (fun _ => none) t (off + k) (some (data.getD k 0))) s.sec.token } }

/-- What the checks of the token staged say. -/
def State.tokenSays (s : State) : KStat := s.tokenBytes.elim .range s.tokenCheck

/-- A state whose token has been taken out and whose nonce is drawn anew. -/
def State.tokenTaken (s : State) : State := ({ s with sec := { s.sec with token := [] } } : State).drawNonce

/-- A token accepted, whose effect is due. -/
def State.tokenDue (s : State) (q : Req) (bs : List Byte) : State :=
  let u := s.extend 3 (sha256 bs)
  { u with
    sec := { u.sec with
      accepted := some (bits (ofBytes (bs.take 64)) 15 8, BitVec.ofNat 32 (bits (ofBytes (bs.take 64)) 63 32)) }
    kal := { u.kal with running := some q } }

theorem State.tokenTaken_noCtl (s : State) : s.tokenTaken.noCtl =
    ({ s with sec := { s.sec with token := [] }, free := s.free + 1 } : State).noCtl := by
  have hwr : (({ s with sec := { s.sec with token := [] } } : State).wr Reg.SEC_DBG_NONCE_NONCE 0 (Config.random s.free).toNat).noCtl =
      ({ s with sec := { s.sec with token := [] } } : State).noCtl := wr_noCtl ..
  have hfree := free_of_noCtl hwr
  rw [tokenTaken, drawNonce, tick, hfree]
  exact congrArg (fun x : State => { x with free := s.free + 1 }) hwr

theorem State.rd_tokenStaged (s : State) (off : Nat) (data : List Byte) (f : Field) (i : Nat) :
    (s.tokenStaged off data).rd f i = s.rd f i := rd_of_ctl (s := s) (t := s.tokenStaged off data) rfl f i

theorem State.rd_tokenTaken (s : State) {f : Field} {i : Nat} (h : apart Reg.SEC_DBG_NONCE_NONCE 0 f i = true) :
    s.tokenTaken.rd f i = s.rd f i := by
  rw [tokenTaken, drawNonce, tick, rd_with_free, rd_wr_other _ _ h, rd_with_sec]

theorem State.nonce_tokenTaken (s : State) : s.tokenTaken.rd Reg.SEC_DBG_NONCE_NONCE 0 = (Config.random s.free).toNat := by
  rw [tokenTaken, drawNonce, tick, rd_with_free, rd_wr_same _ _ _ _ (by decide)]
  exact Nat.mod_eq_of_lt (Config.random s.free).isLt

theorem State.tokenDue_form (s : State) (q : Req) (bs : List Byte) : (s.tokenDue q bs).kal = { s.kal with running := some q } ∧
    (s.tokenDue q bs).sec = { s.sec with
      accepted := some (bits (ofBytes (bs.take 64)) 15 8, BitVec.ofNat 32 (bits (ofBytes (bs.take 64)) 63 32)) } := by
  have hrest : (s.extend 3 (sha256 bs)).noCtl = s.noCtl := extend_noCtl ..
  rw [tokenDue, ← kal_of_noCtl hrest, ← sec_of_noCtl hrest]
  exact ⟨rfl, rfl⟩

theorem State.rd_tokenDue (s : State) (q : Req) (bs : List Byte) (f : Field) (i : Nat) :
    (s.tokenDue q bs).rd f i = (s.extend 3 (sha256 bs)).rd f i := by
  exact rd_of_ctl (s := s.extend 3 (sha256 bs)) (t := s.tokenDue q bs) rfl f i

theorem State.debugToken_staged {s : State} {q : Req} {off : Nat} {data : List Byte} (hoff : off + data.length ≤ 7920)
    (h960 : data.length ≤ 960) : s.debugToken q off 0 data = (s.tokenStaged off data).answer q .ok [] := by
  rw [debugToken, if_neg (by simp; omega)]
  rfl

theorem State.debugToken_accepted {s : State} {q : Req} {off : Nat} {data bs : List Byte} (hoff : off + data.length ≤ 7920)
    (h960 : data.length ≤ 960) (hbytes : (s.tokenStaged off data).tokenBytes = some bs)
    (hok : (s.tokenStaged off data).tokenSays = .ok) :
    s.debugToken q off 1 data = (s.tokenStaged off data).tokenTaken.tokenDue q bs := by
  simp only [tokenSays, hbytes, Option.elim_some] at hok
  unfold tokenStaged at hbytes hok ⊢
  rw [debugToken, if_neg (by simp; omega), if_neg Nat.one_ne_zero]
  simp only [hbytes, hok]
  rfl

theorem State.debugToken_refused {s : State} {q : Req} {off : Nat} {data : List Byte} (hoff : off + data.length ≤ 7920)
    (h960 : data.length ≤ 960) (hnot : (s.tokenStaged off data).tokenSays ≠ .ok) :
    s.debugToken q off 1 data = (s.tokenStaged off data).tokenTaken.answer q (s.tokenStaged off data).tokenSays [] := by
  obtain ⟨r, hr⟩ : ∃ r : KStat, (s.tokenStaged off data).tokenSays = r := ⟨_, rfl⟩
  rw [hr] at hnot ⊢
  unfold tokenStaged at hr ⊢
  rw [debugToken, if_neg (by simp; omega), if_neg Nat.one_ne_zero]
  rw [tokenSays] at hr
  obtain ⟨bytes, hb⟩ : ∃ bytes, (s.tokenStaged off data).tokenBytes = bytes := ⟨_, rfl⟩
  unfold tokenStaged at hb
  cases bytes with
  | none =>
    simp only [hb, Option.elim_none] at hr
    simp only [hb, ← hr]
    rfl
  | some bs =>
    simp only [hb, Option.elim_some] at hr
    simp only [hb, hr]
    split
    case h_1 => exact absurd rfl hnot
    case h_2 => rfl

section
variable {s : State} {h : KHdr} {off : Word} {data : List Byte}

theorem kRun_debugToken {final : Byte} (ht : Takes s h (.debugToken off final data)) :
    (arrived s h (.debugToken off final data)).kRun (ask h (.debugToken off final data)) =
      (arrived s h (.debugToken off final data)).debugToken (ask h (.debugToken off final data)) off.toNat final.toNat data := by
  rw [kRun, if_neg (permitted ht), cmd_of_reaches ht.1]

theorem exec_debugToken_staged (ht : Takes s h (.debugToken off 0 data)) (hoff : off.toNat + data.length ≤ 7920)
    (h960 : data.length ≤ 960) : ∃ t, exec (.debugToken h off 0 data) s = .next t ∧
      (∀ k, k < data.length → Tab.get (fun _ => none) t.sec.token (off.toNat + k) = some (data.getD k 0)) ∧
      t.sec = { s.sec with token := t.sec.token } ∧ t.kal.boxes[h.mbox].kept.map (·.status) = some 0 := by
  obtain ⟨u, hu⟩ : ∃ u : State, u = arrived s h (.debugToken off 0 data) := ⟨_, rfl⟩
  have hsec : u.sec = s.sec := by rw [hu, arrived_sec]
  have hk := kRun_debugToken ht
  rw [← hu, show (0 : Byte).toNat = 0 from rfl, debugToken_staged hoff h960] at hk
  have hidle : u.kal.running = none := by rw [hu, arrived_idle ht.1]
  have hvsec : (u.tokenStaged off.toNat data).sec = { s.sec with token := (u.tokenStaged off.toNat data).sec.token } := by
    rw [tokenStaged, ← hsec]
  obtain ⟨v, hv⟩ : ∃ v : State, v = u.tokenStaged off.toNat data := ⟨_, rfl⟩
  rw [← hv] at hk hvsec
  have hvkal : v.kal = u.kal := by rw [hv, tokenStaged]
  have htsec := replied_sec s v h (.debugToken off 0 data) .ok []
  refine ⟨_, act_of_answered ht.1 hu hk (by rw [hvkal, hidle]), fun k hk => ?_, ?_, ?_⟩
  · rw [htsec, hv, tokenStaged]
    exact Tab.get_foldl_set _ _ _ _ _ hk
  · rw [htsec]
    exact hvsec
  · exact replied_kept .ok (by rw [hvkal, hu])

theorem exec_debugToken_accepted {bs : List Byte} {v : State} {q : Req} (hq : q = ask h (.debugToken off 1 data))
    (hv : v = (arrived s h (.debugToken off 1 data)).tokenStaged off.toNat data)
    (ht : Takes s h (.debugToken off 1 data)) (hoff : off.toNat + data.length ≤ 7920) (h960 : data.length ≤ 960)
    (hbytes : v.tokenBytes = some bs) (hok : v.tokenSays = .ok) : ∃ t, exec (.debugToken h off 1 data) s = .next t ∧
      t.sec.token = [] ∧ t.rd Reg.SEC_DBG_NONCE_NONCE 0 = (Config.random s.free).toNat ∧
      t.sec.accepted = some (bits (ofBytes (bs.take 64)) 15 8, BitVec.ofNat 32 (bits (ofBytes (bs.take 64)) 63 32)) ∧
      t.kal.running = some q ∧ Extended s t 3 (sha256 bs) := by
  obtain ⟨u, hu⟩ : ∃ u : State, u = arrived s h (.debugToken off 1 data) := ⟨_, rfl⟩
  have hk := kRun_debugToken ht
  rw [← hu] at hv
  rw [← hu, ← hq, show (1 : Byte).toNat = 1 from rfl, debugToken_accepted hoff h960 (hv ▸ hbytes) (hv ▸ hok), ← hv] at hk
  obtain ⟨w, hw⟩ : ∃ w : State, w = v.tokenTaken := ⟨_, rfl⟩
  obtain ⟨x, hx⟩ : ∃ x : State, x = w.tokenDue q bs := ⟨_, rfl⟩
  rw [← hw, ← hx] at hk
  obtain ⟨hxkal, hxsec⟩ := tokenDue_form w q bs
  rw [← hx] at hxkal hxsec
  have hwrest := tokenTaken_noCtl v
  rw [← hw] at hwrest
  have hwsec : w.sec.token = [] := by rw [sec_of_noCtl hwrest]
  have hvfree : v.free = s.free := by
    have hfree : u.free = s.free := by rw [hu, arrived_free]
    rw [hv, tokenStaged, hfree]
  have hrunning : x.kal.running = some q := by rw [hxkal]
  have hsettle : x.slotSettle = x := by
    rw [slotSettle, hrunning, hq]
    simp only [cmd_of_reaches ht.1]
  have hex : exec (.debugToken h off 1 data) s = .next (x.done s.pending) := by
    rw [← hsettle]
    exact act_of_executing ht.1 hu (hq ▸ hk)
  have hxrd {f : Field} {i : Nat} (hm : apartFromMeas f i 3 = true) : x.rd f i = w.rd f i := by
    rw [hx, rd_tokenDue, rd_extend _ _ hm]
  have hext : Extended u x 3 (sha256 bs) := by
    have hap : ∀ f ∈ [Reg.SEC_MEAS_M, Reg.SEC_MEAS_CNT_COUNT], apart Reg.SEC_DBG_NONCE_NONCE 0 f 3 = true := by decide
    refine extended_congr (extended_extend w (by decide) (sha256 bs)) (fun f hf => ?_) fun f hf => ?_
    · rw [hw, rd_tokenTaken _ (hap f hf), hv, rd_tokenStaged]
    · rw [hx, rd_tokenDue]
  have htsec : (x.done s.pending).sec = x.sec := done_sec _ _
  have htkal : (x.done s.pending).kal = x.kal := done_kal _ _
  refine ⟨_, hex, ?_, ?_, ?_, ?_, extended_done (by decide) _ (extended_of_arrived (by decide) (hu ▸ hext))⟩
  · rw [htsec, hxsec]
    exact hwsec
  · rw [done_rd _ (by decide), hxrd (by decide), hw, nonce_tokenTaken, hvfree]
  · rw [htsec, hxsec]
  · rw [htkal, hrunning]

theorem exec_debugToken_refused {v : State} {st : KStat}
    (hv : v = (arrived s h (.debugToken off 1 data)).tokenStaged off.toNat data) (hst : st = v.tokenSays)
    (ht : Takes s h (.debugToken off 1 data)) (hoff : off.toNat + data.length ≤ 7920) (h960 : data.length ≤ 960)
    (hnot : st ≠ .ok) : ∃ t, exec (.debugToken h off 1 data) s = .next t ∧
      t.sec.token = [] ∧ t.rd Reg.SEC_DBG_NONCE_NONCE 0 = (Config.random s.free).toNat ∧
      t.sec.accepted = s.sec.accepted ∧ t.kal.running = none ∧ t.kal.boxes[h.mbox].kept.map (·.status) = some (kStatus st) := by
  obtain ⟨u, hu⟩ : ∃ u : State, u = arrived s h (.debugToken off 1 data) := ⟨_, rfl⟩
  have hk := kRun_debugToken ht
  rw [← hu] at hv
  rw [hst, hv] at hnot
  rw [← hu, show (1 : Byte).toNat = 1 from rfl, debugToken_refused hoff h960 hnot, ← hv, ← hst] at hk
  obtain ⟨w, hw⟩ : ∃ w : State, w = v.tokenTaken := ⟨_, rfl⟩
  rw [← hw] at hk
  have hwrest := tokenTaken_noCtl v
  rw [← hw] at hwrest
  have hvkal : v.kal = u.kal := by rw [hv, tokenStaged]
  have hwkal : w.kal = u.kal := (kal_of_noCtl hwrest).trans hvkal
  have hsec : w.sec.token = [] ∧ w.sec.accepted = s.sec.accepted := by
    have husec : u.sec = s.sec := by rw [hu, arrived_sec]
    rw [sec_of_noCtl hwrest, ← husec, hv, tokenStaged]
    exact ⟨rfl, rfl⟩
  have hvfree : v.free = s.free := by
    have hfree : u.free = s.free := by rw [hu, arrived_free]
    rw [hv, tokenStaged, hfree]
  have hidle : w.kal.running = none := by rw [hwkal, hu, arrived_idle ht.1]
  refine ⟨_, act_of_answered ht.1 hu hk hidle, ?_, ?_, ?_, ?_, replied_kept st (by rw [hwkal, hu])⟩
  · rw [replied_sec, hsec.1]
  · rw [replied_rd _ _ _ _ _ _ (by decide) (by decide), hw, nonce_tokenTaken, hvfree]
  · rw [replied_sec, hsec.2]
  · rw [replied, done_kal, answer_running, hidle]

end

/-- A token that was accepted has its effect, with its answer. -/
theorem State.tokenActs_eq {s : State} {q : Req} {kind : Nat} {arg : Word} {clear : State} (f : Word → State → State)
    (hclear : clear = { s with sec := { s.sec with accepted := none } }) (hacc : s.sec.accepted = some (kind, arg))
    (hrun : s.kal.running = some q) (hserves : s.kalecServes = true) :
    s.tokenActs kind f = ((f arg clear).answer q .ok []).runEnds := by
  subst hclear
  unfold tokenActs
  split
  case h_1 k arg' q' hacc' hrun' =>
    cases hacc.symm.trans hacc'
    cases hrun.symm.trans hrun'
    rw [if_neg (by rw [hserves]; simp)]
  case h_2 hnone => exact absurd hrun (hnone _ _ _ hacc)

section
variable {s : State} {q : Req} {kind : Nat} {arg : Word} {clear u : State} (f : Word → State → State)
  (hclear : clear = { s with sec := { s.sec with accepted := none } }) (hacc : s.sec.accepted = some (kind, arg))
  (hrun : s.kal.running = some q) (hserves : s.kalecServes = true) (hu : f arg clear = u)
include hclear hacc hrun hserves hu

theorem act_tokenActs : act s (s.tokenActs kind f) = .next ((u.answer q .ok []).runEnds.done s.pending) := by
  rw [tokenActs_eq f hclear hacc hrun hserves, hu, act_next]

theorem act_tokenActs_settled :
    act s (s.tokenActs kind f).kSettle = .next ((u.answer q .ok []).runEnds.kSettle.done s.pending) := by
  rw [tokenActs_eq f hclear hacc hrun hserves, hu, act_next]

end

/-- Settles O34: bytes staged, the token of a FINAL accepted or refused by what its checks say, and each kind's effect. -/
theorem debugTokens : Obligations.DebugTokens := by
  unfold Obligations.DebugTokens
  intro s h off data q arg
  refine ⟨exec_debugToken_staged, ?_, ?_⟩
  · intro ht hoff h960 u put v st
    have hst : st = v.tokenSays := by
      simp only [st, tokenSays]
      generalize v.tokenBytes = bytes
      cases bytes with
      | none => rfl
      | some bs => rfl
    by_cases hok : st = .ok
    case neg =>
      obtain ⟨t, hex, htok, hnonce, hrest⟩ := exec_debugToken_refused (v := v) rfl hst ht hoff h960 hok
      exact ⟨t, hex, htok, hnonce, fun bs _ h => absurd h hok, fun _ => hrest⟩
    case pos =>
      have hsome : ∃ bs, v.tokenBytes = some bs := by
        rw [hst, tokenSays] at hok
        cases hb : v.tokenBytes with
        | none => rw [hb, Option.elim_none] at hok; cases hok
        | some bs => exact ⟨bs, rfl⟩
      obtain ⟨bs, hbs⟩ := hsome
      obtain ⟨t, hex, htok, hnonce, hrest⟩ := exec_debugToken_accepted (v := v) rfl rfl ht hoff h960 hbs (hst ▸ hok)
      exact ⟨t, hex, htok, hnonce, fun bs' hbs' _ => Option.some.inj (hbs.symm.trans hbs') ▸ hrest, fun h => absurd hok h⟩
  · intro hrun hserves clear ends
    exact ⟨fun hacc => act_tokenActs_settled _ rfl hacc hrun hserves rfl,
      fun hacc => act_tokenActs_settled _ rfl hacc hrun hserves rfl, fun hacc => act_tokenActs _ rfl hacc hrun hserves rfl,
      fun hacc => act_tokenActs _ rfl hacc hrun hserves rfl, fun hacc => act_tokenActs_settled _ rfl hacc hrun hserves rfl⟩

end Sys2Proof.Machine
end


section
/-!
Restarts of Kalec (R448), CLOSE, RESEAL and lifecycle resets (R480, R481, R488).
-/
namespace Sys2Proof.Machine

open State Sys2Proof.Safety

/-- A mailbox whose request in progress a restart cut short. -/
def Mbox.cutShort (b : Mbox) : Mbox := match b.cur with
  | some q => { b with cur := none, cut := some q.hdr }
  | none => b

theorem Mbox.cutShort_cur (b : Mbox) : b.cutShort.cur = none := by
  unfold Mbox.cutShort
  split
  case h_1 => rfl
  case h_2 hnone => exact hnone

theorem Mbox.cutShort_cut {b : Mbox} {q : Req} (h : b.cur = some q) : b.cutShort.cut = some q.hdr := by
  rw [Mbox.cutShort, h]

namespace State

/-- Kalec's state as a restart leaves it. -/
def kalCut (k : Kalec) (memErr : Bool) : Kalec :=
  { k with boxes := k.boxes.map Mbox.cutShort, claims := [], waiting := [], restart := true, restartMem := memErr }

/-- Mailboxes shown idle, one after another. -/
def boxesIdle (s : State) (ms : List (Fin 16)) : State :=
  ms.foldl (fun (s : State) (m : Fin 16) => s.wr Reg.KAL_MB_STATUS_STATE m.val 0) s

/-- The mailboxes with a request in progress. -/
def boxesBusy (s : State) : List (Fin 16) := (List.finRange 16).filter fun m => s.kal.boxes[m].cur.isSome

/-- An open claim window closed. -/
def windowShut (s : State) : State := if s.ownState = 1 then s.wr Reg.HRT_OWNER_STATE 0 0 else s

theorem boxesIdle_noCtl (s : State) (ms : List (Fin 16)) : (s.boxesIdle ms).noCtl = s.noCtl :=
  foldl_keeps noCtl _ (fun _ _ => wr_noCtl ..) _ _

theorem windowShut_noCtl (s : State) : s.windowShut.noCtl = s.noCtl := ite_keeps noCtl _ (wr_noCtl ..) rfl

theorem rd_boxesIdle (s : State) (ms : List (Fin 16)) {f : Field} {i : Nat}
    (h : ∀ m : Fin 16, apart Reg.KAL_MB_STATUS_STATE m f i = true) : (s.boxesIdle ms).rd f i = s.rd f i :=
  foldl_keeps (fun t : State => t.rd f i) _ (fun _ m => rd_wr_other _ _ (h m)) _ _

theorem rd_windowShut (s : State) {f : Field} {i : Nat} (h : apart Reg.HRT_OWNER_STATE 0 f i = true) :
    s.windowShut.rd f i = s.rd f i := ite_keeps (fun t : State => t.rd f i) _ (rd_wr_other _ _ h) rfl

/-- A mailbox shown idle stays so while others are. -/
theorem idle_wr_idle {s : State} {m : Fin 16} (k : Fin 16) (h : s.rd Reg.KAL_MB_STATUS_STATE m = 0) :
    (s.wr Reg.KAL_MB_STATUS_STATE k 0).rd Reg.KAL_MB_STATUS_STATE m = 0 := by
  have hapart : ∀ k m : Fin 16, k ≠ m → apart Reg.KAL_MB_STATUS_STATE k Reg.KAL_MB_STATUS_STATE m = true := by decide
  by_cases hkm : k = m
  · rw [hkm, rd_wr_same _ _ _ _ (by decide), Nat.zero_mod]
  · rw [rd_wr_other _ _ (hapart k m hkm), h]

theorem boxesIdle_shown {m : Fin 16} {ms : List (Fin 16)} (hm : m ∈ ms) (s : State) :
    (s.boxesIdle ms).rd Reg.KAL_MB_STATUS_STATE m = 0 := by
  induction ms generalizing s with
  | nil => cases hm
  | cons k ms ih =>
    rcases List.mem_cons.mp hm with rfl | hrest
    · exact foldl_holds (fun t : State => t.rd Reg.KAL_MB_STATUS_STATE m = 0) _ (fun _ k h => idle_wr_idle k h) ms _
        (rd_wr_same _ _ _ _ (by decide))
    · exact ih hrest _

/-- What a restart leads to where no handover is under way and memory is up. -/
theorem restart_eq {s : State} (memErr : Bool) (hup : s.kalecUp = true) (hrestart : s.kal.restart = false)
    (hact : s.kal.activate = none) :
    s.restart memErr = (({ s with kal := kalCut s.kal memErr } : State).boxesIdle s.boxesBusy).windowShut := by
  simp only [kalecUp, Bool.and_eq_true, decide_eq_true_eq, ne_eq] at hup
  obtain ⟨⟨⟨hpow, h3⟩, h5⟩, hst⟩ := hup
  have hruns : s.coresRun = true := by
    simp only [coresRun, hpow, Bool.true_and, Bool.and_eq_true, decide_eq_true_eq, bne_iff_ne, ne_eq]
    exact ⟨⟨by omega, h5⟩, hst⟩
  have hpre : s.preMemory = false := by
    simp only [preMemory, Bool.or_eq_false_iff, decide_eq_false_iff_not, beq_eq_false_iff_ne, ne_eq]
    exact ⟨by omega, h5⟩
  have hcut : s.cutHandoff = s := by rw [cutHandoff, hact]
  rw [restart, if_neg (by rw [hruns, hrestart]; decide), if_neg (by rw [hact]; simp), if_neg (by rw [hpre]; decide), hcut]
  rfl

end State

theorem exec_watchdog_serving {s : State} {memErr : Bool} (hserves : s.kalecServes = true) :
    ∃ t, exec (.kalecWatchdogExpire memErr) s = .next t ∧ t.kal.restart = true ∧ t.kal.restartMem = memErr ∧
      t.kal.waiting = [] ∧ t.kal.claims = [] ∧ (∀ m : Fin 16, t.kal.boxes[m].cur = none) ∧
      (∀ m : Fin 16, ∀ q, s.kal.boxes[m].cur = some q → t.kal.boxes[m].cut = some q.hdr ∧ t.rd Reg.KAL_MB_STATUS_STATE m = 0) ∧
      (s.ownState = 1 → t.ownState = 0) ∧ t = { s with ctl := t.ctl, kal := t.kal } := by
  simp only [kalecServes, Bool.and_eq_true, Bool.not_eq_true', Option.isNone_iff_eq_none] at hserves
  obtain ⟨⟨hup, hrestart⟩, hact⟩ := hserves
  obtain ⟨u, hu⟩ : ∃ u : State, u = ({ s with kal := kalCut s.kal memErr } : State).boxesIdle s.boxesBusy := ⟨_, rfl⟩
  have hform : s.restart memErr = u.windowShut := by rw [hu, restart_eq memErr hup hrestart hact]
  have hrest : u.windowShut.noCtl = ({ s with kal := kalCut s.kal memErr } : State).noCtl := by
    rw [windowShut_noCtl, hu, boxesIdle_noCtl]
  have hkal : (u.windowShut.done s.pending).kal = kalCut s.kal memErr := (done_kal _ _).trans (kal_of_noCtl hrest)
  have hown : ∀ m : Fin 16, ownField Reg.KAL_MB_STATUS_STATE m = true ∧
      apart Reg.HRT_OWNER_STATE 0 Reg.KAL_MB_STATUS_STATE m = true := by decide
  refine ⟨u.windowShut.done s.pending, ?_, ?_, ?_, ?_, ?_, fun m => ?_, fun m q hcur => ⟨?_, ?_⟩, fun howner => ?_, ?_⟩
  · show act s (s.restart memErr) = _
    rw [hform, act_next]
  · rw [hkal, kalCut]
  · rw [hkal, kalCut]
  · rw [hkal, kalCut]
  · rw [hkal, kalCut]
  · rw [hkal, kalCut]
    simpa using Mbox.cutShort_cur s.kal.boxes[m]
  · rw [hkal, kalCut]
    simpa using Mbox.cutShort_cut hcur
  · rw [done_rd _ (hown m).1, rd_windowShut _ (hown m).2, hu]
    exact boxesIdle_shown (by simp [boxesBusy] at hcur ⊢; rw [hcur]; rfl) _
  · have huown : u.ownState = 1 := by
      have hboxes : ∀ m : Fin 16, apart Reg.KAL_MB_STATUS_STATE m Reg.HRT_OWNER_STATE 0 = true := by decide
      rw [hu, ownState, rd_boxesIdle _ _ hboxes, rd_with_kal]
      exact howner
    rw [ownState, done_rd _ (by decide), windowShut, if_pos huown, rd_wr_same _ _ _ _ (by decide),
      Nat.zero_mod]
  · have hnoCtl : (u.windowShut.done s.pending).noCtl = ({ s with kal := kalCut s.kal memErr } : State).noCtl :=
      (done_noCtl _ _).trans (congrArg (fun x : State => { x with pending := s.pending }) hrest)
    generalize u.windowShut.done s.pending = t at hkal hnoCtl ⊢
    rw [← hkal] at hnoCtl
    exact eq_of_noCtl hnoCtl

theorem exec_watchdog_early {s : State} {memErr : Bool} (hpow : s.powered = true) (hstage : s.stage = 2)
    (hst : s.rd Reg.PWR_STATUS_STATE 0 ≠ 3) (hrestart : s.kal.restart = false) (hact : s.kal.activate = none) :
    ∃ t, exec (.kalecWatchdogExpire memErr) s = .next t ∧
      RegsOnly { s with kal := { s.kal with restart := true, restartMem := memErr } } t [] := by
  have hruns : s.coresRun = true := by
    simp only [coresRun, hpow, hstage, Bool.true_and, Bool.and_eq_true, decide_eq_true_eq, bne_iff_ne, ne_eq]
    exact ⟨⟨by omega, by omega⟩, hst⟩
  have hpre : s.preMemory = true := by
    simp only [preMemory, hstage]
    decide
  refine ⟨_, ?_, done_regsOnly rfl fun _ _ => rfl⟩
  show act s (s.restart memErr) = _
  rw [restart, if_neg (by rw [hruns, hrestart]; decide), if_neg (by rw [hact]; simp), if_pos hpre, act_next]

theorem exec_watchdog_handover {s : State} (hruns : s.coresRun = true) (hrestart : s.kal.restart = false)
    (hact : s.kal.activate.isSome = true) : exec (.kalecWatchdogExpire false) s = exec (.fwHandoff false) s := by
  show act s (s.restart false) = act s (s.handoff false)
  rw [restart, if_neg (by rw [hruns, hrestart]; decide), if_pos (by rw [hact]; rfl)]

/-- Nothing that waits and nothing that executes: there is nothing to settle. -/
theorem State.kSettle_of_idle {s : State} (hwait : s.kal.waiting = []) (hidle : s.kal.running = none) : s.kSettle = s := by
  rw [kSettle, slotSettle_of_idle hidle]
  simp only [hwait, List.length_nil]
  rfl

theorem exec_restartDone {s : State} {third : Bool} (hruns : s.coresRun = true) (hrestart : s.kal.restart = true)
    (hwait : s.kal.waiting = []) (hidle : s.kal.running = none) :
    ∃ t, exec (.kalecRestartDone third) s = .next t ∧ Raised s t 0x0103 0 none (if s.kal.restartMem then 2 else 1) ∧
      EventsOnly { s with
        kal := { s.kal with restart := false }
        pw := if third then { s.pw with alertHeld := true } else s.pw } t [] := by
  obtain ⟨u, hu⟩ : ∃ u : State, u = { s with kal := { s.kal with restart := false } } := ⟨_, rfl⟩
  obtain ⟨v, hv⟩ : ∃ v : State, v = u.raise 0x0103 0 none (if s.kal.restartMem then 2 else 1) := ⟨_, rfl⟩
  obtain ⟨w, hw⟩ : ∃ w : State, w = if third then { v with pw := { v.pw with alertHeld := true } } else v := ⟨_, rfl⟩
  have hvkal : v.kal = { s.kal with restart := false } := by rw [hv, raise_kal, hu]
  have hwkal : w.kal = v.kal := hw ▸ ite_keeps State.kal _ rfl rfl
  have hform : s.restarted third = w := by
    have hsettle : w.kSettle = w := kSettle_of_idle (by rw [hwkal, hvkal]; exact hwait) (by rw [hwkal, hvkal]; exact hidle)
    rw [restarted, if_neg (by rw [hruns, hrestart]; decide)]
    simp only [← hu, ← hv, ← hw, hsettle]
  have hstamp : u.stamp none = s.stamp none := by
    rw [hu]
    rfl
  have hwtel : w.tel = v.tel := hw ▸ ite_keeps State.tel _ rfl rfl
  refine ⟨w.done s.pending, ?_, ?_, done_eventsOnly (s := { s with
    kal := { s.kal with restart := false }, pw := if third then { s.pw with alertHeld := true } else s.pw }) ?_ fun a _ hev => ?_⟩
  · show act s (s.restarted third) = _
    rw [hform, act_next]
  · rw [Raised, done_tel, hwtel, ← eventRec_of_stamp hstamp, hv]
    exact raise_logs ..
  · have hvrest : v.noEvent = u.noEvent := by rw [hv, raise_noEvent]
    have hvpw : v.pw = s.pw := by rw [pw_of_noEvent hvrest, hu]
    rw [hw]
    cases third with
    | true =>
      rw [if_pos rfl, if_pos rfl, hvpw]
      exact (congrArg (fun x : State => { x with pw := { s.pw with alertHeld := true } }) hvrest).trans (by rw [hu])
    | false =>
      rw [if_neg Bool.false_ne_true, if_neg Bool.false_ne_true, hvrest, hu]
  · have hwword : w.word a = v.word a := hw ▸ ite_keeps (fun x : State => x.word a) _ rfl rfl
    rw [hwword, hv, raise_word _ _ _ _ _ _ hev, hu]
    rfl

/-- Settles O33: the restart of a Kalec that serves, the early one, the one in a handover, and the restarted Kalec. -/
theorem kalecRestarts : Obligations.KalecRestarts := by
  unfold Obligations.KalecRestarts
  intro s memErr third
  exact ⟨exec_watchdog_serving, exec_watchdog_early, exec_watchdog_handover, exec_restartDone⟩

/-! CLOSE and RESEAL (R481, R488). -/

theorem exec_close {s : State} {w : Writer} (hw : writable s w 0x040004 = true)
    (hport : s.rd Reg.SEC_LC_PORT 0 = 1 ∨ s.rd Reg.SEC_LC_PORT 0 = 2) : ∃ t, exec (.close w) s = .next t ∧
      t.rd Reg.SEC_LC_PORT 0 = 0 ∧ t.wres = .ok ∧ t.tap.drive = .functional ∧ Extended s t 3 [0] ∧ t.mem = s.mem ∧
      t.ops = s.ops := by
  obtain ⟨u, hu⟩ : ∃ u : State, u = { s with tap := { s.tap with
    drive := .functional, bypassed := s.tap.ir != 0x01 && s.tap.ir != 0xFF } } := ⟨_, rfl⟩
  obtain ⟨v, hv⟩ : ∃ v : State, v = (u.wr Reg.SEC_LC_PORT 0 0).extend 3 [BitVec.ofNat 8 0] := ⟨_, rfl⟩
  have hclosed : s.closePort = v := by
    rw [closePort, if_pos (by simpa using hport), setPort, if_neg (by omega), hv, hu]
    simp only [if_true]
  have hwrite : s.secCtrlWrite 1 = (v, .ok) := by
    rw [secCtrlWrite, if_neg (by decide), if_pos (by decide), hclosed]
  have hrest : v.noCtl = u.noCtl := by rw [hv, extend_noCtl, wr_noCtl]
  refine ⟨(v.writeStatus .ok).done s.pending, ?_, ?_, ?_, ?_, extended_done (by decide) _ ?_, ?_, ?_⟩
  · show act s (s.regWrite w 0x040004 1 fun s => s.secCtrlWrite 1) = _
    rw [regWrite_made hw hwrite, act_next]
  · rw [done_rd _ (by decide), writeStatus_rd, hv, rd_extend _ _ (by decide), rd_wr_same _ _ _ _ (by decide), Nat.zero_mod]
  · rw [done_wres]
    rfl
  · rw [done_tap]
    exact (congrArg (fun x : Tap => x.drive) (tap_of_noCtl hrest)).trans (by rw [hu])
  · have hap : ∀ f ∈ [Reg.SEC_MEAS_M, Reg.SEC_MEAS_CNT_COUNT], apart Reg.SEC_LC_PORT 0 f 3 = true := by decide
    refine extended_congr (extended_extend (u.wr Reg.SEC_LC_PORT 0 0) (by decide) [0]) (fun f hf => ?_) fun f _ => ?_
    · rw [rd_wr_other _ _ (hap f hf)]
      exact (rd_of_ctl (s := s) (t := u) (by rw [hu]) f 3).symm
    · rw [writeStatus_rd, hv]
      rfl
  · rw [done_mem]
    exact (mem_of_noCtl hrest).trans (by rw [hu])
  · rw [done_ops]
    exact (ops_of_noCtl hrest).trans (by rw [hu])

theorem exec_reseal {s : State} {w : Writer} (hw : writable s w 0x040004 = true) (hlc : s.rd Reg.SEC_LC_LC 0 = 2) :
    ∃ t, exec (.reseal w) s = .next t ∧ RegsOnly { s with wres := .ok, sec := { s.sec with toState := some 1 } } t [] := by
  have hwrite : s.secCtrlWrite 2 = ({ s with sec := { s.sec with toState := some 1 } }, .ok) := by
    rw [secCtrlWrite, if_pos (by decide), if_pos hlc]
  refine ⟨_, ?_, done_regsOnly (s := { s with wres := .ok, sec := { s.sec with toState := some 1 } })
    (u := ({ s with sec := { s.sec with toState := some 1 } } : State).writeStatus .ok) rfl fun _ _ => rfl⟩
  show act s (s.regWrite w 0x040004 2 fun s => s.secCtrlWrite 2) = _
  rw [regWrite_made hw hwrite, act_next]

/-! Lifecycle resets (R480). -/

/-- A table's part below a bound followed by another's part from the bound on reads as the one and the other. -/
theorem Tab.get_splice {α : Type} (d : Nat → α) (t u : Tab α) (b k : Nat) :
    Tab.get d (t.filter (fun e => decide (e.1 < b)) ++ u.filter (fun e => decide (b ≤ e.1))) k =
      if k < b then Tab.get d t k else Tab.get d u k := by
  have hhigh : Tab.get d (u.filter fun e => decide (b ≤ e.1)) k = if k < b then d k else Tab.get d u k := by
    induction u with
    | nil => simp [Tab.get]
    | cons e u ih =>
      obtain ⟨j, v⟩ := e
      by_cases hj : b ≤ j
      · by_cases hkj : k = j
        · have hkb : ¬ k < b := by omega
          simp [Tab.get, hj, hkj]
        · simp only [List.filter_cons, hj, decide_true, if_true, Tab.get, hkj, if_false, ih]
      · simp only [List.filter_cons, hj, decide_false, Bool.false_eq_true, if_false, ih, Tab.get]
        by_cases hkb : k < b
        · rw [if_pos hkb, if_pos hkb]
        · rw [if_neg hkb, if_neg hkb, if_neg (by omega)]
  induction t with
  | nil =>
    simp only [List.filter_nil, List.nil_append, hhigh]
    rfl
  | cons e t ih =>
    obtain ⟨j, v⟩ := e
    by_cases hj : j < b
    · by_cases hkj : k = j
      · simp [Tab.get, hj, hkj]
      · simp only [List.filter_cons, hj, decide_true, if_true, List.cons_append, Tab.get, hkj, if_false, ih]
    · simp only [List.filter_cons, hj, decide_false, Bool.false_eq_true, if_false, ih, Tab.get]
      by_cases hkb : k < b
      · rw [if_pos hkb, if_pos hkb, if_neg (by omega)]
      · rw [if_neg hkb, if_neg hkb]

namespace State

/-- Fields cleared one after another. -/
def cleared (s : State) (fs : List Field) : State := fs.foldl (fun (t : State) f => t.wr f 0 0) s

theorem cleared_noCtl (s : State) (fs : List Field) : (s.cleared fs).noCtl = s.noCtl := foldl_keeps noCtl _ (fun _ _ => wr_noCtl ..) _ _

theorem rd_cleared_other {fs : List Field} {g : Field} {i : Nat} (h : ∀ f ∈ fs, apart f 0 g i = true) (s : State) :
    (s.cleared fs).rd g i = s.rd g i := by
  induction fs generalizing s with
  | nil => rfl
  | cons f fs ih =>
    exact (ih (fun e he => h e (List.mem_cons_of_mem _ he)) _).trans (rd_wr_other _ _ (h f List.mem_cons_self))

theorem word_cleared {fs : List Field} {a : Nat} (h : ∀ f ∈ fs, a < fieldAddr f 0 ∨ fieldAddr f 0 + 4 * fieldWords f ≤ a) (s : State) :
    (s.cleared fs).word a = s.word a := by
  induction fs generalizing s with
  | nil => rfl
  | cons f fs ih =>
    exact (ih (fun e he => h e (List.mem_cons_of_mem _ he)) _).trans (word_wr_other _ _ (h f List.mem_cons_self))

theorem startUp_noCtl (s : State) (stage : Nat) (addrSel slotId : BitVec 3) (flowOk : Bool) :
    (s.startUp stage addrSel slotId flowOk).noCtl = ({ offWith s.flash s.fuses with
      pw := { powerReset with mode := .on, addrSel := addrSel, slotId := slotId, flowOk := flowOk, compute := flowOk }
      flash := { s.flash with boot := s.flash.boot + 1 }
      pending := s.pending
      free := s.free } : State).noCtl := by
  rw [startUp, wr_noCtl, wrB_noCtl, wr_noCtl, wrB_noCtl, wr_noCtl]
  rfl

/-- What a lifecycle reset keeps of a state with what starts up anew. -/
def lifecycleKept (s t : State) (lc : Nat) : State :=
  ({ t with
    ctl := s.ctl.filter (fun e => decide (e.1 < 0x10000)) ++ t.ctl.filter (fun e => decide (0x10000 ≤ e.1))
    sec := { t.sec with qseq := s.sec.qseq, everArm := s.sec.everArm, debug := lc == 2 }
    pw := { t.pw with hot := s.pw.hot }
    ms := { t.ms with retired := s.ms.retired, slagFull := s.ms.slagFull } } : State).keepReductions s

/-- The fields of Hearth that a lifecycle reset clears, but for the countdowns. -/
def ownerFields : List Field := [Reg.HRT_OWNER_STATE, Reg.HRT_OWNER_PRIORITY, Reg.HRT_OWNER_MBOX, Reg.HRT_OWNER_VIA_I3C,
  Reg.HRT_OWNER_ID_AGENT_ID, Reg.HRT_CFG_SEQ_SEQ, Reg.HRT_FW_RUNNING, Reg.HRT_FW_ACTIVATING, Reg.HRT_FW_COMMITTED]

/-- The countdowns that a lifecycle reset releases. -/
def countdownFields : List Field := [Reg.HRT_CD_HOLD_CD1, Reg.HRT_CD_HOLD_CD3]

/-- The registers as a lifecycle reset shows them. -/
def lifecycleShown (t : State) (flowOk : Bool) (resets : Nat) : State :=
  ((((t.setWord 0x000020 (BitVec.ofNat 32 (1 + 8 * b2n !flowOk))).wr Reg.SEC_LC_LC_RESETS 0 resets).cleared ownerFields).setWord
    0x000114 0).cleared countdownFields

theorem lifecycleReset_eq {s t : State} {lc : Nat} (hto : s.sec.toState = some lc) (hpow : s.powered = true)
    (ht : t = s.startUp 1 s.pw.addrSel s.pw.slotId s.pw.flowOk) :
    s.lifecycleReset = (s.lifecycleKept t lc).lifecycleShown s.pw.flowOk (s.rd Reg.SEC_LC_LC_RESETS 0 + 1) := by
  rw [lifecycleReset, hto]
  simp only [hpow, Bool.not_true, Bool.false_eq_true, if_false, ← ht]
  rfl

theorem lifecycleShown_noCtl (t : State) (flowOk : Bool) (n : Nat) : (t.lifecycleShown flowOk n).noCtl = t.noCtl := by
  rw [lifecycleShown, cleared_noCtl, setWord_noCtl, cleared_noCtl, wr_noCtl, setWord_noCtl]

/-- Words of Hearth stand through the start-up anew. -/
theorem word_lifecycleKept {s t : State} {lc a : Nat} (ha : a < 0x10000) : (s.lifecycleKept t lc).word a = s.word a := by
  rw [lifecycleKept, keepReductions, word_setWord_other _ _ (by omega)]
  exact (Tab.get_splice resetWord s.ctl t.ctl 0x10000 a).trans (if_pos ha)

theorem guardBand_lifecycleKept (s t : State) (lc : Nat) : (s.lifecycleKept t lc).word 0x080020 = s.word 0x080020 := by
  rw [lifecycleKept, keepReductions, word_setWord_same]

/-- A field apart from what a lifecycle reset writes is the one kept. -/
theorem rd_lifecycleShown (t : State) (flowOk : Bool) (n : Nat) {f : Field} {i : Nat}
    (hstage : fieldAddr f i + 4 * fieldWords f ≤ 0x20 ∨ 0x24 ≤ fieldAddr f i)
    (hlease : fieldAddr f i + 4 * fieldWords f ≤ 0x114 ∨ 0x118 ≤ fieldAddr f i)
    (hcount : apart Reg.SEC_LC_LC_RESETS 0 f i = true) (hown : ∀ g ∈ ownerFields, apart g 0 f i = true)
    (hcd : ∀ g ∈ countdownFields, apart g 0 f i = true) : (t.lifecycleShown flowOk n).rd f i = t.rd f i := by
  have hset (x : State) {a : Nat} (v : Word) (h : fieldAddr f i + 4 * fieldWords f ≤ a ∨ a + 4 ≤ fieldAddr f i) :
      (x.setWord a v).rd f i = x.rd f i := rd_congr fun b _ _ => word_setWord_other _ _ (by omega)
  rw [lifecycleShown, rd_cleared_other hcd, hset _ _ (by omega), rd_cleared_other hown, rd_wr_other _ _ hcount, hset _ _ (by omega)]

/-- A field among those cleared reads 0. -/
theorem rd_cleared_mem {fs : List Field} {f : Field} (hf : f ∈ fs) (hlen : 0 < f.len) (h : ∀ g ∈ fs, g = f ∨ apart g 0 f 0 = true)
    (s : State) : (s.cleared fs).rd f 0 = 0 := by
  have hzero (s : State) : (s.wr f 0 0).rd f 0 = 0 := (rd_wr_same _ _ _ _ hlen).trans (Nat.zero_mod _)
  induction fs generalizing s with
  | nil => cases hf
  | cons g fs ih =>
    by_cases hrest : f ∈ fs
    · exact ih hrest (fun e he => h e (List.mem_cons_of_mem _ he)) _
    · have hg : f = g := (List.mem_cons.mp hf).resolve_right hrest
      show ((s.wr g 0 0).cleared fs).rd f 0 = 0
      refine (rd_cleared_other (fs := fs) (fun e he => ?_) _).trans (hg ▸ hzero s)
      rcases h e (List.mem_cons_of_mem _ he) with heq | hapart
      · exact absurd (heq ▸ he) hrest
      · exact hapart

/-- What a lifecycle reset shows. -/
theorem lifecycleShown_reads (t : State) (flowOk : Bool) (n : Nat) : let u := t.lifecycleShown flowOk n
    u.stage = 1 ∧ u.rd Reg.HRT_OWNER_STATE 0 = 0 ∧ u.rd Reg.HRT_OWNER_ID_AGENT_ID 0 = 0 ∧ u.rd Reg.HRT_CD_HOLD_CD1 0 = 0 ∧
      u.rd Reg.SEC_LC_LC_RESETS 0 = n % 2 ^ 16 := by
  have hset {f : Field} (x : State) (v : Word) (h : 0x118 ≤ fieldAddr f 0 ∨ fieldAddr f 0 + 4 * fieldWords f ≤ 0x114) :
      (x.setWord 0x114 v).rd f 0 = x.rd f 0 := rd_congr fun b _ _ => word_setWord_other _ _ (by omega)
  simp only [lifecycleShown]
  refine ⟨?_, ?_, ?_, rd_cleared_mem (by decide) (by decide) (by decide) _, ?_⟩
  · rw [stage, rd_cleared_other (by decide), hset _ _ (by decide), rd_cleared_other (by decide), rd_wr_other _ _ (by decide),
      rd_of_word _ (by decide), show fieldAddr Reg.HRT_BOOT_STAGE 0 = 0x20 from rfl, word_setWord_same]
    cases flowOk
    · rfl
    · rfl
  · rw [rd_cleared_other (by decide), hset _ _ (by decide), rd_cleared_mem (by decide) (by decide) (by decide)]
  · rw [rd_cleared_other (by decide), hset _ _ (by decide), rd_cleared_mem (by decide) (by decide) (by decide)]
  · rw [rd_cleared_other (by decide), hset _ _ (by decide), rd_cleared_other (by decide), rd_wr_same _ _ _ _ (by decide)]
    rfl

theorem guardBand_lifecycleShown (t : State) (flowOk : Bool) (n : Nat) :
    (t.lifecycleShown flowOk n).word 0x080020 = t.word 0x080020 := by
  rw [lifecycleShown, word_cleared (by decide), word_setWord_other _ _ (by decide), word_cleared (by decide),
    word_wr_other _ _ (by decide), word_setWord_other _ _ (by decide)]

end State

theorem exec_lifecycleReset {s : State} {lc : Nat} (hto : s.sec.toState = some lc) (hpow : s.powered = true) :
    ∃ t, exec .lifecycleReset s = .next t ∧ t.stage = 1 ∧
      t.rd Reg.HRT_OWNER_STATE 0 = 0 ∧ t.rd Reg.HRT_OWNER_ID_AGENT_ID 0 = 0 ∧ t.rd Reg.HRT_CD_HOLD_CD1 0 = 0 ∧
      t.rd Reg.SEC_LC_LC_RESETS 0 = (s.rd Reg.SEC_LC_LC_RESETS 0 + 1) % 2 ^ 16 ∧
      t.sec.debug = (lc == 2) ∧ t.sec.toState = none ∧ t.mem = [] ∧ t.fuses = s.fuses ∧
      t.flash = { s.flash with boot := s.flash.boot + 1 } ∧ t.ops = [] ∧
      t.rd Reg.HRT_WAKE_CNT_COUNT 0 = s.rd Reg.HRT_WAKE_CNT_COUNT 0 ∧
      t.rd Reg.HRT_FW_ACTIVATIONS 0 = s.rd Reg.HRT_FW_ACTIVATIONS 0 ∧ t.ms.degraded = s.ms.degraded ∧
      t.pw.bridgeOut = s.pw.bridgeOut ∧ t.word 0x080020 = s.word 0x080020 ∧
      ∀ a : Fin 4, t.anv[a].pll.failed = s.anv[a].pll.failed := by
  obtain ⟨x, hx⟩ : ∃ x : State, x = s.startUp 1 s.pw.addrSel s.pw.slotId s.pw.flowOk := ⟨_, rfl⟩
  have hxrest := startUp_noCtl s 1 s.pw.addrSel s.pw.slotId s.pw.flowOk
  rw [← hx] at hxrest
  obtain ⟨k, hk⟩ : ∃ k : State, k = s.lifecycleKept x lc := ⟨_, rfl⟩
  obtain ⟨u, hu⟩ : ∃ u : State, u = k.lifecycleShown s.pw.flowOk (s.rd Reg.SEC_LC_LC_RESETS 0 + 1) := ⟨_, rfl⟩
  have hform : s.lifecycleReset = u := by rw [hu, hk, lifecycleReset_eq hto hpow hx]
  have hrest : u.noCtl = k.noCtl := by rw [hu, lifecycleShown_noCtl]
  obtain ⟨hstage, howner, hid, hcd, hresets⟩ := lifecycleShown_reads k s.pw.flowOk (s.rd Reg.SEC_LC_LC_RESETS 0 + 1)
  rw [← hu] at hstage howner hid hcd hresets
  have hlow {a : Nat} (ha : a < 0x10000) : k.word a = s.word a := by rw [hk, word_lifecycleKept ha]
  have hkeeps {f : Field} (hf : fieldAddr f 0 + 4 * fieldWords f ≤ 0x10000) : k.rd f 0 = s.rd f 0 :=
    rd_congr fun b _ hb => hlow (by omega)
  refine ⟨u.done s.pending, ?_, ?_, ?_, ?_, ?_, ?_, ?_, ?_, ?_, ?_, ?_, ?_, ?_, ?_, ?_, ?_, ?_, fun a => ?_⟩
  · show act s s.lifecycleReset = _
    rw [hform, act_next]
  · rw [stage, done_rd _ (by decide), ← stage, hstage]
  · rw [done_rd _ (by decide), howner]
  · rw [done_rd _ (by decide), hid]
  · rw [done_rd _ (by decide), hcd]
  · rw [done_rd _ (by decide), hresets]
  · rw [done_sec, sec_of_noCtl hrest, hk]
    rfl
  · rw [done_sec, sec_of_noCtl hrest, hk]
    exact (congrArg Sec.toState (sec_of_noCtl hxrest)).trans rfl
  · rw [done_mem, mem_of_noCtl hrest, hk]
    exact (mem_of_noCtl hxrest).trans rfl
  · rw [done_fuses, fuses_of_noCtl hrest, hk]
    exact (fuses_of_noCtl hxrest).trans rfl
  · rw [done_flash, flash_of_noCtl hrest, hk]
    exact (flash_of_noCtl hxrest).trans rfl
  · rw [done_ops, ops_of_noCtl hrest, hk]
    exact (ops_of_noCtl hxrest).trans rfl
  · rw [done_rd _ (by decide), hu, rd_lifecycleShown _ _ _ (by decide) (by decide) (by decide) (by decide) (by decide),
      hkeeps (by decide)]
  · rw [done_rd _ (by decide), hu, rd_lifecycleShown _ _ _ (by decide) (by decide) (by decide) (by decide) (by decide),
      hkeeps (by decide)]
  · rw [done_ms, ms_of_noCtl hrest, hk]
    rfl
  · rw [done_pw, pw_of_noCtl hrest, hk]
    rfl
  · rw [done_word _ (by decide), hu, guardBand_lifecycleShown, hk, guardBand_lifecycleKept]
  · rw [done_anv, anv_of_noCtl hrest, hk, lifecycleKept, keepReductions]
    simp

/-- Settles O35: a close, a reseal, and the start-up anew of a lifecycle reset. -/
theorem closesAndLifecycleResets : Obligations.ClosesAndLifecycleResets := by
  unfold Obligations.ClosesAndLifecycleResets
  intro s w
  exact ⟨exec_close, exec_reseal, fun lc hto hpow => exec_lifecycleReset hto hpow⟩

end Sys2Proof.Machine
end


section
/-!
Bellows (R278 to R281): what the moves of pages between tiers leave as it was.
-/
namespace Sys2Proof.Machine

open State Sys2Proof.Safety

namespace State

theorem ent_setEnt_same (s : State) (p : Nat) (e : TierEnt) : (s.setEnt p e).ent p = e := by
  rw [ent, setEnt]
  exact Tab.get_set_same ..

theorem ent_setEnt_other (s : State) {p q : Nat} (e : TierEnt) (h : q ≠ p) : (s.setEnt p e).ent q = s.ent q := by
  rw [ent, setEnt]
  exact Tab.get_set_other _ _ _ h

theorem ent_setEnt (s : State) (p q : Nat) (e : TierEnt) : (s.setEnt p e).ent q = if q = p then e else s.ent q := by
  split
  case isTrue h => rw [h, ent_setEnt_same]
  case isFalse h => rw [ent_setEnt_other _ _ h]

theorem ent_of_ms {s t : State} (h : t.ms = s.ms) (p : Nat) : t.ent p = s.ent p := by rw [ent, ent, h]

/-! The frame of a move. -/

/-- A state without what the moves of pages change: the control space, the tier map with its moves and waits, the caches of
lines and entries, and the free choices. -/
def noMove (s : State) : State :=
  { s with ctl := [], free := 0, ms := { s.ms with
    tier := [], migs := [], wants := [], ledger := Vector.replicate 2 [], msc := Vector.replicate 2 [] } }

theorem noMove_of_noCtl {s t : State} (h : t.noCtl = s.noCtl) : t.noMove = s.noMove := by rw [eq_of_noCtl h]; rfl

theorem mem_of_noMove {s t : State} (h : t.noMove = s.noMove) : t.mem = s.mem := (congrArg State.mem h :)
theorem kal_of_noMove {s t : State} (h : t.noMove = s.noMove) : t.kal = s.kal := (congrArg State.kal h :)
theorem ops_of_noMove {s t : State} (h : t.noMove = s.noMove) : t.ops = s.ops := (congrArg State.ops h :)
theorem rings_of_noMove {s t : State} (h : t.noMove = s.noMove) : t.rings = s.rings := (congrArg State.rings h :)
theorem slots_of_noMove {s t : State} (h : t.noMove = s.noMove) : t.slots = s.slots := (congrArg State.slots h :)
theorem tel_of_noMove {s t : State} (h : t.noMove = s.noMove) : t.tel = s.tel := (congrArg State.tel h :)
theorem pw_of_noMove {s t : State} (h : t.noMove = s.noMove) : t.pw = s.pw := (congrArg State.pw h :)
theorem poison_of_noMove {s t : State} (h : t.noMove = s.noMove) : t.ms.poison = s.ms.poison :=
  (congrArg (fun x : State => x.ms.poison) h :)
theorem fills_of_noMove {s t : State} (h : t.noMove = s.noMove) : t.ms.fills = s.ms.fills :=
  (congrArg (fun x : State => x.ms.fills) h :)
theorem retired_of_noMove {s t : State} (h : t.noMove = s.noMove) : t.ms.retired = s.ms.retired :=
  (congrArg (fun x : State => x.ms.retired) h :)
theorem alloc_of_noMove {s t : State} (h : t.noMove = s.noMove) : t.ms.alloc = s.ms.alloc :=
  (congrArg (fun x : State => x.ms.alloc) h :)
theorem part_of_noMove {s t : State} (h : t.noMove = s.noMove) : t.ms.part = s.ms.part :=
  (congrArg (fun x : State => x.ms.part) h :)

/-- The words of the counters of moves. -/
def moveWords : List Nat := [0x072008, 0x07200C, 0x072010, 0x072014, 0x072018, 0x07201C]

/-- What a page keeps through a move: its mapping, its flags, its die and its pin, and it is no hotter. -/
structure PageKept (e e' : TierEnt) : Prop where
  state : e'.state = e.state
  flags : e'.flags = e.flags
  die : e'.die = e.die
  cpin : e'.cpin = e.cpin
  heat : e'.heat ≤ e.heat

/-- What moves of pages lead to: every page kept as to its mapping, and nothing else changed but the counters of moves. -/
structure Moved (s t : State) : Prop where
  rest : t.noMove = s.noMove
  word : ∀ a, a ∉ moveWords → t.word a = s.word a
  page : ∀ p, PageKept (s.ent p) (t.ent p)

end State

theorem State.PageKept.refl (e : TierEnt) : PageKept e e := ⟨rfl, rfl, rfl, rfl, le_refl _⟩

theorem State.PageKept.trans {e f g : TierEnt} (h : PageKept e f) (k : PageKept f g) : PageKept e g :=
  ⟨k.state.trans h.state, k.flags.trans h.flags, k.die.trans h.die, k.cpin.trans h.cpin, k.heat.trans h.heat⟩

theorem State.Moved.refl (s : State) : Moved s s := ⟨rfl, fun _ _ => rfl, fun _ => .refl _⟩

theorem State.Moved.trans {s t u : State} (h : Moved s t) (k : Moved t u) : Moved s u :=
  ⟨k.rest.trans h.rest, fun a ha => (k.word a ha).trans (h.word a ha), fun p => (h.page p).trans (k.page p)⟩

/-- A field apart from the counters of moves reads as before. -/
theorem State.Moved.rd {s t : State} (h : Moved s t) {f : Field} {i : Nat}
    (hf : fieldAddr f i + 4 * fieldWords f ≤ 0x072008 ∨ 0x072020 ≤ fieldAddr f i) : t.rd f i = s.rd f i := by
  refine rd_congr fun a _ _ => h.word a ?_
  simp only [moveWords, List.mem_cons, List.not_mem_nil, or_false]
  omega

namespace State

theorem moved_of_tier {s t : State} (hrest : t.noMove = s.noMove) (hctl : t.ctl = s.ctl) (htier : t.ms.tier = s.ms.tier) :
    Moved s t :=
  ⟨hrest, fun a _ => word_of_ctl hctl a, fun p => by rw [show t.ent p = s.ent p by rw [ent, ent, htier]]; exact .refl _⟩

theorem moved_tick (s : State) : Moved s s.tick := moved_of_tier rfl rfl rfl

theorem moved_addWant (s : State) (w : Want) : Moved s (s.addWant w) := moved_of_tier rfl rfl rfl

theorem moved_wants (s : State) (ws : List Want) : Moved s { s with ms := { s.ms with wants := ws } } := moved_of_tier rfl rfl rfl

theorem moved_setEnt {s : State} {p : Nat} {e : TierEnt} (h : PageKept (s.ent p) e) : Moved s (s.setEnt p e) := by
  refine ⟨rfl, fun _ _ => rfl, fun q => ?_⟩
  rw [ent_setEnt]
  split
  case isTrue hq => exact hq ▸ h
  case isFalse => exact .refl _

/-- A counter of moves raised. -/
theorem moved_inc (s : State) {f : Field} (n : Nat) (h : within f 0 moveWords = true) : Moved s (s.inc f 0 n) :=
  ⟨noMove_of_noCtl (inc_noCtl ..), fun _ ha => word_wr_listed ha h, fun p => by rw [ent_of_ms (inc_ms ..)]; exact .refl _⟩

theorem moved_dropShadow (s : State) (p : Nat) : Moved s (s.dropShadow p) := moved_setEnt ⟨rfl, rfl, rfl, rfl, le_refl _⟩

theorem moved_dropCached (s : State) (p : Nat) : Moved s (s.dropCached p) := moved_of_tier rfl rfl rfl

theorem moved_cleanCached (s : State) (p : Nat) : Moved s (s.cleanCached p) := moved_of_tier rfl rfl rfl

theorem moved_ite {s t u : State} {c : Prop} [Decidable c] (ht : c → Moved s t) (hu : ¬c → Moved s u) :
    Moved s (if c then t else u) := by
  split
  case isTrue h => exact ht h
  case isFalse h => exact hu h

theorem moved_ite_fst {s : State} {x y : State × Nat} {c : Prop} [Decidable c] (hx : c → Moved s x.1) (hy : ¬c → Moved s y.1) :
    Moved s (if c then x else y).1 := by
  split
  case isTrue h => exact hx h
  case isFalse h => exact hy h

/-- A fold of moves. -/
theorem moved_foldl {β : Type} (f : State → β → State) (h : ∀ s b, Moved s (f s b)) (l : List β) (s : State) :
    Moved s (l.foldl f s) :=
  foldl_holds (Moved s) f (fun t b ht => ht.trans (h t b)) l s (.refl s)

theorem moved_destFrame (s : State) (tier : Nat) (d : Fin 2) : Moved s (s.destFrame tier d).1 := by
  unfold destFrame
  split
  · exact moved_tick s
  · split
    · split
      · exact (moved_dropShadow s _).trans (moved_tick _)
      · exact .refl s
    · exact .refl s

theorem moved_beginMove (s : State) (p tier : Nat) : Moved s (s.beginMove p tier).1 := by
  have hdest := moved_destFrame s tier (s.ent p).die
  unfold beginMove
  dsimp only
  split
  · exact .refl s
  · split
    case h_1 t heq => rw [heq] at hdest; exact hdest
    case h_2 t f heq =>
      rw [heq] at hdest
      refine hdest.trans ((moved_setEnt (p := p) (e := { t.ent p with lock := true }) ⟨rfl, rfl, rfl, rfl, le_refl _⟩).trans ?_)
      exact moved_of_tier rfl rfl rfl

theorem moved_startMove (s : State) (p tier : Nat) : Moved s (s.startMove p tier).1 := by
  unfold startMove
  dsimp only
  split
  · exact .refl s
  · split
    · refine Moved.trans (moved_setEnt (p := p) (e := { s.ent p with home := 2, nframe := 0, shadow := false })
        ⟨rfl, rfl, rfl, rfl, le_refl _⟩) ?_
      exact moved_inc _ (f := Reg.MEM_DEMOTE_COUNT) _ (by decide)
    · exact moved_beginMove s p tier

theorem moved_bring (s : State) (p tier : Nat) (force : Bool) : Moved s (s.bring p tier force).1 := by
  unfold bring
  dsimp only
  split
  · exact .refl s
  · split
    · exact moved_startMove s p tier
    · split
      · split
        · exact .refl s
        · exact (moved_inc s (f := Reg.MEM_MIG_WAIT_COUNT) _ (by decide)).trans (moved_addWant _ _)
      case h_2 q _ =>
        split
        · have hstart := moved_startMove s q (s.downTier q)
          split
          case h_1 t heq => rw [heq] at hstart; exact hstart
          case h_2 t heq =>
            rw [heq] at hstart
            split
            · exact hstart.trans (moved_startMove t p tier)
            · exact hstart.trans (moved_addWant _ _)
        · exact .refl s

theorem moved_leaveScratch (s : State) (p : Nat) : Moved s (s.leaveScratch p) := moved_bring ..

theorem moved_retryWants (s : State) (d : Fin 2) (q : Nat) : Moved s (s.retryWants d q) := by
  have hfold := moved_foldl (fun (s : State) (w : Want) => (s.bring w.page w.tier w.force).1)
    (fun s w => moved_bring s w.page w.tier w.force)
  unfold retryWants
  exact (moved_wants s _).trans (hfold _ _)

theorem moved_makeNear (s : State) (d : Fin 2) : Moved s (s.makeNear d) := by
  unfold makeNear
  split
  · exact moved_startMove ..
  · exact .refl s

theorem moved_rehome (s : State) (p : Nat) : Moved s (s.rehome p) := by
  have hbegin := moved_beginMove s p (s.ent p).home
  unfold rehome
  dsimp only
  split
  case h_1 t heq => rw [heq] at hbegin; exact hbegin
  case h_2 t heq =>
    rw [heq] at hbegin
    refine hbegin.trans (moved_ite (fun _ => moved_ite (fun _ => .refl t) fun _ => moved_startMove ..) fun _ =>
      moved_ite (fun _ => (moved_makeNear t _).trans (moved_beginMove ..)) fun _ => moved_startMove ..)

theorem moved_pinMoves (s : State) (d : Fin 2) : Moved s (s.pinMoves d) :=
  moved_foldl _ (fun t _ => moved_ite (fun _ => moved_ite (fun _ => moved_addWant t _) fun _ => moved_bring ..) fun _ =>
    moved_ite (fun _ => moved_rehome ..) fun _ => .refl t) _ s

theorem moved_moveMany (tier : Nat) (go : State → Nat → Bool) (ps : List Nat) (s : State) (n : Nat) :
    Moved s (moveMany tier go ps (s, n)).1 := by
  induction ps generalizing s n with
  | nil => exact .refl s
  | cons p ps ih =>
    rw [moveMany]
    split
    · exact .refl s
    · exact (moved_startMove s p tier).trans (ih _ _)

theorem moved_pressure (s : State) (d : Fin 2) (budget : Nat) : Moved s (s.pressure d budget).1 := by
  unfold pressure
  dsimp only
  split
  · exact moved_moveMany ..
  · exact .refl s

theorem moved_promote (tier : Nat) (x : State × Nat) (p : Nat) : Moved x.1 (promote tier x p).1 := by
  obtain ⟨s, n⟩ := x
  unfold promote
  dsimp only
  generalize (if s.freeFrames tier (s.ent p).die ≠ 0 then 1 else 2) = cost
  exact moved_ite_fst (fun _ => .refl s) fun _ => moved_bring ..

theorem moved_promotions (s : State) (d : Fin 2) (budget : Nat) : Moved s (s.promotions d budget).1 := by
  unfold promotions
  dsimp only
  exact foldl_holds (fun x : State × Nat => Moved s x.1) _ (fun x p hx => moved_ite_fst (fun _ => hx) fun _ =>
    moved_ite_fst (fun _ => hx.trans (moved_promote 1 x p)) fun _ =>
      moved_ite_fst (fun _ => hx.trans (moved_promote 0 x p)) fun _ => hx) _ _ (.refl s)

/-- What the first part of a sweep does to a page: its heat halves, and a stale shadow is freed. -/
def coolPage (s : State) (p : Nat) : State :=
  let e := s.ent p
  let s := s.setEnt p { e with heat := e.heat / 2 }
  let lost := s.ms.retired.contains (frameKey 2 e.die e.dframe)
  if e.shadow && (e.dirty || lost) then s.dropShadow p else s

theorem moved_coolPage (s : State) (p : Nat) : Moved s (s.coolPage p) := by
  have hset : Moved s (s.setEnt p { s.ent p with heat := (s.ent p).heat / 2 }) :=
    moved_setEnt ⟨rfl, rfl, rfl, rfl, Nat.div_le_self ..⟩
  unfold coolPage
  exact moved_ite (fun _ => hset.trans (moved_dropShadow ..)) fun _ => hset

/-- The memory system with a sweep's die counted anew. -/
def countedAnew (s : State) (d : Fin 2) : State :=
  { s with ms := { s.ms with
    ce := s.ms.ce.filter fun e => e.1 / 2 ^ 22 % 2 != d.val
    wants := s.ms.wants.filter fun w => w.force || (s.ent w.page).die != d } }

/-- A sweep after it counted anew is nothing but moves. -/
theorem moved_sweep (s : State) (d : Fin 2) : Moved (s.countedAnew d) (s.sweep d) := by
  have hcool := moved_foldl coolPage moved_coolPage ((s.countedAnew d).diePages d) (s.countedAnew d)
  have hpins := moved_pinMoves (((s.countedAnew d).diePages d).foldl coolPage (s.countedAnew d)) d
  exact (hcool.trans hpins).trans ((moved_pressure _ d _).trans (moved_promotions _ d _))

end State

theorem exec_bellowsSweep {s : State} (d : Die) (hup : s.memUp = true) (hq : s.quench = false) :
    exec (.bellowsSweep d) s = .next ((s.sweep d).done s.pending) := by
  show act s (if s.memUp && !s.quench then s.sweep d else s) = _
  rw [if_pos (by rw [hup, hq]; rfl), act_next]

theorem exec_bellowsSweep_kept {s : State} (d : Die) (hup : s.memUp = true) (hq : s.quench = false) :
    ∃ t, exec (.bellowsSweep d) s = .next t ∧ t.mem = s.mem ∧ t.ms.poison = s.ms.poison ∧ t.ops = s.ops ∧
      ∀ p, (t.ent p).state = (s.ent p).state ∧ (t.ent p).flags = (s.ent p).flags ∧ (t.ent p).die = (s.ent p).die ∧
        (t.ent p).cpin = (s.ent p).cpin ∧ (t.ent p).heat ≤ (s.ent p).heat := by
  have hmoved := moved_sweep s d
  have hcounted (p : Nat) : (s.countedAnew d).ent p = s.ent p := rfl
  have hms : ((s.sweep d).done s.pending).ms = (s.sweep d).ms := done_ms _ _
  refine ⟨_, exec_bellowsSweep d hup hq, ((done_mem _ _).trans (mem_of_noMove hmoved.rest)).trans rfl, ?_,
    ((done_ops _ _).trans (ops_of_noMove hmoved.rest)).trans rfl, fun p => ?_⟩
  · rw [hms]
    exact (poison_of_noMove hmoved.rest).trans rfl
  · rw [ent_of_ms hms, ← hcounted p]
    obtain ⟨hstate, hflags, hdie, hcpin, hheat⟩ := hmoved.page p
    exact ⟨hstate, hflags, hdie, hcpin, hheat⟩

/-! A swing (R280, R281). -/

/-- The entry of a page whose copy has ended. -/
def swungEnt (e : TierEnt) (m : Mig) (keep : Bool) : TierEnt :=
  if m.tier = 2 then { e with home := 2, nframe := 0, dframe := m.frame, shadow := false, dirty := false, lock := false }
  else if e.home = 2 then
    { e with home := m.tier, nframe := m.frame, shadow := keep, dframe := if keep then e.dframe else 0, dirty := false, lock := false }
  else if m.tier = 0 && e.home = 1 then
    { e with home := 0, nframe := m.frame, shadow := false, dframe := 0, dirty := false, lock := false }
  else { e with home := m.tier, nframe := m.frame, lock := false }

theorem swungEnt_kept (e : TierEnt) (m : Mig) (keep : Bool) : (swungEnt e m keep).state = e.state ∧
    (swungEnt e m keep).flags = e.flags ∧ (swungEnt e m keep).die = e.die ∧ (swungEnt e m keep).cpin = e.cpin ∧
    (swungEnt e m keep).heat = e.heat ∧ (swungEnt e m keep).lock = false := by
  unfold swungEnt
  split
  · exact ⟨rfl, rfl, rfl, rfl, rfl, rfl⟩
  · split
    · exact ⟨rfl, rfl, rfl, rfl, rfl, rfl⟩
    · split
      · exact ⟨rfl, rfl, rfl, rfl, rfl, rfl⟩
      · exact ⟨rfl, rfl, rfl, rfl, rfl, rfl⟩

theorem swungEnt_home (e : TierEnt) (m : Mig) (keep : Bool) : (swungEnt e m keep).home = m.tier := by
  unfold swungEnt
  split
  case isTrue h => exact h.symm
  case isFalse =>
    split
    · rfl
    · split
      case isTrue h => simp only [Bool.and_eq_true, decide_eq_true_eq] at h; exact h.1.symm
      case isFalse => rfl

theorem swungEnt_deep {e : TierEnt} {m : Mig} {keep : Bool} (h : m.tier = 2) :
    (swungEnt e m keep).dframe = m.frame ∧ (swungEnt e m keep).shadow = false := by
  rw [swungEnt, if_pos h]
  exact ⟨rfl, rfl⟩

theorem swungEnt_nframe {e : TierEnt} {m : Mig} {keep : Bool} (h : m.tier ≠ 2) : (swungEnt e m keep).nframe = m.frame := by
  rw [swungEnt, if_neg h]
  split
  · rfl
  · split
    · rfl
    · rfl

theorem swungEnt_promoted {e : TierEnt} {m : Mig} {keep : Bool} (h : m.tier ≠ 2) (hdeep : e.home = 2) :
    (swungEnt e m keep).shadow = keep ∧ (keep = true → (swungEnt e m keep).dframe = e.dframe) := by
  rw [swungEnt, if_neg h, if_pos hdeep]
  exact ⟨rfl, fun hk => if_pos hk⟩

theorem swungEnt_scratch {e : TierEnt} {m : Mig} {keep : Bool} (h : m.tier = 0) (hnear : e.home = 1) :
    (swungEnt e m keep).shadow = false := by
  rw [swungEnt, if_neg (by omega), if_neg (by omega), if_pos (by rw [h, hnear]; rfl)]

namespace State

/-- The copies of a page under way taken off the list. -/
def copyEnded (s : State) (p : Nat) : State := { s with ms := { s.ms with migs := s.ms.migs.filter (·.page != p) } }

/-- The state in which a copy has ended, before what waited for it acts. -/
def swungTo (s : State) (p : Nat) (m : Mig) : State :=
  let e := s.ent p
  let u := (s.copyEnded p).setEnt p (swungEnt e m (!s.ms.retired.contains (frameKey 2 e.die e.dframe)))
  let u := u.inc (if m.tier < e.home then Reg.MEM_PROMOTE_COUNT else Reg.MEM_DEMOTE_COUNT) 0 (if m.tier = e.home then 0 else 1)
  if m.tier = 0 then u.dropCached p else u.cleanCached p

theorem swing_eq {s : State} {p : Nat} {m : Mig} (hm : s.ms.migs.find? (·.page == p) = some m) :
    s.swing p = (s.swungTo p m).unlocked p m.freeAfter := by
  rw [swing, hm]
  rfl

theorem swing_none {s : State} {p : Nat} (hm : s.ms.migs.find? (·.page == p) = none) : s.swing p = s := by rw [swing, hm]

theorem ent_swungTo (s : State) (p q : Nat) (m : Mig) : (s.swungTo p m).ent q =
    if q = p then swungEnt (s.ent p) m (!s.ms.retired.contains (frameKey 2 (s.ent p).die (s.ent p).dframe)) else s.ent q := by
  have hcache (u : State) (c : Prop) [Decidable c] : (if c then u.dropCached p else u.cleanCached p).ent q = u.ent q :=
    ite_keeps (fun x : State => x.ent q) _ rfl rfl
  rw [swungTo]
  simp only [hcache]
  rw [ent_of_ms (inc_ms ..), ent_setEnt]
  rfl

theorem swungTo_moved (s : State) (p : Nat) (m : Mig) : Moved s (s.swungTo p m) := by
  obtain ⟨hstate, hflags, hdie, hcpin, hheat, -⟩ :=
    swungEnt_kept (s.ent p) m (!s.ms.retired.contains (frameKey 2 (s.ent p).die (s.ent p).dframe))
  have hended : Moved s (s.copyEnded p) := moved_of_tier rfl rfl rfl
  have hset : Moved (s.copyEnded p) ((s.copyEnded p).setEnt p _) := moved_setEnt ⟨hstate, hflags, hdie, hcpin, hheat.le⟩
  refine hended.trans (hset.trans ((moved_inc _ _ ?_).trans
    (moved_ite (fun _ => moved_dropCached ..) fun _ => moved_cleanCached ..)))
  split
  · decide
  · decide

theorem swungTo_lists (s : State) (p : Nat) (m : Mig) : (s.swungTo p m).ms.migs = s.ms.migs.filter (·.page != p) ∧
    (s.swungTo p m).ms.wants = s.ms.wants := by
  have hcache (u : State) (c : Prop) [Decidable c] : (if c then u.dropCached p else u.cleanCached p).ms.migs = u.ms.migs ∧
      (if c then u.dropCached p else u.cleanCached p).ms.wants = u.ms.wants :=
    ⟨ite_keeps (fun x : State => x.ms.migs) _ rfl rfl, ite_keeps (fun x : State => x.ms.wants) _ rfl rfl⟩
  rw [swungTo]
  simp only [hcache, inc_ms]
  exact ⟨rfl, rfl⟩

theorem retryWants_nil {s : State} (h : s.ms.wants = []) (d : Fin 2) (q : Nat) : s.retryWants d q = s := by
  unfold retryWants
  rw [h]
  show ({ s with ms := { s.ms with wants := [] } } : State) = s
  rw [← h]

/-- The window of a page is one of registers that no move changes. -/
theorem Moved.windowOf {s t : State} (h : Moved s t) (p : Nat) : t.windowOf p = s.windowOf p := by
  have hregs : ∀ w : Fin 16, ∀ f ∈ windowFields, 0x072020 ≤ fieldAddr f w := by decide
  exact congrFun (windowOf_congr fun w f hf => h.rd (.inr (hregs w f hf))) p

/-- The first partition frame of a die is one of registers and retired frames that no move changes. -/
theorem Moved.partFirst {s t : State} (h : Moved s t) (d : Fin 2) : t.partFirst d = s.partFirst d := by
  have hword : t.word (0x070000 + 4 * d.val) = s.word (0x070000 + 4 * d.val) := h.word _ <| by
    simp only [moveWords, List.mem_cons, List.not_mem_nil, or_false]
    omega
  simp only [State.partFirst, partNeed, firstOf, retiredOf, hword, part_of_noMove h.rest, retired_of_noMove h.rest]

/-- A page that no window holds and that stands in no frame of a partition has nothing to do once it is unlocked. -/
theorem unlocked_settled {s : State} {p : Nat} (hwant : s.ms.wants = []) (hwin : s.windowOf p = none)
    (htaken : s.inTaken p = false) : s.unlocked p false = s := by
  rw [unlocked]
  simp only [Bool.false_eq_true, if_false, hwin, Option.isSome_none, htaken]
  exact retryWants_nil hwant _ _

theorem unmapPage_ctl (s : State) (p : Nat) : (s.unmapPage p).ctl = s.ctl := by
  simp only [unmapPage, setEnt, dropCached, zeroPage, unfillPage]

theorem unmapPage_lists (s : State) (p : Nat) : (s.unmapPage p).ms.wants = s.ms.wants ∧ (s.unmapPage p).ms.migs = s.ms.migs := by
  simp only [unmapPage, setEnt, dropCached, zeroPage, unfillPage, and_self]

theorem ent_zeroPage (s : State) (p q : Nat) : (s.zeroPage p).ent q = s.ent q := by
  simp only [ent, zeroPage, unfillPage]

/-- A page whose FREE waited becomes unmapped. -/
theorem unlocked_freed {s : State} {p : Nat} (hwant : s.ms.wants = []) : s.unlocked p true = s.unmapPage p := by
  have hunmap : (s.unmapPage p).ms.wants = [] := (unmapPage_lists s p).1.trans hwant
  rw [unlocked]
  simp only [if_true]
  exact retryWants_nil hunmap _ _

theorem ent_unmapPage (s : State) (p q : Nat) : (s.unmapPage p).ent q = if q = p then .unmapped else s.ent q := by
  have hcached : ((s.zeroPage p).dropCached p).ent q = (s.zeroPage p).ent q := by simp only [ent, dropCached]
  rw [unmapPage, ent_setEnt, hcached, ent_zeroPage]

/-- The counters of moves after a copy has ended. -/
theorem rd_swungTo (s : State) (p : Nat) (m : Mig) :
    (m.tier < (s.ent p).home → (s.swungTo p m).rd Reg.MEM_PROMOTE_COUNT 0 = (s.rd Reg.MEM_PROMOTE_COUNT 0 + 1) % 2 ^ 64) ∧
    ((s.ent p).home < m.tier → (s.swungTo p m).rd Reg.MEM_DEMOTE_COUNT 0 = (s.rd Reg.MEM_DEMOTE_COUNT 0 + 1) % 2 ^ 64) := by
  have hcache (u : State) (c : Prop) [Decidable c] (f : Field) : (if c then u.dropCached p else u.cleanCached p).rd f 0 = u.rd f 0 :=
    
    ite_keeps (fun x : State => x.rd f 0) _ (rd_of_ctl (s := u) (t := u.dropCached p) rfl f 0)
      (rd_of_ctl (s := u) (t := u.cleanCached p) rfl f 0)
  have hset (f : Field) (e : TierEnt) : ((s.copyEnded p).setEnt p e).rd f 0 = s.rd f 0 :=
    rd_of_ctl (s := s) (t := (s.copyEnded p).setEnt p e) rfl f 0
  rw [swungTo]
  simp only [hcache]
  refine ⟨fun h => ?_, fun h => ?_⟩
  · rw [if_pos h, if_neg (by omega), rd_inc_same _ _ _ _ (by decide), hset]
    rfl
  · rw [if_neg (by omega), if_neg (by omega), rd_inc_same _ _ _ _ (by decide), hset]
    rfl

end State

theorem exec_migrationSwing {s : State} (page : Nat) (hup : s.memUp = true) (hq : s.quench = false) :
    exec (.migrationSwing page) s = .next ((s.swing page).done s.pending) := by
  show act s (if s.memUp && !s.quench then s.swing page else s) = _
  rw [if_pos (by rw [hup, hq]; rfl), act_next]

theorem exec_migrationSwing_kept {s : State} {page : Nat} {m : Mig} {e : TierEnt} {keep : Bool} (he : e = s.ent page)
    (hkeep : keep = !s.ms.retired.contains (frameKey 2 e.die e.dframe)) (hup : s.memUp = true) (hq : s.quench = false)
    (hm : s.ms.migs.find? (·.page == page) = some m) (hwants : s.ms.wants = []) (hwin : s.windowOf page = none)
    (hframe : m.tier = 0 → m.frame < s.partFirst e.die) : ∃ t, exec (.migrationSwing page) s = .next t ∧
      t.ms.migs = s.ms.migs.filter (·.page != page) ∧
      (m.freeAfter = true → t.ent page = .unmapped) ∧
      (m.freeAfter = false → t.mem = s.mem ∧ (t.ent page).home = m.tier ∧ (t.ent page).lock = false ∧
        (t.ent page).heat = e.heat ∧ (t.ent page).state = e.state ∧ (t.ent page).cpin = e.cpin ∧
        (m.tier = 2 → (t.ent page).dframe = m.frame ∧ (t.ent page).shadow = false) ∧
        (m.tier ≠ 2 → (t.ent page).nframe = m.frame) ∧
        (m.tier ≠ 2 → e.home = 2 → (t.ent page).shadow = keep ∧ (keep = true → (t.ent page).dframe = e.dframe)) ∧
        (m.tier = 0 → e.home = 1 → (t.ent page).shadow = false)) ∧
      (m.tier < e.home → t.rd Reg.MEM_PROMOTE_COUNT 0 = (s.rd Reg.MEM_PROMOTE_COUNT 0 + 1) % 2 ^ 64) ∧
      (e.home < m.tier → t.rd Reg.MEM_DEMOTE_COUNT 0 = (s.rd Reg.MEM_DEMOTE_COUNT 0 + 1) % 2 ^ 64) ∧
      ∀ p, p ≠ page → t.ent p = s.ent p := by
  obtain ⟨u, hu⟩ : ∃ u : State, u = s.swungTo page m := ⟨_, rfl⟩
  have hmoved : Moved s u := hu ▸ swungTo_moved s page m
  obtain ⟨hmigs, huwants⟩ := swungTo_lists s page m
  have hent (q : Nat) : u.ent q = if q = page then swungEnt e m keep else s.ent q := by rw [hu, ent_swungTo, hkeep, he]
  obtain ⟨hpro, hdem⟩ := rd_swungTo s page m
  rw [← hu] at hmigs huwants hpro hdem
  rw [hwants] at huwants
  obtain ⟨hstate, -, hdie, hcpin, hheat, hlock⟩ := swungEnt_kept e m keep
  have hpage : u.ent page = swungEnt e m keep := by rw [hent, if_pos rfl]
  have htaken : u.inTaken page = false := by
    rw [inTaken]
    simp only [hpage, hmoved.partFirst, hdie, swungEnt_home]
    by_cases h0 : m.tier = 0
    · rw [swungEnt_nframe (by omega), decide_eq_false (by have := hframe h0; omega), Bool.and_false]
    · simp [h0]
  obtain ⟨t, ht⟩ : ∃ t : State, t = u.unlocked page m.freeAfter := ⟨_, rfl⟩
  have hform : s.swing page = t := by rw [ht, hu, swing_eq hm]
  have hms : (t.done s.pending).ms = t.ms := done_ms _ _
  refine ⟨t.done s.pending, by rw [exec_migrationSwing page hup hq, hform], ?_, fun hfree => ?_, fun hfree => ?_, fun hlt => ?_,
    fun hlt => ?_, fun p hp => ?_⟩
  case refine_2 =>
    rw [ent_of_ms hms, ht, hfree, unlocked_freed huwants, ent_unmapPage, if_pos rfl]
  case refine_3 =>
    have hsame : t = u := by rw [ht, hfree, unlocked_settled huwants (by rw [hmoved.windowOf, hwin]) htaken]
    have htent : (t.done s.pending).ent page = swungEnt e m keep := by rw [ent_of_ms hms, hsame, hpage]
    rw [htent]
    refine ⟨?_, swungEnt_home .., hlock, hheat, hstate, hcpin, swungEnt_deep, swungEnt_nframe, swungEnt_promoted,
      swungEnt_scratch⟩
    rw [done_mem, hsame]
    exact mem_of_noMove hmoved.rest
  all_goals
    have hcases : t = u ∨ t = u.unmapPage page := by
      cases hfree : m.freeAfter with
      | true => exact .inr (by rw [ht, hfree, unlocked_freed huwants])
      | false => exact .inl (by rw [ht, hfree, unlocked_settled huwants (by rw [hmoved.windowOf, hwin]) htaken])
  · rw [hms]
    rcases hcases with rfl | rfl
    · exact hmigs
    · exact (unmapPage_lists u page).2.trans hmigs
  · rw [done_rd _ (by decide), ← hpro (he ▸ hlt)]
    rcases hcases with rfl | rfl
    · rfl
    · exact rd_of_ctl (unmapPage_ctl u page) _ _
  · rw [done_rd _ (by decide), ← hdem (he ▸ hlt)]
    rcases hcases with rfl | rfl
    · rfl
    · exact rd_of_ctl (unmapPage_ctl u page) _ _
  · rw [ent_of_ms hms]
    rcases hcases with rfl | rfl
    · rw [hent, if_neg hp]
    · rw [ent_unmapPage, if_neg hp, hent, if_neg hp]

/-! Window fills (R284 to R286). -/

namespace State

theorem inc_fills (s : State) (f : Field) (i n : Nat) : (s.inc f i n).ms.fills = s.ms.fills := by rw [inc_ms]

theorem ledgerUse_fills (s : State) (d : Fin 2) (p : Nat) : (s.ledgerUse d p).ms.fills = s.ms.fills := by
  simp only [ledgerUse]
  split
  · rfl
  · exact inc_fills ..

theorem mscAccess_fills (s : State) (d : Fin 2) {h : Nat} (l : Nat) (w : Bool) (hh : h ≠ 3) :
    (s.mscAccess d h l w).ms.fills = s.ms.fills := by
  have hhit := inc_fills s Reg.MEM_MSC_HIT_COUNT 0 1
  have hmiss := inc_fills s Reg.MEM_MSC_MISS_COUNT 0 1
  simp only [mscAccess, hh, decide_false, Bool.false_and, Bool.false_eq_true, if_false]
  split
  · rfl
  · split
    · exact hhit
    · exact ite_keeps (fun x : State => x.ms.fills) _ hmiss hmiss

theorem readLine_fills (s : State) {v : Via} (l : Nat) (hv : v.hint ≠ 3) : (s.readLine v l).ms.fills = s.ms.fills := by
  have htouch (t : State) : (t.touchLine v l false).ms.fills = t.ms.fills := by
    unfold touchLine
    exact ite_keeps (fun x : State => x.ms.fills) _ ((mscAccess_fills _ _ _ _ hv).trans (ledgerUse_fills ..)) (ledgerUse_fills ..)
  simp only [readLine]
  split
  · rfl
  · split
    · simp only [unmappedAccess]
      split
      · rw [raise_ms, inc_fills, ledgerUse_fills]
      · rw [inc_fills, ledgerUse_fills]
    · rw [htouch]
      exact ite_keeps (fun x : State => x.ms.fills) _ (inc_fills ..) rfl

theorem readRange_fills (s : State) {v : Via} (a n : Nat) (hv : v.hint ≠ 3) : (s.readRange v a n).ms.fills = s.ms.fills := by
  simp only [readRange]
  split
  · rfl
  · exact foldl_keeps (fun x : State => x.ms.fills) _ (fun s l => readLine_fills s l hv) _ _

end State

theorem exec_windowFill {s : State} {d : Die} {q : FillReq} {win u : Nat} (hwin : win = 32 * bits s.ms.part[d].toNat 15 8)
    (hu : u = fillUnits q.ivals) (hrun : s.running = true) (hreq : State.nextReq (s.fillReqs d win) = some q)
    (hroom : (s.ms.fills[d].map (·.units)).sum + u ≤ win) : ∃ t, exec (.windowFill d) s = .next t ∧ t.mem = s.mem ∧
      t.ms.fills = s.ms.fills.set d (s.ms.fills[d] ++ [⟨q.ring, q.desc, q.md, q.base, q.ivals, [], u, q.seq, none⟩]) := by
  subst hwin hu
  obtain ⟨v, hv⟩ : ∃ v : State, v = q.ivals.foldl (fun s x => s.readRange ⟨d, some (ringSlot q.ring), false, 1⟩ x.1 (x.2 - x.1)) s :=
    ⟨_, rfl⟩
  obtain ⟨fill, hfill⟩ : ∃ f : Fill, f = ⟨q.ring, q.desc, q.md, q.base, q.ivals, [], fillUnits q.ivals, q.seq, none⟩ := ⟨_, rfl⟩
  have hhint : (1 : Nat) ≠ 3 := by decide
  have hmem : v.mem = s.mem := hv ▸ foldl_keeps State.mem _ (fun s x => readRange_mem s _ _ hhint) _ _
  have hfills : v.ms.fills = s.ms.fills :=
    hv ▸ foldl_keeps (fun x : State => x.ms.fills) _ (fun s x => readRange_fills s _ _ hhint) _ _
  have hform : s.windowFill d = ({ v with ms := { v.ms with fills := v.ms.fills.set d (s.ms.fills[d] ++ [fill]) } } : State).inc
      Reg.MEM_WIN_FILL_LINES_COUNT 0 (q.ivals.map fun x => (x.2 - x.1) / 64).sum := by
    rw [windowFill, if_neg (by rw [hrun]; decide), hreq]
    simp only [if_neg (not_lt.mpr hroom), ← hv, ← hfill]
  refine ⟨_, show act s (s.windowFill d) = _ from (congrArg (act s) hform).trans (act_next ..), ?_, ?_⟩
  · rw [done_mem, inc_mem]
    exact hmem
  · rw [done_ms, inc_fills, ← hfill, ← hfills]

/-- Settles O55: a sweep is nothing but moves; a swing lands its page, and what waited for it is nothing else; a fill reads
the lines that it brings in. -/
theorem sweepsSwingsAndFills : Obligations.SweepsSwingsAndFills := by
  unfold Obligations.SweepsSwingsAndFills
  intro s d page m q e win u
  exact ⟨fun hup hq => ⟨⟨exec_bellowsSweep d hup hq, exec_bellowsSweep_kept d hup hq⟩, exec_migrationSwing page hup hq,
    fun hm hwants hwin hframe => exec_migrationSwing_kept rfl rfl hup hq hm hwants hwin hframe⟩,
    fun hrun hreq hroom => exec_windowFill rfl rfl hrun hreq hroom⟩

end Sys2Proof.Machine
end


section
/-!
Partition changes and page allocation (R269, R276).
-/
namespace Sys2Proof.Machine

open State Sys2Proof.Safety

/-! A table filtered by its keys. -/

/-- A table without the keys that a test refuses. -/
theorem Tab.get_filter_key {α : Type} (d : Nat → α) (ok : Nat → Bool) (t : Tab α) (k : Nat) :
    Tab.get d (t.filter fun e => ok e.1) k = if ok k then Tab.get d t k else d k := by
  induction t with
  | nil => simp [Tab.get]
  | cons e t ih =>
    obtain ⟨j, v⟩ := e
    cases hj : ok j with
    | true =>
      simp only [List.filter_cons, hj, if_true, Tab.get, ih]
      by_cases hkj : k = j
      · simp [hkj, hj]
      · simp [hkj]
    | false =>
      simp only [List.filter_cons, hj, Bool.false_eq_true, if_false, ih, Tab.get]
      by_cases hkj : k = j
      · simp [hkj, hj]
      · simp [hkj]

namespace State

/-! Pages placed. -/

/-- What moves and pins of pages lead to: every page's mapping, flags and die kept, and nothing else changed but the counters
of moves. -/
structure PagesPlaced (s t : State) : Prop where
  rest : t.noMove = s.noMove
  word : ∀ a, a ∉ moveWords → t.word a = s.word a
  page : ∀ p, (t.ent p).state = (s.ent p).state ∧ (t.ent p).flags = (s.ent p).flags ∧ (t.ent p).die = (s.ent p).die

/-- What leaves memory, its poison and its windows outside some pages as they were. -/
structure Outside (ok : Nat → Prop) (s t : State) : Prop where
  rest : t.noMem = s.noMem
  alloc : t.ms.alloc = s.ms.alloc
  word : ∀ a, a ∉ moveWords → t.word a = s.word a
  poison : ∀ p, ¬ok p → Tab.get noPoison t.ms.poison p = Tab.get noPoison s.ms.poison p
  mem : ∀ a, ¬ok (a / 2 ^ 18) → Tab.get noByte t.mem a = Tab.get noByte s.mem a

theorem noMem_of_noMove {s t : State} (h : t.noMove = s.noMove) : t.noMem = s.noMem := (congrArg noMem h :)

end State

theorem State.Moved.placed {s t : State} (h : Moved s t) : PagesPlaced s t :=
  ⟨h.rest, h.word, fun p => ⟨(h.page p).state, (h.page p).flags, (h.page p).die⟩⟩

theorem State.PagesPlaced.refl (s : State) : PagesPlaced s s := (Moved.refl s).placed

theorem State.PagesPlaced.trans {s t u : State} (h : PagesPlaced s t) (k : PagesPlaced t u) : PagesPlaced s u := by
  refine ⟨k.rest.trans h.rest, fun a ha => (k.word a ha).trans (h.word a ha), fun p => ?_⟩
  obtain ⟨hstate, hflags, hdie⟩ := h.page p
  obtain ⟨kstate, kflags, kdie⟩ := k.page p
  exact ⟨kstate.trans hstate, kflags.trans hflags, kdie.trans hdie⟩

theorem State.Outside.refl (ok : Nat → Prop) (s : State) : Outside ok s s :=
  ⟨rfl, rfl, fun _ _ => rfl, fun _ _ => rfl, fun _ _ => rfl⟩

theorem State.Outside.trans {ok : Nat → Prop} {s t u : State} (h : Outside ok s t) (k : Outside ok t u) : Outside ok s u :=
  ⟨k.rest.trans h.rest, k.alloc.trans h.alloc, fun a ha => (k.word a ha).trans (h.word a ha),
    fun p hp => (k.poison p hp).trans (h.poison p hp), fun a ha => (k.mem a ha).trans (h.mem a ha)⟩

theorem State.PagesPlaced.outside {ok : Nat → Prop} {s t : State} (h : PagesPlaced s t) : Outside ok s t := by
  refine ⟨noMem_of_noMove h.rest, alloc_of_noMove h.rest, h.word, fun p _ => ?_, fun a _ => ?_⟩
  · rw [poison_of_noMove h.rest]
  · rw [mem_of_noMove h.rest]

/-- A field apart from the counters of moves reads as before. -/
theorem State.Outside.rd {ok : Nat → Prop} {s t : State} (h : Outside ok s t) {f : Field} {i : Nat}
    (hf : fieldAddr f i + 4 * fieldWords f ≤ 0x072008 ∨ 0x072020 ≤ fieldAddr f i) : t.rd f i = s.rd f i := by
  refine rd_congr fun a _ _ => h.word a ?_
  simp only [moveWords, List.mem_cons, List.not_mem_nil, or_false]
  omega

namespace State

theorem placed_setEnt {s : State} {p : Nat} {e : TierEnt} (hstate : e.state = (s.ent p).state) (hflags : e.flags = (s.ent p).flags)
    (hdie : e.die = (s.ent p).die) : PagesPlaced s (s.setEnt p e) := by
  refine ⟨rfl, fun _ _ => rfl, fun q => ?_⟩
  rw [ent_setEnt]
  split
  case isTrue hq => exact hq ▸ ⟨hstate, hflags, hdie⟩
  case isFalse => exact ⟨rfl, rfl, rfl⟩

theorem placed_pinPage (s : State) (p : Nat) : PagesPlaced s (s.pinPage p) := by
  unfold pinPage
  dsimp only
  split
  · exact .refl s
  · split
    · split
      · exact .refl s
      · have hbring := moved_bring s p 1 true
        split
        case h_1 t heq => rw [heq] at hbring; exact hbring.placed
        case h_2 t heq =>
          rw [heq] at hbring
          exact (hbring.trans (moved_addWant ..)).placed
    · exact (placed_setEnt (p := p) (e := { s.ent p with cpin := true }) rfl rfl rfl).trans (moved_dropCached ..).placed

/-! A page zeroed. -/

theorem zeroPage_noMem (s : State) (p : Nat) : (s.zeroPage p).noMem = s.noMem := by simp only [noMem, zeroPage, unfillPage]

theorem zeroPage_ctl (s : State) (p : Nat) : (s.zeroPage p).ctl = s.ctl := by simp only [zeroPage, unfillPage]

theorem zeroPage_alloc (s : State) (p : Nat) : (s.zeroPage p).ms.alloc = s.ms.alloc := by simp only [zeroPage, unfillPage]

theorem poison_zeroPage (s : State) (p q : Nat) : Tab.get noPoison (s.zeroPage p).ms.poison q =
    if q = p then 0 else Tab.get noPoison s.ms.poison q := by
  simp only [zeroPage, unfillPage]
  split
  case isTrue h => rw [h, Tab.get_set_same]
  case isFalse h => rw [Tab.get_set_other _ _ _ h]

theorem mem_zeroPage (s : State) (p a : Nat) : Tab.get noByte (s.zeroPage p).mem a =
    if a / 2 ^ 18 = p then 0 else Tab.get noByte s.mem a := by
  have hget := Tab.get_filter_key noByte (fun k => k / 2 ^ 18 != p) s.mem a
  have hmem : (s.zeroPage p).mem = s.mem.filter fun e => e.1 / 2 ^ 18 != p := by simp only [zeroPage]
  rw [hmem, hget]
  by_cases h : a / 2 ^ 18 = p
  · rw [if_neg (by simpa using h), if_pos h]
    rfl
  · rw [if_pos (by simpa using h), if_neg h]

theorem outside_zeroPage {ok : Nat → Prop} (s : State) {p : Nat} (h : ok p) : Outside ok s (s.zeroPage p) := by
  refine ⟨zeroPage_noMem s p, zeroPage_alloc s p, fun a _ => word_of_ctl (zeroPage_ctl s p) a, fun q hq => ?_, fun a ha => ?_⟩
  · rw [poison_zeroPage, if_neg (fun e : q = p => hq (e.symm ▸ h))]
  · rw [mem_zeroPage, if_neg (fun e : a / 2 ^ 18 = p => ha (e.symm ▸ h))]

/-- A tier map entry set leaves memory as it was. -/
theorem outside_setEnt {ok : Nat → Prop} (s : State) (p : Nat) (e : TierEnt) : Outside ok s (s.setEnt p e) :=
  ⟨rfl, rfl, fun _ _ => rfl, fun _ _ => rfl, fun _ _ => rfl⟩

theorem outside_unmapPage {ok : Nat → Prop} (s : State) {p : Nat} (h : ok p) : Outside ok s (s.unmapPage p) :=
  (outside_zeroPage s h).trans ((moved_dropCached _ p).placed.outside.trans (outside_setEnt ..))

theorem outside_mapPage {ok : Nat → Prop} (s : State) {p : Nat} (h : ok p) (tier frame : Nat) (die : Fin 2) (flags : BitVec 2) :
    Outside ok s (s.mapPage p tier frame die flags) := (outside_zeroPage s h).trans (outside_setEnt ..)

theorem outside_freePage {ok : Nat → Prop} (s : State) {p : Nat} (h : ok p) : Outside ok s (s.freePage p) := by
  unfold freePage
  split
  · exact ⟨rfl, rfl, fun _ _ => rfl, fun _ _ => rfl, fun _ _ => rfl⟩
  · exact outside_unmapPage s h

theorem outside_allocPage {ok : Nat → Prop} (s : State) {p : Nat} (h : ok p) (die : Fin 2) (flags : BitVec 2) :
    Outside ok s (s.allocPage p die flags) := by
  have hdest (tier : Nat) := moved_destFrame s tier die
  unfold allocPage
  dsimp only
  generalize (if flags = 2 then 1 else if flags = 0 && s.freeFrames 1 die ≠ 0 then 1 else 2) = tier
  have hmoved := hdest tier
  split
  case h_1 t f heq =>
    rw [heq] at hmoved
    have hmap := hmoved.placed.outside.trans (outside_mapPage t h tier f die flags)
    split
    · exact hmap.trans (placed_pinPage ..).outside
    · exact hmap
  case h_2 t heq =>
    rw [heq] at hmoved
    exact hmoved.placed.outside

/-- A fold over pages of a range, each changing memory in its page alone. -/
theorem outside_span {ok : Nat → Prop} {b n : Nat} (hok : ∀ p, b ≤ p → p < b + n → ok p) (f : State → Nat → State)
    (h : ∀ s p, ok p → Outside ok s (f s p)) (s : State) : Outside ok s ((span b n).foldl f s) := by
  have hmem : ∀ p ∈ span b n, ok p := fun p hp => hok p (mem_span.mp hp).1 (mem_span.mp hp).2
  generalize span b n = l at hmem
  induction l generalizing s with
  | nil => exact .refl ok s
  | cons p l ih =>
    exact (h s p (hmem p List.mem_cons_self)).trans (ih _ fun q hq => hmem q (List.mem_cons_of_mem _ hq))

/-! The registers of an allocation (R276). -/

/-- The registers and the operation as an accepted allocation begins. -/
def allocBegun (s : State) (op : Nat) (flags die : BitVec 2) : State := (s.setAllocCtrl op flags die).startAlloc op die

/-- MEM_ALLOC_CTRL written alone. -/
theorem setAllocCtrl_word (s : State) (op : Nat) (flags die : BitVec 2) {a : Nat} (ha : a ∉ [0x07010C]) :
    (s.setAllocCtrl op flags die).word a = s.word a := by
  unfold setAllocCtrl
  dsimp only
  have hset : ((s.wr Reg.MEM_ALLOC_CTRL_OP 0 op).wr Reg.MEM_ALLOC_CTRL_FLAGS 0 flags.toNat).word a = s.word a :=
    (word_wr_listed ha (by decide)).trans (word_wr_listed ha (by decide))
  exact ite_keeps (fun x : State => x.word a) _ hset ((word_wr_listed ha (by decide)).trans hset)

theorem setAllocCtrl_noCtl (s : State) (op : Nat) (flags die : BitVec 2) : (s.setAllocCtrl op flags die).noCtl = s.noCtl := by
  have hset : ((s.wr Reg.MEM_ALLOC_CTRL_OP 0 op).wr Reg.MEM_ALLOC_CTRL_FLAGS 0 flags.toNat).noCtl = s.noCtl :=
    (wr_noCtl ..).trans (wr_noCtl ..)
  exact ite_keeps noCtl _ hset ((wr_noCtl ..).trans hset)

theorem allocRange_congr {s t : State} (h : ∀ a, a ∉ [0x07010C] → t.word a = s.word a) : t.allocRange = s.allocRange := by
  have hrd {f : Field} (hf : fieldAddr f 0 + 4 * fieldWords f ≤ 0x07010C) : t.rd f 0 = s.rd f 0 :=
    rd_congr fun a _ ha => h a (by rw [List.mem_singleton]; omega)
  rw [allocRange, allocRange, rangeBase, rangeBase, hrd (by decide), hrd (by decide), hrd (by decide)]

theorem allocBegun_eq (s : State) (op : Nat) (flags die : BitVec 2) : s.allocBegun op flags die =
    ({ s.setAllocCtrl op flags die with ms := { s.ms with
      alloc := some ⟨op, die.toNat, s.allocRange.1, s.allocRange.2⟩ } } : State).wrB Reg.MEM_ALLOC_STATUS_BUSY 0 true := by
  have hrange : (s.setAllocCtrl op flags die).allocRange = s.allocRange :=
    allocRange_congr fun a ha => setAllocCtrl_word s op flags die ha
  have hms : (s.setAllocCtrl op flags die).ms = s.ms := ms_of_noCtl (setAllocCtrl_noCtl ..)
  rw [← hrange, ← hms]
  rfl

theorem allocBegun_ms (s : State) (op : Nat) (flags die : BitVec 2) : (s.allocBegun op flags die).ms =
    { s.ms with alloc := some ⟨op, die.toNat, s.allocRange.1, s.allocRange.2⟩ } := by rw [allocBegun_eq, wrB_ms]

theorem allocBegun_mem (s : State) (op : Nat) (flags die : BitVec 2) : (s.allocBegun op flags die).mem = s.mem := by
  rw [allocBegun_eq, wrB_mem]
  exact (mem_of_noCtl (setAllocCtrl_noCtl s op flags die) :)

theorem allocBegun_word (s : State) (op : Nat) (flags die : BitVec 2) {a : Nat} (ha : a ∉ [0x07010C, 0x070110]) :
    (s.allocBegun op flags die).word a = s.word a := by
  simp only [List.mem_cons, List.not_mem_nil, or_false, not_or] at ha
  rw [allocBegun_eq, wrB, word_wr_listed (ws := [0x070110]) (by simpa using ha.2) (by decide), word_with_ms]
  exact setAllocCtrl_word s op flags die (by simpa using ha.1)

theorem ent_allocBegun (s : State) (op : Nat) (flags die : BitVec 2) (p : Nat) : (s.allocBegun op flags die).ent p = s.ent p := by
  rw [ent, allocBegun_ms]
  rfl

/-- What an allocation's registers show as it begins. -/
theorem allocBegun_reads (s : State) {op : Nat} (flags die : BitVec 2) (hop : op < 4) : let t := s.allocBegun op flags die
    t.rdB Reg.MEM_ALLOC_STATUS_BUSY 0 = true ∧ t.rd Reg.MEM_ALLOC_CTRL_OP 0 = op ∧
      t.rd Reg.MEM_ALLOC_CTRL_FLAGS 0 = flags.toNat ∧ (die ≠ 3 → t.rd Reg.MEM_ALLOC_CTRL_DIE 0 = die.toNat) := by
  have hset {f : Field} (hf : apart Reg.MEM_ALLOC_STATUS_BUSY 0 f 0 = true) :
      (s.allocBegun op flags die).rd f 0 = (s.setAllocCtrl op flags die).rd f 0 := by
    rw [allocBegun_eq, wrB, rd_wr_other _ _ hf, rd_with_ms]
  have hkept {f : Field} (hf : apart Reg.MEM_ALLOC_CTRL_DIE 0 f 0 = true) : (s.setAllocCtrl op flags die).rd f 0 =
      ((s.wr Reg.MEM_ALLOC_CTRL_OP 0 op).wr Reg.MEM_ALLOC_CTRL_FLAGS 0 flags.toNat).rd f 0 :=
    ite_keeps (fun x : State => x.rd f 0) _ rfl (rd_wr_other _ _ hf)
  refine ⟨?_, ?_, ?_, fun hdie => ?_⟩
  · rw [allocBegun_eq, rdB_wrB_same _ _ _ _ rfl]
  · rw [hset (by decide), hkept (by decide), rd_wr_other _ _ (by decide), rd_wr_same _ _ _ _ (by decide)]
    exact Nat.mod_eq_of_lt hop
  · rw [hset (by decide), hkept (by decide), rd_wr_same _ _ _ _ (by decide)]
    exact Nat.mod_eq_of_lt flags.isLt
  · rw [hset (by decide), setAllocCtrl]
    simp only [if_neg hdie]
    rw [rd_wr_same _ _ _ _ (by decide)]
    exact Nat.mod_eq_of_lt die.isLt

/-- Nothing holds an allocation back (R276). -/
theorem allocCheck_none {s : State} (hn : s.allocRange.2 ≠ 0) (hfits : s.allocRange.1 + s.allocRange.2 ≤ resPage)
    (halloc : s.ms.alloc = none) : s.allocCheck = none := by
  rw [allocCheck]
  show (if s.allocRange.2 = 0 || decide (resPage < s.allocRange.1 + s.allocRange.2) then _ else _) = _
  rw [if_neg (by simp; omega), halloc]

/-- A byte below the reserved region is memory's. -/
theorem byte_plain (s : State) {p o : Nat} (hp : p < resPage) (ho : o < 2 ^ 18) :
    s.byte (p * 2 ^ 18 + o) = Tab.get noByte s.mem (p * 2 ^ 18 + o) := by
  rw [byte, if_pos (by simp only [resPage] at hp ⊢; omega)]

theorem page_of_byte {p o : Nat} (ho : o < 2 ^ 18) : (p * 2 ^ 18 + o) / 2 ^ 18 = p := by omega

/-- What an accepted allocation shows, whatever it does to the pages of its range. -/
theorem alloc_shows {s x : State} {op : Nat} {flags die : BitVec 2} {ok : Nat → Prop} (hop : op < 4)
    (hx : Outside ok (s.allocBegun op flags die) x) (q : List Instr) : let t := (x.writeStatus .ok).done q
    t.rdB Reg.MEM_ALLOC_STATUS_BUSY 0 = true ∧
      t.ms.alloc = some ⟨op, die.toNat, s.allocRange.1, s.allocRange.2⟩ ∧ t.rd Reg.MEM_ALLOC_CTRL_OP 0 = op ∧
      t.rd Reg.MEM_ALLOC_CTRL_FLAGS 0 = flags.toNat ∧ (die ≠ 3 → t.rd Reg.MEM_ALLOC_CTRL_DIE 0 = die.toNat) ∧
      ∀ p, ¬ok p → Tab.get noPoison t.ms.poison p = Tab.get noPoison s.ms.poison p ∧
        ∀ o, p < resPage → o < 2 ^ 18 → t.byte (p * 2 ^ 18 + o) = s.byte (p * 2 ^ 18 + o) := by
  intro t
  obtain ⟨hbusy, hopr, hflags, hdie⟩ := allocBegun_reads s flags die hop
  have hrd {f : Field} (hown : ownField f 0 = true) (hf : fieldAddr f 0 + 4 * fieldWords f ≤ 0x072008) :
      t.rd f 0 = (s.allocBegun op flags die).rd f 0 := (done_rd q hown).trans ((writeStatus_rd ..).trans (hx.rd (.inl hf)))
  have hms : t.ms = x.ms := done_ms _ _
  have hmem : t.mem = x.mem := done_mem _ _
  refine ⟨?_, ?_, ?_, ?_, fun h => ?_, fun p hp => ⟨?_, fun o hlt ho => ?_⟩⟩
  · rw [rdB, hrd (by decide) (by decide), ← rdB, hbusy]
  · rw [hms, hx.alloc, allocBegun_ms]
  · rw [hrd (by decide) (by decide), hopr]
  · rw [hrd (by decide) (by decide), hflags]
  · rw [hrd (by decide) (by decide), hdie h]
  · rw [hms, hx.poison p hp, allocBegun_ms]
  · rw [byte_plain _ hlt ho, byte_plain _ hlt ho, hmem, hx.mem _ (by rwa [page_of_byte ho]), allocBegun_mem]

end State

/-! Folds that change each page of a range in its own entry. -/

/-- A fold over pages that changes each in its own entry changes every page listed once, and no other. -/
theorem State.ent_foldl {f : State → Nat → State} {g : TierEnt → TierEnt}
    (h : ∀ s p q, (f s p).ent q = if q = p then g (s.ent p) else s.ent q) {l : List Nat} (hl : l.Nodup) (s : State) (q : Nat) :
    (l.foldl f s).ent q = if q ∈ l then g (s.ent q) else s.ent q := by
  induction l generalizing s with
  | nil => simp
  | cons p l ih =>
    obtain ⟨hp, hrest⟩ := List.nodup_cons.mp hl
    rw [List.foldl_cons, ih hrest, h]
    by_cases hq : q = p
    · rw [if_neg (hq ▸ hp), if_pos hq, if_pos (hq ▸ List.mem_cons_self), hq]
    · simp [hq]

/-- The entry of a page freed (R276). -/
def freedEnt (e : TierEnt) : TierEnt := if e.state != .unmapped && !e.lock then .unmapped else e

theorem State.ent_freePage (s : State) (p q : Nat) : (if s.isMapped p then s.freePage p else s).ent q =
    if q = p then freedEnt (s.ent p) else s.ent q := by
  have hsame : q = p → s.ent q = s.ent p := fun h => by rw [h]
  rw [isMapped, freedEnt]
  cases hmap : (s.ent p).state != .unmapped with
  | false => simp only [Bool.false_eq_true, if_false, Bool.false_and]; split <;> [exact hsame ‹_›; rfl]
  | true =>
    simp only [if_true, Bool.true_and]
    rw [freePage]
    cases hlock : (s.ent p).lock with
    | true =>
      simp only [if_true, Bool.not_true, Bool.false_eq_true, if_false]
      split
      case isTrue h => exact hsame h
      case isFalse h => rfl
    | false => simp only [Bool.false_eq_true, if_false, Bool.not_false, if_true, ent_unmapPage]

theorem State.freePage_ctl (s : State) (p : Nat) : (s.freePage p).ctl = s.ctl := by
  rw [freePage]
  exact ite_keeps State.ctl _ rfl (unmapPage_ctl s p)

/-! The three operations. -/

section
variable {s : State} {w : Writer} {flags die : BitVec 2} {b n : Nat} (hb : b = s.allocRange.1) (hn : n = s.allocRange.2)
  (hready : writable s w 0x07010C = true ∧ n ≠ 0 ∧ b + n ≤ resPage ∧ s.ms.alloc = none)
include hb hn hready

theorem exec_alloc (hdie : die ≠ 3) (hfree : ∀ p, b ≤ p → p < b + n → s.isMapped p = false)
    (hroom : s.allocRoom flags die b n = true) : exec (.alloc w flags die) s = .next (wrote s ((span b n).foldl
      (fun (x : State) p => x.allocPage p (State.allocDie die b p) flags) (s.allocBegun 0 flags die))) := by
  obtain ⟨hw, hpos, hfits, halloc⟩ := hready
  subst hb hn
  have hfind : (span s.allocRange.1 s.allocRange.2).find? s.isMapped = none :=
    List.find?_eq_none.mpr fun p hp => by rw [hfree p (mem_span.mp hp).1 (mem_span.mp hp).2]; decide
  have hgo : s.allocGo flags die = ((span s.allocRange.1 s.allocRange.2).foldl
      (fun (x : State) p => x.allocPage p (State.allocDie die s.allocRange.1 p) flags) (s.allocBegun 0 flags die), .ok) := by
    unfold allocGo
    rw [if_neg hdie, allocCheck_none hpos hfits halloc]
    show (match (span s.allocRange.1 s.allocRange.2).find? s.isMapped with | some p => _ | none => _) = _
    rw [hfind]
    show (if (!s.allocRoom flags die s.allocRange.1 s.allocRange.2) = true then _ else _) = _
    rw [if_neg (by rw [hroom]; decide)]
    rfl
  show act s (s.regWrite w 0x07010C (flags.toNat * 4 + die.toNat * 16 + 64) fun s => s.allocGo flags die) = _
  rw [regWrite_made hw hgo, act_next, wrote]

theorem exec_free (hwin : s.windowOver none (b * 2 ^ 18) (n * 2 ^ 18) = none)
    (hpool : s.poolOver none (b * 2 ^ 18) (n * 2 ^ 18) = none) : exec (.free w flags die) s = .next (wrote s ((span b n).foldl
      (fun (x : State) p => if x.isMapped p then x.freePage p else x) (s.allocBegun 1 flags die))) := by
  obtain ⟨hw, hpos, hfits, halloc⟩ := hready
  subst hb hn
  have hgo : s.freeGo flags die = ((span s.allocRange.1 s.allocRange.2).foldl
      (fun (x : State) p => if x.isMapped p then x.freePage p else x) (s.allocBegun 1 flags die), .ok) := by
    unfold freeGo
    rw [allocCheck_none hpos hfits halloc]
    show (match s.windowOver none (s.allocRange.1 * 2 ^ 18) (s.allocRange.2 * 2 ^ 18),
      s.poolOver none (s.allocRange.1 * 2 ^ 18) (s.allocRange.2 * 2 ^ 18) with
      | some w, _ => _
      | none, some p => _
      | none, none => _) = _
    rw [hwin, hpool]
    rfl
  show act s (s.regWrite w 0x07010C (1 + flags.toNat * 4 + die.toNat * 16 + 64) fun s => s.freeGo flags die) = _
  rw [regWrite_made hw hgo, act_next, wrote]

theorem exec_setflags (hpin : flags = 3 → ∀ p, b ≤ p → p < b + n → (s.ent p).cpin = false)
    (hroom : flags = 2 → s.pinRoom b n = true) : exec (.setflags w flags die) s = .next (wrote s ((span b n).foldl
      (fun (x : State) p => if x.isMapped p then x.setEnt p { x.ent p with flags := flags } else x)
      (s.allocBegun 2 flags die))) := by
  obtain ⟨hw, hpos, hfits, halloc⟩ := hready
  subst hb hn
  have hfind : (if flags = 3 then (span s.allocRange.1 s.allocRange.2).find? fun p => (s.ent p).cpin else none) = none := by
    split
    case isTrue h => exact List.find?_eq_none.mpr fun p hp => by rw [hpin h p (mem_span.mp hp).1 (mem_span.mp hp).2]; decide
    case isFalse => rfl
  have hgo : s.setflagsGo flags die = ((span s.allocRange.1 s.allocRange.2).foldl
      (fun (x : State) p => if x.isMapped p then x.setEnt p { x.ent p with flags := flags } else x)
      (s.allocBegun 2 flags die), .ok) := by
    unfold setflagsGo
    rw [allocCheck_none hpos hfits halloc]
    show (match (if flags = 3 then (span s.allocRange.1 s.allocRange.2).find? fun p => (s.ent p).cpin else none) with
      | some p => _
      | none => _) = _
    rw [hfind]
    show (if (decide (flags = 2) && !s.pinRoom s.allocRange.1 s.allocRange.2) = true then _ else _) = _
    rw [if_neg (by simp only [Bool.and_eq_true, decide_eq_true_eq, Bool.not_eq_true', not_and, Bool.not_eq_false]; exact hroom)]
    rfl
  show act s (s.regWrite w 0x07010C (2 + flags.toNat * 4 + die.toNat * 16 + 64) fun s => s.setflagsGo flags die) = _
  rw [regWrite_made hw hgo, act_next, wrote]

end

/-- The entries and words after an accepted allocation whose pages each changed in its own entry. -/
theorem alloc_alone {s : State} {op b n : Nat} {flags die : BitVec 2} {f : State → Nat → State} {g : TierEnt → TierEnt}
    (hent : ∀ s p q, (f s p).ent q = if q = p then g (s.ent p) else s.ent q) (hctl : ∀ s p, (f s p).ctl = s.ctl)
    (q : List Instr) : let t := (((span b n).foldl f (s.allocBegun op flags die)).writeStatus .ok).done q
    (∀ p, t.ent p = if b ≤ p ∧ p < b + n then g (s.ent p) else s.ent p) ∧
      ∀ a, a ∉ [0x07010C, 0x070110] → a ∉ statusWords → t.word a = s.word a := by
  intro t
  have hms : t.ms = ((span b n).foldl f (s.allocBegun op flags die)).ms := done_ms _ _
  refine ⟨fun p => ?_, fun a ha hst => ?_⟩
  · rw [ent_of_ms hms, ent_foldl hent (nodup_span b n), ent_allocBegun]
    simp only [mem_span]
  · have hfold : ((span b n).foldl f (s.allocBegun op flags die)).ctl = (s.allocBegun op flags die).ctl :=
      foldl_keeps State.ctl f hctl _ _
    rw [done_word _ hst, writeStatus_word, word_of_ctl hfold, allocBegun_word _ _ _ _ ha]

/-! The end of an allocation, and the protection of cached lines. -/

theorem exec_allocDone {s : State} {o : AllocOp} (hup : s.memUp = true) (halloc : s.ms.alloc = some o) :
    ∃ t, exec .allocDone s = .next t ∧ t.rdB Reg.MEM_ALLOC_STATUS_BUSY 0 = false ∧ t.rdB Reg.MEM_ALLOC_STATUS_DONE 0 = true ∧
      Raised s t 0x040A 0 none o.op ∧ EventsOnly { s with ms := { s.ms with alloc := none } } t [0x070110] := by
  obtain ⟨x, hx⟩ : ∃ x : State, x = { s with ms := { s.ms with alloc := none } } := ⟨_, rfl⟩
  obtain ⟨u, hu⟩ : ∃ u : State, u = (x.wrB Reg.MEM_ALLOC_STATUS_BUSY 0 false).wrB Reg.MEM_ALLOC_STATUS_DONE 0 true := ⟨_, rfl⟩
  have hform : s.allocEnd = u.raise 0x040A 0 none o.op := by rw [allocEnd, halloc, hu, hx]
  have hstamp : u.stamp none = s.stamp none := by
    rw [hu, wrB, stamp_wr _ _ (by decide), wrB, stamp_wr _ _ (by decide), hx]
    rfl
  have hread {f : Field} (hown : ownField f 0 = true) (hev : apartFromEvent f 0 = true) :
      ((u.raise 0x040A 0 none o.op).done s.pending).rd f 0 = u.rd f 0 := (done_rd _ hown).trans (rd_raise_apart hev ..)
  have hpend : x.pending = s.pending := by rw [hx]
  refine ⟨(u.raise 0x040A 0 none o.op).done s.pending, ?_, ?_, ?_, ?_, ?_⟩
  · show act s (if s.memUp then s.allocEnd else s) = _
    rw [if_pos hup, hform, act_next]
  · rw [rdB, hread (by decide) (by decide), hu, wrB, rd_wr_other _ _ (by decide), ← rdB, rdB_wrB_same _ _ _ _ rfl]
  · rw [rdB, hread (by decide) (by decide), ← rdB, hu, rdB_wrB_same _ _ _ _ rfl]
  · rw [Raised, done_tel, ← eventRec_of_stamp hstamp]
    exact raise_logs ..
  · rw [← hx, ← hpend]
    refine done_eventsOnly ?_ fun a ha hev => ?_
    · rw [raise_noEvent, hu]
      exact noEvent_of_noCtl ((wrB_noCtl ..).trans (wrB_noCtl ..))
    · rw [raise_word _ _ _ _ _ _ hev, hu, word_wrB_listed ha (by decide), word_wrB_listed ha (by decide)]

/-- A quota changes no line of a cache but as to its protection. -/
theorem mscQuota_lines (n k : Nat) (l : List MscLine) : (mscQuota n k l).map (·.line) = l.map (·.line) := by
  have hfold (l acc : List MscLine) : (l.foldl (fun (acc : List MscLine) c =>
      acc ++ [if c.prot && decide (k ≤ ((mscSet n c.line acc).filter (·.prot)).length) then { c with prot := false } else c])
      acc).map (·.line) = acc.map (·.line) ++ l.map (·.line) := by
    induction l generalizing acc with
    | nil => simp
    | cons c l ih =>
      have hline : (if c.prot && decide (k ≤ ((mscSet n c.line acc).filter (·.prot)).length) then { c with prot := false }
          else c).line = c.line := by
        split
        · rfl
        · rfl
      rw [List.foldl_cons, ih]
      simp only [List.map_append, List.map_cons, List.map_nil, hline, List.append_assoc, List.cons_append, List.nil_append]
  exact hfold l []

/-- A die's cache held to its quota. -/
def State.quotaDie (s : State) (k : Nat) (d : Fin 2) : State :=
  if s.mscSets d = 0 then s
  else { s with ms := { s.ms with msc := s.ms.msc.set d (mscQuota (s.mscSets d) k s.ms.msc[d]) } }

theorem State.quotaDie_form (s : State) (k : Nat) (d : Fin 2) :
    s.quotaDie k d = { s with ms := { s.ms with msc := (s.quotaDie k d).ms.msc } } := by
  rw [quotaDie]
  split
  · rfl
  · rfl

theorem State.quotaDie_lines (s : State) (k : Nat) (d e : Fin 2) :
    (s.quotaDie k d).ms.msc[e].map (·.line) = s.ms.msc[e].map (·.line) := by
  rw [quotaDie]
  split
  · rfl
  · by_cases hde : d = e
    · subst hde
      simp only [Fin.getElem_fin, Vector.getElem_set_self, mscQuota_lines]
    · have hne : d.val ≠ e.val := fun h => hde (Fin.ext h)
      simp only [Fin.getElem_fin, Vector.getElem_set_ne _ _ hne]

/-- The fields of MEM_ARB_CFG taken. -/
def State.arbShown (s : State) (v : Nat) : State :=
  ((s.wr Reg.MEM_ARB_CFG_N 0 (bits v 6 0)).wr Reg.MEM_ARB_CFG_BG_SHARE 0 (bits v 13 8)).wr Reg.MEM_ARB_CFG_KEEP_WAYS 0 (bits v 19 16)

theorem exec_unprotect {s : State} {w : Writer} {v : Word} (hw : writable s w 0x070300 = true) (h2 : 2 ≤ bits v.toNat 6 0)
    (h64 : bits v.toNat 6 0 ≤ 64) (hshare : bits v.toNat 13 8 ≠ 0) : ∃ t, exec (.unprotect w v) s = .next t ∧
      t.rd Reg.MEM_ARB_CFG_N 0 = bits v.toNat 6 0 ∧ t.rd Reg.MEM_ARB_CFG_BG_SHARE 0 = bits v.toNat 13 8 ∧
      t.rd Reg.MEM_ARB_CFG_KEEP_WAYS 0 = bits v.toNat 19 16 ∧
      (∀ e : Die, (∀ c ∈ t.ms.msc[e], c.prot = false) ∧ t.ms.msc[e].map (·.line) = s.ms.msc[e].map (·.line)) ∧
      RegsOnly { s with wres := .ok, ms := { s.ms with msc := t.ms.msc } } t [0x070300] := by
  obtain ⟨v', hv'⟩ : ∃ v' : Nat, v' = putBits v.toNat 20 20 1 := ⟨_, rfl⟩
  have hbelow (hi lo : Nat) (hhi : hi < 20) (hlo : lo ≤ hi) : bits v' hi lo = bits v.toNat hi lo := by
    rw [hv', bits_putBits_below _ _ _ _ _ _ (le_refl 20) hhi hlo]
  have hbit : bit v' 20 = true := by
    have hset := bits_putBits_same v.toNat 20 20 1 (le_refl 20)
    rw [← hv'] at hset
    show (bits v' 20 20 == 1) = true
    rw [hset]
    rfl
  obtain ⟨u, hu⟩ : ∃ u : State, u = s.arbShown v' := ⟨_, rfl⟩
  obtain ⟨k, hk⟩ : ∃ k : Nat, k = u.rd Reg.MEM_ARB_CFG_KEEP_WAYS 0 := ⟨_, rfl⟩
  obtain ⟨x, hx⟩ : ∃ x : State, x = ((u.quotaDie k 0).quotaDie k 1).unprotectAll := ⟨_, rfl⟩
  have hmade : arbWrite s v' = (x, .ok) := by
    rw [arbWrite, if_neg (by rw [hbelow 6 0 (by omega) (by omega), hbelow 13 8 (by omega) (by omega)]; simp; omega)]
    simp only [hbit, if_true]
    rw [hx, hk, hu]
    rfl
  have huctl : u.noCtl = s.noCtl := by rw [hu, arbShown, wr_noCtl, wr_noCtl, wr_noCtl]
  have hxform : x = { u with ms := { u.ms with msc := x.ms.msc } } := by
    rw [hx, unprotectAll, quotaDie_form (u.quotaDie k 0), quotaDie_form u]
  have hlines (e : Die) : x.ms.msc[e].map (·.line) = s.ms.msc[e].map (·.line) := by
    have hmap : x.ms.msc[e].map (·.line) = ((u.quotaDie k 0).quotaDie k 1).ms.msc[e].map (·.line) := by
      rw [hx, unprotectAll]
      simp [Function.comp_def]
    rw [hmap, quotaDie_lines, quotaDie_lines, ms_of_noCtl huctl]
  have hprot (e : Die) : ∀ c ∈ x.ms.msc[e], c.prot = false := by
    intro c hc
    rw [hx, unprotectAll] at hc
    simp only [Fin.getElem_fin, Vector.getElem_map, List.mem_map] at hc
    obtain ⟨c', -, rfl⟩ := hc
    rfl
  obtain ⟨t, ht⟩ : ∃ t : State, t = (x.writeStatus .ok).done s.pending := ⟨_, rfl⟩
  have hms : t.ms = x.ms := ht ▸ done_ms _ _
  have hrd {f : Field} (hown : ownField f 0 = true) : t.rd f 0 = u.rd f 0 := by
    rw [ht, done_rd _ hown, writeStatus_rd, hxform, rd_with_ms]
  refine ⟨t, ?_, ?_, ?_, ?_, fun e => ⟨?_, ?_⟩, ?_⟩
  · show act s (s.regWrite w 0x070300 (putBits v.toNat 20 20 1) fun s => arbWrite s (putBits v.toNat 20 20 1)) = _
    rw [← hv', regWrite_made hw hmade, act_next, ht]
  · rw [hrd (by decide), hu, arbShown, rd_wr_other _ _ (by decide), rd_wr_other _ _ (by decide), rd_wr_same _ _ _ _ (by decide),
      hbelow 6 0 (by omega) (by omega)]
    exact Nat.mod_eq_of_lt (bits_lt ..)
  · rw [hrd (by decide), hu, arbShown, rd_wr_other _ _ (by decide), rd_wr_same _ _ _ _ (by decide),
      hbelow 13 8 (by omega) (by omega)]
    exact Nat.mod_eq_of_lt (bits_lt ..)
  · rw [hrd (by decide), hu, arbShown, rd_wr_same _ _ _ _ (by decide), hbelow 19 16 (by omega) (by omega)]
    exact Nat.mod_eq_of_lt (bits_lt ..)
  · rw [hms]
    exact hprot e
  · rw [hms]
    exact hlines e
  · rw [hms, ht]
    refine done_regsOnly (s := { s with wres := .ok, ms := { s.ms with msc := x.ms.msc } }) ?_ fun a ha => ?_
    · rw [writeStatus_noCtl, hxform, ← ms_of_noCtl huctl]
      exact congrArg (fun y : State => { y with wres := .ok, ms := { u.ms with msc := x.ms.msc } }) huctl
    · rw [writeStatus_word, hxform, word_with_ms, hu, arbShown, word_wr_listed ha (by decide), word_wr_listed ha (by decide),
        word_wr_listed ha (by decide)]
      rfl

/-! Partition changes (R269). -/

/-- A page that stands in a frame of a partition begins to leave. -/
def State.leaveIfTaken (s : State) (p : Nat) : State := if s.inTaken p = true then s.leaveScratch p else s

theorem State.moved_leaveIfTaken (s : State) (p : Nat) : Moved s (s.leaveIfTaken p) :=
  moved_ite (fun _ => moved_leaveScratch s p) fun _ => .refl s

/-- The areas of a die's partitions shown, with APPLYING. -/
def State.partShown (s : State) (d : Fin 2) (msc win stg fcap : Nat) : State :=
  ((((s.wr Reg.MEM_TS_PART_MSC d msc).wr Reg.MEM_TS_PART_WIN d win).wr Reg.MEM_TS_PART_STAGE d stg).wr
    Reg.MEM_TS_PART_FCAP d fcap).wrB Reg.MEM_TS_PART_APPLYING d true

theorem State.partShown_noCtl (s : State) (d : Fin 2) (msc win stg fcap : Nat) :
    (s.partShown d msc win stg fcap).noCtl = s.noCtl := by
  rw [partShown, wrB_noCtl, wr_noCtl, wr_noCtl, wr_noCtl, wr_noCtl]

theorem State.partShown_word (s : State) (d : Fin 2) (msc win stg fcap : Nat) {a : Nat} (ha : a ∉ [0x070000 + 4 * d.val]) :
    (s.partShown d msc win stg fcap).word a = s.word a := by
  have hlisted : ∀ d : Fin 2, ∀ f ∈ [Reg.MEM_TS_PART_MSC, Reg.MEM_TS_PART_WIN, Reg.MEM_TS_PART_STAGE, Reg.MEM_TS_PART_FCAP,
      Reg.MEM_TS_PART_APPLYING], within f d [0x070000 + 4 * d.val] = true := by decide
  have hf {f : Field} (h : f ∈ [Reg.MEM_TS_PART_MSC, Reg.MEM_TS_PART_WIN, Reg.MEM_TS_PART_STAGE, Reg.MEM_TS_PART_FCAP,
      Reg.MEM_TS_PART_APPLYING]) := hlisted d f h
  rw [partShown, word_wrB_listed ha (hf (by simp)), word_wr_listed ha (hf (by simp)), word_wr_listed ha (hf (by simp)),
    word_wr_listed ha (hf (by simp)), word_wr_listed ha (hf (by simp))]

theorem State.partShown_reads (s : State) (d : Fin 2) {msc win stg fcap : Nat} (hmsc : msc < 2 ^ 6) (hwin : win < 2 ^ 8)
    (hstg : stg < 2 ^ 6) (hfcap : fcap < 2 ^ 4) : let u := s.partShown d msc win stg fcap
    u.rd Reg.MEM_TS_PART_MSC d = msc ∧ u.rd Reg.MEM_TS_PART_WIN d = win ∧ u.rd Reg.MEM_TS_PART_STAGE d = stg ∧
      u.rd Reg.MEM_TS_PART_FCAP d = fcap ∧ u.rdB Reg.MEM_TS_PART_APPLYING d = true := by
  have hown {t : State} {f : Field} (v : Nat) (hf : 0 < f.len) (hv : v < 2 ^ f.len) : (t.wr f d v).rd f d = v :=
    (rd_wr_same _ _ _ _ hf).trans (Nat.mod_eq_of_lt hv)
  have hapart : ∀ d : Fin 2, apart Reg.MEM_TS_PART_APPLYING d Reg.MEM_TS_PART_MSC d = true ∧
      apart Reg.MEM_TS_PART_APPLYING d Reg.MEM_TS_PART_WIN d = true ∧ apart Reg.MEM_TS_PART_APPLYING d Reg.MEM_TS_PART_STAGE d = true ∧
      apart Reg.MEM_TS_PART_APPLYING d Reg.MEM_TS_PART_FCAP d = true ∧ apart Reg.MEM_TS_PART_FCAP d Reg.MEM_TS_PART_MSC d = true ∧
      apart Reg.MEM_TS_PART_FCAP d Reg.MEM_TS_PART_WIN d = true ∧ apart Reg.MEM_TS_PART_FCAP d Reg.MEM_TS_PART_STAGE d = true ∧
      apart Reg.MEM_TS_PART_STAGE d Reg.MEM_TS_PART_MSC d = true ∧ apart Reg.MEM_TS_PART_STAGE d Reg.MEM_TS_PART_WIN d = true ∧
      apart Reg.MEM_TS_PART_WIN d Reg.MEM_TS_PART_MSC d = true := by decide
  obtain ⟨ham, haw, has, haf, hfm, hfw, hfs, hsm, hsw, hwm⟩ := hapart d
  simp only [partShown]
  refine ⟨?_, ?_, ?_, ?_, rdB_wrB_same _ _ _ _ rfl⟩
  · rw [wrB, rd_wr_other _ _ ham, rd_wr_other _ _ hfm, rd_wr_other _ _ hsm, rd_wr_other _ _ hwm, hown _ (by decide) hmsc]
  · rw [wrB, rd_wr_other _ _ haw, rd_wr_other _ _ hfw, rd_wr_other _ _ hsw, hown _ (by decide) hwin]
  · rw [wrB, rd_wr_other _ _ has, rd_wr_other _ _ hfs, hown _ (by decide) hstg]
  · rw [wrB, rd_wr_other _ _ haf, hown _ (by decide) hfcap]

section
variable {s : State} {w : Writer} {d : Die} {v : Word} {msc win stg fcap : Nat} (hmsc : msc = bits v.toNat 5 0)
  (hwin : win = bits v.toNat 15 8) (hstg : stg = bits v.toNat 21 16) (hfcap : fcap = bits v.toNat 27 24)
  (hw : writable s w (0x070000 + 4 * d.val) = true) (h48 : msc ≤ 48) (h128 : win ≤ 128) (h32 : stg ≤ 32) (h8 : fcap ≤ 8)
  (h192 : msc + win + stg + fcap ≤ 192) (hidle : s.rdB Reg.MEM_TS_PART_APPLYING d = false)
  (hstage : s.rd Reg.MEM_TS_PART_STAGE d ≤ stg ∨ s.ckptInFlight d = false)
  (hcap : s.rd Reg.MEM_TS_PART_FCAP d ≤ fcap ∨ s.rdB Reg.MEM_FCAP_STATUS_UNREAD d = false)
  (hpin : ∀ pe ∈ s.ms.tier, pe.2.state ≠ .unmapped → pe.2.die = d → pe.2.home = 0 → pe.2.cpin = true →
    pe.2.nframe < s.firstOf d (8 * (msc + win + stg + fcap)))
include hmsc hwin hstg hfcap hw h48 h128 h32 h8 h192 hidle hstage hcap hpin

theorem exec_tsPartitionWrite {u : State} (hu : u = s.partShown d msc win stg fcap) :
    exec (.tsPartitionWrite w d v) s = .next (wrote s ((u.diePages d).foldl leaveIfTaken u)) := by
  have hfind : (s.ms.tier.find? fun pe => pe.2.state != .unmapped && pe.2.die == d && pe.2.home == 0 && pe.2.cpin &&
      decide (s.firstOf d (8 * (msc + win + stg + fcap)) ≤ pe.2.nframe)) = none := by
    refine List.find?_eq_none.mpr fun pe hpe => ?_
    simp only [Bool.and_eq_true, bne_iff_ne, ne_eq, beq_iff_eq, decide_eq_true_eq, not_and, not_le]
    exact fun ⟨⟨⟨hstate, hdie⟩, hhome⟩, hcpin⟩ => hpin pe hpe hstate hdie hhome hcpin
  have hmade : s.partitionWrite d v.toNat = ((u.diePages d).foldl leaveIfTaken u, .ok) := by
    unfold partitionWrite
    simp only [← hmsc, ← hwin, ← hstg, ← hfcap]
    rw [if_neg (by simp; omega), if_neg (by rw [hidle]; decide),
      if_neg (by simp only [Bool.and_eq_true, decide_eq_true_eq, not_and]; intro h; rw [hstage.resolve_left (by omega)]; decide),
      if_neg (by simp only [Bool.and_eq_true, decide_eq_true_eq, not_and]; intro h; rw [hcap.resolve_left (by omega)]; decide)]
    rw [hfind, hu]
    rfl
  show act s (s.regWrite w (0x070000 + 4 * d.val) v.toNat fun s => s.partitionWrite d v.toNat) = _
  rw [regWrite_made hw hmade, act_next, wrote]

theorem exec_tsPartitionWrite_shown {u : State} (hu : u = s.partShown d msc win stg fcap) :
    ∃ t, exec (.tsPartitionWrite w d v) s = .next t ∧ t.rd Reg.MEM_TS_PART_MSC d = msc ∧
      t.rd Reg.MEM_TS_PART_WIN d = win ∧ t.rd Reg.MEM_TS_PART_STAGE d = stg ∧ t.rd Reg.MEM_TS_PART_FCAP d = fcap ∧
      t.rdB Reg.MEM_TS_PART_APPLYING d = true ∧ t.mem = s.mem ∧ t.ms.poison = s.ms.poison ∧
      ((∀ p ∈ s.diePages d, u.inTaken p = false) → RegsOnly { s with wres := .ok } t [0x070000 + 4 * d.val]) := by
  obtain ⟨x, hx⟩ : ∃ x : State, x = (u.diePages d).foldl leaveIfTaken u := ⟨_, rfl⟩
  have hmoved : Moved u x := hx ▸ moved_foldl _ moved_leaveIfTaken _ u
  have hunoCtl : u.noCtl = s.noCtl := by rw [hu, partShown_noCtl]
  obtain ⟨hrmsc, hrwin, hrstg, hrcap, hrapp⟩ := partShown_reads s d (msc := msc) (win := win) (stg := stg) (fcap := fcap)
    (by omega) (by omega) (by omega) (by omega)
  rw [← hu] at hrmsc hrwin hrstg hrcap hrapp
  have hown : ∀ d : Fin 2, ∀ f ∈ [Reg.MEM_TS_PART_MSC, Reg.MEM_TS_PART_WIN, Reg.MEM_TS_PART_STAGE, Reg.MEM_TS_PART_FCAP,
      Reg.MEM_TS_PART_APPLYING], ownField f d = true ∧ fieldAddr f d + 4 * fieldWords f ≤ 0x072008 := by decide
  have hrd {f : Field} (hf : f ∈ [Reg.MEM_TS_PART_MSC, Reg.MEM_TS_PART_WIN, Reg.MEM_TS_PART_STAGE, Reg.MEM_TS_PART_FCAP,
      Reg.MEM_TS_PART_APPLYING]) : (wrote s x).rd f d = u.rd f d :=
    (done_rd _ (hown d f hf).1).trans ((writeStatus_rd ..).trans (hmoved.rd (.inl (hown d f hf).2)))
  have hmem : (wrote s x).mem = x.mem := done_mem _ _
  have hms : (wrote s x).ms = x.ms := done_ms _ _
  refine ⟨wrote s x, ?_, ?_, ?_, ?_, ?_, ?_, ?_, ?_, fun htaken => ?_⟩
  · rw [exec_tsPartitionWrite hmsc hwin hstg hfcap hw h48 h128 h32 h8 h192 hidle hstage hcap hpin hu, hx]
  · rw [hrd (by simp), hrmsc]
  · rw [hrd (by simp), hrwin]
  · rw [hrd (by simp), hrstg]
  · rw [hrd (by simp), hrcap]
  · rw [rdB, hrd (by simp), ← rdB, hrapp]
  · rw [hmem, mem_of_noMove hmoved.rest]
    exact mem_of_noCtl hunoCtl
  · rw [hms, poison_of_noMove hmoved.rest, ms_of_noCtl hunoCtl]
  · have hpages : u.diePages d = s.diePages d := by rw [diePages, diePages, ms_of_noCtl hunoCtl]
    have hsame (l : List Nat) (hl : ∀ p ∈ l, u.inTaken p = false) : l.foldl leaveIfTaken u = u := by
      induction l with
      | nil => rfl
      | cons p l ih =>
        have hp : u.leaveIfTaken p = u := if_neg (by rw [hl p List.mem_cons_self]; decide)
        rw [List.foldl_cons, hp, ih fun q hq => hl q (List.mem_cons_of_mem _ hq)]
    have hxu : x = u := by rw [hx, hpages, hsame _ htaken]
    rw [hxu]
    refine done_regsOnly (s := { s with wres := .ok }) (u := u.writeStatus .ok) ?_ fun a ha => ?_
    · rw [writeStatus_noCtl, hunoCtl]
      rfl
    · rw [writeStatus_word, hu, partShown_word _ _ _ _ _ _ ha]
      rfl

end

namespace State

theorem unlocked_noMem (s : State) (p : Nat) (freeAfter : Bool) : (s.unlocked p freeAfter).noMem = s.noMem := by
  have hunmap : (s.unmapPage p).noMem = s.noMem := (outside_unmapPage (ok := fun _ => True) s trivial).rest
  have hpin : (if (s.windowOf p).isSome then s.pinPage p else s).noMem = s.noMem :=
    ite_keeps noMem _ (noMem_of_noMove (placed_pinPage s p).rest) rfl
  have hleave (t : State) : (if t.inTaken p then t.leaveScratch p else t).noMem = t.noMem :=
    ite_keeps noMem _ (noMem_of_noMove (moved_leaveScratch t p).rest) rfl
  unfold unlocked
  dsimp only
  rw [noMem_of_noMove (moved_retryWants ..).rest]
  exact ite_keeps noMem _ hunmap ((hleave _).trans hpin)

theorem swing_noMem (s : State) (p : Nat) : (s.swing p).noMem = s.noMem := by
  cases hm : s.ms.migs.find? (·.page == p) with
  | none => rw [swing_none hm]
  | some m => rw [swing_eq hm, unlocked_noMem, noMem_of_noMove (swungTo_moved ..).rest]

/-- Pages moved to their end leave all but memory and its registers. -/
theorem drainScratch_noMem {start : State → Nat → State} (hstart : ∀ s p, (start s p).noMem = s.noMem) (ps : List Nat) (s : State) :
    (drainScratch start ps s).noMem = s.noMem := by
  have hround (s : State) : (ps.foldl (fun s p => ((start s p).swing p)) s).noMem = s.noMem :=
    foldl_keeps noMem _ (fun s p => (swing_noMem ..).trans (hstart s p)) _ _
  exact (hround _).trans (hround s)

/-- A partition change carried out, once the frames it takes are clear. -/
def partEnded (x : State) (d : Fin 2) : State :=
  let s := x.wrB Reg.MEM_TS_PART_APPLYING d false
  let w := s.word (0x070000 + 4 * d.val)
  let sets := bits w.toNat 5 0 * 2048
  let old := s.mscSets d
  let lines := if sets < old then (s.ms.msc[d]).filter fun c => decide (c.line % old < sets) else s.ms.msc[d]
  let fills := s.ms.fills.set d (keepFills (32 * bits w.toNat 15 8) s.ms.fills[d])
  let msc := s.ms.msc.set d (if sets = old then lines else mscReindex sets lines)
  let s := { s with ms := { s.ms with part := s.ms.part.set d w, msc := msc, fills := fills } }
  if d = 0 && bits w.toNat 21 16 = 0 then s.dropSnaps else s

/-- The word of a die's partitions, with APPLYING taken off. -/
def partitionWord (x : State) (d : Fin 2) : Word := (x.wrB Reg.MEM_TS_PART_APPLYING d false).word (0x070000 + 4 * d.val)

/-- What the end of a partition change leaves of the memory system. -/
theorem partEnded_form (x : State) (d : Fin 2) : (x.partEnded d).ctl = (x.wrB Reg.MEM_TS_PART_APPLYING d false).ctl ∧
    (x.partEnded d).ms.part = x.ms.part.set d (x.partitionWord d) ∧
    (x.partEnded d).ms.fills = x.ms.fills.set d (keepFills (32 * bits (x.partitionWord d).toNat 15 8) x.ms.fills[d]) ∧
    (x.partEnded d).ms.poison = x.ms.poison ∧ (x.partEnded d).mem = x.mem ∧ (x.partEnded d).ops = x.ops ∧
    (x.partEnded d).rings = x.rings := by
  obtain ⟨y, hy⟩ : ∃ y : State, y = x.wrB Reg.MEM_TS_PART_APPLYING d false := ⟨_, rfl⟩
  have hrest : y.noCtl = x.noCtl := by rw [hy, wrB_noCtl]
  rw [partEnded, partitionWord, ← hy, ← ms_of_noCtl hrest, ← mem_of_noCtl hrest, ← ops_of_noCtl hrest, ← rings_of_noCtl hrest]
  refine ⟨ite_keeps State.ctl _ rfl rfl, ite_keeps (fun s : State => s.ms.part) _ rfl rfl,
    ite_keeps (fun s : State => s.ms.fills) _ rfl rfl, ite_keeps (fun s : State => s.ms.poison) _ rfl rfl,
    ite_keeps State.mem _ rfl rfl, ite_keeps State.ops _ rfl rfl, ite_keeps State.rings _ rfl rfl⟩

theorem partEnded_snaps {x : State} (h : bits (x.partitionWord 0).toNat 21 16 = 0) (n : Fin 8) :
    (x.partEnded 0).slots[n].snap = none := by
  rw [partitionWord] at h
  rw [partEnded]
  simp only [h, decide_true, Bool.and_self, if_true, dropSnaps]
  simp

theorem partitionWord_toNat (x : State) (d : Fin 2) :
    (x.partitionWord d).toNat = putBits (x.word (0x070000 + 4 * d.val)).toNat 31 31 0 := by
  have haddr : ∀ d : Fin 2, fieldAddr Reg.MEM_TS_PART_APPLYING d = 0x070000 + 4 * d.val := by decide
  have hone (s : State) (a : Nat) : s.wordsAt a 1 = (s.word a).toNat := by simp [wordsAt]
  have hlo : Reg.MEM_TS_PART_APPLYING.lo % 32 = 31 ∧ Reg.MEM_TS_PART_APPLYING.len = 1 ∧
      fieldWords Reg.MEM_TS_PART_APPLYING = 1 := by decide
  rw [partitionWord, wrB, wr, haddr, hlo.1, hlo.2.1, hlo.2.2, ← hone, wordsAt_setWordsAt_same, hone]
  exact Nat.mod_eq_of_lt (putBits_lt _ _ _ (by omega) (by omega) (BitVec.isLt _))

/-- A field of the partitions' word but APPLYING, as the word carried out has it. -/
theorem bits_partitionWord (x : State) (d : Fin 2) {hi lo : Nat} (h : hi < 31) (hlo : lo ≤ hi) :
    bits (x.partitionWord d).toNat hi lo = bits (x.word (0x070000 + 4 * d.val)).toNat hi lo := by
  rw [partitionWord_toNat, bits_putBits_below _ _ _ _ _ _ (le_refl 31) h hlo]

end State

section
variable {s x : State} {d : Die} (hx : x = drainScratch leaveIfTaken (s.diePages d) s) (hup : s.memUp = true)
  (hq : s.quench = false) (happ : s.rdB Reg.MEM_TS_PART_APPLYING d = true)
include hx hup hq happ

theorem exec_tsPartitionDone_waits (hclear : x.partClear d = false) :
    exec (.tsPartitionDone d) s = .next (x.done s.pending) := by
  have hform : s.partitionDone d = x := by
    unfold partitionDone
    rw [if_neg (by rw [happ]; decide)]
    show (if (!(drainScratch leaveIfTaken (s.diePages d) s).partClear d) = true then drainScratch leaveIfTaken (s.diePages d) s
      else _) = x
    rw [← hx, if_pos (by rw [hclear]; rfl)]
  show act s (if s.memUp && !s.quench then s.partitionDone d else s) = _
  rw [if_pos (by rw [hup, hq]; rfl), hform, act_next]

theorem exec_tsPartitionDone (hclear : x.partClear d = true) : ∃ t, exec (.tsPartitionDone d) s = .next t ∧
    t.rdB Reg.MEM_TS_PART_APPLYING d = false ∧
    t.ms.part[d].toNat = putBits (x.word (0x070000 + 4 * d.val)).toNat 31 31 0 ∧
    t.ms.fills[d] = State.keepFills (32 * x.rd Reg.MEM_TS_PART_WIN d) x.ms.fills[d] ∧
    (d = 0 → x.rd Reg.MEM_TS_PART_STAGE 0 = 0 → ∀ n : Fin 8, t.slots[n].snap = none) ∧
    t.mem = x.mem ∧ t.ms.poison = x.ms.poison ∧ t.ops = s.ops ∧ t.rings = s.rings := by
  have hform : s.partitionDone d = x.partEnded d := by
    unfold partitionDone
    rw [if_neg (by rw [happ]; decide)]
    show (if (!(drainScratch leaveIfTaken (s.diePages d) s).partClear d) = true then drainScratch leaveIfTaken (s.diePages d) s
      else (drainScratch leaveIfTaken (s.diePages d) s).partEnded d) = x.partEnded d
    rw [← hx, if_neg (by rw [hclear]; decide)]
  have hrest : x.noMem = s.noMem := by
    rw [hx]
    exact drainScratch_noMem (fun s p => noMem_of_noMove (moved_leaveIfTaken s p).rest) _ _
  obtain ⟨hctl, hpart, hfills, hpoison, hmem, hops, hrings⟩ := partEnded_form x d
  have hms : ((x.partEnded d).done s.pending).ms = (x.partEnded d).ms := done_ms _ _
  have hown : ∀ d : Fin 2, ownField Reg.MEM_TS_PART_APPLYING d = true := by decide
  have hfield : ∀ d : Fin 2, fieldAddr Reg.MEM_TS_PART_WIN d = 0x070000 + 4 * d.val := by decide
  refine ⟨(x.partEnded d).done s.pending, ?_, ?_, ?_, ?_, fun hd hstage n => ?_, ?_, ?_, ?_, ?_⟩
  · show act s (if s.memUp && !s.quench then s.partitionDone d else s) = _
    rw [if_pos (by rw [hup, hq]; rfl), hform, act_next]
  · rw [rdB, done_rd _ (hown d), rd_of_ctl hctl, ← rdB, rdB_wrB_same _ _ _ _ rfl]
  · rw [hms, hpart, ← partitionWord_toNat]
    simp
  · rw [hms, hfills, bits_partitionWord _ _ (by omega) (by omega), rd_of_word _ (by decide), hfield]
    simp only [Fin.getElem_fin, Vector.getElem_set_self]
    rfl
  · subst hd
    have hbits : bits (x.partitionWord 0).toNat 21 16 = 0 := by
      rw [bits_partitionWord _ _ (by omega) (by omega), ← hstage, rd_of_word _ (by decide)]
      rfl
    have hslots : ((x.partEnded 0).done s.pending).slots = (x.partEnded 0).slots := done_slots _ _
    rw [hslots]
    exact partEnded_snaps hbits n
  · rw [done_mem, hmem]
  · rw [hms, hpoison]
  · rw [done_ops, hops, ops_of_noMem hrest]
  · rw [done_rings, hrings, rings_of_noMem hrest]

end

/-- Settles O38: a partition write and its end by the moves they make, each allocation by the registers it shows and what it
does to each page of its range, and the protection of the caches' lines. -/
theorem partitionsAndAllocation : Obligations.PartitionsAndAllocation := by
  unfold Obligations.PartitionsAndAllocation
  intro s w d v flags die msc win stg fcap first leave drained b n ready shows alone
  have hin {p : Nat} : b ≤ p ∧ p < b + n ↔ Machine.within b n p = true := by simp [Machine.within]
  have hout {p : Nat} (h : Machine.within b n p = false) : ¬(Machine.within b n p = true) := by rw [h]; decide
  have hshows {op : Nat} {x : State} (hop : op < 4)
      (hx : Outside (fun p => Machine.within b n p = true) (s.allocBegun op flags die) x) : shows (wrote s x) op := by
    obtain ⟨hbusy, halloc, hopr, hflags, hdie, hrest⟩ := alloc_shows hop hx s.pending
    exact ⟨hbusy, halloc, hopr, hflags, hdie, fun p hp => hrest p (hout hp)⟩
  have hspan {p : Nat} (h1 : b ≤ p) (h2 : p < b + n) : Machine.within b n p = true := hin.mp ⟨h1, h2⟩
  refine ⟨fun hw h48 h128 h32 h8 h192 hidle hstage hcap hpin => ⟨?_, ?_⟩, fun hup hq happ => ⟨?_, ?_⟩, fun hready hdie hfree hroom => ?_,
    fun hready hwin hpool => ?_, fun hready hpin hroom => ?_, fun o hup halloc => exec_allocDone hup halloc,
    fun hw h2 h64 hshare => exec_unprotect hw h2 h64 hshare⟩
  · exact exec_tsPartitionWrite rfl rfl rfl rfl hw h48 h128 h32 h8 h192 hidle hstage hcap hpin rfl
  · exact exec_tsPartitionWrite_shown rfl rfl rfl rfl hw h48 h128 h32 h8 h192 hidle hstage hcap hpin rfl
  · exact exec_tsPartitionDone_waits rfl hup hq happ
  · exact exec_tsPartitionDone rfl hup hq happ
  · have hex := exec_alloc rfl rfl hready hdie (fun p h1 h2 => hfree p (hspan h1 h2)) hroom
    exact ⟨hex, _, hex, hshows (by omega) (outside_span (fun p h1 h2 => hspan h1 h2) _
      (fun x p hp => outside_allocPage x hp _ _) _)⟩
  · have hex := exec_free (w := w) (flags := flags) (die := die) rfl rfl hready hwin hpool
    obtain ⟨hent, hword⟩ := alloc_alone (s := s) (op := 1) (b := b) (n := n) (flags := flags) (die := die)
      (f := fun (x : State) p => if x.isMapped p then x.freePage p else x) ent_freePage
      (fun x p => ite_keeps State.ctl _ (freePage_ctl x p) rfl) s.pending
    refine ⟨_, hex, hshows (by omega) (outside_span (fun p h1 h2 => hspan h1 h2) _ (fun x p hp => ?_) _),
      ⟨fun p hp => (hent p).trans (if_neg fun h => hout hp (hin.mp h)), hword⟩, fun p hp hmap hlock => ?_⟩
    · split
      · exact outside_freePage x hp
      · exact .refl _ x
    · refine (hent p).trans ((if_pos (hin.mpr hp)).trans ?_)
      rw [isMapped] at hmap
      rw [freedEnt, hmap, hlock]
      rfl
  · have hex := exec_setflags (w := w) (die := die) rfl rfl hready (fun h p h1 h2 => hpin h p (hspan h1 h2)) hroom
    have hsame (x : State) (p q : Nat) : (if x.isMapped p then x.setEnt p { x.ent p with flags := flags } else x).ent q =
        if q = p then (if (x.ent p).state != .unmapped then { x.ent p with flags := flags } else x.ent p) else x.ent q := by
      rw [isMapped]
      split
      · exact ent_setEnt ..
      · split
        case isTrue h => rw [h]
        case isFalse => rfl
    obtain ⟨hent, hword⟩ := alloc_alone (s := s) (op := 2) (b := b) (n := n) (flags := flags) (die := die)
      (g := fun e => if e.state != .unmapped then { e with flags := flags } else e) hsame
      (fun x p => ite_keeps State.ctl _ rfl rfl) s.pending
    refine ⟨_, hex, hshows (by omega) (outside_span (fun p h1 h2 => hspan h1 h2) _ (fun x p hp => ?_) _),
      ⟨fun p hp => (hent p).trans (if_neg fun h => hout hp (hin.mp h)), hword⟩, ?_, fun p hp hmap => ?_⟩
    · split
      · exact outside_setEnt ..
      · exact .refl _ x
    · have hfold : ((span b n).foldl (fun (x : State) p => if x.isMapped p then x.setEnt p { x.ent p with flags := flags } else x)
          (s.allocBegun 2 flags die)).mem = (s.allocBegun 2 flags die).mem :=
        foldl_keeps State.mem (fun (x : State) p => if x.isMapped p then x.setEnt p { x.ent p with flags := flags } else x)
          (fun x p => ite_keeps State.mem _ rfl rfl) _ _
      exact (done_mem _ _).trans (hfold.trans (allocBegun_mem ..))
    · exact (hent p).trans ((if_pos (hin.mpr hp)).trans (if_pos hmap))

end Sys2Proof.Machine
end


section
/-!
Power on, power off, reset and THERMTRIP (R414, R462, R495 to R505).
-/
namespace Sys2Proof.Machine

open State Sys2Proof.Safety

namespace State

/-- A state after a command, by what its registers aside are. -/
theorem done_form {x b : State} (q : List Instr) (h : x.noCtl = b.noCtl) :
    x.done q = { b with ctl := (x.done q).ctl, pending := q } := by
  refine eq_of_noCtl (s := { b with pending := q }) ((done_noCtl _ _).trans ?_)
  rw [h]
  rfl

theorem word_offWith {x : State} (h : x.ctl = []) (a : Nat) : x.word a = resetWord a := by
  rw [word, h]
  rfl

/-- A field of a machine Off reads what it does right after reset. -/
theorem rd_offWith {x : State} (h : x.ctl = []) (f : Field) (i : Nat) : x.rd f i = reset.rd f i :=
  rd_of_ctl (s := reset) (t := x) h f i

/-- The words that the end of a start-up's first cycle sets. -/
theorem word_startUp (s : State) (stage : Nat) (addrSel slotId : BitVec 3) (flowOk : Bool) {a : Nat}
    (ha : a ∉ 0x000020 :: 0x000080 :: 0x03F00C :: statusWords) : (s.startUp stage addrSel slotId flowOk).word a = resetWord a := by
  rw [startUp, word_wr_listed ha (by decide), word_wrB_listed ha (by decide), word_wr_listed ha (by decide),
    word_wrB_listed ha (by decide), word_wr_listed ha (by decide)]
  exact word_offWith rfl a

end State

/-- Start-up from a stage shows the stage, FLOW_WAIT, the static address and the boot number. -/
theorem startedUp (s : State) (stage : Nat) (addrSel slotId : BitVec 3) (flowOk : Bool) (hstage : stage < 8) :
    StartedUp s ((s.startUp stage addrSel slotId flowOk).done s.pending) stage addrSel slotId flowOk := by
  have hsel : addrSel.toNat < 8 := addrSel.isLt
  have hvalid : ∀ b : BitVec 3, (b.toNat != 6) = (b != 6) := by decide
  refine ⟨done_form _ (startUp_noCtl ..), ?_, ?_, ?_, ?_, ?_, fun a ha => ?_⟩
  · rw [done_rd _ (by decide), startUp, rd_wr_other _ _ (by decide), wrB, rd_wr_other _ _ (by decide),
      rd_wr_same _ _ _ _ (by decide)]
    exact Nat.mod_eq_of_lt hstage
  · rw [done_rdB _ (by decide), rdB, startUp, rd_wr_other _ _ (by decide), ← rdB, rdB_wrB_same _ _ _ _ rfl]
  · rw [done_rd _ (by decide), startUp, rd_wr_other _ _ (by decide), wrB, rd_wr_other _ _ (by decide),
      rd_wr_other _ _ (by decide), wrB, rd_wr_other _ _ (by decide), rd_wr_same _ _ _ _ (by decide)]
    exact Nat.mod_eq_of_lt (by show _ < 128; omega)
  · rw [done_rdB _ (by decide), rdB, startUp, rd_wr_other _ _ (by decide), wrB, rd_wr_other _ _ (by decide),
      rd_wr_other _ _ (by decide), ← rdB, rdB_wrB_same _ _ _ _ rfl, hvalid]
  · rw [done_rd _ (by decide), startUp, rd_wr_same _ _ _ _ (by decide)]
    exact Nat.mod_eq_of_lt (BitVec.isLt _)
  · rw [done_word _ (fun h => ha (by simp [h])), word_startUp _ _ _ _ _ ha]

/-- Settles O9: start-up's five writes over the registers of a machine Off. -/
theorem startUp : Obligations.StartUp := by
  unfold Obligations.StartUp
  refine fun s a b => ⟨fun hoff hlatched => ?_, fun hheld => ?_⟩
  · refine ⟨(s.startUp 0 a b false).done s.pending, ?_, startedUp s 0 a b false (by omega)⟩
    show act s (if s.pw.mode == .off && !s.pw.latched then s.startUp 0 a b false else s) = _
    rw [if_pos (by rw [hoff, hlatched]; rfl), act_next]
  · refine ⟨(s.startUp 1 s.pw.addrSel s.pw.slotId s.pw.flowOk).done s.pending, ?_, startedUp s 1 _ _ _ (by omega)⟩
    show act s (if s.pw.mode == .held then s.startUp 1 s.pw.addrSel s.pw.slotId s.pw.flowOk else s) = _
    rw [if_pos (by rw [hheld]; rfl), act_next]

/-! Power off and reset (R495, R498, R501, R505). -/

/-- A machine that holds nothing but flash, fuses, what waits and its power state is cleared. -/
theorem cleared_done {s x : State} {p : Power} (hrest : x = { offWith s.flash s.fuses with
    pending := s.pending, free := s.free, pw := p }) : Cleared s (x.done s.pending) p := by
  refine ⟨done_form _ (congrArg noCtl hrest), fun a ha => ?_⟩
  rw [done_word _ ha]
  exact word_offWith (by rw [hrest]; rfl) a

namespace State

/-- The fields of HRT_AUX while TRIPPED is set. -/
theorem takePins_reads (x : State) : x.takePins.rdB Reg.HRT_AUX_TRIPPED 0 = true ∧ x.takePins.rd Reg.HRT_AUX_FUNC0 0 = 0 ∧
    x.takePins.rd Reg.HRT_AUX_FUNC1 0 = 0 := by
  refine ⟨?_, ?_, ?_⟩
  · rw [rdB, takePins, rd_wr_other _ _ (by decide), rd_wr_other _ _ (by decide), ← rdB, rdB_wrB_same _ _ _ _ rfl]
  · rw [takePins, rd_wr_other _ _ (by decide), rd_wr_same _ _ _ _ (by decide), Nat.zero_mod]
  · rw [takePins, rd_wr_same _ _ _ _ (by decide), Nat.zero_mod]

theorem takePins_noCtl (x : State) : x.takePins.noCtl = x.noCtl := by
  rw [takePins, wr_noCtl, wr_noCtl, wrB_noCtl]

theorem rd_takePins (x : State) {f : Field} {i : Nat} (h0 : apart Reg.HRT_AUX_TRIPPED 0 f i = true)
    (h1 : apart Reg.HRT_AUX_FUNC0 0 f i = true) (h2 : apart Reg.HRT_AUX_FUNC1 0 f i = true) : x.takePins.rd f i = x.rd f i := by
  rw [takePins, rd_wr_other _ _ h2, rd_wr_other _ _ h1, wrB, rd_wr_other _ _ h0]

theorem word_takePins (x : State) {a : Nat} (ha : a ∉ [0x000184]) : x.takePins.word a = x.word a := by
  rw [takePins, word_wr_listed ha (by decide), word_wr_listed ha (by decide), word_wrB_listed ha (by decide)]

/-! What THERMTRIP leaves of the port. -/

theorem word_setPort (s : State) (p : Nat) {a : Nat} (ha : a ∉ [0x040000, 0x04020C]) (hm : Machine.within 0x040160 32 a = false) :
    (s.setPort p).word a = s.word a := by
  have hout : a < 0x040160 ∨ 0x040160 + 4 * 8 ≤ a := by
    simp only [Machine.within, Bool.and_eq_false_iff, decide_eq_false_iff_not] at hm
    omega
  rw [setPort]
  refine ite_keeps (word · a) _ rfl ?_
  rw [extend, word_inc_listed ha (by decide), word_setWordsAt_other _ _ hout, word_wr_listed ha (by decide), word_with_tap]

theorem closePort_same {s : State} (h : s.rd Reg.SEC_LC_PORT 0 ∈ [0, 3]) : s.closePort = s := by
  rw [closePort, if_neg]
  rcases List.mem_pair.mp h with h | h <;> rw [h] <;> decide

theorem word_closePort (s : State) {a : Nat} (h : s.rd Reg.SEC_LC_PORT 0 ∈ [0, 3] ∨
    a ∉ [0x040000, 0x04020C] ∧ Machine.within 0x040160 32 a = false) : s.closePort.word a = s.word a := by
  rcases h with h | ⟨ha, hm⟩
  · rw [closePort_same h]
  · rw [closePort]
    exact ite_keeps (word · a) _ (word_setPort _ _ ha hm) rfl

theorem closePort_shown (s : State) : s.closePort.rd Reg.SEC_LC_PORT 0 = if s.rd Reg.SEC_LC_PORT 0 = 3 then 3 else 0 := by
  have hlt : s.rd Reg.SEC_LC_PORT 0 < 2 ^ 2 := rd_lt ..
  by_cases h : s.rd Reg.SEC_LC_PORT 0 = 1 ∨ s.rd Reg.SEC_LC_PORT 0 = 2
  · rw [if_neg (by omega), closePort, if_pos (by simpa using h), setPort, if_neg (by omega), extend, inc,
      rd_wr_other _ _ (by decide), rd_setWordsAt_apart _ (by decide), rd_wr_same _ _ _ _ (by decide), Nat.zero_mod]
  · rw [closePort_same (by simp; omega)]
    split
    case isTrue h3 => exact h3
    case isFalse h3 => omega

/-- The state that THERMTRIP leaves, but for the AUX pins. -/
def tripped (s : State) : State :=
  { offWith s.flash s.fuses with
    ctl := s.closePort.ctl.filter (fun e => hearthWord e.1)
    pending := s.pending
    free := s.free
    sec := { secReset with debug := s.sec.debug }
    pw := { powerReset with mode := .tripped, addrSel := s.pw.addrSel, slotId := s.pw.slotId, flowOk := s.pw.flowOk } }

theorem trip_eq (s : State) : s.trip = s.tripped.takePins := by
  have h : s.closePort.noTap = s.noTap := closePort_noTap s
  obtain ⟨x, hx⟩ : ∃ x : State, x = s.closePort := ⟨_, rfl⟩
  rw [← hx] at h
  have hflash : x.flash = s.flash := (congrArg State.flash h :)
  have hfuses : x.fuses = s.fuses := (congrArg State.fuses h :)
  have hpw : x.pw = s.pw := (congrArg State.pw h :)
  have hpending : x.pending = s.pending := (congrArg State.pending h :)
  have hfree : x.free = s.free := (congrArg State.free h :)
  have hsec : x.sec = s.sec := sec_of_noTap h
  rw [trip, tripped, ← hx, hflash, hfuses, hpw, hpending, hfree, hsec]
  rfl

theorem word_tripped (s : State) (a : Nat) : s.tripped.word a = if hearthWord a then s.closePort.word a else resetWord a :=
  Tab.get_filter_key resetWord hearthWord s.closePort.ctl a

end State

theorem exec_thermtrip {s : State} (hon : s.pw.mode = .on) : ∃ t, exec .thermtrip s = .next t ∧
    t = { offWith s.flash s.fuses with
      ctl := t.ctl, pending := s.pending, free := s.free, sec := { secReset with debug := s.sec.debug },
      pw := { powerReset with
        mode := .tripped, addrSel := s.pw.addrSel, slotId := s.pw.slotId, flowOk := s.pw.flowOk } } ∧
    t.rdB Reg.HRT_AUX_TRIPPED 0 = true ∧ t.rd Reg.HRT_AUX_FUNC0 0 = 0 ∧ t.rd Reg.HRT_AUX_FUNC1 0 = 0 ∧
    t.rd Reg.SEC_LC_PORT 0 = (if s.rd Reg.SEC_LC_PORT 0 = 3 then 3 else 0) ∧
    (∀ a, hearthWord a = true → a ∉ 0x000184 :: statusWords →
      s.rd Reg.SEC_LC_PORT 0 ∈ [0, 3] ∨ a ∉ [0x040000, 0x04020C] ∧ Machine.within 0x040160 32 a = false →
      t.word a = s.word a) ∧
    ∀ a, hearthWord a = false → a ∉ statusWords → t.word a = resetWord a := by
  obtain ⟨htripped, hfunc0, hfunc1⟩ := takePins_reads s.tripped
  refine ⟨s.tripped.takePins.done s.pending, ?_, done_form _ (takePins_noCtl _), ?_, ?_, ?_, ?_,
    fun a hh ha hport => ?_, fun a hh ha => ?_⟩
  · show act s (if s.powered then s.trip else s) = _
    rw [if_pos (by rw [powered, hon]; rfl), trip_eq, act_next]
  · rw [done_rdB _ (by decide), htripped]
  · rw [done_rd _ (by decide), hfunc0]
  · rw [done_rd _ (by decide), hfunc1]
  · rw [done_rd _ (by decide), rd_takePins _ (by decide) (by decide) (by decide), ← closePort_shown,
      rd_of_word _ (by decide), rd_of_word _ (by decide), word_tripped, if_pos (by decide)]
  · rw [List.mem_cons, not_or] at ha
    rw [done_word _ ha.2, word_takePins _ (by simpa using ha.1), word_tripped, if_pos hh, word_closePort _ hport]
  · have hne : a ∉ [0x000184] := fun h => by rw [List.mem_singleton.mp h] at hh; exact absurd hh (by decide)
    rw [done_word _ ha, word_takePins _ hne, word_tripped, if_neg (by rw [hh]; decide)]

theorem exec_modResetAssert_tripped {s : State} (htrip : s.pw.mode = .tripped) : ∃ t, exec .modResetAssert s = .next t ∧
    t.pw.mode = .tripped ∧ t.rdB Reg.HRT_AUX_TRIPPED 0 = true ∧ t.rd Reg.HRT_WAKE_CNT_COUNT 0 = 0 ∧
    t.rdB Reg.HRT_I3C_DA_VALID 0 = false := by
  obtain ⟨x, hx⟩ : ∃ x : State, x = ({ offWith s.flash s.fuses with
    pw := { powerReset with mode := .tripped, addrSel := s.pw.addrSel, slotId := s.pw.slotId, flowOk := s.pw.flowOk }
    pending := s.pending
    free := s.free } : State) := ⟨_, rfl⟩
  have hform : s.holdReset = (x.loadLc s.fuses.lc).takePins := by
    rw [holdReset, htrip, hx]
    rfl
  have hread (f : Field) (i : Nat) (hlc : apart Reg.SEC_LC_LC 0 f i = true) (hport : apart Reg.SEC_LC_PORT 0 f i = true) :
      (x.loadLc s.fuses.lc).rd f i = reset.rd f i := by
    rw [loadLc, rd_wr_other _ _ hport, rd_wr_other _ _ hlc, rd_offWith (by rw [hx]; rfl)]
  have hmode : (x.loadLc s.fuses.lc).takePins.pw = x.pw := by
    rw [pw_of_noCtl (takePins_noCtl _), loadLc, wr_pw, wr_pw]
  refine ⟨(x.loadLc s.fuses.lc).takePins.done s.pending, ?_, ?_, ?_, ?_, ?_⟩
  · show act s (if s.pw.mode == .on || s.pw.mode == .tripped then s.holdReset else s) = _
    rw [if_pos (by rw [htrip]; rfl), hform, act_next]
  · rw [done_pw, hmode, hx]
  · rw [done_rdB _ (by decide), (takePins_reads _).1]
  · rw [done_rd _ (by decide), rd_takePins _ (by decide) (by decide) (by decide), hread _ _ (by decide) (by decide)]
    exact registersAtReset Reg.HRT_WAKE_CNT_COUNT (by decide) 0 (by decide)
  · rw [done_rdB _ (by decide), rdB, rd_takePins _ (by decide) (by decide) (by decide), hread _ _ (by decide) (by decide),
      registersAtReset Reg.HRT_I3C_DA_VALID (by decide) 0 (by decide)]
    rfl

/-- Settles O10: each power fault and reset by the machine Off it leaves, and THERMTRIP by the words it filters. -/
theorem powerOffResetAndTrip : Obligations.PowerOffResetAndTrip := by
  unfold Obligations.PowerOffResetAndTrip
  refine fun s => ⟨fun high hoff => ?_, ?_, fun hoff htrip => ?_, fun hon => ?_, fun htrip => ⟨?_, ?_⟩, fun hon => ?_⟩
  · refine ⟨(s.turnOff true).done s.pending, ?_, cleared_done rfl⟩
    show act s (if s.pw.mode == .off then s else s.turnOff true) = _
    rw [if_neg (by simpa using hoff), act_next]
  · exact ⟨(s.turnOff false).done s.pending, act_next .., cleared_done rfl⟩
  · refine ⟨(s.turnOff false).done s.pending, ?_, cleared_done rfl⟩
    show act s (if s.pw.mode == .off || s.pw.mode == .tripped then s else s.turnOff false) = _
    rw [if_neg (by simp [hoff, htrip]), act_next]
  · refine ⟨s.holdReset.done s.pending, ?_, cleared_done ?_⟩
    · show act s (if s.pw.mode == .on || s.pw.mode == .tripped then s.holdReset else s) = _
      rw [if_pos (by rw [hon]; rfl), act_next]
    · rw [holdReset, hon]
      rfl
  · exact exec_modResetAssert_tripped htrip
  · refine ⟨s.done s.pending, ?_, done_regsOnly rfl fun _ _ => rfl⟩
    show act s (if s.pw.mode == .off || s.pw.mode == .tripped then s else s.turnOff false) = _
    rw [if_pos (by rw [htrip]; rfl), act_next]
  · exact exec_thermtrip hon

end Sys2Proof.Machine
end


section
/-!
Flow and Quench (R421, R504), the background checks (R30, R31, R446, R455, R456), links (R329, R331), and pads, wake delays
and shared pins (R418, R420, R462).
-/
namespace Sys2Proof.Machine

open State Sys2Proof.Safety

/-! A register write that is made. -/

section
variable {s u : State} {w : Writer} {a v : Nat}

theorem exec_regWrite {c : Instr} {f : State → State × KStat} (hc : exec c s = act s (s.regWrite w a v f))
    (hw : writable s w a = true) (hf : f s = (u, .ok)) : exec c s = .next (wrote s u) := by
  rw [hc, regWrite_made hw hf, act_next]
  rfl

theorem wrote_rd {f : Field} {i : Nat} (h : ownField f i = true) : (wrote s u).rd f i = u.rd f i := by
  rw [wrote, done_rd _ h, writeStatus_rd]

theorem wrote_rdB {f : Field} {i : Nat} (h : ownField f i = true) : (wrote s u).rdB f i = u.rdB f i := by
  rw [rdB, wrote_rd h, rdB]

theorem wrote_regsOnly {b : State} {ws : List Nat} (hq : b.pending = s.pending) (h : u.noCtl.writeStatus .ok = b.noCtl)
    (hword : ∀ a, a ∉ ws → u.word a = b.word a) : RegsOnly b (wrote s u) ws := by
  rw [wrote, ← hq]
  refine done_regsOnly ?_ fun a ha => ?_
  · rw [writeStatus_noCtl, h]
  · rw [writeStatus_word, hword a ha]

end

/-- An event raised by a command stands in the log after it. -/
theorem raised_done {s u : State} {sl : Option (Fin 8)} (q : List Instr) (hst : u.stamp sl = s.stamp sl) (c n a : Nat) :
    Raised s ((u.raise c n sl a).done q) c n sl a := by
  rw [Raised, done_tel, ← eventRec_of_stamp hst]
  exact raise_logs ..

/-! FLOW_OK and Quench. -/

theorem exec_flowOkFilterPass {s : State} (hpow : s.powered = true) (hst : s.rd Reg.PWR_STATUS_STATE 0 ∉ [2, 3]) :
    ∃ t, exec .flowOkFilterPass s = .next t ∧ t.rdB Reg.HRT_BOOT_FLOW_WAIT 0 = false ∧
      RegsOnly { s with pw := { s.pw with flowOk := true, compute := true } } t [0x000020] := by
  obtain ⟨h2, h3⟩ : s.rd Reg.PWR_STATUS_STATE 0 ≠ 2 ∧ s.rd Reg.PWR_STATUS_STATE 0 ≠ 3 := by simpa using hst
  obtain ⟨u, hu⟩ : ∃ u : State, u = { s with pw := { s.pw with flowOk := true, compute := true } } := ⟨_, rfl⟩
  have hform : s.flowHigh = u.wrB Reg.HRT_BOOT_FLOW_WAIT 0 false := by
    rw [flowHigh, if_neg (by rw [hpow]; decide), hu]
    exact if_pos (by simp [rd_with_pw, h2, h3])
  refine ⟨(u.wrB Reg.HRT_BOOT_FLOW_WAIT 0 false).done s.pending, ?_, ?_, ?_⟩
  · show act s s.flowHigh = _
    rw [hform, act_next]
  · rw [done_rdB _ (by decide), rdB_wrB_same _ _ _ _ rfl]
  · rw [← hu]
    have hq : s.pending = u.pending := by rw [hu]
    rw [hq]
    exact done_regsOnly (wrB_noCtl ..) fun a ha => word_wrB_listed ha (by decide)

theorem exec_quenchEnter {s : State} (hpow : s.powered = true) (hstage : s.stage = 4) (hst : s.rd Reg.PWR_STATUS_STATE 0 ≠ 3)
    (hq : s.quench = false) (hent : s.pw.entering = none) (hcd : s.rd Reg.HRT_CD_HOLD_CD2 0 ≠ 1) :
    ∃ t, exec .quenchEnter s = .next t ∧ t.quench = true ∧
      t.rd Reg.PWR_STATUS_QCAUSE 0 = 1 ∧ t.rd Reg.HRT_CD_HOLD_CD2 0 = 2 ∧
      t.rd Reg.HRT_PAD_HOLD_GROUPS 0 = s.rd Reg.HRT_PAD_HOLD_GROUPS 0 ||| 0x1E ∧ Raised s t 0x0705 0 none 1 ∧
      EventsOnly { s with pw := { s.pw with
        flowOk := false, memAsleep := true,
        dozeHeld := s.pw.dozeHeld || decide (s.rd Reg.PWR_STATUS_STATE 0 = 2) } } t [0x08000C, 0x000180, 0x000140] := by
  obtain ⟨y, hy⟩ : ∃ y : State, y = { s with pw := { s.pw with flowOk := false } } := ⟨_, rfl⟩
  have hyrd (f : Field) (i : Nat) : y.rd f i = s.rd f i := rd_of_ctl (by rw [hy]) f i
  obtain ⟨v, hv⟩ : ∃ v : State, v = (y.wrB Reg.PWR_STATUS_QUENCH 0 true).wr Reg.PWR_STATUS_QCAUSE 0 1 := ⟨_, rfl⟩
  have hvrest : v.noCtl = y.noCtl := by rw [hv, wr_noCtl, wrB_noCtl]
  obtain ⟨x, hx⟩ : ∃ x : State, x = v.raise 0x0705 0 none 1 := ⟨_, rfl⟩
  have hxrest : x.noEvent = y.noEvent := by rw [hx, raise_noEvent, noEvent_of_noCtl hvrest]
  have hxrd {f : Field} (hev : apartFromEvent f 0 = true) (hquench : apart Reg.PWR_STATUS_QUENCH 0 f 0 = true)
      (hcause : apart Reg.PWR_STATUS_QCAUSE 0 f 0 = true) : x.rd f 0 = s.rd f 0 := by
    rw [hx, rd_raise_apart hev, hv, rd_wr_other _ _ hcause, wrB, rd_wr_other _ _ hquench, hyrd]
  obtain ⟨z, hz⟩ : ∃ z : State, z = x.wr Reg.HRT_CD_HOLD_CD2 0 2 := ⟨_, rfl⟩
  have hzrest : z.noEvent = y.noEvent := by rw [hz, noEvent_of_noCtl (wr_noCtl ..), hxrest]
  have hzpw : z.pw = { s.pw with flowOk := false } := by rw [pw_of_noEvent hzrest, hy]
  obtain ⟨b, hb⟩ : ∃ b : Power, b = { s.pw with
    flowOk := false, memAsleep := true, dozeHeld := s.pw.dozeHeld || decide (s.rd Reg.PWR_STATUS_STATE 0 = 2) } := ⟨_, rfl⟩
  have hform : s.flowLow = ({ z with pw := b } : State).holdPads memPads := by
    have hyq : y.quench = false := by rw [quench, rdB, hyrd]; exact hq
    have hlow : s.flowLow = y.enterQuench 1 := by
      rw [flowLow, ← hy]
      refine if_pos ?_
      rw [powered, stage, hyrd, hyrd, show y.pw.mode = s.pw.mode by rw [hy]]
      rw [powered] at hpow
      rw [stage] at hstage
      simp [hpow, hstage, hst]
    have hcd' : x.rd Reg.HRT_CD_HOLD_CD2 0 ≠ 1 := by rw [hxrd (by decide) (by decide) (by decide)]; exact hcd
    have hzst : x.rd Reg.PWR_STATUS_STATE 0 = s.rd Reg.PWR_STATUS_STATE 0 := hxrd (by decide) (by decide) (by decide)
    have hzent : z.pw.entering.isSome = false := by rw [hzpw, hent]; rfl
    rw [hlow, enterQuench, if_neg (by rw [hyq]; decide)]
    simp only [← hv, ← hx, ← hz, if_neg hcd', hzent, hzst, Bool.false_and, Bool.false_eq_true, if_false, Bool.or_false]
    rw [hzpw, hb]
  obtain ⟨u, hu⟩ : ∃ u : State, u = { z with pw := b } := ⟨_, rfl⟩
  rw [← hu] at hform
  have hurd (f : Field) : u.rd f 0 = z.rd f 0 := rd_of_ctl (by rw [hu]) f 0
  have hstamp : v.stamp none = s.stamp none := by
    rw [hv, stamp_wr _ _ (by decide), wrB, stamp_wr _ _ (by decide), hy]
    rfl
  have hpend : s.pending = ({ s with pw := b } : State).pending := rfl
  refine ⟨(u.holdPads memPads).done s.pending, ?_, ?_, ?_, ?_, ?_, ?_, ?_⟩
  · show act s s.flowLow = _
    rw [hform, act_next]
  · rw [quench, done_rdB _ (by decide), rdB, holdPads, rd_wr_other _ _ (by decide), hurd, hz, rd_wr_other _ _ (by decide), hx,
      rd_raise_apart (by decide), hv, rd_wr_other _ _ (by decide), ← rdB, rdB_wrB_same _ _ _ _ rfl]
  · rw [done_rd _ (by decide), holdPads, rd_wr_other _ _ (by decide), hurd, hz, rd_wr_other _ _ (by decide), hx,
      rd_raise_apart (by decide), hv, rd_wr_same _ _ _ _ (by decide)]
    rfl
  · rw [done_rd _ (by decide), holdPads, rd_wr_other _ _ (by decide), hurd, hz, rd_wr_same _ _ _ _ (by decide)]
    rfl
  · have hheld : u.rd Reg.HRT_PAD_HOLD_GROUPS 0 = s.rd Reg.HRT_PAD_HOLD_GROUPS 0 := by
      rw [hurd, hz, rd_wr_other _ _ (by decide), hxrd (by decide) (by decide) (by decide)]
    have hlt : s.rd Reg.HRT_PAD_HOLD_GROUPS 0 < 2 ^ 7 := rd_lt ..
    rw [done_rd _ (by decide), holdPads, rd_wr_same _ _ _ _ (by decide), hheld]
    exact Nat.mod_eq_of_lt (Nat.or_lt_two_pow hlt (by decide))
  · have htel : (u.holdPads memPads).tel = x.tel := by
      rw [holdPads, wr_tel, hu, ← tel_of_noCtl (wr_noCtl x Reg.HRT_CD_HOLD_CD2 0 2), hz]
    rw [Raised, done_tel, htel, hx, ← eventRec_of_stamp hstamp]
    exact raise_logs ..
  · rw [← hb, hpend]
    refine done_eventsOnly ?_ fun a ha hev => ?_
    · rw [holdPads, noEvent_of_noCtl (wr_noCtl ..), hu]
      exact (congrArg (fun x : State => { x with pw := b }) hzrest).trans (by rw [hy])
    · rw [holdPads, word_wr_listed ha (by decide), word_of_ctl (s := z) (by rw [hu]), hz, word_wr_listed ha (by decide), hx,
        raise_word _ _ _ _ _ _ hev, hv, word_wr_listed ha (by decide), word_wrB_listed ha (by decide),
        word_of_ctl (s := s) (by rw [hy])]
      exact (word_with_pw ..).symm

/-- Settles O11: FLOW_OK past its filter by the rails it raises, and Quench by the writes of its entry. -/
theorem flowAndQuench : Obligations.FlowAndQuench := by
  unfold Obligations.FlowAndQuench
  exact fun s hpow => ⟨exec_flowOkFilterPass hpow, fun hstage hst hq hent hcd => exec_quenchEnter hpow hstage hst hq hent hcd⟩

/-! Links (R329, R331). -/

namespace State

theorem linkDown_noEvent (s : State) (p : Fin 8) : (s.linkDown p).noEvent = s.noEvent := by
  rw [linkDown]
  refine ite_keeps noEvent _ rfl ?_
  rw [raise_noEvent, noEvent_of_noCtl (wr_noCtl ..), noEvent_of_noCtl (wr_noCtl ..), noEvent_of_noCtl (wrB_noCtl ..),
    noEvent_of_noCtl (wrB_noCtl ..)]

theorem linkDown_down (s : State) (p : Fin 8) : (s.linkDown p).rdB Reg.NET_PORT_STATUS_LINK p = false := by
  have hall : ∀ p : Fin 8, apartFromEvent Reg.NET_PORT_STATUS_LINK p = true ∧
      apart Reg.NET_PORT_STATUS_LANES_UP p Reg.NET_PORT_STATUS_LINK p = true ∧
      apart Reg.NET_PORT_STATUS_MODE_ACTIVE p Reg.NET_PORT_STATUS_LINK p = true ∧
      apart Reg.NET_PORT_STATUS_PREEMPT_ACTIVE p Reg.NET_PORT_STATUS_LINK p = true := by decide
  obtain ⟨hev, hlanes, hmode, hpre⟩ := hall p
  rw [linkDown]
  split
  case isTrue h => simpa using h
  case isFalse =>
    rw [rdB, rd_raise_apart hev, rd_wr_other _ _ hlanes, rd_wr_other _ _ hmode, wrB, rd_wr_other _ _ hpre, ← rdB,
      rdB_wrB_same _ _ _ _ rfl]

/-- Whether a field is none of those that a link's end writes. -/
def apartFromLink (f : Field) (i : Nat) : Bool :=
  apartFromEvent f i && decide (∀ p : Fin 8, apart Reg.NET_PORT_STATUS_LINK p f i = true ∧
    apart Reg.NET_PORT_STATUS_PREEMPT_ACTIVE p f i = true ∧ apart Reg.NET_PORT_STATUS_MODE_ACTIVE p f i = true ∧
    apart Reg.NET_PORT_STATUS_LANES_UP p f i = true)

theorem rd_linkDown (s : State) (p : Fin 8) {f : Field} {i : Nat} (h : apartFromLink f i = true) :
    (s.linkDown p).rd f i = s.rd f i := by
  simp only [apartFromLink, Bool.and_eq_true, decide_eq_true_eq] at h
  obtain ⟨hev, hp⟩ := h
  obtain ⟨hlink, hpre, hmode, hlanes⟩ := hp p
  rw [linkDown]
  refine ite_keeps (rd · f i) _ rfl ?_
  rw [rd_raise_apart hev, rd_wr_other _ _ hlanes, rd_wr_other _ _ hmode, wrB, rd_wr_other _ _ hpre, wrB, rd_wr_other _ _ hlink]

/-- A link that is down stays down where another goes down. -/
theorem linkDown_stays {s : State} {q : Fin 8} (p : Fin 8) (h : s.rdB Reg.NET_PORT_STATUS_LINK q = false) :
    (s.linkDown p).rdB Reg.NET_PORT_STATUS_LINK q = false := by
  by_cases hpq : p = q
  · exact hpq ▸ linkDown_down s p
  · have hall : ∀ p q : Fin 8, p ≠ q → apart Reg.NET_PORT_STATUS_LANES_UP p Reg.NET_PORT_STATUS_LINK q = true ∧
        apart Reg.NET_PORT_STATUS_MODE_ACTIVE p Reg.NET_PORT_STATUS_LINK q = true ∧
        apart Reg.NET_PORT_STATUS_PREEMPT_ACTIVE p Reg.NET_PORT_STATUS_LINK q = true ∧
        apart Reg.NET_PORT_STATUS_LINK p Reg.NET_PORT_STATUS_LINK q = true := by decide
    have hev : ∀ q : Fin 8, apartFromEvent Reg.NET_PORT_STATUS_LINK q = true := by decide
    obtain ⟨hlanes, hmode, hpre, hlink⟩ := hall p q hpq
    have hkeep : (s.linkDown p).rd Reg.NET_PORT_STATUS_LINK q = s.rd Reg.NET_PORT_STATUS_LINK q := by
      rw [linkDown]
      refine ite_keeps (rd · Reg.NET_PORT_STATUS_LINK q) _ rfl ?_
      rw [rd_raise_apart (hev q), rd_wr_other _ _ hlanes, rd_wr_other _ _ hmode, wrB, rd_wr_other _ _ hpre, wrB,
        rd_wr_other _ _ hlink]
    rw [rdB, hkeep]
    exact h

theorem linksDown_down (s : State) (p : Fin 8) : s.linksDown.rdB Reg.NET_PORT_STATUS_LINK p = false := by
  have hfold (ps : List (Fin 8)) : ∀ x : State, p ∈ ps → (ps.foldl (fun (s : State) p => s.linkDown p) x).rdB Reg.NET_PORT_STATUS_LINK p = false := by
    induction ps with
    | nil => intro x h; cases h
    | cons q ps ih =>
      intro x h
      rcases List.mem_cons.mp h with rfl | hrest
      · exact foldl_holds (fun x : State => x.rdB Reg.NET_PORT_STATUS_LINK p = false) _ (fun _ q hx => linkDown_stays q hx) ps _
          (linkDown_down x p)
      · exact ih _ hrest
  exact hfold _ _ (List.mem_finRange p)

theorem linksDown_noEvent (s : State) : s.linksDown.noEvent = s.noEvent := foldl_keeps noEvent _ linkDown_noEvent _ _

theorem rd_linksDown (s : State) {f : Field} {i : Nat} (h : apartFromLink f i = true) : s.linksDown.rd f i = s.rd f i :=
  foldl_keeps (rd · f i) _ (fun s p => rd_linkDown s p h) _ _

end State

section
variable {s : State} {p : Fin 8}

theorem exec_linkDown (hlink : s.rdB Reg.NET_PORT_STATUS_LINK p = true) : ∃ t, exec (.linkDown p) s = .next t ∧
    t.rdB Reg.NET_PORT_STATUS_LINK p = false ∧ t.rdB Reg.NET_PORT_STATUS_PREEMPT_ACTIVE p = false ∧
    t.rd Reg.NET_PORT_STATUS_LANES_UP p = 0 ∧ Raised s t 0x0501 p none 0 ∧ EventsOnly s t [0x060004 + 0x400 * p.val] := by
  have hall : ∀ p : Fin 8, ownField Reg.NET_PORT_STATUS_LINK p = true ∧ ownField Reg.NET_PORT_STATUS_PREEMPT_ACTIVE p = true ∧
      ownField Reg.NET_PORT_STATUS_LANES_UP p = true ∧ apartFromEvent Reg.NET_PORT_STATUS_PREEMPT_ACTIVE p = true ∧
      apartFromEvent Reg.NET_PORT_STATUS_LANES_UP p = true ∧
      apart Reg.NET_PORT_STATUS_LANES_UP p Reg.NET_PORT_STATUS_PREEMPT_ACTIVE p = true ∧
      apart Reg.NET_PORT_STATUS_MODE_ACTIVE p Reg.NET_PORT_STATUS_PREEMPT_ACTIVE p = true := by decide
  obtain ⟨ho1, ho2, ho3, he2, he3, ha1, ha2⟩ := hall p
  have hstamp : ∀ p : Fin 8, apartFromStamp Reg.NET_PORT_STATUS_LINK p = true ∧
      apartFromStamp Reg.NET_PORT_STATUS_PREEMPT_ACTIVE p = true ∧ apartFromStamp Reg.NET_PORT_STATUS_MODE_ACTIVE p = true ∧
      apartFromStamp Reg.NET_PORT_STATUS_LANES_UP p = true := by decide
  obtain ⟨hs1, hs2, hs3, hs4⟩ := hstamp p
  have hin : ∀ p : Fin 8, State.within Reg.NET_PORT_STATUS_LINK p [0x060004 + 0x400 * p.val] = true ∧
      State.within Reg.NET_PORT_STATUS_PREEMPT_ACTIVE p [0x060004 + 0x400 * p.val] = true ∧
      State.within Reg.NET_PORT_STATUS_MODE_ACTIVE p [0x060004 + 0x400 * p.val] = true ∧
      State.within Reg.NET_PORT_STATUS_LANES_UP p [0x060004 + 0x400 * p.val] = true := by decide
  obtain ⟨hi1, hi2, hi3, hi4⟩ := hin p
  have hform : s.linkDown p = (((((s.wrB Reg.NET_PORT_STATUS_LINK p false).wrB Reg.NET_PORT_STATUS_PREEMPT_ACTIVE p false).wr
      Reg.NET_PORT_STATUS_MODE_ACTIVE p 0).wr Reg.NET_PORT_STATUS_LANES_UP p 0).raise 0x0501 p none 0) := by
    rw [linkDown, if_neg (by rw [hlink]; decide)]
  refine ⟨(s.linkDown p).done s.pending, act_next .., ?_, ?_, ?_, ?_, ?_⟩
  · rw [done_rdB _ ho1, linkDown_down]
  · rw [done_rdB _ ho2, hform, rdB, rd_raise_apart he2, rd_wr_other _ _ ha1, rd_wr_other _ _ ha2, ← rdB, rdB_wrB_same _ _ _ _ rfl]
  · rw [done_rd _ ho3, hform, rd_raise_apart he3, rd_wr_same _ _ _ _ (by decide), Nat.zero_mod]
  · rw [hform]
    refine raised_done _ ?_ _ _ _
    rw [stamp_wr _ _ hs4, stamp_wr _ _ hs3, wrB, stamp_wr _ _ hs2, wrB, stamp_wr _ _ hs1]
  · refine done_eventsOnly (linkDown_noEvent s p) fun a ha hev => ?_
    rw [hform, raise_word _ _ _ _ _ _ hev, word_wr_listed ha hi4, word_wr_listed ha hi3, word_wrB_listed ha hi2,
      word_wrB_listed ha hi1]

theorem exec_preemptVerify (hlink : s.rdB Reg.NET_PORT_STATUS_LINK p = true) (hcfg : s.rdB Reg.NET_PORT_CFG_PREEMPT p = true) :
    ∃ t, exec (.preemptVerify p) s = .next t ∧ t.rdB Reg.NET_PORT_STATUS_PREEMPT_ACTIVE p = true ∧
      RegsOnly s t [0x060004 + 0x400 * p.val] := by
  have hall : ∀ p : Fin 8, ownField Reg.NET_PORT_STATUS_PREEMPT_ACTIVE p = true ∧
      State.within Reg.NET_PORT_STATUS_PREEMPT_ACTIVE p [0x060004 + 0x400 * p.val] = true := by decide
  refine ⟨(s.wrB Reg.NET_PORT_STATUS_PREEMPT_ACTIVE p true).done s.pending, ?_, ?_, ?_⟩
  · show act s (if s.rdB Reg.NET_PORT_STATUS_LINK p && s.rdB Reg.NET_PORT_CFG_PREEMPT p then _ else s) = _
    rw [if_pos (by rw [hlink, hcfg]; rfl), act_next]
  · rw [done_rdB _ (hall p).1, rdB_wrB_same _ _ _ _ rfl]
  · exact done_regsOnly (wrB_noCtl ..) fun a ha => word_wrB_listed ha (hall p).2

theorem modeLanes_le (m : Nat) : modeLanes m ≤ 8 := by
  rw [modeLanes]
  split
  · omega
  · split
    · omega
    · split
      · omega
      · split <;> omega

theorem exec_linkUp (hlink : s.rdB Reg.NET_PORT_STATUS_LINK p = false) (hen : s.rdB Reg.NET_PORT_CFG_EN p = true)
    (hmode : modeLanes (s.rd Reg.NET_PORT_CFG_MODE p) ≠ 0) (href : s.rdB Reg.HRT_CLK_STATUS_REF_FALLBACK 0 = false)
    (htrain : s.portsTrain = true) : ∃ u, exec (.linkUp p) s = .next (u.pumpAll.done s.pending) ∧
      u.rdB Reg.NET_PORT_STATUS_LINK p = true ∧ u.rd Reg.NET_PORT_STATUS_MODE_ACTIVE p = s.rd Reg.NET_PORT_CFG_MODE p ∧
      u.rd Reg.NET_PORT_STATUS_LANES_UP p = 2 ^ modeLanes (s.rd Reg.NET_PORT_CFG_MODE p) - 1 ∧
      Raised s u 0x0502 p none (s.rd Reg.NET_PORT_CFG_MODE p) ∧ EventsOnly s u [0x060004 + 0x400 * p.val] := by
  obtain ⟨m, hm⟩ : ∃ m, m = s.rd Reg.NET_PORT_CFG_MODE p := ⟨_, rfl⟩
  rw [← hm] at hmode ⊢
  obtain ⟨u, hu⟩ : ∃ u : State, u = (((s.wrB Reg.NET_PORT_STATUS_LINK p true).wr Reg.NET_PORT_STATUS_MODE_ACTIVE p m).wr
    Reg.NET_PORT_STATUS_LANES_UP p (2 ^ modeLanes m - 1)).raise 0x0502 p none m := ⟨_, rfl⟩
  have hform : s.linkUp p = u := by
    unfold linkUp
    dsimp only
    rw [← hm, if_neg (by simp [hlink, hen, hmode, href, htrain]), hu]
  have hall : ∀ p : Fin 8, apartFromEvent Reg.NET_PORT_STATUS_LINK p = true ∧ apartFromEvent Reg.NET_PORT_STATUS_MODE_ACTIVE p = true ∧
      apartFromEvent Reg.NET_PORT_STATUS_LANES_UP p = true ∧
      apart Reg.NET_PORT_STATUS_LANES_UP p Reg.NET_PORT_STATUS_LINK p = true ∧
      apart Reg.NET_PORT_STATUS_MODE_ACTIVE p Reg.NET_PORT_STATUS_LINK p = true ∧
      apart Reg.NET_PORT_STATUS_LANES_UP p Reg.NET_PORT_STATUS_MODE_ACTIVE p = true := by decide
  obtain ⟨he1, he2, he3, ha1, ha2, ha3⟩ := hall p
  have hstamp : ∀ p : Fin 8, apartFromStamp Reg.NET_PORT_STATUS_LINK p = true ∧
      apartFromStamp Reg.NET_PORT_STATUS_MODE_ACTIVE p = true ∧ apartFromStamp Reg.NET_PORT_STATUS_LANES_UP p = true := by decide
  obtain ⟨hs1, hs2, hs3⟩ := hstamp p
  have hin : ∀ p : Fin 8, State.within Reg.NET_PORT_STATUS_LINK p [0x060004 + 0x400 * p.val] = true ∧
      State.within Reg.NET_PORT_STATUS_MODE_ACTIVE p [0x060004 + 0x400 * p.val] = true ∧
      State.within Reg.NET_PORT_STATUS_LANES_UP p [0x060004 + 0x400 * p.val] = true := by decide
  obtain ⟨hi1, hi2, hi3⟩ := hin p
  have hmlt : m < 2 ^ Reg.NET_PORT_CFG_MODE.len := hm ▸ rd_lt ..
  have hlanes : 2 ^ modeLanes m - 1 < 2 ^ 8 := by
    have := Nat.pow_le_pow_right (n := 2) (by omega) (modeLanes_le m)
    omega
  have hstampx : (((s.wrB Reg.NET_PORT_STATUS_LINK p true).wr Reg.NET_PORT_STATUS_MODE_ACTIVE p m).wr
      Reg.NET_PORT_STATUS_LANES_UP p (2 ^ modeLanes m - 1)).stamp none = s.stamp none := by
    rw [stamp_wr _ _ hs3, stamp_wr _ _ hs2, wrB, stamp_wr _ _ hs1]
  refine ⟨u, ?_, ?_, ?_, ?_, ?_, ?_, fun a ha hev hst => ?_⟩
  · show act s (s.linkUp p).pumpAll = _
    rw [hform, act_next]
  · rw [hu, rdB, rd_raise_apart he1, rd_wr_other _ _ ha1, rd_wr_other _ _ ha2, ← rdB, rdB_wrB_same _ _ _ _ rfl]
  · rw [hu, rd_raise_apart he2, rd_wr_other _ _ ha3, rd_wr_same _ _ _ _ (by decide)]
    exact Nat.mod_eq_of_lt hmlt
  · rw [hu, rd_raise_apart he3, rd_wr_same _ _ _ _ (by decide)]
    exact Nat.mod_eq_of_lt hlanes
  · rw [Raised, hu, ← eventRec_of_stamp hstampx]
    exact raise_logs ..
  · refine eq_of_noEvent ?_
    rw [hu, raise_noEvent, noEvent_of_noCtl (wr_noCtl ..), noEvent_of_noCtl (wr_noCtl ..), noEvent_of_noCtl (wrB_noCtl ..)]
  · rw [hu, raise_word _ _ _ _ _ _ hev, word_wr_listed ha hi3, word_wr_listed ha hi2, word_wrB_listed ha hi1]

/-- Settles O15: a link's status by the writes that take it up or down, and a verified preemption by its bit. -/
theorem linksUpAndDown : Obligations.LinksUpAndDown := by
  unfold Obligations.LinksUpAndDown
  exact fun s p => ⟨fun hlink => ⟨exec_linkDown hlink, exec_preemptVerify hlink⟩,
    fun hlink hen hmode href htrain => exec_linkUp hlink hen hmode href htrain⟩

end

/-! The background checks (R30, R31, R446, R455, R456). -/

section
variable {s : State} {edges : Nat}

theorem exec_refclkWindow_good (hpow : s.powered = true) (hstage : s.stage ≠ 0) (hst : s.rd Reg.PWR_STATUS_STATE 0 ≠ 3)
    (hlo : 2495 ≤ edges) (hhi : edges ≤ 2505) (href : s.rdB Reg.HRT_CLK_STATUS_REF_FALLBACK 0 = false) :
    ∃ t, exec (.refclkWindow edges) s = .next t ∧
      RegsOnly { s with pw := { s.pw with refBad := 0, refGood := s.pw.refGood + 1 } } t [] := by
  obtain ⟨u, hu⟩ : ∃ u : State, u = { s with pw := { s.pw with refBad := 0, refGood := s.pw.refGood + 1 } } := ⟨_, rfl⟩
  have huref : u.rdB Reg.HRT_CLK_STATUS_REF_FALLBACK 0 = false := by
    rw [rdB, rd_of_ctl (s := s) (by rw [hu])]
    exact href
  have hform : s.refWindow edges = u := by
    unfold refWindow
    rw [if_neg (by simp [hpow, hstage, hst]), if_pos (by simp [hlo, hhi])]
    dsimp only
    rw [← hu, refRestore, huref, if_neg (by simp)]
  refine ⟨u.done s.pending, ?_, ?_⟩
  · show act s (s.refWindow edges) = _
    rw [hform, act_next]
  · rw [← hu, show s.pending = u.pending by rw [hu]]
    exact done_regsOnly rfl fun _ _ => rfl

/-- A state with one more bad window. -/
def State.badWindow (s : State) : State := { s with pw := { s.pw with refBad := s.pw.refBad + 1, refGood := 0 } }

/-- REFCLK declared lost at the second bad window in succession. -/
def State.refLost (s : State) : State :=
  if s.pw.refBad = 2 && !s.rdB Reg.HRT_CLK_STATUS_REF_FALLBACK 0 then
    (s.linksDown.wrB Reg.HRT_CLK_STATUS_REF_FALLBACK 0 true).raise 0x0101 0 none 0
  else s

theorem exec_refclkWindow_lost (hpow : s.powered = true) (hstage : s.stage ≠ 0) (hst : s.rd Reg.PWR_STATUS_STATE 0 ≠ 3)
    (hout : edges < 2495 ∨ 2505 < edges) (hbad : s.pw.refBad = 1) (href : s.rdB Reg.HRT_CLK_STATUS_REF_FALLBACK 0 = false) :
    ∃ t, exec (.refclkWindow edges) s = .next t ∧ t.rdB Reg.HRT_CLK_STATUS_REF_FALLBACK 0 = true ∧
      (∀ p : Fin 8, t.rdB Reg.NET_PORT_STATUS_LINK p = false) ∧ t.pw = { s.pw with refBad := 2, refGood := 0 } := by
  obtain ⟨u, hu⟩ : ∃ u : State, u = s.badWindow := ⟨_, rfl⟩
  have hupw : u.pw = { s.pw with refBad := 2, refGood := 0 } := by
    rw [hu, badWindow, hbad]
  have huref : u.rdB Reg.HRT_CLK_STATUS_REF_FALLBACK 0 = false := by
    rw [rdB, rd_of_ctl (s := s) (by rw [hu]; rfl)]
    exact href
  have hform : s.refWindow edges = (u.linksDown.wrB Reg.HRT_CLK_STATUS_REF_FALLBACK 0 true).raise 0x0101 0 none 0 := by
    unfold refWindow
    rw [if_neg (by simp [hpow, hstage, hst]), if_neg (by simp; omega)]
    show s.badWindow.refLost = _
    rw [← hu, refLost, if_pos (by rw [huref, hupw]; rfl)]
  have hlink : ∀ p : Fin 8, ownField Reg.NET_PORT_STATUS_LINK p = true ∧ apartFromEvent Reg.NET_PORT_STATUS_LINK p = true ∧
      apart Reg.HRT_CLK_STATUS_REF_FALLBACK 0 Reg.NET_PORT_STATUS_LINK p = true := by decide
  refine ⟨((u.linksDown.wrB Reg.HRT_CLK_STATUS_REF_FALLBACK 0 true).raise 0x0101 0 none 0).done s.pending, ?_, ?_,
    fun p => ?_, ?_⟩
  · show act s (s.refWindow edges) = _
    rw [hform, act_next]
  · rw [done_rdB _ (by decide), rdB, rd_raise_apart (by decide), ← rdB, rdB_wrB_same _ _ _ _ rfl]
  · obtain ⟨hown, hev, hap⟩ := hlink p
    rw [done_rdB _ hown, rdB, rd_raise_apart hev, wrB, rd_wr_other _ _ hap, ← rdB, linksDown_down]
  · rw [done_pw, raise_pw, wrB_pw, pw_of_noEvent (linksDown_noEvent u), hupw]

theorem exec_guardbandStep (anvilRail : Bool) (hback : s.background = true)
    (hlt : s.rd (if anvilRail then Reg.PWR_GUARD_GB_ANV else Reg.PWR_GUARD_GB_FIX) 0 < 30) :
    ∃ t, exec (.guardbandStep anvilRail) s = .next t ∧
      t.rd (if anvilRail then Reg.PWR_GUARD_GB_ANV else Reg.PWR_GUARD_GB_FIX) 0 =
        s.rd (if anvilRail then Reg.PWR_GUARD_GB_ANV else Reg.PWR_GUARD_GB_FIX) 0 + 5 ∧
      Raised s t 0x0707 0 none (t.word 0x080020).toNat ∧ EventsOnly s t [0x080020] := by
  obtain ⟨f, hf⟩ : ∃ f, f = if anvilRail then Reg.PWR_GUARD_GB_ANV else Reg.PWR_GUARD_GB_FIX := ⟨_, rfl⟩
  rw [← hf] at hlt ⊢
  obtain ⟨hown, hev, hstamp, hin, hlen⟩ : ownField f 0 = true ∧ apartFromEvent f 0 = true ∧ apartFromStamp f 0 = true ∧
      State.within f 0 [0x080020] = true ∧ f.len = 8 := by
    subst hf
    cases anvilRail <;> decide
  obtain ⟨u, hu⟩ : ∃ u : State, u = s.wr f 0 (s.rd f 0 + 5) := ⟨_, rfl⟩
  have hform : s.guardband anvilRail = u.raise 0x0707 0 none (u.word 0x080020).toNat := by
    unfold guardband
    dsimp only
    rw [← hf, if_neg (by simp [hback]; omega), hu]
  have hword : ((s.guardband anvilRail).done s.pending).word 0x080020 = u.word 0x080020 := by
    rw [hform, done_word _ (by decide), raise_word _ _ _ _ _ _ (by decide)]
  refine ⟨(s.guardband anvilRail).done s.pending, act_next .., ?_, ?_, ?_⟩
  · rw [done_rd _ hown, hform, rd_raise_apart hev, hu, rd_wr_same _ _ _ _ (by omega), hlen]
    exact Nat.mod_eq_of_lt (by omega)
  · rw [hword, hform]
    exact raised_done _ (by rw [hu, stamp_wr _ _ hstamp]) _ _ _
  · refine done_eventsOnly ?_ fun a ha hne => ?_
    · rw [hform, raise_noEvent, hu, noEvent_of_noCtl (wr_noCtl ..)]
    · rw [hform, raise_word _ _ _ _ _ _ hne, hu, word_wr_listed ha hin]

theorem exec_laneMarginCheck (lane : Fin 64) {n : Nat} (hback : s.background = true)
    (hlink : s.rdB Reg.NET_PORT_STATUS_LINK (lane.val / 8) = true) (hn : 2 ^ 24 * 5440 < n * 100000) :
    ∃ t, exec (.laneMarginCheck lane n) s = .next t ∧ Raised s t 0x0506 lane none 0 ∧ EventsOnly s t [] := by
  have hform : s.laneCheck lane n = s.raise 0x0506 lane none 0 := by
    unfold State.laneCheck
    rw [if_pos (by rw [hback, hlink]; simpa using hn)]
  refine ⟨(s.raise 0x0506 lane none 0).done s.pending, ?_, raised_done _ rfl _ _ _, ?_⟩
  · show act s (s.laneCheck lane n) = _
    rw [hform, act_next]
  · exact done_eventsOnly (raise_noEvent ..) fun a _ hev => raise_word _ _ _ _ _ _ hev

theorem exec_bridgeRetrain {dir : Fin 2} {g : Fin 8} (hpow : s.powered = true) (hstage : s.stage ≠ 0)
    (hbusy : (dir, g) ∉ s.pw.bridgeBusy) (hout : (dir, g) ∉ s.pw.bridgeOut) :
    ∃ t, exec (.bridgeRetrain dir g) s = .next t ∧ Raised s t 0x0206 dir none g ∧
      EventsOnly { s with pw := { s.pw with bridgeBusy := s.pw.bridgeBusy ++ [(dir, g)] } } t [] := by
  obtain ⟨u, hu⟩ : ∃ u : State, u = { s with pw := { s.pw with bridgeBusy := s.pw.bridgeBusy ++ [(dir, g)] } } := ⟨_, rfl⟩
  have hform : s.bridgeFail dir g = u.raise 0x0206 dir none g := by
    rw [bridgeFail, if_neg (by simp [hpow, hstage, hbusy, hout]), hu]
  refine ⟨(u.raise 0x0206 dir none g).done s.pending, ?_, raised_done _ (by rw [hu]; rfl) _ _ _, ?_⟩
  · show act s (s.bridgeFail dir g) = _
    rw [hform, act_next]
  · rw [← hu, show s.pending = u.pending by rw [hu]]
    exact done_eventsOnly (raise_noEvent ..) fun a _ hev => raise_word _ _ _ _ _ _ hev

theorem exec_bridgeRetrainDone {dir : Fin 2} {g : Fin 8} (good : Bool) (hbusy : (dir, g) ∈ s.pw.bridgeBusy) :
    ∃ t, exec (.bridgeRetrainDone dir g good) s = .next t ∧
      EventsOnly { s with pw := { s.pw with
        bridgeBusy := s.pw.bridgeBusy.filter (· != (dir, g)),
        bridgeOut := s.pw.bridgeOut ++ if good then [] else [(dir, g)] } } t [] := by
  obtain ⟨u, hu⟩ : ∃ u : State, u = { s with pw := { s.pw with
    bridgeBusy := s.pw.bridgeBusy.filter (· != (dir, g)),
    bridgeOut := s.pw.bridgeOut ++ if good then [] else [(dir, g)] } } := ⟨_, rfl⟩
  have hform : s.bridgeDone dir g good = if good then u else u.raise 0x0206 dir none (g.val + 8) := by
    rw [bridgeDone, if_neg (by simpa using hbusy), hu]
    cases good with
    | true => simp
    | false => rfl
  refine ⟨(s.bridgeDone dir g good).done s.pending, act_next .., ?_⟩
  rw [← hu, show s.pending = u.pending by rw [hu], hform]
  exact done_eventsOnly (ite_keeps noEvent _ rfl (raise_noEvent ..)) fun a _ hev =>
    ite_keeps (word · a) _ rfl (raise_word _ _ _ _ _ _ hev)

/-- Settles O14: each check by what it writes and the event it raises. -/
theorem backgroundChecks : Obligations.BackgroundChecks := by
  unfold Obligations.BackgroundChecks
  refine fun s => ⟨fun edges hpow hstage hst => ⟨?_, ?_⟩, fun rail hback => ?_, fun lane n => ?_, fun dir g => ⟨?_, ?_⟩⟩
  · exact exec_refclkWindow_good hpow hstage hst
  · exact exec_refclkWindow_lost hpow hstage hst
  · exact fun hlt => exec_guardbandStep rail hback hlt
  · exact exec_laneMarginCheck lane
  · exact exec_bridgeRetrain
  · exact exec_bridgeRetrainDone

end

/-! Pads, wake delays and shared pins (R418, R420, R462). -/

section
variable {s : State} {w : Writer}

theorem exec_padRelease (g : BitVec 7) (hw : writable s w 0x000144 = true) : ∃ t, exec (.padRelease w g) s = .next t ∧
    t.rd Reg.HRT_PAD_HOLD_GROUPS 0 = (if s.rd Reg.PWR_STATUS_STATE 0 = 3 then s.rd Reg.HRT_PAD_HOLD_GROUPS 0
      else s.rd Reg.HRT_PAD_HOLD_GROUPS 0 &&& (0x7F ^^^ g.toNat)) ∧
    RegsOnly { s with wres := .ok } t [0x000140] := by
  obtain ⟨u, hu⟩ : ∃ u : State, u = if s.rd Reg.PWR_STATUS_STATE 0 = 3 then s else s.releasePads g.toNat := ⟨_, rfl⟩
  have hlt : s.rd Reg.HRT_PAD_HOLD_GROUPS 0 < 2 ^ 7 := rd_lt ..
  refine ⟨wrote s u, exec_regWrite rfl hw (by rw [padWrite, hu]), ?_, wrote_regsOnly rfl ?_ fun a ha => ?_⟩
  · rw [wrote_rd (by decide), hu]
    split
    · rfl
    · rw [releasePads, rd_wr_same _ _ _ _ (by decide)]
      exact Nat.mod_eq_of_lt (Nat.and_le_left.trans_lt hlt)
  · have hrest : u.noCtl = s.noCtl := hu ▸ ite_keeps noCtl _ rfl (wr_noCtl ..)
    rw [hrest]
    rfl
  · rw [hu, word_with_wres]
    exact ite_keeps (word · a) _ rfl (word_wr_listed ha (by decide))

theorem exec_wakeDelayArm (delay : BitVec 24) (hw : writable s w 0x000150 = true) (hcd : s.rd Reg.HRT_CD_HOLD_CD2 0 ≠ 2) :
    ∃ t, exec (.wakeDelayArm w delay) s = .next t ∧ t.rd Reg.HRT_WAKE_DELAY_DELAY 0 = delay.toNat ∧
      t.rdB Reg.HRT_WAKE_DELAY_ARM 0 = true ∧ t.rd Reg.HRT_CD_HOLD_CD2 0 = 1 ∧
      RegsOnly { s with wres := .ok } t [0x000150, 0x000180] := by
  have hdelay := delay.isLt
  have hbits : bits (wakeDelayArmed delay) 23 0 = delay.toNat := by
    rw [bits_eq, wakeDelayArmed]
    omega
  have hbit : bit (wakeDelayArmed delay) 24 = true := by
    have hone : (2 ^ 24 + delay.toNat) / 2 ^ 24 = 1 := by omega
    rw [bit, wakeDelayArmed, Nat.shiftRight_eq_div_pow, hone]
    rfl
  obtain ⟨u, hu⟩ : ∃ u : State, u = ((s.wr Reg.HRT_WAKE_DELAY_DELAY 0 delay.toNat).wrB Reg.HRT_WAKE_DELAY_ARM 0 true).wr
    Reg.HRT_CD_HOLD_CD2 0 1 := ⟨_, rfl⟩
  have hform : s.wakeDelayWrite (wakeDelayArmed delay) = (u, .ok) := by
    rw [wakeDelayWrite, hbits, hbit, if_pos rfl, if_neg hcd, hu]
  refine ⟨wrote s u, exec_regWrite rfl hw hform, ?_, ?_, ?_, wrote_regsOnly rfl ?_ fun a ha => ?_⟩
  · rw [wrote_rd (by decide), hu, rd_wr_other _ _ (by decide), wrB, rd_wr_other _ _ (by decide), rd_wr_same _ _ _ _ (by decide)]
    exact Nat.mod_eq_of_lt hdelay
  · rw [wrote_rdB (by decide), hu, rdB, rd_wr_other _ _ (by decide), ← rdB, rdB_wrB_same _ _ _ _ rfl]
  · rw [wrote_rd (by decide), hu, rd_wr_same _ _ _ _ (by decide)]
    rfl
  · rw [hu, wr_noCtl, wrB_noCtl, wr_noCtl]
    rfl
  · rw [hu, word_wr_listed ha (by decide), word_wrB_listed ha (by decide), word_wr_listed ha (by decide)]
    exact (word_with_wres ..).symm

theorem exec_wakeDelayExpire (hpow : s.powered = true) (harm : s.rdB Reg.HRT_WAKE_DELAY_ARM 0 = true)
    (hst : s.rd Reg.PWR_STATUS_STATE 0 ≤ 1) : ∃ t, exec .wakeDelayExpire s = .next t ∧
      t.rdB Reg.HRT_WAKE_DELAY_ARM 0 = false ∧ t.rd Reg.HRT_CD_HOLD_CD2 0 = 0 ∧ RegsOnly s t [0x000150, 0x000180] := by
  obtain ⟨u, hu⟩ : ∃ u : State, u = (s.wrB Reg.HRT_WAKE_DELAY_ARM 0 false).wr Reg.HRT_CD_HOLD_CD2 0 0 := ⟨_, rfl⟩
  have hust : u.rd Reg.PWR_STATUS_STATE 0 = s.rd Reg.PWR_STATUS_STATE 0 := by
    rw [hu, rd_wr_other _ _ (by decide), wrB, rd_wr_other _ _ (by decide)]
  have hform : s.wakeDelayExpire = u := by
    rw [State.wakeDelayExpire, if_neg (by rw [hpow, harm]; decide), ← hu, wakeUp]
    refine if_pos ?_
    have h2 : u.rd Reg.PWR_STATUS_STATE 0 ≠ 2 := by omega
    have h3 : u.rd Reg.PWR_STATUS_STATE 0 ≠ 3 := by omega
    simp [h2, h3]
  refine ⟨u.done s.pending, ?_, ?_, ?_, done_regsOnly ?_ fun a ha => ?_⟩
  · show act s s.wakeDelayExpire = _
    rw [hform, act_next]
  · rw [done_rdB _ (by decide), hu, rdB, rd_wr_other _ _ (by decide), ← rdB, rdB_wrB_same _ _ _ _ rfl]
  · rw [done_rd _ (by decide), hu, rd_wr_same _ _ _ _ (by decide), Nat.zero_mod]
  · rw [hu, wr_noCtl, wrB_noCtl]
  · rw [hu, word_wr_listed ha (by decide), word_wrB_listed ha (by decide)]

theorem exec_auxFuncWrite {v : Word} (hw : writable s w 0x000184 = true) (h0 : bits v.toNat 2 0 ≤ 3) (h1 : bits v.toNat 6 4 ≤ 3)
    (hf0 : bits v.toNat 2 0 = 0 ∨ (s.rd Reg.HRT_AUX_FUNC0 0 = 0 ∨ bits v.toNat 2 0 = s.rd Reg.HRT_AUX_FUNC0 0) ∧
      bits v.toNat 2 0 ≠ s.rd Reg.HRT_AUX_FUNC1 0)
    (hf1 : bits v.toNat 6 4 = 0 ∨ (s.rd Reg.HRT_AUX_FUNC1 0 = 0 ∨ bits v.toNat 6 4 = s.rd Reg.HRT_AUX_FUNC1 0) ∧
      bits v.toNat 6 4 ≠ s.rd Reg.HRT_AUX_FUNC0 0 ∧ bits v.toNat 6 4 ≠ bits v.toNat 2 0) :
    ∃ t, exec (.auxFuncWrite w v) s = .next t ∧ t.rd Reg.HRT_AUX_FUNC0 0 = bits v.toNat 2 0 ∧
      t.rd Reg.HRT_AUX_FUNC1 0 = bits v.toNat 6 4 ∧ RegsOnly { s with wres := .ok } t [0x000184] := by
  obtain ⟨u, hu⟩ : ∃ u : State, u = (s.wr Reg.HRT_AUX_FUNC0 0 (bits v.toNat 2 0)).wr Reg.HRT_AUX_FUNC1 0 (bits v.toNat 6 4) :=
    ⟨_, rfl⟩
  have hform : s.auxWrite v.toNat = (u, .ok) := by
    rw [hu]
    unfold auxWrite
    dsimp only
    rw [if_neg (by simp; omega), if_neg (by simp; omega), if_neg (by simp; omega), if_neg (by simp; omega),
      if_neg (by simp; omega)]
  refine ⟨wrote s u, exec_regWrite rfl hw hform, ?_, ?_, wrote_regsOnly rfl ?_ fun a ha => ?_⟩
  · rw [wrote_rd (by decide), hu, rd_wr_other _ _ (by decide), rd_wr_same _ _ _ _ (by decide)]
    exact Nat.mod_eq_of_lt (by show _ < 8; omega)
  · rw [wrote_rd (by decide), hu, rd_wr_same _ _ _ _ (by decide)]
    exact Nat.mod_eq_of_lt (by show _ < 8; omega)
  · rw [hu, wr_noCtl, wr_noCtl]
    rfl
  · rw [hu, word_wr_listed ha (by decide), word_wr_listed ha (by decide)]
    exact (word_with_wres ..).symm

/-- Settles O19: each write by the fields it sets. -/
theorem padsDelaysAndPins : Obligations.PadsDelaysAndPins := by
  unfold Obligations.PadsDelaysAndPins
  exact fun s w => ⟨exec_padRelease, exec_wakeDelayArm, exec_wakeDelayExpire, fun v hw h0 h1 hf0 hf1 => exec_auxFuncWrite hw h0 h1 hf0 hf1⟩

end

end Sys2Proof.Machine
end


section
/-!
Power states: what PWR_STATE_REQ begins, what an entry's end leaves, and what a wake source does (R415 to R419).
-/
namespace Sys2Proof.Machine

open State Sys2Proof.Safety

/-! Register writes that are refused where they are made. -/

theorem exec_regWrite_refused {s : State} {w : Writer} {a v : Nat} {c : Instr} {f : State → State × KStat} {r : KStat}
    (hc : exec c s = act s (s.regWrite w a v f)) (hw : writable s w a = true) (hf : f s = (s, r)) :
    ∃ t, exec c s = .next t ∧ RegsOnly { s with wres := r } t [] :=
  ⟨(s.writeStatus r).done s.pending, by rw [hc, regWrite_made hw hf, act_next], done_regsOnly (s := { s with wres := r }) rfl fun _ _ => rfl⟩

/-! PWR_STATE_REQ (R415, R416, R419). -/

section
variable {s : State} {w : Writer} (hw : writable s w 0x08001C = true) (hent : s.pw.entering = none)
include hw hent

theorem exec_stateReqRun (hst : s.rd Reg.PWR_STATUS_STATE 0 ≠ 2) : ∃ t, exec (.stateReqRun w) s = .next t ∧
    t.rd Reg.PWR_STATE_REQ_REQ 0 = 0 ∧ RegsOnly { s with wres := .ok } t [0x08001C] := by
  have hform : s.stateReq 0 = (s.wr Reg.PWR_STATE_REQ_REQ 0 0, .ok) := by
    rw [stateReq, if_neg (by decide), if_neg (by rw [hent]; decide), if_pos rfl, if_neg hst]
  refine ⟨wrote s _, exec_regWrite rfl hw hform, ?_, wrote_regsOnly rfl ?_ fun a ha => ?_⟩
  · rw [wrote_rd (by decide), rd_wr_same _ _ _ _ (by decide), Nat.zero_mod]
  · rw [wr_noCtl]
    rfl
  · rw [word_wr_listed ha (by decide)]
    exact (word_with_wres ..).symm

theorem exec_stateReqDoze (hst : s.rd Reg.PWR_STATUS_STATE 0 ≠ 2) (hq : s.quench = false) (hhold : s.dozeHolder = none) :
    ∃ t, exec (.stateReqDoze w) s = .next t ∧ t.rd Reg.PWR_STATE_REQ_REQ 0 = 2 ∧ t.rd Reg.PWR_STATUS_STATE 0 = 4 ∧
      RegsOnly { s with wres := .ok, pw := { s.pw with entering := some 2, fromDoze := false } } t [0x08000C, 0x08001C] := by
  obtain ⟨u, hu⟩ : ∃ u : State, u = { s with pw := { s.pw with entering := some 2, fromDoze := false } } := ⟨_, rfl⟩
  have hform : s.stateReq 2 = ((u.wr Reg.PWR_STATUS_STATE 0 4).wr Reg.PWR_STATE_REQ_REQ 0 2, .ok) := by
    have hbegin : s.beginEntry 2 = (u.wr Reg.PWR_STATUS_STATE 0 4).wr Reg.PWR_STATE_REQ_REQ 0 2 := by
      rw [beginEntry, beq_eq_false_iff_ne.mpr hst, hu]
    rw [stateReq, if_neg (by decide), if_neg (by rw [hent]; decide), if_neg (by decide), if_pos rfl, hhold]
    show (if s.quench = true then _ else _) = _
    rw [if_neg (by rw [hq]; decide), if_pos rfl, if_neg hst, hbegin]
  refine ⟨wrote s _, exec_regWrite rfl hw hform, ?_, ?_, wrote_regsOnly rfl ?_ fun a ha => ?_⟩
  · rw [wrote_rd (by decide), rd_wr_same _ _ _ _ (by decide)]
    rfl
  · rw [wrote_rd (by decide), rd_wr_other _ _ (by decide), rd_wr_same _ _ _ _ (by decide)]
    rfl
  · rw [wr_noCtl, wr_noCtl, hu]
    rfl
  · rw [word_wr_listed ha (by decide), word_wr_listed ha (by decide)]
    exact word_of_ctl (by rw [hu]) a

theorem exec_stateReqDoze_held {n : Nat} (hhold : s.dozeHolder = some n) : ∃ t, exec (.stateReqDoze w) s = .next t ∧
    RegsOnly { s with wres := .busy 10 n } t [] := by
  refine exec_regWrite_refused rfl hw ?_
  rw [stateReq, if_neg (by decide), if_neg (by rw [hent]; decide), if_neg (by decide), if_pos rfl, hhold]
  rfl

theorem exec_stateReqSlumber_held {h : Nat × Nat} (hhold : s.slumberHolder = some h) :
    ∃ t, exec (.stateReqSlumber w) s = .next t ∧ RegsOnly { s with wres := .busy h.1 h.2 } t [] := by
  refine exec_regWrite_refused rfl hw ?_
  rw [stateReq, if_neg (by decide), if_neg (by rw [hent]; decide), if_neg (by decide), if_neg (by decide), hhold]

theorem exec_stateReqSlumber (hq : s.quench = false) (hhold : s.slumberHolder = none) :
    ∃ t, exec (.stateReqSlumber w) s = .next t ∧ t.rd Reg.PWR_STATE_REQ_REQ 0 = 3 ∧ t.rd Reg.PWR_STATUS_STATE 0 = 4 ∧
      t.pw.entering = some 3 ∧ t.ops = s.ops ∧
      (s.scratchPages = [] → RegsOnly { s with
        wres := .ok
        pw := { s.pw with entering := some 3, fromDoze := decide (s.rd Reg.PWR_STATUS_STATE 0 = 2) } } t [0x08000C, 0x08001C]) := by
  obtain ⟨v, hv⟩ : ∃ v : State, v = { s with pw := { s.pw with
    entering := some 3, fromDoze := s.rd Reg.PWR_STATUS_STATE 0 == 2 } } := ⟨_, rfl⟩
  obtain ⟨u, hu⟩ : ∃ u : State, u = (v.wr Reg.PWR_STATUS_STATE 0 4).wr Reg.PWR_STATE_REQ_REQ 0 3 := ⟨_, rfl⟩
  have hrest : u.noCtl = v.noCtl := by rw [hu, wr_noCtl, wr_noCtl]
  have hscratch : u.scratchPages = s.scratchPages := by
    rw [scratchPages, scratchPages, ms_of_noCtl hrest, hv]
  have hform : s.stateReq 3 = (u.leaveTiles, .ok) := by
    have hbegin : s.beginEntry 3 = u := by rw [beginEntry, hu, hv]
    rw [stateReq, if_neg (by decide), if_neg (by rw [hent]; decide), if_neg (by decide), if_neg (by decide), hhold]
    show (if s.quench = true then _ else _) = _
    rw [if_neg (by rw [hq]; decide), if_neg (by decide), hbegin]
  have hmoved : Moved u u.leaveTiles := moved_foldl _ (fun s p => moved_bring s p 1 true) _ _
  refine ⟨wrote s u.leaveTiles, exec_regWrite rfl hw hform, ?_, ?_, ?_, ?_, fun hnone => wrote_regsOnly rfl ?_ fun a ha => ?_⟩
  · rw [wrote_rd (by decide), hmoved.rd (by decide), hu, rd_wr_same _ _ _ _ (by decide)]
    rfl
  · rw [wrote_rd (by decide), hmoved.rd (by decide), hu, rd_wr_other _ _ (by decide), rd_wr_same _ _ _ _ (by decide)]
    rfl
  · rw [wrote, done_pw]
    show u.leaveTiles.pw.entering = some 3
    rw [pw_of_noMove hmoved.rest, pw_of_noCtl hrest, hv]
  · rw [wrote, done_ops]
    show u.leaveTiles.ops = s.ops
    rw [ops_of_noMove hmoved.rest, ops_of_noCtl hrest, hv]
  · rw [leaveTiles, hscratch, hnone, List.foldl_nil, hrest, hv]
    rfl
  · rw [leaveTiles, hscratch, hnone, List.foldl_nil, hu, word_wr_listed ha (by decide), word_wr_listed ha (by decide)]
    exact word_of_ctl (by rw [hv]) a

end

/-- Settles O16: each request by the entry it begins, or the holder its refusal names. -/
theorem stateRequests : Obligations.StateRequests := by
  unfold Obligations.StateRequests
  exact fun s w hw hent => ⟨fun hst => ⟨exec_stateReqRun hw hent hst, exec_stateReqDoze hw hent hst⟩,
    fun _ => exec_stateReqDoze_held hw hent, fun _ => exec_stateReqSlumber_held hw hent, exec_stateReqSlumber hw hent⟩

/-! The end of an entry (R415, R416). -/

theorem exec_dozeEntered {s : State} (hent : s.pw.entering = some 2) (hport : s.rd Reg.SEC_LC_PORT 0 ≠ 2) :
    ∃ t, exec .dozeEntered s = .next t ∧ t.rd Reg.PWR_STATUS_STATE 0 = 2 ∧
      t.rd Reg.HRT_PAD_HOLD_GROUPS 0 = s.rd Reg.HRT_PAD_HOLD_GROUPS 0 ||| 0x1E ∧
      RegsOnly { s with
        pw := { s.pw with entering := none, fromDoze := false, memAsleep := true, compute := false },
        ms := { s.ms with msc := Vector.replicate 2 [], fills := Vector.replicate 2 [] } } t [0x08000C, 0x000140] := by
  obtain ⟨v, hv⟩ : ∃ v : State, v = ({ s with
    pw := { s.pw with entering := none, fromDoze := false, memAsleep := true, compute := false } } : State).dropFills := ⟨_, rfl⟩
  have hvrd (f : Field) (i : Nat) : v.rd f i = s.rd f i := rd_of_ctl (by rw [hv]; rfl) f i
  obtain ⟨u, hu⟩ : ∃ u : State, u = (v.holdPads memPads).wr Reg.PWR_STATUS_STATE 0 2 := ⟨_, rfl⟩
  have huport : u.rd Reg.SEC_LC_PORT 0 ≠ 2 := by
    rw [hu, rd_wr_other _ _ (by decide), holdPads, rd_wr_other _ _ (by decide), hvrd]
    exact hport
  have hform : s.enterDoze = u := by
    rw [enterDoze, if_neg (by rw [hent]; decide)]
    dsimp only
    rw [← hv, ← hu, if_neg huport]
  have hlt : s.rd Reg.HRT_PAD_HOLD_GROUPS 0 < 2 ^ 7 := rd_lt ..
  refine ⟨u.done s.pending, ?_, ?_, ?_, ?_⟩
  · show act s s.enterDoze = _
    rw [hform, act_next]
  · rw [done_rd _ (by decide), hu, rd_wr_same _ _ _ _ (by decide)]
    rfl
  · rw [done_rd _ (by decide), hu, rd_wr_other _ _ (by decide), holdPads, rd_wr_same _ _ _ _ (by decide), hvrd]
    exact Nat.mod_eq_of_lt (Nat.or_lt_two_pow hlt (by decide))
  · have hpend : s.pending = v.pending := by rw [hv]; rfl
    have hreg := done_regsOnly (s := v) (u := u) (ws := [0x08000C, 0x000140])
      (by rw [hu, wr_noCtl, holdPads, wr_noCtl]) fun a ha => by
        rw [hu, word_wr_listed ha (by decide), holdPads, word_wr_listed ha (by decide)]
    rw [hpend, hv] at *
    exact hreg

namespace State

/-- A die's capture lost with the Tile Store. -/
def captureLost (s : State) (d : Fin 2) : State :=
  ((if s.rdB Reg.MEM_FCAP_CTRL_ARM d && s.rd Reg.MEM_FCAP_CTRL_POST d ≠ 0 then s.wr Reg.HRT_CD_HOLD_CD3 0 0 else s).wrB
    Reg.MEM_FCAP_CTRL_ARM d false).setWord (0x070504 + 0x20 * d.val) 0

theorem loseCaptures_eq (s : State) : s.loseCaptures = { (s.captureLost 0).captureLost 1 with
    tel := { ((s.captureLost 0).captureLost 1).tel with capture := Vector.replicate 2 ⟨[], 0, false⟩ } } := rfl

theorem captureLost_noCtl (s : State) (d : Fin 2) : (s.captureLost d).noCtl = s.noCtl := by
  rw [captureLost, setWord_noCtl, wrB_noCtl]
  exact ite_keeps noCtl _ (wr_noCtl ..) rfl

theorem loseCaptures_noEvent (s : State) : s.loseCaptures.noEvent = s.noEvent := by
  have h : ((s.captureLost 0).captureLost 1).noEvent = s.noEvent :=
    noEvent_of_noCtl ((captureLost_noCtl ..).trans (captureLost_noCtl ..))
  rw [loseCaptures_eq]
  exact h

theorem captureLost_link (s : State) (d : Fin 2) (p : Fin 8) :
    (s.captureLost d).rd Reg.NET_PORT_STATUS_LINK p = s.rd Reg.NET_PORT_STATUS_LINK p := by
  have hall : ∀ d : Fin 2, ∀ p : Fin 8, apart Reg.MEM_FCAP_CTRL_ARM d Reg.NET_PORT_STATUS_LINK p = true ∧
      apart Reg.HRT_CD_HOLD_CD3 0 Reg.NET_PORT_STATUS_LINK p = true ∧
      fieldAddr Reg.NET_PORT_STATUS_LINK p + 4 * fieldWords Reg.NET_PORT_STATUS_LINK ≤ 0x070504 := by decide
  obtain ⟨harm, hcd, haddr⟩ := hall d p
  have hset (x : State) (v : Word) : (x.setWord (0x070504 + 0x20 * d.val) v).rd Reg.NET_PORT_STATUS_LINK p =
      x.rd Reg.NET_PORT_STATUS_LINK p := rd_congr fun b _ hb => word_setWord_other _ _ (by omega)
  rw [captureLost, hset, wrB, rd_wr_other _ _ harm]
  exact ite_keeps (rd · Reg.NET_PORT_STATUS_LINK p) _ (rd_wr_other _ _ hcd) rfl

/-- A Slumber entry's state before what the unpowered blocks hold is lost. -/
def slumberShut (t : State) : State := ((t.dropFills.linksDown).loseCaptures).closePort

/-- What Slumber loses with the blocks it takes the power from. -/
def slumberLost (t v : State) : State :=
  { v with
    ms := { v.ms with msc := v.ms.msc.map fun _ => [] }
    pw := { t.pw with entering := none, fromDoze := false, memAsleep := true, compute := false }
    tap := tapReset
    slots := t.slots.map fun x => { x with snap := none }
    sprigs := Vector.replicate 24 sprigReset }

theorem slumberShut_noTap (t : State) : t.slumberShut.noTap = (t.dropFills.linksDown.loseCaptures).noTap := closePort_noTap _

end State

section
variable {s x : State} (hx : x = s.demoteScratch) (hent : s.pw.entering = some 3)
include hx hent

theorem exec_slumberEntered_waits (hpages : x.scratchPages ≠ []) : exec .slumberEntered s = .next (x.done s.pending) := by
  have hform : s.enterSlumber = x := by
    rw [enterSlumber, ← hx, if_neg (by rw [hent]; decide), if_pos hpages]
  show act s s.enterSlumber = _
  rw [hform, act_next]

theorem exec_slumberEntered (hpages : x.scratchPages = []) : ∃ t, exec .slumberEntered s = .next t ∧
    t.rd Reg.PWR_STATUS_STATE 0 = 3 ∧ t.rd Reg.HRT_PAD_HOLD_GROUPS 0 = 0x7F ∧
    (∀ p : Fin 8, t.rdB Reg.NET_PORT_STATUS_LINK p = false) ∧
    t.sprigs = Vector.replicate 24 State.sprigReset ∧ t.slots = (s.slots.map fun x => { x with snap := none }) ∧
    t.pw = { s.pw with entering := none, fromDoze := false, memAsleep := true, compute := false } ∧ t.tap = State.tapReset ∧
    t.ms.msc = Vector.replicate 2 [] ∧ t.ms.fills = Vector.replicate 2 [] ∧ t.rings = s.rings ∧ t.ops = s.ops := by
  have hdrain : x.noMem = s.noMem := by
    rw [hx]
    exact drainScratch_noMem (fun s p => ite_keeps noMem _ (noMem_of_noMove (moved_bring ..).rest) rfl) _ _
  obtain ⟨y, hy⟩ : ∃ y : State, y = x.dropFills.linksDown.loseCaptures := ⟨_, rfl⟩
  have hyrest : y.noEvent = x.dropFills.noEvent := by rw [hy, loseCaptures_noEvent, linksDown_noEvent]
  obtain ⟨v, hv⟩ : ∃ v : State, v = y.closePort := ⟨_, rfl⟩
  have hvrest : v.noTap = y.noTap := by rw [hv, closePort_noTap]
  have hvpw : v.pw = s.pw := by
    rw [show v.pw = y.pw from (congrArg State.pw hvrest :), pw_of_noEvent hyrest]
    exact (congrArg State.pw hdrain :)
  have hvslots : v.slots = s.slots := by
    rw [show v.slots = y.slots from (congrArg State.slots hvrest :), slots_of_noEvent hyrest]
    exact (congrArg State.slots hdrain :)
  have hvms : v.ms = x.dropFills.ms := by
    rw [show v.ms = y.ms from (congrArg State.ms hvrest :), ms_of_noEvent hyrest]
  have hvrings : v.rings = s.rings := by
    rw [show v.rings = y.rings from (congrArg State.rings hvrest :), rings_of_noEvent hyrest]
    exact (congrArg State.rings hdrain :)
  have hvops : v.ops = s.ops := by
    rw [show v.ops = y.ops from (congrArg State.ops hvrest :), ops_of_noEvent hyrest]
    exact (congrArg State.ops hdrain :)
  have hvlink (p : Fin 8) : v.rdB Reg.NET_PORT_STATUS_LINK p = false := by
    have hport : ∀ p : Fin 8, apartFromPort Reg.NET_PORT_STATUS_LINK p = true := by decide
    have htel : y.rd Reg.NET_PORT_STATUS_LINK p =
        ((x.dropFills.linksDown.captureLost 0).captureLost 1).rd Reg.NET_PORT_STATUS_LINK p :=
      rd_of_ctl (by rw [hy, loseCaptures_eq]) _ _
    rw [hv, rdB, rd_closePort _ (hport p), htel, captureLost_link, captureLost_link, ← rdB, linksDown_down]
  obtain ⟨z, hz⟩ : ∃ z : State, z = v.slumberLost v := ⟨_, rfl⟩
  obtain ⟨u, hu⟩ : ∃ u : State, u = (z.holdPads 0x7F).wr Reg.PWR_STATUS_STATE 0 3 := ⟨_, rfl⟩
  have hrest : u.noCtl = z.noCtl := by rw [hu, wr_noCtl, holdPads, wr_noCtl]
  have hform : s.enterSlumber = u := by
    rw [enterSlumber, ← hx, if_neg (by rw [hent]; decide), if_neg (by rw [hpages]; exact fun h => h rfl), hu, hz, hv, hy]
    rfl
  have hlink : ∀ p : Fin 8, ownField Reg.NET_PORT_STATUS_LINK p = true ∧
      apart Reg.PWR_STATUS_STATE 0 Reg.NET_PORT_STATUS_LINK p = true ∧
      apart Reg.HRT_PAD_HOLD_GROUPS 0 Reg.NET_PORT_STATUS_LINK p = true := by decide
  refine ⟨u.done s.pending, ?_, ?_, ?_, fun p => ?_, ?_, ?_, ?_, ?_, ?_, ?_, ?_, ?_⟩
  · show act s s.enterSlumber = _
    rw [hform, act_next]
  · rw [done_rd _ (by decide), hu, rd_wr_same _ _ _ _ (by decide)]
    rfl
  · have hor : ∀ n, n < 2 ^ 7 → (n ||| 0x7F) % 2 ^ Reg.HRT_PAD_HOLD_GROUPS.len = 0x7F := by decide
    have hlt : z.rd Reg.HRT_PAD_HOLD_GROUPS 0 < 2 ^ 7 := rd_lt ..
    rw [done_rd _ (by decide), hu, rd_wr_other _ _ (by decide), holdPads, rd_wr_same _ _ _ _ (by decide), hor _ hlt]
  · obtain ⟨hown, hstate, hpad⟩ := hlink p
    rw [done_rdB _ hown, hu, rdB, rd_wr_other _ _ hstate, holdPads, rd_wr_other _ _ hpad, rd_of_ctl (s := v) (by rw [hz]; rfl), ← rdB,
      hvlink]
  · rw [done_sprigs, sprigs_of_noCtl hrest, hz, slumberLost]
  · rw [done_slots, slots_of_noCtl hrest, hz, slumberLost, hvslots]
  · rw [done_pw, pw_of_noCtl hrest, hz, slumberLost, hvpw]
  · rw [done_tap, tap_of_noCtl hrest, hz, slumberLost]
  · rw [done_ms, ms_of_noCtl hrest, hz, slumberLost]
    exact Vector.ext fun i hi => by simp
  · rw [done_ms, ms_of_noCtl hrest, hz, slumberLost, hvms]
    rfl
  · rw [done_rings, rings_of_noCtl hrest, hz, slumberLost, hvrings]
  · rw [done_ops, ops_of_noCtl hrest, hz, slumberLost, hvops]

end

/-- Settles O17: Doze's end by the stops it makes, and Slumber's by what its blocks lose. -/
theorem entriesEnd : Obligations.EntriesEnd := by
  unfold Obligations.EntriesEnd
  exact fun s => ⟨exec_dozeEntered, exec_slumberEntered_waits rfl, exec_slumberEntered rfl⟩

/-! Wakes (R417, R419). -/

namespace State

/-- HRT_WAKE_CNT with the byte of a source counted up. -/
def wakeCounted (count n : Nat) : Nat :=
  putBits count (8 * n - 1) (8 * n - 8) (min 255 (bits count (8 * n - 1) (8 * n - 8) + 1))

theorem noteWake_eq (s : State) (n : Nat) : s.noteWake n =
    (s.wr Reg.HRT_WAKE_SRC_LAST 0 n).wr Reg.HRT_WAKE_CNT_COUNT 0 (wakeCounted (s.rd Reg.HRT_WAKE_CNT_COUNT 0) n) := rfl

theorem noteWake_noCtl (s : State) (n : Nat) : (s.noteWake n).noCtl = s.noCtl := by
  rw [noteWake_eq, wr_noCtl, wr_noCtl]

theorem rd_noteWake (s : State) (n : Nat) {f : Field} {i : Nat} (hlast : apart Reg.HRT_WAKE_SRC_LAST 0 f i = true)
    (hcount : apart Reg.HRT_WAKE_CNT_COUNT 0 f i = true) : (s.noteWake n).rd f i = s.rd f i := by
  rw [noteWake_eq, rd_wr_other _ _ hcount, rd_wr_other _ _ hlast]

theorem word_noteWake (s : State) (n : Nat) {a : Nat} {ws : List Nat} (ha : a ∉ ws)
    (hlast : State.within Reg.HRT_WAKE_SRC_LAST 0 ws = true) (hcount : State.within Reg.HRT_WAKE_CNT_COUNT 0 ws = true) :
    (s.noteWake n).word a = s.word a := by
  rw [noteWake_eq, word_wr_listed ha hcount, word_wr_listed ha hlast]

theorem noteWake_last (s : State) {n : Nat} (hn : n < 8) : (s.noteWake n).rd Reg.HRT_WAKE_SRC_LAST 0 = n := by
  rw [noteWake_eq, rd_wr_other _ _ (by decide), rd_wr_same _ _ _ _ (by decide)]
  exact Nat.mod_eq_of_lt hn

theorem noteWake_count (s : State) {n : Nat} (h1 : 1 ≤ n) (h4 : n ≤ 4) :
    (s.noteWake n).rd Reg.HRT_WAKE_CNT_COUNT 0 = wakeCounted (s.rd Reg.HRT_WAKE_CNT_COUNT 0) n := by
  have hlt : s.rd Reg.HRT_WAKE_CNT_COUNT 0 < 2 ^ 32 := rd_lt ..
  rw [noteWake_eq, rd_wr_same _ _ _ _ (by decide)]
  exact Nat.mod_eq_of_lt (putBits_lt (n := 32) _ _ _ (by omega) (by omega) hlt)

/-- A state that a wake source has returned to Run. -/
def backToRun (x : State) : State :=
  ({ x with pw := { x.pw with memAsleep := false, compute := true } } : State).releasePads memPads |>.wr Reg.PWR_STATUS_STATE 0 0

theorem backToRun_noCtl (x : State) :
    x.backToRun.noCtl = ({ x with pw := { x.pw with memAsleep := false, compute := true } } : State).noCtl := by
  rw [backToRun, wr_noCtl, releasePads, wr_noCtl]

theorem rd_backToRun (x : State) {f : Field} {i : Nat} (hpad : apart Reg.HRT_PAD_HOLD_GROUPS 0 f i = true)
    (hstate : apart Reg.PWR_STATUS_STATE 0 f i = true) : x.backToRun.rd f i = x.rd f i := by
  rw [backToRun, rd_wr_other _ _ hstate, releasePads, rd_wr_other _ _ hpad]
  exact rd_with_pw ..

theorem backToRun_state (x : State) : x.backToRun.rd Reg.PWR_STATUS_STATE 0 = 0 := by
  rw [backToRun, rd_wr_same _ _ _ _ (by decide), Nat.zero_mod]

theorem backToRun_pads (x : State) : x.backToRun.rd Reg.HRT_PAD_HOLD_GROUPS 0 = x.rd Reg.HRT_PAD_HOLD_GROUPS 0 &&& 0x61 := by
  have hlt : x.rd Reg.HRT_PAD_HOLD_GROUPS 0 < 2 ^ 7 := rd_lt ..
  rw [backToRun, rd_wr_other _ _ (by decide), releasePads, rd_wr_same _ _ _ _ (by decide), rd_with_pw]
  exact Nat.mod_eq_of_lt (Nat.and_le_left.trans_lt hlt)

/-- A wake from Doze. -/
theorem wakeUp_doze {s : State} {n : Nat} (hpow : s.powered = true) (hq : s.quench = false) (hflow : s.pw.flowOk = true)
    (hhot : s.pw.hot = false) (hst : s.rd Reg.PWR_STATUS_STATE 0 = 2) (h1 : 1 ≤ n) (h4 : n ≤ 4) :
    s.wakeUp n = (s.noteWake n).backToRun := by
  have hpw : (s.noteWake n).pw = s.pw := pw_of_noCtl (noteWake_noCtl ..)
  obtain ⟨x, hx⟩ : ∃ x : State, x = s.noteWake n := ⟨_, rfl⟩
  rw [← hx] at hpw ⊢
  have hgood : (!x.pw.flowOk || x.pw.hot) = false := by rw [hpw, hflow, hhot]; rfl
  unfold wakeUp
  dsimp only
  rw [hst, if_neg (by simp [hpow, hq, h1, h4]), if_pos rfl, ← hx, hgood, if_neg (by decide)]
  rfl

/-- What a wake from Slumber measures and draws before the module runs. -/
def wokenFromSlumber (s : State) (n : Nat) : State :=
  (((s.noteWake n).measureFw s.flash.fw[s.runningSlot]).drawNonce).releasePads 0x61

theorem wakeUp_slumber {s : State} {n : Nat} (hpow : s.powered = true) (hq : s.quench = false) (hflow : s.pw.flowOk = true)
    (hhot : s.pw.hot = false) (hst : s.rd Reg.PWR_STATUS_STATE 0 = 3) (hn : n = 1 ∨ n = 4) :
    s.wakeUp n = (s.wokenFromSlumber n).backToRun.raise 0x0704 0 none n := by
  have hrun : (s.noteWake n).rd Reg.HRT_FW_RUNNING 0 = s.rd Reg.HRT_FW_RUNNING 0 := rd_noteWake _ _ (by decide) (by decide)
  have hflash : (s.noteWake n).flash = s.flash := flash_of_noCtl (noteWake_noCtl ..)
  have hpw : (s.noteWake n).pw = s.pw := pw_of_noCtl (noteWake_noCtl ..)
  have hgood : (!(s.noteWake n).pw.flowOk || (s.noteWake n).pw.hot) = false := by rw [hpw, hflow, hhot]; rfl
  have hslot : (s.noteWake n).flash.fw[Fin.ofNat 2 ((s.noteWake n).rd Reg.HRT_FW_RUNNING 0)] = s.flash.fw[s.runningSlot] := by
    simp only [hflash, hrun]
    rfl
  unfold wakeUp wokenFromSlumber runningSlot
  dsimp only
  rw [hst, if_neg (by rcases hn with rfl | rfl <;> simp [hpow, hq]), if_neg (by decide), hgood, if_neg (by decide), hslot]
  rfl

end State

section
variable {s : State} (hpow : s.powered = true) (hq : s.quench = false) (hflow : s.pw.flowOk = true) (hhot : s.pw.hot = false)
include hpow hq hflow hhot

theorem exec_wake_doze {n : Fin 5} (hst : s.rd Reg.PWR_STATUS_STATE 0 = 2) (hn : n ≠ 0) : ∃ t, exec (.wake n) s = .next t ∧
    t.rd Reg.PWR_STATUS_STATE 0 = 0 ∧ t.rd Reg.HRT_WAKE_SRC_LAST 0 = n.val ∧
    t.rd Reg.HRT_WAKE_CNT_COUNT 0 = wakeCounted (s.rd Reg.HRT_WAKE_CNT_COUNT 0) n.val ∧
    t.rd Reg.HRT_PAD_HOLD_GROUPS 0 = s.rd Reg.HRT_PAD_HOLD_GROUPS 0 &&& 0x61 ∧
    RegsOnly { s with pw := { s.pw with memAsleep := false, compute := true } } t [0x08000C, 0x000148, 0x00014C, 0x000140] := by
  have hform : s.wakeUp n.val = (s.noteWake n.val).backToRun :=
    wakeUp_doze hpow hq hflow hhot hst (by omega) (by omega)
  refine ⟨(s.noteWake n.val).backToRun.done s.pending, ?_, ?_, ?_, ?_, ?_, ?_⟩
  · show act s (s.wakeUp n.val) = _
    rw [hform, act_next]
  · rw [done_rd _ (by decide), backToRun_state]
  · rw [done_rd _ (by decide), rd_backToRun _ (by decide) (by decide), noteWake_last _ (by omega)]
  · rw [done_rd _ (by decide), rd_backToRun _ (by decide) (by decide), noteWake_count _ (by omega) (by omega)]
  · rw [done_rd _ (by decide), backToRun_pads, rd_noteWake _ _ (by decide) (by decide)]
  · refine done_regsOnly (s := { s with pw := { s.pw with memAsleep := false, compute := true } }) ?_ fun a ha => ?_
    · rw [backToRun_noCtl, eq_of_noCtl (noteWake_noCtl s n.val)]
      rfl
    · rw [backToRun, word_wr_listed ha (by decide), releasePads, word_wr_listed ha (by decide)]
      exact (word_with_pw ..).trans ((word_noteWake _ _ ha (by decide) (by decide)).trans (word_with_pw ..).symm)

theorem exec_wake_slumber {n : Fin 5} (hst : s.rd Reg.PWR_STATUS_STATE 0 = 3) (hn : n = 1 ∨ n = 4) :
    ∃ t, exec (.wake n) s = .next t ∧ t.rd Reg.PWR_STATUS_STATE 0 = 0 ∧ t.rd Reg.HRT_WAKE_SRC_LAST 0 = n.val ∧
      t.rd Reg.HRT_WAKE_CNT_COUNT 0 = wakeCounted (s.rd Reg.HRT_WAKE_CNT_COUNT 0) n.val ∧
      t.rd Reg.HRT_PAD_HOLD_GROUPS 0 = s.rd Reg.HRT_PAD_HOLD_GROUPS 0 &&& 0 ∧
      Extended s t 1 (sha256 (State.fwHeader s.flash.fw[s.runningSlot])) ∧
      t.rd Reg.SEC_DBG_NONCE_NONCE 0 = (Config.random s.free).toNat ∧ Raised s t 0x0704 0 none n ∧
      t.pw = { s.pw with memAsleep := false, compute := true } := by
  have hnval : n.val = 1 ∨ n.val = 4 := by rcases hn with rfl | rfl <;> decide
  obtain ⟨m, hm⟩ : ∃ m : State, m = (s.noteWake n.val).measureFw s.flash.fw[s.runningSlot] := ⟨_, rfl⟩
  have hmrest : m.noCtl = s.noCtl := by rw [hm, measureFw, extend_noCtl, noteWake_noCtl]
  have hmrd {f : Field} {i : Nat} (hmeas : apartFromMeas f i 1 = true) : m.rd f i = (s.noteWake n.val).rd f i := by
    rw [hm, measureFw, rd_extend _ _ hmeas]
  obtain ⟨k, hk⟩ : ∃ k : State, k = m.wr Reg.SEC_DBG_NONCE_NONCE 0 (Config.random m.free).toNat := ⟨_, rfl⟩
  have hkrest : k.noCtl = s.noCtl := by rw [hk, wr_noCtl, hmrest]
  obtain ⟨x, hx⟩ : ∃ x : State, x = s.wokenFromSlumber n.val := ⟨_, rfl⟩
  have hxform : x = k.tick.releasePads 0x61 := by rw [hx, hk, hm, wokenFromSlumber, drawNonce]
  have hxrd {f : Field} {i : Nat} (hpad : apart Reg.HRT_PAD_HOLD_GROUPS 0 f i = true) : x.rd f i = k.rd f i := by
    rw [hxform, releasePads, rd_wr_other _ _ hpad, tick, rd_with_free]
  have hxpads : x.rd Reg.HRT_PAD_HOLD_GROUPS 0 = s.rd Reg.HRT_PAD_HOLD_GROUPS 0 &&& 0x1E := by
    have hlt : s.rd Reg.HRT_PAD_HOLD_GROUPS 0 < 2 ^ 7 := rd_lt ..
    rw [hxform, releasePads, rd_wr_same _ _ _ _ (by decide), tick, rd_with_free, hk, rd_wr_other _ _ (by decide), hmrd (by decide),
      rd_noteWake _ _ (by decide) (by decide)]
    exact Nat.mod_eq_of_lt (Nat.and_le_left.trans_lt hlt)
  have hxpw : x.pw = s.pw := by
    rw [hxform, releasePads, wr_pw]
    exact (pw_of_noCtl hkrest : k.pw = s.pw)
  obtain ⟨u, hu⟩ : ∃ u : State, u = x.backToRun := ⟨_, rfl⟩
  have hform : s.wakeUp n.val = u.raise 0x0704 0 none n.val := by
    rw [hu, hx]
    exact wakeUp_slumber hpow hq hflow hhot hst hnval
  have hrd {f : Field} {i : Nat} (hown : ownField f i = true) (hev : apartFromEvent f i = true)
      (hpad : apart Reg.HRT_PAD_HOLD_GROUPS 0 f i = true) (hstate : apart Reg.PWR_STATUS_STATE 0 f i = true) :
      ((u.raise 0x0704 0 none n.val).done s.pending).rd f i = k.rd f i := by
    rw [done_rd _ hown, rd_raise_apart hev, hu, rd_backToRun _ hpad hstate, hxrd hpad]
  refine ⟨(u.raise 0x0704 0 none n.val).done s.pending, ?_, ?_, ?_, ?_, ?_, ?_, ?_, ?_, ?_⟩
  · show act s (s.wakeUp n.val) = _
    rw [hform, act_next]
  · rw [done_rd _ (by decide), rd_raise_apart (by decide), hu, backToRun_state]
  · rw [hrd (by decide) (by decide) (by decide) (by decide), hk, rd_wr_other _ _ (by decide), hmrd (by decide),
      noteWake_last _ (by omega)]
  · rw [hrd (by decide) (by decide) (by decide) (by decide), hk, rd_wr_other _ _ (by decide), hmrd (by decide),
      noteWake_count _ (by omega) (by omega)]
  · rw [done_rd _ (by decide), rd_raise_apart (by decide), hu, backToRun_pads, hxpads, Nat.and_assoc]
    rfl
  · have hext : Extended (s.noteWake n.val) m 1 (sha256 (State.fwHeader s.flash.fw[s.runningSlot])) := by
      rw [hm, measureFw]
      exact extended_extend _ (by decide) _
    refine extended_congr hext (fun f hf => ?_) fun f hf => ?_
    · have hall : ∀ f ∈ [Reg.SEC_MEAS_M, Reg.SEC_MEAS_CNT_COUNT], apart Reg.HRT_WAKE_SRC_LAST 0 f 1 = true ∧
          apart Reg.HRT_WAKE_CNT_COUNT 0 f 1 = true := by decide
      rw [rd_noteWake _ _ (hall f hf).1 (hall f hf).2]
    · have hall : ∀ f ∈ [Reg.SEC_MEAS_M, Reg.SEC_MEAS_CNT_COUNT], ownField f 1 = true ∧ apartFromEvent f 1 = true ∧
          apart Reg.HRT_PAD_HOLD_GROUPS 0 f 1 = true ∧ apart Reg.PWR_STATUS_STATE 0 f 1 = true ∧
          apart Reg.SEC_DBG_NONCE_NONCE 0 f 1 = true := by decide
      obtain ⟨hown, hev, hpad, hstate, hnonce⟩ := hall f hf
      rw [hrd hown hev hpad hstate, hk, rd_wr_other _ _ hnonce]
  · rw [hrd (by decide) (by decide) (by decide) (by decide), hk, rd_wr_same _ _ _ _ (by decide), free_of_noCtl hmrest]
    exact Nat.mod_eq_of_lt (BitVec.isLt _)
  · refine raised_done _ ?_ _ _ _
    have hk0 : k.stamp none = s.stamp none := by
      rw [hk, stamp_wr _ _ (by decide), hm, measureFw, stamp_extend _ _ (by decide), noteWake_eq, stamp_wr _ _ (by decide),
        stamp_wr _ _ (by decide)]
    have hx0 : x.stamp none = k.stamp none := by
      rw [hxform, releasePads, stamp_wr _ _ (by decide)]
      rfl
    rw [hu, backToRun, stamp_wr _ _ (by decide), releasePads, stamp_wr _ _ (by decide), ← hk0, ← hx0]
    rfl
  · rw [done_pw, raise_pw, hu, pw_of_noCtl (backToRun_noCtl x), ← hxpw]

theorem exec_stateReqRun_doze {w : Writer} (hw : writable s w 0x08001C = true) (hent : s.pw.entering = none)
    (hst : s.rd Reg.PWR_STATUS_STATE 0 = 2) : ∃ t, exec (.stateReqRun w) s = .next t ∧ t.rd Reg.PWR_STATUS_STATE 0 = 0 ∧
      t.rd Reg.HRT_WAKE_SRC_LAST 0 = 2 := by
  have hform : s.stateReq 0 = ((s.noteWake 2).backToRun.wr Reg.PWR_STATE_REQ_REQ 0 0, .ok) := by
    rw [stateReq, if_neg (by decide), if_neg (by rw [hent]; decide), if_pos rfl, if_pos hst,
      wakeUp_doze hpow hq hflow hhot hst (by omega) (by omega)]
  refine ⟨wrote s _, exec_regWrite rfl hw hform, ?_, ?_⟩
  · rw [wrote_rd (by decide), rd_wr_other _ _ (by decide), backToRun_state]
  · rw [wrote_rd (by decide), rd_wr_other _ _ (by decide), rd_backToRun _ (by decide) (by decide), noteWake_last _ (by omega)]

end

/-- Settles O18: a wake by the source it notes, what it measures, and the state it returns to. -/
theorem wakes : Obligations.Wakes := by
  unfold Obligations.Wakes
  exact fun s n hpow hq hflow hhot => ⟨exec_wake_doze hpow hq hflow hhot, exec_wake_slumber hpow hq hflow hhot,
    fun w => exec_stateReqRun_doze hpow hq hflow hhot⟩

end Sys2Proof.Machine
end


section
/-!
The I3C common commands (R365, R366), direct writes (R367), the TAP (R482) and debug accesses (R481, R484).
-/
namespace Sys2Proof.Machine

open State Sys2Proof.Safety

/-! The I3C common commands. -/

/-- A transfer to a module that is awake wakes nothing. -/
theorem State.wakeUp_awake {s : State} (h : awake s) (n : Nat) : s.wakeUp n = s := by
  obtain ⟨h2, h3⟩ : s.rd Reg.PWR_STATUS_STATE 0 ≠ 2 ∧ s.rd Reg.PWR_STATUS_STATE 0 ≠ 3 := by simpa [awake] using h
  rw [wakeUp]
  exact if_pos (by simp [h2, h3])

section
variable {s : State} (hup : s.hearthUp = true)

theorem assigned_shown (x : State) (da : BitVec 7) : (x.assign da).rd Reg.HRT_I3C_DA 0 = da.toNat ∧
    (x.assign da).rdB Reg.HRT_I3C_DA_VALID 0 = true := by
  refine ⟨?_, ?_⟩
  · rw [assign, wrB, rd_wr_other _ _ (by decide), rd_wr_same _ _ _ _ (by decide)]
    exact Nat.mod_eq_of_lt da.isLt
  · rw [assign, rdB_wrB_same _ _ _ _ rfl]

/-- An assignment made by a command. -/
theorem exec_assigns {c : Instr} {da : BitVec 7} (hc : exec c s = act s (s.assign da)) : ∃ t, exec c s = .next t ∧
    t.rd Reg.HRT_I3C_DA 0 = da.toNat ∧ t.rdB Reg.HRT_I3C_DA_VALID 0 = true ∧ RegsOnly s t [0x000080] := by
  obtain ⟨hda, hvalid⟩ := assigned_shown s da
  refine ⟨(s.assign da).done s.pending, hc.trans (act_next ..), ?_, ?_, done_regsOnly ?_ fun a ha => ?_⟩
  · rw [done_rd _ (by decide), hda]
  · rw [done_rdB _ (by decide), hvalid]
  · rw [assign, wrB_noCtl, wr_noCtl]
  · rw [assign, word_wrB_listed ha (by decide), word_wr_listed ha (by decide)]

/-- A bit of HRT_I3C written by a command. -/
theorem exec_setsBit {c : Instr} {f : Field} {b : Bool} (hc : exec c s = act s (s.wrB f 0 b)) (hlen : f.len = 1)
    (hown : ownField f 0 = true) (hin : State.within f 0 [0x000080] = true) : ∃ t, exec c s = .next t ∧ t.rdB f 0 = b ∧
      RegsOnly s t [0x000080] := by
  refine ⟨(s.wrB f 0 b).done s.pending, hc.trans (act_next ..), ?_, done_regsOnly (wrB_noCtl ..) fun a ha => word_wrB_listed ha hin⟩
  rw [done_rdB _ hown, rdB_wrB_same _ _ _ _ hlen]

theorem exec_silent {c : Instr} {f : State → State} (hc : exec c s = act s (s.addressed f))
    (hda : s.rdB Reg.HRT_I3C_DA_VALID 0 = false) (hsa : s.rdB Reg.HRT_I3C_SA_VALID 0 = false) :
    ∃ t, exec c s = .next t ∧ RegsOnly s t [] := by
  refine ⟨s.done s.pending, ?_, done_regsOnly rfl fun _ _ => rfl⟩
  rw [hc, addressed, i3cHears, hda, hsa, if_neg (by simp), act_next]

include hup

theorem exec_rstdaa : ∃ t, exec .rstdaa s = .next t ∧ t.rdB Reg.HRT_I3C_DA_VALID 0 = false ∧ RegsOnly s t [0x000080] := by
  refine ⟨((s.wr Reg.HRT_I3C_DA 0 0).wrB Reg.HRT_I3C_DA_VALID 0 false).done s.pending, ?_, ?_, done_regsOnly ?_ fun a ha => ?_⟩
  · show act s (if s.hearthUp then _ else s) = _
    rw [if_pos hup, act_next]
  · rw [done_rdB _ (by decide), rdB_wrB_same _ _ _ _ rfl]
  · rw [wrB_noCtl, wr_noCtl]
  · rw [word_wrB_listed ha (by decide), word_wr_listed ha (by decide)]

/-- A reply to a module that is awake and has an address. -/
theorem exec_replies {c : Instr} {bs : State → List Byte} (hc : exec c s = act s (s.addressed fun x => x.reply (bs x)))
    (hawake : awake s) (haddr : s.rdB Reg.HRT_I3C_DA_VALID 0 = true ∨ s.rdB Reg.HRT_I3C_SA_VALID 0 = true) :
    ∃ t, exec c s = .next t ∧ t.kal.i3cReply = bs s ∧ RegsOnly { s with kal := { s.kal with i3cReply := bs s } } t [] := by
  have hhears : s.i3cHears = true := by
    rw [i3cHears, hup, Bool.true_and, Bool.or_eq_true]
    exact haddr
  refine ⟨(s.reply (bs s)).done s.pending, ?_, ?_, done_regsOnly (s := s.reply (bs s)) rfl fun _ _ => rfl⟩
  · rw [hc, addressed, if_pos hhears, wakeUp_awake hawake, act_next]
  · rw [done_kal, reply]

end

/-- Settles O20: each common command by the field it writes or the bytes it answers. -/
theorem i3cCommonCommands : Obligations.I3cCommonCommands := by
  unfold Obligations.I3cCommonCommands
  refine fun s da ev hup => ⟨fun hda => ⟨?_, fun sa hsa haddr hawake => ?_⟩, exec_rstdaa hup, fun hev => ⟨?_, ?_⟩,
    fun hda hsa c hc => ?_, fun hawake haddr => ⟨?_, ?_, ?_⟩⟩
  · refine exec_assigns ?_
    show act s (if s.hearthUp && !s.rdB Reg.HRT_I3C_DA_VALID 0 then s.assign da else s) = _
    rw [if_pos (by rw [hup, hda]; rfl)]
  · refine exec_assigns ?_
    show act s (if s.hearthUp && !s.rdB Reg.HRT_I3C_DA_VALID 0 && s.rdB Reg.HRT_I3C_SA_VALID 0 &&
      s.rd Reg.HRT_I3C_SA 0 == sa.toNat then (s.wakeUp 1).assign da else s) = _
    rw [if_pos (by rw [hup, hda, hsa, haddr]; simp), wakeUp_awake hawake]
  · refine exec_setsBit ?_ rfl (by decide) (by decide)
    show act s (if s.hearthUp && bit ev.toNat 0 then _ else s) = _
    rw [if_pos (by rw [hup, hev]; rfl)]
  · refine exec_setsBit ?_ rfl (by decide) (by decide)
    show act s (if s.hearthUp && bit ev.toNat 0 then _ else s) = _
    rw [if_pos (by rw [hup, hev]; rfl)]
  · rcases hc with rfl | rfl | rfl
    · exact exec_silent rfl hda hsa
    · exact exec_silent rfl hda hsa
    · exact exec_silent rfl hda hsa
  · obtain ⟨t, ht, hreply, hregs⟩ := exec_replies hup (c := .getpid) (bs := fun x => x.provisionalId) rfl hawake haddr
    refine ⟨t, ht, hreply, ?_⟩
    rw [hreply]
    exact hregs
  · obtain ⟨t, ht, -, hregs⟩ := exec_replies hup (c := .getbcr) (bs := fun _ => [0x06]) rfl hawake haddr
    exact ⟨t, ht, hregs⟩
  · obtain ⟨t, ht, -, hregs⟩ := exec_replies hup (c := .getdcr) (bs := fun _ => [0x00]) rfl hawake haddr
    exact ⟨t, ht, hregs⟩

/-! Private writes (R367). -/

namespace State

theorem i3cWords_short (s : State) (a : Nat) {tail : List Byte} (h : tail.length < 4) : s.i3cWords a tail = s := by
  match tail, h with
  | [], _ => rfl
  | [_], _ => rfl
  | [_, _], _ => rfl
  | [_, _, _], _ => rfl

/-- Whole words are written in order, and what is short of a word has no effect. -/
theorem i3cWords_words (a : Nat) {tail : List Byte} (h : tail.length < 4) (ws : List Word) (k : Nat) (s : State) :
    s.i3cWords (a + 4 * k) (ws.flatMap (fun w => toBytes 4 w.toNat) ++ tail) =
      (ws.zipIdx k).foldl (fun (x : State) w =>
        x.regWrite .i3c (a + 4 * w.2) w.1.toNat fun y => y.ctlWrite (a + 4 * w.2) w.1.toNat) s := by
  induction ws generalizing k s with
  | nil => exact i3cWords_short _ _ h
  | cons w ws ih =>
    have hw : ofBytes (toBytes 4 w.toNat) = w.toNat := (ofBytes_toBytes ..).trans (Nat.mod_eq_of_lt w.isLt)
    rw [List.flatMap_cons, List.append_assoc, List.zipIdx_cons, List.foldl_cons, ← ih]
    show (s.regWrite .i3c (a + 4 * k) (ofBytes (toBytes 4 w.toNat)) fun s => s.ctlWrite (a + 4 * k) (ofBytes (toBytes 4 w.toNat))).i3cWords
      (a + 4 * k + 4) _ = _
    rw [hw, Nat.mul_add, Nat.mul_one, Nat.add_assoc]
    rfl

/-- A direct write with a whole address. -/
theorem privateWrite_eq (s : State) {a : Nat} (ha : a < 2 ^ 24) (rest : List Byte) : s.privateWrite (toBytes 3 a ++ rest) =
    (s.privateData a rest).reply ((List.range 2048).map ((s.privateData a rest).i3cByte a)) := by
  have htake : (toBytes 3 a ++ rest).take 3 = toBytes 3 a := List.take_left' (length_toBytes 3 a)
  have hdrop : (toBytes 3 a ++ rest).drop 3 = rest := List.drop_left' (length_toBytes 3 a)
  have haddr : ofBytes (toBytes 3 a) = a := (ofBytes_toBytes ..).trans (Nat.mod_eq_of_lt ha)
  unfold privateWrite
  rw [if_neg (by simp), htake, hdrop, haddr]

end State

section
variable {s : State} {data : List Byte}

theorem exec_i3cPrivateWrite (hhears : s.i3cHears = true) (hawake : awake s) :
    exec (.i3cPrivateWrite data) s = .next ((s.privateWrite data).kSettle.done s.pending) := by
  show act s (s.addressed fun s => (s.privateWrite data).kSettle) = _
  rw [addressed, if_pos hhears, wakeUp_awake hawake, act_next]

/-- A direct write that writes nothing, where Kalec has nothing to do. -/
theorem exec_i3cPrivateWrite_idle {x : State} (hhears : s.i3cHears = true) (hawake : awake s) (hwait : s.kal.waiting = [])
    (hidle : s.kal.running = none) (hform : s.privateWrite data = x) (hx : ∃ bs, x = s.reply bs) :
    ∃ t, exec (.i3cPrivateWrite data) s = .next t ∧ RegsOnly x t [] := by
  obtain ⟨bs, hbs⟩ := hx
  have hsettle : x.kSettle = x := kSettle_of_idle (by rw [hbs]; exact hwait) (by rw [hbs]; exact hidle)
  refine ⟨x.done s.pending, by rw [exec_i3cPrivateWrite hhears hawake, hform, hsettle], ?_⟩
  have hpend : s.pending = x.pending := by rw [hbs]; rfl
  rw [hpend]
  exact done_regsOnly rfl fun _ _ => rfl

end

/-- Settles O21: a direct write by the area its address lies in. -/
theorem i3cPrivateWrites : Obligations.I3cPrivateWrites := by
  unfold Obligations.I3cPrivateWrites
  intro s a data tail ws ha htail
  refine ⟨fun hdeaf => ?_, fun hhears hawake => ?_⟩
  · refine ⟨s.done s.pending, ?_, done_regsOnly rfl fun _ _ => rfl⟩
    show act s (s.addressed _) = _
    rw [addressed, if_neg (by rw [hdeaf]; decide), act_next]
  · intro box o sent read
    refine ⟨fun hwait hidle => ?_, fun hne hbox h4 h8 => ?_, fun hne hbox h8 hwait hidle => ?_, fun hne hbox => ?_,
      fun hlen hwait hidle => ?_⟩
    · refine exec_i3cPrivateWrite_idle hhears hawake hwait hidle ?_ ⟨_, rfl⟩
      have hform := s.privateWrite_eq ha []
      rw [List.append_nil] at hform
      exact hform
    · have hdata : s.privateData a data = s.areaWrite (Fin.ofNat 16 (a / 0x1000)) (o - 0x400) data := by
        have hm : Fin.ofNat 16 (a / 0x1000 % 16) = Fin.ofNat 16 (a / 0x1000) := Fin.ext (Nat.mod_mod ..)
        rw [privateData, if_neg hne, if_pos, hm]
        rw [Bool.and_eq_true]
        exact ⟨hbox, by simp only [Machine.within, Bool.and_eq_true, decide_eq_true_eq]; omega⟩
      rw [exec_i3cPrivateWrite hhears hawake, privateWrite_eq _ ha, hdata]
      rfl
    · refine exec_i3cPrivateWrite_idle hhears hawake hwait hidle ?_ ⟨_, rfl⟩
      have hdata : s.privateData a data = s := by
        rw [privateData, if_neg hne, if_neg, if_pos]
        · rw [Bool.and_eq_true, decide_eq_true_eq]
          exact ⟨hbox, h8⟩
        · rw [Bool.and_eq_true]
          rintro ⟨-, h⟩
          simp only [Machine.within, Bool.and_eq_true, decide_eq_true_eq] at h
          omega
      rw [privateWrite_eq _ ha, hdata]
      rfl
    · have hdata : s.privateData a sent = ws.zipIdx.foldl (fun (x : State) w =>
          x.regWrite .i3c (a + 4 * w.2) w.1.toNat fun y => y.ctlWrite (a + 4 * w.2) w.1.toNat) s := by
        rw [privateData, if_neg hne, if_neg, if_neg]
        · exact i3cWords_words a htail ws 0 s
        · rw [Bool.and_eq_true, decide_eq_true_eq]
          rintro ⟨hb, h⟩
          rcases hbox with hbox | hbox
          · rw [show box = true from hb] at hbox
            cases hbox
          · omega
        · rw [Bool.and_eq_true]
          rintro ⟨hb, h⟩
          simp only [Machine.within, Bool.and_eq_true, decide_eq_true_eq] at h
          rcases hbox with hbox | hbox
          · rw [show box = true from hb] at hbox
            cases hbox
          · omega
      rw [exec_i3cPrivateWrite hhears hawake, privateWrite_eq _ ha, hdata]
      rfl
    · have hform : s.privateWrite data = s := by
        unfold privateWrite
        exact if_pos hlen
      have hsettle : s.kSettle = s := kSettle_of_idle hwait hidle
      refine ⟨s.done s.pending, by rw [exec_i3cPrivateWrite hhears hawake, hform, hsettle], done_regsOnly rfl fun _ _ => rfl⟩

/-! The TAP (R482, R483). -/

/-- The TAP with an instruction of the boundary register selected. -/
def State.tapChosen (s : State) (code : Nat) (d : PinDrive) : State :=
  { s with tap := { s.tap with ir := code, bypassed := !s.scanOk, drive := if s.scanOk then d else .functional } }

/-- A command that changes the TAP and how many free values were taken. -/
theorem tap_regsOnly {s : State} {c : Instr} {tap : Tap} {n : Nat} (hc : exec c s = act s { s with tap := tap, free := n }) :
    ∃ t, exec c s = .next t ∧ RegsOnly { s with tap := tap, free := n } t [] :=
  ⟨_, hc.trans (act_next ..), done_regsOnly (s := { s with tap := tap, free := n }) rfl fun _ _ => rfl⟩

section
variable {s : State} (hup : s.tapUp = true)
include hup

theorem tapSelect_up (code : Nat) (ok : Bool) (d : PinDrive) : s.tapSelect code ok d =
    { s with tap := { s.tap with ir := code, bypassed := !ok, drive := if ok then d else .functional } } := by
  rw [tapSelect, if_pos hup]

/-- An instruction that selects a register of its own; the scan then finds it. -/
theorem exec_tapSelects {c : Instr} {code : Nat} (hc : exec c s = act s (s.tapSelect code true .functional)) :
    ∃ t, exec c s = .next t ∧ t.tap = { s.tap with ir := code, bypassed := false, drive := .functional } ∧
      RegsOnly { s with tap := { s.tap with ir := code, bypassed := false, drive := .functional } } t [] := by
  rw [tapSelect_up hup] at hc
  exact ⟨_, hc.trans (act_next ..), done_tap _ _,
    done_regsOnly (s := { s with tap := { s.tap with ir := code, bypassed := false, drive := .functional } }) rfl fun _ _ => rfl⟩

/-- An instruction that drives the pins where the port state permits it. -/
theorem exec_tapDrives {c : Instr} {code : Nat} {d : PinDrive} (hc : exec c s = act s (s.tapSelect code s.scanOk d)) :
    ∃ t, exec c s = .next t ∧ RegsOnly { s with
      tap := { s.tap with ir := code, bypassed := !s.scanOk, drive := if s.scanOk then d else .functional } } t [] := by
  rw [tapSelect_up hup] at hc
  exact tap_regsOnly hc

/-- An instruction whose scan the port state does not permit selects bypass. -/
theorem exec_scan_refused {c : Instr} {code : Nat} {d : PinDrive} 
    (hc : exec c s = act s (s.tapSelect code s.scanOk d)) : ∃ t, exec c s = .next t ∧
      RegsOnly { s with
        tap := { s.tap with ir := code, bypassed := !s.scanOk, drive := if s.scanOk then d else .functional }
        free := s.free } t [] := by
  rw [tapSelect_up hup] at hc
  exact tap_regsOnly hc

/-- An instruction whose scan captures the pins and takes the bits scanned in. -/
theorem exec_scan_taken {c : Instr} {code : Nat} {d : PinDrive} {b : BitVec 16}
    (hc : exec c s = act s ((s.tapSelect code s.scanOk d).scanPins b)) : ∃ t, exec c s = .next t ∧
      RegsOnly { s with
        tap := { s.tap with
          ir := code, bypassed := !s.scanOk, drive := if s.scanOk then d else .functional, boundary := b,
          captured := (s.tapChosen code d).pinCapture }
        free := s.free + 1 } t [] := by
  have hform : (s.tapSelect code s.scanOk d).scanPins b = { s with
      tap := { s.tap with
        ir := code, bypassed := !s.scanOk, drive := if s.scanOk then d else .functional, boundary := b,
        captured := (s.tapChosen code d).pinCapture }
      free := s.free + 1 } := by
    rw [tapSelect_up hup]
    rfl
  exact tap_regsOnly (hc.trans (congrArg (act s) hform))

/-- An instruction under which nothing is scanned in, as a free value has it. -/
theorem exec_scan_none {c : Instr} {code : Nat} {d : PinDrive} (hc : exec c s = act s (s.tapSelect code s.scanOk d).tick) :
    ∃ t, exec c s = .next t ∧ RegsOnly { s with
      tap := { s.tap with ir := code, bypassed := !s.scanOk, drive := if s.scanOk then d else .functional }
      free := s.free + 1 } t [] := by
  rw [tapSelect_up hup] at hc
  exact tap_regsOnly hc

theorem exec_samplePreload {scan : BitVec 16} (hok : s.scanOk = true) : exec (.samplePreload scan) s =
    act s ((s.tapSelect 0x02 s.scanOk .functional).scanPins scan) :=
  congrArg (act s) (if_pos (by rw [hup, hok]; rfl))

theorem exec_extest_taken {b : BitVec 16} (hok : s.scanOk = true) (hb : Config.scanIn s.free = some b) : exec .extest s =
    act s ((s.tapSelect 0x04 s.scanOk .boundary).scanPins b) := by
  refine congrArg (act s) ((if_pos (by rw [hup, hok]; rfl)).trans ?_)
  rw [hb]

theorem exec_extest_none (hok : s.scanOk = true) (hb : Config.scanIn s.free = none) : exec .extest s =
    act s (s.tapSelect 0x04 s.scanOk .boundary).tick := by
  refine congrArg (act s) ((if_pos (by rw [hup, hok]; rfl)).trans ?_)
  rw [hb]

end

/-- Settles O22: each instruction by the register it selects and what a scan takes. -/
theorem tapInstructions : Obligations.TapInstructions := by
  unfold Obligations.TapInstructions
  intro s scan hup ok sel scanned
  refine ⟨fun c hc => ?_, ?_, ?_, ?_, ?_, ?_⟩
  · have hsel : exec c s = act s (s.tapSelect 0x01 true .functional) := by rcases hc with rfl | rfl <;> rfl
    obtain ⟨t, ht, htap, hregs⟩ := exec_tapSelects hup hsel
    exact ⟨t, ht, by simp [drCapture, htap], hregs⟩
  · obtain ⟨t, ht, htap, hregs⟩ := exec_tapSelects hup (c := .bypass) rfl
    exact ⟨t, ht, by rw [drCapture, htap]; rfl, hregs⟩
  · unfold scanned
    intro u
    by_cases hok : ok = true
    · rw [if_pos hok, if_pos hok]
      exact exec_scan_taken hup (exec_samplePreload hup hok)
    · rw [if_neg hok, if_neg hok]
      exact exec_scan_refused hup (congrArg (act s) (if_neg (by rw [Bool.and_eq_true]; exact fun h => hok h.2)))
  · unfold scanned
    intro u
    by_cases hok : ok = true
    · rw [if_pos hok, if_pos hok]
      cases hb : Config.scanIn s.free with
      | some b => exact exec_scan_taken hup (exec_extest_taken hup hok hb)
      | none => exact exec_scan_none hup (exec_extest_none hup hok hb)
    · rw [if_neg hok, if_neg hok]
      exact exec_scan_refused hup (congrArg (act s) (if_neg (by rw [Bool.and_eq_true]; exact fun h => hok h.2)))
  · exact exec_tapDrives hup rfl
  · exact exec_tapDrives hup rfl

/-! Debug accesses (R481, R484). -/

section
variable {s : State} {dr : BitVec 84} (hup : s.tapUp = true)
include hup

/-- An access under way leads to what it performs. -/
theorem exec_dbgaccDone {x : State} (hpend : s.tap.pending = some dr) (hform : s.dbgPerform dr = x) :
    exec .dbgaccDone s = .next (x.done s.pending) := by
  show act s (match s.tap.pending with
    | some dr => if s.tapUp then s.dbgPerform dr else s
    | none => s) = _
  rw [hpend]
  show act s (if s.tapUp then s.dbgPerform dr else s) = _
  rw [if_pos hup, hform, act_next]

/-- An access that ends in the DBGACC register alone. -/
theorem exec_dbgaccDone_ends {data status : Nat} (hpend : s.tap.pending = some dr) (hform : s.dbgPerform dr = s.dbgEnd dr data status) :
    ∃ t, exec .dbgaccDone s = .next t ∧
      RegsOnly { s with tap := { s.tap with pending := none, dbg := State.dbgResult dr data status } } t [] :=
  ⟨_, exec_dbgaccDone hup hpend hform, done_regsOnly (s := s.dbgEnd dr data status) rfl fun _ _ => rfl⟩

theorem exec_dbgaccDone_stays (hpend : s.tap.pending = some dr) (hform : s.dbgPerform dr = s) :
    ∃ t, exec .dbgaccDone s = .next t ∧ RegsOnly s t [] :=
  ⟨_, exec_dbgaccDone hup hpend hform, done_regsOnly rfl fun _ _ => rfl⟩

theorem exec_dbgacc_starts (hport : s.rd Reg.SEC_LC_PORT 0 = 1 ∨ s.rd Reg.SEC_LC_PORT 0 = 3)
    (hop : bits dr.toNat 1 0 = 1 ∨ bits dr.toNat 1 0 = 2) : exec (.dbgacc dr) s = act s { s with tap := { s.tap with
      ir := 0x10, bypassed := false, drive := .functional, pending := some dr, dbg := State.dbgResult dr 0 2 } } := by
  have hok : (s.rd Reg.SEC_LC_PORT 0 == 1 || s.rd Reg.SEC_LC_PORT 0 == 3) = true := by simpa using hport
  show act s (if s.tapUp && (s.rd Reg.SEC_LC_PORT 0 == 1 || s.rd Reg.SEC_LC_PORT 0 == 3) &&
    (bits dr.toNat 1 0 == 1 || bits dr.toNat 1 0 == 2) then _ else _) = _
  rw [hok, tapSelect_up hup, if_pos (by rw [hup]; simpa using hop)]
  rfl

theorem exec_dbgacc_selects {ok : Bool} (hport : (s.rd Reg.SEC_LC_PORT 0 == 1 || s.rd Reg.SEC_LC_PORT 0 == 3) = ok)
    (hnone : (ok && (bits dr.toNat 1 0 == 1 || bits dr.toNat 1 0 == 2)) = false) : exec (.dbgacc dr) s = act s { s with
      tap := { s.tap with ir := 0x10, bypassed := !ok, drive := .functional } } := by
  show act s (if s.tapUp && (s.rd Reg.SEC_LC_PORT 0 == 1 || s.rd Reg.SEC_LC_PORT 0 == 3) &&
    (bits dr.toNat 1 0 == 1 || bits dr.toNat 1 0 == 2) then _ else _) = _
  rw [hport, tapSelect_up hup, if_neg (by rw [hup, Bool.true_and, hnone]; decide)]
  cases ok <;> rfl

end

section
variable {s : State} {dr : BitVec 84}

/-- An access where the port state permits what it does. -/
theorem dbgPerform_permitted (hport : s.rd Reg.SEC_LC_PORT 0 = 1 ∨ s.rd Reg.SEC_LC_PORT 0 = 3)
    (hfull : bits dr.toNat 1 0 ≠ 2 ∨ s.rd Reg.SEC_LC_PORT 0 = 3) :
    (s.rd Reg.SEC_LC_PORT 0 = 0 || s.rd Reg.SEC_LC_PORT 0 = 2 : Bool) = false ∧
      (decide (bits dr.toNat 1 0 = 2) && !decide (s.rd Reg.SEC_LC_PORT 0 = 3)) = false := by
  simp only [Bool.or_eq_false_iff, decide_eq_false_iff_not, Bool.and_eq_false_iff, Bool.not_eq_false', decide_eq_true_eq]
  omega

/-- An access of the control space that the port state permits. -/
theorem dbgPerform_ctl (hport : s.rd Reg.SEC_LC_PORT 0 = 1 ∨ s.rd Reg.SEC_LC_PORT 0 = 3)
    (hfull : bits dr.toNat 1 0 ≠ 2 ∨ s.rd Reg.SEC_LC_PORT 0 = 3) (hctl : bit dr.toNat 2 = false) : s.dbgPerform dr =
      if bits dr.toNat 1 0 = 2 then
        if s.heldBack .debug (bits dr.toNat 43 3 / 4 * 4) then s
        else (s.dbgCtlWrite (bits dr.toNat 43 3 / 4 * 4) (bits dr.toNat 75 44)).1.dbgEnd dr (bits dr.toNat 75 44)
          (if (s.dbgCtlWrite (bits dr.toNat 43 3 / 4 * 4) (bits dr.toNat 75 44)).2 then 0 else 1)
      else (s.dbgEnd dr (s.readWord (bits dr.toNat 43 3 / 4 * 4) false).toNat 0).tick := by
  obtain ⟨hopen, hmay⟩ := dbgPerform_permitted hport hfull
  unfold dbgPerform
  rw [if_neg (by rw [hopen]; decide), if_neg (by rw [hmay]; decide), if_pos (by rw [hctl]; rfl)]

/-- An access of memory that the port state permits, with memory up. -/
theorem dbgPerform_mem (hport : s.rd Reg.SEC_LC_PORT 0 = 1 ∨ s.rd Reg.SEC_LC_PORT 0 = 3)
    (hfull : bits dr.toNat 1 0 ≠ 2 ∨ s.rd Reg.SEC_LC_PORT 0 = 3) (hspace : bit dr.toNat 2 = true) : s.dbgPerform dr =
      if !s.memUp then s
      else if bits dr.toNat 1 0 = 2 then
        if resPage ≤ bits dr.toNat 43 3 / 4 * 4 / 2 ^ 18 then s.dbgEnd dr (bits dr.toNat 75 44) 1
        else (s.store dbgVia (bits dr.toNat 43 3 / 4 * 4) (toBytes 4 (bits dr.toNat 75 44))).dbgEnd dr (bits dr.toNat 75 44) 0
      else if s.poisoned (bits dr.toNat 43 3 / 4 * 4) 4 then (s.readRange dbgVia (bits dr.toNat 43 3 / 4 * 4) 4).dbgEnd dr 0 3
      else (s.readRange dbgVia (bits dr.toNat 43 3 / 4 * 4) 4).dbgEnd dr (s.peek (bits dr.toNat 43 3 / 4 * 4) 4) 0 := by
  obtain ⟨hopen, hmay⟩ := dbgPerform_permitted hport hfull
  unfold dbgPerform
  rw [if_neg (by rw [hopen]; decide), if_neg (by rw [hmay]; decide), if_neg (by rw [hspace]; decide)]

theorem dbgPerform_denied (hport : s.rd Reg.SEC_LC_PORT 0 = 1) (hop : bits dr.toNat 1 0 = 2) :
    s.dbgPerform dr = s.dbgEnd dr (bits dr.toNat 75 44) 1 := by
  unfold dbgPerform
  rw [if_neg (by simp [hport]), if_pos (by simp [hport, hop])]

theorem dbgPerform_closed (hport : s.rd Reg.SEC_LC_PORT 0 = 0 ∨ s.rd Reg.SEC_LC_PORT 0 = 2) :
    s.dbgPerform dr = s.dbgEnd dr 0 1 := by
  unfold dbgPerform
  rw [if_pos (by simpa using hport)]

end

/-- Settles O23: each access by the branch of the port state, the space and the direction that it takes. -/
theorem debugAccesses : Obligations.DebugAccesses := by
  unfold Obligations.DebugAccesses
  intro s dr hup port op a v chosen ended fence
  refine ⟨fun hport => ⟨fun hop => ?_, fun hop => ?_⟩, fun hport => ?_, fun hpend => ⟨fun hport hctl hop => ?_,
    fun hport hctl hop hheld => ?_, fun hport hctl hop hheld hfence himage => ?_, fun hport hctl hop hheld hfence => ?_,
    fun hmem hspace => ⟨fun hport hop hin => ?_, fun hport hop hres => ?_, fun hport hop => ?_⟩, fun hmem hspace hport => ?_,
    fun hport hop => ?_, fun hport => ?_⟩⟩
  · exact ⟨_, (exec_dbgacc_starts hup hport hop).trans (act_next ..), done_regsOnly (s := { s with
      tap := { chosen false with pending := some dr, dbg := State.dbgResult dr 0 2 } }) rfl fun _ _ => rfl⟩
  · have hok : (s.rd Reg.SEC_LC_PORT 0 == 1 || s.rd Reg.SEC_LC_PORT 0 == 3) = true := by simpa using hport
    have hnone : (true && (bits dr.toNat 1 0 == 1 || bits dr.toNat 1 0 == 2)) = false := by
      rcases hop with hop | hop <;> rw [show bits dr.toNat 1 0 = _ from hop] <;> rfl
    exact ⟨_, (exec_dbgacc_selects hup hok hnone).trans (act_next ..),
      done_regsOnly (s := { s with tap := chosen false }) rfl fun _ _ => rfl⟩
  · have hok : (s.rd Reg.SEC_LC_PORT 0 == 1 || s.rd Reg.SEC_LC_PORT 0 == 3) = false := by
      rcases hport with hport | hport <;> rw [show s.rd Reg.SEC_LC_PORT 0 = _ from hport] <;> rfl
    exact ⟨_, (exec_dbgacc_selects hup hok (by rw [Bool.false_and])).trans (act_next ..),
      done_regsOnly (s := { s with tap := chosen true }) rfl fun _ _ => rfl⟩
  · have hform : s.dbgPerform dr = (s.dbgEnd dr (s.readWord a false).toNat 0).tick := by
      rw [dbgPerform_ctl hport (.inl hop) hctl, if_neg hop]
    exact ⟨_, exec_dbgaccDone hup hpend hform, done_regsOnly
      (s := { s with free := s.free + 1, tap := ended (s.readWord a false).toNat 0 }) rfl fun _ _ => rfl⟩
  · refine exec_dbgaccDone_stays hup hpend ?_
    rw [dbgPerform_ctl (.inr hport) (.inr hport) hctl, if_pos hop, if_pos hheld]
  · refine exec_dbgaccDone hup hpend ?_
    have hlc : decide (2 ≤ s.lifecycle) = decide (2 ≤ s.rd Reg.SEC_LC_LC 0) := rfl
    have hwrite : s.dbgCtlWrite a v = (s.regWrite .debug a v fun s => s.ctlWrite a v,
        (s.regWrite .debug a v fun s => s.ctlWrite a v).wres != .denied) := by
      have hreg : (decide (s.stage = 5) && !hasReg a) = false := by
        rcases himage with h | h <;> simp [h]
      rw [dbgCtlWrite, if_neg, if_neg (by rw [hreg]; decide)]
      simpa [fence, hlc] using hfence
    rw [dbgPerform_ctl (.inr hport) (.inr hport) hctl, if_pos hop, if_neg (by rw [hheld]; decide), hwrite]
    refine congrArg (State.dbgEnd _ dr v) ?_
    by_cases hden : (s.regWrite .debug a v fun s => s.ctlWrite a v).wres = KStat.denied
    · rw [if_pos hden, if_neg (by simpa using hden)]
    · rw [if_neg hden, if_pos (by simpa using hden)]
  · refine exec_dbgaccDone hup hpend ?_
    have hlc : decide (2 ≤ s.lifecycle) = decide (2 ≤ s.rd Reg.SEC_LC_LC 0) := rfl
    have hwrite : s.dbgCtlWrite a v = s.clearFence ((a - 0x050000) / 0x1000) v := by
      rw [dbgCtlWrite, if_pos]
      simpa [fence, hlc] using hfence
    rw [dbgPerform_ctl (.inr hport) (.inr hport) hctl, if_pos hop, if_neg (by rw [hheld]; decide), hwrite]
  · refine exec_dbgaccDone hup hpend ?_
    rw [dbgPerform_mem (.inr hport) (.inr hport) hspace, if_neg (by rw [hmem]; decide), if_pos hop, if_neg (by omega)]
  · refine exec_dbgaccDone_ends hup hpend ?_
    rw [dbgPerform_mem (.inr hport) (.inr hport) hspace, if_neg (by rw [hmem]; decide), if_pos hop, if_pos hres]
  · refine exec_dbgaccDone hup hpend ?_
    rw [dbgPerform_mem hport (.inl hop) hspace, if_neg (by rw [hmem]; decide), if_neg hop]
    by_cases hpoison : s.poisoned a 4 = true
    · rw [if_pos hpoison, if_pos hpoison, if_pos hpoison]
    · rw [if_neg hpoison, if_neg hpoison, if_neg hpoison]
  · refine exec_dbgaccDone_stays hup hpend ?_
    rw [dbgPerform_mem (by omega) (by omega) hspace, if_pos (by rw [hmem]; rfl)]
  · exact exec_dbgaccDone_ends hup hpend (dbgPerform_denied hport hop)
  · exact exec_dbgaccDone_ends hup hpend (dbgPerform_closed hport)

end Sys2Proof.Machine
end


section
/-!
The plain write of a register (R15, R19), and the registers of the network (R329, R331, R341, R360, R363).
-/
namespace Sys2Proof.Machine

open State Sys2Proof.Safety

/-! The bits of a plain write. -/

theorem testBit_putBits_eq {x hi lo v : Nat} (h : lo ≤ hi) (b : Nat) :
    (putBits x hi lo v).testBit b = if lo ≤ b ∧ b ≤ hi then v.testBit (b - lo) else x.testBit b := by
  by_cases hb : lo ≤ b ∧ b ≤ hi
  · have hsame := bits_putBits_same x hi lo v h
    have hbit := congrArg (fun n => n.testBit (b - lo)) hsame
    simp only [bits, Nat.testBit_mod_two_pow, Nat.testBit_shiftRight] at hbit
    rw [if_pos hb, ← show lo + (b - lo) = b by omega]
    simpa [show b - lo < hi + 1 - lo by omega] using hbit
  · rw [if_neg hb, testBit_putBits h (by omega)]

theorem testBit_bits (x hi lo b : Nat) : (bits x hi lo).testBit b = (decide (b < hi + 1 - lo) && x.testBit (lo + b)) := by
  rw [bits, Nat.testBit_mod_two_pow, Nat.testBit_shiftRight]

namespace State

section
variable {s : State} {a v : Nat}

/-- A bit of a register after a plain write. -/
theorem getLsbD_plainWrite {b : Nat} (hb : b < 32) : ((s.plainWrite a v).word a).getLsbD b =
    ((if (owMask a).testBit b then v.testBit b else (s.word a).getLsbD b) && !((ow1cMask a).testBit b && v.testBit b)) := by
  rw [plainWrite, word_setWord_same]
  simp only [BitVec.getLsbD_and, BitVec.getLsbD_or, BitVec.getLsbD_not, BitVec.getLsbD_ofNat, hb, decide_true, Bool.true_and]
  cases (owMask a).testBit b <;> cases v.testBit b <;> cases (ow1cMask a).testBit b <;> simp

theorem word_plainWrite_other {b : Nat} (h : b ≠ a) : (s.plainWrite a v).word b = s.word b := word_setWord_other _ _ h

theorem plainWrite_noCtl (s : State) (a v : Nat) : (s.plainWrite a v).noCtl = s.noCtl := setWord_noCtl ..

/-- A field of a register of one word with the bits of a plain write. -/
theorem rd_plainWrite {f : Field} {i : Nat} (haddr : fieldAddr f i = a) (hone : fieldWords f = 1) (hlen : f.lo % 32 + f.len ≤ 32)
    (hmask : ∀ k, k < f.len → (owMask a).testBit (f.lo % 32 + k) = true) (hclear : ow1cMask a = 0) :
    (s.plainWrite a v).rd f i = v >>> (f.lo % 32) % 2 ^ f.len := by
  rw [rd_of_word _ hone, haddr]
  refine Nat.eq_of_testBit_eq fun k => ?_
  rw [Nat.testBit_mod_two_pow, Nat.testBit_mod_two_pow, Nat.testBit_shiftRight, Nat.testBit_shiftRight]
  by_cases hk : k < f.len
  · rw [← BitVec.getLsbD, getLsbD_plainWrite (by omega), hmask k hk, hclear]
    simp
  · simp [hk]

/-- A field of another register than the one written. -/
theorem rd_plainWrite_other {f : Field} {i : Nat} (h : a < fieldAddr f i ∨ fieldAddr f i + 4 * fieldWords f ≤ a) :
    (s.plainWrite a v).rd f i = s.rd f i := rd_congr fun b h1 h2 => word_plainWrite_other (by omega)

/-- A plain write of a register whose owner's bits are one field's is the write of that field. -/
theorem plainWrite_eq_wr {f : Field} {i : Nat} (haddr : fieldAddr f i = a) (hone : fieldWords f = 1)
    (hpos : 0 < f.len) (hmask : owMask a = (2 ^ f.len - 1) * 2 ^ (f.lo % 32)) (hclear : ow1cMask a = 0) :
    s.plainWrite a v = s.wr f i (v >>> (f.lo % 32) % 2 ^ f.len) := by
  have hword : s.wordsAt a 1 = (s.word a).toNat := by simp [wordsAt]
  have hset (x : Nat) : s.setWordsAt a 1 x = s.setWord a (BitVec.ofNat 32 x) := rfl
  rw [wr, haddr, hone, hword, hset, plainWrite]
  refine congrArg (s.setWord a) (BitVec.eq_of_getLsbD_eq fun b hb => ?_)
  have hin : (owMask a).testBit b = decide (f.lo % 32 ≤ b ∧ b ≤ f.lo % 32 + f.len - 1) := by
    have hiff : (f.lo % 32 ≤ b ∧ b ≤ f.lo % 32 + f.len - 1) ↔ (f.lo % 32 ≤ b ∧ b - f.lo % 32 < f.len) := by omega
    rw [hmask, Nat.testBit_mul_two_pow, Nat.testBit_two_pow_sub_one, decide_eq_decide.mpr hiff, Bool.decide_and]
  have hplain := getLsbD_plainWrite (s := s) (a := a) (v := v) hb
  rw [plainWrite, word_setWord_same] at hplain
  rw [hplain, hin, hclear, BitVec.getLsbD_ofNat, testBit_putBits_eq (by omega), Nat.testBit_mod_two_pow, Nat.testBit_shiftRight]
  by_cases h : f.lo % 32 ≤ b ∧ b ≤ f.lo % 32 + f.len - 1
  · simp only [h, hb]
    simp [show f.lo % 32 + (b - f.lo % 32) = b by omega, show b - f.lo % 32 < f.len by omega]
  · simp [h, hb, BitVec.getLsbD]

end

end State

/-! Which fields lie at an address. -/

/-- A bank covers no address outside it. -/
theorem covers_outside {f : Field} {a : Nat} (hpos : 0 < f.stride) (h : a < f.base ∨ f.base + f.stride * f.count ≤ a) :
    f.covers a = false := by
  simp only [Field.covers, Field.indexOf, Bool.and_eq_false_iff]
  rcases h with h | h
  · exact .inl (.inl (.inl (.inl (decide_eq_false (by omega)))))
  · refine .inl (.inl (.inr ?_))
    have hle : f.count ≤ (a - f.base) / f.stride := (Nat.le_div_iff_mul_le hpos).mpr (by rw [Nat.mul_comm]; omega)
    exact decide_eq_false (Nat.not_lt.mpr hle)

/-- Beside NET_EPOCH no row of the register tables lies in its bank. -/
theorem beside_epoch : ∀ f ∈ Reg.all, f = Reg.NET_EPOCH_EPOCH ∨
    0 < f.stride ∧ (0x064160 ≤ f.base ∨ f.base + f.stride * f.count ≤ 0x064000) := by decide +kernel

/-- The rows of a way of writing that cover an address of NET_EPOCH. -/
theorem covering_epoch (u : Fin 88) (acc : Acc) : Reg.all.filter (fun f => f.acc == acc && f.covers (0x064000 + 4 * u.val)) =
    if acc = .ow then [Reg.NET_EPOCH_EPOCH] else [] := by
  have honly : Reg.all.filter (fun f => decide (f = Reg.NET_EPOCH_EPOCH)) = [Reg.NET_EPOCH_EPOCH] := by decide +kernel
  have hcov : (Reg.NET_EPOCH_EPOCH).covers (0x064000 + 4 * u.val) = true := by
    have hidx : (Reg.NET_EPOCH_EPOCH).indexOf (0x064000 + 4 * u.val) = u.val := by
      show (0x064000 + 4 * u.val - 0x064000) / 4 = u.val
      omega
    have hbit : (Reg.NET_EPOCH_EPOCH).wordBit (0x064000 + 4 * u.val) = 0 := by
      show 8 * ((0x064000 + 4 * u.val - 0x064000) % 4) = 0
      omega
    simp only [Field.covers, hidx, hbit, Bool.and_eq_true, decide_eq_true_eq]
    exact ⟨⟨⟨⟨Nat.le_add_right .., by omega⟩, u.isLt⟩, by decide⟩, by decide⟩
  have hcongr : Reg.all.filter (fun f => f.acc == acc && f.covers (0x064000 + 4 * u.val)) =
      Reg.all.filter (fun f => decide (acc = .ow) && decide (f = Reg.NET_EPOCH_EPOCH)) := by
    refine List.filter_congr fun f hf => ?_
    rcases beside_epoch f hf with rfl | ⟨hpos, hout⟩
    · rw [hcov]
      cases acc <;> rfl
    · rw [covers_outside hpos (by omega), decide_eq_false (p := f = Reg.NET_EPOCH_EPOCH), Bool.and_false, Bool.and_false]
      rintro rfl
      revert hout
      decide
  rw [hcongr]
  split
  case isTrue h => simpa [h] using honly
  case isFalse h => simp [h]

theorem epoch_masks (u : Fin 88) : owMask (0x064000 + 4 * u.val) = 0xFFFF ∧ ow1cMask (0x064000 + 4 * u.val) = 0 := by
  rw [owMask, ow1cMask, covering_epoch u .ow, covering_epoch u .ow1c]
  refine ⟨?_, rfl⟩
  have hbit : (Reg.NET_EPOCH_EPOCH).wordBit (0x064000 + 4 * u.val) = 0 := by
    show 8 * ((0x064000 + 4 * u.val - 0x064000) % 4) = 0
    omega
  simp only [if_true, List.foldl_cons, List.foldl_nil, Field.mask, hbit]
  rfl

/-! The network's registers. -/

theorem fi_masks : ∀ p : Fin 8, owMask (0x060040 + 0x400 * p.val) = 0xFFFF ∧ ow1cMask (0x060040 + 0x400 * p.val) = 0 := by
  decide +kernel

theorem portCfg_masks : ∀ p : Fin 8, owMask (0x060000 + 0x400 * p.val) = 0x7FFFF ∧ ow1cMask (0x060000 + 0x400 * p.val) = 0 := by
  decide +kernel

theorem devId_masks : owMask 0x062000 = 0xFFFF ∧ ow1cMask 0x062000 = 0 := by decide +kernel

theorem bit_putBits_above (x hi lo v : Nat) {b : Nat} (h : lo ≤ hi) (hb : hi < b) : bit (putBits x hi lo v) b = bit x b := by
  have hbits := bits_putBits_above x hi lo v b b h hb
  simp only [bits, show b + 1 - b = 1 by omega, pow_one] at hbits
  rw [bit, bit, hbits]

theorem bit_putBits_zero (x v : Nat) : bit (putBits x 0 0 v) 0 = (v % 2 == 1) :=
  congrArg (· == 1) (bits_putBits_same x 0 0 v (le_refl 0))

section
variable {s : State} {w : Writer} {p : Fin 8} {v : Word}

/-- A field of NET_FI_CTRL after a plain write. -/
theorem rd_fiWrite {f : Field} {x : Nat} (haddr : fieldAddr f p = 0x060040 + 0x400 * p.val) (hone : fieldWords f = 1)
    (hlen : f.lo % 32 + f.len ≤ 16) : (s.plainWrite (0x060040 + 0x400 * p.val) x).rd f p = x >>> (f.lo % 32) % 2 ^ f.len := by
  obtain ⟨hmask, hclear⟩ := fi_masks p
  have hall : ∀ k, k < 16 → Nat.testBit 0xFFFF k = true := by decide
  exact rd_plainWrite haddr hone (by omega) (fun k hk => by rw [hmask]; exact hall _ (by omega)) hclear

theorem exec_fiDisarm (hw : writable s w (0x060040 + 0x400 * p.val) = true) (hdepth : bits v.toNat 15 8 ≠ 0) :
    ∃ t, exec (.fiDisarm w p v) s = .next t ∧ t.rdB Reg.NET_FI_CTRL_ARM p = false ∧ t.rdB Reg.NET_PORT_STATUS_FI_ARMED p = false ∧
      RegsOnly { s with wres := .ok } t [0x060040 + 0x400 * p.val, 0x060004 + 0x400 * p.val] := by
  obtain ⟨x, hx⟩ : ∃ x, x = putBits v.toNat 0 0 0 := ⟨_, rfl⟩
  have hbit : bit x 0 = false := by rw [hx, bit_putBits_zero]; rfl
  have hbits : bits x 15 8 = bits v.toNat 15 8 := by rw [hx]; exact bits_putBits_above _ _ _ _ _ _ (by omega) (by omega)
  obtain ⟨u, hu⟩ : ∃ u : State, u = s.plainWrite (0x060040 + 0x400 * p.val) x := ⟨_, rfl⟩
  have hform : s.fiCtrlWrite p x = (u.wrB Reg.NET_PORT_STATUS_FI_ARMED p false, .ok) := by
    unfold fiCtrlWrite
    rw [if_neg (by rw [hbit, Bool.and_false]; decide), hbits, if_neg hdepth, if_neg (by rw [hbit]; decide), hu]
  have hall : ∀ p : Fin 8, ownField Reg.NET_FI_CTRL_ARM p = true ∧ ownField Reg.NET_PORT_STATUS_FI_ARMED p = true ∧
      apart Reg.NET_PORT_STATUS_FI_ARMED p Reg.NET_FI_CTRL_ARM p = true ∧
      fieldAddr Reg.NET_FI_CTRL_ARM p = 0x060040 + 0x400 * p.val ∧
      State.within Reg.NET_PORT_STATUS_FI_ARMED p [0x060040 + 0x400 * p.val, 0x060004 + 0x400 * p.val] = true := by decide
  obtain ⟨hown, hown', hap, haddr, hin⟩ := hall p
  refine ⟨wrote s _, exec_regWrite (v := x) (f := fun s => s.fiCtrlWrite p x) (by subst hx; rfl) hw hform, ?_, ?_, wrote_regsOnly rfl ?_ fun a ha => ?_⟩
  · rw [wrote_rdB hown, rdB, wrB, rd_wr_other _ _ hap, hu, rd_fiWrite haddr rfl (by decide)]
    exact hbit
  · rw [wrote_rdB hown', rdB_wrB_same _ _ _ _ rfl]
  · rw [wrB_noCtl, hu, plainWrite_noCtl]
    rfl
  · have hne : a ≠ 0x060040 + 0x400 * p.val := fun h => ha (by simp [h])
    rw [word_wrB_listed ha hin, hu, word_plainWrite_other hne]
    exact (word_with_wres ..).symm

/-- The words that arming fault injection changes beside those of events. -/
def fiWords (p : Fin 8) : List Nat :=
  (0x060040 + 0x400 * p.val) :: (0x060004 + 0x400 * p.val) :: 0x040210 :: (List.range 8).map (0x040180 + 4 * ·)

/-- What fault injection armed leaves beside registers: its generator seeded, and the port among those ever armed. -/
def State.fiSeeded (s : State) (p : Fin 8) (seed : Word) : State := { s with
  net := { s.net with fi := s.net.fi.set p { s.net.fi[p] with lfsr := seed } }
  sec := { s.sec with everArm := s.sec.everArm ||| BitVec.ofNat 8 (2 ^ p.val) } }

/-- Fault injection armed, but for its event: FI_ARMED shown and M4 extended. -/
def State.fiShown (u : State) (p : Fin 8) : State :=
  ((u.fiSeeded p (u.word (0x060040 + 0x400 * p.val + 8))).wrB Reg.NET_PORT_STATUS_FI_ARMED p true).extend 4
    (toBytes 32 (ofBytes (sha256 (BitVec.ofNat 8 p.val :: u.ctlBytes (0x060040 + 0x400 * p.val) 12))))

theorem word_fiShown (u : State) {p : Fin 8} {a : Nat} (h : a ∉ (0x060004 + 0x400 * p.val) :: 0x040210 :: (List.range 8).map (0x040180 + 4 * ·)) :
    (u.fiShown p).word a = u.word a := by
  have hin : ∀ p : Fin 8, State.within Reg.NET_PORT_STATUS_FI_ARMED p
      ((0x060004 + 0x400 * p.val) :: 0x040210 :: (List.range 8).map (0x040180 + 4 * ·)) = true := by decide
  have hcount : ∀ p : Fin 8, State.within Reg.SEC_MEAS_CNT_COUNT 4
      ((0x060004 + 0x400 * p.val) :: 0x040210 :: (List.range 8).map (0x040180 + 4 * ·)) = true := by decide
  have hmeas : ∀ k, k < 8 → a ≠ 0x040100 + 0x20 * 4 + 4 * k := fun k hk he => h (by
    rw [he]
    exact List.mem_cons_of_mem _ (List.mem_cons_of_mem _ (List.mem_map.mpr ⟨k, List.mem_range.mpr hk, rfl⟩)))
  rw [State.fiShown, extend, word_inc_listed h (hcount p), word_setWordsAt_ne _ _ hmeas, word_wrB_listed h (hin p)]
  exact word_of_ctl (s := u) (t := u.fiSeeded p _) rfl a

theorem fiShown_noCtl (u : State) (p : Fin 8) :
    (u.fiShown p).noCtl = (u.fiSeeded p (u.word (0x060040 + 0x400 * p.val + 8))).noCtl := by
  rw [State.fiShown, extend_noCtl, wrB_noCtl]

/-- Fault injection armed with a written NET_FI_CTRL. -/
def State.fiMade (s : State) (p : Fin 8) (x : Nat) : State :=
  ((s.plainWrite (0x060040 + 0x400 * p.val) x).fiShown p).raise 0x0505 p none 0

theorem fiArmed_eq (u : State) (p : Fin 8) : u.fiArmed p = (u.fiShown p).raise 0x0505 p none 0 := by
  rw [State.fiShown]
  unfold fiArmed
  dsimp only
  rfl

theorem fiCtrlWrite_arm {x : Nat} (hoff : s.rdB Reg.NET_FI_CTRL_ARM p = false) (hdepth : bits x 15 8 ≠ 0) (harm : bit x 0 = true) :
    s.fiCtrlWrite p x = (s.fiMade p x, .ok) := by
  unfold fiCtrlWrite
  rw [if_neg (by rw [hoff, Bool.false_and]; decide), if_neg hdepth]
  dsimp only
  rw [if_pos harm, fiArmed_eq, State.fiMade]

theorem rd_fiMade {x : Nat} {f : Field} (hev : apartFromEvent f p = true) (hmeas : apartFromMeas f p 4 = true)
    (hap : apart Reg.NET_PORT_STATUS_FI_ARMED p f p = true) (haddr : fieldAddr f p = 0x060040 + 0x400 * p.val)
    (hone : fieldWords f = 1) (hlen : f.lo % 32 + f.len ≤ 16) : (s.fiMade p x).rd f p = x >>> (f.lo % 32) % 2 ^ f.len := by
  rw [State.fiMade, rd_raise_apart hev, State.fiShown, rd_extend _ _ hmeas, wrB, rd_wr_other _ _ hap, ← rd_fiWrite haddr hone hlen]
  exact rd_of_ctl (s := s.plainWrite (0x060040 + 0x400 * p.val) x) (t := State.fiSeeded _ p _) rfl f p

theorem word_fiMade {x a : Nat} (ha : a ∉ fiWords p) (hev : a ∉ eventWords) : (s.fiMade p x).word a = s.word a := by
  have hne : a ≠ 0x060040 + 0x400 * p.val := fun h => ha (by rw [h]; exact List.mem_cons_self)
  rw [State.fiMade, raise_word _ _ _ _ _ _ hev, word_fiShown _ fun h => ha (List.mem_cons_of_mem _ h), word_plainWrite_other hne]

theorem fiMade_noEvent (s : State) (p : Fin 8) (x : Nat) :
    (s.fiMade p x).noEvent = (s.fiSeeded p (s.word (0x060040 + 0x400 * p.val + 8))).noEvent := by
  have hseed : (s.plainWrite (0x060040 + 0x400 * p.val) x).word (0x060040 + 0x400 * p.val + 8) =
      s.word (0x060040 + 0x400 * p.val + 8) := word_plainWrite_other (by omega)
  rw [State.fiMade, raise_noEvent, noEvent_of_noCtl (fiShown_noCtl _ p), hseed]
  rw [eq_of_noCtl (plainWrite_noCtl s (0x060040 + 0x400 * p.val) x)]
  rfl

/-- The bytes that fault injection is measured by stand as written once it is armed. -/
theorem ctlBytes_fiMade (s : State) (p : Fin 8) (x : Nat) : (s.fiMade p x).ctlBytes (0x060040 + 0x400 * p.val) 12 =
    (s.plainWrite (0x060040 + 0x400 * p.val) x).ctlBytes (0x060040 + 0x400 * p.val) 12 := by
  have hout : ∀ p : Fin 8, ∀ k : Fin 12, 0x060040 + 0x400 * p.val + k.val ∉
      (0x060004 + 0x400 * p.val) :: 0x040210 :: (List.range 8).map (0x040180 + 4 * ·) ∧
      0x060040 + 0x400 * p.val + k.val ∉ eventWords := by decide
  rw [ctlBytes, ctlBytes]
  refine congrArg (toBytes 12) (wordsAt_congr fun b h1 h2 => ?_)
  obtain ⟨hb, hev⟩ := hout p ⟨b - (0x060040 + 0x400 * p.val), by omega⟩
  rw [show 0x060040 + 0x400 * p.val + (b - (0x060040 + 0x400 * p.val)) = b by omega] at hb hev
  rw [State.fiMade, raise_word _ _ _ _ _ _ hev, word_fiShown _ hb]

theorem extended_fiMade (s : State) (p : Fin 8) (x : Nat) : Extended s (s.fiMade p x) 4
    (toBytes 32 (ofBytes (sha256 (BitVec.ofNat 8 p.val :: (s.fiMade p x).ctlBytes (0x060040 + 0x400 * p.val) 12)))) := by
  have hap : ∀ p : Fin 8, ∀ f ∈ [Reg.SEC_MEAS_M, Reg.SEC_MEAS_CNT_COUNT], apart Reg.NET_PORT_STATUS_FI_ARMED p f 4 = true ∧
      fieldAddr f 4 + 4 * fieldWords f ≤ 0x060040 + 0x400 * p.val ∧ apartFromEvent f 4 = true := by decide
  rw [ctlBytes_fiMade]
  refine extended_congr (extended_extend (State.wrB (State.fiSeeded (s.plainWrite (0x060040 + 0x400 * p.val) x) p
    ((s.plainWrite (0x060040 + 0x400 * p.val) x).word (0x060040 + 0x400 * p.val + 8))) Reg.NET_PORT_STATUS_FI_ARMED p true)
    (by decide) _) (fun f hf => ?_) fun f hf => ?_
  · obtain ⟨hst, hbelow, _⟩ := hap p f hf
    rw [wrB, rd_wr_other _ _ hst, rd_of_ctl (s := s.plainWrite (0x060040 + 0x400 * p.val) x) (t := State.fiSeeded _ p _) rfl,
      rd_plainWrite_other (.inr hbelow)]
  · rw [State.fiMade, rd_raise_apart (hap p f hf).2.2, State.fiShown]

theorem stamp_fiShown (s : State) (p : Fin 8) (x : Nat) :
    ((s.plainWrite (0x060040 + 0x400 * p.val) x).fiShown p).stamp none = s.stamp none := by
  have hst : ∀ p : Fin 8, apartFromStamp Reg.NET_PORT_STATUS_FI_ARMED p = true := by decide
  have hfi : ∀ p : Fin 8, fieldAddr Reg.TEL_DSEQ_DSEQ 0 + 4 * fieldWords Reg.TEL_DSEQ_DSEQ ≤ 0x060040 + 0x400 * p.val ∧
      ∀ n : Fin 8, fieldAddr Reg.STR_SLOT_STATE_STATE n + 4 * fieldWords Reg.STR_SLOT_STATE_STATE ≤ 0x060040 + 0x400 * p.val := by
    decide
  have hplain : (s.plainWrite (0x060040 + 0x400 * p.val) x).stamp none = s.stamp none :=
    stamp_eq none (rd_plainWrite_other (.inr (hfi p).1)) (fun n => rd_plainWrite_other (.inr ((hfi p).2 n)))
      (tel_of_noCtl (plainWrite_noCtl ..)) (slots_of_noCtl (plainWrite_noCtl ..))
  rw [State.fiShown, stamp_extend _ _ (by decide), wrB, stamp_wr _ _ (hst p), ← hplain]
  rfl

theorem exec_fiArm (hw : writable s w (0x060040 + 0x400 * p.val) = true) (hdepth : bits v.toNat 15 8 ≠ 0)
    (hoff : s.rdB Reg.NET_FI_CTRL_ARM p = false) :
    exec (.fiArm w p v) s = .next (wrote s (s.fiMade p (putBits v.toNat 0 0 1))) := by
  refine exec_regWrite (v := putBits v.toNat 0 0 1) (f := fun s => s.fiCtrlWrite p (putBits v.toNat 0 0 1)) rfl hw
    (fiCtrlWrite_arm hoff ?_ ?_)
  · rwa [bits_putBits_above _ _ _ _ _ _ (by decide) (by decide)]
  · rw [bit_putBits_zero]
    rfl

theorem wrote_fiMade (s : State) (p : Fin 8) (x : Nat) :
    EventsOnly { s.fiSeeded p (s.word (0x060040 + 0x400 * p.val + 8)) with wres := .ok } (wrote s (s.fiMade p x)) (fiWords p) := by
  refine done_eventsOnly ?_ fun a ha hev => ?_
  · rw [writeStatus_noEvent, fiMade_noEvent]
    rfl
  · rw [writeStatus_word, word_fiMade ha hev]
    exact word_of_ctl (s := { s.fiSeeded p (s.word (0x060040 + 0x400 * p.val + 8)) with wres := .ok }) (t := s) rfl a

theorem exec_epochWrite {u : Fin 88} (hw : writable s w (0x064000 + 4 * u.val) = true) : ∃ t, exec (.epochWrite w u v) s = .next t ∧
    t.rd Reg.NET_EPOCH_EPOCH u = bits v.toNat 15 0 ∧ RegsOnly { s with wres := .ok } t [0x064000 + 4 * u.val] := by
  have haddr : fieldAddr Reg.NET_EPOCH_EPOCH u = 0x064000 + 4 * u.val := rfl
  have hall : ∀ u : Fin 88, ownField Reg.NET_EPOCH_EPOCH u = true := by decide
  obtain ⟨hmask, hclear⟩ := epoch_masks u
  have hones : ∀ k, k < 16 → Nat.testBit 0xFFFF (0 + k) = true := by decide
  refine ⟨wrote s _, exec_regWrite rfl hw rfl, ?_, wrote_regsOnly rfl ?_ fun a ha => ?_⟩
  · rw [wrote_rd (hall u)]
    exact rd_plainWrite haddr rfl (by decide) (fun k hk => by rw [hmask]; exact hones k hk) hclear
  · rw [plainWrite_noCtl]
    rfl
  · rw [word_plainWrite_other (by simpa using ha)]
    exact (word_with_wres ..).symm

theorem exec_netDevIdWrite (hw : writable s w 0x062000 = true) (hslots : ∀ n, n < 8 → s.slotState n ≠ 2) :
    exec (.netDevIdWrite w v) s = .next (wrote s ((s.wr Reg.NET_DEV_ID_DEV_ID 0 (bits v.toNat 15 0)).reidentify.pumpAll)) := by
  have hnone : s.slotIn (· == 2) = none := by
    rw [slotIn, List.find?_eq_none]
    intro n hn
    simpa using hslots n (by simpa using hn)
  have hwr : s.plainWrite 0x062000 v.toNat = s.wr Reg.NET_DEV_ID_DEV_ID 0 (bits v.toNat 15 0) :=
    plainWrite_eq_wr rfl rfl (by decide) devId_masks.1 devId_masks.2
  refine exec_regWrite rfl hw ?_
  rw [devIdWrite, hnone, hwr]

/-- A field of NET_PORT_CFG after a plain write. -/
theorem rd_portCfg {f : Field} {x : Nat} (haddr : fieldAddr f p = 0x060000 + 0x400 * p.val) (hone : fieldWords f = 1)
    (hlen : f.lo % 32 + f.len ≤ 19) : (s.plainWrite (0x060000 + 0x400 * p.val) x).rd f p = x >>> (f.lo % 32) % 2 ^ f.len := by
  obtain ⟨hmask, hclear⟩ := portCfg_masks p
  have hall : ∀ k, k < 19 → Nat.testBit 0x7FFFF k = true := by decide
  exact rd_plainWrite haddr hone (by omega) (fun k hk => by rw [hmask]; exact hall _ (by omega)) hclear

theorem exec_portCfgWrite {cfg : State} (hcfg : cfg = s.plainWrite (0x060000 + 0x400 * p.val) v.toNat)
    (hw : writable s w (0x060000 + 0x400 * p.val) = true) (hmode : bits v.toNat 3 0 < 8) (hvid : bits v.toNat 18 7 ≠ 4095)
    (hsame : s.rdB Reg.NET_PORT_CFG_EN p = true → s.rd Reg.NET_PORT_CFG_MODE p = bits v.toNat 3 0 ∧
      s.rd Reg.NET_PORT_CFG_FAMILY p = bits v.toNat 6 6 ∧ s.rd Reg.NET_PORT_CFG_VID p = bits v.toNat 18 7) :
    exec (.portCfgWrite w p v) s = .next (wrote s
      (if bit v.toNat 4 then (if bit v.toNat 5 then cfg else cfg.wrB Reg.NET_PORT_STATUS_PREEMPT_ACTIVE p false)
        else (if bit v.toNat 5 then cfg else cfg.wrB Reg.NET_PORT_STATUS_PREEMPT_ACTIVE p false).linkDown p)) := by
  refine exec_regWrite rfl hw ?_
  have hfree : (s.rdB Reg.NET_PORT_CFG_EN p && (s.rd Reg.NET_PORT_CFG_MODE p != bits v.toNat 3 0 ||
      s.rd Reg.NET_PORT_CFG_FAMILY p != bits v.toNat 6 6 || s.rd Reg.NET_PORT_CFG_VID p != bits v.toNat 18 7)) = false := by
    cases hen : s.rdB Reg.NET_PORT_CFG_EN p with
    | false => rfl
    | true =>
      obtain ⟨h1, h2, h3⟩ := hsame hen
      simp [h1, h2, h3]
  unfold portCfgWrite
  dsimp only
  rw [hfree, if_neg (by decide), if_neg (by simp [hvid]; omega), ← hcfg]

theorem portCfg_shown {cfg : State} (hcfg : cfg = s.plainWrite (0x060000 + 0x400 * p.val) v.toNat) :
    cfg.rd Reg.NET_PORT_CFG_MODE p = bits v.toNat 3 0 ∧ cfg.rdB Reg.NET_PORT_CFG_EN p = bit v.toNat 4 ∧
      cfg.rdB Reg.NET_PORT_CFG_PREEMPT p = bit v.toNat 5 ∧ cfg.rd Reg.NET_PORT_CFG_FAMILY p = bits v.toNat 6 6 ∧
      cfg.rd Reg.NET_PORT_CFG_VID p = bits v.toNat 18 7 := by
  have haddr (f : Field) (h : f.base = 0x060000 ∧ f.stride = 0x400 ∧ f.lo < 32) : fieldAddr f p = 0x060000 + 0x400 * p.val := by
    obtain ⟨hbase, hstride, hlo⟩ := h
    rw [fieldAddr, hbase, hstride, Nat.div_eq_of_lt hlo, Nat.mul_zero, Nat.add_zero]
  subst hcfg
  refine ⟨?_, ?_, ?_, ?_, ?_⟩
  · exact rd_portCfg (haddr _ (by decide)) rfl (by decide)
  · exact congrArg (· == 1) (rd_portCfg (haddr _ (by decide)) rfl (by decide))
  · exact congrArg (· == 1) (rd_portCfg (haddr _ (by decide)) rfl (by decide))
  · exact rd_portCfg (haddr _ (by decide)) rfl (by decide)
  · exact rd_portCfg (haddr _ (by decide)) rfl (by decide)


/-! REGISTER_WRITE at the network's registers and at those of the allocation range. -/

theorem exec_registerWrite {addr : BitVec 24} {a : Nat} {f : State → State × KStat} (ha : addr.toNat = a)
    (hf : ∀ s : State, s.ctlWrite a v.toNat = f s) :
    exec (.registerWrite w addr v) s = act s (s.regWrite w a v.toNat f) := by
  have h : (fun s : State => s.ctlWrite addr.toNat v.toNat) = f := funext fun s => by rw [ha, hf]
  show act s (s.regWrite w addr.toNat v.toNat fun s => s.ctlWrite addr.toNat v.toNat) = _
  rw [h, ha]

theorem hasReg_epoch (u : Fin 88) : hasReg (0x064000 + 4 * u.val) = true := by
  have hmem : Reg.NET_EPOCH_EPOCH ∈ Reg.all.filter (fun f => f.acc == .ow && f.covers (0x064000 + 4 * u.val)) := by
    rw [covering_epoch, if_pos rfl]
    exact List.mem_singleton_self _
  obtain ⟨hin, hcov⟩ := List.mem_filter.mp hmem
  rw [hasReg, show (0x064000 + 4 * u.val) % 4 = 0 by omega, List.any_eq_true.mpr ⟨_, hin, (Bool.and_eq_true _ _ ▸ hcov).2⟩]
  simp

theorem hasReg_network : (∀ p : Fin 8, hasReg (0x060000 + 0x400 * p.val) = true) ∧ hasReg 0x062000 = true ∧
    hasReg 0x070100 = true ∧ hasReg 0x070104 = true := by decide +kernel

theorem ctlWrite_net {a x : Nat} (hreg : hasReg a = true) (hblock : a / 0x10000 = 6) : s.ctlWrite a x = s.netWrite a x := by
  rw [ctlWrite, hreg, hblock]
  rfl

theorem ctlWrite_mem {a x : Nat} (hreg : hasReg a = true) (hblock : a / 0x10000 = 7) : s.ctlWrite a x = s.memWrite a x := by
  rw [ctlWrite, hreg, hblock]
  rfl

theorem ctlWrite_port (s : State) (p : Fin 8) (x : Nat) : s.ctlWrite (0x060000 + 0x400 * p.val) x = s.portCfgWrite p x := by
  have hin : ∀ p : Fin 8, within 0x060000 0x2000 (0x060000 + 0x400 * p.val) = true ∧
      Fin.ofNat 8 ((0x060000 + 0x400 * p.val - 0x060000) / 0x400) = p ∧ (0x060000 + 0x400 * p.val - 0x060000) % 0x400 = 0 ∧
      (0x060000 + 0x400 * p.val) / 0x10000 = 6 := by decide
  obtain ⟨hbank, hport, hoff, hblock⟩ := hin p
  rw [ctlWrite_net (hasReg_network.1 p) hblock]
  unfold netWrite
  dsimp only
  rw [if_pos hbank, hport, if_pos hoff]

theorem ctlWrite_devId (s : State) (x : Nat) : s.ctlWrite 0x062000 x = s.devIdWrite x :=
  ctlWrite_net hasReg_network.2.1 (by decide)

theorem ctlWrite_epoch (s : State) (u : Fin 88) (x : Nat) : s.ctlWrite (0x064000 + 4 * u.val) x = s.epochWrite u.val x := by
  have hin (b n : Nat) (h : b + n ≤ 0x064000) : within b n (0x064000 + 4 * u.val) = false := by
    simp only [Machine.within, Bool.and_eq_false_iff, decide_eq_false_iff_not]
    omega
  have hbank : within 0x064000 0x160 (0x064000 + 4 * u.val) = true := by
    simp only [Machine.within, Bool.and_eq_true, decide_eq_true_eq]
    omega
  rw [ctlWrite_net (hasReg_epoch u) (by omega)]
  unfold netWrite
  rw [hin _ _ (by decide), if_neg (by decide), if_neg (by omega), if_neg (by omega), hin _ _ (by decide), if_neg (by decide),
    if_pos hbank, show (0x064000 + 4 * u.val - 0x064000) / 4 = u.val by omega]

/-- The two words of the range's base. -/
theorem within_base {a : Nat} (hin : within 0x070100 8 a = true) (halign : a % 4 = 0) : a = 0x070100 ∨ a = 0x070104 := by
  simp only [Machine.within, Bool.and_eq_true, decide_eq_true_eq] at hin
  omega

theorem ctlWrite_base (s : State) (x : Nat) {a : Nat} (ha : a = 0x070100 ∨ a = 0x070104) :
    s.ctlWrite a x = (s.plainWrite a x, .ok) := by
  rcases ha with rfl | rfl
  · exact ctlWrite_mem hasReg_network.2.2.1 (by decide)
  · exact ctlWrite_mem hasReg_network.2.2.2 (by decide)

theorem base_masks : owMask 0x070100 = 0xFFFC0000 ∧ ow1cMask 0x070100 = 0 ∧ owMask 0x070104 = 0x1FF ∧ ow1cMask 0x070104 = 0 := by
  decide +kernel

theorem exec_baseWrite {addr : BitVec 24} (hw : writable s w addr.toNat = true) (ha : addr.toNat = 0x070100 ∨ addr.toNat = 0x070104) :
    ∃ t, exec (.registerWrite w addr v) s = .next t ∧
      (addr.toNat = 0x070100 → t.rd Reg.MEM_ALLOC_BASE_LO_BASE_LO 0 = bits v.toNat 31 18) ∧
      (addr.toNat = 0x070104 → t.rd Reg.MEM_ALLOC_BASE_HI_BASE_HI 0 = bits v.toNat 8 0) ∧
      RegsOnly { s with wres := .ok } t [addr.toNat] := by
  obtain ⟨hlow, hlowc, hhigh, hhighc⟩ := base_masks
  have hlowBits : ∀ k, k < 14 → Nat.testBit 0xFFFC0000 (18 + k) = true := by decide
  have hhighBits : ∀ k, k < 9 → Nat.testBit 0x1FF (0 + k) = true := by decide
  refine ⟨wrote s _, exec_regWrite (exec_registerWrite rfl fun s => ctlWrite_base s _ ha) hw rfl, fun h => ?_, fun h => ?_,
    wrote_regsOnly rfl ?_ fun a hout => ?_⟩
  · rw [wrote_rd (by decide), h]
    exact rd_plainWrite rfl rfl (by decide) (fun k hk => by rw [hlow]; exact hlowBits k hk) hlowc
  · rw [wrote_rd (by decide), h]
    exact rd_plainWrite rfl rfl (by decide) (fun k hk => by rw [hhigh]; exact hhighBits k hk) hhighc
  · rw [plainWrite_noCtl]
    rfl
  · rw [word_plainWrite_other (by simpa using hout)]
    exact (word_with_wres ..).symm

theorem ctlWrite_noReg {a x : Nat} (h : hasReg a = false) : s.ctlWrite a x = (s, .range) := by
  rw [ctlWrite, h]
  rfl

end

/-- The fields of NET_FI_CTRL once fault injection is armed. -/
theorem rd_armed {s : State} {p : Fin 8} {x : Nat} {f : Field} (hf : f ∈ [Reg.NET_FI_CTRL_ARM, Reg.NET_FI_CTRL_CLASSES,
    Reg.NET_FI_CTRL_REORDER_DEPTH, Reg.NET_FI_CTRL_DROP_EN, Reg.NET_FI_CTRL_CORRUPT_EN, Reg.NET_FI_CTRL_REORDER_EN]) :
    (wrote s (s.fiMade p x)).rd f p = x >>> (f.lo % 32) % 2 ^ f.len := by
  have hall : ∀ p : Fin 8, ∀ f ∈ [Reg.NET_FI_CTRL_ARM, Reg.NET_FI_CTRL_CLASSES, Reg.NET_FI_CTRL_REORDER_DEPTH, Reg.NET_FI_CTRL_DROP_EN,
      Reg.NET_FI_CTRL_CORRUPT_EN, Reg.NET_FI_CTRL_REORDER_EN], ownField f p = true ∧ apartFromEvent f p = true ∧
      apartFromMeas f p 4 = true ∧ apart Reg.NET_PORT_STATUS_FI_ARMED p f p = true ∧
      fieldAddr f p = 0x060040 + 0x400 * p.val ∧ fieldWords f = 1 ∧ f.lo % 32 + f.len ≤ 16 := by decide
  obtain ⟨hown, hev, hmeas, hap, haddr, hone, hlen⟩ := hall p f hf
  rw [wrote_rd hown, rd_fiMade hev hmeas hap haddr hone hlen]

theorem ctlBytes_wrote (s : State) (p : Fin 8) (u : State) :
    (wrote s u).ctlBytes (0x060040 + 0x400 * p.val) 12 = u.ctlBytes (0x060040 + 0x400 * p.val) 12 := by
  have hout : ∀ p : Fin 8, ∀ k : Fin 12, 0x060040 + 0x400 * p.val + k.val ∉ statusWords := by decide
  rw [ctlBytes, ctlBytes]
  refine congrArg (toBytes 12) (wordsAt_congr fun b h1 h2 => ?_)
  have hb := hout p ⟨b - (0x060040 + 0x400 * p.val), by omega⟩
  rw [show 0x060040 + 0x400 * p.val + (b - (0x060040 + 0x400 * p.val)) = b by omega] at hb
  rw [wrote, done_word _ hb, writeStatus_word]

/-- An event raised by a register write stands in the log after it. -/
theorem raised_wrote {s u : State} {sl : Option (Fin 8)} (hst : u.stamp sl = s.stamp sl) (c n a : Nat) :
    Raised s (wrote s (u.raise c n sl a)) c n sl a := by
  rw [Raised, wrote, done_tel, ← eventRec_of_stamp hst]
  exact raise_logs ..

theorem fiArm_clause {s : State} {w : Writer} {p : Fin 8} {v : Word} (hw : writable s w (0x060040 + 0x400 * p.val) = true)
    (hdepth : bits v.toNat 15 8 ≠ 0) (hoff : s.rdB Reg.NET_FI_CTRL_ARM p = false) :
    ∃ t, exec (.fiArm w p v) s = .next t ∧ t.rdB Reg.NET_FI_CTRL_ARM p = true ∧
      t.rd Reg.NET_FI_CTRL_CLASSES p = bits v.toNat 7 4 ∧ t.rd Reg.NET_FI_CTRL_REORDER_DEPTH p = bits v.toNat 15 8 ∧
      t.rdB Reg.NET_FI_CTRL_DROP_EN p = bit v.toNat 1 ∧ t.rdB Reg.NET_FI_CTRL_CORRUPT_EN p = bit v.toNat 2 ∧
      t.rdB Reg.NET_FI_CTRL_REORDER_EN p = bit v.toNat 3 ∧ t.rdB Reg.NET_PORT_STATUS_FI_ARMED p = true ∧
      Extended s t 4 (toBytes 32 (ofBytes (sha256 (BitVec.ofNat 8 p.val :: t.ctlBytes (0x060040 + 0x400 * p.val) 12)))) ∧
      Raised s t 0x0505 p none 0 ∧
      EventsOnly { s.fiSeeded p (s.word (0x060040 + 0x400 * p.val + 8)) with wres := .ok } t (fiWords p) := by
  obtain ⟨x, hx⟩ : ∃ x, x = putBits v.toNat 0 0 1 := ⟨_, rfl⟩
  have hbits (hi lo : Nat) (h : 0 < lo) : bits x hi lo = bits v.toNat hi lo := by
    rw [hx]; exact bits_putBits_above _ _ _ _ _ _ (by omega) h
  have hbit (b : Nat) (h : 0 < b) : bit x b = bit v.toNat b := by rw [hx]; exact bit_putBits_above _ _ _ _ (by omega) h
  have hexec := exec_fiArm hw hdepth hoff
  rw [← hx] at hexec
  refine ⟨_, hexec, ?_, (rd_armed (by decide)).trans (hbits 7 4 (by decide)), (rd_armed (by decide)).trans (hbits 15 8 (by decide)),
    ?_, ?_, ?_, ?_, ?_, ?_, wrote_fiMade s p x⟩
  · rw [rdB, rd_armed (by decide), hx]
    exact bit_putBits_zero v.toNat 1
  · rw [rdB, rd_armed (by decide)]
    exact hbit 1 (by decide)
  · rw [rdB, rd_armed (by decide)]
    exact hbit 2 (by decide)
  · rw [rdB, rd_armed (by decide)]
    exact hbit 3 (by decide)
  · have hst : ∀ p : Fin 8, ownField Reg.NET_PORT_STATUS_FI_ARMED p = true ∧ apartFromEvent Reg.NET_PORT_STATUS_FI_ARMED p = true ∧
        apartFromMeas Reg.NET_PORT_STATUS_FI_ARMED p 4 = true := by decide
    obtain ⟨hown, hev, hmeas⟩ := hst p
    rw [wrote_rdB hown, State.fiMade, rdB, rd_raise_apart hev, State.fiShown, rd_extend _ _ hmeas, ← rdB, rdB_wrB_same _ _ _ _ rfl]
  · rw [ctlBytes_wrote]
    refine extended_congr (extended_fiMade s p x) (fun f hf => rfl) fun f hf => ?_
    have hown : ∀ f ∈ [Reg.SEC_MEAS_M, Reg.SEC_MEAS_CNT_COUNT], ownField f 4 = true := by decide
    exact wrote_rd (hown f hf)
  · rw [State.fiMade]
    exact raised_wrote (stamp_fiShown s p x) ..

/-- Settles O41: each register of the network takes the bits its owner may write, and REGISTER_WRITE at one of them is its
command. -/
theorem networkRegisters : Obligations.NetworkRegisters := by
  unfold Obligations.NetworkRegisters
  intro s w p u addr v fi cfg done
  refine ⟨fun hw hdepth hoff => fiArm_clause hw hdepth hoff, fun hw hdepth => exec_fiDisarm hw hdepth,
    fun hw hslots => exec_netDevIdWrite hw hslots, fun hw hmode hvid hsame => ⟨exec_portCfgWrite rfl hw hmode hvid hsame, portCfg_shown rfl⟩,
    fun hw => exec_epochWrite hw, fun hw => ⟨fun hreg => ?_, fun hin halign => ?_⟩, fun a ha => ⟨?_, ?_, ?_⟩⟩
  · exact exec_regWrite_refused (exec_registerWrite rfl fun _ => rfl) hw (ctlWrite_noReg hreg)
  · exact exec_baseWrite hw (within_base hin halign)
  · rintro rfl
    exact exec_registerWrite ha fun s => ctlWrite_port s p v.toNat
  · rintro rfl
    exact exec_registerWrite ha fun s => ctlWrite_devId s v.toNat
  · rintro rfl
    exact exec_registerWrite ha fun s => ctlWrite_epoch s u v.toNat

end Sys2Proof.Machine
end


section
/-!
Fault capture, sampling and the lead (R458 to R460, R513, R519).
-/
namespace Sys2Proof.Machine

open State Sys2Proof.Safety

/-! The fields of MEM_FCAP_CTRL. -/

/-- Whether two values give the fields of MEM_FCAP_CTRL beside ARM and DUMP the same bits. -/
def sameCapture (x v : Nat) : Prop :=
  bits x 3 0 = bits v 3 0 ∧ bits x 5 5 = bits v 5 5 ∧ bits x 15 8 = bits v 15 8 ∧ bits x 31 16 = bits v 31 16

theorem sameCapture_arm (v b : Nat) : sameCapture (putBits v 4 4 b) v :=
  ⟨bits_putBits_below _ _ _ _ _ _ (by decide) (by decide) (by decide), bits_putBits_above _ _ _ _ _ _ (by decide) (by decide),
    bits_putBits_above _ _ _ _ _ _ (by decide) (by decide), bits_putBits_above _ _ _ _ _ _ (by decide) (by decide)⟩

theorem sameCapture_dump (v b : Nat) : sameCapture (putBits v 6 6 b) v :=
  ⟨bits_putBits_below _ _ _ _ _ _ (by decide) (by decide) (by decide),
    bits_putBits_below _ _ _ _ _ _ (by decide) (by decide) (by decide), bits_putBits_above _ _ _ _ _ _ (by decide) (by decide),
    bits_putBits_above _ _ _ _ _ _ (by decide) (by decide)⟩

theorem sameCapture_trans {x y z : Nat} (h : sameCapture x y) (k : sameCapture y z) : sameCapture x z := by
  obtain ⟨h1, h2, h3, h4⟩ := h
  obtain ⟨k1, k2, k3, k4⟩ := k
  exact ⟨h1.trans k1, h2.trans k2, h3.trans k3, h4.trans k4⟩

theorem bit_putBits_same (x n v : Nat) : bit (putBits x n n v) n = (v % 2 == 1) := by
  have h := bits_putBits_same x n n v (le_refl n)
  simp only [bits, show n + 1 - n = 1 by omega, pow_one] at h
  rw [bit, h]

theorem bit_putBits_below (x hi lo v : Nat) {b : Nat} (h : lo ≤ hi) (hb : b < lo) : bit (putBits x hi lo v) b = bit x b := by
  have hbits := bits_putBits_below x hi lo v b b h hb (le_refl b)
  simp only [bits, show b + 1 - b = 1 by omega, pow_one] at hbits
  rw [bit, bit, hbits]

namespace State

theorem captureFields_congr {x v : Nat} (h : sameCapture x v) (s : State) (d : Nat) : s.captureFields d x = s.captureFields d v := by
  obtain ⟨h1, h2, h3, h4⟩ := h
  rw [captureFields, captureFields, h1, h2, h3, h4]

theorem captureFields_noCtl (s : State) (d v : Nat) : (s.captureFields d v).noCtl = s.noCtl := by
  simp only [captureFields, wr_noCtl]

theorem word_captureFields (s : State) (d : Fin 2) (v : Nat) {a : Nat} (h : a ≠ 0x070500 + 0x20 * d.val) :
    (s.captureFields d v).word a = s.word a := by
  have hin : ∀ d : Fin 2, ∀ f ∈ [Reg.MEM_FCAP_CTRL_SRC, Reg.MEM_FCAP_CTRL_AUXTRIG, Reg.MEM_FCAP_CTRL_POST,
      Reg.MEM_FCAP_CTRL_TRIG_CODE], State.within f d [0x070500 + 0x20 * d.val] = true := by decide
  have ha : a ∉ [0x070500 + 0x20 * d.val] := by simpa using h
  rw [captureFields, word_wr_listed ha (hin d _ (by decide)), word_wr_listed ha (hin d _ (by decide)),
    word_wr_listed ha (hin d _ (by decide)), word_wr_listed ha (hin d _ (by decide))]

/-- Whether a field is none of those that a write of MEM_FCAP_CTRL gives a die beside ARM and DUMP. -/
def apartFromFields (f : Field) (i : Nat) (d : Fin 2) : Bool :=
  apart Reg.MEM_FCAP_CTRL_SRC d f i && apart Reg.MEM_FCAP_CTRL_AUXTRIG d f i && apart Reg.MEM_FCAP_CTRL_POST d f i &&
    apart Reg.MEM_FCAP_CTRL_TRIG_CODE d f i

theorem rd_captureFields (s : State) {d : Fin 2} (v : Nat) {f : Field} {i : Nat} (h : apartFromFields f i d = true) :
    (s.captureFields d v).rd f i = s.rd f i := by
  simp only [apartFromFields, Bool.and_eq_true] at h
  obtain ⟨⟨⟨h1, h2⟩, h3⟩, h4⟩ := h
  rw [captureFields, rd_wr_other _ _ h4, rd_wr_other _ _ h3, rd_wr_other _ _ h2, rd_wr_other _ _ h1]

/-- The fields that a write of MEM_FCAP_CTRL shows. -/
def showsCapture (t : State) (d : Fin 2) (v : Nat) : Prop :=
  t.rd Reg.MEM_FCAP_CTRL_SRC d = bits v 3 0 ∧ t.rd Reg.MEM_FCAP_CTRL_AUXTRIG d = bits v 5 5 ∧
    t.rd Reg.MEM_FCAP_CTRL_POST d = bits v 15 8 ∧ t.rd Reg.MEM_FCAP_CTRL_TRIG_CODE d = bits v 31 16

theorem captureFields_shows (s : State) (d : Fin 2) (v : Nat) : (s.captureFields d v).showsCapture d v := by
  have hall : ∀ d : Fin 2, apart Reg.MEM_FCAP_CTRL_TRIG_CODE d Reg.MEM_FCAP_CTRL_POST d = true ∧
      apart Reg.MEM_FCAP_CTRL_TRIG_CODE d Reg.MEM_FCAP_CTRL_AUXTRIG d = true ∧
      apart Reg.MEM_FCAP_CTRL_TRIG_CODE d Reg.MEM_FCAP_CTRL_SRC d = true ∧
      apart Reg.MEM_FCAP_CTRL_POST d Reg.MEM_FCAP_CTRL_AUXTRIG d = true ∧
      apart Reg.MEM_FCAP_CTRL_POST d Reg.MEM_FCAP_CTRL_SRC d = true ∧
      apart Reg.MEM_FCAP_CTRL_AUXTRIG d Reg.MEM_FCAP_CTRL_SRC d = true := by decide
  obtain ⟨h1, h2, h3, h4, h5, h6⟩ := hall d
  have hlt (hi lo : Nat) : bits v hi lo % 2 ^ (hi + 1 - lo) = bits v hi lo := Nat.mod_eq_of_lt (bits_lt v hi lo)
  refine ⟨?_, ?_, ?_, ?_⟩
  · rw [captureFields, rd_wr_other _ _ h3, rd_wr_other _ _ h5, rd_wr_other _ _ h6, rd_wr_same _ _ _ _ (by decide)]
    exact hlt 3 0
  · rw [captureFields, rd_wr_other _ _ h2, rd_wr_other _ _ h4, rd_wr_same _ _ _ _ (by decide)]
    exact hlt 5 5
  · rw [captureFields, rd_wr_other _ _ h1, rd_wr_same _ _ _ _ (by decide)]
    exact hlt 15 8
  · rw [captureFields, rd_wr_same _ _ _ _ (by decide)]
    exact hlt 31 16

/-- What reads the four fields of a die as another state does shows what that one shows. -/
theorem showsCapture_of_rd {t u : State} {d : Fin 2} {v : Nat} (h : u.showsCapture d v)
    (hrd : ∀ f ∈ [Reg.MEM_FCAP_CTRL_SRC, Reg.MEM_FCAP_CTRL_AUXTRIG, Reg.MEM_FCAP_CTRL_POST, Reg.MEM_FCAP_CTRL_TRIG_CODE],
      t.rd f d = u.rd f d) : t.showsCapture d v := by
  obtain ⟨h1, h2, h3, h4⟩ := h
  exact ⟨(hrd _ (by simp)).trans h1, (hrd _ (by simp)).trans h2, (hrd _ (by simp)).trans h3, (hrd _ (by simp)).trans h4⟩

/-- A state with another capture of a die, read. -/
theorem rd_setCapture (s : State) (d : Fin 2) (c : Capture) (f : Field) (i : Nat) :
    ({ s with tel := { s.tel with capture := s.tel.capture.set d c } } : State).rd f i = s.rd f i := rd_with_tel ..

/-! A capture stops. -/

/-- A capture with a post-trigger delay gives countdown 3 back. -/
def countdownBack (s : State) (d : Fin 2) : State :=
  if s.rd Reg.MEM_FCAP_CTRL_POST d ≠ 0 then s.wr Reg.HRT_CD_HOLD_CD3 0 0 else s

theorem countdownBack_noCtl (s : State) (d : Fin 2) : (s.countdownBack d).noCtl = s.noCtl :=
  ite_keeps noCtl _ (wr_noCtl ..) rfl

theorem rd_countdownBack (s : State) {d : Fin 2} {f : Field} {i : Nat}
    (h : s.rd Reg.MEM_FCAP_CTRL_POST d = 0 ∨ apart Reg.HRT_CD_HOLD_CD3 0 f i = true) : (s.countdownBack d).rd f i = s.rd f i := by
  rw [countdownBack]
  split
  next hpost => exact rd_wr_other _ _ (h.resolve_left hpost)
  next => rfl

theorem countdownBack_cd3 (s : State) (d : Fin 2) : (s.countdownBack d).rd Reg.HRT_CD_HOLD_CD3 0 =
    if s.rd Reg.MEM_FCAP_CTRL_POST d = 0 then s.rd Reg.HRT_CD_HOLD_CD3 0 else 0 := by
  rw [countdownBack, ite_not]
  split
  next => rfl
  next => exact rd_wr_same _ _ _ _ (by decide)

/-- What a capture that stops leaves before its event. -/
def captureShut (s : State) (d : Fin 2) : State :=
  let u := s.countdownBack d
  ((({ u with tel := { u.tel with capture := u.tel.capture.set d { s.tel.capture[d] with posting := false } } } : State).wrB
    Reg.MEM_FCAP_STATUS_TRIGGERED d true).wrB Reg.MEM_FCAP_STATUS_UNREAD d true).wrB Reg.MEM_FCAP_CTRL_ARM d false

theorem captureStops_eq (s : State) (d : Fin 2) :
    s.captureStops d = (s.captureShut d).note 0x040E d none ((s.captureShut d).rd Reg.MEM_FCAP_STATUS_RECORDS d) := rfl

theorem captureShut_tel (s : State) (d : Fin 2) : (s.captureShut d).tel =
    { s.tel with capture := s.tel.capture.set d { s.tel.capture[d] with posting := false } } := by
  rw [captureShut, wrB, wr_tel, wrB, wr_tel, wrB, wr_tel]
  dsimp only
  rw [tel_of_noCtl (countdownBack_noCtl s d)]

theorem captureStops_capture (s : State) (d : Fin 2) : (s.captureStops d).tel.capture =
    s.tel.capture.set d { s.tel.capture[d] with posting := false } :=
  (congrArg Tel.capture (captureShut_tel s d) :)

/-- Whether a field is none of those by which a capture of a die shows that it stopped, beside the countdown. -/
def apartFromStop (f : Field) (i : Nat) (d : Fin 2) : Bool :=
  apart Reg.MEM_FCAP_STATUS_TRIGGERED d f i && apart Reg.MEM_FCAP_STATUS_UNREAD d f i && apart Reg.MEM_FCAP_CTRL_ARM d f i

theorem rd_captureShut (s : State) {d : Fin 2} {f : Field} {i : Nat} (h : apartFromStop f i d = true) :
    (s.captureShut d).rd f i = (s.countdownBack d).rd f i := by
  simp only [apartFromStop, Bool.and_eq_true] at h
  obtain ⟨⟨htrig, hunread⟩, harm⟩ := h
  rw [captureShut, wrB, rd_wr_other _ _ harm, wrB, rd_wr_other _ _ hunread, wrB, rd_wr_other _ _ htrig, rd_with_tel]

theorem captureShut_shows (s : State) (d : Fin 2) : (s.captureShut d).rdB Reg.MEM_FCAP_CTRL_ARM d = false ∧
    (s.captureShut d).rdB Reg.MEM_FCAP_STATUS_TRIGGERED d = true ∧ (s.captureShut d).rdB Reg.MEM_FCAP_STATUS_UNREAD d = true := by
  have hall : ∀ d : Fin 2, apart Reg.MEM_FCAP_CTRL_ARM d Reg.MEM_FCAP_STATUS_TRIGGERED d = true ∧
      apart Reg.MEM_FCAP_CTRL_ARM d Reg.MEM_FCAP_STATUS_UNREAD d = true ∧
      apart Reg.MEM_FCAP_STATUS_UNREAD d Reg.MEM_FCAP_STATUS_TRIGGERED d = true := by decide
  obtain ⟨h1, h2, h3⟩ := hall d
  refine ⟨?_, ?_, ?_⟩
  · rw [captureShut, rdB_wrB_same _ _ _ _ rfl]
  · rw [captureShut, rdB, wrB, rd_wr_other _ _ h1, wrB, rd_wr_other _ _ h3, ← rdB, rdB_wrB_same _ _ _ _ rfl]
  · rw [captureShut, rdB, wrB, rd_wr_other _ _ h2, ← rdB, rdB_wrB_same _ _ _ _ rfl]

theorem stamp_captureShut (s : State) (d : Fin 2) (sl : Option (Fin 8)) : (s.captureShut d).stamp sl = s.stamp sl := by
  have hall : ∀ d : Fin 2, apartFromStamp Reg.MEM_FCAP_CTRL_ARM d = true ∧ apartFromStamp Reg.MEM_FCAP_STATUS_TRIGGERED d = true ∧
      apartFromStamp Reg.MEM_FCAP_STATUS_UNREAD d = true := by decide
  obtain ⟨h1, h2, h3⟩ := hall d
  rw [captureShut, wrB, stamp_wr _ _ h1, wrB, stamp_wr _ _ h3, wrB, stamp_wr _ _ h2]
  refine Eq.trans (b := (s.countdownBack d).stamp sl) rfl ?_
  exact ite_keeps (stamp · sl) _ (stamp_wr _ _ (by decide)) rfl

/-- A field beside the sequence number of events is as before an event without its captures. -/
theorem rd_note_beside (s : State) (c u : Nat) (sl : Option (Fin 8)) (a : Nat) {f : Field} {i : Nat}
    (h : 0x03F004 + 4 ≤ fieldAddr f i ∨ fieldAddr f i + 4 * fieldWords f ≤ 0x03F004) : (s.note c u sl a).rd f i = s.rd f i := by
  rw [note, rd_takeDseq _ h]
  exact rd_of_ctl (logRec_ctl ..) f i

/-- A capture stops: what it leaves, then what its event triggers of the other die's. -/
theorem captureStop_cases (s : State) (d : Fin 2) : s.captureStop d = s.captureStops d ∨
    ((s.captureStops d).rd Reg.MEM_FCAP_CTRL_POST (1 - d : Fin 2) = 0 ∧
      s.captureStop d = (s.captureStops d).captureStops (1 - d)) ∨
    s.captureStop d = (s.captureStops d).capturePosts (1 - d) := by
  simp only [captureStop]
  split
  · exact .inl rfl
  · split
    case isTrue h => exact .inr (.inl ⟨h, rfl⟩)
    case isFalse => exact .inr (.inr rfl)

/-- What the other die's capture leaves of what a field shows. -/
theorem rd_captureStop (s : State) {d : Fin 2} {f : Field} {i : Nat}
    (hdseq : 0x03F004 + 4 ≤ fieldAddr f i ∨ fieldAddr f i + 4 * fieldWords f ≤ 0x03F004)
    (hother : apartFromStop f i (1 - d) = true) : (s.captureStop d).rd f i = (s.captureShut d).rd f i := by
  have hself : (s.captureStops d).rd f i = (s.captureShut d).rd f i := by rw [captureStops_eq, rd_note_beside _ _ _ _ _ hdseq]
  rcases captureStop_cases s d with h | ⟨hpost, h⟩ | h
  · rw [h, hself]
  · rw [h, captureStops_eq, rd_note_beside _ _ _ _ _ hdseq, rd_captureShut _ hother, rd_countdownBack _ (.inl hpost), hself]
  · rw [h, capturePosts, rd_with_tel, hself]

theorem capturePosts_capture (s : State) (d : Fin 2) :
    (s.capturePosts d).tel.capture = s.tel.capture.set d { s.tel.capture[d] with posting := true } := id rfl

theorem captureStop_capture (s : State) (d : Fin 2) :
    (s.captureStop d).tel.capture[d] = { s.tel.capture[d] with posting := false } := by
  have hne : ∀ d : Fin 2, (1 - d : Fin 2).val ≠ d.val := by decide
  have hself : (s.captureStops d).tel.capture[d] = { s.tel.capture[d] with posting := false } := by
    rw [captureStops_capture]
    exact Vector.getElem_set_self _
  rcases captureStop_cases s d with h | ⟨-, h⟩ | h
  · rw [h, hself]
  · rw [h, captureStops_capture]
    exact (Vector.getElem_set_ne _ _ (hne d)).trans hself
  · rw [h, capturePosts_capture]
    exact (Vector.getElem_set_ne _ _ (hne d)).trans hself

/-- The record of an event stands in the log after it. -/
theorem note_logs (s : State) (c u : Nat) (sl : Option (Fin 8)) (a : Nat) : (s.note c u sl a).logged (s.eventRec c u sl a) 0 :=
  logged_tel rfl (logRec_logs s (s.eventRec c u sl a))

theorem capturePosts_logged {s : State} {r : BitVec 128} {n : Nat} (d : Fin 2) (h : s.logged r n) : (s.capturePosts d).logged r n :=
  logged_tel rfl h

theorem captureStop_logs (s : State) (d : Fin 2) :
    s.eventRec 0x040E d none (s.rd Reg.MEM_FCAP_STATUS_RECORDS d) ∈ (s.captureStop d).tel.log := by
  have hrec : (s.captureShut d).rd Reg.MEM_FCAP_STATUS_RECORDS d = s.rd Reg.MEM_FCAP_STATUS_RECORDS d := by
    have hall : ∀ d : Fin 2, apartFromStop Reg.MEM_FCAP_STATUS_RECORDS d d = true ∧
        apart Reg.HRT_CD_HOLD_CD3 0 Reg.MEM_FCAP_STATUS_RECORDS d = true := by decide
    rw [rd_captureShut _ (hall d).1, rd_countdownBack _ (.inr (hall d).2)]
  have hself : (s.captureStops d).logged (s.eventRec 0x040E d none (s.rd Reg.MEM_FCAP_STATUS_RECORDS d)) 0 := by
    have hnote := note_logs (s.captureShut d) 0x040E d none (s.rd Reg.MEM_FCAP_STATUS_RECORDS d)
    rwa [eventRec_of_stamp (stamp_captureShut s d none), ← hrec, ← captureStops_eq, hrec] at hnote
  have hlog : (s.captureStop d).logged (s.eventRec 0x040E d none (s.rd Reg.MEM_FCAP_STATUS_RECORDS d)) 1 := by
    rcases captureStop_cases s d with h | ⟨-, h⟩ | h
    · rw [h]
      exact logged_mono hself (by decide)
    · rw [h]
      exact captureStops_keeps _ hself (by decide)
    · rw [h]
      exact logged_mono (capturePosts_logged _ hself) (by decide)
  obtain ⟨l, m, hl, -⟩ := hlog
  rw [hl]
  simp

end State

/-- What a command shows that stops a die's capture. -/
def captureStopped (s t : State) (d : Fin 2) : Prop :=
  t.rdB Reg.MEM_FCAP_CTRL_ARM d = false ∧ t.rdB Reg.MEM_FCAP_STATUS_TRIGGERED d = true ∧
    t.rdB Reg.MEM_FCAP_STATUS_UNREAD d = true ∧
    t.rd Reg.HRT_CD_HOLD_CD3 0 = (if s.rd Reg.MEM_FCAP_CTRL_POST d = 0 then s.rd Reg.HRT_CD_HOLD_CD3 0 else 0) ∧
    Raised s t 0x040E d none (s.rd Reg.MEM_FCAP_STATUS_RECORDS d) ∧
    t.tel.capture[d] = { s.tel.capture[d] with posting := false } ∧ EventsOnly s t []

theorem done_captureStop (s : State) (d : Fin 2) : captureStopped s ((s.captureStop d).done s.pending) d := by
  have hall : ∀ d : Fin 2, ∀ f ∈ [Reg.MEM_FCAP_CTRL_ARM, Reg.MEM_FCAP_STATUS_TRIGGERED, Reg.MEM_FCAP_STATUS_UNREAD],
      ownField f d = true ∧ apartFromStop f d (1 - d) = true ∧
        (0x03F004 + 4 ≤ fieldAddr f d ∨ fieldAddr f d + 4 * fieldWords f ≤ 0x03F004) := by decide
  have hcd : ∀ d : Fin 2, apartFromStop Reg.HRT_CD_HOLD_CD3 0 (1 - d) = true ∧ apartFromStop Reg.HRT_CD_HOLD_CD3 0 d = true := by
    decide
  have hrdB {f : Field} (hf : f ∈ [Reg.MEM_FCAP_CTRL_ARM, Reg.MEM_FCAP_STATUS_TRIGGERED, Reg.MEM_FCAP_STATUS_UNREAD]) :
      ((s.captureStop d).done s.pending).rdB f d = (s.captureShut d).rdB f d := by
    obtain ⟨hown, hother, hdseq⟩ := hall d f hf
    rw [done_rdB _ hown, rdB, rd_captureStop _ hdseq hother, rdB]
  obtain ⟨harm, htrig, hunread⟩ := captureShut_shows s d
  refine ⟨(hrdB (by simp)).trans harm, (hrdB (by simp)).trans htrig, (hrdB (by simp)).trans hunread, ?_, ?_, ?_,
    done_eventsOnly (captureStop_noEvent ..) fun a _ ha => captureStop_word s d a ha⟩
  · rw [done_rd _ (by decide), rd_captureStop _ (.inr (by decide)) (hcd d).1, rd_captureShut _ (hcd d).2, countdownBack_cd3]
  · rw [Raised, done_tel]
    exact captureStop_logs s d
  · rw [done_tel]
    exact captureStop_capture s d

/-! Writes of MEM_FCAP_CTRL. -/

section
variable {s : State} {w : Writer} {d : Die} {v : Word} (hw : writable s w (0x070500 + 0x20 * d.val) = true)
include hw

theorem exec_captureArm_busy (hpart : bits s.ms.part[d].toNat 27 24 ≠ 0) (hdump : bit v.toNat 6 = true) :
    ∃ t, exec (.captureArm w d v) s = .next t ∧ RegsOnly { s with wres := .busy 7 d.val } t [] := by
  obtain ⟨x, hx⟩ : ∃ x, x = putBits v.toNat 4 4 1 := ⟨_, rfl⟩
  refine exec_regWrite_refused (v := x) (f := fun s => s.fcapWrite d x) (by subst hx; rfl) hw ?_
  have harm : bit x 4 = true := by rw [hx, bit_putBits_same]; rfl
  have hdump' : bit x 6 = true := by rw [hx, bit_putBits_above _ _ _ _ (by decide) (by decide), hdump]
  unfold fcapWrite
  rw [if_pos harm, if_neg hpart, hdump', Bool.or_true, if_pos rfl]

/-- What a capture armed leaves. -/
theorem exec_captureArm (hpart : bits s.ms.part[d].toNat 27 24 ≠ 0) (hoff : s.rdB Reg.MEM_FCAP_CTRL_ARM d = false)
    (hread : s.rdB Reg.MEM_FCAP_STATUS_UNREAD d = false) (hdump : bit v.toNat 6 = false)
    (hfree : bits v.toNat 15 8 = 0 ∨ s.rd Reg.HRT_CD_HOLD_CD3 0 = 0) :
    exec (.captureArm w d v) s = .next (wrote s (s.captureArm d v.toNat)) := by
  obtain ⟨x, hx⟩ : ∃ x, x = putBits v.toNat 4 4 1 := ⟨_, rfl⟩
  refine exec_regWrite (v := x) (f := fun s => s.fcapWrite d x) (by subst hx; rfl) hw ?_
  have harm : bit x 4 = true := by rw [hx, bit_putBits_same]; rfl
  have hdump' : bit x 6 = false := by rw [hx, bit_putBits_above _ _ _ _ (by decide) (by decide), hdump]
  have hsame : sameCapture x v.toNat := hx ▸ sameCapture_arm _ _
  have hcd : (decide (bits x 15 8 ≠ 0) && decide (s.rd Reg.HRT_CD_HOLD_CD3 0 ≠ 0)) = false := by
    rw [hsame.2.2.1]
    rcases hfree with h | h <;> simp [h]
  have hform (u : State) : u.captureArm d x = u.captureArm d v.toNat := by
    simp only [State.captureArm, captureFields_congr hsame, hsame.2.2.1]
  unfold fcapWrite
  rw [if_pos harm, if_neg hpart, hoff, hread, hdump', if_neg (by decide), hcd, if_neg (by decide), hform]

theorem exec_captureDisarm : exec (.captureDisarm w d v) s = .next (wrote s ((s.captureOff d).captureFields d v.toNat)) := by
  obtain ⟨x, hx⟩ : ∃ x, x = putBits (putBits v.toNat 4 4 0) 6 6 0 := ⟨_, rfl⟩
  refine exec_regWrite (v := x) (f := fun s => s.fcapWrite d x) (by subst hx; rfl) hw ?_
  have harm : bit x 4 = false := by rw [hx, bit_putBits_below _ _ _ _ (by decide) (by decide), bit_putBits_same]; rfl
  have hdump : bit x 6 = false := by rw [hx, bit_putBits_same]; rfl
  have hsame : sameCapture x v.toNat := hx ▸ sameCapture_trans (sameCapture_dump _ _) (sameCapture_arm _ _)
  unfold fcapWrite
  rw [harm, hdump, if_neg (by decide), if_neg (by decide), captureFields_congr hsame]

theorem exec_captureDump {u : State} (hu : u = (s.captureFields d v.toNat).wrB Reg.MEM_FCAP_STATUS_DUMPING d true)
    (htrig : s.rdB Reg.MEM_FCAP_STATUS_TRIGGERED d = true)
    (hidle : s.rdB Reg.MEM_FCAP_STATUS_DUMPING d = false) :
    exec (.captureDump w d v) s = .next (wrote s (u.store ⟨d, none, false, 1⟩ (s.rd Reg.MEM_FCAP_DST_DST d * 64)
      (s.tel.capture[d].recs.flatMap fun r => toBytes 64 r.toNat))) := by
  obtain ⟨x, hx⟩ : ∃ x, x = putBits (putBits v.toNat 4 4 0) 6 6 1 := ⟨_, rfl⟩
  refine exec_regWrite (v := x) (f := fun s => s.fcapWrite d x) (by subst hx; rfl) hw ?_
  have harm : bit x 4 = false := by rw [hx, bit_putBits_below _ _ _ _ (by decide) (by decide), bit_putBits_same]; rfl
  have hdump : bit x 6 = true := by rw [hx, bit_putBits_same]; rfl
  have hsame : sameCapture x v.toNat := hx ▸ sameCapture_trans (sameCapture_dump _ _) (sameCapture_arm _ _)
  have hdst : ∀ d : Die, apartFromFields Reg.MEM_FCAP_DST_DST d d = true := by decide
  unfold fcapWrite
  rw [harm, hdump, if_neg (by decide), if_pos rfl, htrig, if_neg (by decide), hidle, if_neg (by decide),
    captureFields_congr hsame, captureDumpStart, rd_captureFields _ _ (hdst d), tel_of_noCtl (captureFields_noCtl ..), ← hu]

end

/-! What arming, disarming and dumping show. -/

namespace State

/-- A capture armed, but for the countdown of its post-trigger delay. -/
def captureFresh (s : State) (d : Fin 2) (v : Nat) : State :=
  (((({ s with tel := { s.tel with capture := s.tel.capture.set d ⟨[], 0, false⟩ } } : State).captureFields d v).wrB
    Reg.MEM_FCAP_CTRL_ARM d true).wrB Reg.MEM_FCAP_STATUS_DROPPED d false).wr Reg.MEM_FCAP_STATUS_RECORDS d 0

theorem captureArm_eq (s : State) (d : Fin 2) (v : Nat) : s.captureArm d v =
    if bits v 15 8 ≠ 0 then (s.captureFresh d v).wr Reg.HRT_CD_HOLD_CD3 0 2 else s.captureFresh d v := rfl

theorem captureArm_noCtl (s : State) (d : Fin 2) (v : Nat) : (s.captureArm d v).noCtl =
    ({ s with tel := { s.tel with capture := s.tel.capture.set d ⟨[], 0, false⟩ } } : State).noCtl := by
  have hfresh : (s.captureFresh d v).noCtl =
      ({ s with tel := { s.tel with capture := s.tel.capture.set d ⟨[], 0, false⟩ } } : State).noCtl := by
    rw [captureFresh, wr_noCtl, wrB_noCtl, wrB_noCtl, captureFields_noCtl]
  rw [captureArm_eq]
  exact ite_keeps noCtl _ ((wr_noCtl ..).trans hfresh) hfresh

theorem word_captureArm (s : State) {d : Fin 2} (v : Nat) {a : Nat}
    (h : a ∉ [0x070500 + 0x20 * d.val, 0x070504 + 0x20 * d.val, 0x000180]) : (s.captureArm d v).word a = s.word a := by
  have hin : ∀ d : Fin 2, ∀ f ∈ [Reg.MEM_FCAP_CTRL_ARM, Reg.MEM_FCAP_STATUS_DROPPED, Reg.MEM_FCAP_STATUS_RECORDS],
      State.within f d [0x070500 + 0x20 * d.val, 0x070504 + 0x20 * d.val, 0x000180] = true := by decide
  have hcd : ∀ d : Fin 2, State.within Reg.HRT_CD_HOLD_CD3 0 [0x070500 + 0x20 * d.val, 0x070504 + 0x20 * d.val, 0x000180] = true := by
    decide
  have hne : a ≠ 0x070500 + 0x20 * d.val := fun he => h (by rw [he]; exact List.mem_cons_self)
  have hfresh : (s.captureFresh d v).word a = s.word a := by
    rw [captureFresh, word_wr_listed h (hin d _ (by decide)), word_wrB_listed h (hin d _ (by decide)),
      word_wrB_listed h (hin d _ (by decide)), word_captureFields _ _ _ hne]
    rfl
  rw [captureArm_eq]
  exact ite_keeps (word · a) _ ((word_wr_listed h (hcd d)).trans hfresh) hfresh

theorem rd_captureArm (s : State) (d : Fin 2) (v : Nat) {f : Field} {i : Nat} (h : apart Reg.HRT_CD_HOLD_CD3 0 f i = true) :
    (s.captureArm d v).rd f i = (s.captureFresh d v).rd f i := by
  rw [captureArm_eq]
  exact ite_keeps (rd · f i) _ (rd_wr_other _ _ h) rfl

theorem captureArm_cd3 (s : State) (d : Fin 2) (v : Nat) : (s.captureArm d v).rd Reg.HRT_CD_HOLD_CD3 0 =
    if bits v 15 8 = 0 then s.rd Reg.HRT_CD_HOLD_CD3 0 else 2 := by
  have hall : ∀ d : Fin 2, apart Reg.MEM_FCAP_STATUS_RECORDS d Reg.HRT_CD_HOLD_CD3 0 = true ∧
      apart Reg.MEM_FCAP_STATUS_DROPPED d Reg.HRT_CD_HOLD_CD3 0 = true ∧
      apart Reg.MEM_FCAP_CTRL_ARM d Reg.HRT_CD_HOLD_CD3 0 = true ∧ apartFromFields Reg.HRT_CD_HOLD_CD3 0 d = true := by decide
  obtain ⟨hrec, hdrop, harm, hfields⟩ := hall d
  rw [captureArm_eq, ite_not]
  split
  · rw [captureFresh, rd_wr_other _ _ hrec, wrB, rd_wr_other _ _ hdrop, wrB, rd_wr_other _ _ harm, rd_captureFields _ _ hfields,
      rd_setCapture]
  · exact rd_wr_same _ _ _ _ (by decide)

theorem captureFresh_shows (s : State) (d : Fin 2) (v : Nat) : (s.captureFresh d v).showsCapture d v ∧
    (s.captureFresh d v).rdB Reg.MEM_FCAP_CTRL_ARM d = true ∧ (s.captureFresh d v).rd Reg.MEM_FCAP_STATUS_RECORDS d = 0 ∧
    (s.captureFresh d v).rdB Reg.MEM_FCAP_STATUS_DROPPED d = false := by
  have hall : ∀ d : Fin 2, ∀ f ∈ [Reg.MEM_FCAP_CTRL_SRC, Reg.MEM_FCAP_CTRL_AUXTRIG, Reg.MEM_FCAP_CTRL_POST,
      Reg.MEM_FCAP_CTRL_TRIG_CODE], apart Reg.MEM_FCAP_STATUS_RECORDS d f d = true ∧
      apart Reg.MEM_FCAP_STATUS_DROPPED d f d = true ∧ apart Reg.MEM_FCAP_CTRL_ARM d f d = true := by decide
  have hflags : ∀ d : Fin 2, apart Reg.MEM_FCAP_STATUS_RECORDS d Reg.MEM_FCAP_CTRL_ARM d = true ∧
      apart Reg.MEM_FCAP_STATUS_DROPPED d Reg.MEM_FCAP_CTRL_ARM d = true ∧
      apart Reg.MEM_FCAP_STATUS_RECORDS d Reg.MEM_FCAP_STATUS_DROPPED d = true := by decide
  obtain ⟨h1, h2, h3⟩ := hflags d
  refine ⟨showsCapture_of_rd (captureFields_shows { s with tel := { s.tel with capture := s.tel.capture.set d ⟨[], 0, false⟩ } } d v)
    fun f hf => ?_, ?_, rd_wr_same _ _ _ _ (by decide), ?_⟩
  · obtain ⟨hrec, hdrop, harm⟩ := hall d f hf
    rw [captureFresh, rd_wr_other _ _ hrec, wrB, rd_wr_other _ _ hdrop, wrB, rd_wr_other _ _ harm]
  · rw [captureFresh, rdB, rd_wr_other _ _ h1, wrB, rd_wr_other _ _ h2, ← rdB, rdB_wrB_same _ _ _ _ rfl]
  · rw [captureFresh, rdB, rd_wr_other _ _ h3, ← rdB, rdB_wrB_same _ _ _ _ rfl]

/-- A capture disarmed, by its frame. -/
theorem captureOff_noCtl (s : State) (d : Fin 2) : (s.captureOff d).noCtl = ({ s with tel := { s.tel with
    capture := s.tel.capture.set d { s.tel.capture[d] with posting := false } } } : State).noCtl := by
  have hback (c : Bool) : (if c then s.wr Reg.HRT_CD_HOLD_CD3 0 0 else s).noCtl = s.noCtl :=
    ite_keeps noCtl _ (wr_noCtl ..) rfl
  simp only [captureOff]
  rw [wrB_noCtl]
  obtain ⟨u, hu⟩ : ∃ u : State, u = if s.rdB Reg.MEM_FCAP_CTRL_ARM d && decide (s.rd Reg.MEM_FCAP_CTRL_POST d ≠ 0) then
    s.wr Reg.HRT_CD_HOLD_CD3 0 0 else s := ⟨_, rfl⟩
  have hu' : u.noCtl = s.noCtl := hu ▸ hback _
  rw [← hu, eq_of_noCtl hu']
  rfl

theorem word_captureOff (s : State) {d : Fin 2} {a : Nat} (h : a ∉ [0x070500 + 0x20 * d.val, 0x000180]) :
    (s.captureOff d).word a = s.word a := by
  have hin : ∀ d : Fin 2, State.within Reg.MEM_FCAP_CTRL_ARM d [0x070500 + 0x20 * d.val, 0x000180] = true ∧
      State.within Reg.HRT_CD_HOLD_CD3 0 [0x070500 + 0x20 * d.val, 0x000180] = true := by decide
  simp only [captureOff]
  rw [word_wrB_listed h (hin d).1, word_with_tel]
  exact ite_keeps (word · a) _ (word_wr_listed h (hin d).2) rfl

theorem captureOff_cd3 (s : State) (d : Fin 2) : (s.captureOff d).rd Reg.HRT_CD_HOLD_CD3 0 =
    if s.rdB Reg.MEM_FCAP_CTRL_ARM d = true ∧ s.rd Reg.MEM_FCAP_CTRL_POST d ≠ 0 then 0 else s.rd Reg.HRT_CD_HOLD_CD3 0 := by
  have hap : ∀ d : Fin 2, apart Reg.MEM_FCAP_CTRL_ARM d Reg.HRT_CD_HOLD_CD3 0 = true := by decide
  simp only [captureOff]
  rw [wrB, rd_wr_other _ _ (hap d), rd_with_tel]
  simp only [Bool.and_eq_true, decide_eq_true_eq]
  split
  · exact rd_wr_same _ _ _ _ (by decide)
  · rfl

theorem captureOff_arm (s : State) (d : Fin 2) : (s.captureOff d).rdB Reg.MEM_FCAP_CTRL_ARM d = false := by
  simp only [captureOff]
  rw [rdB_wrB_same _ _ _ _ rfl]

end State

/-- A register write leaves the fields of MEM_FCAP_CTRL as its effect does. -/
theorem wrote_showsCapture {s u : State} {d : Fin 2} {v : Nat} (h : u.showsCapture d v) : (wrote s u).showsCapture d v := by
  have hown : ∀ d : Fin 2, ∀ f ∈ [Reg.MEM_FCAP_CTRL_SRC, Reg.MEM_FCAP_CTRL_AUXTRIG, Reg.MEM_FCAP_CTRL_POST,
      Reg.MEM_FCAP_CTRL_TRIG_CODE], ownField f d = true := by decide
  exact showsCapture_of_rd h fun f hf => wrote_rd (hown d f hf)

section
variable {s : State} {w : Writer} {d : Die} {v : Word} (hw : writable s w (0x070500 + 0x20 * d.val) = true)
include hw

theorem captureArm_clause (hpart : bits s.ms.part[d].toNat 27 24 ≠ 0) (hoff : s.rdB Reg.MEM_FCAP_CTRL_ARM d = false)
    (hread : s.rdB Reg.MEM_FCAP_STATUS_UNREAD d = false) (hdump : bit v.toNat 6 = false)
    (hfree : bits v.toNat 15 8 = 0 ∨ s.rd Reg.HRT_CD_HOLD_CD3 0 = 0) :
    ∃ t, exec (.captureArm w d v) s = .next t ∧ t.showsCapture d v.toNat ∧ t.rdB Reg.MEM_FCAP_CTRL_ARM d = true ∧
      t.rd Reg.MEM_FCAP_STATUS_RECORDS d = 0 ∧ t.rdB Reg.MEM_FCAP_STATUS_DROPPED d = false ∧
      t.rd Reg.HRT_CD_HOLD_CD3 0 = (if bits v.toNat 15 8 = 0 then s.rd Reg.HRT_CD_HOLD_CD3 0 else 2) ∧
      RegsOnly { s with wres := .ok, tel := { s.tel with capture := s.tel.capture.set d ⟨[], 0, false⟩ } } t
        [0x070500 + 0x20 * d.val, 0x070504 + 0x20 * d.val, 0x000180] := by
  obtain ⟨hshown, harm, hrec, hdrop⟩ := captureFresh_shows s d v.toNat
  have hcd : ∀ d : Fin 2, ∀ f ∈ [Reg.MEM_FCAP_CTRL_SRC, Reg.MEM_FCAP_CTRL_AUXTRIG, Reg.MEM_FCAP_CTRL_POST,
      Reg.MEM_FCAP_CTRL_TRIG_CODE, Reg.MEM_FCAP_CTRL_ARM, Reg.MEM_FCAP_STATUS_RECORDS, Reg.MEM_FCAP_STATUS_DROPPED],
      apart Reg.HRT_CD_HOLD_CD3 0 f d = true ∧ ownField f d = true := by decide
  refine ⟨_, exec_captureArm hw hpart hoff hread hdump hfree, wrote_showsCapture (showsCapture_of_rd hshown fun f hf => ?_), ?_, ?_, ?_, ?_,
    wrote_regsOnly rfl ?_ fun a ha => ?_⟩
  · refine rd_captureArm s d _ (hcd d f ?_).1
    simp only [List.mem_cons, List.not_mem_nil, or_false] at hf ⊢
    tauto
  · rw [wrote_rdB (hcd d _ (by decide)).2, rdB, rd_captureArm _ _ _ (hcd d _ (by decide)).1]
    exact harm
  · rw [wrote_rd (hcd d _ (by decide)).2, rd_captureArm _ _ _ (hcd d _ (by decide)).1, hrec]
  · rw [wrote_rdB (hcd d _ (by decide)).2, rdB, rd_captureArm _ _ _ (hcd d _ (by decide)).1]
    exact hdrop
  · rw [wrote_rd (by decide), captureArm_cd3]
  · rw [captureArm_noCtl]
    rfl
  · rw [word_captureArm _ _ ha]
    rfl

theorem captureDisarm_clause : ∃ t, exec (.captureDisarm w d v) s = .next t ∧ t.showsCapture d v.toNat ∧
    t.rdB Reg.MEM_FCAP_CTRL_ARM d = false ∧
    t.rd Reg.HRT_CD_HOLD_CD3 0 = (if s.rdB Reg.MEM_FCAP_CTRL_ARM d = true ∧ s.rd Reg.MEM_FCAP_CTRL_POST d ≠ 0 then 0
      else s.rd Reg.HRT_CD_HOLD_CD3 0) ∧
    RegsOnly { s with wres := .ok, tel := { s.tel with
      capture := s.tel.capture.set d { s.tel.capture[d] with posting := false } } } t [0x070500 + 0x20 * d.val, 0x000180] := by
  have hall : ∀ d : Fin 2, ownField Reg.MEM_FCAP_CTRL_ARM d = true ∧ apartFromFields Reg.MEM_FCAP_CTRL_ARM d d = true ∧
      apartFromFields Reg.HRT_CD_HOLD_CD3 0 d = true := by decide
  obtain ⟨hown, harm, hcd⟩ := hall d
  refine ⟨_, exec_captureDisarm hw, wrote_showsCapture (captureFields_shows ..), ?_, ?_, wrote_regsOnly rfl ?_ fun a ha => ?_⟩
  · rw [wrote_rdB hown, rdB, rd_captureFields _ _ harm]
    exact captureOff_arm s d
  · rw [wrote_rd (by decide), rd_captureFields _ _ hcd, captureOff_cd3]
  · rw [captureFields_noCtl, captureOff_noCtl]
    rfl
  · rw [word_captureFields _ _ _ (fun h => ha (by rw [h]; exact List.mem_cons_self)), word_captureOff _ ha]
    rfl

end

theorem exec_captureDumpDone {s : State} {d : Die} (hdumping : s.rdB Reg.MEM_FCAP_STATUS_DUMPING d = true) :
    ∃ t, exec (.captureDumpDone d) s = .next t ∧ t.rdB Reg.MEM_FCAP_STATUS_DUMPING d = false ∧
      t.rdB Reg.MEM_FCAP_STATUS_UNREAD d = false ∧ t.rdB Reg.MEM_FCAP_STATUS_TRIGGERED d = false ∧
      RegsOnly s t [0x070504 + 0x20 * d.val] := by
  have hall : ∀ d : Fin 2, apart Reg.MEM_FCAP_STATUS_TRIGGERED d Reg.MEM_FCAP_STATUS_UNREAD d = true ∧
      apart Reg.MEM_FCAP_STATUS_TRIGGERED d Reg.MEM_FCAP_STATUS_DUMPING d = true ∧
      apart Reg.MEM_FCAP_STATUS_UNREAD d Reg.MEM_FCAP_STATUS_DUMPING d = true := by decide
  have hin : ∀ d : Fin 2, ∀ f ∈ [Reg.MEM_FCAP_STATUS_TRIGGERED, Reg.MEM_FCAP_STATUS_UNREAD, Reg.MEM_FCAP_STATUS_DUMPING],
      State.within f d [0x070504 + 0x20 * d.val] = true ∧ ownField f d = true := by decide
  obtain ⟨h1, h2, h3⟩ := hall d
  have hexec : exec (.captureDumpDone d) s = .next ((((s.wrB Reg.MEM_FCAP_STATUS_DUMPING d false).wrB
      Reg.MEM_FCAP_STATUS_UNREAD d false).wrB Reg.MEM_FCAP_STATUS_TRIGGERED d false).done s.pending) := by
    show act s (s.captureDumpEnd d) = _
    rw [captureDumpEnd, hdumping]
    rfl
  refine ⟨_, hexec, ?_, ?_, ?_, done_regsOnly ?_ fun a ha => ?_⟩
  · rw [done_rdB _ (hin d _ (by decide)).2, rdB, wrB, rd_wr_other _ _ h2, wrB, rd_wr_other _ _ h3, ← rdB, rdB_wrB_same _ _ _ _ rfl]
  · rw [done_rdB _ (hin d _ (by decide)).2, rdB, wrB, rd_wr_other _ _ h1, ← rdB, rdB_wrB_same _ _ _ _ rfl]
  · rw [done_rdB _ (hin d _ (by decide)).2, rdB_wrB_same _ _ _ _ rfl]
  · rw [wrB_noCtl, wrB_noCtl, wrB_noCtl]
  · rw [word_wrB_listed ha (hin d _ (by decide)).1, word_wrB_listed ha (hin d _ (by decide)).1,
      word_wrB_listed ha (hin d _ (by decide)).1]

/-! What a capture's trigger and the end of its delay do. -/

theorem exec_capturePostExpire {s : State} {d : Die} (hposting : s.tel.capture[d].posting = true) :
    ∃ t, exec (.capturePostExpire d) s = .next t ∧ captureStopped s t d := by
  have hexec : exec (.capturePostExpire d) s = .next ((s.captureStop d).done s.pending) := by
    show act s (if s.tel.capture[d].posting then s.captureStop d else s) = _
    rw [if_pos hposting, act_next]
  exact ⟨_, hexec, done_captureStop s d⟩

theorem captureTrigger_auxtrig {s : State} (d : Fin 2) {e : Fin 2} (hoff : s.rdB Reg.MEM_FCAP_CTRL_AUXTRIG e = false) :
    (s.captureTrigger d).rdB Reg.MEM_FCAP_CTRL_AUXTRIG e = false := by
  have hall : ∀ e : Fin 2, apartFromEvent Reg.MEM_FCAP_CTRL_AUXTRIG e = true := by decide
  rw [rdB, rd_captureTrigger_apart (hall e), ← rdB, hoff]

/-- The pin's edge triggers the one capture that follows it. -/
theorem auxEdge_eq {s : State} {pin : Fin 2} {d : Die} (htripped : s.rdB Reg.HRT_AUX_TRIPPED 0 = false)
    (hfunc : (if pin = 0 then s.rd Reg.HRT_AUX_FUNC0 0 else s.rd Reg.HRT_AUX_FUNC1 0) = 2)
    (htrig : s.rdB Reg.MEM_FCAP_CTRL_AUXTRIG d = true) (honly : ∀ e : Die, e ≠ d → s.rdB Reg.MEM_FCAP_CTRL_AUXTRIG e = false) :
    s.auxEdge pin = s.captureTrigger d := by
  have hd : ∀ d : Fin 2, d = 0 ∨ d = 1 := by decide
  simp only [auxEdge]
  rw [hfunc, htripped, if_pos (by decide)]
  rcases hd d with rfl | rfl
  · rw [if_pos htrig, if_neg (Bool.eq_false_iff.mp (captureTrigger_auxtrig 0 (honly 1 (by decide))))]
  · rw [if_neg (Bool.eq_false_iff.mp (honly 0 (by decide))), if_pos htrig]

theorem exec_auxCaptureEdge {s : State} {pin : Fin 2} {d : Die} (hpow : s.powered = true)
    (htripped : s.rdB Reg.HRT_AUX_TRIPPED 0 = false)
    (hfunc : (if pin = 0 then s.rd Reg.HRT_AUX_FUNC0 0 else s.rd Reg.HRT_AUX_FUNC1 0) = 2)
    (htrig : s.rdB Reg.MEM_FCAP_CTRL_AUXTRIG d = true) (harm : s.rdB Reg.MEM_FCAP_CTRL_ARM d = true)
    (hidle : s.tel.capture[d].posting = false) (honly : ∀ e : Die, e ≠ d → s.rdB Reg.MEM_FCAP_CTRL_AUXTRIG e = false) :
    ∃ t, exec (.auxCaptureEdge pin) s = .next t ∧ (s.rd Reg.MEM_FCAP_CTRL_POST d = 0 → captureStopped s t d) ∧
      (s.rd Reg.MEM_FCAP_CTRL_POST d ≠ 0 → RegsOnly { s with tel := { s.tel with
        capture := s.tel.capture.set d { s.tel.capture[d] with posting := true } } } t []) := by
  have hexec : exec (.auxCaptureEdge pin) s = .next ((s.captureTrigger d).done s.pending) := by
    show act s (if s.powered then s.auxEdge pin else s) = _
    rw [if_pos hpow, auxEdge_eq htripped hfunc htrig honly, act_next]
  have htrigger : s.captureTrigger d = if s.rd Reg.MEM_FCAP_CTRL_POST d = 0 then s.captureStop d else s.capturePosts d := by
    rw [captureTrigger, harm, hidle]
    rfl
  refine ⟨_, hexec, fun hpost => ?_, fun hpost => ?_⟩
  · rw [htrigger, if_pos hpost]
    exact done_captureStop s d
  · rw [htrigger, if_neg hpost]
    exact done_regsOnly (s := s.capturePosts d) rfl fun _ _ => rfl

/-! Sampling and the lead. -/

theorem exec_sampleEnable {s : State} {w : Writer} {v : Word} (hw : writable s w 0x03F008 = true) (hperiod : bits v.toNat 23 0 ≠ 0)
    (hlen : s.rd Reg.TEL_SRING_LEN_LEN 0 ≠ 0) (hfree : s.rd Reg.HRT_CD_HOLD_CD3 0 ≠ 2) :
    ∃ t, exec (.sampleEnable w v) s = .next t ∧ t.rd Reg.TEL_SAMPLE_CTRL_PERIOD 0 = bits v.toNat 23 0 ∧
      t.rdB Reg.TEL_SAMPLE_CTRL_EN 0 = true ∧ t.rd Reg.HRT_CD_HOLD_CD3 0 = 1 ∧
      RegsOnly { s with wres := .ok } t [0x03F008, 0x000180] := by
  obtain ⟨x, hx⟩ : ∃ x, x = putBits v.toNat 24 24 1 := ⟨_, rfl⟩
  have hen : bit x 24 = true := by rw [hx, bit_putBits_same]; rfl
  have hbits : bits x 23 0 = bits v.toNat 23 0 := by rw [hx, bits_putBits_below _ _ _ _ _ _ (by decide) (by decide) (by decide)]
  have hform : s.sampleWrite x = ((((s.wr Reg.TEL_SAMPLE_CTRL_PERIOD 0 (bits v.toNat 23 0)).wrB Reg.TEL_SAMPLE_CTRL_EN 0 true).wr
      Reg.HRT_CD_HOLD_CD3 0 1), .ok) := by
    unfold sampleWrite
    rw [hbits, hen, if_neg hperiod, if_pos rfl, if_neg hlen, if_neg hfree]
  refine ⟨wrote s _, exec_regWrite (v := x) (f := fun s => s.sampleWrite x) (by subst hx; rfl) hw hform, ?_, ?_, ?_,
    wrote_regsOnly rfl ?_ fun a ha => ?_⟩
  · rw [wrote_rd (by decide), rd_wr_other _ _ (by decide), wrB, rd_wr_other _ _ (by decide), rd_wr_same _ _ _ _ (by decide)]
    exact Nat.mod_eq_of_lt (bits_lt v.toNat 23 0)
  · rw [wrote_rdB (by decide), rdB, rd_wr_other _ _ (by decide), ← rdB, rdB_wrB_same _ _ _ _ rfl]
  · rw [wrote_rd (by decide), rd_wr_same _ _ _ _ (by decide)]
    rfl
  · rw [wr_noCtl, wrB_noCtl, wr_noCtl]
    rfl
  · rw [word_wr_listed ha (by decide), word_wrB_listed ha (by decide), word_wr_listed ha (by decide)]
    exact (word_with_wres ..).symm

theorem exec_telemetrySample {s : State} (hen : s.rdB Reg.TEL_SAMPLE_CTRL_EN 0 = true) (hmem : s.memUp = true)
    (hlen : s.rd Reg.TEL_SRING_LEN_LEN 0 ≠ 0) :
    exec .telemetrySample s = .next (((s.takeDseq.store ⟨0, none, false, 1⟩ (s.rd Reg.TEL_SRING_HI_BASE_HI 0 * 2 ^ 32 +
        s.rd Reg.TEL_SRING_LO_BASE_LO 0 * 2 ^ 6 + 64 * s.rd Reg.TEL_SRING_LEN_POS 0) (toBytes 64 s.sampleRecord)).wr
        Reg.TEL_SRING_LEN_POS 0 ((s.rd Reg.TEL_SRING_LEN_POS 0 + 1) % s.rd Reg.TEL_SRING_LEN_LEN 0)).done s.pending) := by
  show act s s.sample = _
  unfold sample
  rw [hen, hmem, if_neg (by simpa using hlen), act_next]

theorem exec_leadWrite {s : State} {w : Writer} (lead : BitVec 3) (hw : writable s w 0x03F000 = true) :
    ∃ t, exec (.leadWrite w lead) s = .next t ∧ t.rd Reg.TEL_CTRL_LEAD 0 = lead.toNat ∧
      RegsOnly { s with wres := .ok } t [0x03F000] := by
  refine ⟨wrote s _, exec_regWrite rfl hw rfl, ?_, wrote_regsOnly rfl ?_ fun a ha => ?_⟩
  · rw [wrote_rd (by decide), rd_wr_same _ _ _ _ (by decide)]
    exact Nat.mod_eq_of_lt lead.isLt
  · rw [wr_noCtl]
    rfl
  · rw [word_wr_listed ha (by decide)]
    exact (word_with_wres ..).symm

/-- Settles O42: a capture's write takes its fields in each of its branches, and a capture that stops shows it whatever its
event triggers of the other die's. -/
theorem captureAndSamples : Obligations.CaptureAndSamples := by
  unfold Obligations.CaptureAndSamples
  intro s w d v lead ctl st post cd3 c fields stopped
  refine ⟨fun hw hpart hoff hread hdump hfree => captureArm_clause hw hpart hoff hread hdump hfree,
    fun hw hpart hdump => exec_captureArm_busy hw hpart hdump, fun hw => captureDisarm_clause hw,
    fun pin hpow htripped hfunc htrig harm hidle honly => exec_auxCaptureEdge hpow htripped hfunc htrig harm hidle honly,
    fun hposting => exec_capturePostExpire hposting, fun hw htrig hidle => ?_, fun hdumping => exec_captureDumpDone hdumping,
    fun hw hperiod hlen hfree => exec_sampleEnable hw hperiod hlen hfree,
    fun hen hmem hlen => exec_telemetrySample hen hmem hlen, fun hw => exec_leadWrite lead hw⟩
  have hap : ∀ d : Fin 2, ∀ f ∈ [Reg.MEM_FCAP_CTRL_SRC, Reg.MEM_FCAP_CTRL_AUXTRIG, Reg.MEM_FCAP_CTRL_POST,
      Reg.MEM_FCAP_CTRL_TRIG_CODE], apart Reg.MEM_FCAP_STATUS_DUMPING d f d = true := by decide
  exact ⟨exec_captureDump hw rfl htrig hidle,
    showsCapture_of_rd (captureFields_shows s d v.toNat) fun f hf => rd_wr_other _ _ (hap d f hf)⟩

end Sys2Proof.Machine
end


section
/-!
The stages of start-up up to READY (R391, R473, R474, R521, R526).
-/
namespace Sys2Proof.Machine

open State Sys2Proof.Safety

/-! Lendephor's steps (R473). -/

namespace State

/-- The measurements of the boot ROM and of the lifecycle state, with what shows the lifecycle. -/
def bootMeasured (s : State) (lc : Nat) (bad : Bool) (cert : List Byte) : State :=
  let i := ((s.extend 0 (toBytes 32 Config.romDigest.toNat)).loadLc lc).wrB Reg.SEC_LC_IDFAIL 0 bad
  ({ i with sec := { i.sec with attCert := cert } } : State).extend 3 [BitVec.ofNat 8 lc]

/-- Start-up before its firmware is chosen. -/
def bootShown (s : State) (lc : Nat) (bad : Bool) (cert : List Byte) : State :=
  let m := (s.bootMeasured lc bad cert).drawNonce
  let f : State := { m with flash := { m.flash with fw := m.flash.fw.map fwSettled } }
  f.wr Reg.SEC_FLOOR_FLOOR 0 f.floorNow.toNat

/-- Start-up with the firmware of a slot loaded. -/
def fwLoaded (b : State) (n : Fin 2) : State :=
  (((b.measureFw b.flash.fw[n]).wr Reg.HRT_FW_RUNNING 0 n.val).wr Reg.HRT_FW_VER_VERSION 0 b.flash.fw[n].version.toNat).wr
    Reg.HRT_BOOT_STAGE 0 2

/-- The lifecycle state that start-up shows. -/
def bootLc (s : State) : Nat := if s.fuses.lc = 1 ∧ s.sec.debug = true then 2 else s.fuses.lc

/-- Whether start-up finds that the identity key differs from its certificate. -/
def bootBad (s : State) : Bool :=
  (decide (s.bootLc = 1) || decide (s.bootLc = 2)) && idDiffers (s.extend 0 (toBytes 32 Config.romDigest.toNat)).fuses

/-- The certificate that start-up makes. -/
def bootCert (s : State) : List Byte :=
  let i := ((s.extend 0 (toBytes 32 Config.romDigest.toNat)).loadLc s.bootLc).wrB Reg.SEC_LC_IDFAIL 0 s.bootBad
  if (decide (s.bootLc = 1) || decide (s.bootLc = 2)) && !s.bootBad then certificate s.bootLc (i.rd Reg.SEC_LC_LC_RESETS 0) else []

theorem lendephorBoot_eq {s : State} (hpow : s.powered = true) (hstage : s.stage ≤ 1) :
    s.lendephorBoot = (s.bootShown s.bootLc s.bootBad s.bootCert).fwChoice.elim
      (((s.bootShown s.bootLc s.bootBad s.bootCert).wrB Reg.SEC_LC_NOFW 0 true).wr Reg.HRT_BOOT_STAGE 0 5)
      (s.bootShown s.bootLc s.bootBad s.bootCert).fwLoaded := by
  have hlc : (if (decide (s.fuses.lc = 1) && s.sec.debug) = true then 2 else s.fuses.lc) = s.bootLc := by
    simp only [bootLc, Bool.and_eq_true, decide_eq_true_eq]
  have hgo : ¬(!s.powered || decide (2 ≤ s.stage)) = true := by simp [hpow]; omega
  unfold lendephorBoot
  rw [if_neg hgo]
  dsimp only
  rw [hlc]
  change (match (s.bootShown s.bootLc s.bootBad s.bootCert).fwChoice with
    | none => ((s.bootShown s.bootLc s.bootBad s.bootCert).wrB Reg.SEC_LC_NOFW 0 true).wr Reg.HRT_BOOT_STAGE 0 5
    | some n => (s.bootShown s.bootLc s.bootBad s.bootCert).fwLoaded n) = _
  cases (s.bootShown s.bootLc s.bootBad s.bootCert).fwChoice <;> rfl

/-! What start-up shows of the lifecycle, and its measurements. -/

section
variable (s : State) (lc : Nat) (bad : Bool) (cert : List Byte)

theorem bootMeasured_noCtl : (s.bootMeasured lc bad cert).noCtl = ({ s with sec := { s.sec with attCert := cert } } : State).noCtl := by
  obtain ⟨i, hi⟩ : ∃ i : State, i = ((s.extend 0 (toBytes 32 Config.romDigest.toNat)).loadLc lc).wrB Reg.SEC_LC_IDFAIL 0 bad := ⟨_, rfl⟩
  have hrest : i.noCtl = s.noCtl := by rw [hi, wrB_noCtl, loadLc, wr_noCtl, wr_noCtl, extend_noCtl]
  simp only [bootMeasured]
  rw [← hi, extend_noCtl, eq_of_noCtl hrest]
  rfl

theorem bootShown_noCtl : (s.bootShown lc bad cert).noCtl = ({ s with
    sec := { s.sec with attCert := cert }, flash := { s.flash with fw := s.flash.fw.map fwSettled }, free := s.free + 1 } : State).noCtl := by
  obtain ⟨m, hm⟩ : ∃ m : State, m = (s.bootMeasured lc bad cert).drawNonce := ⟨_, rfl⟩
  have hrest : m.noCtl = ({ s with sec := { s.sec with attCert := cert }, free := s.free + 1 } : State).noCtl := by
    obtain ⟨k, hk⟩ : ∃ k : State, k = (s.bootMeasured lc bad cert).wr Reg.SEC_DBG_NONCE_NONCE 0
      (Config.random (s.bootMeasured lc bad cert).free).toNat := ⟨_, rfl⟩
    have hkrest : k.noCtl = ({ s with sec := { s.sec with attCert := cert } } : State).noCtl := by
      rw [hk, wr_noCtl, bootMeasured_noCtl]
    rw [hm, drawNonce, ← hk, tick, eq_of_noCtl hkrest]
    rfl
  simp only [bootShown]
  rw [← hm, wr_noCtl, eq_of_noCtl hrest]
  rfl

/-- Whether a field is none of those that start-up shows beside its measurements. -/
def apartFromShown (f : Field) (i : Nat) : Bool :=
  apart Reg.SEC_LC_LC 0 f i && apart Reg.SEC_LC_PORT 0 f i && apart Reg.SEC_LC_IDFAIL 0 f i &&
    apart Reg.SEC_DBG_NONCE_NONCE 0 f i && apart Reg.SEC_FLOOR_FLOOR 0 f i

theorem rd_bootShown {f : Field} {i : Nat} (hnonce : apart Reg.SEC_DBG_NONCE_NONCE 0 f i = true)
    (hfloor : apart Reg.SEC_FLOOR_FLOOR 0 f i = true) : (s.bootShown lc bad cert).rd f i = (s.bootMeasured lc bad cert).rd f i := by
  simp only [bootShown]
  rw [rd_wr_other _ _ hfloor, rd_with_flash, drawNonce, tick, rd_with_free, rd_wr_other _ _ hnonce]

/-- A field beside those that show the lifecycle, by the second measurement and what was before it. -/
theorem rd_bootMeasured {f : Field} {i : Nat} (h : apartFromShown f i = true) (hlife : apartFromMeas f i 3 = true) :
    (s.bootMeasured lc bad cert).rd f i = (s.extend 0 (toBytes 32 Config.romDigest.toNat)).rd f i := by
  obtain ⟨r, hr⟩ : ∃ r : State, r = s.extend 0 (toBytes 32 Config.romDigest.toNat) := ⟨_, rfl⟩
  simp only [apartFromShown, Bool.and_eq_true] at h
  obtain ⟨⟨⟨⟨hlc, hport⟩, hid⟩, -⟩, -⟩ := h
  rw [bootMeasured, rd_extend _ _ hlife, rd_with_sec, ← hr, wrB, rd_wr_other _ _ hid, loadLc, rd_wr_other _ _ hport,
    rd_wr_other _ _ hlc]

/-- The two measurements of start-up. -/
theorem bootMeasured_extended : Extended s (s.bootMeasured lc bad cert) 0 (toBytes 32 Config.romDigest.toNat) ∧
    Extended s (s.bootMeasured lc bad cert) 3 [BitVec.ofNat 8 lc] := by
  obtain ⟨i, hi⟩ : ∃ i : State, i = ((s.extend 0 (toBytes 32 Config.romDigest.toNat)).loadLc lc).wrB Reg.SEC_LC_IDFAIL 0 bad := ⟨_, rfl⟩
  obtain ⟨c, hc⟩ : ∃ c : State, c = { i with sec := { i.sec with attCert := cert } } := ⟨_, rfl⟩
  have hform : s.bootMeasured lc bad cert = c.extend 3 [BitVec.ofNat 8 lc] := by rw [hc, hi, bootMeasured]
  have hap : ∀ f ∈ [Reg.SEC_MEAS_M, Reg.SEC_MEAS_CNT_COUNT], apartFromShown f 0 = true ∧ apartFromMeas f 0 3 = true ∧
      apartFromMeas f 3 0 = true ∧ apart Reg.SEC_LC_LC 0 f 3 = true ∧ apart Reg.SEC_LC_PORT 0 f 3 = true ∧
      apart Reg.SEC_LC_IDFAIL 0 f 3 = true := by decide
  refine ⟨extended_congr (extended_extend s (by decide) _) (fun _ _ => rfl) fun f hf => ?_, ?_⟩
  · obtain ⟨hshown, hlife, -⟩ := hap f hf
    exact rd_bootMeasured s lc bad cert hshown hlife
  · rw [hform]
    refine extended_congr (extended_extend c (by decide) _) (fun f hf => ?_) fun _ _ => rfl
    obtain ⟨-, -, hrom, hlc, hport, hid⟩ := hap f hf
    have hcert : c.rd f 3 = i.rd f 3 := by rw [hc, rd_with_sec]
    rw [hcert, hi, wrB, rd_wr_other _ _ hid, loadLc, rd_wr_other _ _ hport, rd_wr_other _ _ hlc, rd_extend _ _ hrom]

theorem bootMeasured_shows : (s.bootMeasured lc bad cert).rd Reg.SEC_LC_LC 0 = lc % 4 ∧
    (s.bootMeasured lc bad cert).rd Reg.SEC_LC_PORT 0 = if lc = 1 then 0 else 3 := by
  refine ⟨?_, ?_⟩
  · rw [bootMeasured, rd_extend _ _ (by decide), rd_with_sec, wrB, rd_wr_other _ _ (by decide), loadLc, rd_wr_other _ _ (by decide),
      rd_wr_same _ _ _ _ (by decide)]
    rfl
  · rw [bootMeasured, rd_extend _ _ (by decide), rd_with_sec, wrB, rd_wr_other _ _ (by decide), loadLc, rd_wr_same _ _ _ _ (by decide)]
    split <;> rfl

theorem bootShown_nonce : (s.bootShown lc bad cert).rd Reg.SEC_DBG_NONCE_NONCE 0 = (Config.random s.free).toNat := by
  simp only [bootShown]
  rw [rd_wr_other _ _ (by decide), rd_with_flash, drawNonce, tick, rd_with_free, rd_wr_same _ _ _ _ (by decide),
    free_of_noCtl (bootMeasured_noCtl ..)]
  exact Nat.mod_eq_of_lt (Config.random s.free).isLt

theorem drawNonce_fuses (s : State) : s.drawNonce.fuses = s.fuses := by
  obtain ⟨k, hk⟩ : ∃ k : State, k = s.wr Reg.SEC_DBG_NONCE_NONCE 0 (Config.random s.free).toNat := ⟨_, rfl⟩
  have hfuses : k.fuses = s.fuses := by rw [hk, wr_fuses]
  rw [drawNonce, ← hk, tick, hfuses]

theorem bootShown_floor : (s.bootShown lc bad cert).rd Reg.SEC_FLOOR_FLOOR 0 = s.floorNow.toNat := by
  obtain ⟨m, hm⟩ : ∃ m : State, m = (s.bootMeasured lc bad cert).drawNonce := ⟨_, rfl⟩
  have hfuses : m.fuses = s.fuses := by rw [hm, drawNonce_fuses, fuses_of_noCtl (bootMeasured_noCtl ..)]
  have hfloor : ({ m with flash := { m.flash with fw := m.flash.fw.map fwSettled } } : State).floorNow = s.floorNow :=
    congrArg (fun z : Fuses => z.floors.getLast?.getD 0) hfuses
  simp only [bootShown]
  rw [← hm, hfloor, rd_wr_same _ _ _ _ (by decide)]
  exact Nat.mod_eq_of_lt s.floorNow.isLt

end

end State

/-- What start-up has done before its firmware is chosen, as the module shows it. -/
def bootBegun (s t : State) (lc : Nat) : Prop :=
  Extended s t 0 (toBytes 32 Config.romDigest.toNat) ∧ Extended s t 3 [BitVec.ofNat 8 lc] ∧ t.rd Reg.SEC_LC_LC 0 = lc % 4 ∧
    t.rd Reg.SEC_LC_PORT 0 = (if lc = 1 then 0 else 3) ∧ t.rd Reg.SEC_FLOOR_FLOOR 0 = s.floorNow.toNat ∧
    t.rd Reg.SEC_DBG_NONCE_NONCE 0 = (Config.random s.free).toNat ∧
    t.flash = { s.flash with fw := s.flash.fw.map State.fwSettled } ∧ t.mem = s.mem

/-- The fields by which start-up shows what it has done. -/
def bootFields : List (Field × Nat) := [(Reg.SEC_MEAS_M, 0), (Reg.SEC_MEAS_CNT_COUNT, 0), (Reg.SEC_MEAS_M, 3),
  (Reg.SEC_MEAS_CNT_COUNT, 3), (Reg.SEC_LC_LC, 0), (Reg.SEC_LC_PORT, 0), (Reg.SEC_FLOOR_FLOOR, 0), (Reg.SEC_DBG_NONCE_NONCE, 0)]

theorem bootBegun_of_rd {s t : State} {lc : Nat} {bad : Bool} {cert : List Byte}
    (hrd : ∀ e ∈ bootFields, t.rd e.1 e.2 = (s.bootShown lc bad cert).rd e.1 e.2)
    (hflash : t.flash = (s.bootShown lc bad cert).flash) (hmem : t.mem = (s.bootShown lc bad cert).mem) : bootBegun s t lc := by
  obtain ⟨hrom, hlife⟩ := bootMeasured_extended s lc bad cert
  obtain ⟨hlc, hport⟩ := bootMeasured_shows s lc bad cert
  have hrest := bootShown_noCtl s lc bad cert
  have hshown {f : Field} {i : Nat} (hin : (f, i) ∈ bootFields) (hnonce : apart Reg.SEC_DBG_NONCE_NONCE 0 f i = true)
      (hfloor : apart Reg.SEC_FLOOR_FLOOR 0 f i = true) : t.rd f i = (s.bootMeasured lc bad cert).rd f i :=
    (hrd (f, i) hin).trans (rd_bootShown s lc bad cert hnonce hfloor)
  have hmeas : ∀ i ∈ [0, 3], ∀ f ∈ [Reg.SEC_MEAS_M, Reg.SEC_MEAS_CNT_COUNT], (f, i) ∈ bootFields ∧
      apart Reg.SEC_DBG_NONCE_NONCE 0 f i = true ∧ apart Reg.SEC_FLOOR_FLOOR 0 f i = true := by decide
  have hext {i : Nat} (hi : i ∈ [0, 3]) {f : Field} (hf : f ∈ [Reg.SEC_MEAS_M, Reg.SEC_MEAS_CNT_COUNT]) :
      t.rd f i = (s.bootMeasured lc bad cert).rd f i := by
    obtain ⟨hin, hnonce, hfloor⟩ := hmeas i hi f hf
    exact hshown hin hnonce hfloor
  refine ⟨extended_congr hrom (fun _ _ => rfl) fun f hf => hext (by decide) hf,
    extended_congr hlife (fun _ _ => rfl) fun f hf => hext (by decide) hf, ?_, ?_, ?_, ?_, ?_, ?_⟩
  · rw [hshown (by decide) (by decide) (by decide), hlc]
  · rw [hshown (by decide) (by decide) (by decide), hport]
  · rw [hrd (Reg.SEC_FLOOR_FLOOR, 0) (by decide), bootShown_floor]
  · rw [hrd (Reg.SEC_DBG_NONCE_NONCE, 0) (by decide), bootShown_nonce]
  · rw [hflash, flash_of_noCtl hrest]
  · rw [hmem, mem_of_noCtl hrest]

theorem fwChoice_congr {s t : State} (hflash : t.flash = s.flash) (hfuses : t.fuses = s.fuses) : t.fwChoice = s.fwChoice := by
  unfold State.fwChoice State.fwValid State.floorNow
  rw [hflash, hfuses]

section
variable {s : State} (hpow : s.powered = true) (hstage : s.stage ≤ 1) {u : State}
  (hu : u = { s with flash := { s.flash with fw := s.flash.fw.map State.fwSettled } })
include hpow hstage hu

theorem exec_lendephorBoot_loads {n : Fin 2} (hn : u.fwChoice = some n) : ∃ t, exec .lendephorBoot s = .next t ∧
    bootBegun s t s.bootLc ∧ t.stage = 2 ∧ Extended s t 1 (sha256 (State.fwHeader u.flash.fw[n])) ∧
    t.rd Reg.HRT_FW_RUNNING 0 = n.val ∧ t.rd Reg.HRT_FW_VER_VERSION 0 = u.flash.fw[n].version.toNat := by
  obtain ⟨b, hb⟩ : ∃ b : State, b = s.bootShown s.bootLc s.bootBad s.bootCert := ⟨_, rfl⟩
  have hrest : b.noCtl = _ := hb ▸ bootShown_noCtl s s.bootLc s.bootBad s.bootCert
  have hflash : b.flash = u.flash := by rw [hu, flash_of_noCtl hrest]
  have hchoice : b.fwChoice = some n := by rw [fwChoice_congr hflash (by rw [hu, fuses_of_noCtl hrest]), hn]
  have hexec : exec .lendephorBoot s = .next ((b.fwLoaded n).done s.pending) := by
    show act s s.lendephorBoot = _
    rw [lendephorBoot_eq hpow hstage, ← hb, hchoice, Option.elim_some, act_next]
  have hap : ∀ e ∈ bootFields, ownField e.1 e.2 = true ∧ apartFromMeas e.1 e.2 1 = true ∧ apart Reg.HRT_FW_RUNNING 0 e.1 e.2 = true ∧
      apart Reg.HRT_FW_VER_VERSION 0 e.1 e.2 = true ∧ apart Reg.HRT_BOOT_STAGE 0 e.1 e.2 = true := by decide
  have hloaded : (b.fwLoaded n).noCtl = b.noCtl := by
    rw [State.fwLoaded, wr_noCtl, wr_noCtl, wr_noCtl, measureFw, extend_noCtl]
  refine ⟨_, hexec, bootBegun_of_rd (bad := s.bootBad) (cert := s.bootCert) (fun e he => ?_) ?_ ?_, ?_, ?_, ?_, ?_⟩
  · obtain ⟨hown, hmeas, hrun, hver, hst⟩ := hap e he
    rw [done_rd _ hown, State.fwLoaded, rd_wr_other _ _ hst, rd_wr_other _ _ hver, rd_wr_other _ _ hrun, measureFw, rd_extend _ _ hmeas, hb]
  · rw [done_flash, flash_of_noCtl hloaded, hb]
  · rw [done_mem, mem_of_noCtl hloaded, hb]
  · rw [stage, done_rd _ (by decide), State.fwLoaded, rd_wr_same _ _ _ _ (by decide)]
    rfl
  · have hmeas : ∀ f ∈ [Reg.SEC_MEAS_M, Reg.SEC_MEAS_CNT_COUNT], apart Reg.HRT_FW_RUNNING 0 f 1 = true ∧
        apart Reg.HRT_FW_VER_VERSION 0 f 1 = true ∧ apart Reg.HRT_BOOT_STAGE 0 f 1 = true ∧ apartFromShown f 1 = true ∧
        apartFromMeas f 1 0 = true ∧ apartFromMeas f 1 3 = true := by decide
    refine extended_done (by decide) _ (extended_congr (extended_extend b (by decide) _) (fun f hf => ?_) fun f hf => ?_)
    · obtain ⟨-, -, -, hshown, hrom, hlife⟩ := hmeas f hf
      have hbeside := hshown
      simp only [apartFromShown, Bool.and_eq_true] at hbeside
      obtain ⟨⟨-, hnonce⟩, hfloor⟩ := hbeside
      rw [hb, rd_bootShown _ _ _ _ hnonce hfloor, rd_bootMeasured _ _ _ _ hshown hlife, rd_extend _ _ hrom]
    · obtain ⟨hrun, hver, hst, -⟩ := hmeas f hf
      rw [State.fwLoaded, rd_wr_other _ _ hst, rd_wr_other _ _ hver, rd_wr_other _ _ hrun, measureFw, hflash]
  · rw [done_rd _ (by decide), State.fwLoaded, rd_wr_other _ _ (by decide), rd_wr_other _ _ (by decide), rd_wr_same _ _ _ _ (by decide)]
    exact Nat.mod_eq_of_lt n.isLt
  · rw [done_rd _ (by decide), State.fwLoaded, rd_wr_other _ _ (by decide), rd_wr_same _ _ _ _ (by decide), hflash]
    exact Nat.mod_eq_of_lt (u.flash.fw[n].version).isLt

theorem exec_lendephorBoot_stops (hn : u.fwChoice = none) : ∃ t, exec .lendephorBoot s = .next t ∧
    bootBegun s t s.bootLc ∧ t.stage = 5 ∧ t.rdB Reg.SEC_LC_NOFW 0 = true := by
  obtain ⟨b, hb⟩ : ∃ b : State, b = s.bootShown s.bootLc s.bootBad s.bootCert := ⟨_, rfl⟩
  have hrest : b.noCtl = _ := hb ▸ bootShown_noCtl s s.bootLc s.bootBad s.bootCert
  have hflash : b.flash = u.flash := by rw [hu, flash_of_noCtl hrest]
  have hchoice : b.fwChoice = none := by rw [fwChoice_congr hflash (by rw [hu, fuses_of_noCtl hrest]), hn]
  have hexec : exec .lendephorBoot s = .next (((b.wrB Reg.SEC_LC_NOFW 0 true).wr Reg.HRT_BOOT_STAGE 0 5).done s.pending) := by
    show act s s.lendephorBoot = _
    rw [lendephorBoot_eq hpow hstage, ← hb, hchoice, Option.elim_none, act_next]
  have hap : ∀ e ∈ bootFields, ownField e.1 e.2 = true ∧ apart Reg.SEC_LC_NOFW 0 e.1 e.2 = true ∧
      apart Reg.HRT_BOOT_STAGE 0 e.1 e.2 = true := by decide
  refine ⟨_, hexec, bootBegun_of_rd (bad := s.bootBad) (cert := s.bootCert) (fun e he => ?_) ?_ ?_, ?_, ?_⟩
  · obtain ⟨hown, hnofw, hst⟩ := hap e he
    rw [done_rd _ hown, rd_wr_other _ _ hst, wrB, rd_wr_other _ _ hnofw, hb]
  · rw [done_flash, wr_flash, wrB, wr_flash, hb]
  · rw [done_mem, wr_mem, wrB, wr_mem, hb]
  · rw [stage, done_rd _ (by decide), rd_wr_same _ _ _ _ (by decide)]
    rfl
  · rw [done_rdB _ (by decide), rdB, rd_wr_other _ _ (by decide), ← rdB, rdB_wrB_same _ _ _ _ rfl]

end

/-! The configuration record (R391). -/

namespace State

/-- A state beside its registers, the copies of the configuration record and the writing of one. -/
def noCopy (s : State) : State :=
  { s.noCtl with flash := { s.flash with cfg := Vector.replicate 2 CfgCopy.erased }, kal := { s.kal with cfgWrite := none } }

theorem noCopy_of_noCtl {s t : State} (h : t.noCtl = s.noCtl) : t.noCopy = s.noCopy := by
  rw [eq_of_noCtl h]
  rfl

theorem fenceCopy_noCopy (s : State) : s.fenceCopy.noCopy = s.noCopy := by
  rw [fenceCopy]
  exact ite_keeps noCopy _ rfl rfl

theorem fenceCopy_ctl (s : State) : s.fenceCopy.ctl = s.ctl := by
  rw [fenceCopy]
  exact ite_keeps ctl _ rfl rfl

/-- Whether a field is none of those of an Anvil's fence. -/
def apartFromFence (f : Field) (i : Nat) : Bool := decide (∀ n : Fin 4, apart Reg.ANV_FENCE_STRIPE n f i = true ∧
  apart Reg.ANV_FENCE_WITHDRAWN n f i = true ∧ apart Reg.ANV_STATUS_LIVE_STRIPES n f i = true ∧ apart Reg.ANV_STATUS_STATE n f i = true ∧
  apart Reg.ANV_FENCE_PERSISTED n f i = true ∧ apart Reg.ANV_FENCE_WD_PERSISTED n f i = true)

theorem persist_noCtl (s : State) : s.persist.noCtl = s.noCtl := by
  rw [persist]
  exact foldl_keeps noCtl _ (fun x n => by rw [wr_noCtl, wr_noCtl]) _ _

theorem rd_persist (s : State) {f : Field} {i : Nat} (h : apartFromFence f i = true) : s.persist.rd f i = s.rd f i := by
  simp only [apartFromFence, decide_eq_true_eq] at h
  rw [persist]
  refine List.foldlRecOn _ _ (motive := fun x : State => x.rd f i = s.rd f i) rfl fun x hx n hn => ?_
  obtain ⟨-, -, -, -, hstripe, hwd⟩ := h ⟨n, List.mem_range.mp hn⟩
  rw [rd_wr_other _ _ hwd, rd_wr_other _ _ hstripe, hx]

/-- What start-up leaves of an Anvil's fence. -/
def fenced (s : State) (m : Nat) (n : Fin 4) : State :=
  let wd := bit m (9 * n.val + 8) || bits m (9 * n.val + 7) (9 * n.val) == 255
  let v := ((s.wr Reg.ANV_FENCE_STRIPE n (bits m (9 * n.val + 7) (9 * n.val))).wrB Reg.ANV_FENCE_WITHDRAWN n wd).wr
    Reg.ANV_STATUS_LIVE_STRIPES n (8 - ones8 (bits m (9 * n.val + 7) (9 * n.val)))
  if wd then v.wr Reg.ANV_STATUS_STATE n 3 else v

theorem fenced_noCtl (s : State) (m : Nat) (n : Fin 4) : (s.fenced m n).noCtl = s.noCtl := by
  simp only [fenced]
  exact ite_keeps noCtl _ (by rw [wr_noCtl, wr_noCtl, wrB_noCtl, wr_noCtl]) (by rw [wr_noCtl, wrB_noCtl, wr_noCtl])

theorem rd_fenced (s : State) (m : Nat) (n : Fin 4) {f : Field} {i : Nat} (h : apartFromFence f i = true) :
    (s.fenced m n).rd f i = s.rd f i := by
  simp only [apartFromFence, decide_eq_true_eq] at h
  obtain ⟨hstripe, hwd, hlive, hstate, -, -⟩ := h n
  simp only [fenced]
  refine ite_keeps (rd · f i) _ ?_ ?_
  · rw [rd_wr_other _ _ hstate, rd_wr_other _ _ hlive, wrB, rd_wr_other _ _ hwd, rd_wr_other _ _ hstripe]
  · rw [rd_wr_other _ _ hlive, wrB, rd_wr_other _ _ hwd, rd_wr_other _ _ hstripe]

/-- The fences of a start-up, before a copy of the record is made for them. -/
def fencesShown (s : State) (es : List (Word × Word)) : State :=
  ((List.finRange 4).foldl (fun (x : State) n => x.fenced (s.rowMap ||| entriesMap es) n) s).persist

theorem loadFences_eq (s : State) (es : List (Word × Word)) : s.loadFences es =
    if (s.fencesShown es).fenceMap = (s.fencesShown es).heldMap then s.fencesShown es else (s.fencesShown es).fenceCopy := rfl

theorem fencesShown_noCtl (s : State) (es : List (Word × Word)) : (s.fencesShown es).noCtl = s.noCtl := by
  rw [fencesShown, persist_noCtl]
  exact foldl_keeps noCtl _ (fun x n => fenced_noCtl x _ n) _ _

theorem loadFences_noCopy (s : State) (es : List (Word × Word)) : (s.loadFences es).noCopy = s.noCopy := by
  rw [loadFences_eq, ← noCopy_of_noCtl (fencesShown_noCtl s es)]
  exact ite_keeps noCopy _ rfl (fenceCopy_noCopy _)

theorem rd_loadFences (s : State) (es : List (Word × Word)) {f : Field} {i : Nat} (h : apartFromFence f i = true) :
    (s.loadFences es).rd f i = s.rd f i := by
  have hshown : (s.fencesShown es).rd f i = s.rd f i := by
    rw [fencesShown, rd_persist _ h]
    exact foldl_keeps (rd · f i) _ (fun x n => rd_fenced x _ n h) _ _
  rw [loadFences_eq, ← hshown]
  exact ite_keeps (rd · f i) _ rfl (rd_of_ctl (fenceCopy_ctl _) f i)

theorem takeEarly_of_none {s : State} (hearly : s.kal.early = []) (hwait : s.kal.waiting = []) (hidle : s.kal.running = none) :
    s.takeEarly = s := by
  have hkal : ({ s with kal := { s.kal with early := [] } } : State) = s := by rw [← hearly]
  rw [takeEarly, hearly]
  exact (congrArg kSettle hkal).trans (kSettle_of_idle hwait hidle)

end State

section
variable {s : State} (hpow : s.powered = true) (hstage : s.stage = 2) (hserves : s.kal.restart = false)
include hpow hstage hserves

theorem exec_configLoad {c : Fin 2} (hc : s.curCopy = some c) :
    let x := s.flash.cfg[c]
    let v := ((x.entries.foldl (fun (y : State) e => y.loadEntry e) s).measureCopy x).wr Reg.HRT_CFG_SEQ_SEQ 0 x.seq.toNat
    exec .configLoad s = .next (((v.loadFences x.entries).wr Reg.HRT_BOOT_STAGE 0 3).takeEarly.done s.pending) := by
  intro x v
  show act s s.configLoad = _
  unfold configLoad
  rw [if_neg (by simp [hpow, hstage, hserves]), hc, act_next]

theorem exec_configLoad_none (hnone : s.curCopy = none) (hearly : s.kal.early = []) (hwait : s.kal.waiting = [])
    (hidle : s.kal.running = none) : ∃ t, exec .configLoad s = .next t ∧ t.stage = 3 ∧ t.rdB Reg.HRT_BOOT_CFG_NONE 0 = true ∧
      Raised s t 0x0603 0 none 0 ∧ t.mem = s.mem ∧ t.ops = s.ops := by
  obtain ⟨y, hy⟩ : ∃ y : State, y = s.wrB Reg.HRT_BOOT_CFG_NONE 0 true := ⟨_, rfl⟩
  obtain ⟨u, hu⟩ : ∃ u : State, u = y.raise 0x0603 0 none 0 := ⟨_, rfl⟩
  obtain ⟨v, hv⟩ : ∃ v : State, v = (u.loadFences []).wr Reg.HRT_BOOT_STAGE 0 3 := ⟨_, rfl⟩
  have hkeep : v.noCopy = u.noCopy := by rw [hv, noCopy_of_noCtl (wr_noCtl ..), loadFences_noCopy]
  have htel : v.tel = u.tel := (congrArg State.tel hkeep :)
  have hmem : v.mem = u.mem := (congrArg State.mem hkeep :)
  have hops : v.ops = u.ops := (congrArg State.ops hkeep :)
  have hukal : u.kal = s.kal := by rw [hu, raise_kal, hy, wrB, wr_kal]
  have hearly' : v.kal.early = [] := (congrArg (fun z : State => z.kal.early) hkeep :).trans (by rw [← hearly, ← hukal]; rfl)
  have hwait' : v.kal.waiting = [] := (congrArg (fun z : State => z.kal.waiting) hkeep :).trans (by rw [← hwait, ← hukal]; rfl)
  have hidle' : v.kal.running = none := (congrArg (fun z : State => z.kal.running) hkeep :).trans (by rw [← hidle, ← hukal]; rfl)
  have hexec : exec .configLoad s = .next (v.done s.pending) := by
    show act s s.configLoad = _
    unfold configLoad
    rw [if_neg (by simp [hpow, hstage, hserves]), hnone]
    dsimp only
    rw [← hy, ← hu, ← hv, takeEarly_of_none hearly' hwait' hidle', act_next]
  refine ⟨_, hexec, ?_, ?_, ?_, ?_, ?_⟩
  · rw [stage, done_rd _ (by decide), hv, rd_wr_same _ _ _ _ (by decide)]
    rfl
  · rw [done_rdB _ (by decide), hv, rdB, rd_wr_other _ _ (by decide), rd_loadFences _ _ (by decide), hu, rd_raise_apart (by decide), hy,
      ← rdB, rdB_wrB_same _ _ _ _ rfl]
  · have hstamp : y.stamp none = s.stamp none := by rw [hy, wrB, stamp_wr _ _ (by decide)]
    rw [Raised, done_tel, htel, hu, ← eventRec_of_stamp hstamp]
    exact raise_logs ..
  · rw [done_mem, hmem, hu, raise_mem, hy, wrB, wr_mem]
  · rw [done_ops, hops, hu, raise_ops, hy, wrB, wr_ops]

end

/-! Memory's training and READY (R521, R526). -/

namespace State

theorem rd_quenchHeld (s : State) (doze : Bool) {f : Field} {i : Nat} (h : apart Reg.HRT_PAD_HOLD_GROUPS 0 f i = true) :
    (s.quenchHeld doze).rd f i = s.rd f i := by
  rw [quenchHeld, holdPads, rd_wr_other _ _ h, rd_with_pw]

theorem rd_entryDropped (s : State) {f : Field} {i : Nat} (h : apart Reg.PWR_STATUS_STATE 0 f i = true)
    (hev : apartFromEvent f i = true) : s.entryDropped.rd f i = s.rd f i := by
  rw [entryDropped]
  exact ite_keeps (rd · f i) _ (by rw [rd_raise_apart hev, rd_wr_other _ _ h, rd_with_pw]) rfl

theorem rd_countdownTaken (s : State) {f : Field} {i : Nat} (hcd : apart Reg.HRT_CD_HOLD_CD2 0 f i = true)
    (harm : apart Reg.HRT_WAKE_DELAY_ARM 0 f i = true) (hev : apartFromEvent f i = true) : s.countdownTaken.rd f i = s.rd f i := by
  simp only [countdownTaken]
  refine ite_keeps (rd · f i) _ ?_ (rd_wr_other _ _ hcd)
  rw [rd_raise_apart hev, wrB, rd_wr_other _ _ harm, rd_wr_other _ _ hcd]

/-- Quench holds once it is entered. -/
theorem enterQuench_quench (s : State) (cause : Nat) : (s.enterQuench cause).quench = true := by
  by_cases hq : s.quench = true
  · rw [enterQuench, if_pos hq, hq]
  · obtain ⟨doze, he⟩ := enterQuench_form cause hq
    rw [he, quench, rdB, rd_quenchHeld _ _ (by decide), rd_entryDropped _ (by decide) (by decide),
      rd_countdownTaken _ (by decide) (by decide) (by decide), quenchShown, rd_raise_apart (by decide), rd_wr_other _ _ (by decide), ← rdB,
      rdB_wrB_same _ _ _ _ rfl]

end State

/-- A state in training after some channels were degraded from another. -/
structure Trained (s t : State) (channels : List (Die × Bool × Nat)) : Prop where
  kal : t.kal = s.kal
  pw : t.pw = s.pw
  retired : t.ms.retired = s.ms.retired
  stage : t.stage = s.stage
  kept : ∀ c ∈ channels, c ∈ t.ms.degraded ∧ t.rdB Reg.HRT_BOOT_PHY_DEGRADED 0 = true

theorem trained_degrade {s t : State} {l : List (Die × Bool × Nat)} (h : Trained s t l) (hst : s.stage = 3) (c : Die × Bool × Nat) :
    Trained s (t.degrade c.1 c.2.1 c.2.2) (l ++ [c]) := by
  obtain ⟨u, hu⟩ : ∃ u : State, u = if t.ms.degraded.contains (c.1, c.2.1, c.2.2) then t
    else { t with ms := { t.ms with degraded := t.ms.degraded ++ [(c.1, c.2.1, c.2.2)] } } := ⟨_, rfl⟩
  have hctl : u.ctl = t.ctl := hu ▸ ite_keeps State.ctl _ rfl rfl
  have hustage : u.stage = 3 := by rw [stage, rd_of_ctl hctl]; exact h.stage.trans hst
  obtain ⟨v, hv⟩ : ∃ v : State, v = u.wrB Reg.HRT_BOOT_PHY_DEGRADED 0 true := ⟨_, rfl⟩
  have hform : t.degrade c.1 c.2.1 c.2.2 = v.raise 0x040D c.1 none (b2n c.2.1 + (c.2.2 % 2 ^ 15) * 2) := by
    unfold State.degrade
    dsimp only
    rw [← hu, if_pos hustage, ← hv]
  have hvrest : v.noCtl = u.noCtl := by rw [hv, wrB_noCtl]
  have hin : c ∈ u.ms.degraded ∧ ∀ e ∈ t.ms.degraded, e ∈ u.ms.degraded := by
    rw [hu]
    split
    next hc => exact ⟨by simpa using hc, fun e he => he⟩
    next => exact ⟨by simp, fun e he => by simp [he]⟩
  have hmem : (t.degrade c.1 c.2.1 c.2.2).ms.degraded = u.ms.degraded := by rw [hform, raise_ms, ms_of_noCtl hvrest]
  have hphy : (t.degrade c.1 c.2.1 c.2.2).rdB Reg.HRT_BOOT_PHY_DEGRADED 0 = true := by
    rw [hform, rdB, rd_raise_apart (by decide), hv, ← rdB, rdB_wrB_same _ _ _ _ rfl]
  refine ⟨?_, ?_, ?_, ?_, fun e he => ?_⟩
  · rw [hform, raise_kal, kal_of_noCtl hvrest, ← h.kal, hu]
    exact ite_keeps State.kal _ rfl rfl
  · rw [hform, raise_pw, pw_of_noCtl hvrest, ← h.pw, hu]
    exact ite_keeps State.pw _ rfl rfl
  · rw [hform, raise_ms, ms_of_noCtl hvrest, ← h.retired, hu]
    exact ite_keeps (fun x : State => x.ms.retired) _ rfl rfl
  · rw [hform, stage, rd_raise_apart (by decide), hv, wrB, rd_wr_other _ _ (by decide)]
    exact hustage.trans hst.symm
  · rw [hmem]
    refine ⟨?_, hphy⟩
    rcases List.mem_append.mp he with he | he
    · exact hin.2 e (h.kept e he).1
    · rw [List.mem_singleton.mp he]
      exact hin.1

theorem trained_all {s : State} (hst : s.stage = 3) (l : List (Die × Bool × Nat)) :
    Trained s (l.foldl (fun (x : State) c => x.degrade c.1 c.2.1 c.2.2) s) l := by
  induction l using List.reverseRecOn with
  | nil => exact ⟨rfl, rfl, rfl, rfl, by simp⟩
  | append_singleton l c ih =>
    rw [List.foldl_append]
    exact trained_degrade ih hst c

/-- READY with its training done, in Quench where FLOW_OK has not passed. -/
def readied (s : State) (channels : List (Die × Bool × Nat)) : State :=
  let b : State := { s with ms := { s.ms with retired := s.bootRetired, mapMoved := State.bootMaps s.bootRetired } }
  let u := (channels.foldl (fun (x : State) c => x.degrade c.1 c.2.1 c.2.2) b).wr Reg.HRT_BOOT_STAGE 0 4
  if u.pw.flowOk then u else u.enterQuench 1

section
variable {s : State} (hpow : s.powered = true) (hstage : s.stage = 3) (hheld : s.kal.held = []) (hwait : s.kal.waiting = [])
  (hidle : s.kal.running = none)
include hstage

theorem readied_shows (channels : List (Die × Bool × Nat)) : (readied s channels).stage = 4 ∧
    (readied s channels).ms.retired = s.bootRetired ∧ (readied s channels).kal = s.kal ∧
    (∀ c ∈ channels, c ∈ (readied s channels).ms.degraded ∧ (readied s channels).rdB Reg.HRT_BOOT_PHY_DEGRADED 0 = true) ∧
    (s.pw.flowOk = false → (readied s channels).quench = true) := by
  obtain ⟨b, hb⟩ : ∃ b : State, b = { s with ms := { s.ms with retired := s.bootRetired, mapMoved := State.bootMaps s.bootRetired } } :=
    ⟨_, rfl⟩
  have hbstage : b.stage = 3 := by rw [hb, ← hstage]; exact rd_with_ms ..
  have htrained := trained_all hbstage channels
  obtain ⟨x, hx⟩ : ∃ x : State, x = channels.foldl (fun (x : State) c => x.degrade c.1 c.2.1 c.2.2) b := ⟨_, rfl⟩
  rw [← hx] at htrained
  obtain ⟨u, hu⟩ : ∃ u : State, u = x.wr Reg.HRT_BOOT_STAGE 0 4 := ⟨_, rfl⟩
  have hform : readied s channels = if u.pw.flowOk then u else u.enterQuench 1 := by rw [hu, hx, hb, readied]
  have hflow : u.pw.flowOk = s.pw.flowOk := by rw [hu, wr_pw, htrained.pw, hb]
  have hkeep {γ : Type} {g : State → γ} (hg : State.KeptByPeriod g) : g (readied s channels) = g u := by
    rw [hform]
    exact ite_keeps g _ rfl (hg.enterQuench ..)
  have hrest := hkeep State.keptByPeriod_noPeriod
  have hms : (readied s channels).ms = u.ms := (congrArg State.ms hrest :)
  have hkal : (readied s channels).kal = u.kal := (congrArg State.kal hrest :)
  have hst : (readied s channels).stage = u.stage := hkeep (State.keptByPeriod_rd (by decide))
  have hphy : (readied s channels).rd Reg.HRT_BOOT_PHY_DEGRADED 0 = u.rd Reg.HRT_BOOT_PHY_DEGRADED 0 :=
    hkeep (State.keptByPeriod_rd (by decide))
  refine ⟨?_, ?_, ?_, fun c hc => ?_, fun hflowOk => ?_⟩
  · rw [hst, stage, hu, rd_wr_same _ _ _ _ (by decide)]
    rfl
  · rw [hms, hu, wr_ms, htrained.retired, hb]
  · rw [hkal, hu, wr_kal, htrained.kal, hb]
  · obtain ⟨hin, hshown⟩ := htrained.kept c hc
    rw [hms, rdB, hphy, hu, wr_ms, rd_wr_other _ _ (by decide)]
    exact ⟨hin, hshown⟩
  · rw [hform, hflow, hflowOk, if_neg (by decide)]
    exact State.enterQuench_quench u 1

include hpow hheld hwait hidle

theorem exec_bootReady (channels : List (Die × Bool × Nat)) :
    exec (.bootReady channels) s = .next ((readied s channels).done s.pending) := by
  obtain ⟨-, -, hkal, -⟩ := readied_shows hstage channels
  obtain ⟨r, hr⟩ : ∃ r : State, r = readied s channels := ⟨_, rfl⟩
  rw [← hr] at hkal ⊢
  have hsame : ({ r with kal := { r.kal with held := [] } } : State) = r := by
    have hempty : r.kal.held = [] := by rw [hkal, hheld]
    rw [← hempty]
  have hform : s.bootReady channels = r := by
    unfold State.bootReady
    rw [if_neg (by simp [hpow, hstage])]
    rw [readied] at hr
    dsimp only at hr ⊢
    rw [← hr]
    change (r.kal.held.foldl (fun (x : State) e => x.heldWriteNow e) { r with kal := { r.kal with held := [] } }).kSettle = r
    rw [hsame, hkal, hheld, List.foldl_nil]
    exact State.kSettle_of_idle (by rw [hkal, hwait]) (by rw [hkal, hidle])
  show act s (s.bootReady channels) = _
  rw [hform, act_next]

theorem bootReady_clause (channels : List (Die × Bool × Nat)) : ∃ t, exec (.bootReady channels) s = .next t ∧ t.stage = 4 ∧
    t.ms.retired = s.bootRetired ∧ (∀ c ∈ channels, c ∈ t.ms.degraded ∧ t.rdB Reg.HRT_BOOT_PHY_DEGRADED 0 = true) ∧
    (s.pw.flowOk = false → t.quench = true) ∧
    (channels = [] → s.pw.flowOk = true → RegsOnly { s with ms := { s.ms with
      retired := s.bootRetired, mapMoved := State.bootMaps s.bootRetired } } t [0x000020]) := by
  obtain ⟨hst, hretired, -, hkept, hquench⟩ := readied_shows hstage channels
  refine ⟨_, exec_bootReady hpow hstage hheld hwait hidle channels, ?_, ?_, fun c hc => ?_, fun hflow => ?_, ?_⟩
  · rw [stage, done_rd _ (by decide)]
    exact hst
  · rw [done_ms, hretired]
  · rw [done_ms, done_rdB _ (by decide)]
    exact hkept c hc
  · rw [quench, done_rdB _ (by decide)]
    exact hquench hflow
  · rintro rfl hflow
    obtain ⟨b, hb⟩ : ∃ b : State, b = { s with ms := { s.ms with retired := s.bootRetired, mapMoved := State.bootMaps s.bootRetired } } :=
      ⟨_, rfl⟩
    have hbflow : (b.wr Reg.HRT_BOOT_STAGE 0 4).pw.flowOk = true := by rw [wr_pw, hb, hflow]
    have hform : readied s [] = b.wr Reg.HRT_BOOT_STAGE 0 4 := by
      rw [readied, List.foldl_nil]
      dsimp only
      rw [← hb, if_pos hbflow]
    have hpend : s.pending = b.pending := by rw [hb]
    rw [← hb, hform, hpend]
    exact done_regsOnly (wr_noCtl ..) fun a ha => word_wr_listed ha (by decide)

end

/-- Settles O37: each stage of start-up by what it leads to, where the firmware's choice and the record in force decide. -/
theorem bootStages : Obligations.BootStages := by
  unfold Obligations.BootStages
  intro s hpow
  refine ⟨fun hstage => ⟨fun n hn => exec_lendephorBoot_loads hpow hstage rfl hn, fun hn => exec_lendephorBoot_stops hpow hstage rfl hn⟩,
    fun hstage hserves => ⟨fun c hc => exec_configLoad hpow hstage hserves hc,
      fun hnone hearly hwait hidle => exec_configLoad_none hpow hstage hserves hnone hearly hwait hidle⟩,
    fun channels hstage hheld hwait hidle => bootReady_clause hpow hstage hheld hwait hidle channels⟩

end Sys2Proof.Machine
end


section
/-!
Crucible windows, key-value pools and weight ranges (R173, R174, R231, R283).
-/
namespace Sys2Proof.Machine

open State Sys2Proof.Safety

/-! The pages of a window set to 0 and pinned. -/

namespace State

/-- What leads to the mapped pages of a list set to 0, every page's mapping kept. -/
structure PagesCleared (l : List Nat) (s t : State) : Prop where
  rest : t.noMem = s.noMem
  word : ∀ a, a ∉ moveWords → t.word a = s.word a
  state : ∀ p, (t.ent p).state = (s.ent p).state
  poison : ∀ p, Tab.get noPoison t.ms.poison p = if p ∈ l ∧ s.isMapped p = true then 0 else Tab.get noPoison s.ms.poison p
  mem : ∀ a, Tab.get noByte t.mem a = if a / 2 ^ 18 ∈ l ∧ s.isMapped (a / 2 ^ 18) = true then 0 else Tab.get noByte s.mem a

theorem isMapped_of_state {s t : State} {p : Nat} (h : (t.ent p).state = (s.ent p).state) : t.isMapped p = s.isMapped p := by
  rw [isMapped, h, isMapped]

theorem PagesCleared.refl (s : State) : PagesCleared [] s s := ⟨rfl, fun _ _ => rfl, fun _ => rfl, by simp, by simp⟩

theorem PagesCleared.trans {l k : List Nat} {s t u : State} (h : PagesCleared l s t) (g : PagesCleared k t u) :
    PagesCleared (l ++ k) s u := by
  refine ⟨g.rest.trans h.rest, fun a ha => (g.word a ha).trans (h.word a ha), fun p => (g.state p).trans (h.state p), fun p => ?_,
    fun a => ?_⟩
  · rw [g.poison, h.poison, isMapped_of_state (h.state p)]
    by_cases hk : p ∈ k <;> by_cases hl : p ∈ l <;> cases s.isMapped p <;> simp [hk, hl]
  · rw [g.mem, h.mem, isMapped_of_state (h.state _)]
    generalize a / 2 ^ 18 = p
    by_cases hk : p ∈ k <;> by_cases hl : p ∈ l <;> cases s.isMapped p <;> simp [hk, hl]

theorem PagesPlaced.cleared {s t : State} (h : PagesPlaced s t) : PagesCleared [] s t := by
  refine ⟨noMem_of_noMove h.rest, h.word, fun p => (h.page p).1, fun p => ?_, fun a => ?_⟩
  · rw [poison_of_noMove h.rest]
    simp
  · rw [mem_of_noMove h.rest]
    simp

theorem ent_clearWindowPage (s : State) (p q : Nat) : (s.clearWindowPage p).ent q =
    if q = p ∧ s.isMapped p = true then { s.ent p with dirty := (s.ent p).dirty || (s.ent p).shadow } else s.ent q := by
  rw [clearWindowPage]
  cases hmap : s.isMapped p with
  | false => simp
  | true =>
    dsimp only
    rw [if_pos rfl, ent_setEnt, ent_zeroPage, ent_zeroPage]
    simp

theorem cleared_clearWindowPage (s : State) (p : Nat) : PagesCleared [p] s (s.clearWindowPage p) := by
  have hstate (q : Nat) : ((s.clearWindowPage p).ent q).state = (s.ent q).state := by
    rw [ent_clearWindowPage]
    split
    next h => rw [h.1]
    next => rfl
  cases hmap : s.isMapped p with
  | false =>
    have hsame : s.clearWindowPage p = s := by rw [clearWindowPage, hmap]; rfl
    rw [hsame]
    refine ⟨rfl, fun _ _ => rfl, fun _ => rfl, fun q => ?_, fun a => ?_⟩
    · refine (if_neg ?_).symm
      rintro ⟨hq, hm⟩
      rw [List.mem_singleton.mp hq, hmap] at hm
      exact Bool.false_ne_true hm
    · refine (if_neg ?_).symm
      rintro ⟨hq, hm⟩
      rw [List.mem_singleton.mp hq, hmap] at hm
      exact Bool.false_ne_true hm
  | true =>
    obtain ⟨z, hz⟩ : ∃ z : State, z = s.zeroPage p := ⟨_, rfl⟩
    have hform : s.clearWindowPage p = z.setEnt p { z.ent p with dirty := (z.ent p).dirty || (z.ent p).shadow } := by
      rw [clearWindowPage, hmap, hz]
      rfl
    refine ⟨?_, fun a _ => ?_, hstate, fun q => ?_, fun a => ?_⟩
    · rw [hform]
      exact (rfl : _ = z.noMem).trans (by rw [hz, zeroPage_noMem])
    · rw [hform]
      exact word_of_ctl (s := s) (t := State.setEnt z p _) (by rw [← zeroPage_ctl s p, ← hz]; rfl) a
    · have hpoison : (s.clearWindowPage p).ms.poison = z.ms.poison := by rw [hform]; rfl
      rw [hpoison, hz, poison_zeroPage]
      by_cases hq : q = p
      · rw [if_pos hq, if_pos ⟨List.mem_singleton.mpr hq, by rw [hq, hmap]⟩]
      · rw [if_neg hq, if_neg fun h => hq (List.mem_singleton.mp h.1)]
    · have hmem : (s.clearWindowPage p).mem = z.mem := by rw [hform]; rfl
      rw [hmem, hz, mem_zeroPage]
      by_cases hq : a / 2 ^ 18 = p
      · rw [if_pos hq, if_pos ⟨List.mem_singleton.mpr hq, by rw [hq, hmap]⟩]
      · rw [if_neg hq, if_neg fun h => hq (List.mem_singleton.mp h.1)]

/-- A page of a window set to 0 and pinned. -/
def windowPage (s : State) (p : Nat) : State := (s.clearWindowPage p).pinPage p

theorem cleared_foldl (l : List Nat) (s : State) : PagesCleared l s (l.foldl windowPage s) := by
  induction l generalizing s with
  | nil => exact .refl s
  | cons p l ih =>
    have hstep : PagesCleared [p] s (s.windowPage p) := by
      have h := (cleared_clearWindowPage s p).trans (placed_pinPage (s.clearWindowPage p) p).cleared
      rwa [List.append_nil] at h
    exact hstep.trans (ih (s.windowPage p))

/-- The entry of a page of a window set to 0 and pinned, where it moves for neither. -/
def windowEnt (e : TierEnt) : TierEnt :=
  let e := if e.state = .unmapped then e else { e with dirty := e.dirty || e.shadow }
  if e.state = .unmapped || e.lock || e.cpin then e else { e with cpin := true }

theorem windowEnt_home (e : TierEnt) : (windowEnt e).home = e.home := by
  simp only [windowEnt]
  split <;> split <;> rfl

theorem windowEnt_pinned {e : TierEnt} (hmap : e.state ≠ .unmapped) (hlock : e.lock = false) : (windowEnt e).cpin = true := by
  simp only [windowEnt, if_neg hmap]
  cases e.cpin <;> simp [hmap, hlock]

theorem ent_pinPage {s : State} {p : Nat} (hhome : (s.ent p).home ≠ 2) (q : Nat) : (s.pinPage p).ent q =
    if q = p then (if (s.ent p).state = .unmapped || (s.ent p).lock || (s.ent p).cpin then s.ent p else { s.ent p with cpin := true })
      else s.ent q := by
  unfold pinPage
  dsimp only
  by_cases hgo : (decide ((s.ent p).state = .unmapped) || (s.ent p).lock || (s.ent p).cpin) = true
  · rw [if_pos hgo, if_pos hgo]
    split
    next h => rw [h]
    next => rfl
  · rw [if_neg hgo, if_neg hgo, if_neg (by simp [hhome])]
    exact (rfl : _ = (s.setEnt p { s.ent p with cpin := true }).ent q).trans (ent_setEnt ..)

theorem ent_windowPage {s : State} {p : Nat} (hhome : (s.ent p).home ≠ 2) (q : Nat) :
    (s.windowPage p).ent q = if q = p then windowEnt (s.ent p) else s.ent q := by
  have hclear := ent_clearWindowPage s p
  have hself : (s.clearWindowPage p).ent p = if (s.ent p).state = .unmapped then s.ent p else
      { s.ent p with dirty := (s.ent p).dirty || (s.ent p).shadow } := by
    rw [hclear]
    by_cases hmap : (s.ent p).state = .unmapped <;> simp [isMapped, hmap]
  have hkept : ((s.clearWindowPage p).ent p).home = (s.ent p).home := by
    rw [hself]
    split <;> rfl
  rw [windowPage, ent_pinPage (by rw [hkept]; exact hhome)]
  by_cases hq : q = p
  · rw [if_pos hq, if_pos hq, hself]
    rfl
  · rw [if_neg hq, if_neg hq, hclear, if_neg fun h => hq h.1]

/-- Where no page of a list stands in deep, each changes in its own entry. -/
theorem ent_windowPages {l : List Nat} (hl : l.Nodup) (s : State) (hhome : ∀ p ∈ l, (s.ent p).home ≠ 2) (q : Nat) :
    (l.foldl windowPage s).ent q = if q ∈ l then windowEnt (s.ent q) else s.ent q := by
  induction l generalizing s with
  | nil => simp
  | cons p l ih =>
    obtain ⟨hp, hrest⟩ := List.nodup_cons.mp hl
    have hstep := ent_windowPage (hhome p List.mem_cons_self)
    have hother (r : Nat) (hr : r ∈ l) : (s.windowPage p).ent r = s.ent r := by
      rw [hstep, if_neg fun h : r = p => hp (h ▸ hr)]
    rw [List.foldl_cons, ih hrest _ fun r hr => by rw [hother r hr]; exact hhome r (List.mem_cons_of_mem _ hr)]
    by_cases hq : q = p
    · rw [if_neg (hq ▸ hp), if_pos (hq ▸ List.mem_cons_self), hstep, if_pos hq, hq]
    · rw [hstep, if_neg hq]
      simp [hq]

end State

/-! Crucible windows. -/

theorem mem_span_within {b k p : Nat} : p ∈ span b k ↔ within b k p = true := by
  rw [mem_span, Machine.within, Bool.and_eq_true, decide_eq_true_eq, decide_eq_true_eq]

section
variable {s : State} {w : Writer} {n : Fin 16} {b k : Nat} (hrange : s.windowRange n = (b, k))
include hrange

theorem exec_crucibleEnable {v : State} (hw : writable s w (0x07800C + 32 * n.val) = true)
    (hv : v = (s.wrB Reg.MEM_CRU_CTRL_EN n true).wrB Reg.MEM_CRU_STATUS_ZEROING n true)
    (hoff : s.rdB Reg.MEM_CRU_CTRL_EN n = false) (hpos : k ≠ 0) (hfits : b + k ≤ resPage)
    (hfree : s.windowOver (some n) (b * 2 ^ 18) (k * 2 ^ 18) = none)
    (hpin : ∀ p, within b k p = true → s.isMapped p = true → (s.ent p).flags ≠ 3) :
    exec (.crucibleEnable w n) s = .next (wrote s ((span b k).foldl State.windowPage v)) := by
  have hnone : (span b k).any (fun p => s.isMapped p && (s.ent p).flags == 3) = false := by
    rw [List.any_eq_false]
    intro p hp
    simpa using hpin p (mem_span_within.mp hp)
  refine exec_regWrite (f := fun s => s.crucibleOn n) rfl hw ?_
  unfold crucibleOn
  rw [hrange, hoff]
  dsimp only
  rw [if_neg (by decide), if_neg (by simp [hpos]; omega), hfree]
  dsimp only
  rw [hnone, if_neg (by decide), ← hv]
  rfl

/-- What an enabled window shows, and what it leaves of memory and of its pages. -/
theorem crucibleEnable_clause (hw : writable s w (0x07800C + 32 * n.val) = true) (hoff : s.rdB Reg.MEM_CRU_CTRL_EN n = false)
    (hpos : k ≠ 0) (hfits : b + k ≤ resPage) (hfree : s.windowOver (some n) (b * 2 ^ 18) (k * 2 ^ 18) = none)
    (hpin : ∀ p, within b k p = true → s.isMapped p = true → (s.ent p).flags ≠ 3) :
    ∃ t, exec (.crucibleEnable w n) s = .next t ∧ t.rdB Reg.MEM_CRU_CTRL_EN n = true ∧
      t.rdB Reg.MEM_CRU_STATUS_ZEROING n = true ∧ t.ops = s.ops ∧
      (∀ p o, p < resPage → o < 2 ^ 18 → t.byte (p * 2 ^ 18 + o) =
        if within b k p = true ∧ s.isMapped p = true then 0 else s.byte (p * 2 ^ 18 + o)) ∧
      (∀ p, within b k p = true → s.isMapped p = true → Tab.get noPoison t.ms.poison p = 0) ∧
      ((∀ p, within b k p = true → (s.ent p).home ≠ 2) →
        (∀ p, within b k p = true → s.isMapped p = true → (s.ent p).lock = false → (t.ent p).cpin = true) ∧
        ∀ p, within b k p = false → t.ent p = s.ent p) := by
  obtain ⟨v, hv⟩ : ∃ v : State, v = (s.wrB Reg.MEM_CRU_CTRL_EN n true).wrB Reg.MEM_CRU_STATUS_ZEROING n true := ⟨_, rfl⟩
  have hvrest : v.noCtl = s.noCtl := by rw [hv, wrB_noCtl, wrB_noCtl]
  have hvent (p : Nat) : v.ent p = s.ent p := ent_of_ms (ms_of_noCtl hvrest) p
  obtain ⟨x, hx⟩ : ∃ x : State, x = (span b k).foldl State.windowPage v := ⟨_, rfl⟩
  have hclear := cleared_foldl (span b k) v
  rw [← hx] at hclear
  have hexec := exec_crucibleEnable hrange hw hv hoff hpos hfits hfree hpin
  rw [← hx] at hexec
  have hmapped (p : Nat) : v.isMapped p = s.isMapped p := isMapped_of_state (by rw [hvent])
  have hall : ∀ n : Fin 16, ∀ f ∈ [Reg.MEM_CRU_CTRL_EN, Reg.MEM_CRU_STATUS_ZEROING], ownField f n = true ∧
      0x072020 ≤ fieldAddr f n := by decide
  have hap : ∀ n : Fin 16, apart Reg.MEM_CRU_STATUS_ZEROING n Reg.MEM_CRU_CTRL_EN n = true := by decide
  have hrd {f : Field} (hf : f ∈ [Reg.MEM_CRU_CTRL_EN, Reg.MEM_CRU_STATUS_ZEROING]) : (wrote s x).rd f n = v.rd f n := by
    obtain ⟨hown, haddr⟩ := hall n f hf
    rw [wrote_rd hown]
    exact rd_congr fun a h1 h2 => hclear.word a (by simp only [moveWords, List.mem_cons, List.not_mem_nil, or_false]; omega)
  have hms : (wrote s x).ms = x.ms := done_ms _ _
  have hmem : (wrote s x).mem = x.mem := done_mem _ _
  refine ⟨_, hexec, ?_, ?_, ?_, fun p o hp ho => ?_, fun p hin hmap => ?_, fun hhome => ?_⟩
  · rw [rdB, hrd (by simp), hv, wrB, rd_wr_other _ _ (hap n), ← rdB, rdB_wrB_same _ _ _ _ rfl]
  · rw [rdB, hrd (by simp), hv, ← rdB, rdB_wrB_same _ _ _ _ rfl]
  · have hops : x.ops = v.ops := (congrArg State.ops hclear.rest :)
    rw [wrote, done_ops]
    exact hops.trans (ops_of_noCtl hvrest)
  · rw [byte_plain _ hp ho, byte_plain _ hp ho, hmem, hclear.mem, page_of_byte ho, hmapped, mem_of_noCtl hvrest]
    simp only [mem_span_within]
  · rw [hms, hclear.poison, if_pos ⟨mem_span_within.mpr hin, by rw [hmapped, hmap]⟩]
  · have hent (p : Nat) : (wrote s x).ent p = if p ∈ span b k then windowEnt (s.ent p) else s.ent p := by
      rw [ent_of_ms hms, hx, ent_windowPages (nodup_span b k) _ fun q hq => by rw [hvent]; exact hhome q (mem_span_within.mp hq), hvent]
    refine ⟨fun p hin hmap hlock => ?_, fun p hout => ?_⟩
    · rw [hent, if_pos (mem_span_within.mpr hin)]
      exact windowEnt_pinned (by simpa [isMapped] using hmap) hlock
    · rw [hent, if_neg fun h => by rw [mem_span_within.mp h] at hout; exact Bool.noConfusion hout]

/-- The pages of a window whose shadows are stale once its words are 0. -/
def staleEnt (e : TierEnt) : TierEnt := if e.shadow then { e with dirty := true } else e

/-- A page's shadow found stale. -/
def State.stalePage (x : State) (p : Nat) : State := if (x.ent p).shadow then x.setEnt p { x.ent p with dirty := true } else x

omit hrange in
theorem ent_stalePage (x : State) (p q : Nat) : (x.stalePage p).ent q = if q = p then staleEnt (x.ent p) else x.ent q := by
  rw [State.stalePage, staleEnt]
  split
  · exact ent_setEnt ..
  · split
    next h => rw [h]
    next => rfl

omit hrange in
theorem stalePages_ctl (l : List Nat) (s : State) : (l.foldl State.stalePage s).ctl = s.ctl :=
  foldl_keeps State.ctl _ (fun x p => by rw [State.stalePage]; exact ite_keeps State.ctl _ rfl rfl) _ _

omit hrange in
/-- Shadows found stale change the tier map alone. -/
theorem stalePages_moved (l : List Nat) (s : State) : Moved s (l.foldl State.stalePage s) :=
  moved_foldl _ (fun x p => by
    rw [State.stalePage]
    exact moved_ite (fun _ => moved_setEnt ⟨rfl, rfl, rfl, rfl, le_refl _⟩) fun _ => .refl x) _ _

section
variable {z : State} (hz : z = (span b k).foldl State.stalePage s) {y : State}
  (hy : y = ((z.wrB Reg.MEM_CRU_STATUS_ZEROING n false).wrB Reg.MEM_CRU_STATUS_READY n true).raise 0x0401 n none 0)
  (hup : s.memUp = true) (hq : s.quench = false)
include hup hq

omit hrange in
theorem exec_crucibleReady_waits (hplaced : s.windowPlaced n = false) :
    ∃ t, exec (.crucibleReady n) s = .next t ∧ RegsOnly s t [] := by
  refine ⟨s.done s.pending, ?_, done_regsOnly rfl fun _ _ => rfl⟩
  show act s (if s.memUp && !s.quench then s.crucibleZeroed n else s) = _
  rw [hup, hq, if_pos (show (true && !false) = true from rfl)]
  unfold crucibleZeroed
  rw [hplaced, Bool.not_false, Bool.or_true, if_pos rfl, act_next]

include hz hy

theorem exec_crucibleReady (hzeroing : s.rdB Reg.MEM_CRU_STATUS_ZEROING n = true) (hplaced : s.windowPlaced n = true) :
    exec (.crucibleReady n) s = .next ((y.heldWrites n).done s.pending) := by
  show act s (if s.memUp && !s.quench then s.crucibleZeroed n else s) = _
  rw [hup, hq, if_pos (show (true && !false) = true from rfl)]
  unfold crucibleZeroed
  rw [hzeroing, hplaced, if_neg (by decide), hrange]
  dsimp only
  rw [hy, hz, act_next]
  rfl

/-- Without writes that waited, READY is shown with its event. -/
theorem crucibleReady_shows (hzeroing : s.rdB Reg.MEM_CRU_STATUS_ZEROING n = true) (hplaced : s.windowPlaced n = true)
    (hheld : ∀ x ∈ s.ms.held, within b k (x.line / 4096) = false) : ∃ t, exec (.crucibleReady n) s = .next t ∧
      t.rdB Reg.MEM_CRU_STATUS_ZEROING n = false ∧ t.rdB Reg.MEM_CRU_STATUS_READY n = true ∧
      Raised s t 0x0401 n none 0 ∧ EventsOnly z t [0x078010 + 32 * n.val] := by
  have hctl : z.ctl = s.ctl := by rw [hz, stalePages_ctl]
  have hzrest := hz ▸ (stalePages_moved (span b k) s).rest
  obtain ⟨u, hu⟩ : ∃ u : State, u = (z.wrB Reg.MEM_CRU_STATUS_ZEROING n false).wrB Reg.MEM_CRU_STATUS_READY n true := ⟨_, rfl⟩
  have hurest : u.noCtl = z.noCtl := by rw [hu, wrB_noCtl, wrB_noCtl]
  have hexec := exec_crucibleReady hrange hz hy hup hq hzeroing hplaced
  rw [← hu] at hy
  have hall : ∀ n : Fin 16, ∀ f ∈ [Reg.MEM_CRU_STATUS_ZEROING, Reg.MEM_CRU_STATUS_READY], ownField f n = true ∧
      apartFromEvent f n = true ∧ apartFromStamp f n = true ∧ State.within f n [0x078010 + 32 * n.val] = true := by decide
  have hap : ∀ n : Fin 16, apart Reg.MEM_CRU_STATUS_READY n Reg.MEM_CRU_STATUS_ZEROING n = true := by decide
  have hplace : ∀ n : Fin 16, ∀ f ∈ [Reg.MEM_CRU_BASE_HI_BASE_HI, Reg.MEM_CRU_BASE_LO_BASE_LO, Reg.MEM_CRU_PAGES_PAGES],
      apartFromEvent f n = true ∧ apart Reg.MEM_CRU_STATUS_READY n f n = true ∧
      apart Reg.MEM_CRU_STATUS_ZEROING n f n = true := by decide
  have hrd {f : Field} (hf : f ∈ [Reg.MEM_CRU_BASE_HI_BASE_HI, Reg.MEM_CRU_BASE_LO_BASE_LO, Reg.MEM_CRU_PAGES_PAGES]) :
      y.rd f n = s.rd f n := by
    obtain ⟨hev, hready, hzero⟩ := hplace n f hf
    rw [hy, rd_raise_apart hev, hu, wrB, rd_wr_other _ _ hready, wrB, rd_wr_other _ _ hzero, rd_of_ctl hctl]
  have hyrange : y.windowRange n = (b, k) := by
    rw [← hrange, windowRange, windowRange, rangeBase, rangeBase, hrd (by simp), hrd (by simp), hrd (by simp)]
  have hyheld : y.ms.held = s.ms.held := by
    rw [hy, raise_ms, ms_of_noCtl hurest]
    exact (congrArg (fun x : State => x.ms.held) hzrest :)
  have hnow : y.ms.held.filter (fun x => within b k (x.line / 4096)) = [] := by
    rw [hyheld, List.filter_eq_nil_iff]
    intro x hx
    simp [hheld x hx]
  have hkept : y.ms.held.filter (fun x => !within b k (x.line / 4096)) = y.ms.held := by
    rw [List.filter_eq_self, hyheld]
    intro x hx
    simp [hheld x hx]
  have hwrites : y.heldWrites n = y := by
    unfold heldWrites
    rw [hyrange]
    dsimp only
    rw [hnow, hkept]
    rfl
  rw [hwrites] at hexec
  have hpend : z.pending = s.pending := (congrArg State.pending hzrest :)
  refine ⟨_, hexec, ?_, ?_, ?_, ?_⟩
  · rw [done_rdB _ (hall n _ (by simp)).1, hy, rdB, rd_raise_apart (hall n _ (by simp)).2.1, hu, wrB, rd_wr_other _ _ (hap n), ← rdB,
      rdB_wrB_same _ _ _ _ rfl]
  · rw [done_rdB _ (hall n _ (by simp)).1, hy, rdB, rd_raise_apart (hall n _ (by simp)).2.1, hu, ← rdB, rdB_wrB_same _ _ _ _ rfl]
  · have hzstamp : z.stamp none = s.stamp none := stamp_eq none (rd_of_ctl hctl ..) (fun n => rd_of_ctl hctl ..)
      (congrArg State.tel hzrest :) (congrArg State.slots hzrest :)
    have hstamp : u.stamp none = s.stamp none := by
      rw [hu, wrB, stamp_wr _ _ (hall n _ (by simp)).2.2.1, wrB, stamp_wr _ _ (hall n _ (by simp)).2.2.1, hzstamp]
    rw [hy]
    exact raised_done _ hstamp ..
  · rw [← hpend, hy]
    refine done_eventsOnly ?_ fun a ha hev => ?_
    · rw [raise_noEvent, noEvent_of_noCtl hurest]
    · rw [raise_word _ _ _ _ _ _ hev, hu, word_wrB_listed ha (hall n _ (by simp)).2.2.2, word_wrB_listed ha (hall n _ (by simp)).2.2.2]

end

/-- A page of a window that is disabled. -/
def State.unpinPage (x : State) (p : Nat) : State := if (x.ent p).cpin then x.setEnt p { x.ent p with cpin := false } else x

omit hrange in
theorem ent_unpinPage (x : State) (p q : Nat) :
    (x.unpinPage p).ent q = if q = p then { x.ent p with cpin := false } else x.ent q := by
  rw [State.unpinPage]
  cases hpin : (x.ent p).cpin with
  | true => exact ent_setEnt ..
  | false =>
    have hsame : ({ x.ent p with cpin := false } : TierEnt) = x.ent p := by rw [← hpin]
    rw [hsame]
    by_cases hq : q = p
    · rw [if_pos hq, hq]
      rfl
    · rw [if_neg hq]
      rfl

theorem exec_crucibleDisable (hw : writable s w (0x07800C + 32 * n.val) = true) (hon : s.rdB Reg.MEM_CRU_CTRL_EN n = true)
    (hready : s.rdB Reg.MEM_CRU_STATUS_ZEROING n = false) (hidle : s.windowWritten n = false) :
    ∃ t, exec (.crucibleDisable w n) s = .next t ∧ t.rdB Reg.MEM_CRU_CTRL_EN n = false ∧
      t.rdB Reg.MEM_CRU_STATUS_READY n = false ∧ t.mem = s.mem ∧ t.ms.poison = s.ms.poison ∧
      (∀ p, t.ent p = if within b k p = true then { s.ent p with cpin := false } else s.ent p) ∧
      ∀ a, a ∉ [0x07800C + 32 * n.val, 0x078010 + 32 * n.val] → a ∉ statusWords → t.word a = s.word a := by
  obtain ⟨x, hx⟩ : ∃ x : State, x = (span b k).foldl State.unpinPage s := ⟨_, rfl⟩
  have hxrest : x.noMove = s.noMove ∧ x.ctl = s.ctl := by
    have hstep (y : State) (p : Nat) : (y.unpinPage p).noMove = y.noMove ∧ (y.unpinPage p).ctl = y.ctl := by
      rw [State.unpinPage]
      exact ⟨ite_keeps State.noMove _ rfl rfl, ite_keeps State.ctl _ rfl rfl⟩
    rw [hx]
    exact ⟨foldl_keeps State.noMove _ (fun y p => (hstep y p).1) _ _, foldl_keeps State.ctl _ (fun y p => (hstep y p).2) _ _⟩
  obtain ⟨y, hy⟩ : ∃ y : State, y = { x with ms := { x.ms with struck := x.ms.struck.filter fun l => !within b k (l / 4096) } } := ⟨_, rfl⟩
  have hyctl : y.ctl = s.ctl := by rw [hy, hxrest.2]
  obtain ⟨u, hu⟩ : ∃ u : State, u = (y.wrB Reg.MEM_CRU_CTRL_EN n false).wrB Reg.MEM_CRU_STATUS_READY n false := ⟨_, rfl⟩
  have hurest : u.noCtl = y.noCtl := by rw [hu, wrB_noCtl, wrB_noCtl]
  have hform : s.crucibleOff n = (u, .ok) := by
    unfold crucibleOff
    rw [hon, if_neg (by decide), hready, hidle, if_neg (by decide), hrange]
    dsimp only
    rw [hu, hy, hx]
    rfl
  have hexec := exec_regWrite (c := .crucibleDisable w n) (f := fun s => s.crucibleOff n) rfl hw hform
  have hall : ∀ n : Fin 16, ∀ f ∈ [Reg.MEM_CRU_CTRL_EN, Reg.MEM_CRU_STATUS_READY], ownField f n = true ∧
      State.within f n [0x07800C + 32 * n.val, 0x078010 + 32 * n.val] = true := by decide
  have hap : ∀ n : Fin 16, apart Reg.MEM_CRU_STATUS_READY n Reg.MEM_CRU_CTRL_EN n = true := by decide
  have hms : (wrote s u).ms = y.ms := (done_ms _ _).trans (show u.ms = y.ms from ms_of_noCtl hurest)
  refine ⟨_, hexec, ?_, ?_, ?_, ?_, fun p => ?_, fun a ha hst => ?_⟩
  · rw [wrote_rdB (hall n _ (by simp)).1, hu, rdB, wrB, rd_wr_other _ _ (hap n), ← rdB, rdB_wrB_same _ _ _ _ rfl]
  · rw [wrote_rdB (hall n _ (by simp)).1, hu, rdB_wrB_same _ _ _ _ rfl]
  · rw [wrote, done_mem]
    have hmem : x.mem = s.mem := mem_of_noMove hxrest.1
    exact (show u.mem = y.mem from mem_of_noCtl hurest).trans (by rw [hy, hmem])
  · have hpoison : x.ms.poison = s.ms.poison := poison_of_noMove hxrest.1
    rw [hms, hy, hpoison]
  · have hyent : y.ent p = x.ent p := by rw [hy]; rfl
    rw [ent_of_ms hms, hyent, hx, ent_foldl (g := fun e => { e with cpin := false }) ent_unpinPage (nodup_span b k)]
    simp only [mem_span_within]
  · rw [wrote, done_word _ hst, writeStatus_word, hu, word_wrB_listed ha (hall n _ (by simp)).2, word_wrB_listed ha (hall n _ (by simp)).2,
      word_of_ctl hyctl]

end

/-! Key-value pools. -/

/-- The value of MEM_KV_CTRL by its two fields. -/
theorem kvCtrl_bits (e : Bool) (limit : BitVec 16) : bit (b2n e + limit.toNat * 2 ^ 16) 0 = e ∧
    bits (b2n e + limit.toNat * 2 ^ 16) 31 16 = limit.toNat := by
  have hlt := limit.isLt
  refine ⟨?_, ?_⟩
  · rw [bit, Nat.shiftRight_zero]
    cases e <;> simp [b2n] <;> omega
  · rw [bits_eq]
    cases e <;> simp only [b2n, Bool.false_eq_true, if_false, if_true] <;> omega

section
variable {s : State} {w : Writer} {n : Fin 16} (limit : BitVec 16) (hw : writable s w (0x07900C + 64 * n.val) = true)
include hw

theorem exec_kvPoolEnable {frames : Nat} (hframes : frames = s.rd Reg.MEM_KV_CFG_NFRAMES n) (hoff : s.rdB Reg.MEM_KV_CTRL_EN n = false)
    (hpos : frames ≠ 0) (hfits : s.poolBase n + s.poolBytes n ≤ spaceEnd)
    (hpool : s.poolOver (some n.val) (s.poolBase n) (s.poolBytes n) = none)
    (hwin : s.windowOver none (s.poolBase n) (s.poolBytes n) = none) :
    let u := (s.wr Reg.MEM_KV_CTRL_STALL_LIMIT n limit.toNat).modPool n fun _ => ⟨[], false, [], 0, [], [], []⟩
    let u := (List.range frames).foldl (fun (x : State) f => x.setCount n f 0) u
    let u := (List.range frames).foldl (fun (x : State) f => x.store (x.kvVia n) (x.poolBase n + 4 * f) (toBytes 4 f)) u
    let u := ((u.wr Reg.MEM_KV_STATUS_FREE n frames).wr Reg.MEM_KV_LIMBO_LIMBO n 0).wrB Reg.MEM_KV_CTRL_EN n true
    exec (.kvPoolEnable w n limit) s = .next (wrote s ((u.wrB Reg.MEM_KV_STATUS_READY n true).raise 0x0404 n none 0)) := by
  intro u1 u2 u3 u4
  obtain ⟨hen, hlimit⟩ := kvCtrl_bits true limit
  have hval : b2n true + limit.toNat * 2 ^ 16 = 1 + limit.toNat * 2 ^ 16 := rfl
  rw [hval] at hen hlimit
  refine exec_regWrite (v := 1 + limit.toNat * 2 ^ 16) (f := fun s => s.poolWrite n (1 + limit.toNat * 2 ^ 16)) rfl hw ?_
  unfold poolWrite
  rw [hen, hlimit, hoff, ← hframes]
  dsimp only
  rw [if_neg (by decide), if_neg (by decide), if_neg (by simp [hpos]; omega), hpool, hwin]

theorem exec_kvPoolDisable (hon : s.rdB Reg.MEM_KV_CTRL_EN n = true) (hidle : ∀ o ∈ s.ops, State.poolNamed o ≠ some n.val) :
    ∃ t, exec (.kvPoolDisable w n limit) s = .next t ∧ t.rdB Reg.MEM_KV_CTRL_EN n = false ∧
      t.rdB Reg.MEM_KV_STATUS_READY n = false ∧ t.rd Reg.MEM_KV_CTRL_STALL_LIMIT n = limit.toNat ∧
      RegsOnly { s with wres := .ok } t [0x07900C + 64 * n.val, 0x079010 + 64 * n.val] := by
  obtain ⟨hen, hlimit⟩ := kvCtrl_bits false limit
  have hval : b2n false + limit.toNat * 2 ^ 16 = limit.toNat * 2 ^ 16 := Nat.zero_add _
  rw [hval] at hen hlimit
  have hnone : s.ops.find? (fun o => State.poolNamed o == some n.val) = none := by
    rw [List.find?_eq_none]
    intro o ho
    simpa using hidle o ho
  have hform : s.poolWrite n (limit.toNat * 2 ^ 16) = (((s.wr Reg.MEM_KV_CTRL_STALL_LIMIT n limit.toNat).wrB
      Reg.MEM_KV_CTRL_EN n false).wrB Reg.MEM_KV_STATUS_READY n false, .ok) := by
    unfold poolWrite
    rw [hen, hlimit, hon]
    dsimp only
    rw [if_neg (by decide), if_pos rfl, hnone]
  have hall : ∀ n : Fin 16, ∀ f ∈ [Reg.MEM_KV_CTRL_STALL_LIMIT, Reg.MEM_KV_CTRL_EN, Reg.MEM_KV_STATUS_READY], ownField f n = true ∧
      State.within f n [0x07900C + 64 * n.val, 0x079010 + 64 * n.val] = true := by decide
  have hap : ∀ n : Fin 16, apart Reg.MEM_KV_STATUS_READY n Reg.MEM_KV_CTRL_EN n = true ∧
      apart Reg.MEM_KV_STATUS_READY n Reg.MEM_KV_CTRL_STALL_LIMIT n = true ∧
      apart Reg.MEM_KV_CTRL_EN n Reg.MEM_KV_CTRL_STALL_LIMIT n = true := by decide
  obtain ⟨h1, h2, h3⟩ := hap n
  refine ⟨_, exec_regWrite (f := fun s => s.poolWrite n (limit.toNat * 2 ^ 16)) rfl hw hform, ?_, ?_, ?_, wrote_regsOnly rfl ?_ fun a ha => ?_⟩
  · rw [wrote_rdB (hall n _ (by simp)).1, rdB, wrB, rd_wr_other _ _ h1, ← rdB, rdB_wrB_same _ _ _ _ rfl]
  · rw [wrote_rdB (hall n _ (by simp)).1, rdB_wrB_same _ _ _ _ rfl]
  · rw [wrote_rd (hall n _ (by simp)).1, wrB, rd_wr_other _ _ h2, wrB, rd_wr_other _ _ h3, rd_wr_same _ _ _ _ (by decide)]
    exact Nat.mod_eq_of_lt limit.isLt
  · rw [wrB_noCtl, wrB_noCtl, wr_noCtl]
    rfl
  · rw [word_wrB_listed ha (hall n _ (by simp)).2, word_wrB_listed ha (hall n _ (by simp)).2, word_wr_listed ha (hall n _ (by simp)).2]
    exact (word_with_wres ..).symm

end

/-! Weight ranges. -/

/-- The fills of a range are freed where its fills are discarded. -/
theorem killFills_freed (s : State) (p : Fill → Bool) (d : Die) :
    ∀ f ∈ (s.killFills p).ms.fills[d], p f = true → f.ivals = [] := by
  intro f hf hpf
  simp only [killFills] at hf
  have hmap : f ∈ (s.ms.fills[d]).map fun g => if p g then State.deadFill g else g := by
    refine (List.dropWhile_sublist (fun g : Fill => g.ivals.isEmpty)).mem ?_
    simpa using hf
  obtain ⟨g, -, hg⟩ := List.mem_map.mp hmap
  cases hpg : p g with
  | true =>
    rw [hpg, if_pos rfl] at hg
    rw [← hg]
    rfl
  | false =>
    rw [hpg, if_neg (by decide)] at hg
    rw [← hg, hpg] at hpf
    exact absurd hpf (by decide)

section
variable {s : State} {w : Writer} {n : Fin 16} {b k : Nat} (hrange : s.weightRange n = (b, k)) (tiled : Bool)
  (hw : writable s w (0x07100C + 16 * n.val) = true)
include hrange hw

omit hrange hw in
/-- What a range's control register shows as EN and TILED are written. -/
theorem weightCtrl_shows (x : State) (e : Bool) :
    let u := (x.wrB Reg.MEM_WR_CTRL_EN n e).wrB Reg.MEM_WR_CTRL_TILED n tiled
    (wrote s u).rdB Reg.MEM_WR_CTRL_EN n = e ∧ (wrote s u).rdB Reg.MEM_WR_CTRL_TILED n = tiled ∧ u.noCtl = x.noCtl ∧
      ∀ a, a ∉ [0x07100C + 16 * n.val] → u.word a = x.word a := by
  have hall : ∀ n : Fin 16, ∀ f ∈ [Reg.MEM_WR_CTRL_EN, Reg.MEM_WR_CTRL_TILED], ownField f n = true ∧
      State.within f n [0x07100C + 16 * n.val] = true := by decide
  have hap : ∀ n : Fin 16, apart Reg.MEM_WR_CTRL_TILED n Reg.MEM_WR_CTRL_EN n = true := by decide
  intro u
  refine ⟨?_, ?_, by rw [wrB_noCtl, wrB_noCtl], fun a ha => ?_⟩
  · rw [wrote_rdB (hall n _ (by simp)).1]
    show ((x.wrB Reg.MEM_WR_CTRL_EN n e).wrB Reg.MEM_WR_CTRL_TILED n tiled).rdB Reg.MEM_WR_CTRL_EN n = e
    rw [rdB, wrB, rd_wr_other _ _ (hap n), ← rdB, rdB_wrB_same _ _ _ _ rfl]
  · rw [wrote_rdB (hall n _ (by simp)).1, rdB_wrB_same _ _ _ _ rfl]
  · rw [word_wrB_listed ha (hall n _ (by simp)).2, word_wrB_listed ha (hall n _ (by simp)).2]

theorem exec_weightRangeEnable (hpos : k ≠ 0) (hfits : b + k ≤ resPage)
    (hfree : ∀ q, q < 16 → q ≠ n.val → s.rdB Reg.MEM_WR_CTRL_EN q = true →
      State.overlaps b k (s.weightRange q).1 (s.weightRange q).2 = false) :
    ∃ t, exec (.weightRangeEnable w n tiled) s = .next t ∧ t.rdB Reg.MEM_WR_CTRL_EN n = true ∧
      t.rdB Reg.MEM_WR_CTRL_TILED n = tiled ∧ RegsOnly { s with wres := .ok } t [0x07100C + 16 * n.val] := by
  have hnone : (List.range 16).find? (fun q => q != n.val && s.rdB Reg.MEM_WR_CTRL_EN q &&
      State.overlaps b k (s.weightRange q).1 (s.weightRange q).2) = none := by
    rw [List.find?_eq_none]
    intro q hq
    simp only [Bool.and_eq_true, bne_iff_ne, ne_eq, not_and, Bool.not_eq_true]
    exact fun h => hfree q (List.mem_range.mp hq) h.1 h.2
  have hform : s.weightEnable n tiled = ((s.wrB Reg.MEM_WR_CTRL_EN n true).wrB Reg.MEM_WR_CTRL_TILED n tiled, .ok) := by
    unfold weightEnable
    rw [hrange]
    dsimp only
    rw [if_neg (by simp [hpos]; omega), hnone]
  obtain ⟨hen, htiled, hrest, hword⟩ := weightCtrl_shows tiled s true
  refine ⟨_, exec_regWrite (f := fun s => s.weightEnable n tiled) rfl hw hform, hen, htiled, wrote_regsOnly rfl ?_ fun a ha => ?_⟩
  · rw [hrest]
    rfl
  · rw [hword a ha]
    exact (word_with_wres ..).symm

theorem exec_weightRangeDisable : ∃ t, exec (.weightRangeDisable w n tiled) s = .next t ∧ t.rdB Reg.MEM_WR_CTRL_EN n = false ∧
    t.rdB Reg.MEM_WR_CTRL_TILED n = tiled ∧
    (∀ d : Die, ∀ f ∈ t.ms.fills[d], within (b * 2 ^ 18) (k * 2 ^ 18) f.base = true → f.ivals = []) ∧
    RegsOnly { s.killFills (fun f => within (b * 2 ^ 18) (k * 2 ^ 18) f.base) with wres := .ok } t [0x07100C + 16 * n.val] := by
  obtain ⟨x, hx⟩ : ∃ x : State, x = s.killFills (fun f => within (b * 2 ^ 18) (k * 2 ^ 18) f.base) := ⟨_, rfl⟩
  have hform : s.weightDisable n tiled = ((x.wrB Reg.MEM_WR_CTRL_EN n false).wrB Reg.MEM_WR_CTRL_TILED n tiled, .ok) := by
    unfold weightDisable
    rw [hrange, hx]
  have hpend : x.pending = s.pending := by rw [hx]; rfl
  obtain ⟨hen, htiled, hrest, hword⟩ := weightCtrl_shows tiled x false
  obtain ⟨u, hu⟩ : ∃ u : State, u = (x.wrB Reg.MEM_WR_CTRL_EN n false).wrB Reg.MEM_WR_CTRL_TILED n tiled := ⟨_, rfl⟩
  rw [← hu] at hform hen htiled hrest
  have hword' : ∀ a, a ∉ [0x07100C + 16 * n.val] → u.word a = x.word a := by rw [hu]; exact hword
  have hms : (wrote s u).ms = x.ms := (done_ms _ _).trans (show u.ms = x.ms from ms_of_noCtl hrest)
  rw [← hx]
  refine ⟨_, exec_regWrite (f := fun s => s.weightDisable n tiled) rfl hw hform, hen, htiled, fun d f hf hin => ?_,
    wrote_regsOnly hpend ?_ fun a ha => ?_⟩
  · rw [hms, hx] at hf
    exact killFills_freed s _ d f hf hin
  · rw [hrest]
    rfl
  · rw [hword' a ha]
    exact (word_with_wres ..).symm

end

/-- Settles O39: the pages of a window change one by one, each in its own entry where none stands in deep; the pools' and
ranges' registers by their branches. -/
theorem windowsPoolsAndRanges : Obligations.WindowsPoolsAndRanges := by
  unfold Obligations.WindowsPoolsAndRanges
  intro s w n limit tiled b k z zeroed wb wk frames
  refine ⟨fun hw hoff hpos hfits hfree hpin => crucibleEnable_clause rfl hw hoff hpos hfits hfree hpin,
    fun hup hq hzeroing => ⟨fun hplaced => ⟨exec_crucibleReady rfl rfl rfl hup hq hzeroing hplaced, fun p => ?_,
      fun hheld => crucibleReady_shows rfl rfl rfl hup hq hzeroing hplaced hheld⟩, fun hplaced => exec_crucibleReady_waits hup hq hplaced⟩,
    fun hw hon hready hidle => exec_crucibleDisable rfl hw hon hready hidle,
    fun hw hoff hpos hfits hpool hwin => exec_kvPoolEnable limit hw rfl hoff hpos hfits hpool hwin,
    fun hw hon hidle => exec_kvPoolDisable limit hw hon hidle,
    fun hw hpos hfits hfree => exec_weightRangeEnable rfl tiled hw hpos hfits hfree,
    fun hw => exec_weightRangeDisable rfl tiled hw⟩
  have hent : z.ent p = if p ∈ span b k then staleEnt (s.ent p) else s.ent p := ent_foldl ent_stalePage (nodup_span b k) s p
  rw [hent, staleEnt]
  by_cases hin : within b k p = true
  · rw [if_pos (mem_span_within.mpr hin)]
    simp [hin]
  · rw [if_neg (fun h => hin (mem_span_within.mp h)), if_neg fun h => hin h.1]

end Sys2Proof.Machine
end


section
/-!
A corrected error in a frame of the maps, where near is full and a FREE waits for the page that gives way (R281, R299).
-/
namespace Sys2Proof.Machine

open State Sys2Proof.Safety

namespace State

/-! What the log of an error and the list of frames leave of the tier map. -/

theorem errLog_ms (s : State) (tier : Nat) (d : Fin 2) (ue : Bool) (action frame page line touch : Nat) :
    (s.errLog tier d ue action frame page line touch).ms = s.ms := by
  simp only [errLog]
  rw [ms_of_noEvent (capture_noEvent ..), ms_of_noEvent (capture_noEvent ..)]
  refine ite_keeps State.ms _ rfl ?_
  rw [setWord_ms, setWord_ms, setWord_ms]

theorem listFrame_tier (s : State) (tier : Nat) (d : Fin 2) (f cause : Nat) : (s.listFrame tier d f cause).ms.tier = s.ms.tier := by
  obtain ⟨x, hx⟩ : ∃ x : State, x = ({ s with ms := { s.ms with retired := s.ms.retired ++ [frameKey tier d f] } } : State).inc
    Reg.MEM_SLAG_ADDS_COUNT 0 1 := ⟨_, rfl⟩
  have htier : x.ms.tier = s.ms.tier := by rw [hx, inc_ms]
  simp only [listFrame]
  rw [← hx, ← htier]
  split
  · rw [takeDseq, setWord_ms]
  · split
    · rfl
    · rw [raise_ms]

theorem ent_of_tier {s t : State} (h : t.ms.tier = s.ms.tier) (p : Nat) : t.ent p = s.ent p := by rw [ent, ent, h]

/-! A move that ends for a page whose FREE waits. -/

/-- A page whose copy ends with a FREE waiting is unmapped, whatever waited for it. -/
theorem swing_unmaps {s : State} {p : Nat} {m : Mig} (hm : s.ms.migs.find? (·.page == p) = some m) (hfree : m.freeAfter = true) :
    ((s.swing p).ent p).state = .unmapped := by
  rw [swing_eq hm, hfree, unlocked, if_pos rfl, ((moved_retryWants _ _ p).page p).state, ent_unmapPage, if_pos rfl]
  rfl

/-- A die's frames of a tier with none free: no move into the tier finds one. -/
theorem pickFrame_full {s : State} {tier : Nat} {d : Fin 2} (hpos : 0 < tierFrames tier)
    (hfull : ∀ f, f < tierFrames tier → s.isFreeFrame tier d f = false) : s.pickFrame tier d = none := by
  have hnone (n f : Nat) (hn : f + n ≤ tierFrames tier) : s.firstFree tier d n f = none := by
    induction n generalizing f with
    | zero => rfl
    | succ n ih => rw [firstFree, hfull f (by omega), if_neg (by decide), ih (f + 1) (by omega)]
  rw [pickFrame, hfull (s.choose (tierFrames tier)) (Nat.mod_lt _ hpos), if_neg (by decide), hnone _ 0 (by omega)]

end State

/-! The state that refutes O56. -/

/-- A page in near with a clean shadow. -/
def shadowed : TierEnt := ⟨.mapped, 1, 0, 0, false, true, false, false, 320, 0, 0, 0⟩

/-- Memory with near full: every near frame of West beyond the maps is out of use but that of page 5, for which a copy stands
with a FREE that waits, and West's channel of frame 0 is degraded. -/
def fullNear (m : MemSys) : Prop :=
  m.tier = [(5, shadowed)] ∧ m.migs = [⟨5, 1, 0, true⟩] ∧ m.mapMoved = [] ∧ ∀ f, 320 ≤ f → f < 1048576 → frameKey 1 0 f ∈ m.retired

theorem fullNear_ent {x : State} (h : fullNear x.ms) : x.ent 5 = shadowed := by
  obtain ⟨htier, -⟩ := h
  rw [ent, htier]
  rfl

theorem fullNear_pickFrame {x : State} (h : fullNear x.ms) : x.pickFrame 1 0 = none := by
  obtain ⟨-, -, hmoved, hretired⟩ := h
  refine pickFrame_full (by decide) fun f hf => ?_
  by_cases hmap : f < 320
  · have hindex : (x.mapIndex 0 f).isSome = true := by
      rw [mapIndex, hmoved]
      simp [hmap]
    rw [isFreeFrame, hindex]
    simp
  · have hin : x.ms.retired.contains (frameKey 1 0 f) = true := List.contains_iff_mem.mpr (hretired f (by omega) hf)
    rw [isFreeFrame, unavailable, hin]
    simp

/-- The page that gives way in near is unmapped. -/
theorem fullNear_moveMap {x : State} (h : fullNear x.ms) (i : Nat) : ((x.moveMap 0 i).ent 5).state = .unmapped := by
  have hent := fullNear_ent h
  have hdest : x.destFrame 1 0 = (x, none) := by
    rw [destFrame, fullNear_pickFrame h]
    rfl
  obtain ⟨htier, hmigs, -⟩ := h
  have hpages : x.diePages 0 = [5] := by
    rw [diePages, htier]
    rfl
  have hout : (x.coldFirst ((x.evictable 1 0).filter fun q => !(x.ent q).lock)).head? = some 5 := by
    rw [evictable, hpages, List.filter_cons_of_pos (by simp [hent, shadowed]), List.filter_nil,
      List.filter_cons_of_pos (by simp [hent, shadowed]), List.filter_nil]
    rfl
  have hstart : (x.startMove 5 (x.downTier 5)).1.ms.migs = x.ms.migs := by
    have hdown : x.downTier 5 = 2 := by
      rw [downTier]
      simp [hent, shadowed]
    rw [hdown, startMove, hent]
    show ((State.setEnt x 5 _).inc Reg.MEM_DEMOTE_COUNT 0 1).ms.migs = _
    rw [inc_ms]
    rfl
  have hneed : x.needFrame 1 0 = (((x.startMove 5 (x.downTier 5)).1).swing 5).destFrame 1 0 := by
    rw [needFrame, hdest]
    dsimp only
    rw [hout]
  have hunmapped : (((x.startMove 5 (x.downTier 5)).1.swing 5).ent 5).state = .unmapped :=
    swing_unmaps (m := ⟨5, 1, 0, true⟩) (by rw [hstart, hmigs]; rfl) rfl
  have hkept : ((x.needFrame 1 0).1.ent 5).state = .unmapped := by
    rw [hneed, ((moved_destFrame _ 1 0).page 5).state, hunmapped]
  rw [moveMap]
  split
  next y heq => rwa [heq] at hkept
  next y g heq =>
    rw [heq] at hkept
    exact hkept

/-- The channel of West's near frame 0 is degraded, so that a corrected error of it retires the frame; the frames out of use
are those listed. -/
def errState (frames : List Nat) : State :=
  ({ State.reset with
    pw := { State.powerReset with mode := .on }
    ms := { State.memReset with
      tier := [(5, shadowed)], migs := [⟨5, 1, 0, true⟩], retired := frames
      degraded := [(0, false, Config.channelOf 1 0 0)] } } : State).wr Reg.HRT_BOOT_STAGE 0 4

/-- A corrected error in the frame that holds West's first map page. -/
def mapError : ErrLoc := ⟨0, .map 0, 0, none, false⟩

section
variable (frames : List Nat)

theorem errState_ms : (errState frames).ms = { State.memReset with
    tier := [(5, shadowed)], migs := [⟨5, 1, 0, true⟩], retired := frames
    degraded := [(0, false, Config.channelOf 1 0 0)] } := wr_ms ..

theorem errState_memUp : (errState frames).memUp = true := by
  have hstage : (errState frames).stage = 4 := by
    rw [stage, errState, rd_wr_same _ _ _ _ (by decide)]
    rfl
  have hpw : (errState frames).pw = { State.powerReset with mode := .on } := wr_pw ..
  rw [memUp, powered, hstage, hpw]
  rfl

variable {frames} (hframes : ∀ f, frameKey 1 0 f ∈ frames ↔ 320 ≤ f ∧ f < 1048576)
include hframes

/-- The error retires the frame once its map page has left it. -/
theorem errState_correctedForm : ∃ y : State, (∃ ce, y.ms = { (errState frames).ms with ce := ce }) ∧
    (errState frames).corrected mapError = (y.moveMap 0 0).retire 1 0 0 2 := by
  obtain ⟨s, hs⟩ : ∃ s : State, s = errState frames := ⟨_, rfl⟩
  have hms : s.ms = { State.memReset with
      tier := [(5, shadowed)], migs := [⟨5, 1, 0, true⟩], retired := frames
      degraded := [(0, false, Config.channelOf 1 0 0)] } := hs ▸ errState_ms frames
  have hfresh : s.ms.retired.contains (frameKey 1 0 0) = false := by
    rw [← Bool.not_eq_true, List.contains_iff_mem, hms, hframes]
    omega
  rw [← hs]
  obtain ⟨x, hx⟩ : ∃ x : State, x = s.inc Reg.MEM_CE_COUNT 0 1 := ⟨_, rfl⟩
  have hxms : x.ms = s.ms := by rw [hx, inc_ms]
  obtain ⟨z, hz⟩ : ∃ z : State, z = { x with ms := { x.ms with
    ce := Tab.set (fun _ => 0) x.ms.ce (frameKey 1 0 0) (Tab.get (fun _ => 0) x.ms.ce (frameKey 1 0 0) + 1) } } := ⟨_, rfl⟩
  obtain ⟨y, hy⟩ : ∃ y : State, y = z.errLog 1 0 false 3 0 (s.placeOf mapError).2.2 0 (x.ent (s.placeOf mapError).2.2).touch.toNat :=
    ⟨_, rfl⟩
  have hyms : y.ms = { s.ms with ce := z.ms.ce } := by rw [hy, errLog_ms, hz, hxms]
  have hplace : s.placeOf mapError = (1, 0, (s.placeOf mapError).2.2) := rfl
  have hform : s.corrected mapError = y.retireFrame 1 0 0 2 := by
    unfold corrected
    rw [hplace]
    dsimp only
    rw [← hx]
    have hdegraded : x.ms.degraded.contains (0, false, Config.channelOf 1 0 0) = true := by
      rw [hxms, hms]
      simp
    change (if x.ms.retired.contains (frameKey 1 0 0) = true then _ else
      if (decide ((1 : Nat) ≠ 0) && x.ms.degraded.contains (0, false, Config.channelOf 1 0 0)) = true then _ else _) = _
    rw [hxms, hfresh, ← hxms, hdegraded, if_neg (by decide), if_pos (by decide), hy, hz]
    rfl
  have huser : y.frameUser 1 0 0 = none := by
    rw [frameUser, hyms, hms]
    rfl
  have hindex : y.mapIndex 0 0 = some 0 := by
    rw [mapIndex, hyms, hms]
    rfl
  refine ⟨y, ⟨z.ms.ce, hyms⟩, ?_⟩
  rw [hform, retireFrame, huser, if_pos rfl, hindex]

theorem errState_corrected : (((errState frames).corrected mapError).ent 5).state = .unmapped := by
  obtain ⟨y, ⟨ce, hms⟩, hform⟩ := errState_correctedForm hframes
  have hfull : fullNear y.ms := by
    rw [hms, errState_ms]
    exact ⟨rfl, rfl, rfl, fun f h1 h2 => (hframes f).mpr ⟨h1, h2⟩⟩
  have hretire : (y.moveMap 0 0).retire 1 0 0 2 = (y.moveMap 0 0).listFrame 1 0 0 2 := by
    rw [retire]
    rfl
  rw [hform, hretire, ent_of_tier (listFrame_tier ..), fullNear_moveMap hfull]

end

/-- West's near frames beyond the maps, by their keys. -/
theorem mem_nearFrames (f : Nat) : frameKey 1 0 f ∈ (span 320 1048256).map (frameKey 1 0) ↔ 320 ≤ f ∧ f < 1048576 := by
  rw [List.mem_map]
  constructor
  · rintro ⟨g, hg, he⟩
    obtain ⟨hlo, hhi⟩ := mem_span.mp hg
    have hfg : g = f := by simpa only [frameKey, Nat.add_left_cancel_iff] using he
    omega
  · rintro ⟨hlo, hhi⟩
    exact ⟨f, mem_span.mpr ⟨hlo, by omega⟩, rfl⟩

theorem exec_memoryCe {s : State} {e : ErrLoc} (hup : s.memUp = true) (hin : e.inMemory = true) :
    exec (.memoryCe e) s = .next ((s.corrected e).done s.pending) := by
  show act s (if s.memUp && e.inMemory then s.corrected e else s) = _
  rw [hup, hin, if_pos (show (true && true) = true from rfl), act_next]

/-- Refutes O56: near is full but for page 5, for which a copy stands with a FREE that waits though the page holds no LOCK; a
corrected error in a map frame behind a degraded channel moves the map, page 5 gives way, its copy ends, and the FREE unmaps
it. -/
theorem not_memoryErrors : ¬ Obligations.MemoryErrors := by
  unfold Obligations.MemoryErrors
  intro h
  obtain ⟨frames, hframes⟩ : ∃ frames : List Nat, ∀ f, frameKey 1 0 f ∈ frames ↔ 320 ≤ f ∧ f < 1048576 := ⟨_, mem_nearFrames⟩
  obtain ⟨hmem, -⟩ := h (errState frames) mapError .clean 0 false 0 .noSpare
  obtain ⟨-, -, hce, -⟩ := hmem (errState_memUp frames)
  obtain ⟨t, ht, -, -, -, -, hstate⟩ := hce rfl
  have heq : t = ((errState frames).corrected mapError).done (errState frames).pending :=
    (Host.Outcome.next.inj ((exec_memoryCe (errState_memUp frames) rfl).symm.trans ht)).symm
  have hkept := hstate 5
  rw [heq, ent_of_ms (done_ms ..), errState_corrected hframes] at hkept
  have hmapped : (errState frames).ent 5 = shadowed := by
    rw [ent, errState_ms]
    rfl
  rw [hmapped] at hkept
  exact PState.noConfusion hkept

end Sys2Proof.Machine
end


section
/-!
The append unit and the frames of a pool (R232 to R238): what an access of memory leaves of a pool's registers, the reads
that lead an entry to its target, and a step of the unit by what it finds there.
-/
namespace Sys2Proof.Machine

open State Sys2Proof.Safety

namespace State

/-! The registers of the pools under an access. -/

/-- Whether a word is one of the pools' registers. -/
def poolWord (b : Nat) : Prop := 0x079000 ≤ b ∧ b < 0x079400

/-- Whether every word of a field is one of the pools' registers. -/
def poolField (f : Field) (i : Nat) : Bool := decide (0x079000 ≤ fieldAddr f i) && decide (fieldAddr f i + 4 * fieldWords f ≤ 0x079400)

variable {b : Nat}

theorem poolWord_quiet (h : poolWord b) : b ∉ eventWords := by
  have hev : ∀ e ∈ eventWords, e < 0x079000 ∨ 0x079400 ≤ e := by decide
  intro he
  obtain ⟨hlo, hhi⟩ := h
  rcases hev b he with h | h <;> omega

theorem word_wr_besidePools (s : State) {f : Field} {i v : Nat} (hb : poolWord b)
    (hf : fieldAddr f i + 4 * fieldWords f ≤ 0x079000 ∨ 0x079400 ≤ fieldAddr f i) : (s.wr f i v).word b = s.word b := by
  obtain ⟨hlo, hhi⟩ := hb
  exact word_wr_other _ _ (by omega)

theorem unmappedAccess_poolWord (s : State) (v : Via) (p : Nat) (hb : poolWord b) :
    (s.unmappedAccess v p).word b = s.word b := by
  have hinc : (s.inc Reg.MEM_UNMAPPED_COUNT 0 1).word b = s.word b := word_wr_besidePools _ hb (by decide)
  simp only [unmappedAccess]
  split
  · rw [raise_word _ _ _ _ _ _ (poolWord_quiet hb), hinc]
  · exact hinc

theorem reservedWrite_poolWord (s : State) (v : Via) (p : Nat) (hb : poolWord b) :
    (s.reservedWrite v p).word b = s.word b := by
  have hinc : (s.inc Reg.MEM_RSV_WRITE_COUNT 0 1).word b = s.word b := word_wr_besidePools _ hb (by decide)
  simp only [reservedWrite]
  split
  · rw [raise_word _ _ _ _ _ _ (poolWord_quiet hb), hinc]
  · exact hinc

theorem ledgerUse_poolWord (s : State) (d : Fin 2) (p : Nat) (hb : poolWord b) : (s.ledgerUse d p).word b = s.word b := by
  simp only [ledgerUse]
  split
  · rfl
  · exact word_wr_besidePools _ hb (by decide)

theorem mscAccess_poolWord (s : State) (d : Fin 2) (h l : Nat) (w : Bool) (hb : poolWord b) :
    (s.mscAccess d h l w).word b = s.word b := by
  have hhit : (s.inc Reg.MEM_MSC_HIT_COUNT 0 1).word b = s.word b := word_wr_besidePools _ hb (by decide)
  have hmiss : (s.inc Reg.MEM_MSC_MISS_COUNT 0 1).word b = s.word b := word_wr_besidePools _ hb (by decide)
  have hdead (t : State) : (t.inc Reg.MEM_MSC_DEAD_COUNT 0 1).word b = t.word b := word_wr_besidePools _ hb (by decide)
  simp only [mscAccess]
  split
  · rfl
  · split
    · split
      · split
        · rw [deadLine_word, hdead]; exact hhit
        · exact hhit
      · exact hhit
    · exact ite_keeps (word · b) _ hmiss hmiss

theorem touchLine_poolWord (s : State) (v : Via) (l : Nat) (w : Bool) (hb : poolWord b) :
    (s.touchLine v l w).word b = s.word b := by
  unfold touchLine
  exact ite_keeps (word · b) _ ((mscAccess_poolWord _ _ _ _ _ hb).trans (ledgerUse_poolWord _ _ _ hb)) (ledgerUse_poolWord _ _ _ hb)

theorem readLine_poolWord (s : State) (v : Via) (l : Nat) (hb : poolWord b) : (s.readLine v l).word b = s.word b := by
  simp only [readLine]
  split
  · rfl
  · split
    · rw [unmappedAccess_poolWord _ _ _ hb, ledgerUse_poolWord _ _ _ hb]
    · rw [touchLine_poolWord _ _ _ _ hb]
      exact ite_keeps (word · b) _ (word_wr_besidePools _ hb (by decide)) rfl

theorem readRange_poolWord (s : State) (v : Via) (a n : Nat) (hb : poolWord b) : (s.readRange v a n).word b = s.word b := by
  simp only [readRange]
  split
  · rfl
  · exact foldl_keeps (word · b) _ (fun s l => readLine_poolWord s v l hb) _ _

theorem doorbellLine_poolWord (s : State) (l d m : Nat) (hb : poolWord b) : (s.doorbellLine l d m).word b = s.word b := by
  have hbad (r : RingId) : (s.incSat Reg.STR_RING_STAT_BADDB r).word b = s.word b :=
    word_wr_besidePools _ hb (by simp [fieldAddr, fieldWords, Reg.STR_RING_STAT_BADDB]; omega)
  have htail (r : RingId) (t : Nat) : (s.wr Reg.STR_RING_TAIL_COUNT r t).word b = s.word b :=
    word_wr_besidePools _ hb (by simp [fieldAddr, fieldWords, Reg.STR_RING_TAIL_COUNT]; omega)
  simp only [doorbellLine]
  split
  case isFalse => rfl
  case isTrue hl =>
    refine ite_keeps (word · b) _ ?_ (hbad ⟨l, hl⟩)
    rw [doorbellValue]
    exact ite_keeps (word · b) _ (hbad _)
      (ite_keeps (word · b) _ (htail _ _) ((raise_word _ _ _ _ _ _ (poolWord_quiet hb)).trans (hbad _)))

theorem writeLine_poolWord (s : State) (v : Via) (l d m : Nat) (r : Bool) (hb : poolWord b) :
    (s.writeLine v l d m r).word b = s.word b := by
  have htouch : ((s.touchLine v l true).unfill l).word b = s.word b := touchLine_poolWord _ _ _ _ hb
  have hcru {t : State} {f : Field} (w : Fin 16) (x : Nat) (hf : ∀ w : Fin 16, fieldAddr f w + 4 * fieldWords f ≤ 0x079000 ∨
      0x079400 ≤ fieldAddr f w) : (t.wr f w x).word b = t.word b := word_wr_besidePools _ hb (hf w)
  simp only [writeLine]
  refine ite_keeps (word · b) _ rfl (ite_keeps (word · b) _ (doorbellLine_poolWord _ _ _ _ hb) (ite_keeps (word · b) _
    (reservedWrite_poolWord _ _ _ hb) (ite_keeps (word · b) _ ?_ ?_)))
  · rw [unmappedAccess_poolWord _ _ _ hb, ledgerUse_poolWord _ _ _ hb]
  · split
    · refine ite_keeps (word · b) _ rfl (ite_keeps (word · b) _ ?_ (ite_keeps (word · b) _ htouch ?_))
      · rw [raise_word _ _ _ _ _ _ (poolWord_quiet hb), wrB, hcru _ _ (by decide), incSat, hcru _ _ (by decide), htouch]
      · rw [mergeLine_word, inc, hcru _ _ (by decide), htouch]
    · exact ite_keeps (word · b) _ (by rw [setPoison_word, mergeLine_word, htouch]) (by rw [mergeLine_word, htouch])

theorem store_poolWord (s : State) (v : Via) (a : Nat) (bs : List Byte) (hb : poolWord b) : (s.store v a bs).word b = s.word b :=
  foldl_keeps (word · b) _ (fun (s : State) (x : Nat × Nat × Nat) => writeLine_poolWord s v x.1 x.2.1 x.2.2 false hb) _ _

theorem rd_of_poolField {s t : State} {f : Field} {i : Nat} (hf : poolField f i = true)
    (h : ∀ b, poolWord b → t.word b = s.word b) : t.rd f i = s.rd f i := by
  simp only [poolField, Bool.and_eq_true, decide_eq_true_eq] at hf
  obtain ⟨hlo, hhi⟩ := hf
  exact rd_congr fun b h1 h2 => h b ⟨by omega, by omega⟩

/-! The free ring. -/

theorem pools_of_noMem {s t : State} (h : t.noMem = s.noMem) : t.pools = s.pools := (congrArg State.pools h :)

theorem giveFrame_pools (s : State) (p : Fin 16) (f : Nat) : (s.giveFrame p f).pools = s.pools := by
  rw [giveFrame, wr_pools, pools_of_noMem (store_noMem ..)]

theorem giveFrame_ops (s : State) (p : Fin 16) (f : Nat) : (s.giveFrame p f).ops = s.ops := by
  have hstore (v : Via) (a : Nat) (bs : List Byte) : (s.store v a bs).ops = s.ops := (congrArg State.ops (store_noMem s v a bs) :)
  rw [giveFrame, wr_ops, hstore]

theorem rd_giveFrame (s : State) (p : Fin 16) (f : Nat) :
    (s.giveFrame p f).rd Reg.MEM_KV_STATUS_FREE p = (s.rd Reg.MEM_KV_STATUS_FREE p + 1) % 2 ^ 24 := by
  rw [giveFrame, rd_wr_same _ _ _ _ (by decide)]
  rfl

/-- The frames given back to a pool raise FREE by their number. -/
theorem giveFrames_free (p : Fin 16) (l : List Nat) (s : State) :
    (l.foldl (fun s f => s.giveFrame p f) s).rd Reg.MEM_KV_STATUS_FREE p = (s.rd Reg.MEM_KV_STATUS_FREE p + l.length) % 2 ^ 24 := by
  induction l generalizing s with
  | nil => exact (Nat.mod_eq_of_lt (rd_lt s Reg.MEM_KV_STATUS_FREE p)).symm
  | cons f l ih =>
    rw [List.foldl_cons, ih, rd_giveFrame, List.length_cons]
    omega

/-! The wait for a frame. -/

theorem modPool_pool (s : State) (p : Fin 16) (f : Pool → Pool) : (s.modPool p f).pools[p] = f s.pools[p] := Vector.getElem_set_self ..

theorem opFlag_pools (s : State) (id n : Nat) : (s.opFlag id n).pools = s.pools := rfl
theorem opFlag_mem (s : State) (id n : Nat) : (s.opFlag id n).mem = s.mem := rfl

theorem starve_shape (s : State) (p : Fin 16) (o : Op) : ∃ u : State, s.starve p o = u.modPool p (fun x => { x with stalled := true }) ∧
    u.mem = s.mem ∧ u.pools[p].queue = s.pools[p].queue ∧ u.rdB Reg.MEM_KV_STATUS_EXHAUSTED p = true ∧
    u.rd Reg.MEM_KV_CTRL_STALL_LIMIT p = s.rd Reg.MEM_KV_CTRL_STALL_LIMIT p := by
  have hquiet : ∀ p : Fin 16, quiet Reg.MEM_KV_STATUS_EXHAUSTED p = true ∧ quiet Reg.MEM_KV_CTRL_STALL_LIMIT p = true := by decide
  have hapart : ∀ p : Fin 16, apart Reg.MEM_KV_STATUS_EXHAUSTED p Reg.MEM_KV_CTRL_STALL_LIMIT p = true := by decide
  obtain ⟨hq1, hq2⟩ := hquiet p
  obtain ⟨w, hw⟩ : ∃ w : State, w = s.wrB Reg.MEM_KV_STATUS_EXHAUSTED p true := ⟨_, rfl⟩
  have hwmem : w.mem = s.mem := by rw [hw]; exact mem_of_noCtl (wrB_noCtl ..)
  have hwpools : w.pools = s.pools := by rw [hw]; exact pools_of_noCtl (wrB_noCtl ..)
  have hwshown : w.rdB Reg.MEM_KV_STATUS_EXHAUSTED p = true := by rw [hw]; exact rdB_wrB_same _ _ _ _ rfl
  have hwlimit : w.rd Reg.MEM_KV_CTRL_STALL_LIMIT p = s.rd Reg.MEM_KV_CTRL_STALL_LIMIT p := by
    rw [hw]; exact rd_wr_other _ _ (hapart p)
  obtain ⟨t, ht⟩ : ∃ t : State, t = w.opFlag o.id 6 := ⟨_, rfl⟩
  have hctl : t.ctl = w.ctl := by rw [ht]; rfl
  have hmem : t.mem = s.mem := by rw [ht, opFlag_mem, hwmem]
  have hpools : t.pools = s.pools := by rw [ht, opFlag_pools, hwpools]
  have hshown : t.rdB Reg.MEM_KV_STATUS_EXHAUSTED p = true := by rw [rdB, rd_of_ctl hctl]; exact hwshown
  have hlimit : t.rd Reg.MEM_KV_CTRL_STALL_LIMIT p = s.rd Reg.MEM_KV_CTRL_STALL_LIMIT p := by rw [rd_of_ctl hctl, hwlimit]
  rw [starve, ← hw, ← ht]
  by_cases hin : t.pools[p].starved.contains o.id = true
  · refine ⟨t, ?_, hmem, by rw [hpools], hshown, hlimit⟩
    rw [if_pos hin]
  · refine ⟨_, congrArg (fun v : State => v.modPool p fun x => { x with stalled := true }) (if_neg hin), ?_, ?_, ?_, ?_⟩
    · rw [raise_mem]; exact hmem
    · rw [raise_pools, modPool_pool, hpools]
    · rw [rdB, rd_raise _ _ _ _ _ hq1]; exact hshown
    · rw [rd_raise _ _ _ _ _ hq2]; exact hlimit

/-! The reads that lead to a target, and what the unit does there. -/

/-- The state in which the reads that lead to a row's target are made, with POISON where one is marked (R232, R302). -/
def rowRead (s : State) (p : Fin 16) (o : Op) (row : Nat) : State :=
  let reads := s.targetReads o.desc row
  let read := reads.foldl (fun u y => u.readRange (s.kvVia p) y.1 y.2) s
  if reads.any (fun y => s.poisoned y.1 y.2) then read.opFlag o.id 1 else read

/-- The state in which a page-table entry is read, with POISON where it or the piece is marked (R230, R302). -/
def pageRead (s : State) (v : Via) (e : Nat) (o : Op) (a : App) : State :=
  let u := s.readRange v e 8
  let u := if u.poisoned e 8 then u.opFlag o.id 1 else u
  if a.poison then u.opFlag o.id 1 else u

theorem rowRead_pools (s : State) (p : Fin 16) (o : Op) (row : Nat) : (s.rowRead p o row).pools = s.pools := by
  have hfold := foldl_keeps State.pools (fun (u : State) (y : Nat × Nat) => u.readRange (s.kvVia p) y.1 y.2)
    (fun u y => pools_of_noMem (readRange_noMem ..)) (s.targetReads o.desc row) s
  exact ite_keeps State.pools _ ((opFlag_pools ..).trans hfold) hfold

theorem rowRead_mem (s : State) (p : Fin 16) (o : Op) (row : Nat) : (s.rowRead p o row).mem = s.mem := by
  have hfold := foldl_keeps State.mem (fun (u : State) (y : Nat × Nat) => u.readRange (s.kvVia p) y.1 y.2)
    (fun u y => readRange_mem u (v := s.kvVia p) _ _ (show (0 : Nat) ≠ 3 by decide)) (s.targetReads o.desc row) s
  exact ite_keeps State.mem _ ((opFlag_mem ..).trans hfold) hfold

theorem pageRead_pools (s : State) (v : Via) (e : Nat) (o : Op) (a : App) : (s.pageRead v e o a).pools = s.pools := by
  have hread := pools_of_noMem (readRange_noMem s v e 8)
  have hmark := ite_keeps State.pools ((s.readRange v e 8).poisoned e 8 = true) ((opFlag_pools ..).trans hread :
    ((s.readRange v e 8).opFlag o.id 1).pools = s.pools) hread
  exact ite_keeps State.pools _ ((opFlag_pools ..).trans hmark) hmark

theorem pageRead_mem (s : State) {v : Via} (hv : v.hint ≠ 3) (e : Nat) (o : Op) (a : App) : (s.pageRead v e o a).mem = s.mem := by
  have hread := readRange_mem s e 8 hv
  have hmark := ite_keeps State.mem ((s.readRange v e 8).poisoned e 8 = true) ((opFlag_mem ..).trans hread :
    ((s.readRange v e 8).opFlag o.id 1).mem = s.mem) hread
  exact ite_keeps State.mem _ ((opFlag_mem ..).trans hmark) hmark

section
variable {s : State} {p : Fin 16} {a : App} {o : Op}

/-- What the unit does with a piece of a target, once the page-table entry pte is read (R233, R236). -/
def placeApp (u : State) (v : Via) (p : Fin 16) (o : Op) (a : App) (t : Target) (e pte : Nat) : State :=
  let f := bits pte 23 0
  let free := u.rd Reg.MEM_KV_STATUS_FREE p
  let wait (c : State) : State :=
    if (c.starve p o).rd Reg.MEM_KV_CTRL_STALL_LIMIT p = 0 then (c.starve p o).dropRow p a t.sidx else c.starve p o
  let c := u.readRange v (u.countAddr p f) 2
  if u.pools[p].dropped.any (fun x => x.1 == a.op && x.2.1 == t.sidx && decide (x.2.2 ≤ a.row)) then u.popApp p a false
  else if !bit pte 24 then
    if free = 0 then wait u
    else
      let g := (u.takeFrame p).2
      ((((u.takeFrame p).1.setCount p g 1).setEntry v e t.recA g).writeToken p o a t g).inc Reg.MEM_KV_ALLOC_COUNT p 1
  else if u.rd Reg.MEM_KV_CFG_NFRAMES p ≤ f then (u.discardRow p o).popApp p a false
  else if 1 < u.countOf p f then
    if free = 0 then wait c
    else
      let g := (c.takeFrame p).2
      let w := (((c.takeFrame p).1.copyFrame p o f g).setCount p g 1).setEntry v e t.recA g
      let n := w.countOf p f - 1
      let w := w.setCount p f n
      let w := if n = 0 then w.setLimbo p (w.pools[p].limbo ++ [f]) else w
      (w.writeToken p o a t g).inc Reg.MEM_KV_COW_COUNT p 1
  else c.writeToken p o a t f

/-- The unit's next piece of a row without a target is discarded. -/
theorem append_noTarget (hnext : s.nextApp p = some a) (hop : s.opOf a.op = some o)
    (ht : (s.rowRead p o a.row).targetOf o.desc a.row = none) :
    s.append p = ((s.rowRead p o a.row).discardRow p o).popApp p a false := by
  unfold rowRead at ht ⊢
  dsimp only at ht ⊢
  simp only [append, hnext, hop]
  split
  · rfl
  · next t hsome => cases hsome.symm.trans ht

/-- The unit's next piece of a row with a target is placed as the page-table entry says. -/
theorem append_target (hnext : s.nextApp p = some a) (hop : s.opOf a.op = some o) {t : Target}
    (ht : (s.rowRead p o a.row).targetOf o.desc a.row = some t) :
    s.append p = ((s.rowRead p o a.row).pageRead (s.kvVia p) (pteAddr o.desc t a.head) o a).placeApp (s.kvVia p) p o a t
      (pteAddr o.desc t a.head) ((s.rowRead p o a.row).peek (pteAddr o.desc t a.head) 8) := by
  unfold rowRead at ht ⊢
  dsimp only at ht ⊢
  simp only [append, hnext, hop]
  split
  · next hnone => cases hnone.symm.trans ht
  · next t' hsome =>
    obtain rfl := Option.some.inj (hsome.symm.trans ht)
    rfl

end

/-! What the unit finds in two states that differ in registers it does not read. -/

/-- An entry leaves the queue, where col gives the first column of C that a piece comes from. -/
def popAt (s : State) (col : Nat → App → Nat) (p : Fin 16) (a : App) (written : Bool) : State :=
  (((s.modPool p fun x => { x with queue := x.queue.erase a, stalled := false }).modOp a.op fun o =>
    match o.work with
    | .tiles k => { o with work := .tiles (k - 1) }
    | _ => o).modOp a.op fun o => { o with prog := o.prog ++ [(a.row, col o.desc a, a.vals.length, written)] }).leaveHold p a.op

theorem popApp_eq (s : State) (p : Fin 16) (a : App) (written : Bool) : s.popApp p a written = s.popAt s.appCol p a written := rfl

theorem dropRow_pools (s : State) (p : Fin 16) (a : App) (sidx : Nat) : (s.dropRow p a sidx).pools = s.pools.set p
    { s.pools[p] with
      queue := s.pools[p].queue.erase a, stalled := false, dropped := s.pools[p].dropped ++ [(a.op, sidx, a.row)] } := by
  obtain ⟨u, hu⟩ : ∃ u : State, u = s.modPool p fun x => { x with dropped := x.dropped ++ [(a.op, sidx, a.row)] } := ⟨_, rfl⟩
  have hpools : u.pools = s.pools.set p { s.pools[p] with dropped := s.pools[p].dropped ++ [(a.op, sidx, a.row)] } := by rw [hu]; rfl
  have hpop : (u.popApp p a false).pools = u.pools.set p { u.pools[p] with queue := u.pools[p].queue.erase a, stalled := false } := rfl
  rw [dropRow, ← hu, hpop, hpools, Vector.set_set]
  congr 1
  rw [show (s.pools.set p { s.pools[p] with dropped := s.pools[p].dropped ++ [(a.op, sidx, a.row)] })[p] = _ from
    Vector.getElem_set_self ..]

/-- Whether a state differs from another in pools, macro-ops and Anvils only. -/
def AppOnly (s t : State) : Prop := ∃ x y z, t = { s with pools := x, ops := y, anv := z }

theorem AppOnly.modPool (s : State) (p : Fin 16) (f : Pool → Pool) : AppOnly s (s.modPool p f) := ⟨_, _, _, rfl⟩
theorem AppOnly.modOp (s : State) (id : Nat) (f : Op → Op) : AppOnly s (s.modOp id f) := ⟨_, _, _, rfl⟩

theorem AppOnly.trans {s t u : State} (h : AppOnly s t) (g : AppOnly t u) : AppOnly s u := by
  obtain ⟨_, _, _, rfl⟩ := h
  obtain ⟨_, _, _, rfl⟩ := g
  exact ⟨_, _, _, rfl⟩

theorem AppOnly.eq {s t : State} (h : AppOnly s t) : t = { s with pools := t.pools, ops := t.ops, anv := t.anv } := by
  obtain ⟨_, _, _, rfl⟩ := h
  rfl

/-- Beside pools, macro-ops and Anvils the discard of a row leaves everything. -/
theorem dropRow_eq (s : State) (p : Fin 16) (a : App) (sidx : Nat) : s.dropRow p a sidx =
    { s with pools := (s.dropRow p a sidx).pools, ops := (s.dropRow p a sidx).ops, anv := (s.dropRow p a sidx).anv } := by
  have hdropped : AppOnly s (s.modPool p fun x => { x with dropped := x.dropped ++ [(a.op, sidx, a.row)] }) := ⟨_, _, _, rfl⟩
  have hpopped (u : State) (written : Bool) : AppOnly u (u.popApp p a written) :=
    ((AppOnly.modPool u p _).trans (AppOnly.modOp _ a.op _)).trans ((AppOnly.modOp _ a.op _).trans ⟨_, _, _, rfl⟩)
  exact (hdropped.trans (hpopped _ false)).eq

/-- Whether two states differ in registers only, and agree in what memory holds and in the dimensions of the pools. -/
structure SameView (s t : State) : Prop where
  ctl_only : t = { s with ctl := t.ctl }
  peek : ∀ a n, t.peek a n = s.peek a n
  poolD : ∀ n, t.poolD n = s.poolD n

namespace SameView
variable {s t : State} {p : Fin 16}

theorem ops (h : SameView s t) : t.ops = s.ops := by rw [h.ctl_only]
theorem pools (h : SameView s t) : t.pools = s.pools := by rw [h.ctl_only]
theorem anv (h : SameView s t) : t.anv = s.anv := by rw [h.ctl_only]

theorem modPool (h : SameView s t) (f : Pool → Pool) : SameView (s.modPool p f) (t.modPool p f) := by
  obtain ⟨c, rfl⟩ : ∃ c, t = { s with ctl := c } := ⟨_, h.ctl_only⟩
  exact ⟨rfl, fun a n => (h.peek a n :), fun n => (h.poolD n :)⟩

theorem modOp (h : SameView s t) (id : Nat) (f : Op → Op) : SameView (s.modOp id f) (t.modOp id f) := by
  obtain ⟨c, rfl⟩ : ∃ c, t = { s with ctl := c } := ⟨_, h.ctl_only⟩
  exact ⟨rfl, fun a n => (h.peek a n :), fun n => (h.poolD n :)⟩

theorem targetOf (h : SameView s t) : t.targetOf = s.targetOf := by
  funext d row
  simp only [State.targetOf, h.peek]

theorem appCol (h : SameView s t) : t.appCol = s.appCol := by
  funext d a
  simp only [State.appCol, h.poolD]

theorem lowerRows (h : SameView s t) (o : Op) (a : App) : t.lowerRows o a = s.lowerRows o a := by
  unfold State.lowerRows
  rw [h.targetOf]

theorem appWaits (h : SameView s t) (a : App) : t.appWaits p a = s.appWaits p a := by
  have hdone (o : Op) (i : Nat) : t.doneCols o a i = s.doneCols o a i := by simp only [State.doneCols, h.appCol]
  have hwait (o : Op) (i : Nat) : t.waitCols p o a i = s.waitCols p o a i := by simp only [State.waitCols, h.appCol, h.pools]
  have hop : t.opOf a.op = s.opOf a.op := by rw [State.opOf, State.opOf, h.ops]
  unfold State.appWaits
  rw [hop]
  cases s.opOf a.op with
  | none => rfl
  | some o => simp only [h.lowerRows, hdone, hwait]

theorem leaveHold (h : SameView s t) (op : Nat) : t.leaveHold p op = { s.leaveHold p op with ctl := t.ctl } := by
  have hwaits (a : App) : t.appWaits p a = s.appWaits p a := h.appWaits a
  simp only [State.leaveHold, hwaits]
  obtain ⟨c, rfl⟩ : ∃ c, t = { s with ctl := c } := ⟨_, h.ctl_only⟩
  rfl

theorem popAt (h : SameView s t) (col : Nat → App → Nat) (a : App) (written : Bool) :
    t.popAt col p a written = { s.popAt col p a written with ctl := t.ctl } :=
  (((h.modPool _).modOp a.op _).modOp a.op _).leaveHold a.op

theorem popApp (h : SameView s t) (a : App) (written : Bool) : t.popApp p a written = { s.popApp p a written with ctl := t.ctl } := by
  rw [popApp_eq, popApp_eq, h.appCol, h.popAt]

/-- A row is discarded alike in both. -/
theorem dropRow (h : SameView s t) (a : App) (sidx : Nat) : t.dropRow p a sidx = { s.dropRow p a sidx with ctl := t.ctl } :=
  (h.modPool _).popApp a false

end SameView

/-- What memory holds, the reserved region included, follows from its bytes, the tier map, the partitions and the tails of
the rings. -/
theorem peek_congr {s t : State} (hmem : t.mem = s.mem) (hms : t.ms = s.ms)
    (hpart : ∀ d : Fin 2, t.word (0x070000 + 4 * d.val) = s.word (0x070000 + 4 * d.val))
    (htail : ∀ r < 48, t.rd Reg.STR_RING_TAIL_COUNT r = s.rd Reg.STR_RING_TAIL_COUNT r) (a n : Nat) : t.peek a n = s.peek a n := by
  have hent (p : Nat) : t.ent p = s.ent p := ent_of_ms hms p
  have hrev (tier : Nat) (d : Fin 2) (f : Nat) : t.revEntry tier d f = s.revEntry tier d f := by
    have hindex : t.mapIndex d f = s.mapIndex d f := by unfold mapIndex; rw [hms]
    have huser : t.frameUser tier d f = s.frameUser tier d f := by unfold frameUser; rw [hms]
    have hout : t.unavailable tier d f = s.unavailable tier d f := by
      have hfirst : t.partFirst d = s.partFirst d := by unfold partFirst partNeed firstOf retiredOf; rw [hms, hpart]
      unfold unavailable
      rw [hms, hfirst]
      simp only [hent]
    unfold revEntry
    rw [hms, hindex, huser, hout]
  have hres (o : Nat) : t.resByte o = s.resByte o := by
    unfold resByte
    simp only [hent, revWord, hrev]
    refine ite_congr rfl (fun _ => rfl) fun _ => ite_congr rfl (fun _ => rfl) fun _ => ite_congr rfl (fun h => ?_) fun _ => rfl
    rw [htail _ h.2.1]
  have hbyte : t.byte = s.byte := by
    funext b
    simp only [byte, hmem, hres]
  rw [peek, peek, bytesAt, bytesAt, hbyte]

/-- The cycles of a wait change nothing that the unit reads. -/
theorem sameView_stall (s : State) (p : Fin 16) (n : Nat) : SameView s (s.inc Reg.MEM_KV_STALL_CYC_COUNT p n) := by
  have hctl := eq_of_noCtl (inc_noCtl s Reg.MEM_KV_STALL_CYC_COUNT p n)
  obtain ⟨t, ht⟩ : ∃ t : State, t = s.inc Reg.MEM_KV_STALL_CYC_COUNT p n := ⟨_, rfl⟩
  have hcode (k : Nat) : t.rd Reg.MEM_KV_CFG_DCODE k = s.rd Reg.MEM_KV_CFG_DCODE k := by
    rw [ht]
    refine rd_congr fun b h1 h2 => word_wr_ne _ _ fun j hj => ?_
    simp only [fieldAddr, fieldWords, Reg.MEM_KV_CFG_DCODE, Reg.MEM_KV_STALL_CYC_COUNT] at h1 h2 hj ⊢
    omega
  have hword (r : Nat) (hr : r < 48) : t.rd Reg.STR_RING_TAIL_COUNT r = s.rd Reg.STR_RING_TAIL_COUNT r := by
    rw [ht]
    refine rd_congr fun b h1 h2 => word_wr_ne _ _ fun j hj => ?_
    simp only [fieldAddr, fieldWords, Reg.STR_RING_TAIL_COUNT, Reg.MEM_KV_STALL_CYC_COUNT] at h1 h2 hj ⊢
    omega
  have hpart (d : Fin 2) : t.word (0x070000 + 4 * d.val) = s.word (0x070000 + 4 * d.val) := by
    rw [ht]
    refine word_wr_ne _ _ fun j hj => ?_
    simp only [fieldAddr, Reg.MEM_KV_STALL_CYC_COUNT]
    omega
  rw [← ht] at hctl ⊢
  have hmem : t.mem = s.mem := by rw [hctl]
  have hms : t.ms = s.ms := by rw [hctl]
  exact ⟨hctl, fun a k => peek_congr hmem hms hpart hword a k, fun k => by rw [poolD, poolD, hcode]⟩

end State

section
variable {s : State} {p : Fin 16} {a : App} {o : Op} {cycles : Nat}

theorem exec_kvAppend (hup : s.memUp = true) (hrun : s.pools[p].stalled = false) :
    exec (.kvAppend p) s = .next ((s.append p).done s.pending) := by
  show act s (if !s.memUp || s.pools[p].stalled then s else s.append p) = _
  rw [hup, hrun, if_neg (by decide), act_next]

theorem exec_kvAppendResume (hup : s.memUp = true) (hwaits : s.pools[p].stalled = true)
    (hfree : s.rd Reg.MEM_KV_STATUS_FREE p ≠ 0) : exec (.kvAppendResume p cycles) s = .next
      ((((s.inc Reg.MEM_KV_STALL_CYC_COUNT p cycles).modPool p fun y => { y with stalled := false }).append p).done s.pending) := by
  show act s (if !s.memUp || !s.pools[p].stalled || s.rd Reg.MEM_KV_STATUS_FREE p = 0 then s else _) = _
  rw [hup, hwaits, decide_eq_false hfree, if_neg (by decide), act_next]

theorem exec_kvStallExpire (hup : s.memUp = true) (hnext : s.nextApp p = some a) (hwaits : s.pools[p].stalled = true)
    (hop : s.opOf a.op = some o) {t : State.Target} (ht : s.targetOf o.desc a.row = some t) :
    exec (.kvStallExpire p cycles) s = .next (((s.inc Reg.MEM_KV_STALL_CYC_COUNT p cycles).dropRow p a t.sidx).done s.pending) := by
  obtain ⟨u, hu⟩ : ∃ u : State, u = s.inc Reg.MEM_KV_STALL_CYC_COUNT p cycles := ⟨_, rfl⟩
  have hview : State.SameView s u := hu ▸ sameView_stall s p cycles
  have hopu : u.opOf a.op = some o := by rw [opOf, hview.ops]; exact hop
  have htu : (u.opOf a.op).bind (fun o => u.targetOf o.desc a.row) = some t := by
    rw [hopu, hview.targetOf]; exact ht
  show act s (s.kvExpire p cycles) = _
  unfold kvExpire
  rw [hnext]
  dsimp only
  rw [hup, hwaits, if_neg (by decide), ← hu, htu, act_next]

/-- The state in which STALL_LIMIT passed (R236). -/
theorem stallExpired (s : State) (p : Fin 16) (a : App) (sidx cycles : Nat) :
    let w := ((s.inc Reg.MEM_KV_STALL_CYC_COUNT p cycles).dropRow p a sidx).done s.pending
    w.rd Reg.MEM_KV_STALL_CYC_COUNT p = (s.rd Reg.MEM_KV_STALL_CYC_COUNT p + cycles) % 2 ^ 64 ∧
    RegsOnly { s with
      pools := s.pools.set p { s.pools[p] with
        queue := s.pools[p].queue.erase a, stalled := false, dropped := s.pools[p].dropped ++ [(a.op, sidx, a.row)] }
      ops := (s.dropRow p a sidx).ops, anv := (s.dropRow p a sidx).anv } w [0x079028 + 0x40 * p.val, 0x07902C + 0x40 * p.val] := by
  have hown : ∀ p : Fin 16, ownField Reg.MEM_KV_STALL_CYC_COUNT p = true := by decide
  obtain ⟨u, hu⟩ : ∃ u : State, u = s.inc Reg.MEM_KV_STALL_CYC_COUNT p cycles := ⟨_, rfl⟩
  have hview : State.SameView s u := hu ▸ sameView_stall s p cycles
  obtain ⟨d, hd⟩ : ∃ d : State, d = s.dropRow p a sidx := ⟨_, rfl⟩
  have hdrop : u.dropRow p a sidx = { d with ctl := u.ctl } := hd ▸ hview.dropRow a sidx
  obtain ⟨v, hv⟩ : ∃ v : State, v = { d with ctl := u.ctl } := ⟨_, rfl⟩
  have hctl : v.ctl = u.ctl := by rw [hv]
  dsimp only
  rw [← hu, hdrop, ← hv]
  constructor
  · rw [done_rd _ (hown p), rd_of_ctl hctl, hu]
    exact rd_wr_same _ _ _ _ (by decide)
  · rw [← dropRow_pools, ← hd]
    have heq : d = { s with pools := d.pools, ops := d.ops, anv := d.anv } := hd ▸ dropRow_eq s p a sidx
    refine done_regsOnly (s := { s with pools := d.pools, ops := d.ops, anv := d.anv }) ?_ fun b hb => ?_
    · rw [← heq, hv]; rfl
    · rw [word_of_ctl hctl, hu]
      refine word_wr_ne _ _ fun k hk => ?_
      simp only [fieldAddr, fieldWords, Reg.MEM_KV_STALL_CYC_COUNT, List.mem_cons, List.not_mem_nil, or_false] at hb hk ⊢
      omega

theorem exec_kvFreeReturn (hup : s.memUp = true) {f : FreeOp} {more : List FreeOp} (hfrees : s.pools[p].frees = f :: more)
    (hwalks : f.walks.any (s.poolWalks p).contains = false) : exec (.kvFreeReturn p) s = .next
      (((f.frames.foldl (fun s x => s.giveFrame p x) (s.modPool p fun x => { x with frees := more })).opDone f.op).done
        s.pending) := by
  show act s (s.freeReturn p) = _
  unfold freeReturn
  rw [hfrees]
  dsimp only
  rw [hup, hwalks, if_neg (by decide), act_next]

/-- The state in which a KV_FREE's frames are back in the free ring (R238). -/
theorem framesReturned (s : State) (p : Fin 16) (l : List Nat) (more : List FreeOp) (id : Nat) :
    let w := ((l.foldl (fun s x => s.giveFrame p x) (s.modPool p fun x => { x with frees := more })).opDone id).done s.pending
    w.pools = s.pools.set p { s.pools[p] with frees := more } ∧ w.ops = (s.opDone id).ops ∧
      w.rd Reg.MEM_KV_STATUS_FREE p = (s.rd Reg.MEM_KV_STATUS_FREE p + l.length) % 2 ^ 24 := by
  have hown : ∀ p : Fin 16, ownField Reg.MEM_KV_STATUS_FREE p = true := by decide
  obtain ⟨u, hu⟩ : ∃ u : State, u = s.modPool p fun x => { x with frees := more } := ⟨_, rfl⟩
  have hctl : u.ctl = s.ctl := by rw [hu]; rfl
  have hops : u.ops = s.ops := by rw [hu]; rfl
  have hpools : u.pools = s.pools.set p { s.pools[p] with frees := more } := by rw [hu]; rfl
  obtain ⟨g, hg⟩ : ∃ g : State, g = l.foldl (fun s x => s.giveFrame p x) u := ⟨_, rfl⟩
  have hgpools : g.pools = u.pools := hg ▸ foldl_keeps State.pools _ (fun s f => giveFrame_pools s p f) l u
  have hgops : g.ops = u.ops := hg ▸ foldl_keeps State.ops _ (fun s f => giveFrame_ops s p f) l u
  have hfree : g.rd Reg.MEM_KV_STATUS_FREE p = (u.rd Reg.MEM_KV_STATUS_FREE p + l.length) % 2 ^ 24 := hg ▸ giveFrames_free p l u
  obtain ⟨v, hv⟩ : ∃ v : State, v = g.opDone id := ⟨_, rfl⟩
  have hvctl : v.ctl = g.ctl := by rw [hv]; rfl
  have hvpools : v.pools = g.pools := by rw [hv]; rfl
  have hvops : v.ops = (s.opDone id).ops := by rw [hv, opDone, opDone, modOp, modOp, hgops, hops]
  dsimp only
  rw [← hu, ← hg, ← hv]
  refine ⟨?_, ?_, ?_⟩
  · rw [done_pools, hvpools, hgpools, hpools]
  · rw [done_ops, hvops]
  · rw [done_rd _ (hown p), rd_of_ctl hvctl, hfree, rd_of_ctl hctl]

/-- The state in which the unit waits for a frame (R236). -/
theorem starved_waits (u : State) (p : Fin 16) (o : Op) (q : List Instr) : ((u.starve p o).done q).pools[p].stalled = true ∧
    ((u.starve p o).done q).pools[p].queue = u.pools[p].queue ∧ ((u.starve p o).done q).mem = u.mem ∧
    ((u.starve p o).done q).rdB Reg.MEM_KV_STATUS_EXHAUSTED p = true := by
  have hown : ∀ p : Fin 16, ownField Reg.MEM_KV_STATUS_EXHAUSTED p = true := by decide
  obtain ⟨w, hstarve, hmem, hqueue, hshown, -⟩ := starve_shape u p o
  rw [hstarve, done_pools, modPool_pool, done_mem, done_rdB _ (hown p)]
  refine ⟨rfl, hqueue, hmem, ?_⟩
  rw [rdB, rd_of_ctl (show (w.modPool p fun x => { x with stalled := true }).ctl = w.ctl from rfl)]
  exact hshown

/-- What the unit does with a piece of a target, by what the page-table entry, the count and the free ring show (R233, R236). -/
theorem placeApp_cases (u : State) (v : Via) (p : Fin 16) (o : Op) (a : App) (t : State.Target) (e pte : Nat) :
    let f := bits pte 23 0
    let c := u.readRange v (u.countAddr p f) 2
    let free := u.rd Reg.MEM_KV_STATUS_FREE p
    let n := u.rd Reg.MEM_KV_CFG_NFRAMES p
    let placed := u.placeApp v p o a t e pte
    let dropped := u.pools[p].dropped.any fun y => y.1 == a.op && y.2.1 == t.sidx && decide (y.2.2 ≤ a.row)
    (dropped = true → placed = u.popApp p a false) ∧
    (dropped = false → bit pte 24 = true → n ≤ f → placed = (u.discardRow p o).popApp p a false) ∧
    (dropped = false → bit pte 24 = true → f < n → u.countOf p f ≤ 1 → placed = c.writeToken p o a t f) ∧
    (dropped = false → bit pte 24 = false → free ≠ 0 →
      let g := (u.takeFrame p).2
      placed = ((((u.takeFrame p).1.setCount p g 1).setEntry v e t.recA g).writeToken p o a t g).inc Reg.MEM_KV_ALLOC_COUNT p 1) ∧
    (dropped = false → bit pte 24 = true → f < n → 1 < u.countOf p f → free ≠ 0 →
      let g := (c.takeFrame p).2
      let w := (((c.takeFrame p).1.copyFrame p o f g).setCount p g 1).setEntry v e t.recA g
      let n := w.countOf p f - 1
      let w := w.setCount p f n
      let w := if n = 0 then w.setLimbo p (w.pools[p].limbo ++ [f]) else w
      placed = (w.writeToken p o a t g).inc Reg.MEM_KV_COW_COUNT p 1) ∧
    (dropped = false → bit pte 24 = false → free = 0 → placed =
      if (u.starve p o).rd Reg.MEM_KV_CTRL_STALL_LIMIT p = 0 then (u.starve p o).dropRow p a t.sidx else u.starve p o) ∧
    (dropped = false → bit pte 24 = true → f < n → 1 < u.countOf p f → free = 0 → placed =
      if (c.starve p o).rd Reg.MEM_KV_CTRL_STALL_LIMIT p = 0 then (c.starve p o).dropRow p a t.sidx else c.starve p o) := by
  unfold placeApp
  dsimp only
  refine ⟨fun hd => if_pos hd, fun hd hb hn => ?_, fun hd hb hn hc => ?_, fun hd hb hf => ?_, fun hd hb hn hc hf => ?_,
    fun hd hb hf => ?_, fun hd hb hn hc hf => ?_⟩
  · rw [hd, hb, if_neg (by decide), if_neg (by decide), if_pos hn]
  · rw [hd, hb, if_neg (by decide), if_neg (by decide), if_neg (by omega), if_neg (by omega)]
  · rw [hd, hb, if_neg (by decide), if_pos (by decide), if_neg hf]
  · rw [hd, hb, if_neg (by decide), if_neg (by decide), if_neg (by omega), if_pos hc, if_neg hf]
  · rw [hd, hb, if_neg (by decide), if_pos (by decide), if_pos hf]
  · rw [hd, hb, if_neg (by decide), if_neg (by decide), if_neg (by omega), if_pos hc, if_pos hf]

/-- The limit of a wait shows through the wait's beginning. -/
theorem rd_starve (u : State) (p : Fin 16) (o : Op) :
    (u.starve p o).rd Reg.MEM_KV_CTRL_STALL_LIMIT p = u.rd Reg.MEM_KV_CTRL_STALL_LIMIT p := by
  obtain ⟨w, hstarve, -, -, -, hlimit⟩ := starve_shape u p o
  rw [hstarve, rd_of_ctl (show (w.modPool p fun x => { x with stalled := true }).ctl = w.ctl from rfl), hlimit]

theorem rd_readRange_limit (u : State) (v : Via) (b n : Nat) (p : Fin 16) :
    (u.readRange v b n).rd Reg.MEM_KV_CTRL_STALL_LIMIT p = u.rd Reg.MEM_KV_CTRL_STALL_LIMIT p := by
  have hfield : ∀ p : Fin 16, poolField Reg.MEM_KV_CTRL_STALL_LIMIT p = true := by decide
  exact rd_of_poolField (hfield p) fun b hb => readRange_poolWord u v _ _ hb

/-- What the unit does with its next piece, by what the reads that lead to its target find. -/
theorem appendPiece (hup : s.memUp = true) (hnext : s.nextApp p = some a) (hop : s.opOf a.op = some o)
    (hrun : s.pools[p].stalled = false) {t : State.Target} (ht : (s.rowRead p o a.row).targetOf o.desc a.row = some t) :
    let v := s.kvVia p
    let e := State.pteAddr o.desc t a.head
    let pte := (s.rowRead p o a.row).peek e 8
    let f := bits pte 23 0
    let u := (s.rowRead p o a.row).pageRead v e o a
    let c := u.readRange v (u.countAddr p f) 2
    let free := u.rd Reg.MEM_KV_STATUS_FREE p
    let dropped := s.pools[p].dropped.any fun y => y.1 == a.op && y.2.1 == t.sidx && decide (y.2.2 ≤ a.row)
    (dropped = true → exec (.kvAppend p) s = .next ((u.popApp p a false).done s.pending)) ∧
    (dropped = false → bit pte 24 = true → u.rd Reg.MEM_KV_CFG_NFRAMES p ≤ f →
      exec (.kvAppend p) s = .next (((u.discardRow p o).popApp p a false).done s.pending)) ∧
    (dropped = false → bit pte 24 = true → f < u.rd Reg.MEM_KV_CFG_NFRAMES p → u.countOf p f ≤ 1 →
      exec (.kvAppend p) s = .next ((c.writeToken p o a t f).done s.pending)) ∧
    (dropped = false → bit pte 24 = false → free ≠ 0 →
      let g := (u.takeFrame p).2
      let w := ((u.takeFrame p).1.setCount p g 1).setEntry v e t.recA g
      exec (.kvAppend p) s = .next (((w.writeToken p o a t g).inc Reg.MEM_KV_ALLOC_COUNT p 1).done s.pending)) ∧
    (dropped = false → bit pte 24 = true → f < u.rd Reg.MEM_KV_CFG_NFRAMES p → 1 < u.countOf p f → free ≠ 0 →
      let g := (c.takeFrame p).2
      let w := (((c.takeFrame p).1.copyFrame p o f g).setCount p g 1).setEntry v e t.recA g
      let n := w.countOf p f - 1
      let w := w.setCount p f n
      let w := if n = 0 then w.setLimbo p (w.pools[p].limbo ++ [f]) else w
      exec (.kvAppend p) s = .next (((w.writeToken p o a t g).inc Reg.MEM_KV_COW_COUNT p 1).done s.pending)) ∧
    (dropped = false → bit pte 24 = false → free = 0 →
      u.rd Reg.MEM_KV_CTRL_STALL_LIMIT p = 0 → exec (.kvAppend p) s = .next
        (((u.starve p o).dropRow p a t.sidx).done s.pending)) ∧
    (dropped = false → bit pte 24 = true → f < u.rd Reg.MEM_KV_CFG_NFRAMES p → 1 < u.countOf p f → free = 0 →
      u.rd Reg.MEM_KV_CTRL_STALL_LIMIT p = 0 → exec (.kvAppend p) s = .next
        (((c.starve p o).dropRow p a t.sidx).done s.pending)) ∧
    (dropped = false → bit pte 24 = false ∨ f < u.rd Reg.MEM_KV_CFG_NFRAMES p ∧ 1 < u.countOf p f → free = 0 →
      u.rd Reg.MEM_KV_CTRL_STALL_LIMIT p ≠ 0 →
      ∃ w, exec (.kvAppend p) s = .next w ∧ w.pools[p].stalled = true ∧ w.pools[p].queue = s.pools[p].queue ∧ w.mem = s.mem ∧
        w.rdB Reg.MEM_KV_STATUS_EXHAUSTED p = true) := by
  obtain ⟨r, hr⟩ : ∃ r : State, r = s.rowRead p o a.row := ⟨_, rfl⟩
  have happend := (exec_kvAppend hup hrun).trans (congrArg (fun x : State => Host.Outcome.next (x.done s.pending))
    (append_target hnext hop ht))
  have hrpools : r.pools = s.pools := hr ▸ rowRead_pools s p o a.row
  have hrmem : r.mem = s.mem := hr ▸ rowRead_mem s p o a.row
  have hhint : (s.kvVia p).hint ≠ 3 := by show (0 : Nat) ≠ 3; decide
  rw [← hr] at ht happend ⊢
  obtain ⟨v, hv⟩ : ∃ v, v = s.kvVia p := ⟨_, rfl⟩
  rw [← hv] at happend hhint ⊢
  obtain ⟨u, hu⟩ : ∃ u : State, u = r.pageRead v (State.pteAddr o.desc t a.head) o a := ⟨_, rfl⟩
  have hupools : u.pools = s.pools := (hu ▸ pageRead_pools ..).trans hrpools
  have humem : u.mem = s.mem := (hu ▸ pageRead_mem r hhint ..).trans hrmem
  dsimp only
  rw [← hu] at happend ⊢
  have hcases := placeApp_cases u v p o a t (State.pteAddr o.desc t a.head) (r.peek (State.pteAddr o.desc t a.head) 8)
  dsimp only at hcases
  rw [hupools] at hcases
  obtain ⟨hdropped, hbad, hown, hfresh, hcopied, hwait, hwaitCopy⟩ := hcases
  have hleads {x : State} (h : u.placeApp v p o a t (State.pteAddr o.desc t a.head) (r.peek (State.pteAddr o.desc t a.head) 8) = x) :
      exec (.kvAppend p) s = .next (x.done s.pending) := by rw [happend, h]
  have hlimit (b : Nat) : ((u.readRange v b 2).starve p o).rd Reg.MEM_KV_CTRL_STALL_LIMIT p = u.rd Reg.MEM_KV_CTRL_STALL_LIMIT p :=
    (rd_starve ..).trans (rd_readRange_limit ..)
  refine ⟨fun hd => hleads (hdropped hd), fun hd hb hn => hleads (hbad hd hb hn), fun hd hb hn hc => hleads (hown hd hb hn hc),
    fun hd hb hf => hleads (hfresh hd hb hf), fun hd hb hn hc hf => hleads (hcopied hd hb hn hc hf),
    fun hd hb hf hl => hleads ((hwait hd hb hf).trans (if_pos ((rd_starve ..).trans hl))),
    fun hd hb hn hc hf hl => hleads ((hwaitCopy hd hb hn hc hf).trans (if_pos ((hlimit _).trans hl))), fun hd hneeds hf hl => ?_⟩
  cases hb : bit (r.peek (State.pteAddr o.desc t a.head) 8) 24 with
  | false =>
    obtain ⟨hstalled, hqueue, hmem, hshown⟩ := starved_waits u p o s.pending
    exact ⟨_, hleads ((hwait hd hb hf).trans (if_neg fun h => hl ((rd_starve ..).symm.trans h))), hstalled,
      hqueue.trans (by rw [hupools]), hmem.trans humem, hshown⟩
  | true =>
    obtain ⟨hn, hc⟩ := hneeds.resolve_left (by rw [hb]; decide)
    have hcpools (b : Nat) : (u.readRange v b 2).pools = s.pools := (pools_of_noMem (readRange_noMem ..)).trans hupools
    have hcmem (b : Nat) : (u.readRange v b 2).mem = s.mem := (readRange_mem u b 2 hhint).trans humem
    obtain ⟨hstalled, hqueue, hmem, hshown⟩ := starved_waits (u.readRange v (u.countAddr p
      (bits (r.peek (State.pteAddr o.desc t a.head) 8) 23 0)) 2) p o s.pending
    exact ⟨_, hleads ((hwaitCopy hd hb hn hc hf).trans (if_neg fun h => hl ((hlimit _).symm.trans h))), hstalled,
      hqueue.trans (by rw [hcpools]), hmem.trans (hcmem _), hshown⟩

end

/-- Settles O49, by what the reads that lead the unit's next piece to its target find there. -/
theorem appendUnits : Obligations.AppendUnits := by
  unfold Obligations.AppendUnits
  intro s p a o cycles
  dsimp only
  intro hup
  refine ⟨fun hnext hop hrun => ⟨fun ht => ?_, fun t ht => appendPiece hup hnext hop hrun ht⟩,
    fun hwaits hfree => exec_kvAppendResume hup hwaits hfree, fun t hnext hwaits hop ht => ?_, fun f more hfrees hwalks => ?_⟩
  · exact (exec_kvAppend hup hrun).trans (congrArg (fun x : State => Host.Outcome.next (x.done s.pending))
      (append_noTarget hnext hop ht))
  · obtain ⟨hcount, honly⟩ := stallExpired s p a t.sidx cycles
    exact ⟨_, exec_kvStallExpire hup hnext hwaits hop ht, hcount, honly⟩
  · exact ⟨_, exec_kvFreeReturn hup hfrees hwalks, framesReturned s p f.frames more f.op⟩

end Sys2Proof.Machine
end


section
/-!
What the turns of the Sprigs and the sums of the norms keep of a state (R253, R262).
-/
namespace Sys2Proof.Machine.State

open Sys2Proof.Safety

/-- A value of the state that the work of the Sprigs keeps: nothing of memory, no macro-op and no Sprig changes it, nor an
UPDATE. -/
structure KeptByWork {γ : Type} (g : State → γ) : Prop where
  mem    : ∀ {s t : State}, t.noMem = s.noMem → g t = g s
  ops    : ∀ (s : State) (x : List Op), g { s with ops := x } = g s
  sprigs : ∀ (s : State) (x : Vector Sprig 24), g { s with sprigs := x } = g s
  upds   : ∀ (s : State) (x : List Upd), g { s with upds := x } = g s

theorem keptByWork_kal : KeptByWork State.kal := ⟨kal_of_noMem, fun _ _ => rfl, fun _ _ => rfl, fun _ _ => rfl⟩

section
variable {γ : Type} {g : State → γ} (hk : KeptByWork g)
include hk

theorem KeptByWork.modOp (s : State) (id : Nat) (f : Op → Op) : g (s.modOp id f) = g s := hk.ops s _
theorem KeptByWork.opFlag (s : State) (id n : Nat) : g (s.opFlag id n) = g s := hk.ops s _
theorem KeptByWork.modSprig (s : State) (n : SprigId) (f : Sprig → Sprig) : g (s.modSprig n f) = g s := hk.sprigs s _
theorem KeptByWork.inc (s : State) (f : Field) (i n : Nat) : g (s.inc f i n) = g s := hk.mem (inc_noMem ..)
theorem KeptByWork.store (s : State) (v : Via) (a : Nat) (bs : List Byte) : g (s.store v a bs) = g s := hk.mem (store_noMem ..)
theorem KeptByWork.readRange (s : State) (v : Via) (a n : Nat) : g (s.readRange v a n) = g s := hk.mem (readRange_noMem ..)

theorem KeptByWork.dispatchSlot (s : State) (o : Op) (p : Placed) : g (s.dispatchSlot o p) = g s := by
  unfold State.dispatchSlot
  extract_lets d x src entry routed slot marked gated dropped now counted row v read tagged spilled
  have hrouted : g routed = g s := hk.store ..
  have hmarked : g marked = g s :=
    ite_keeps g _ ((hk.opFlag ..).trans ((hk.mem (poisonRange_noMem ..)).trans hrouted)) hrouted
  have hgated : g gated = g s := ite_keeps g _ hmarked ((hk.store ..).trans hmarked)
  have hdropped : g dropped = g s := (hk.inc ..).trans hgated
  have hcounted : g counted = g s := (hk.inc ..).trans hdropped
  have hread : g read = g s := ite_keeps g _ ((hk.mem (readRegion_noMem ..)).trans hrouted) ((hk.mem (readCopy_noMem ..)).trans hrouted)
  have htagged : g tagged = g s := ite_keeps g _ ((hk.store ..).trans hread) hread
  have hspilled : g spilled = g s := ite_keeps g _ ((hk.inc ..).trans htagged) htagged
  have hlong (t : State) (c u : Nat) (sl : Option (Fin 8)) (a x : Nat) : g (t.raiseLong c u sl a x) = g t :=
    hk.mem (noMem_of_noEvent (raiseLong_noEvent ..))
  exact ite_keeps g _
    (ite_keeps g _ hdropped (ite_keeps g _ hcounted ((hlong ..).trans ((hk.modOp ..).trans hcounted))))
    (ite_keeps g _ ((hk.inc ..).trans hrouted) ((hk.inc ..).trans hspilled))

theorem KeptByWork.dispatchRows (s0 s : State) (o : Op) (ps : List Placed) (kind : Nat) : g (dispatchRows s0 s o ps kind) = g s := by
  unfold State.dispatchRows
  extract_lets dst rows cs v put told
  have hput : g put = g s := hk.mem (putConvs_noMem ..)
  have htold : g told = g s := (foldl_keeps g _ (fun t x => hk.mem (sageReport_noMem t _ _ _ _)) _ _).trans hput
  refine (foldl_keeps g _ (fun t p => ?_) _ _).trans htold
  exact ite_keeps g _ ((hk.opFlag ..).trans (hk.mem (poisonRegion_noMem ..))) rfl

theorem KeptByWork.dispatchRun (s : State) (o : Op) : g (s.dispatchRun o) = g s := by
  unfold State.dispatchRun
  extract_lets d finish t es marked wrong bad read flagged xs placing
  have hread : g read = g s := foldl_keeps g _ (fun t l => hk.mem (readLine_noMem t _ l)) _ _
  have hflagged : g flagged = g s := ite_keeps g _ ((hk.opFlag ..).trans hread) hread
  have hplacing : g placing = g s := (hk.readRange ..).trans hflagged
  refine ite_keeps g _ ((hk.modOp ..).trans ((hk.modOp ..).trans ((hk.opFlag ..).trans hflagged))) ?_
  split
  next c ps hps =>
  extract_lets slots rows hist peer
  have hslots : g slots = g s := (foldl_keeps g _ (fun t p => hk.dispatchSlot t o p) _ _).trans hplacing
  have hrows : g rows = g s := (foldl_keeps g _ (fun t k => hk.dispatchRows placing t o ps k) _ _).trans hslots
  have hhist : g hist = g s := (foldl_keeps g _ (fun t _ => hk.store t _ _ _) _ _).trans hrows
  exact (hk.modOp ..).trans ((foldl_keeps g _ (fun t _ => hk.store t _ _ _) _ _).trans hhist)

theorem KeptByWork.combineRun (s : State) (o : Op) : g (s.combineRun o) = g s := by
  unfold State.combineRun
  extract_lets d y old s0 free val rows was accBad v read gates gated full whole
  have hread : g read = g s := by
    refine (foldl_keeps g _ (fun t i => ?_) _ _).trans (hk.readRange ..)
    split
    · exact hk.mem (readRegion_noMem ..)
    · rfl
  have hgated : g gated = g s := (foldl_keeps g _ (fun t l => hk.mem (readLine_noMem t _ l)) _ _).trans hread
  have hwhole : g whole = g s := ite_keeps g _ ((hk.mem (readRegion_noMem ..)).trans hgated) hgated
  split
  next written a hwritten =>
  have hkept : g written = g s := by
    split at hwritten
    · obtain rfl : _ = written := congrArg Prod.fst hwritten
      exact (hk.mem (writeRegion_noMem ..)).trans hwhole
    · obtain rfl : whole = written := congrArg Prod.fst hwritten
      exact hwhole
  extract_lets marked ticked
  have hmarked : g marked = g s := ite_keeps g _ ((hk.mem (poisonBlocks_noMem ..)).trans ((hk.opFlag ..).trans hkept)) hkept
  have hticked : g ticked = g s := ite_keeps g _ ((hk.mem (tick_noMem _)).trans hmarked) hmarked
  exact (hk.modOp ..).trans ((hk.modOp ..).trans hticked)

theorem KeptByWork.sprigRun (s : State) (o : Op) : g (s.sprigRun o) = g s := by
  unfold State.sprigRun
  extract_lets d prog image bad ns read loaded start
  have hloaded : g loaded = g s := (foldl_keeps g _ (fun t n => hk.modSprig t n _) _ _).trans (hk.readRange ..)
  refine ite_keeps g _ ((hk.modOp ..).trans ((hk.opFlag ..).trans hloaded)) (ite_keeps g _ ((hk.modOp ..).trans hloaded) ?_)
  exact (foldl_keeps g _ (fun (t : State) (ni : SprigId × Nat) => hk.modSprig t ni.1 _) _ _).trans ((hk.modOp ..).trans hloaded)

theorem KeptByWork.sprigTurns (s : State) : g s.sprigTurns = g s := by
  unfold State.sprigTurns
  refine foldl_keeps g _ (fun t o => ?_) _ _
  exact ite_keeps g _ (ite_keeps g _ rfl (hk.sprigRun ..)) (ite_keeps g _ rfl
    (ite_keeps g _ (hk.dispatchRun ..) (ite_keeps g _ (hk.combineRun ..) (hk.sprigRun ..))))

theorem KeptByWork.noteReady (s : State) : g s.noteReady = g s := by rw [State.noteReady]; exact hk.sprigs s _

theorem KeptByWork.normAdd (s : State) : g s.normAdd = g s := by
  unfold State.normAdd
  extract_lets ready
  split
  · rfl
  next u hu =>
    extract_lets a bad n2 summed flagged
    have hsummed : g summed = g s := (hk.store ..).trans (hk.readRange ..)
    have hflagged : g flagged = g s := ite_keeps g _ ((hk.opFlag ..).trans hsummed) hsummed
    exact ite_keeps g _ ((hk.upds ..).trans hflagged) ((hk.upds ..).trans hflagged)

theorem KeptByWork.normAll (s : State) : g s.normAll = g s := foldl_keeps g _ (fun t _ => hk.normAdd t) _ _

end

end Sys2Proof.Machine.State
end


section
/-!
A write with authority leaves Kalec's requests as they were (R14 to R20, R374, R376): what every register's write keeps of Kalec.
-/
namespace Sys2Proof.Machine.State

open Sys2Proof.Safety

/-- What both branches of a write keep of Kalec, the choice keeps. -/
theorem kal_ite {s : State} (c : Prop) [Decidable c] {x y : State × KStat} (hx : x.1.kal = s.kal) (hy : y.1.kal = s.kal) :
    (if c then x else y).1.kal = s.kal := by split <;> assumption

/-! Plain writes, and writes of the HRT_, STR_, TEL_ and SEC_ blocks. -/

theorem plainWrite_kal (s : State) (a v : Nat) : (s.plainWrite a v).kal = s.kal := kal_of_noCtl (plainWrite_noCtl ..)

theorem rangeWrite_kal (s : State) (a v : Nat) (good : Bool) : (s.rangeWrite a v good).1.kal = s.kal := by
  rw [rangeWrite]
  split
  · exact plainWrite_kal ..
  · rfl

theorem heldWrite_kal (s : State) (a v : Nat) (held : Bool) (c i : Nat) (good : Bool) :
    (s.heldWrite a v held c i good).1.kal = s.kal := by
  rw [heldWrite]
  split
  · rfl
  · exact rangeWrite_kal ..

theorem hrtWrite_kal (s : State) (a v : Nat) : (s.hrtWrite a v).1.kal = s.kal := by
  have hpads (g : Nat) : (s.padWrite g).1.kal = s.kal := by
    show (if s.rd Reg.PWR_STATUS_STATE 0 = 3 then s else s.releasePads g).kal = s.kal
    exact ite_keeps State.kal _ rfl (wr_kal ..)
  have hdelay : (s.wakeDelayWrite v).1.kal = s.kal := by
    have hfields (n : Nat) (b : Bool) : ((s.wr Reg.HRT_WAKE_DELAY_DELAY 0 n).wrB Reg.HRT_WAKE_DELAY_ARM 0 b).kal = s.kal :=
      (wrB_kal ..).trans (wr_kal ..)
    unfold wakeDelayWrite
    exact kal_ite _ (kal_ite _ rfl ((wr_kal ..).trans (hfields ..)))
      (ite_keeps State.kal _ ((wr_kal ..).trans (hfields ..)) (hfields ..))
  have haux : (s.auxWrite v).1.kal = s.kal := by
    unfold auxWrite
    exact kal_ite _ rfl (kal_ite _ rfl (kal_ite _ rfl (kal_ite _ rfl (kal_ite _ rfl ((wr_kal ..).trans (wr_kal ..))))))
  unfold hrtWrite
  exact kal_ite _ (rangeWrite_kal ..) (kal_ite _ (hpads _) (kal_ite _ hdelay (kal_ite _ haux (plainWrite_kal ..))))

theorem ringConfig_kal (s : State) (r : RingId) (reg : Fin 3) (v : Nat) : (s.ringConfig r reg v).1.kal = s.kal := by
  unfold ringConfig
  refine kal_ite _ rfl (kal_ite _ rfl ((wr_kal ..).trans ((wr_kal ..).trans ((wr_kal ..).trans ?_))))
  split <;> exact wr_kal ..

theorem itabWrite_kal (s : State) (d : Fin 2) (v : Nat) : (s.itabWrite d v).1.kal = s.kal := by
  have hfields (n : Nat) (b : Bool) : ((s.wr Reg.STR_ITAB_CTRL_LEN d n).wrB Reg.STR_ITAB_CTRL_LEND d b).kal = s.kal :=
    (wrB_kal ..).trans (wr_kal ..)
  unfold itabWrite
  exact kal_ite _ rfl (kal_ite _ rfl (kal_ite _ (hfields _ _) (hfields (bits v 12 0) (bit v 13))))

theorem strWrite_kal (s : State) (a v : Nat) : (s.strWrite a v).1.kal = s.kal := by
  unfold strWrite
  dsimp only
  refine kal_ite _ (kal_ite _ ?_ rfl) (kal_ite _ ?_ (kal_ite _ ?_ (kal_ite _ ?_ ?_)))
  · exact ringConfig_kal ..
  · exact itabWrite_kal ..
  · exact itabWrite_kal ..
  · exact heldWrite_kal ..
  · exact plainWrite_kal ..

theorem telWrite_kal (s : State) (a v : Nat) : (s.telWrite a v).1.kal = s.kal := by
  have hsample : (s.sampleWrite v).1.kal = s.kal := by
    have hfields (n : Nat) (b : Bool) : ((s.wr Reg.TEL_SAMPLE_CTRL_PERIOD 0 n).wrB Reg.TEL_SAMPLE_CTRL_EN 0 b).kal = s.kal :=
      (wrB_kal ..).trans (wr_kal ..)
    unfold sampleWrite
    exact kal_ite _ rfl (kal_ite _ (kal_ite _ rfl (kal_ite _ rfl ((wr_kal ..).trans (hfields ..))))
      (ite_keeps State.kal _ ((wr_kal ..).trans (hfields ..)) (hfields ..)))
  unfold telWrite
  exact kal_ite _ hsample (kal_ite _ (heldWrite_kal ..) (plainWrite_kal ..))

theorem secCtrlWrite_kal (s : State) (v : Nat) : (s.secCtrlWrite v).1.kal = s.kal := by
  unfold secCtrlWrite
  split
  · split <;> rfl
  · exact ite_keeps State.kal _ (kal_of_noTap (closePort_noTap s)) rfl

/-! Writes of the NET_ block. -/

theorem linkDown_kal (s : State) (p : Fin 8) : (s.linkDown p).kal = s.kal := kal_of_noEvent (linkDown_noEvent ..)

theorem pumpAll_kal (s : State) : s.pumpAll.kal = s.kal := kal_of_noNet (pumpAll_noNet s)

theorem reidentify_kal (s : State) : s.reidentify.kal = s.kal := by
  unfold reidentify
  refine foldl_keeps State.kal _ (fun t c => ?_) _ _
  rfl

theorem extend_kal (s : State) (i : Nat) (d : List Byte) : (s.extend i d).kal = s.kal := kal_of_noCtl (extend_noCtl ..)

theorem fiArmed_kal (s : State) (p : Fin 8) : (s.fiArmed p).kal = s.kal := by
  simp only [fiArmed]
  rw [raise_kal, extend_kal, wrB_kal]

theorem netWrite_kal (s : State) (a v : Nat) : (s.netWrite a v).1.kal = s.kal := by
  have hport (p : Fin 8) : (s.portCfgWrite p v).1.kal = s.kal := by
    simp only [portCfgWrite]
    exact kal_ite _ rfl (kal_ite _ rfl ((ite_keeps State.kal _ rfl (linkDown_kal ..)).trans
      ((ite_keeps State.kal _ rfl (wrB_kal ..)).trans (plainWrite_kal ..))))
  have hfi (p : Fin 8) : (s.fiCtrlWrite p v).1.kal = s.kal := by
    simp only [fiCtrlWrite]
    exact kal_ite _ rfl (kal_ite _ rfl (kal_ite _ ((fiArmed_kal ..).trans (plainWrite_kal ..))
      ((wrB_kal ..).trans (plainWrite_kal ..))))
  have hdev : (s.devIdWrite v).1.kal = s.kal := by
    unfold devIdWrite
    split
    · rfl
    · exact (pumpAll_kal _).trans ((reidentify_kal _).trans (plainWrite_kal ..))
  unfold netWrite
  dsimp only
  refine kal_ite _ (kal_ite _ ?_ (kal_ite _ ?_ (kal_ite _ ?_ (kal_ite _ ?_ ?_)))) (kal_ite _ ?_ (kal_ite _ ?_ (kal_ite _ ?_
    (kal_ite _ ?_ rfl))))
  · exact hport _
  · exact hfi _
  · exact heldWrite_kal ..
  · exact heldWrite_kal ..
  · exact (pumpAll_kal _).trans (plainWrite_kal ..)
  · exact hdev
  · exact rangeWrite_kal ..
  · exact heldWrite_kal ..
  · exact plainWrite_kal ..

/-! Writes of the PWR_ and MEM_ blocks, and of UPD_CTRL. -/

theorem wakeUp_kal (s : State) {n : Nat} (hdoze : s.rd Reg.PWR_STATUS_STATE 0 = 2) : (s.wakeUp n).kal = s.kal := by
  have hnote : (s.noteWake n).kal = s.kal := by
    simp only [noteWake]
    rw [wr_kal, wr_kal]
  have hquench (t : State) (c : Nat) : (t.enterQuench c).kal = t.kal :=
    (congrArg State.kal (keptByPeriod_noPeriod.enterQuench t c) :)
  have hrun (t : State) (p : Power) (c : Nat) (bad : Bool) :
      (if bad then (t.wr Reg.PWR_STATUS_STATE 0 0).enterQuench c
        else ({ t with pw := p }.releasePads memPads).wr Reg.PWR_STATUS_STATE 0 0).kal = t.kal := by
    refine ite_keeps State.kal _ ((hquench ..).trans (wr_kal ..)) ?_
    rw [wr_kal, releasePads, wr_kal]
  obtain ⟨u, hu⟩ : ∃ u : State, u = s.noteWake n := ⟨_, rfl⟩
  simp only [wakeUp, hdoze, ← hu]
  refine ite_keeps State.kal _ rfl ?_
  rw [if_pos trivial, hrun, hu, hnote]

theorem stateReq_kal (s : State) (v : Nat) : (s.stateReq v).1.kal = s.kal := by
  have hbegin (t : State) (n : Nat) : (t.beginEntry n).kal = t.kal := by
    simp only [beginEntry]
    rw [wr_kal, wr_kal]
  have htiles (t : State) : t.leaveTiles.kal = t.kal :=
    foldl_keeps State.kal _ (fun t p => kal_of_noMove (moved_bring t p 1 true).rest) _ _
  unfold stateReq
  dsimp only
  split
  · rfl
  split
  · rfl
  split
  · by_cases hdoze : s.rd Reg.PWR_STATUS_STATE 0 = 2
    · rw [if_pos hdoze]; exact (wr_kal ..).trans (wakeUp_kal s hdoze)
    · rw [if_neg hdoze]; exact wr_kal ..
  split
  · rfl
  split
  · rfl
  split
  · exact ite_keeps State.kal _ rfl (hbegin ..)
  · exact (htiles _).trans (hbegin ..)

theorem setGroupOp_kal (s : State) (n : Nat) : (s.setGroupOp n).1.kal = s.kal := by
  have hoff : (s.wrB Reg.PWR_GROUP_EN 0 false).repointAll.kal = s.kal := (repointAll_kal _).trans (wrB_kal ..)
  have hon : ((s.wr Reg.PWR_GROUP_OP 0 n).wrB Reg.PWR_GROUP_EN 0 true).repointAll.kal = s.kal :=
    (repointAll_kal _).trans ((wrB_kal ..).trans (wr_kal ..))
  unfold setGroupOp
  exact kal_ite _ rfl (kal_ite _ rfl (kal_ite _ hoff hon))

theorem pwrWrite_kal (s : State) (a v : Nat) : (s.pwrWrite a v).1.kal = s.kal := by
  have hphase : (s.phaseWrite v).1.kal = s.kal := by
    unfold phaseWrite
    split
    · rfl
    · exact plainWrite_kal ..
  have hgroup : (s.groupWrite v).1.kal = s.kal := by
    unfold groupWrite
    split
    · exact setGroupOp_kal ..
    · obtain ⟨t, r, hpair⟩ : ∃ t r, s.setGroupOp 0xFF = (t, r) := ⟨_, _, rfl⟩
      have hoff : t.kal = s.kal := by
        have h := setGroupOp_kal s 0xFF
        rw [hpair] at h
        exact h
      rw [hpair]
      dsimp only
      exact (ite_keeps State.kal _ (wr_kal ..) rfl).trans hoff
  unfold pwrWrite
  exact kal_ite _ (setCap_kal ..) (kal_ite _ hphase (kal_ite _ hgroup (kal_ite _ (stateReq_kal ..) (plainWrite_kal ..))))

theorem allocCtrlWrite_kal (s : State) (v : Nat) : (s.allocCtrlWrite v).1.kal = s.kal := by
  have hctrl (n : Nat) (fl die : BitVec 2) : (s.setAllocCtrl n fl die).kal = s.kal := by
    simp only [setAllocCtrl]
    exact (ite_keeps State.kal _ rfl (wr_kal ..)).trans ((wr_kal ..).trans (wr_kal ..))
  have hstart (t : State) (n : Nat) (die : BitVec 2) : (t.startAlloc n die).kal = t.kal := by
    simp only [startAlloc]
    rw [wrB_kal]
  have hbegun (n : Nat) (fl die : BitVec 2) : ((s.setAllocCtrl n fl die).startAlloc n die).kal = s.kal :=
    (hstart ..).trans (hctrl ..)
  have halloc (fl die : BitVec 2) : (s.allocGo fl die).1.kal = s.kal := by
    unfold allocGo
    refine kal_ite _ rfl ?_
    split
    · rfl
    dsimp only
    split
    · exact wr_kal ..
    refine kal_ite _ rfl ((foldl_keeps State.kal _ (fun t p => ?_) _ _).trans (hbegun 0 fl die))
    exact kal_of_noMem (outside_allocPage (ok := fun _ => True) t trivial _ _).rest
  have hfree (fl die : BitVec 2) : (s.freeGo fl die).1.kal = s.kal := by
    unfold freeGo
    split
    · rfl
    dsimp only
    split
    · rfl
    · rfl
    refine (foldl_keeps State.kal _ (fun t p => ?_) _ _).trans (hbegun 1 fl die)
    exact ite_keeps State.kal _ (kal_of_noMem (outside_freePage (ok := fun _ => True) t trivial).rest) rfl
  have hflags (fl die : BitVec 2) : (s.setflagsGo fl die).1.kal = s.kal := by
    unfold setflagsGo
    split
    · rfl
    dsimp only
    split
    · rfl
    refine kal_ite _ rfl ((foldl_keeps State.kal _ (fun t p => ?_) _ _).trans (hbegun 2 fl die))
    exact ite_keeps State.kal _ (kal_of_noMem (setEnt_noMem ..)) rfl
  unfold allocCtrlWrite
  dsimp only
  exact kal_ite _ rfl (kal_ite _ (hctrl ..) (kal_ite _ (halloc ..) (kal_ite _ (hfree ..) (hflags ..))))

theorem crucibleOn_kal (s : State) (w : Nat) : (s.crucibleOn w).1.kal = s.kal := by
  unfold crucibleOn
  dsimp only
  refine kal_ite _ rfl (kal_ite _ rfl ?_)
  split
  · rfl
  refine kal_ite _ rfl ((foldl_keeps State.kal _ (fun t p => ?_) _ _).trans ((wrB_kal ..).trans (wrB_kal ..)))
  exact (kal_of_noMem ((placed_pinPage ..).outside (ok := fun _ => True)).rest).trans (kal_of_noMem (cleared_clearWindowPage ..).rest)

theorem crucibleOff_kal (s : State) (w : Nat) : (s.crucibleOff w).1.kal = s.kal := by
  have hunpin (l : List Nat) : (l.foldl (fun s p => if (s.ent p).cpin then s.setEnt p { s.ent p with cpin := false } else s) s).kal =
      s.kal := foldl_keeps State.kal _ (fun t p => ite_keeps State.kal _ (kal_of_noMem (setEnt_noMem ..)) rfl) _ _
  unfold crucibleOff
  dsimp only
  exact kal_ite _ rfl (kal_ite _ rfl ((wrB_kal ..).trans ((wrB_kal ..).trans (hunpin _))))

theorem poolWrite_kal (s : State) (p : Fin 16) (v : Nat) : (s.poolWrite p v).1.kal = s.kal := by
  have hlimit (n : Nat) : (s.wr Reg.MEM_KV_CTRL_STALL_LIMIT p n).kal = s.kal := wr_kal ..
  have hpool (t : State) (f : Pool → Pool) : (t.modPool p f).kal = t.kal := rfl
  have hstore (t : State) (x : Via) (a : Nat) (bs : List Byte) : (t.store x a bs).kal = t.kal := kal_of_noMem (store_noMem ..)
  have hupdate (t : State) (x : Via) (a : Nat) (bs : List Byte) : (t.update x a bs).kal = t.kal := kal_of_noMem (update_noMem ..)
  have hcounts (t : State) (l : List Nat) : (l.foldl (fun s f => s.setCount p f 0) t).kal = t.kal := by
    induction l generalizing t with
    | nil => rfl
    | cons f l ih => rw [List.foldl_cons, ih, setCount, hupdate]
  have hring (t : State) (l : List Nat) :
      (l.foldl (fun s f => s.store (s.kvVia p) (s.poolBase p + 4 * f) (toBytes 4 f)) t).kal = t.kal := by
    induction l generalizing t with
    | nil => rfl
    | cons f l ih => rw [List.foldl_cons, ih, hstore]
  have hshown (t : State) (n : Nat) : (((((t.wr Reg.MEM_KV_STATUS_FREE p n).wr Reg.MEM_KV_LIMBO_LIMBO p 0).wrB
      Reg.MEM_KV_CTRL_EN p true).wrB Reg.MEM_KV_STATUS_READY p true).raise 0x0404 p none 0).kal = t.kal := by
    rw [raise_kal, wrB_kal, wrB_kal, wr_kal, wr_kal]
  unfold poolWrite
  dsimp only
  refine kal_ite _ (hlimit _) (kal_ite _ ?_ (kal_ite _ rfl ?_))
  · split
    · rfl
    · exact (wrB_kal ..).trans ((wrB_kal ..).trans (hlimit (bits v 31 16)))
  · generalize s.poolOver (some p.val) (s.poolBase p) (s.poolBytes p) = q
    generalize s.windowOver none (s.poolBase p) (s.poolBytes p) = w
    cases q with
    | some q => rfl
    | none =>
      cases w with
      | some w => rfl
      | none => exact (hshown ..).trans ((hring ..).trans ((hcounts ..).trans ((hpool ..).trans (hlimit (bits v 31 16)))))

theorem weightWrite_kal (s : State) (r : Nat) (tiled : Bool) :
    (s.weightEnable r tiled).1.kal = s.kal ∧ (s.weightDisable r tiled).1.kal = s.kal := by
  constructor
  · unfold weightEnable
    dsimp only
    refine kal_ite _ rfl ?_
    split
    · rfl
    · exact (wrB_kal ..).trans (wrB_kal ..)
  · exact (wrB_kal ..).trans (wrB_kal ..)

theorem partitionWrite_kal (s : State) (d : Fin 2) (v : Nat) : (s.partitionWrite d v).1.kal = s.kal := by
  unfold partitionWrite
  dsimp only
  refine kal_ite _ rfl (kal_ite _ rfl (kal_ite _ rfl (kal_ite _ rfl ?_)))
  split
  · rfl
  refine (foldl_keeps State.kal _ (fun t p => ?_) _ _).trans
    ((wrB_kal ..).trans ((wr_kal ..).trans ((wr_kal ..).trans ((wr_kal ..).trans (wr_kal ..)))))
  exact ite_keeps State.kal _ (kal_of_noMove (moved_leaveScratch t p).rest) rfl

theorem arbWrite_kal (s : State) (v : Nat) : (arbWrite s v).1.kal = s.kal := by
  have hquota (t : State) : t.quotaLines.kal = t.kal := by
    unfold quotaLines
    extract_lets k one
    have hone (d : Fin 2) (u : State) : (one d u).kal = u.kal := ite_keeps State.kal (u.mscSets d = 0) rfl rfl
    exact (hone 1 _).trans (hone 0 t)
  have hprot (t : State) : t.unprotectAll.kal = t.kal := rfl
  unfold arbWrite
  dsimp only
  exact kal_ite _ rfl ((ite_keeps State.kal _ (hprot _) rfl).trans
    ((hquota _).trans ((wr_kal ..).trans ((wr_kal ..).trans (wr_kal ..)))))

theorem fcapWrite_kal (s : State) (d : Fin 2) (v : Nat) : (s.fcapWrite d v).1.kal = s.kal := by
  have hfields (t : State) : (t.captureFields d v).kal = t.kal := by
    simp only [captureFields]
    rw [wr_kal, wr_kal, wr_kal, wr_kal]
  have harm : (s.captureArm d v).kal = s.kal := by
    unfold captureArm
    extract_lets src started shown counted
    have hstarted : started.kal = s.kal := rfl
    have hshown : shown.kal = s.kal := (wrB_kal ..).trans ((wrB_kal ..).trans ((hfields started).trans hstarted))
    have hcounted : counted.kal = s.kal := (wr_kal ..).trans hshown
    exact ite_keeps State.kal _ ((wr_kal ..).trans hcounted) hcounted
  have hoff : (s.captureOff d).kal = s.kal := by
    unfold captureOff
    extract_lets armed t c
    have ht : t.kal = s.kal := ite_keeps State.kal _ (wr_kal ..) rfl
    exact (wrB_kal ..).trans ht
  have hdump (t : State) : (t.captureDumpStart d).kal = t.kal := by
    unfold captureDumpStart
    extract_lets dst bytes
    exact (kal_of_noMem (store_noMem ..)).trans (wrB_kal ..)
  unfold fcapWrite
  exact kal_ite _ (kal_ite _ rfl (kal_ite _ rfl (kal_ite _ rfl harm)))
    (kal_ite _ (kal_ite _ rfl (kal_ite _ rfl ((hdump _).trans (hfields s)))) ((hfields _).trans hoff))

theorem memWrite_kal (s : State) (a v : Nat) : (s.memWrite a v).1.kal = s.kal := by
  unfold memWrite
  dsimp only
  refine kal_ite _ ?_ (kal_ite _ ?_ (kal_ite _ ?_ (kal_ite _ ?_ (kal_ite _ ?_ (kal_ite _ ?_ (kal_ite _ ?_ (kal_ite _ ?_
    (kal_ite _ ?_ (kal_ite _ ?_ (kal_ite _ ?_ ?_))))))))))
  · exact kal_ite _ (kal_ite _ (crucibleOn_kal ..) (crucibleOff_kal ..)) (kal_ite _ (heldWrite_kal ..) (heldWrite_kal ..))
  · exact kal_ite _ (poolWrite_kal ..) (heldWrite_kal ..)
  · exact kal_ite _ (kal_ite _ (weightWrite_kal ..).1 (weightWrite_kal ..).2) (heldWrite_kal ..)
  · exact partitionWrite_kal ..
  · exact partitionWrite_kal ..
  · exact rangeWrite_kal ..
  · exact allocCtrlWrite_kal ..
  · exact rangeWrite_kal ..
  · exact arbWrite_kal ..
  · exact fcapWrite_kal ..
  · exact fcapWrite_kal ..
  · exact plainWrite_kal ..

theorem disarmSlot_kal (s : State) (n : Fin 8) : (s.disarmSlot n).kal = s.kal := by
  have hk := keptByWork_kal
  have hends (t : State) (l : Layer) : (t.layerEnds l).kal = t.kal := by
    unfold layerEnds
    exact ite_keeps (s := { t with layers := t.layers.filter fun x => !(x.entry == l.entry) }) State.kal _ rfl rfl
  unfold disarmSlot
  extract_lets ls stop one free freed
  have hone (t : State) (l : Layer) : (one t l).kal = t.kal :=
    (hends ..).trans ((hk.opFlag ..).trans (hk.store ..))
  refine ite_keeps State.kal _ rfl ((hk.sprigTurns _).trans ((hk.noteReady _).trans ((hk.normAll _).trans ((raise_kal ..).trans ?_))))
  exact foldl_keeps State.kal one hone ls freed

theorem disarmWrite_kal (s : State) (v : Nat) : (s.disarmWrite v).1.kal = s.kal := by
  unfold disarmWrite
  exact foldl_keeps State.kal _ (fun t n => ite_keeps State.kal _ (disarmSlot_kal t n) rfl) _ _

/-! Writes as a whole. -/

/-- A write with authority changes nothing of Kalec. -/
theorem ctlWrite_kal (s : State) (a v : Nat) : (s.ctlWrite a v).1.kal = s.kal := by
  unfold ctlWrite
  refine kal_ite _ rfl ?_
  split
  · exact hrtWrite_kal ..
  · exact strWrite_kal ..
  · exact telWrite_kal ..
  · exact kal_ite _ (secCtrlWrite_kal ..) rfl
  · exact netWrite_kal ..
  · exact memWrite_kal ..
  · exact pwrWrite_kal ..
  · exact kal_ite _ (disarmWrite_kal ..) (plainWrite_kal ..)
  · exact plainWrite_kal ..

/-- Neither do writes in order. -/
theorem writeMany_kal (ws : List (Word × Word)) (i : Nat) (s : State) : (writeMany ws i s).1.kal = s.kal := by
  induction ws generalizing i s with
  | nil => rfl
  | cons e ws ih =>
    have hone := ctlWrite_kal s e.1.toNat e.2.toNat
    rw [writeMany]
    split
    next t heq =>
      rw [heq] at hone
      exact (ih _ _).trans hone
    next t r heq =>
      rw [heq] at hone
      exact hone

end Sys2Proof.Machine.State
end


section
/-!
Writes of registers by the owner, and the configuration record (R376, R390 to R392).
-/
namespace Sys2Proof.Machine

open State Sys2Proof.Safety

section
variable {s : State} {h : KHdr}

/-- WRITE_REG makes its writes in order and answers, with the index of the one that was refused. -/
theorem exec_writeReg {ws : List (Word × Word)} (ht : Takes s h (.writeReg ws)) (hlen : ws.length ≤ 124) :
    let r := State.writeMany ws 0 (arrived s h (.writeReg ws))
    exec (.writeReg h ws) s =
      .next (replied s r.1 h (.writeReg ws) r.2.1 (if r.2.1 = .ok then [] else toBytes 4 r.2.2)) := by
  obtain ⟨u, hu⟩ : ∃ u : State, u = arrived s h (.writeReg ws) := ⟨_, rfl⟩
  obtain ⟨r, hr⟩ : ∃ r, r = State.writeMany ws 0 u := ⟨_, rfl⟩
  have hrun : u.kRun (ask h (.writeReg ws)) =
      r.1.answer (ask h (.writeReg ws)) r.2.1 (if r.2.1 = .ok then [] else toBytes 4 r.2.2) := by
    rw [hu, kRun, if_neg (permitted ht), cmd_of_reaches ht.1, hr, hu]
    dsimp only
    rw [writeRegs, if_neg (by omega)]
    rfl
  have hkal : r.1.kal = u.kal := hr ▸ writeMany_kal ws 0 u
  have hidle : r.1.kal.running = none := by rw [hkal, hu]; exact arrived_idle ht.1
  dsimp only
  rw [← hu, ← hr]
  exact act_of_answered ht.1 hu hrun hidle

theorem curEntries_arrived (s : State) (h : KHdr) (c : KCmd) : (arrived s h c).curEntries = s.curEntries := by
  rw [curEntries, curEntries, curCopy_arrived, arrived_flash]

theorem arrived_cfgWrite (s : State) (h : KHdr) (c : KCmd) : (arrived s h c).kal.cfgWrite = s.kal.cfgWrite := by
  rw [arrived_kal]

/-- CONFIG_WRITE makes its writes where APPLY is set, and unless one is refused executes until its copy is written. -/
theorem exec_configWrite {seq : DWord} {apply : Byte} {ws : List (Word × Word)} (ht : Takes s h (.configWrite seq apply ws))
    (hlive : s.copiesLive = true) (hseq : seq.toNat = s.rd Reg.HRT_CFG_SEQ_SEQ 0) (hnone : s.kal.cfgWrite = none)
    (happly : apply.toNat ≤ 1) (hlen : ws.length ≤ 122) (hall : (ws.foldl putEntry s.curEntries).length ≤ 4996)
    (hnamed : ∀ e ∈ ws, persistent e.1.toNat = true) :
    let v := arrived s h (.configWrite seq apply ws)
    let r := if apply = 1 then State.writeMany ws 0 v else (v, .ok, 0)
    exec (.configWrite h seq apply ws) s = .next (if r.2.1 = .ok then
      { r.1.eraseNext with kal := { r.1.kal with
        cfgWrite := some ⟨ws.foldl putEntry s.curEntries, true⟩
        running := some (ask h (.configWrite seq apply ws)) } }.done s.pending
      else replied s r.1 h (.configWrite seq apply ws) r.2.1 (toBytes 4 r.2.2)) := by
  obtain ⟨q, hq⟩ : ∃ q, q = ask h (.configWrite seq apply ws) := ⟨_, rfl⟩
  obtain ⟨u, hu⟩ : ∃ u : State, u = arrived s h (.configWrite seq apply ws) := ⟨_, rfl⟩
  obtain ⟨r, hr⟩ : ∃ r : State × KStat × Nat, r = if apply = 1 then State.writeMany ws 0 u else (u, .ok, 0) := ⟨_, rfl⟩
  obtain ⟨all, hentries⟩ : ∃ all, all = ws.foldl putEntry s.curEntries := ⟨_, rfl⟩
  rw [← hentries] at hall
  have hone : apply.toNat = 1 ↔ apply = 1 := ⟨fun h => BitVec.eq_of_toNat_eq h, fun h => by rw [h]; rfl⟩
  have hgood : (ws.any fun e => !persistent e.1.toNat) = false := by simpa using hnamed
  have hkal : r.1.kal = u.kal := by
    rw [hr]
    split
    · exact writeMany_kal ws 0 u
    · rfl
  have hrun : u.kRun q = if r.2.1 = .ok then
      { r.1.eraseNext with kal := { r.1.kal with cfgWrite := some ⟨all, true⟩, running := some q } }
      else r.1.answer q r.2.1 (toBytes 4 r.2.2) := by
    have hpermit := permitted ht
    have hcmd := cmd_of_reaches ht.1
    rw [← hq] at hcmd
    rw [← hq, ← hu] at hpermit
    rw [kRun, if_neg hpermit, hcmd]
    dsimp only
    have hcond : ¬(1 < apply.toNat || 122 < ws.length || 4996 < all.length || ws.any fun e => !persistent e.1.toNat) = true := by
      rw [hgood]; simp; omega
    have hseq' : ¬seq.toNat ≠ u.rd Reg.HRT_CFG_SEQ_SEQ 0 := by rw [hu, rd_arrived _ _ _ (by decide)]; exact not_not_intro hseq
    have hentries' : ws.foldl putEntry u.curEntries = all := by rw [hu, curEntries_arrived, hentries]
    unfold configWrite
    rw [hentries', hu, copiesLive_arrived, hlive, ← hu, if_neg (by decide), if_neg hseq', if_neg (by
      rw [hu, arrived_cfgWrite, hnone]; decide), if_neg hcond]
    have hmade : (if apply.toNat = 1 then State.writeMany ws 0 u else (u, .ok, 0)) = r := by
      rw [hr]; exact if_congr hone rfl rfl
    dsimp only
    rw [hmade]
    by_cases hok : r.2.1 = .ok
    · rw [if_neg (not_not_intro hok), if_pos hok]
    · rw [if_pos hok, if_neg hok]
      rfl
  have hsettled : (u.kRun q).slotSettle = u.kRun q := by
    rw [hrun]
    by_cases hok : r.2.1 = .ok
    · rw [if_pos hok]
      have hcmd := cmd_of_reaches ht.1
      rw [← hq] at hcmd
      obtain ⟨x, hx⟩ : ∃ x : State, x = { r.1.eraseNext with kal := { r.1.kal with
        cfgWrite := some ⟨all, true⟩, running := some q } } := ⟨_, rfl⟩
      have hrunning : x.kal.running = some q := by rw [hx]
      rw [← hx, slotSettle, hrunning]
      dsimp only
      rw [hcmd]
    · rw [if_neg hok]
      refine slotSettle_of_idle ((answer_running ..).trans ?_)
      rw [hkal, hu]
      exact arrived_idle ht.1
  dsimp only
  rw [← hq, ← hu, ← hr, ← hentries]
  show act s (s.kRequest h (.configWrite seq apply ws)) = _
  rw [kRequest_of_reaches ht.1, ← hq, ← hu, hsettled, hrun, act_next]
  by_cases hok : r.2.1 = .ok
  · rw [if_pos hok, if_pos hok]
  · rw [if_neg hok, if_neg hok, replied, ← hq]

end

/-! The copy. -/

/-- The SEQ of a new copy (R392). -/
def nextSeq (s : State) : DWord := match s.curCopy with
  | some c => s.flash.cfg[c].seq + 1
  | none => 1

/-- What the writing of a copy leaves, and the sequence number it shows. -/
theorem copyWritten_shows (s : State) (w : CfgWrite) :
    (s.copyWritten w).kal = { s.kal with cfgWrite := none } ∧ (s.copyWritten w).mem = s.mem ∧ (s.copyWritten w).ops = s.ops ∧
      (s.copyWritten w).slots = s.slots ∧ (s.copyWritten w).rd Reg.HRT_CFG_SEQ_SEQ 0 = (nextSeq s).toNat := by
  obtain ⟨c, hc⟩ : ∃ c : CfgCopy, c = (
    let es := (w.entries.filter fun e => !(s.fenceEntries.any fun f => f.1 == e.1)) ++ s.fenceEntries
    ⟨nextSeq s, es, entryDigest es, some (signedBytes (nextSeq s) es (entryDigest es)), 0⟩) := ⟨_, rfl⟩
  obtain ⟨u, hu⟩ : ∃ u : State, u = { s with
    flash := { s.flash with cfg := s.flash.cfg.set s.nextCopy c }
    kal := { s.kal with cfgWrite := none } } := ⟨_, rfl⟩
  obtain ⟨m, hm⟩ : ∃ m : State, m = (u.wr Reg.HRT_CFG_SEQ_SEQ 0 (nextSeq s).toNat).measureCopy c := ⟨_, rfl⟩
  obtain ⟨r, hr⟩ : ∃ r : State, r = if w.answer then m.raise 0x0604 0 none ((nextSeq s).toNat % 2 ^ 32) else m := ⟨_, rfl⟩
  have hform : s.copyWritten w = r.persist := by rw [hr, hm, hu, hc]; rfl
  have hmctl : m.noCtl = u.noCtl := by rw [hm, measureCopy, extend_noCtl, wr_noCtl]
  have hrevent : r.noEvent = m.noEvent := hr ▸ ite_keeps State.noEvent _ (raise_noEvent ..) rfl
  have hnoEvent : r.persist.noEvent = u.noEvent :=
    (noEvent_of_noCtl (persist_noCtl r)).trans (hrevent.trans (noEvent_of_noCtl hmctl))
  have hseq : r.rd Reg.HRT_CFG_SEQ_SEQ 0 = m.rd Reg.HRT_CFG_SEQ_SEQ 0 :=
    hr ▸ ite_keeps (rd · Reg.HRT_CFG_SEQ_SEQ 0) _ (rd_raise_apart (by decide) ..) rfl
  rw [hform]
  refine ⟨(kal_of_noEvent hnoEvent).trans (by rw [hu]), (mem_of_noEvent hnoEvent).trans (by rw [hu]),
    (ops_of_noEvent hnoEvent).trans (by rw [hu]), (slots_of_noEvent hnoEvent).trans (by rw [hu]), ?_⟩
  rw [rd_persist _ (by decide), hseq, hm, measureCopy, rd_extend _ _ (by decide), rd_wr_same _ _ _ _ (by decide)]
  exact Nat.mod_eq_of_lt (nextSeq s).isLt

/-- The copy written is what CONFIG_COPY_WRITTEN makes, and the answer of its command. -/
theorem exec_configCopyWritten {s : State} {w : CfgWrite} (hw : s.kal.cfgWrite = some w) (hserves : s.kalecServes = true)
    (hlive : s.copiesLive = true) : exec .configCopyWritten s = .next ((match w.answer, s.kal.running with
      | true, some q => ((s.copyWritten w).answer q .ok []).runEnds.kSettle
      | _, _ => s.copyWritten w).done s.pending) := by
  obtain ⟨hkal, -⟩ := copyWritten_shows s w
  obtain ⟨t, ht⟩ : ∃ t : State, t = s.copyWritten w := ⟨_, rfl⟩
  have hrunning : t.kal.running = s.kal.running := by rw [ht, hkal]
  show act s (match s.kal.cfgWrite with
    | none => s
    | some w => if !s.kalecServes || !s.copiesLive then s else
      let t := s.copyWritten w
      match w.answer, t.kal.running with
      | true, some q => ((t.answer q .ok []).runEnds).kSettle
      | _, _ => t) = _
  rw [hw]
  dsimp only
  rw [hserves, hlive, if_neg (by decide), ← ht, hrunning, act_next]

/-- Settles O28: a write with authority leaves the requests of Kalec as they were, so the command's answer is the last thing
that happens, or CONFIG_WRITE goes on executing. -/
theorem configurationWrites : Obligations.ConfigurationWrites := by
  unfold Obligations.ConfigurationWrites
  intro s h seq apply ws
  refine ⟨fun ht hlen => exec_writeReg ht hlen, fun ht hlive hseq hnone happly hlen hall hnamed =>
    exec_configWrite ht hlive hseq hnone happly hlen hall hnamed, fun w hw hserves hlive => ?_⟩
  obtain ⟨hkal, hmem, hops, hslots, hseq⟩ := copyWritten_shows s w
  exact ⟨by rw [hkal], hmem, hops, hslots, hseq, exec_configCopyWritten hw hserves hlive⟩

end Sys2Proof.Machine
end


section
/-!
A frame that wakes the module from Doze: it is answered before the wake (R335, R417).
-/
namespace Sys2Proof.Machine

open State Sys2Proof.Safety

/-- READY and in Doze with FLOW_OK low; port 0 has its link, and holds a datagram for REORDER that the next frame lets go. -/
def dozing : State :=
  let s : State := { State.reset with
    pw := { State.powerReset with mode := .on, memAsleep := true }
    net := { State.reset.net with fi := State.reset.net.fi.set 0 { State.reset.net.fi[0] with held := [(.datagram 0 0 [], 1)] } } }
  let s := (s.wr Reg.HRT_BOOT_STAGE 0 4).wr Reg.PWR_STATUS_STATE 0 2
  ((((s.wrB Reg.NET_PORT_STATUS_LINK 0 true).wr Reg.NET_PORT_IP_IP 0 1).wr Reg.NET_PORT_NEXTHOP_MAC 0 1).wr Reg.NET_DEV_ID_DEV_ID 0 1)

/-- A packet of an unknown unit for the device. -/
def strayPacket : Packet where
  fcsOk := true
  udpOk := true
  badType := false
  srcIp := 1
  crcOk := true
  vid := 0
  bytes := 128
  ce := false
  ver := 1
  cls := 0
  last := true
  poison := false
  epoch := 0
  srcDev := 2
  dstDev := 1
  psn := 0
  opId := 0
  offset := 0
  unit := 88
  aux := 0
  code := 0
  tag := 0
  addr := 0
  data := []

theorem dozing_accepts : Accepted dozing 0 strayPacket := by
  unfold Accepted
  decide +kernel

/-- The frames that the state after a command has sent. -/
def sentCount (x : Host.Outcome State Fault Refusal) : Nat := match x with
  | .next t => t.net.sent.length
  | _ => 0

/-- The module answers the packet while it is in Doze: its NAK leaves, and the datagram that waited for one more frame. -/
theorem sentCount_receive : sentCount (exec (.msgReceive 0 strayPacket) dozing) = 2 := by decide +kernel

/-- Were it to wake first, it would enter Quench, in which the datagram may not leave. -/
theorem sentCount_afterWake : sentCount (.next ((((dozing.inc Reg.NET_RX_FRAMES_COUNT (0 : Fin 8) 1).frameWake).sendNak 0 strayPacket 2).done
    dozing.pending)) = 1 := by decide +kernel

theorem dozing_unperformed : State.performed (((dozing.inc Reg.NET_RX_FRAMES_COUNT (0 : Fin 8) 1).frameWake).rxOf strayPacket.srcDev
    strayPacket.cls) strayPacket.psn.toNat = false := by decide +kernel

/-- Refutes O58: a packet of an unknown unit arrives in Doze with FLOW_OK low. The module answers before it wakes, so a
datagram held for REORDER leaves after the NAK; after the wake, which leads to Quench, it would be dropped. -/
theorem not_packetsTurnedAway : ¬ Obligations.PacketsTurnedAway := by
  unfold Obligations.PacketsTurnedAway
  intro h
  obtain ⟨-, -, haccepted⟩ := h dozing 0 strayPacket (.msgReceive 0 strayPacket) (Or.inr (Or.inl rfl))
  obtain ⟨-, hnew⟩ := haccepted dozing_accepts
  obtain ⟨hunit, -⟩ := hnew dozing_unperformed
  have hsent := congrArg sentCount (hunit (by decide))
  rw [sentCount_receive, sentCount_afterWake] at hsent
  exact absurd hsent (by decide)

end Sys2Proof.Machine
end


section
/-!
Answers, timers and rates of the transport (R336, R337, R340, R359).
-/
namespace Sys2Proof.Machine

open State Sys2Proof.Safety

namespace State

/-! Frames accepted, and connections replaced. -/

/-- An accepted frame counts as received, and passes. -/
theorem rxChecked_accepted {s : State} {p : Fin 8} {k : Packet} (h : Accepted s p k) :
    s.rxChecked p k = (s.inc Reg.NET_RX_FRAMES_COUNT p 1, true) := by
  obtain ⟨hlink, hfcs, hbytes, hvid, hudp, hver, htype, hdev, hzero, hcrc⟩ := h
  have hvidField : ∀ p : Fin 8, apart Reg.NET_RX_FRAMES_COUNT p Reg.NET_PORT_CFG_VID p = true := by decide
  have hfamField : ∀ p : Fin 8, apart Reg.NET_RX_FRAMES_COUNT p Reg.NET_PORT_CFG_FAMILY p = true := by decide
  have hdevField : ∀ p : Fin 8, apart Reg.NET_RX_FRAMES_COUNT p Reg.NET_DEV_ID_DEV_ID 0 = true := by decide
  obtain ⟨u, hu⟩ : ∃ u : State, u = s.inc Reg.NET_RX_FRAMES_COUNT p 1 := ⟨_, rfl⟩
  have hvid' : ¬k.vid.toNat ≠ u.rd Reg.NET_PORT_CFG_VID p := by
    rw [hu, inc, rd_wr_other _ _ (hvidField p)]; exact not_not_intro hvid
  have hfam' : ¬(u.rdB Reg.NET_PORT_CFG_FAMILY p && !k.udpOk) = true := by
    rw [hu, rdB, inc, rd_wr_other _ _ (hfamField p), ← rdB]
    cases hf : s.rdB Reg.NET_PORT_CFG_FAMILY p with
    | false => simp
    | true => simp [hudp hf]
  have hdev' : u.rd Reg.NET_DEV_ID_DEV_ID 0 = k.dstDev.toNat := by rw [hu, inc, rd_wr_other _ _ (hdevField p), hdev]
  unfold rxChecked
  rw [hlink, ← hu, if_neg (by decide)]
  dsimp only
  rw [hfcs, if_neg (by simp; omega), if_neg hvid', if_neg hfam', hver, htype, if_neg (by simp), hdev', if_neg (by simpa using hzero), hcrc,
    if_neg (by decide)]

/-- The connection to a device in a class is one of the present identity. -/
theorem connOf_key (s : State) (dst : BitVec 16) (cls : Nat) :
    (s.connOf dst cls).dev = s.devId ∧ (s.connOf dst cls).dst = dst ∧ (s.connOf dst cls).cls = cls := by
  unfold connOf
  cases hfind : s.net.conns.find? fun x => x.dev == s.devId && x.dst == dst && x.cls == cls with
  | none => exact ⟨rfl, rfl, rfl⟩
  | some c =>
    have hkey := List.find?_some hfind
    simp only [Bool.and_eq_true, beq_iff_eq] at hkey
    obtain ⟨⟨hdev, hdst⟩, hcls⟩ := hkey
    exact ⟨hdev, hdst, hcls⟩

/-- A connection replaced is the one its device and class have, where it is of the present identity. -/
theorem connOf_setConn (s : State) (c : Conn) (hdev : c.dev = s.devId) : (s.setConn c).connOf c.dst c.cls = c := by
  obtain ⟨others, hothers⟩ : ∃ l, l = s.net.conns.filter fun x => !(x.dev == c.dev && x.dst == c.dst && x.cls == c.cls) := ⟨_, rfl⟩
  have hnone : others.find? (fun x => x.dev == s.devId && x.dst == c.dst && x.cls == c.cls) = none := by
    rw [List.find?_eq_none]
    intro x hx
    rw [hothers, List.mem_filter] at hx
    rw [← hdev]
    simpa only [Bool.not_eq_true', Bool.not_eq_true] using hx.2
  have hfind : (others ++ [c]).find? (fun x => x.dev == s.devId && x.dst == c.dst && x.cls == c.cls) = some c := by
    rw [List.find?_append, hnone, ← hdev]
    simp
  have hconns : (s.setConn c).net.conns = others ++ [c] := by rw [hothers]; rfl
  have hid : (s.setConn c).devId = s.devId := rd_of_ctl (s := s) (t := s.setConn c) rfl Reg.NET_DEV_ID_DEV_ID 0
  unfold connOf
  rw [hconns, hid, hfind]
  rfl

theorem connOf_congr {s t : State} (hconns : t.net.conns = s.net.conns) (hid : t.devId = s.devId) (dst : BitVec 16) (cls : Nat) :
    t.connOf dst cls = s.connOf dst cls := by rw [connOf, connOf, hconns, hid]

/-- A connection for which nothing waits sends nothing. -/
theorem pump_of_wait {s : State} {dst : BitVec 16} {cls : Nat} (h : (s.connOf dst cls).wait = []) : s.pump dst cls = s := by
  rw [pump, h]
  rfl

end State

/-! ACKs. -/

section
variable {s : State} {p : Fin 8} {k : Packet}

/-- Whether an ACK covers a packet: at or before the cumulative PSN, or in the SACK map (R336). -/
def ackCovers (k : Packet) (x : Unacked) : Bool :=
  State.psnLe x.psn k.aux.toNat || (decide ((x.psn + 2 ^ 32 - (k.aux.toNat + 1)) % 2 ^ 32 < 64) &&
    bit (ofBytes (k.data.take 8)) ((x.psn + 2 ^ 32 - (k.aux.toNat + 1)) % 2 ^ 32))

/-- The macro-op of a packet that an ACK covers has one part less to do; with POISON its flag too (R317, R336). -/
def answerOne (k : Packet) (x : State) (y : Unacked) : State :=
  (if k.poison && y.pkt.kind == 1 && y.pkt.opId == k.opId.toNat then x.opFlag y.pkt.own 1 else x).answered y.pkt.own

/-- Beside the macro-ops an answer changes nothing. -/
theorem answerOne_eq (k : Packet) (x : State) (y : Unacked) : answerOne k x y = { x with ops := (answerOne k x y).ops } := by
  unfold answerOne
  split <;> rfl

theorem answerAll_eq (k : Packet) (l : List Unacked) (x : State) :
    l.foldl (answerOne k) x = { x with ops := (l.foldl (answerOne k) x).ops } := by
  induction l generalizing x with
  | nil => rfl
  | cons y l ih =>
    rw [List.foldl_cons, ih, answerOne_eq]

/-- What answers do to the macro-ops depends on the macro-ops only. -/
theorem answerAll_ops (k : Packet) (l : List Unacked) {x y : State} (h : y.ops = x.ops) :
    (l.foldl (answerOne k) y).ops = (l.foldl (answerOne k) x).ops := by
  induction l generalizing x y with
  | nil => exact h
  | cons u l ih =>
    refine ih ?_
    unfold answerOne
    split <;> simp only [answered, opDone, opFlag, modOp, h]

/-- The state in which an ACK's packets are answered: they leave the connection, and their macro-ops go on. -/
def ackTaken (u : State) (k : Packet) : State :=
  let c := u.connOf k.srcDev k.cls
  (c.una.filter (ackCovers k)).foldl (answerOne k) (u.setConn { c with una := c.una.filter fun x => !ackCovers k x })

theorem ackTaken_eq (u : State) (k : Packet) : ackTaken u k =
    { u.setConn { u.connOf k.srcDev k.cls with una := (u.connOf k.srcDev k.cls).una.filter fun x => !ackCovers k x } with
      ops := (ackTaken u k).ops } := answerAll_eq k _ _

theorem connOf_ackTaken (u : State) (k : Packet) : (ackTaken u k).connOf k.srcDev k.cls =
    { u.connOf k.srcDev k.cls with una := (u.connOf k.srcDev k.cls).una.filter fun x => !ackCovers k x } := by
  obtain ⟨hdev, hdst, hcls⟩ := connOf_key u k.srcDev k.cls
  obtain ⟨c, hc⟩ : ∃ c : Conn, c = { u.connOf k.srcDev k.cls with
    una := (u.connOf k.srcDev k.cls).una.filter fun x => !ackCovers k x } := ⟨_, rfl⟩
  have heq : ackTaken u k = { u.setConn c with ops := (ackTaken u k).ops } := hc ▸ ackTaken_eq u k
  have hconn := connOf_setConn u c (by rw [hc]; exact hdev)
  have hkey : c.dst = k.srcDev ∧ c.cls = k.cls := by rw [hc]; exact ⟨hdst, hcls⟩
  rw [hkey.1, hkey.2] at hconn
  rw [← hc, ← hconn]
  have hctl : (ackTaken u k).ctl = (u.setConn c).ctl := by rw [heq]
  exact connOf_congr (by rw [heq]) (rd_of_ctl hctl Reg.NET_DEV_ID_DEV_ID 0) _ _

theorem ackTaken_ops (u : State) (k : Packet) :
    (ackTaken u k).ops = (((u.connOf k.srcDev k.cls).una.filter (ackCovers k)).foldl (answerOne k) u).ops := answerAll_ops k _ rfl

/-- An ACK without a SACK map sends nothing again: its packets are answered, an echo halves the rate, and what waits goes. -/
theorem exec_ackReceive (hacc : Accepted s p k) (hsack : ofBytes (k.data.take 8) = 0) :
    exec (.ackReceive p k) s = .next (((if bit k.code.toNat 0 then
      (ackTaken (s.inc Reg.NET_RX_FRAMES_COUNT p 1).frameWake k).halveRate k.srcDev
      else ackTaken (s.inc Reg.NET_RX_FRAMES_COUNT p 1).frameWake k).pump k.srcDev k.cls).done s.pending) := by
  obtain ⟨u, hu⟩ : ∃ u : State, u = (s.inc Reg.NET_RX_FRAMES_COUNT p 1).frameWake := ⟨_, rfl⟩
  have hnone (l : List Unacked) : l.filter (fun y => decide (3 ≤ ((List.range 64).filter fun i =>
      bit (ofBytes (k.data.take 8)) i && State.psnLe y.psn ((k.aux.toNat + 1 + i) % 2 ^ 32)).length)) = [] := by
    have hbit (i : Nat) : bit 0 i = false := by simp [bit]
    rw [List.filter_eq_nil_iff]
    intro y _
    simp [hsack, hbit]
  show act s (s.ackArrives p k) = _
  unfold ackArrives
  rw [rxChecked_accepted hacc]
  dsimp only
  rw [if_neg (by decide), ← hu, hnone, List.foldl_nil, act_next]
  rfl

/-- The connection and the macro-ops after an ACK without an echo. -/
theorem ack_clause (hacc : Accepted s p k) (hsack : ofBytes (k.data.take 8) = 0) (hecho : bit k.code.toNat 0 = false)
    (hwait : (((s.inc Reg.NET_RX_FRAMES_COUNT p 1).frameWake).connOf k.srcDev k.cls).wait = []) :
    let u := (s.inc Reg.NET_RX_FRAMES_COUNT p 1).frameWake
    let c := u.connOf k.srcDev k.cls
    ∃ t, exec (.ackReceive p k) s = .next t ∧
      (t.connOf k.srcDev k.cls).una = c.una.filter (fun x => !ackCovers k x) ∧ (t.connOf k.srcDev k.cls).next = c.next ∧
      t.ops = ((c.una.filter (ackCovers k)).foldl (answerOne k) u).ops ∧ t.mem = u.mem := by
  have hexec := exec_ackReceive hacc hsack
  obtain ⟨u, hu⟩ : ∃ u : State, u = (s.inc Reg.NET_RX_FRAMES_COUNT p 1).frameWake := ⟨_, rfl⟩
  dsimp only
  rw [← hu] at hexec hwait ⊢
  have hconn := connOf_ackTaken u k
  have hform := ackTaken_eq u k
  have hops := ackTaken_ops u k
  obtain ⟨a, ha⟩ : ∃ a : State, a = ackTaken u k := ⟨_, rfl⟩
  rw [← ha] at hexec hconn hform hops
  have hmem : a.mem = u.mem := by rw [hform]; rfl
  rw [hecho, if_neg (by decide), pump_of_wait (by rw [hconn]; exact hwait)] at hexec
  have hdone : (a.done s.pending).connOf k.srcDev k.cls = a.connOf k.srcDev k.cls :=
    connOf_congr (by rw [done_net]) (done_rd _ (by decide)) _ _
  exact ⟨_, hexec, by rw [hdone, hconn], by rw [hdone, hconn], by rw [done_ops, hops], by rw [done_mem, hmem]⟩

/-- The rate after an ACK with an echo, where no halving stands. -/
theorem ack_echo (hacc : Accepted s p k) (hsack : ofBytes (k.data.take 8) = 0) (hecho : bit k.code.toNat 0 = true)
    (hwait : (((s.inc Reg.NET_RX_FRAMES_COUNT p 1).frameWake).connOf k.srcDev k.cls).wait = [])
    (hfirst : ((s.inc Reg.NET_RX_FRAMES_COUNT p 1).frameWake).net.halved.contains k.srcDev.toNat = false) :
    let u := (s.inc Reg.NET_RX_FRAMES_COUNT p 1).frameWake
    let full := fun (_ : Nat) => 2 ^ 32
    ∃ t, exec (.ackReceive p k) s = .next t ∧
      Tab.get full t.net.rates k.srcDev.toNat = Tab.get full u.net.rates k.srcDev.toNat / 2 := by
  have hexec := exec_ackReceive hacc hsack
  obtain ⟨u, hu⟩ : ∃ u : State, u = (s.inc Reg.NET_RX_FRAMES_COUNT p 1).frameWake := ⟨_, rfl⟩
  dsimp only
  rw [← hu] at hexec hwait hfirst ⊢
  have hconn := connOf_ackTaken u k
  have hform := ackTaken_eq u k
  obtain ⟨a, ha⟩ : ∃ a : State, a = ackTaken u k := ⟨_, rfl⟩
  rw [← ha] at hexec hconn hform
  have hrates : a.net.rates = u.net.rates := by rw [hform]; rfl
  have hhalved : a.net.halved = u.net.halved := by rw [hform]; rfl
  obtain ⟨b, hb⟩ : ∃ b : State, b = a.halveRate k.srcDev := ⟨_, rfl⟩
  have hbeq : b = ({ a with net := { a.net with
      rates := Tab.set (fun _ => 2 ^ 32) a.net.rates k.srcDev.toNat (Tab.get (fun _ => 2 ^ 32) a.net.rates k.srcDev.toNat / 2)
      halved := insertSorted k.srcDev.toNat a.net.halved } } : State).tick := by
    rw [hb]
    unfold halveRate
    dsimp only
    rw [hhalved, hfirst, Bool.false_and, if_neg (by decide)]
  have hbconns : b.net.conns = a.net.conns := by rw [hbeq]; rfl
  have hbid : b.devId = a.devId := by rw [hbeq]; rfl
  have hbrates : Tab.get (fun _ => 2 ^ 32) b.net.rates k.srcDev.toNat = Tab.get (fun _ => 2 ^ 32) u.net.rates k.srcDev.toNat / 2 := by
    rw [hbeq, ← hrates]
    exact Tab.get_set_same ..
  rw [hecho, if_pos rfl, ← hb, pump_of_wait (by rw [connOf_congr hbconns hbid, hconn]; exact hwait)] at hexec
  exact ⟨_, hexec, by rw [done_net, hbrates]⟩

end

/-! NAKs and timers. -/

section
variable {s : State} {p : Fin 8} {k : Packet} {dev : BitVec 16} {cls : Fin 4} {psn : Word}

theorem exec_nakReceive (hacc : Accepted s p k) {y : Unacked} :
    let u := (s.inc Reg.NET_RX_FRAMES_COUNT p 1).frameWake
    let z := u.captureNet p 3 k.code.toNat k.cls.val k.srcDev k.psn.toNat k.opId.toNat
    let c := u.connOf k.srcDev k.cls
    c.una.find? (·.psn == k.psn.toNat) = some y →
    (k.code.toNat = 3 → exec (.nakReceive p k) s = .next ((z.setConn { c with una := c.una.map fun x =>
      if x.psn = k.psn.toNat then { x with busy := true } else x }).done s.pending)) ∧
    (k.code.toNat ≠ 3 → exec (.nakReceive p k) s = .next
      (((((((z.setConn { c with una := c.una.filter (·.psn != k.psn.toNat) }).collRefused y.pkt.own).opFlag y.pkt.own 5).modStats
        y.pkt.own fun l => { l with stale := true }).answered y.pkt.own).pump k.srcDev k.cls).done s.pending)) := by
  intro u z c hfind
  have harrives : s.nakArrives p k = if k.code.toNat = 3 then
        z.setConn { c with una := c.una.map fun x => if x.psn = k.psn.toNat then { x with busy := true } else x }
      else (((((z.setConn { c with una := c.una.filter (·.psn != k.psn.toNat) }).collRefused y.pkt.own).opFlag y.pkt.own 5).modStats
        y.pkt.own fun l => { l with stale := true }).answered y.pkt.own).pump k.srcDev k.cls := by
    unfold nakArrives
    rw [rxChecked_accepted hacc]
    dsimp only
    rw [if_neg (by decide)]
    split
    next hnone => cases hnone.symm.trans hfind
    next y' hsome =>
      obtain rfl := Option.some.inj (hsome.symm.trans hfind)
      rfl
  have hexec : exec (.nakReceive p k) s = .next ((s.nakArrives p k).done s.pending) := act_next ..
  rw [harrives] at hexec
  exact ⟨fun hcode => by rw [hexec, if_pos hcode], fun hcode => by rw [hexec, if_neg hcode]⟩

theorem exec_ackTimer (hfresh : (s.rxOf dev cls).fresh ≠ 0) :
    exec (.ackTimer dev cls) s = .next ((s.sendAck (s.rxOf dev cls)).done s.pending) := by
  show act s (if (s.rxOf dev cls).fresh = 0 then s else s.sendAck (s.rxOf dev cls)) = _
  rw [if_neg hfresh, act_next]

theorem exec_rtoExpire {y : Unacked} (hfind : (s.connWith dev cls psn.toNat).una.find? (·.psn == psn.toNat) = some y)
    (hmay : s.mayTransmit = true) :
    let v := s.connWith dev cls psn.toNat
    let m := if y.busy then y.expiries else y.expiries + 1
    let lost := decide (m = s.rd Reg.NET_XPORT_CFG_UNREACH 0) && !y.busy && !v.unreach
    let w := s.setConn { v with
      unreach := v.unreach || lost
      una := v.una.map fun x => if x.psn = psn.toNat then { x with expiries := m, busy := false } else x }
    let port := State.posPort y.pkt.peer y.pos
    let w := if lost then w.raise 0x0503 port none (dev.toNat + cls * 2 ^ 16) else w
    exec (.rtoExpire dev cls psn) s = .next ((w.resend dev cls psn.toNat).done s.pending) := by
  intro v m lost w port w'
  have hexpires : s.rtoExpires dev cls psn.toNat = w'.resend dev cls psn.toNat := by
    unfold rtoExpires
    dsimp only
    split
    next hnone => cases hnone.symm.trans hfind
    next y' hsome =>
      obtain rfl := Option.some.inj (hsome.symm.trans hfind)
      rw [hmay, if_neg (by decide)]
  show act s (s.rtoExpires dev cls psn.toNat) = _
  rw [hexpires, act_next]

theorem rateRaise_clause (s : State) (dev : BitVec 16) :
    let full := fun (_ : Nat) => 2 ^ 32
    ∃ t, exec (.rateRaise dev) s = .next t ∧
      Tab.get full t.net.rates dev.toNat = min (2 ^ 32) (Tab.get full s.net.rates dev.toNat + 2 ^ 26) ∧
      RegsOnly { s with net := { s.net with rates := t.net.rates } } t [] := by
  obtain ⟨r, hr⟩ : ∃ r, r = Tab.set (fun _ => 2 ^ 32) s.net.rates dev.toNat
    (min (2 ^ 32) (Tab.get (fun _ => 2 ^ 32) s.net.rates dev.toNat + 2 ^ 26)) := ⟨_, rfl⟩
  obtain ⟨u, hu⟩ : ∃ u : State, u = { s with net := { s.net with rates := r } } := ⟨_, rfl⟩
  have hraise : s.raiseRate dev = u := by rw [hu, hr]; rfl
  have hrates : u.net.rates = r := by rw [hu]
  have hpending : u.pending = s.pending := by rw [hu]
  refine ⟨u.done s.pending, ?_, ?_, ?_⟩
  · show act s (s.raiseRate dev) = _
    rw [hraise, act_next]
  · rw [done_net, hrates, hr]
    exact Tab.get_set_same ..
  · rw [done_net, hrates, ← hu, ← hpending]
    exact done_regsOnly rfl fun _ _ => rfl

theorem reorderRelease_clause (s : State) (p : Fin 8) :
    let due := s.net.fi[p].held.filter fun h => s.mayLeave p h.1
    ∃ t, exec (.reorderRelease p) s = .next t ∧
      t.rd Reg.NET_TX_FRAMES_COUNT p = (s.rd Reg.NET_TX_FRAMES_COUNT p + due.length) % 2 ^ 64 ∧
      RegsOnly { s with net := { s.net with
        sent := s.net.sent ++ due.map fun h => s.sentFrame p h.1 h.1
        fi := s.net.fi.set p { s.net.fi[p] with held := [] } } } t
        [0x060100 + 0x400 * p.val, 0x060104 + 0x400 * p.val] := by
  intro due
  have hown : ∀ p : Fin 8, ownField Reg.NET_TX_FRAMES_COUNT p = true := by decide
  obtain ⟨u, hu⟩ : ∃ u : State, u = { s with net := { s.net with
    sent := s.net.sent ++ due.map fun h => s.sentFrame p h.1 h.1
    fi := s.net.fi.set p { s.net.fi[p] with held := [] } } } := ⟨_, rfl⟩
  have hctl : u.ctl = s.ctl := by rw [hu]
  have hpending : u.pending = s.pending := by rw [hu]
  have hflush : s.reorderFlush p = u.inc Reg.NET_TX_FRAMES_COUNT p due.length := by
    rw [hu]
    unfold reorderFlush
    dsimp only
    rw [List.length_map]
  rw [← hu]
  refine ⟨(u.inc Reg.NET_TX_FRAMES_COUNT p due.length).done s.pending, ?_, ?_, ?_⟩
  · show act s (s.reorderFlush p) = _
    rw [hflush, act_next]
  · rw [done_rd _ (hown p), inc, rd_wr_same _ _ _ _ (by decide), rd_of_ctl hctl]
    rfl
  · rw [← hpending]
    refine done_regsOnly (inc_noCtl ..) fun a ha => word_wr_ne _ _ fun j hj => ?_
    simp only [fieldAddr, fieldWords, Reg.NET_TX_FRAMES_COUNT, List.mem_cons, List.not_mem_nil, or_false] at ha hj ⊢
    omega

end

/-- Settles O59, by what each frame, timer and rate does to the connection it names. -/
theorem answersTimersAndRates : Obligations.AnswersTimersAndRates := by
  unfold Obligations.AnswersTimersAndRates
  intro s p k dev cls psn
  refine ⟨fun hacc hsack hecho hwait => ack_clause hacc hsack hecho hwait,
    fun hacc hsack hecho hwait hfirst => ack_echo hacc hsack hecho hwait hfirst,
    fun hacc y hfind => exec_nakReceive hacc hfind, exec_ackTimer, fun y hfind hmay => exec_rtoExpire hfind hmay,
    rateRaise_clause s dev, reorderRelease_clause s p⟩

end Sys2Proof.Machine
end


section
/-!
Waits and completions (R142, R318, R512): what the writes that wait for earlier macro-ops, and the steps of a completion, keep
of a state.
-/
namespace Sys2Proof.Machine

open State Sys2Proof.Safety

/-- A table without entries of other keys reads at a key as before. -/
theorem Tab.get_filter {γ : Type} {d : Nat → γ} {p : Nat × γ → Bool} {b : Nat} (t : Tab γ) (h : ∀ v, p (b, v) = true) :
    Tab.get d (t.filter p) b = Tab.get d t b := by
  induction t with
  | nil => rfl
  | cons e t ih =>
    obtain ⟨j, v⟩ := e
    by_cases hj : b = j
    · rw [← hj, List.filter_cons_of_pos (h v), Tab.get, Tab.get, if_pos rfl, if_pos rfl]
    · rw [Tab.get, if_neg hj, ← ih, List.filter_cons]
      split
      · rw [Tab.get, if_neg hj]
      · rfl

namespace State

/-! What a latch changes of the control space (R512). -/

/-- Whether a word lies outside what a latch copies, restarts and stamps. -/
def offLatch (b : Nat) : Prop := b < 0x020000 ∨ (0x021000 ≤ b ∧ b < 0x028000)

theorem zeroWords_word (s : State) {a n b : Nat} (h : b < a ∨ a + 4 * n ≤ b) : (s.zeroWords a n).word b = s.word b :=
  Tab.get_filter s.ctl fun v => by
    simp only [Machine.within, Bool.not_eq_true', Bool.and_eq_false_iff, decide_eq_false_iff_not]; omega

theorem copyWords_word (s : State) {dst src n b : Nat} (h : b < dst ∨ dst + 4 * n ≤ b) :
    (s.copyWords dst src n).word b = s.word b := by
  have hset : ∀ (l : List (Nat × Word)) (t : State), (∀ e ∈ l, src ≤ e.1 ∧ e.1 < src + 4 * n) →
      (l.foldl (fun t e => t.setWord (dst + (e.1 - src)) e.2) t).word b = t.word b := by
    intro l
    induction l with
    | nil => exact fun _ _ => rfl
    | cons e l ih =>
      intro t hl
      have he := hl e (List.mem_cons_self ..)
      rw [List.foldl_cons, ih _ fun x hx => hl x (List.mem_cons_of_mem _ hx), word_setWord_other _ _ (by omega)]
  rw [copyWords, hset, zeroWords_word _ h]
  intro e he
  have hw := (List.mem_filter.mp he).2
  simp only [Machine.within, Bool.and_eq_true, decide_eq_true_eq] at hw
  exact hw

section
variable {b : Nat} (hb : offLatch b)
include hb

theorem latchSlot_word (s : State) (slot : Fin 8) : (s.latchSlot slot.val).word b = s.word b := by
  have hslot := slot.isLt
  simp only [offLatch] at hb
  simp only [latchSlot]
  rw [zeroWords_word _ (by omega), copyWords_word _ (by simp only [slotBank]; omega), zeroWords_word _ (by omega),
    copyWords_word _ (by simp only [slotBank]; omega), zeroWords_word _ (by simp only [sageBase]; omega),
    copyWords_word _ (by simp only [slotBank]; omega)]

/-- A live region of the device bank lies, there and in the control space, where a latch is. -/
theorem deviceRegion_apart : ∀ e ∈ deviceRegions, (b < deviceBank + e.1 ∨ deviceBank + e.1 + 4 * e.2.2 ≤ b) ∧
    (b < e.2.1 ∨ e.2.1 + 4 * e.2.2 ≤ b) := by
  have hall : ∀ e ∈ deviceRegions, 0x028000 ≤ e.2.1 ∨ (0x020000 ≤ e.2.1 ∧ e.2.1 + 4 * e.2.2 ≤ 0x021000) := by decide
  intro e he
  have h := hall e he
  simp only [offLatch] at hb
  simp only [deviceBank]
  omega

theorem latchDevice_word (s : State) : s.latchDevice.word b = s.word b := by
  have hregions := deviceRegion_apart hb
  simp only [offLatch] at hb
  have hpeak (t : State) (v : Word) (d x : Nat) (hd : d < 2) :
      ((t.setWord (deviceBank + 0x510 + 4 * d) v).wr Reg.STR_TRK_STATUS_PEAK d x).word b = t.word b := by
    rw [word_wr_ne _ _ (by simp [fieldAddr, fieldWords, Reg.STR_TRK_STATUS_PEAK]; omega),
      word_setWord_other _ _ (by simp only [deviceBank]; omega)]
  have htrk (t : State) (d : Fin 2) : (t.settleTrk d).word b = t.word b := settleTrk_word _ _ _ (by omega)
  have hfold : ∀ (l : List (Nat × Nat × Nat)) (t : State), (∀ e ∈ l, e ∈ deviceRegions) →
      (l.foldl (fun t x => (t.copyWords (deviceBank + x.1) x.2.1 x.2.2).zeroWords x.2.1 x.2.2) t).word b = t.word b := by
    intro l
    induction l with
    | nil => exact fun _ _ => rfl
    | cons e l ih =>
      intro t hl
      obtain ⟨hbank, hlive⟩ := hregions e (hl e (List.mem_cons_self ..))
      rw [List.foldl_cons, ih _ fun x hx => hl x (List.mem_cons_of_mem _ hx), zeroWords_word _ hlive, copyWords_word _ hbank]
  rw [latchDevice, copyWords_word _ (by simp only [deviceBank]; omega), hpeak _ _ _ _ (by decide), hpeak _ _ _ _ (by decide),
    htrk, htrk]
  exact hfold _ _ fun _ h => h

theorem latch_word (s : State) (slot : Fin 8) (cmd : Bool) : (s.latch slot cmd).word b = s.word b := by
  have hslot := slot.isLt
  have hseq : b ≠ 0x03F004 := by simp only [offLatch] at hb; omega
  have hbank (t : State) (v : Nat) : (t.setWordsAt (slotBank slot) 4 v).word b = t.word b :=
    word_setWordsAt_other _ _ (by simp only [offLatch] at hb; simp only [slotBank]; omega)
  have hdevice (t : State) (v : Nat) : (t.setWordsAt deviceBank 4 v).word b = t.word b :=
    word_setWordsAt_other _ _ (by simp only [offLatch] at hb; simp only [deviceBank]; omega)
  have hseqd (t : State) : (t.takeDseq).word b = t.word b := word_setWord_other _ _ hseq
  obtain ⟨u, hu⟩ : ∃ u : State, u = (s.takeLead.takeSnap slot).takeDseq.latchSlot slot := ⟨_, rfl⟩
  have hlatched : u.word b = s.word b := by
    rw [hu, latchSlot_word hb, hseqd, takeSnap, word_with_slots, takeLead, word_with_tel]
  simp only [latch, ← hu, word_with_slots]
  rw [hbank]
  split
  · rw [hdevice, latchDevice_word hb, hlatched]
  · exact hlatched

end

theorem rd_latch (s : State) (slot : Fin 8) (cmd : Bool) {f : Field} {i : Nat}
    (h : fieldAddr f i + 4 * fieldWords f ≤ 0x020000 ∨
      (0x021000 ≤ fieldAddr f i ∧ fieldAddr f i + 4 * fieldWords f ≤ 0x028000)) : (s.latch slot cmd).rd f i = s.rd f i :=
  rd_congr fun b h1 h2 => latch_word (by simp only [offLatch]; omega) s slot cmd

/-! Updates and operations sent. -/

theorem rd_update (s : State) (v : Via) (a : Nat) (bs : List Byte) {f : Field} {i : Nat} (h : quietMem f i = true)
    (hd : offDoorbells f i) : (s.update v a bs).rd f i = s.rd f i :=
  rd_congr fun b h1 h2 => foldl_keeps (word · b) _ (fun (s : State) (x : Nat × Nat × Nat) =>
    writeLine_word s v x.1 x.2.1 x.2.2 true ⟨beyondMem_of_quietMem h h1 h2, fun r => by have := hd r; omega⟩) _ _

theorem rd_pumpN (dst : BitVec 16) (cls n : Nat) (s : State) {f : Field} {i : Nat} (h : apartFromSending f i = true) :
    (s.pumpN dst cls n).rd f i = s.rd f i := by
  induction n generalizing s with
  | zero => rfl
  | succ n ih =>
    rw [pumpN]
    simp only []
    split
    · rfl
    · split
      · rfl
      · refine ite_keeps (rd · f i) _ rfl ?_
        rw [ih, rd_sendFrame _ _ _ h, setConn, rd_with_net]

theorem rd_pumpAll (s : State) {f : Field} {i : Nat} (h : apartFromSending f i = true) : s.pumpAll.rd f i = s.rd f i :=
  foldl_keeps (rd · f i) _ (fun (t : State) (c : Conn) => rd_pumpN c.dst c.cls _ t h) _ _

theorem transmit_noNet (s : State) (peer cls : Nat) (ks : List OutPkt) : (s.transmit peer cls ks).noNet = s.noNet :=
  (pumpN_noNet ..).trans rfl

theorem rd_transmit (s : State) (peer cls : Nat) (ks : List OutPkt) {f : Field} {i : Nat} (h : apartFromSending f i = true) :
    (s.transmit peer cls ks).rd f i = s.rd f i := by
  rw [transmit, pump, rd_pumpN _ _ _ _ h, setConn, rd_with_net]

/-! What the writes that wait for earlier macro-ops keep (R317, R512). -/

/-- A change of a macro-op that keeps its number and its ring. -/
def KeepsPlace (f : Op → Op) : Prop := ∀ o, (f o).id = o.id ∧ (f o).ring = o.ring

/-- A value of the state that the flag write of a SIGNAL and the latch of a STEP_MARK keep. -/
structure KeptByDue {γ : Type} (g : State → γ) : Prop where
  readRange : ∀ (s : State) (v : Via) (a n : Nat), g (s.readRange v a n) = g s
  store     : ∀ (s : State) (v : Via) (a : Nat) (bs : List Byte), g (s.store v a bs) = g s
  update    : ∀ (s : State) (v : Via) (a : Nat) (bs : List Byte), g (s.update v a bs) = g s
  modOp     : ∀ (s : State) (id : Nat) (f : Op → Op), KeepsPlace f → g (s.modOp id f) = g s
  takeOpId  : ∀ s : State, g s.takeOpId.1 = g s
  transmit  : ∀ (s : State) (peer cls : Nat) (ks : List OutPkt), g (s.transmit peer cls ks) = g s
  latch     : ∀ (s : State) (slot : Fin 8) (cmd : Bool), g (s.latch slot cmd) = g s

section
variable {γ : Type} {g : State → γ} (hk : KeptByDue g)
include hk

theorem KeptByDue.opFlag (s : State) (id n : Nat) : g (s.opFlag id n) = g s := hk.modOp s id _ fun _ => ⟨rfl, rfl⟩

theorem KeptByDue.setWork (s : State) (id : Nat) (w : Work) : g (s.modOp id fun x => { x with work := w }) = g s :=
  hk.modOp s id _ fun _ => ⟨rfl, rfl⟩

theorem KeptByDue.signalWrite (s : State) (v : Via) (flag x width op : Nat) : g (s.signalWrite v flag x width op).1 = g s := by
  unfold State.signalWrite
  extract_lets n read
  split
  · exact hk.readRange ..
  · exact (hk.update ..).trans (hk.readRange ..)

theorem KeptByDue.signalFlag (s : State) (o : Op) : g (s.signalFlag o) = g s := by
  unfold State.signalFlag
  extract_lets a v w op peer done
  refine ite_keeps g _ ?_ ?_
  · split
    next t id ht =>
    have hid : g t = g s := by rw [show t = s.takeOpId.1 from (congrArg Prod.fst ht).symm]; exact hk.takeOpId s
    exact (hk.transmit ..).trans ((hk.setWork ..).trans hid)
  · have hwrite := hk.signalWrite s (seqVia o.ring) a v w op
    split
    next t ht =>
      rw [ht] at hwrite
      exact (hk.setWork ..).trans hwrite
    next t ht =>
      rw [ht] at hwrite
      exact (hk.setWork ..).trans ((hk.opFlag ..).trans hwrite)

theorem KeptByDue.stepLatch (s : State) (o : Op) : g (s.stepLatch o) = g s := by
  unfold State.stepLatch
  extract_lets was latched lead dst slotCopied deviceCopied
  have hlatched : g latched = g s := hk.latch ..
  have hslot : g slotCopied = g s := ite_keeps g _ hlatched ((hk.store ..).trans hlatched)
  have hdevice : g deviceCopied = g s := ite_keeps g _ ((hk.store ..).trans hslot) hslot
  exact (hk.setWork ..).trans hdevice

theorem KeptByDue.dueN (r : RingId) (n : Nat) (s : State) : g (s.dueN r n) = g s := by
  induction n generalizing s with
  | zero => rfl
  | succ n ih =>
    rw [State.dueN]
    split
    · rfl
    · exact ite_keeps g _ (ite_keeps g _ ((ih _).trans (hk.signalFlag ..)) rfl)
        (ite_keeps g _ (hk.stepLatch ..) rfl)

theorem KeptByDue.ringDue (s : State) (r : RingId) : g (s.ringDue r) = g s := hk.dueN r _ s

theorem KeptByDue.recordDone (s : State) (o : Op) (md : Nat) (amax : Nat × Int) : g (s.recordDone o md amax) = g s := by
  rw [State.recordDone]
  exact ite_keeps g _ rfl (ite_keeps g _ ((hk.opFlag ..).trans (hk.readRange ..)) (hk.update ..))

theorem KeptByDue.recordsDone (s : State) (o : Op) : g (s.recordsDone o) = g s := by
  rw [State.recordsDone]
  exact (foldl_keeps g _ (fun t (b : Blk) => hk.recordDone ..) _ _).trans
    (foldl_keeps g _ (fun t (x : Out) => ite_keeps g _ (hk.recordDone ..) rfl) _ _)

theorem KeptByDue.writeRecord (s : State) (r : RingId) (d code warm flags detail cycles : Nat) :
    g (s.writeRecord r d code warm flags detail cycles) = g s := by
  rw [State.writeRecord]
  exact ite_keeps g _ rfl (hk.store ..)

end

/-- A value that no access of memory, no packet and no change of the job slots alters, nor of a macro-op that keeps its
place. -/
theorem keptByDue_of_frames {γ : Type} {g : State → γ} (hmem : ∀ {s t : State}, t.noMem = s.noMem → g t = g s)
    (hnet : ∀ {s t : State}, t.noNet = s.noNet → g t = g s)
    (hslots : ∀ (s : State) (x : Vector Slot 8), g { s with slots := x } = g s)
    (hop : ∀ (s : State) (id : Nat) (f : Op → Op), KeepsPlace f → g (s.modOp id f) = g s) : KeptByDue g where
  readRange _ _ _ _ := hmem (readRange_noMem ..)
  store _ _ _ _ := hmem (store_noMem ..)
  update _ _ _ _ := hmem (update_noMem ..)
  modOp := hop
  takeOpId _ := hnet rfl
  transmit _ _ _ _ := hnet (transmit_noNet ..)
  latch s slot cmd := by
    have hctl {t u : State} (h : u.noCtl = t.noCtl) : g u = g t := hmem (noMem_of_noCtl h)
    obtain ⟨a, ha⟩ : ∃ a : State, a = s.takeLead := ⟨_, rfl⟩
    obtain ⟨b, hb⟩ : ∃ b : State, b = a.takeSnap slot := ⟨_, rfl⟩
    obtain ⟨u, hu⟩ : ∃ u : State, u = b.takeDseq.latchSlot slot := ⟨_, rfl⟩
    have hsnap : g b = g s := by rw [hb, takeSnap, hslots, ha]; exact hmem rfl
    have hlatched : g u = g s := by rw [hu, hctl (latchSlot_noCtl ..), hctl (takeDseq_noCtl _), hsnap]
    simp only [State.latch, ← ha, ← hb, ← hu]
    rw [hslots, hctl (setWordsAt_noCtl ..)]
    exact ite_keeps g _ ((hctl (setWordsAt_noCtl ..)).trans ((hctl (latchDevice_noCtl _)).trans hlatched)) hlatched

theorem keptByDue_kal : KeptByDue State.kal :=
  keptByDue_of_frames kal_of_noMem kal_of_noNet (fun _ _ => rfl) (fun _ _ _ _ => rfl)

theorem keptByDue_pw : KeptByDue State.pw :=
  keptByDue_of_frames (fun h => by rw [eq_of_noMem h]) pw_of_noNet (fun _ _ => rfl) (fun _ _ _ _ => rfl)

/-- The macro-ops in flight by number and ring. -/
def opPlaces (s : State) : List (Nat × RingId) := s.ops.map fun o => (o.id, o.ring)

theorem modOp_places (s : State) (id : Nat) (f : Op → Op) (hf : KeepsPlace f) : (s.modOp id f).opPlaces = s.opPlaces := by
  rw [opPlaces, modOp, List.map_map, opPlaces]
  refine List.map_congr_left fun o _ => ?_
  obtain ⟨hid, hring⟩ := hf o
  rw [Function.comp_apply]
  split
  · rw [hid, hring]
  · rfl

theorem keptByDue_places : KeptByDue opPlaces :=
  keptByDue_of_frames (fun h => by rw [opPlaces, ops_of_noMem h, opPlaces]) (fun h => by rw [opPlaces, ops_of_noNet h, opPlaces])
    (fun _ _ => rfl) modOp_places

/-- A macro-op in flight, by its number, keeps its ring where all keep their places. -/
theorem opOf_of_places {s t : State} {id : Nat} {o : Op} (h : t.opPlaces = s.opPlaces) (ho : s.opOf id = some o) :
    ∃ x, t.opOf id = some x ∧ x.ring = o.ring := by
  have hfind (u : State) : (u.opPlaces.find? fun k => k.1 == id) = (u.opOf id).map fun o => (o.id, o.ring) := by
    rw [opPlaces, List.find?_map]; rfl
  have hboth := (hfind t).symm.trans ((congrArg (List.find? fun k => k.1 == id) h).trans (hfind s))
  rw [ho, Option.map_some] at hboth
  obtain ⟨x, hx, hplace⟩ := Option.map_eq_some_iff.mp hboth
  exact ⟨x, hx, (Prod.mk.inj hplace).2⟩

/-- Whether a field is none of those that memory, doorbells, frames sent and latches change. -/
def apartFromDue (f : Field) (i : Nat) : Prop :=
  quietMem f i = true ∧ offDoorbells f i ∧ apartFromSending f i = true ∧
    (fieldAddr f i + 4 * fieldWords f ≤ 0x020000 ∨ (0x021000 ≤ fieldAddr f i ∧ fieldAddr f i + 4 * fieldWords f ≤ 0x028000))

theorem keptByDue_rd {f : Field} {i : Nat} (h : apartFromDue f i) : KeptByDue (State.rd · f i) := by
  obtain ⟨hmem, hdoor, hsend, hlatch⟩ := h
  exact {
    readRange := fun _ _ _ _ => rd_readRange _ _ _ _ hmem
    store := fun _ _ _ _ => rd_store _ _ _ _ hmem hdoor
    update := fun _ _ _ _ => rd_update _ _ _ _ hmem hdoor
    modOp := fun _ _ _ _ => rd_with_ops ..
    takeOpId := fun _ => rd_with_net ..
    transmit := fun _ _ _ _ => rd_transmit _ _ _ _ hsend
    latch := fun _ _ _ => rd_latch _ _ _ hlatch }

theorem keptByDue_done (r : RingId) : KeptByDue (State.rd · Reg.STR_RING_DONE_COUNT r) :=
  keptByDue_rd ⟨quietMem_done r, offDoorbells_done r, by revert r; decide, by revert r; decide⟩

theorem ringDue_memUp (s : State) (r : RingId) : (s.ringDue r).memUp = s.memUp := by
  have hstage : KeptByDue (State.rd · Reg.HRT_BOOT_STAGE 0) :=
    keptByDue_rd ⟨by decide, fun q => by simp only [fieldAddr, fieldWords, Reg.HRT_BOOT_STAGE]; omega, by decide, by decide⟩
  rw [memUp, powered, stage, keptByDue_pw.ringDue, hstage.ringDue, memUp, powered, stage]

/-! What a completion keeps (R142 to R144). -/

/-- A value of the state that a completion keeps, once its macro-op has left: also what shows and records it. -/
structure KeptByEnd {γ : Type} (g : State → γ) : Prop extends KeptByDue g where
  killFills  : ∀ (s : State) (p : Fill → Bool), g (s.killFills p) = g s
  inflight   : ∀ (s : State) (r : RingId), g (s.countInflight r) = g s
  countMoved : ∀ (s : State) (o : Op), g (s.countMoved o) = g s
  capture    : ∀ (s : State) (r : RingId) (opcode what code seq cycles : Nat),
    g (s.captureRing r opcode what code seq cycles) = g s
  modRing    : ∀ (s : State) (r : RingId) (f : Ring → Ring), g (s.modRing r f) = g s
  haltRing   : ∀ (s : State) (r : RingId) (opcode code seq : Nat), g (s.haltRing r opcode code seq) = g s
  pumpAll    : ∀ s : State, g s.pumpAll = g s

/-- The state in which a macro-op that completes has left: its record is written, and INFLIGHT and the lines moved count
(R142, R424). -/
def opLeft (s : State) (o : Op) : State :=
  let s := s.writeRecord o.ring o.desc (cplCode o.flags) (b2n o.warm) o.flags (if cplCode o.flags = 4 then o.detail else 0) o.cycles
  let s := ({ s with ops := s.ops.filter (·.id != o.id) }.killFills fun f => f.user == some o.id).countInflight o.ring
  if dOpcode o.desc < 0x18 then s else s.countMoved o

/-- What follows the count of a completion in DONE: its capture record, the halts of R144, and the writes of its ring that
waited. -/
def endShown (s : State) (o : Op) : State :=
  let code := cplCode o.flags
  let seq := dSeq o.desc
  let s := s.captureRing o.ring (dOpcode o.desc) 1 code seq o.cycles
  let s := if code = 1 then s.modRing o.ring fun x => { x with poison := true } else s
  let s := if code = 4 || code = 7 then s.haltRing o.ring (dOpcode o.desc) code seq
    else if dFencePost o.desc || (dOpcode o.desc == 0x39 && code == 1) then s.fencePoint o.ring (dOpcode o.desc) seq
    else s
  s.ringDue o.ring

theorem finish_of_inFlight {s : State} {id : Nat} {o : Op} (h : s.opOf id = some o) :
    s.finish id = ((s.opLeft o).inc Reg.STR_RING_DONE_COUNT o.ring 1).endShown o := by
  have hid : o.id = id := by simpa using List.find?_some h
  rw [finish, h, opLeft, hid]
  rfl

section
variable {γ : Type} {g : State → γ} (hk : KeptByEnd g)
include hk

theorem KeptByEnd.takeTag (s : State) (o : Op) : g (s.takeTag o) = g s := by
  rw [State.takeTag]
  exact ite_keeps g _ rfl (hk.modRing ..)

theorem KeptByEnd.endShown (s : State) (o : Op) : g (s.endShown o) = g s := by
  unfold State.endShown
  extract_lets code seq captured poisoned halted
  have hcaptured : g captured = g s := hk.capture ..
  have hpoisoned : g poisoned = g s := ite_keeps g _ ((hk.modRing ..).trans hcaptured) hcaptured
  have hfence (u : State) : g (u.fencePoint o.ring (dOpcode o.desc) seq) = g u :=
    ite_keeps g _ ((hk.haltRing ..).trans (hk.modRing ..)) rfl
  have hhalted : g halted = g s :=
    ite_keeps g _ ((hk.haltRing ..).trans hpoisoned) (ite_keeps g _ ((hfence _).trans hpoisoned) hpoisoned)
  exact (hk.ringDue ..).trans hhalted

/-- A value that no change of the macro-ops in flight alters is kept where one leaves. -/
theorem KeptByEnd.opLeft (hops : ∀ (s : State) (x : List Op), g { s with ops := x } = g s) (s : State) (o : Op) :
    g (s.opLeft o) = g s := by
  unfold State.opLeft
  extract_lets recorded left
  have hrecorded : g recorded = g s := hk.writeRecord ..
  have hleft : g left = g s := (hk.inflight ..).trans ((hk.killFills ..).trans ((hops ..).trans hrecorded))
  exact ite_keeps g _ hleft ((hk.countMoved ..).trans hleft)

end

theorem keptByEnd_kal : KeptByEnd State.kal where
  toKeptByDue := keptByDue_kal
  killFills _ _ := rfl
  inflight _ _ := kal_of_noCtl (wr_noCtl ..)
  countMoved _ _ := rfl
  capture _ _ _ _ _ _ _ := kal_of_noEvent (capture_noEvent ..)
  modRing _ _ _ := rfl
  haltRing _ _ _ _ _ := kal_of_noEvent (haltRing_noEvent ..)
  pumpAll := pumpAll_kal

theorem keptByEnd_places : KeptByEnd opPlaces where
  toKeptByDue := keptByDue_places
  killFills _ _ := rfl
  inflight _ _ := by rw [countInflight, opPlaces, ops_of_noCtl (wr_noCtl ..), opPlaces]
  countMoved _ _ := rfl
  capture _ _ _ _ _ _ _ := by rw [captureRing, opPlaces, ops_of_noEvent (capture_noEvent ..), opPlaces]
  modRing _ _ _ := rfl
  haltRing _ _ _ _ _ := by rw [opPlaces, ops_of_noEvent (haltRing_noEvent ..), opPlaces]
  pumpAll _ := by rw [opPlaces, ops_of_noNet (pumpAll_noNet _), opPlaces]

/-- A ring's STAT and HALTSEQ lie apart from every ring's DONE. -/
theorem stat_apart_done (q r : RingId) : apart Reg.STR_RING_STAT_INFLIGHT q Reg.STR_RING_DONE_COUNT r = true ∧
    apart Reg.STR_RING_STAT_HALTED q Reg.STR_RING_DONE_COUNT r = true ∧
    apart Reg.STR_RING_STAT_HALT_CODE q Reg.STR_RING_DONE_COUNT r = true ∧
    apart Reg.STR_RING_HALTSEQ_SEQ q Reg.STR_RING_DONE_COUNT r = true := by
  refine ⟨?_, ?_, ?_, ?_⟩ <;>
  simp [apart, fieldAddr, fieldWords, Reg.STR_RING_STAT_INFLIGHT, Reg.STR_RING_STAT_HALTED, Reg.STR_RING_STAT_HALT_CODE,
    Reg.STR_RING_HALTSEQ_SEQ, Reg.STR_RING_DONE_COUNT] <;> omega

theorem haltRing_done (s : State) (q r : RingId) (opcode code seq : Nat) :
    (s.haltRing q opcode code seq).rd Reg.STR_RING_DONE_COUNT r = s.rd Reg.STR_RING_DONE_COUNT r := by
  have hquiet : ∀ r : RingId, quiet Reg.STR_RING_DONE_COUNT r = true := by decide
  have hslot : ∀ (r : RingId) (n : Fin 8), apart Reg.STR_SLOT_STATE_HALTED n Reg.STR_RING_DONE_COUNT r = true ∧
      apart Reg.STR_SLOT_STATE_STATE n Reg.STR_RING_DONE_COUNT r = true := by decide
  obtain ⟨-, hhalted, hcode, hseq⟩ := stat_apart_done q r
  rw [rd_haltRing _ _ _ _ _ (hquiet r), rd_haltShown _ _ _ _ (hslot r), rd_wr_other _ _ hseq,
    rd_wr_other _ _ hcode, wrB, rd_wr_other _ _ hhalted]

theorem keptByEnd_done (r : RingId) : KeptByEnd (State.rd · Reg.STR_RING_DONE_COUNT r) where
  toKeptByDue := keptByDue_done r
  killFills _ _ := rd_with_ms ..
  inflight _ q := rd_wr_other _ _ (stat_apart_done q r).1
  countMoved _ _ := rd_with_pw ..
  capture _ _ _ _ _ _ _ := rd_captureRing _ _ _ _ _ _ _ (by revert r; decide)
  modRing _ _ _ := rd_with_rings ..
  haltRing _ q _ _ _ := haltRing_done _ q r _ _ _
  pumpAll _ := rd_pumpAll _ (by revert r; decide)

theorem opLeft_ops (s : State) (o : Op) : (s.opLeft o).ops = s.ops.filter (·.id != o.id) := by
  unfold State.opLeft
  extract_lets recorded left
  have hrecorded : recorded.ops = s.ops := ops_of_noMem (writeRecord_noMem ..)
  have hleft : left.ops = s.ops.filter (·.id != o.id) := by rw [← hrecorded]; exact ops_of_noCtl (wr_noCtl ..)
  split
  · exact hleft
  · exact hleft

/-- A macro-op that completes leaves: no entry of its number stays, and its ring's DONE rises by one. -/
theorem finish_shows {s : State} {o : Op} (h : s.opOf o.id = some o) :
    (∀ x ∈ (s.finish o.id).ops, x.id ≠ o.id) ∧ (s.finish o.id).kal = s.kal ∧
      (s.finish o.id).rd Reg.STR_RING_DONE_COUNT o.ring = (s.rd Reg.STR_RING_DONE_COUNT o.ring + 1) % 2 ^ 32 := by
  obtain ⟨u, hu⟩ : ∃ u : State, u = s.opLeft o := ⟨_, rfl⟩
  obtain ⟨c, hc⟩ : ∃ c : State, c = u.inc Reg.STR_RING_DONE_COUNT o.ring 1 := ⟨_, rfl⟩
  have hdone : u.rd Reg.STR_RING_DONE_COUNT o.ring = s.rd Reg.STR_RING_DONE_COUNT o.ring := by
    rw [hu]; exact (keptByEnd_done o.ring).opLeft (fun _ _ => rd_with_ops ..) s o
  have hops : u.ops = s.ops.filter (·.id != o.id) := by rw [hu, opLeft_ops]
  have hplaces : (c.endShown o).opPlaces = c.opPlaces := keptByEnd_places.endShown c o
  rw [finish_of_inFlight h, ← hu, ← hc]
  refine ⟨fun x hx he => ?_, ?_, ?_⟩
  · have hmem : (x.id, x.ring) ∈ c.opPlaces := hplaces ▸ List.mem_map_of_mem hx
    rw [opPlaces, hc, ops_of_noCtl (inc_noCtl ..), hops] at hmem
    obtain ⟨y, hy, hyx⟩ := List.mem_map.mp hmem
    have hne : y.id ≠ o.id := by simpa using (List.mem_filter.mp hy).2
    exact hne ((Prod.mk.inj hyx).1.trans he)
  · rw [keptByEnd_kal.endShown, hc, kal_of_noCtl (inc_noCtl ..), hu]
    exact keptByEnd_kal.opLeft (fun _ _ => rfl) s o
  · rw [(keptByEnd_done o.ring).endShown c o, hc, ← hdone]
    exact rd_wr_same _ _ _ _ (by decide)

/-! A WAIT's read of its flag (R318). -/

theorem readRange_ops (s : State) (v : Via) (a n : Nat) : (s.readRange v a n).ops = s.ops := ops_of_noMem (readRange_noMem ..)

/-- A read of a flag changes of memory, the rings and the macro-ops only the work and the POISON of its WAIT. -/
theorem waitRead_shows (s : State) (o : Op) :
    let a := bits (dP o.desc 0) 47 0
    let n := if bit (dP o.desc 3) 2 then 8 else 4
    let ends := s.poisoned a n || waitHolds o.desc (s.peek a n)
    (s.waitRead o).mem = s.mem ∧ (s.waitRead o).rings = s.rings ∧
      (s.waitRead o).ops = s.ops.map fun x => if x.id = o.id then { x with
        work := if ends then .made else .engine 1
        flags := if s.poisoned a n then x.flags ||| 1 else x.flags } else x := by
  intro a n ends
  have hread (n : Nat) : (s.readRange (seqVia o.ring) a n).mem = s.mem ∧ (s.readRange (seqVia o.ring) a n).rings = s.rings :=
    ⟨readRange_mem _ _ _ (by simp [seqVia]), rings_of_noMem (readRange_noMem ..)⟩
  obtain ⟨hmem, hrings⟩ := hread n
  have hrun : s.waitRead o =
      if s.poisoned a n then ((s.readRange (seqVia o.ring) a n).opFlag o.id 1).modOp o.id fun x => { x with work := .made }
      else if waitHolds o.desc (s.peek a n) then (s.readRange (seqVia o.ring) a n).modOp o.id fun x => { x with work := .made }
      else (s.readRange (seqVia o.ring) a n).modOp o.id fun x => { x with work := .engine 1 } := rfl
  rw [hrun]
  cases hbad : s.poisoned a n with
  | true =>
    refine ⟨hmem, hrings, ?_⟩
    simp only [if_true, modOp, opFlag, readRange_ops, List.map_map]
    refine List.map_congr_left fun x _ => ?_
    by_cases hx : x.id = o.id
    · simp [hx, ends, hbad]
    · simp [hx]
  | false =>
    cases hholds : waitHolds o.desc (s.peek a n) with
    | true =>
      refine ⟨hmem, hrings, ?_⟩
      simp [modOp, readRange_ops, ends, hbad, hholds]
    | false =>
      refine ⟨hmem, hrings, ?_⟩
      simp [modOp, readRange_ops, ends, hbad, hholds]

/-! The completion of a macro-op whose work is done. -/

theorem complete_of_mayComplete {s : State} {r : RingId} {k : Nat} {o : Op} (hup : s.memUp = true)
    (hk : ((s.ringDue r).ringOps r)[k]? = some o) (hmay : (s.ringDue r).mayComplete o = true) :
    s.complete r k = ((((s.ringDue r).takeTag o).recordsDone o).finish o.id).pumpAll := by
  have hup' : (s.ringDue r).memUp = true := (ringDue_memUp s r).trans hup
  rw [complete, if_pos hup, hk]
  exact if_neg (by rw [hup', hmay]; decide)

/-- A macro-op that completes has left with its waiting room cleared, and DONE counts it. -/
theorem completed_shows {v : State} {o : Op} (ho : v.opOf o.id = some o) :
    let t := (((v.takeTag o).recordsDone o).finish o.id).pumpAll
    (∀ x ∈ t.ops, x.id ≠ o.id) ∧ t.kal = v.kal ∧
      t.rd Reg.STR_RING_DONE_COUNT o.ring = (v.rd Reg.STR_RING_DONE_COUNT o.ring + 1) % 2 ^ 32 := by
  obtain ⟨u, hu⟩ : ∃ u : State, u = (v.takeTag o).recordsDone o := ⟨_, rfl⟩
  have hkeeps {γ : Type} {g : State → γ} (hk : KeptByEnd g) : g u = g v := by
    rw [hu, hk.recordsDone, hk.takeTag]
  obtain ⟨x, hx, hring⟩ := opOf_of_places (hkeeps keptByEnd_places) ho
  have hid : x.id = o.id := by simpa using List.find?_some hx
  have hshows := finish_shows (s := u) (o := x) (by rw [hid]; exact hx)
  rw [hid, hring] at hshows
  obtain ⟨hleft, hkal, hdone⟩ := hshows
  rw [← hu]
  refine ⟨fun y hy => hleft y ?_, ?_, ?_⟩
  · rwa [ops_of_noNet (pumpAll_noNet _)] at hy
  · rw [pumpAll_kal, hkal, hkeeps keptByEnd_kal]
  · rw [(keptByEnd_done o.ring).pumpAll, hdone, hkeeps (keptByEnd_done o.ring)]

end State

/-- Settles O46: the read of a WAIT's flag; and the rules that the writes which waited, and a completion's steps, keep the
commands, the places of the macro-ops and DONE but for the count itself. -/
theorem waitsAndCompletions : Obligations.WaitsAndCompletions := by
  unfold Obligations.WaitsAndCompletions
  intro s r k o
  refine ⟨fun hup hwait => ?_, ?_⟩
  · intro a n ends
    have hrun : exec (.waitPoll r) s = act s (s.waitRead o) :=
      congrArg (act s) ((if_neg (by rw [hup]; decide)).trans (by rw [hwait]))
    obtain ⟨hmem, hrings, hops⟩ := waitRead_shows s o
    refine ⟨_, hrun.trans (act_next ..), ?_, ?_, ?_⟩
    · rw [done_mem, hmem]
    · rw [done_rings, hrings]
    · rw [done_ops, hops]
  · intro v hup hk hmay
    have hrun : exec (.macroOpComplete r k) s =
        .next ((((v.takeTag o).recordsDone o).finish o.id).pumpAll.kSettle.done s.pending) :=
      (congrArg (fun t : State => act s t.kSettle) (complete_of_mayComplete hup hk hmay)).trans (act_next ..)
    refine ⟨hrun, fun ho hidle hwait => ⟨_, hrun, ?_⟩⟩
    have hring : o.ring = r := by simpa using (List.mem_filter.mp (List.mem_of_getElem? hk)).2
    obtain ⟨hleft, hkal, hdone⟩ := completed_shows ho
    rw [kSettle_of_idle (by rw [hkal, hwait]) (by rw [hkal, hidle])]
    refine ⟨by rw [done_ops]; exact hleft, ?_⟩
    have hown : ∀ r : RingId, ownField Reg.STR_RING_DONE_COUNT r = true := by decide
    rw [done_rd _ (hown r), ← hring, hdone, hring, (keptByDue_done r).ringDue]

end Sys2Proof.Machine
end


section
/-!
Chunks, statistics, apply passes and outcomes of the update engine (R253 to R266).
-/
namespace Sys2Proof.Machine

open State Sys2Proof.Safety

namespace State

/-! The layers. -/

theorem layerOf_entry {s : State} {entry : Nat} {l : Layer} (h : s.layerOf entry = some l) : l.entry = entry := by
  simpa using List.find?_some h

theorem modLayer_layers (s : State) (entry : Nat) (f : Layer → Layer) :
    (s.modLayer entry f).layers = s.layers.map fun l => if l.entry = entry then f l else l := rfl

/-- Every layer of an entry that was changed has what the change gives. -/
theorem modLayer_forall {s : State} {entry : Nat} {f : Layer → Layer} {p : Layer → Prop} (hf : ∀ l, p (f l)) :
    ∀ x ∈ (s.modLayer entry f).layers, x.entry = entry → p x := by
  intro x hx he
  rw [modLayer_layers] at hx
  obtain ⟨y, -, hy⟩ := List.mem_map.mp hx
  split at hy
  · rw [← hy]; exact hf y
  next hne => exact absurd (hy ▸ he) hne

/-! Chunks signalled (R253). -/

theorem chunkSignal_of_landed {s : State} {entry c : Nat} {l : Layer} (hl : s.layerOf entry = some l) (hup : s.memUp = true)
    (hphase : l.phase = .chunks) (hc : c < lChunks (s.peek entry 128)) (hnew : c ∉ l.signals)
    (hland : hasRange (chunkBytes (s.peek entry 128) c).1 (chunkBytes (s.peek entry 128) c).2 l.landed = true) :
    s.chunkSignal entry c = (s.modLayer entry fun x => { x with signals := x.signals ++ [c] }).noteReady := by
  have hguard : ¬(!s.memUp || l.phase ≠ .chunks || lChunks (s.peek entry 128) ≤ c || l.signals.contains c ||
      !hasRange (chunkBytes (s.peek entry 128) c).1 (chunkBytes (s.peek entry 128) c).2 l.landed) = true := by
    simp [hup, hphase, hc, hnew, hland]
  rw [chunkSignal, hl]
  exact if_neg hguard

/-- A Sprig takes part in the noting of ready handlers with its queue alone. -/
theorem noteReady_sprig (s : State) (n : SprigId) :
    s.noteReady.sprigs[n] = { s.sprigs[n] with queue := s.noteReady.sprigs[n].queue } := by
  simp only [noteReady, Fin.getElem_fin, Vector.getElem_ofFn]

/-- The noting of ready handlers changes the Sprigs alone. -/
theorem noteReady_eq (s : State) : s.noteReady = { s with sprigs := s.noteReady.sprigs } := rfl

/-! The CHUNK handler (R254, R255). -/

theorem chunkHandle_of_due {s : State} {entry : Nat} {l : Layer} (run : HandlerRun) (hl : s.layerOf entry = some l)
    (hdue : chunkDue l = true) (hturn : s.noteReady.turnNow l = true) : s.chunkHandle entry run =
      match run with
      | .stepwise => (s.noteReady.chunkFeed l).chunkEnter l
      | .reference => (((((s.noteReady.chunkFeed l).chunkEnter l).chunkPass l).modSprig
          (homeSprig ((s.noteReady.chunkFeed l).peek entry 128)) fun x => { x with job := none }).chunkReturn entry l.next) := by
  have hguard : ¬(!chunkDue l || !s.noteReady.turnNow l) = true := by rw [hdue, hturn]; decide
  rw [chunkHandle, hl]
  exact if_neg hguard

/-- The reading of a chunk by its handler changes no byte of memory. -/
theorem chunkFeed_mem (s : State) (l : Layer) : (s.chunkFeed l).mem = s.mem := by
  have hread (a n : Nat) : ((s.inc Reg.UPD_REREAD_COUNT 0 1).readRange (s.layerVia l) a n).mem = s.mem :=
    (readRange_mem _ _ _ (by simp [layerVia])).trans (inc_mem ..)
  simp only [chunkFeed]
  split
  · exact ite_keeps State.mem _ rfl rfl
  · exact ite_keeps State.mem _ (hread ..) (hread ..)

/-- What a Sprig holds as a handler enters it (R255). -/
theorem enterHandler_sprig (s : State) (n : SprigId) (job : SprigJob) (pc : Nat) (regs : List Nat) :
    let y := (s.enterHandler n job pc regs).sprigs[n]
    y.job = some job ∧ y.entry = pc ∧ y.l1 = [] ∧ y.nonfin = false ∧
      ∀ i : Fin 6, y.s[i.val].toNat = regs.getD i.val 0 % 2 ^ 64 := by
  intro y
  have hy : y = { s.sprigs[n] with
      s := ((((((s.sprigs[n].s.set 0 (BitVec.ofNat 64 (regs.getD 0 0))).set 1 (BitVec.ofNat 64 (regs.getD 1 0))).set 2
        (BitVec.ofNat 64 (regs.getD 2 0))).set 3 (BitVec.ofNat 64 (regs.getD 3 0))).set 4 (BitVec.ofNat 64 (regs.getD 4 0))).set 5
        (BitVec.ofNat 64 (regs.getD 5 0)))
      ts := BitVec.ofNat 32 (s.sprigs[n].ts.toNat / 64 * 64), l1 := [], entry := pc, job := some job, nonfin := false } :=
    Vector.getElem_set_self _
  rw [hy]
  refine ⟨rfl, rfl, rfl, rfl, fun i => ?_⟩
  fin_cases i <;> simp

/-- What a layer's home Sprig holds as its CHUNK handler enters (R255). -/
theorem chunkEnter_sprig (s : State) (l : Layer) :
    let y := (s.chunkEnter l).sprigs[homeSprig (s.peek l.entry 128)]
    y.job = some (.chunk l.entry l.next) ∧ y.entry = bits l.sched 140 128 ∧ y.l1 = [] ∧ y.nonfin = false ∧
      y.s[(0 : Fin 32)].toNat = l.entry % 2 ^ 64 ∧ y.s[(1 : Fin 32)].toNat = l.next % 2 ^ 64 ∧
      y.s[(2 : Fin 32)].toNat = ((if s.wholeInTrough l then troughBase else 0) + lGrad (s.peek l.entry 128) +
        (chunkBytes (s.peek l.entry 128) l.next).1) % 2 ^ 64 ∧
      y.s[(5 : Fin 32)].toNat = l.step.toNat := by
  have hstep : l.step.toNat % 2 ^ 64 = l.step.toNat := Nat.mod_eq_of_lt (by have := l.step.isLt; omega)
  obtain ⟨hjob, hentry, hl1, hnonfin, hregs⟩ := enterHandler_sprig (s.modLayer l.entry fun l => { l with running := true })
    (homeSprig (s.peek l.entry 128)) (.chunk l.entry l.next) (bits l.sched 140 128)
    [l.entry, l.next, (if s.wholeInTrough l then troughBase else 0) + lGrad (s.peek l.entry 128) +
        (chunkBytes (s.peek l.entry 128) l.next).1,
      ((chunkBytes (s.peek l.entry 128) l.next).2 - (chunkBytes (s.peek l.entry 128) l.next).1) /
        (lCols (s.peek l.entry 128) * lWidth (s.peek l.entry 128)),
      uSched (((s.opOf l.op).map (·.desc)).getD 0) + 64 * lGroup (s.peek l.entry 128), l.step.toNat]
  exact ⟨hjob, hentry, hl1, hnonfin, hregs 0, hregs 1, hregs 2, (hregs 5).trans hstep⟩

theorem chunkEnter_mem (s : State) (l : Layer) : (s.chunkEnter l).mem = s.mem := id rfl
theorem noteReady_mem (s : State) : s.noteReady.mem = s.mem := by unfold noteReady; rfl

/-- Every layer of the chunk's entry runs once its CHUNK handler has entered. -/
theorem chunkEnter_running (s : State) (l : Layer) : ∀ x ∈ (s.chunkEnter l).layers, x.entry = l.entry → x.running = true :=
  modLayer_forall (s := s) (p := fun x => x.running = true) fun _ => rfl

/-! The statistics all-reduce (R256, R262). -/

theorem statsBegin_of_due {s : State} {entry : Nat} {l : Layer} (hl : s.layerOf entry = some l) (hrun : s.running = true)
    (hphase : l.phase = .statsDue) :
    let e := s.peek entry 128
    let v := s.modLayer entry fun x => { x with phase := .stats }
    let g := v.groupEntry (ringSlot l.ring) (lArg e)
    s.statsBegin entry = if v.groupBad (ringSlot l.ring) (lArg e) then v else
      v.collStart g (v.peerEntry (ringSlot l.ring) (v.succIndex g)) (layerOwn entry) true (ringSlot l.ring) (lArg e) 1 false 0
        (lScr e) (lScr e) (lReduce e) := by
  have hguard : ¬(!s.running || l.phase ≠ .statsDue) = true := by simp [hrun, hphase]
  intro e v g
  rw [statsBegin, hl]
  exact if_neg hguard

/-- A state without the statistics collective of a layer. -/
def dropStats (s : State) (entry : Nat) : State :=
  { s with net := { s.net with colls := s.net.colls.filter fun c => !(c.stats && c.own == layerOwn entry) } }

section
variable {s : State} {entry : Nat} {l : Layer} (hl : s.layerOf entry = some l) (hup : s.memUp = true) (hphase : l.phase = .stats)
include hl hup hphase

/-- The end of a layer's all-reduce, where the layer consumed poison or its epoch has passed. -/
theorem statsEnd_of_bad (hbad : (l.stale || l.poison) = true) : s.statsEnd entry =
    ((s.dropStats entry).modLayer entry fun x => { x with phase := .applied }).normTake l none := by
  have hguard : ¬(!s.memUp || l.phase ≠ .stats ||
      (s.net.colls.any (fun c => c.stats && c.own == layerOwn entry) && !l.stale && !l.poison)) = true := by
    rw [hup, hphase]
    revert hbad
    cases l.stale <;> cases l.poison <;> simp
  rw [statsEnd, hl]
  refine (if_neg hguard).trans ?_
  simp only [hbad]
  rfl

/-- The end of a layer's all-reduce that completed: its sum is read, and enters the norm where it bears no marker. -/
theorem statsEnd_of_complete (hgood : (l.stale || l.poison) = false)
    (hcoll : s.net.colls.any (fun c => c.stats && c.own == layerOwn entry) = false) :
    let sum := lScr (s.peek entry 128) + 4 * lCols (s.peek entry 128)
    let done := ((s.dropStats entry).modLayer entry fun x => { x with phase := .ready }).readRange (s.layerVia l) sum 4
    s.statsEnd entry = if s.poisoned sum 4 then
        (done.modLayer entry fun x => { x with phase := .applied, poison := true }).normTake l none
      else done.normTake l (some (s.peek sum 4)) := by
  intro sum done
  have hguard : ¬(!s.memUp || l.phase ≠ .stats ||
      (s.net.colls.any (fun c => c.stats && c.own == layerOwn entry) && !l.stale && !l.poison)) = true := by
    rw [hup, hphase, hcoll]; simp
  rw [statsEnd, hl]
  refine (if_neg hguard).trans ?_
  simp only [hgood]
  rfl

end

end State

/-- Settles O50: the guard of each command's meaning holds, and what follows it is as stated. -/
theorem chunksAndStatistics : Obligations.ChunksAndStatistics := by
  unfold Obligations.ChunksAndStatistics
  intro s entry l chunk hl e r u mine bad noColl
  refine ⟨fun hup hphase hc hnew hland => ?_, fun hdue hturn => ?_, fun hrun hphase => ?_, fun hup hphase => ?_⟩
  · have hsignal := chunkSignal_of_landed hl hup hphase hc hnew hland
    have hexec : exec (.chunkArrival entry chunk) s =
        .next ((s.modLayer entry.toNat fun x => { x with signals := x.signals ++ [chunk] }).noteReady.done s.pending) :=
      (congrArg (act s) hsignal).trans (act_next ..)
    refine ⟨hexec, _, hexec, ?_, fun n => ?_⟩
    · rw [done_sprigs]
      exact done_regsOnly (s := { s with layers := _, sprigs := _ }) rfl fun _ _ => rfl
    · rw [done_sprigs]; exact noteReady_sprig (s.modLayer ..) n
  · have hstep : exec (.chunkHandler entry .stepwise) s = .next ((u.chunkEnter l).done s.pending) :=
      (congrArg (act s) (chunkHandle_of_due .stepwise hl hdue hturn)).trans (act_next ..)
    refine ⟨hstep, (congrArg (act s) (chunkHandle_of_due .reference hl hdue hturn)).trans (act_next ..), _, hstep, ?_, ?_⟩
    · rw [done_layers]
      exact chunkEnter_running u l
    · obtain ⟨hjob, hentry, hl1, hnonfin, h0, h1, h2, h5⟩ := chunkEnter_sprig u l
      rw [done_sprigs, done_mem, chunkEnter_mem, chunkFeed_mem, noteReady_mem]
      exact ⟨hjob, hentry, hl1, hnonfin, h0, h1, h2, h5, rfl⟩
  · intro v
    exact (congrArg (act s) (statsBegin_of_due hl hrun hphase)).trans (act_next ..)
  · intro sum done
    refine ⟨fun hbad => ?_, fun hgood hcoll hclean => ?_, fun hgood hcoll hpoison => ?_⟩
    · exact (congrArg (act s) (statsEnd_of_bad hl hup hphase hbad)).trans (act_next ..)
    · exact (congrArg (act s) ((statsEnd_of_complete hl hup hphase hgood hcoll).trans
        (if_neg (by rw [hclean]; decide)))).trans (act_next ..)
    · exact (congrArg (act s) ((statsEnd_of_complete hl hup hphase hgood hcoll).trans (if_pos hpoison))).trans (act_next ..)

end Sys2Proof.Machine
end


section
/-!
Apply passes and the outcomes of layers (R254, R260, R262 to R266).
-/
namespace Sys2Proof.Machine

open State Sys2Proof.Safety

namespace State

/-! The APPLY handler (R255, R262, R265). -/

/-- The APPLY handler of a layer that is ready, in its turn: its waits are counted and its clip factor formed first. -/
theorem applyHandle_of_due {s : State} {entry : Nat} {l : Layer} (run : HandlerRun) (held readers : Nat)
    (hl : s.layerOf entry = some l) (hdue : s.noteReady.applyDue l = true) (hturn : s.noteReady.turnNow l = true) :
    s.applyHandle entry run held readers =
      match ((s.noteReady.inc Reg.UPD_HOLD_CYC_COUNT 0 held).inc Reg.UPD_READER_CYC_COUNT 0 readers).clipOf l with
      | (c, none) => (c.modLayer entry fun x => { x with phase := .applied, nonN2 := true }).noteReady
      | (c, some k) => match run with
        | .stepwise => (c.modLayer entry fun x => { x with k := k }).applyEnter { l with k := k }
        | .reference => (((c.modLayer entry fun x => { x with k := k }).applyEnter { l with k := k }).applyPass
            { l with k := k }).modSprig (homeSprig (((c.modLayer entry fun x => { x with k := k }).applyEnter
              { l with k := k }).peek entry 128)) fun x => { x with job := none } := by
  have hguard : ¬(!s.noteReady.applyDue l || !s.noteReady.turnNow l) = true := by rw [hdue, hturn]; decide
  rw [applyHandle, hl]
  exact if_neg hguard

/-- A state without its layers and UPDATEs. -/
def noUpds (s : State) : State := { s with layers := [], upds := [] }

/-- The forming of a clip factor reads the norm record, and changes layers and UPDATEs. -/
theorem clipOf_reads (s : State) (l : Layer) : (s.clipOf l).1.noUpds = s.noUpds ∨
    ∃ o : Op, (s.clipOf l).1.noUpds = (s.readRange (seqVia o.ring) (uNorm o.desc) 64).noUpds := by
  unfold clipOf
  split
  next o u ho hu =>
    split
    · exact .inl rfl
    · refine .inr ⟨o, ?_⟩
      dsimp only
      split <;> rfl
  next => exact .inl rfl

/-- The forming of a clip factor keeps memory, the macro-ops and the rings, and every field beside memory's and events'. -/
theorem clipOf_keeps (s : State) (l : Layer) : (s.clipOf l).1.mem = s.mem ∧ (s.clipOf l).1.ops = s.ops ∧
    (s.clipOf l).1.rings = s.rings ∧ ∀ (f : Field) (i : Nat), quietMem f i = true → (s.clipOf l).1.rd f i = s.rd f i := by
  obtain ⟨c, hc⟩ : ∃ c : State, c = (s.clipOf l).1 := ⟨_, rfl⟩
  have hreads := clipOf_reads s l
  rw [← hc] at hreads ⊢
  have hparts {u : State} (h : c.noUpds = u.noUpds) : c.mem = u.mem ∧ c.ops = u.ops ∧ c.rings = u.rings ∧ c.ctl = u.ctl :=
    ⟨(congrArg State.mem h :), (congrArg State.ops h :), (congrArg State.rings h :), (congrArg State.ctl h :)⟩
  rcases hreads with h | ⟨o, h⟩
  · obtain ⟨hmem, hops, hrings, hctl⟩ := hparts h
    exact ⟨hmem, hops, hrings, fun f i _ => rd_of_ctl hctl f i⟩
  · obtain ⟨hmem, hops, hrings, hctl⟩ := hparts h
    refine ⟨hmem.trans (readRange_mem _ _ _ (by simp [seqVia])), hops.trans (readRange_ops ..),
      hrings.trans (rings_of_noMem (readRange_noMem ..)), fun f i hq => ?_⟩
    rw [rd_of_ctl hctl, rd_readRange _ _ _ _ hq]

/-- A layer whose norm is not finite is skipped: its waits count, and of memory, the macro-ops and the rings nothing changes
(R262). -/
theorem applySkipped_shows (s : State) (l : Layer) (entry held readers : Nat) :
    let u := (s.noteReady.inc Reg.UPD_HOLD_CYC_COUNT 0 held).inc Reg.UPD_READER_CYC_COUNT 0 readers
    let t := ((u.clipOf l).1.modLayer entry fun x => { x with phase := .applied, nonN2 := true }).noteReady
    t.rd Reg.UPD_HOLD_CYC_COUNT 0 = (s.rd Reg.UPD_HOLD_CYC_COUNT 0 + held) % 2 ^ 64 ∧
      t.rd Reg.UPD_READER_CYC_COUNT 0 = (s.rd Reg.UPD_READER_CYC_COUNT 0 + readers) % 2 ^ 64 ∧
      (∀ x ∈ t.layers, x.entry = entry → x.phase = .applied ∧ x.nonN2 = true) ∧
      t.mem = s.mem ∧ t.ops = s.ops ∧ t.rings = s.rings := by
  intro u t
  obtain ⟨hmem, hops, hrings, hrd⟩ := clipOf_keeps u l
  obtain ⟨c, hc⟩ : ∃ c : State, c = (u.clipOf l).1 := ⟨_, rfl⟩
  have ht : t = (c.modLayer entry fun x => { x with phase := .applied, nonN2 := true }).noteReady := by rw [hc]
  have hctl : t.ctl = c.ctl := by rw [ht]; unfold noteReady; rfl
  have hwaits : t.mem = c.mem ∧ t.ops = c.ops ∧ t.rings = c.rings := by
    rw [ht]; unfold noteReady; exact ⟨rfl, rfl, rfl⟩
  have hlayers : t.layers = (c.modLayer entry fun x => { x with phase := .applied, nonN2 := true }).layers := by
    rw [ht]; unfold noteReady; rfl
  have hnoted : s.noteReady.ctl = s.ctl ∧ s.noteReady.mem = s.mem ∧ s.noteReady.ops = s.ops ∧ s.noteReady.rings = s.rings := by
    unfold noteReady; exact ⟨rfl, rfl, rfl, rfl⟩
  obtain ⟨htmem, htops, htrings⟩ := hwaits
  obtain ⟨hnctl, hnmem, hnops, hnrings⟩ := hnoted
  have hu : u = (s.noteReady.inc Reg.UPD_HOLD_CYC_COUNT 0 held).inc Reg.UPD_READER_CYC_COUNT 0 readers := rfl
  rw [← hc] at hmem hops hrings hrd
  rw [hu] at hmem hops hrings hrd
  refine ⟨?_, ?_, ?_, ?_, ?_, ?_⟩
  · rw [rd_of_ctl hctl, hrd _ _ (by decide), inc, rd_wr_other _ _ (by decide), inc, rd_wr_same _ _ _ _ (by decide),
      rd_of_ctl hnctl]
    rfl
  · rw [rd_of_ctl hctl, hrd _ _ (by decide), inc, rd_wr_same _ _ _ _ (by decide), inc, rd_wr_other _ _ (by decide),
      rd_of_ctl hnctl]
    rfl
  · rw [hlayers]
    exact modLayer_forall (p := fun x => x.phase = .applied ∧ x.nonN2 = true) fun _ => ⟨rfl, rfl⟩
  · rw [htmem, hmem, inc_mem, inc_mem, hnmem]
  · rw [htops, hops, inc_ops, inc_ops, hnops]
  · rw [htrings, hrings, inc_rings, inc_rings, hnrings]

/-! Outcomes (R264). -/

/-- What outcome x of a layer does before its arming entry is freed. -/
def outcomeTaken (s : State) (entry : Nat) (l : Layer) (x : Nat) : State :=
  let v := seqVia l.ring
  let slot := ringSlot l.ring
  let s := if x = 1 || x = 4 then s.flip v l x else s.setLstate v entry x
  match x with
  | 2 => (s.store v (entry + 28) (toBytes 4 0)).sageLayer slot l.index 0 true
  | 3 => ((s.opFlag l.op 7).inc Reg.UPD_GUARDED_COUNT 0 1).raiseAt 0x0802 l.ring (some slot) l.index l.step.toNat
  | 6 => s.opFlag l.op 1
  | 7 => s.opFlag l.op 5
  | _ => s

theorem layerOutcome_of_applied {s : State} {entry : Nat} {l : Layer} (hl : s.layerOf entry = some l) (hup : s.memUp = true)
    (hphase : l.phase = .applied) : s.layerOutcome entry = (s.outcomeTaken entry l (outcome l)).layerEnds l := by
  have hguard : ¬(!s.memUp || l.phase ≠ .applied) = true := by simp [hup, hphase]
  rw [layerOutcome, hl]
  exact if_neg hguard

/-- Every outcome is one of R264's. -/
theorem outcome_mem (l : Layer) : outcome l ∈ [1, 2, 3, 4, 6, 7] := by
  unfold outcome
  split_ifs <;> decide

theorem layerEnds_layerOf (s : State) (l : Layer) : (s.layerEnds l).layerOf l.entry = none := by
  have hlayers : (s.layerEnds l).layers = s.layers.filter fun x => !(x.entry == l.entry) := by
    unfold layerEnds; dsimp only; split <;> rfl
  rw [layerOf, hlayers, List.find?_eq_none]
  intro x hx
  simpa using (List.mem_filter.mp hx).2

end State

/-- Settles O51: the guard of each command's meaning holds, and what follows it is as stated. -/
theorem applyAndOutcomes : Obligations.ApplyAndOutcomes := by
  unfold Obligations.ApplyAndOutcomes
  intro s entry l held readers hl r u v slot out
  refine ⟨fun hdue hturn => ⟨fun c run hclip => ?_, fun c k hclip => ?_⟩, fun hup hphase => ?_⟩
  · have hexec : exec (.applyHandler entry run held readers) s =
        .next ((c.modLayer entry.toNat fun x => { x with phase := .applied, nonN2 := true }).noteReady.done s.pending) :=
      (congrArg (act s) ((applyHandle_of_due run held readers hl hdue hturn).trans (by rw [hclip]))).trans (act_next ..)
    obtain ⟨hhold, hreader, hlayers, hmem, hops, hrings⟩ := applySkipped_shows s l entry.toNat held readers
    have hc : (u.clipOf l).1 = c := congrArg Prod.fst hclip
    rw [hc] at hhold hreader hlayers hmem hops hrings
    refine ⟨hexec, _, hexec, ?_⟩
    rw [done_rd _ (by decide), done_rd _ (by decide), done_layers, done_mem, done_ops, done_rings]
    exact ⟨hhold, hreader, hlayers, hmem, hops, hrings⟩
  · intro w
    have hrun (run : HandlerRun) := applyHandle_of_due run held readers hl hdue hturn
    exact ⟨(congrArg (act s) ((hrun .stepwise).trans (by rw [hclip]))).trans (act_next ..),
      (congrArg (act s) ((hrun .reference).trans (by rw [hclip]))).trans (act_next ..)⟩
  · have hexec : exec (.layerOutcome entry) s = .next (((s.outcomeTaken entry.toNat l out).layerEnds l).done s.pending) :=
      (congrArg (act s) (layerOutcome_of_applied hl hup hphase)).trans (act_next ..)
    refine ⟨?_, fun hout => ?_, fun hout => ?_, fun hout => ?_, fun hout => ?_, outcome_mem l, _, hexec, ?_⟩
    · rintro (hout | hout)
      · rw [hexec, hout]; rfl
      · rw [hexec, hout]; rfl
    · rw [hexec, hout]; rfl
    · rw [hexec, hout]; rfl
    · rw [hexec, hout]; rfl
    · rw [hexec, hout]; rfl
    · rw [layerOf, done_layers, ← layerOf, ← layerOf_entry hl]
      exact layerEnds_layerOf _ l

end Sys2Proof.Machine
end


section
/-!
The withdrawal of an Anvil whose macro-op lists a serving Anvil beyond the four (R65).
-/
namespace Sys2Proof.Machine

open State Sys2Proof.Safety

/-- A tile of macro-op 1 that has failed its checks once. -/
def failedTile : Tile := ⟨1, 0, 0, 0, 1, 1, 1, 0, .score, 0⟩

/-- A run of it whose comparisons name a row and no column. -/
def failedRun : TileRun := ⟨failedTile, [], 0, 0, 0, false, 0, 0, ⟨[0], [], false⟩⟩

/-- A macro-op of attention whose one serving Anvil is listed as number 4. -/
def strayOp : Op := {
  id := 1, ring := 0, desc := 0x10, addr := 0, mds := [], shapes := [], scales := [], ctrs := [], reads := [], writes := []
  tracker := false, flags := 0, detail := 0, warm := false, outs := [], cycles := 0, serving := [4], seen := 0, olds := []
  lens := [], units := [], prog := [], blks := [], work := .tiles 1 }

/-- READY in Run, the run alone in the hold buffer of Anvil 0, and 8 live stripes where a fifth Anvil's status would stand. -/
def strayServed : State :=
  let s : State := { State.reset with
    pw := { State.powerReset with mode := .on, compute := true, flowOk := true }
    anv := State.reset.anv.set 0 { State.reset.anv[0] with hold := [failedRun] }
    ops := [strayOp] }
  (s.wr Reg.HRT_BOOT_STAGE 0 4).wr Reg.ANV_STATUS_LIVE_STRIPES 4 8

/-- The tiles in the list of Anvil 0 after a command. -/
def tilesQueued (x : Host.Outcome State Fault Refusal) : Nat := match x with
  | .next t => t.anv[0].queue.length
  | _ => 0

/-- The withdrawn Anvil takes back the tile it passes on: the macro-op's list names it by a number beyond the four. -/
theorem tilesQueued_check : tilesQueued (exec (.tileCheckDone 0 false) strayServed) = 1 := by decide +kernel

/-- Refutes O48: a second mismatch that names no column withdraws Anvil 0, and its tile goes to the Anvil that its macro-op
lists as number 4, whose status a stray word of the control space shows with 8 live stripes: that is Anvil 0 again, so its
list of tiles is not empty. -/
theorem not_tilesChecked : ¬ Obligations.TilesChecked := by
  unfold Obligations.TilesChecked
  intro h
  obtain ⟨-, -, -, -, -, -, hsecond⟩ := h strayServed 0 failedRun [] strayOp rfl (by decide +kernel) (by decide +kernel)
  obtain ⟨u, hu, -, -, -, -, -, hgone, -⟩ := hsecond (Or.inl (by decide)) (by decide)
  obtain ⟨⟨-, -, -, -, -, hqueue⟩, -⟩ := hgone rfl
  have hnone : tilesQueued (.next u) = 0 := congrArg List.length hqueue
  rw [← hu, tilesQueued_check] at hnone
  exact absurd hnone (by decide)

end Sys2Proof.Machine
end


section
/-!
What the feeders read for a tile, and count (R165, R206): memory, the Tongs' counters and Sage, but nothing of the Anvils.
-/
namespace Sys2Proof.Machine.State

open Sys2Proof.Safety

/-- The counters that the feeders of an Anvil keep. -/
def feedCounters : List Field := [Reg.ANV_TONGS_TILES_COUNT, Reg.ANV_TONGS_EXPAND_COUNT, Reg.ANV_TONGS_RQ_BLOCKS_COUNT,
  Reg.ANV_META_BAD_COUNT]

/-- A value of the state that the feeding of a tile keeps. -/
structure KeptByFeed {γ : Type} (g : State → γ) : Prop where
  readLine  : ∀ (s : State) (v : Via) (l : Nat), g (s.readLine v l) = g s
  readRange : ∀ (s : State) (v : Via) (a n : Nat), g (s.readRange v a n) = g s
  takeRange : ∀ (s : State) (a n : Nat), g (s.takeRange a n) = g s
  counted   : ∀ (s : State) (a : Fin 4) (n : Nat), ∀ f ∈ feedCounters, g (s.inc f a n) = g s
  home      : ∀ (s : State) (n : Nat), g (s.inc Reg.MEM_POISON_READS_COUNT 0 n) = g s ∧ g (s.inc Reg.MEM_WIN_HOME_LINES_COUNT 0 n) = g s
  modOp     : ∀ (s : State) (id : Nat) (f : Op → Op), g (s.modOp id f) = g s
  raise     : ∀ (s : State) (c u : Nat) (sl : Option (Fin 8)) (x : Nat), g (s.raise c u sl x) = g s
  report    : ∀ (s : State) (slot : Fin 8) (c : Nat) (notes : List ConvNote) (scales : List Nat), c < 21 → (∀ x ∈ scales, x < 256) →
    g (s.sageReport slot c notes scales) = g s

/-! Scale codes fill a byte (R84). -/

theorem blockScale_lt (md : Nat) (lt : Int) (heritage : Bool) (vs : List SVal) : blockScale md lt heritage vs < 256 := by
  have hzero (c : Prop) [Decidable c] (n : Nat) : (if c then 0 else min n 254) < 256 := by split <;> omega
  unfold blockScale
  dsimp only
  split
  · decide
  · split
    · exact hzero ..
    · exact hzero ..

/-- The scale codes that the presenting of a lane reports. -/
theorem lanePE_scales (s : State) (d : Nat) (x : Side) (k lane : Nat) : ∀ sc ∈ (s.lanePE d x k lane).2, sc < 256 := by
  unfold lanePE
  split
  · intro sc hsc
    simp only [requantLane, List.map_map, List.mem_map, Function.comp_apply] at hsc
    obtain ⟨b, -, rfl⟩ := hsc
    exact blockScale_lt ..
  · exact fun _ h => absurd h List.not_mem_nil

section
variable {γ : Type} {g : State → γ} (hk : KeptByFeed g)
include hk

theorem KeptByFeed.takeHint (s : State) (md a n : Nat) : g (s.takeHint md a n) = g s := by
  rw [State.takeHint]
  exact ite_keeps g _ (hk.takeRange ..) rfl

theorem KeptByFeed.feedRange (s : State) (o : Op) (i : Nat) (a : Fin 4) (v : Via) (lo n : Nat) :
    g (s.feedRange o i a v lo n) = g s := by
  unfold State.feedRange
  extract_lets die
  split
  · exact hk.readRange ..
  · refine ite_keeps g _ rfl (foldl_keeps g _ (fun t line => ?_) _ _)
    exact ite_keeps g _ (ite_keeps g _ (hk.home t 1).1 rfl) ((hk.readLine ..).trans (hk.home t 1).2)

/-- The reading of a region by line ranges keeps what the reading of each range keeps. -/
theorem KeptByFeed.readRegionBy {rd : State → Nat → Nat → State} (hrd : ∀ t a n, g (rd t a n) = g t) (s : State) (m : Mat)
    (r0 c0 h w : Nat) : g (State.readRegionBy rd s m r0 c0 h w) = g s := by
  have hboth (t : State) (a n : Nat) : g ((rd t a n).takeHint m.md a n) = g t := (hk.takeHint ..).trans (hrd ..)
  rw [State.readRegionBy]
  refine ite_keeps g _ rfl (foldl_keeps g _ (fun t i => ?_) _ _)
  exact (ite_keeps g (y := readElems rd m c0 w t i) _ (hboth ..) rfl).trans (hboth ..)

theorem KeptByFeed.readRegion (s : State) (v : Via) (m : Mat) (r0 c0 h w : Nat) : g (s.readRegion v m r0 c0 h w) = g s :=
  hk.readRegionBy (fun t a n => hk.readRange t v a n) s m r0 c0 h w

theorem KeptByFeed.readSide (s : State) (o : Op) (i : Nat) (an : Fin 4) (x : Side) (ks : List (Nat × Nat)) (l0 n : Nat) :
    g (s.readSide o i an x ks l0 n) = g s := by
  unfold State.readSide
  extract_lets m src v feed
  have hfeed (t : State) (a n : Nat) : g (feed t a n) = g t := hk.feedRange ..
  have hboth (t : State) (a n : Nat) : g ((feed t a n).takeHint m.md a n) = g t := (hk.takeHint ..).trans (hfeed ..)
  have hzmap (t : State) (r0 c0 h w : Nat) : g (readZmap feed t m r0 c0 h w) = g t :=
    foldl_keeps g _ (fun t (y : Nat × Nat) => hboth t y.1 y.2) _ _
  have hscales (t : State) (c0 w i : Nat) : g (readScales feed m c0 w t i) = g t := ite_keeps g _ (hboth ..) rfl
  split
  refine (foldl_keeps g _ (fun t y => ?_) _ _).trans (ite_keeps g _ (hzmap ..) rfl)
  dsimp only
  refine ite_keeps g _ rfl (ite_keeps g _ ?_ (hk.readRegionBy hfeed ..))
  refine (foldl_keeps g _ (fun t _ => hk.readRange t _ _ _) _ _).trans ?_
  refine (foldl_keeps g _ (fun t i => hscales t _ _ i) _ _).trans ?_
  exact foldl_keeps g _ (fun t (i : Nat) => hboth t _ _) _ _

theorem KeptByFeed.readRows (s : State) (o : Op) (m : Mat) (rows : List (Nat × Nat)) : g (s.readRows o m rows) = g s :=
  foldl_keeps g _ (fun t _ => hk.readRegion t _ _ _ _ _ _) _ _

theorem KeptByFeed.readKeys (s : State) (o : Op) (u : AttnUnit) (b : UBlk) (isV : Bool) (x0 n : Nat) :
    g (s.readKeys o u b isV x0 n) = g s := by
  unfold State.readKeys
  extract_lets d p m
  refine ite_keeps g _ (hk.readRegion ..) (foldl_keeps g _ (fun t y => ?_) _ _)
  split
  extract_lets lo hi
  split
  · rfl
  · exact ite_keeps g _ rfl (ite_keeps g _ ((hk.readRange ..).trans (hk.readRange ..)) ((hk.readRange ..).trans (hk.readRange ..)))

theorem KeptByFeed.pieceReads (s : State) (o : Op) (t : Tile) : g (s.pieceReads o t) = g s := by
  rw [State.pieceReads]
  split
  · rfl
  · split
    · exact (hk.readKeys ..).trans (hk.readRows ..)
    · exact (hk.readKeys ..).trans (hk.readRows ..)
    · exact hk.readKeys ..
    · exact hk.readRows ..
    · exact hk.readRows ..
    · exact hk.readKeys ..
    · rfl

theorem KeptByFeed.tongsReport (s : State) (o : Op) (x : Side) (a : Fin 4) (ks : List (Nat × Nat)) (l0 n : Nat) :
    g (s.tongsReport o x a ks l0 n) = g s := by
  unfold State.tongsReport
  extract_lets inRuns ls notes scales
  have hformat : mdFmt x.mat.md + 5 < 21 := Nat.add_lt_add_right (Nat.mod_lt _ (by decide)) 5
  have hscales : ∀ sc ∈ scales, sc < 256 := by
    intro sc hsc
    obtain ⟨l, hl, hscl⟩ := List.mem_flatMap.mp hsc
    obtain ⟨y, hy, rfl⟩ := List.mem_map.mp hscl
    obtain ⟨lane, -, rfl⟩ := List.mem_map.mp hl
    obtain ⟨-, hlt, hget⟩ := List.mem_zipIdx (List.mem_filter.mp hy).1
    exact lanePE_scales _ _ _ _ _ _ (hget ▸ List.getElem_mem _)
  exact ite_keeps g _ rfl ((hk.counted _ _ _ _ (by decide)).trans (hk.report _ _ _ _ _ hformat hscales))

theorem KeptByFeed.gemmFeed (s : State) (o : Op) (t : Tile) (a : Fin 4) : g (s.gemmFeed o t a) = g s := by
  unfold State.gemmFeed
  extract_lets x y tiles expanded ks reported n counted told src prior
  have htiles : g tiles = g s := ite_keeps g _ (hk.counted _ _ _ _ (by decide)) rfl
  have hexpanded : g expanded = g s := ite_keeps g _ ((hk.counted _ _ _ _ (by decide)).trans htiles) htiles
  have hreported : g reported = g s := (hk.tongsReport ..).trans ((hk.tongsReport ..).trans hexpanded)
  have hcounted : g counted = g s := (hk.counted _ _ _ _ (by decide)).trans hreported
  have htold : g told = g s := ite_keeps g _ ((hk.raise ..).trans ((hk.modOp ..).trans hcounted)) hcounted
  have hprior : g prior = g s := ite_keeps g _ ((hk.readRegion ..).trans htold) htold
  exact (hk.readSide ..).trans ((hk.readSide ..).trans hprior)

theorem KeptByFeed.feedTile (s : State) (o : Op) (t : Tile) (a : Fin 4) : g (s.feedTile o t a) = g s := by
  rw [State.feedTile]
  exact ite_keeps g _ (hk.gemmFeed ..) (hk.pieceReads ..)

end

/-! The Anvils, and their status words. -/

theorem sageReport_noCtl (s : State) (slot : Fin 8) (c : Nat) (notes : List ConvNote) (scales : List Nat) :
    (s.sageReport slot c notes scales).noCtl = s.noCtl := by
  have hcount (t : State) (a n : Nat) : (t.countAt a n).noCtl = t.noCtl := ite_keeps noCtl _ rfl (setWordsAt_noCtl ..)
  have hbins (t : State) (b : Nat) : (scales.foldl (fun s x => s.binAt (b + 0x30 + 4 * (x / 16))) t).noCtl = t.noCtl :=
    foldl_keeps noCtl _ (fun (s : State) x => setWord_noCtl s _ _) _ _
  simp only [sageReport, hcount, hbins]

theorem keptByFeed_anv : KeptByFeed State.anv where
  readLine _ _ _ := by rw [eq_of_noMem (readLine_noMem ..)]
  readRange _ _ _ _ := by rw [eq_of_noMem (readRange_noMem ..)]
  takeRange _ _ _ := by rw [eq_of_noMem (takeRange_noMem ..)]
  counted _ _ _ _ _ := inc_anv ..
  home _ _ := ⟨inc_anv .., inc_anv ..⟩
  modOp _ _ _ := rfl
  raise _ _ _ _ _ := raise_anv ..
  report _ _ _ _ _ _ _ := anv_of_noCtl (sageReport_noCtl ..)

theorem takeRange_word (s : State) (a n : Nat) {b : Nat} : (s.takeRange a n).word b = s.word b := by
  refine foldl_keeps (word · b) _ (fun t x => ?_) _ _
  have hput (y : State) (m : Nat) : ((y.mergeLine x.1 x.2.1 m).unfill x.1).word b = y.word b := by
    rw [unfill_word, mergeLine_word]
  exact ite_keeps (word · b) _ (ite_keeps (word · b) _ ((setPoison_word ..).trans (hput ..)) (hput ..)) rfl

/-- Sage's counts of conversions lie below the Anvils' registers. -/
theorem sageReport_word (s : State) (slot : Fin 8) {c : Nat} (notes : List ConvNote) {scales : List Nat} {b : Nat} (hc : c < 21)
    (hscales : ∀ x ∈ scales, x < 256) (hb : 0x036000 ≤ b) : (s.sageReport slot c notes scales).word b = s.word b := by
  have hslot := slot.isLt
  have hrec : sageRec slot c + 0x180 ≤ b := by simp only [sageRec, sageBase]; omega
  have hcount (t : State) (n k : Nat) (hk : k ≤ 0x70) : (t.countAt (sageRec slot c + k) n).word b = t.word b :=
    ite_keeps (word · b) _ rfl (word_setWordsAt_other _ _ (by omega))
  have hbins : ∀ (l : List Nat) (t : State), (∀ x ∈ l, x < 256) →
      (l.foldl (fun s x => s.binAt (sageRec slot c + 0x30 + 4 * (x / 16))) t).word b = t.word b := by
    intro l
    induction l with
    | nil => exact fun _ _ => rfl
    | cons x l ih =>
      intro t hl
      have hx := hl x (List.mem_cons_self ..)
      rw [List.foldl_cons, ih _ fun y hy => hl y (List.mem_cons_of_mem _ hy), binAt, word_setWord_other _ _ (by omega)]
  rw [sageReport]
  dsimp only
  rw [hcount _ _ 0x70 (by omega), hbins _ _ hscales, hcount _ _ 0x28 (by omega), hcount _ _ 0x20 (by omega),
    hcount _ _ 0x18 (by omega), hcount _ _ 0x10 (by omega), hcount _ _ 0x08 (by omega)]
  exact hcount s _ 0 (by omega)

/-- Whether a field lies above Sage's counts, outside memory's and events' words, and is none of the feeders' counters. -/
def apartFromFeed (f : Field) (i : Nat) : Prop :=
  quietMem f i = true ∧ 0x036000 ≤ fieldAddr f i ∧ ∀ g ∈ feedCounters, ∀ a : Fin 4, apart g a f i = true

theorem keptByFeed_rd {f : Field} {i : Nat} (h : apartFromFeed f i) : KeptByFeed (State.rd · f i) := by
  obtain ⟨hmem, hhigh, hcount⟩ := h
  have hbeyond {b : Nat} (h1 : fieldAddr f i ≤ b) (h2 : b < fieldAddr f i + 4 * fieldWords f) : beyondMem b :=
    beyondMem_of_quietMem hmem h1 h2
  have hquiet : quiet f i = true := by
    simp only [quietMem, Bool.and_eq_true] at hmem
    exact hmem.1
  exact {
    readLine := fun s v l => rd_congr fun b h1 h2 => readLine_word s v l (hbeyond h1 h2)
    readRange := fun s v a n => rd_readRange s v a n hmem
    takeRange := fun s a n => rd_congr fun b _ _ => takeRange_word s a n
    counted := fun s a n g hg => rd_wr_other _ _ (hcount g hg a)
    home := fun s n => ⟨rd_congr fun b h1 h2 => word_wr_beyondMem _ (hbeyond h1 h2) (by decide),
      rd_congr fun b h1 h2 => word_wr_beyondMem _ (hbeyond h1 h2) (by decide)⟩
    modOp := fun _ _ _ => rd_with_ops ..
    raise := fun _ _ _ _ _ => rd_raise _ _ _ _ _ hquiet
    report := fun s slot c notes scales hc hscales => rd_congr fun b h1 _ =>
      sageReport_word s slot notes hc hscales (hhigh.trans h1) }

/-- A field of an Anvil's status is none that the feeders change. -/
theorem apartFromFeed_status (a : Fin 4) : ∀ f ∈ [Reg.ANV_STATUS_STATE, Reg.ANV_STATUS_SLOT, Reg.ANV_STATUS_STREAM,
    Reg.ANV_STATUS_DIE_OF_STREAM], apartFromFeed f a := by
  unfold apartFromFeed
  revert a
  decide

theorem rd_feedTile (s : State) (o : Op) (t : Tile) (b a : Fin 4) {f : Field} (hf : f ∈ [Reg.ANV_STATUS_STATE,
    Reg.ANV_STATUS_SLOT, Reg.ANV_STATUS_STREAM, Reg.ANV_STATUS_DIE_OF_STREAM]) : (s.feedTile o t b).rd f a = s.rd f a :=
  (keptByFeed_rd (apartFromFeed_status a f hf)).feedTile s o t b

end Sys2Proof.Machine.State
end


section
/-!
Tiles start and end, entries end, and fence rows are programmed (R51, R54, R66, R154 to R157, R407).
-/
namespace Sys2Proof.Machine

open State Sys2Proof.Safety

namespace State

/-! An Anvil asked for its operating point (R402). -/

theorem repoint_ctl (s : State) (a : Fin 4) : (s.repoint a).ctl = s.ctl := by
  unfold repoint
  dsimp only
  split
  · rfl
  · split
    · rfl
    · rfl

/-- A change of point asked for changes the PLL's switch alone. -/
theorem repoint_anv (s : State) (a : Fin 4) : ∃ p, (s.repoint a).anv = s.anv.set a { s.anv[a] with pll := p } := by
  unfold repoint
  dsimp only
  split
  · exact ⟨_, rfl⟩
  · split
    · exact ⟨s.anv[a].pll, (Vector.set_getElem_self _).symm⟩
    · exact ⟨_, rfl⟩

/-! A tile enters the array (R154, R407). -/

/-- An Anvil whose array a run has entered, after the wait of R407. -/
def entered (s : State) (o : Op) (a : Fin 4) (entry : Nat) (again : Bool) (t : Tile) (faults : List CellFault) : Anvil :=
  let x := s.anv[a]
  { x with
    array := some (s.runTile o t (s.liveCols a) faults), loan := if entry = s.itabPos a then none else some entry, worked := true
    reqPt := s.tilePoint o, rerun := x.rerun.erase t, queue := if again then x.queue else x.queue.erase t
    charge := x.charge + (s.enterWait a).1, count := x.count + (s.enterWait a).1, duty := (s.enterWait a).2 }

theorem chargeTile_anv (s : State) (a : Fin 4) (o : Op) (cycles held duty : Nat) : (s.chargeTile a o cycles held duty).anv =
    s.anv.set a { s.anv[a] with charge := s.anv[a].charge + (cycles + held), count := s.anv[a].count + (cycles + held), duty := duty } :=
  inc_anv ..

/-- The state in which a tile has entered the array and its Anvil shows it, before its operands are read. -/
def arrayTaken (s : State) (o : Op) (a : Fin 4) (entry : Nat) (again : Bool) (t : Tile) (faults : List CellFault) : State :=
  let y := s.entered o a entry again t faults
  let s := s.chargeTile a o 0 (s.enterWait a).1 (s.enterWait a).2
  let s := { s with anv := s.anv.set a y }
  let s := (s.wr Reg.ANV_STATUS_STATE a (if again then 2 else 1)).wr Reg.ANV_STATUS_SLOT a o.slot.val
  (s.wr Reg.ANV_STATUS_STREAM a (ringStream o.ring)).wr Reg.ANV_STATUS_DIE_OF_STREAM a o.die.val

section
variable (s : State) (o : Op) (a : Fin 4) (entry : Nat) (again : Bool) (t : Tile) (faults : List CellFault)

theorem tileEnters_eq : s.tileEnters o a entry again t faults =
    ((s.arrayTaken o a entry again t faults).feedTile o t a).repoint a := by
  obtain ⟨u, hu⟩ : ∃ u : State, u = s.chargeTile a o 0 (s.enterWait a).1 (s.enterWait a).2 := ⟨_, rfl⟩
  have hx : u.anv[a] = { s.anv[a] with
      charge := s.anv[a].charge + (s.enterWait a).1, count := s.anv[a].count + (s.enterWait a).1, duty := (s.enterWait a).2 } := by
    rw [hu, chargeTile_anv, Nat.zero_add]; exact Vector.getElem_set_self _
  have htaken : (u.modAnv a fun x => { x with
      array := some (s.runTile o t (s.liveCols a) faults), loan := if entry = s.itabPos a then none else some entry, worked := true
      reqPt := s.tilePoint o, rerun := x.rerun.erase t, queue := if again then x.queue else x.queue.erase t }) =
      { u with anv := u.anv.set a (s.entered o a entry again t faults) } := by rw [modAnv, hx]; rfl
  simp only [tileEnters, arrayTaken, ← hu, htaken]

theorem arrayTaken_anv : (s.arrayTaken o a entry again t faults).anv = s.anv.set a (s.entered o a entry again t faults) := by
  simp only [arrayTaken, wr_anv, chargeTile_anv, Vector.set_set]

theorem tileEnters_anv :
    ∃ p, (s.tileEnters o a entry again t faults).anv = s.anv.set a { s.entered o a entry again t faults with pll := p } := by
  obtain ⟨p, hp⟩ := repoint_anv ((s.arrayTaken o a entry again t faults).feedTile o t a) a
  refine ⟨p, ?_⟩
  rw [tileEnters_eq, hp, keptByFeed_anv.feedTile, arrayTaken_anv, Vector.set_set]
  simp

/-- What an Anvil's status shows of the tile that entered. -/
theorem tileEnters_status :
    (s.tileEnters o a entry again t faults).rd Reg.ANV_STATUS_STATE a = (if again then 2 else 1) ∧
    (s.tileEnters o a entry again t faults).rd Reg.ANV_STATUS_SLOT a = o.slot.val ∧
    (s.tileEnters o a entry again t faults).rd Reg.ANV_STATUS_STREAM a = ringStream o.ring ∧
    (s.tileEnters o a entry again t faults).rd Reg.ANV_STATUS_DIE_OF_STREAM a = o.die.val := by
  have hread {f : Field} (hf : f ∈ [Reg.ANV_STATUS_STATE, Reg.ANV_STATUS_SLOT, Reg.ANV_STATUS_STREAM,
      Reg.ANV_STATUS_DIE_OF_STREAM]) :
      (s.tileEnters o a entry again t faults).rd f a = (s.arrayTaken o a entry again t faults).rd f a := by
    rw [tileEnters_eq, rd_of_ctl (repoint_ctl ..), rd_feedTile _ _ _ _ _ hf]
  have happart : ∀ a : Fin 4, apart Reg.ANV_STATUS_SLOT a Reg.ANV_STATUS_STATE a = true ∧
      apart Reg.ANV_STATUS_STREAM a Reg.ANV_STATUS_STATE a = true ∧ apart Reg.ANV_STATUS_DIE_OF_STREAM a Reg.ANV_STATUS_STATE a = true ∧
      apart Reg.ANV_STATUS_STREAM a Reg.ANV_STATUS_SLOT a = true ∧ apart Reg.ANV_STATUS_DIE_OF_STREAM a Reg.ANV_STATUS_SLOT a = true ∧
      apart Reg.ANV_STATUS_DIE_OF_STREAM a Reg.ANV_STATUS_STREAM a = true := by decide
  obtain ⟨hslotState, hstreamState, hdieState, hstreamSlot, hdieSlot, hdieStream⟩ := happart a
  have hstream : ∀ r : RingId, ringStream r % 4 = ringStream r := by decide
  refine ⟨?_, ?_, ?_, ?_⟩
  · rw [hread (by simp), arrayTaken]
    rw [rd_wr_other _ _ hdieState, rd_wr_other _ _ hstreamState, rd_wr_other _ _ hslotState, rd_wr_same _ _ _ _ (by decide)]
    cases again <;> rfl
  · rw [hread (by simp), arrayTaken]
    rw [rd_wr_other _ _ hdieSlot, rd_wr_other _ _ hstreamSlot, rd_wr_same _ _ _ _ (by decide)]
    exact Nat.mod_eq_of_lt o.slot.isLt
  · rw [hread (by simp), arrayTaken]
    rw [rd_wr_other _ _ hdieStream, rd_wr_same _ _ _ _ (by decide)]
    exact hstream o.ring
  · rw [hread (by simp), arrayTaken]
    rw [rd_wr_same _ _ _ _ (by decide)]
    exact Nat.mod_eq_of_lt o.die.isLt

end

/-! An Anvil that starts a tile. -/

section
variable {s : State} {a : Fin 4} {i : Nat} {again : Bool} {t : Tile} {o : Op} (hrun : s.running = true)
  (hin : s.withdrawn a = false) (hpll : s.pllGated a = false) (hidle : s.anv[a].array = none)
  (hserves : s.serves a = some (i, again, t)) (ho : s.opOf t.op = some o)
include hrun hin hpll hidle hserves ho

theorem tileBegins_of_tile (faults : List CellFault) (hkind : t.kind ≠ .unit) :
    s.tileBegins a faults = s.tileEnters o a i again t faults := by
  have hguard : ¬(!s.running || s.withdrawn a.val || s.anv[a].array.isSome || s.pllGated a) = true := by
    rw [hrun, hin, hpll, hidle]; decide
  simp only [tileBegins, if_neg hguard, hserves, ho, if_pos hkind]

theorem tileBegins_of_unit (faults : List CellFault) (hkind : t.kind = .unit) {v : State} {p : Tile} {o' : Op}
    (hcut : s.cutNext o a t = (v, some p)) (ho' : v.opOf t.op = some o') :
    s.tileBegins a faults = v.tileEnters o' a i again p faults := by
  have hguard : ¬(!s.running || s.withdrawn a.val || s.anv[a].array.isSome || s.pllGated a) = true := by
    rw [hrun, hin, hpll, hidle]; decide
  simp only [tileBegins, if_neg hguard, hserves, ho, if_neg (not_not_intro hkind), hcut, ho']

end

/-! Counters of an Anvil raised one after another. -/

/-- Counters of an Anvil, each raised by its number. -/
def countAll (s : State) (a : Fin 4) (l : List (Field × Nat)) : State := l.foldl (fun s y => s.inc y.1 a y.2) s

theorem countAll_noCtl (s : State) (a : Fin 4) (l : List (Field × Nat)) : (s.countAll a l).noCtl = s.noCtl :=
  foldl_keeps noCtl _ (fun (t : State) (y : Field × Nat) => inc_noCtl t y.1 a y.2) _ _

theorem rd_countAll_other (s : State) {a : Fin 4} {l : List (Field × Nat)} {f : Field} {i : Nat}
    (h : ∀ g ∈ l.map (·.1), apart g a f i = true) : (s.countAll a l).rd f i = s.rd f i := by
  induction l generalizing s with
  | nil => rfl
  | cons y l ih =>
    rw [countAll, List.foldl_cons, ← countAll, ih _ fun g hg => h g (List.mem_cons_of_mem _ hg), inc,
      rd_wr_other _ _ (h y.1 (List.mem_cons_self ..))]

/-- A counter that stands once in the list, apart from the others, rises by its number. -/
theorem rd_countAll_mem (s : State) {a : Fin 4} {l : List (Field × Nat)} {f : Field} {n : Nat} (hf : 0 < f.len)
    (hl : (l.map (·.1)).Pairwise fun f g => apart f a g a = true ∧ apart g a f a = true) (hmem : (f, n) ∈ l) :
    (s.countAll a l).rd f a = (s.rd f a + n) % 2 ^ f.len := by
  induction l generalizing s with
  | nil => exact absurd hmem List.not_mem_nil
  | cons y l ih =>
    obtain ⟨hy, hrest⟩ := List.pairwise_cons.mp hl
    rw [countAll, List.foldl_cons, ← countAll]
    rcases List.mem_cons.mp hmem with rfl | hin
    · rw [rd_countAll_other _ fun g hg => (hy g hg).2, inc]
      exact rd_wr_same _ _ _ _ hf
    · rw [ih _ hrest hin, inc, rd_wr_other _ _ (hy f (List.mem_map_of_mem hin)).1]

/-! A tile ends (R51, R52, R54, R532). -/

/-- The counters that the end of a tile raises. -/
def endCounts (run : TileRun) (tm : TileTiming) (late : Nat) : List (Field × Nat) :=
  [(Reg.ANV_BUSY_CYC_COUNT, (if tm.gap then 1024 else 0) + run.steps), (Reg.ANV_DRY_A_CYC_COUNT, tm.dryA + tm.dryBoth),
    (Reg.ANV_DRY_B_CYC_COUNT, tm.dryB + tm.dryBoth), (Reg.ANV_DRY_EVENTS_COUNT, tm.dryEvents),
    (Reg.ANV_DRAIN_WAIT_CYC_COUNT, run.holds + tm.holdWait), (Reg.ANV_ZSKIP_CHUNKS_COUNT, run.skipped),
    (Reg.ANV_TONGS_LATE_CYC_COUNT, late)]

/-- What the issue duty holds of a tile that ends, and the duty then in force (R407). -/
def endDuty (s : State) (a : Fin 4) (run : TileRun) (tm : TileTiming) : Nat × Nat :=
  dutyRun s.anv[a].duty (s.rd Reg.PWR_STATUS_DUTY 0) s.anv[a].count tm.early (tileCycles run tm)

/-- The state that the end of a tile leaves. -/
def tileEnded (s : State) (a : Fin 4) (run : TileRun) (o : Op) (tm : TileTiming) : State :=
  let late := if isGemm o.desc && (gemmTa o.desc || gemmTb o.desc) then tm.late else 0
  let u := s.chargeTile a o (tileCycles run tm) (s.endDuty a run tm).1 (s.endDuty a run tm).2
  (((u.modAnv a fun x => { x with array := none, hold := x.hold ++ [run] }).countAll a (endCounts run tm late)).sageOvf o.slot
    run.ovf).wr Reg.ANV_STATUS_STATE a 0

theorem tileEnds_of_run {s : State} {a : Fin 4} {run : TileRun} {o : Op} (tm : TileTiming) (hrun : s.running = true)
    (hpll : s.pllGated a = false) (harray : s.anv[a].array = some run)
    (hroom : s.anv[a].hold.length + s.anv[a].leaving.length < 4) (ho : s.opOf run.tile.op = some o) :
    s.tileEnds a tm = s.tileEnded a run o tm := by
  have hguard : ¬(!s.running || s.pllGated a || decide (4 ≤ s.anv[a].hold.length + s.anv[a].leaving.length)) = true := by
    rw [hrun, hpll, decide_eq_false (Nat.not_le.mpr hroom)]; decide
  rw [tileEnds, harray]
  refine (if_neg hguard).trans ?_
  simp only [ho, tileEnded, endCounts, endDuty, countAll, List.foldl_cons, List.foldl_nil]

section
variable (s : State) (a : Fin 4) (run : TileRun) (o : Op) (tm : TileTiming)

theorem sageOvf_noCtl (slot : Fin 8) (n : Nat) : (s.sageOvf slot n).noCtl = s.noCtl := ite_keeps noCtl _ rfl (setWordsAt_noCtl ..)

theorem rd_sageOvf (slot : Fin 8) (n : Nat) {f : Field} {i : Nat} (h : 0x036000 ≤ fieldAddr f i) :
    (s.sageOvf slot n).rd f i = s.rd f i := by
  have hslot := slot.isLt
  exact ite_keeps (rd · f i) _ rfl (rd_congr fun b h1 _ => word_setWordsAt_other _ _ (by simp only [sageBase]; omega))

/-- A state with cycles charged to an Anvil, a macro-op and its energy tag (R154, R424). -/
def charged (s : State) (a : Fin 4) (o : Op) (n duty : Nat) : State :=
  { s with
    anv := s.anv.set a { s.anv[a] with charge := s.anv[a].charge + n, count := s.anv[a].count + n, duty := duty }
    ops := s.ops.map fun y => if y.id = o.id then { y with cycles := y.cycles + n } else y
    pw := { s.pw with
      charged := Tab.set (fun _ => 0) s.pw.charged (chargeKey a o) (Tab.get (fun _ => 0) s.pw.charged (chargeKey a o) + n) } }

theorem chargeTile_eq (cycles held duty : Nat) : s.chargeTile a o cycles held duty =
    (s.charged a o (cycles + held) duty).inc Reg.PWR_THROTTLE_CYC_COUNT 0 held := rfl

theorem rd_charged (n duty : Nat) (f : Field) (i : Nat) : (s.charged a o n duty).rd f i = s.rd f i :=
  rd_of_ctl (s := s) (t := s.charged a o n duty) rfl f i

theorem modAnv_noCtl_congr {s t : State} (h : t.noCtl = s.noCtl) (a : Fin 4) (f : Anvil → Anvil) :
    (t.modAnv a f).noCtl = (s.modAnv a f).noCtl := by rw [eq_of_noCtl h]; rfl

/-- A tile that ends changes, besides registers, its Anvil, the cycles of its macro-op and those kept for energy. -/
theorem tileEnded_noCtl : (s.tileEnded a run o tm).noCtl =
    ((s.charged a o (tileCycles run tm + (s.endDuty a run tm).1) (s.endDuty a run tm).2).modAnv a fun x =>
      { x with array := none, hold := x.hold ++ [run] }).noCtl := by
  rw [tileEnded, wr_noCtl, sageOvf_noCtl, countAll_noCtl, chargeTile_eq]
  exact modAnv_noCtl_congr (inc_noCtl ..) a _

theorem tileEnded_anv : (s.tileEnded a run o tm).anv = s.anv.set a { s.anv[a] with
    array := none, hold := s.anv[a].hold ++ [run], charge := s.anv[a].charge + (tileCycles run tm + (s.endDuty a run tm).1),
    count := s.anv[a].count + (tileCycles run tm + (s.endDuty a run tm).1), duty := (s.endDuty a run tm).2 } := by
  rw [anv_of_noCtl (tileEnded_noCtl s a run o tm), modAnv]
  have hset (x : Anvil) (f : Anvil → Anvil) : (s.anv.set a x).set a (f (s.anv.set a x)[a]) = s.anv.set a (f x) := by
    rw [show (s.anv.set a x)[a] = x from Vector.getElem_set_self _, Vector.set_set]
  exact hset _ fun x => { x with array := none, hold := x.hold ++ [run] }

/-- A counter of the Anvil's that the end of a tile raises. -/
theorem tileEnded_count {f : Field} {n : Nat} (hf : 0 < f.len) (hhigh : 0x036000 ≤ fieldAddr f a)
    (hstate : apart Reg.ANV_STATUS_STATE a f a = true) (hheld : apart Reg.PWR_THROTTLE_CYC_COUNT 0 f a = true)
    (hmem : ∀ late, (f, n) ∈ endCounts run tm late) :
    (s.tileEnded a run o tm).rd f a = (s.rd f a + n) % 2 ^ f.len := by
  have hpairs : ∀ a : Fin 4, ([Reg.ANV_BUSY_CYC_COUNT, Reg.ANV_DRY_A_CYC_COUNT, Reg.ANV_DRY_B_CYC_COUNT,
      Reg.ANV_DRY_EVENTS_COUNT, Reg.ANV_DRAIN_WAIT_CYC_COUNT, Reg.ANV_ZSKIP_CHUNKS_COUNT, Reg.ANV_TONGS_LATE_CYC_COUNT]).Pairwise
      fun f g => apart f a g a = true ∧ apart g a f a = true := by decide
  rw [tileEnded, rd_wr_other _ _ hstate, rd_sageOvf _ _ _ hhigh, rd_countAll_mem _ hf (hpairs a) (hmem _)]
  rw [modAnv, rd_with_anv, chargeTile_eq, inc, rd_wr_other _ _ hheld, rd_charged]

theorem tileEnded_state : (s.tileEnded a run o tm).rd Reg.ANV_STATUS_STATE a = 0 := by
  rw [tileEnded, rd_wr_same _ _ _ _ (by decide)]
  rfl

theorem tileEnded_throttle : (s.tileEnded a run o tm).rd Reg.PWR_THROTTLE_CYC_COUNT 0 =
    (s.rd Reg.PWR_THROTTLE_CYC_COUNT 0 + (s.endDuty a run tm).1) % 2 ^ 64 := by
  have hcounts : ∀ a : Fin 4, ∀ g ∈ [Reg.ANV_BUSY_CYC_COUNT, Reg.ANV_DRY_A_CYC_COUNT, Reg.ANV_DRY_B_CYC_COUNT,
      Reg.ANV_DRY_EVENTS_COUNT, Reg.ANV_DRAIN_WAIT_CYC_COUNT, Reg.ANV_ZSKIP_CHUNKS_COUNT, Reg.ANV_TONGS_LATE_CYC_COUNT],
      apart g a Reg.PWR_THROTTLE_CYC_COUNT 0 = true := by decide
  have hstate : ∀ a : Fin 4, apart Reg.ANV_STATUS_STATE a Reg.PWR_THROTTLE_CYC_COUNT 0 = true := by decide
  have hother (u : State) (late : Nat) : (u.countAll a (endCounts run tm late)).rd Reg.PWR_THROTTLE_CYC_COUNT 0 =
      u.rd Reg.PWR_THROTTLE_CYC_COUNT 0 := rd_countAll_other u (hcounts a)
  rw [tileEnded, rd_wr_other _ _ (hstate a), rd_sageOvf _ _ _ (by decide), hother, modAnv, rd_with_anv, chargeTile_eq, inc,
    rd_wr_same _ _ _ _ (by decide), rd_charged]
  rfl

end

/-! An interleave entry ends (R154, R155, R157). -/

/-- Gated cycles are charged to the Anvil and to the entry's slot, and change nothing else. -/
theorem chargeGated_shows (s : State) (a : Fin 4) (n : Nat) :
    let x := s.anv[a]
    let g := s.chargeGated a n
    let k := entSlot (s.itabEntry a (s.itabPos a)) * 8
    (∃ d, g.anv = s.anv.set a { x with charge := x.charge + n, count := x.count + n, duty := d }) ∧
      g = { s with anv := g.anv, pw := { s.pw with gated := g.pw.gated }, free := g.free } ∧
      ∃ p, p < 5 ∧ Tab.get (fun _ => 0) g.pw.gated (k + p) = Tab.get (fun _ => 0) s.pw.gated (k + p) + n := by
  intro x g k
  by_cases hn : n = 0
  · have hg : g = s := if_pos hn
    rw [hg, hn]
    exact ⟨⟨x.duty, (Vector.set_getElem_self _).symm⟩, rfl, 0, by decide, rfl⟩
  · have hchosen : s.choose 5 < 5 := Nat.mod_lt _ (by decide)
    have hg : g.pw.gated = Tab.set (fun _ => 0) s.pw.gated (k + s.choose 5) (Tab.get (fun _ => 0) s.pw.gated (k + s.choose 5) + n) := by
      simp only [g, chargeGated, if_neg hn]; rfl
    refine ⟨⟨if x.count / 256 = (x.count + n) / 256 then dutyAt x.duty (s.rd Reg.PWR_STATUS_DUTY 0) x.count
        else s.rd Reg.PWR_STATUS_DUTY 0, ?_⟩, ?_, s.choose 5, hchosen, ?_⟩
    · simp only [g, chargeGated, if_neg hn]; rfl
    · simp only [g, chargeGated, if_neg hn]; rfl
    · rw [hg, Tab.get_set_same]

/-- The pointer of an Anvil, once set. -/
theorem itabPos_setItabPos (s : State) (a : Fin 4) {v : Nat} (hv : v < 2 ^ 12) : (s.setItabPos a v).itabPos a = v := by
  rw [itabPos, setItabPos]
  split
  · rw [rd_wr_same _ _ _ _ (by decide)]; exact Nat.mod_eq_of_lt hv
  · rw [rd_wr_same _ _ _ _ (by decide)]; exact Nat.mod_eq_of_lt hv

theorem setItabPos_noCtl (s : State) (a : Fin 4) (v : Nat) : (s.setItabPos a v).noCtl = s.noCtl :=
  ite_keeps noCtl _ (wr_noCtl ..) (wr_noCtl ..)

theorem setItabPos_word (s : State) (a : Fin 4) (v : Nat) {b : Nat} (hb : b ∉ [0x020110 + 0x40 * (a.val / 2)]) :
    (s.setItabPos a v).word b = s.word b := by
  have hlo : ∀ a : Fin 4, Machine.State.within Reg.STR_ITAB_POS_POS_LO (a.val / 2) [0x020110 + 0x40 * (a.val / 2)] = true ∧
      Machine.State.within Reg.STR_ITAB_POS_POS_HI (a.val / 2) [0x020110 + 0x40 * (a.val / 2)] = true := by decide
  exact ite_keeps (word · b) _ (word_wr_listed hb (hlo a).1) (word_wr_listed hb (hlo a).2)

theorem itabPos_takeTable (s : State) (n a : Fin 4) : (s.takeTable n).itabPos a = s.itabPos a := by
  have happart : ∀ d : Fin 2, apartFromTable Reg.STR_ITAB_POS_POS_LO d ∧ apartFromTable Reg.STR_ITAB_POS_POS_HI d := by
    unfold apartFromTable; decide
  have hd : a.val / 2 = (⟨a.val / 2, by omega⟩ : Fin 2).val := rfl
  rw [itabPos, itabPos, hd, rd_takeTable _ _ (happart _).1, rd_takeTable _ _ (happart _).2]

/-- A part of an Anvil that a change of some Anvil keeps. -/
theorem anvil_set_keeps {γ : Type} (f : Anvil → γ) (v : Vector Anvil 4) (n a : Fin 4) {x : Anvil} (h : f x = f v[n]) :
    f (v.set n x)[a] = f v[a] := by
  by_cases hna : n = a
  · subst hna
    rw [show (v.set n x)[n] = x from Vector.getElem_set_self _, h]
  · rw [show (v.set n x)[a] = v[a] from Vector.getElem_set_ne _ _ (Fin.val_ne_of_ne hna)]

/-- A part of the Anvils beside whether they have switched stays when a die's table waits no longer. -/
theorem anvil_tableDone {γ : Type} (f : Anvil → γ) (hdone : ∀ x, f { x with switched := false } = f x) (s : State) (e : Die)
    (a : Fin 4) : f (s.tableDone e).anv[a] = f s.anv[a] := by
  have hhigh : f { s.anv[highAnvil e] with switched := false } =
      f (s.anv.set (lowAnvil e) { s.anv[lowAnvil e] with switched := false })[highAnvil e] := by
    rw [hdone, anvil_set_keeps f _ _ _ (hdone _)]
  rw [tableDone_anv, anvil_set_keeps f _ _ _ hhigh, anvil_set_keeps f _ _ _ (hdone _)]

/-- A part of the Anvils beside their tables and whether they have switched stays whatever an Anvil takes. -/
theorem anvil_takeTable {γ : Type} (f : Anvil → γ) (htable : ∀ x t lend, f { x with table := t, lend := lend, switched := true } = f x)
    (hdone : ∀ x, f { x with switched := false } = f x) (s : State) (n a : Fin 4) : f (s.takeTable n).anv[a] = f s.anv[a] :=
  takeTable_keeps (fun s => f s.anv[a]) (fun s n t lend => anvil_set_keeps f s.anv n a (htable ..))
    (fun s e => by rw [showTable_anv]) (fun s e => anvil_tableDone f hdone s e a) s n

theorem takeTable_of_none {s : State} {n : Fin 4} (h : s.seqr[anvilDie n].pending = none) : s.takeTable n = s := by
  unfold takeTable
  extract_lets d
  split
  next t lend hp => cases h.symm.trans hp
  next => rfl

/-- An Anvil takes the table that waits, where it has not switched yet. -/
theorem takeTable_takes {s : State} {n : Fin 4} {t : List Word} {lend : Bool}
    (hp : s.seqr[anvilDie n].pending = some (t, lend)) (hn : s.anv[n].switched = false) :
    (s.takeTable n).anv[n].table = t ∧ (s.takeTable n).anv[n].lend = lend := by
  have htaken : (s.withTable n t lend).anv[n] = { s.anv[n] with table := t, lend := lend, switched := true } :=
    Vector.getElem_set_self _
  have hshown : ((s.withTable n t lend).showTable (anvilDie n)).anv[n].table = t ∧
      ((s.withTable n t lend).showTable (anvilDie n)).anv[n].lend = lend := by
    rw [showTable_anv, htaken]; exact ⟨rfl, rfl⟩
  rw [takeTable_pending rfl hp hn, switchedBoth_eq]
  split
  · rw [anvil_tableDone Anvil.table (fun _ => rfl), anvil_tableDone Anvil.lend (fun _ => rfl)]
    exact hshown
  · exact hshown

/-- The entry that the pointer moves to when one ends. -/
def nextEntry (s : State) (a : Fin 4) : Nat := if s.anv[a].table.length ≤ s.itabPos a + 1 then 0 else s.itabPos a + 1

/-- The cycles for which an Anvil with no tile is gated as an entry ends. -/
def idleCycles (s : State) (a : Fin 4) (gated : Nat) : Nat :=
  let w := s.itabEntry a (s.itabPos a)
  if entStream w = 3 then entQuota w - s.anv[a].charge else if (s.serves a).isSome then 0 else gated

/-- The state in which an entry has ended and the pointer has moved, before a table is taken. -/
def pointerMoved (s : State) (a : Fin 4) (gated : Nat) : State :=
  ((s.chargeGated a (s.idleCycles a gated)).modAnv a fun x => { x with charge := 0, loan := none }).setItabPos a (s.nextEntry a)

section
variable {s : State} {a : Fin 4} (gated : Nat) (hrun : s.running = true) (hin : s.withdrawn a = false)
  (hidle : s.anv[a].array = none)
include hrun hin hidle

theorem entryEnds_of_idle : s.entryEnds a gated =
    if s.anv[a].charge + s.idleCycles a gated < entQuota (s.itabEntry a (s.itabPos a)) then s.chargeGated a (s.idleCycles a gated)
    else if s.nextEntry a = 0 then (s.pointerMoved a gated).takeTable a else s.pointerMoved a gated := by
  have hguard : ¬(!s.running || s.withdrawn a.val || s.anv[a].array.isSome) = true := by rw [hrun, hin, hidle]; decide
  exact if_neg hguard

end

/-- What the moving of the pointer leaves of its Anvil, and where it points. -/
theorem pointerMoved_shows (s : State) (a : Fin 4) (gated : Nat) (hn : s.anv[a].table.length ≤ 4096) :
    let g := s.chargeGated a (s.idleCycles a gated)
    let v := s.pointerMoved a gated
    v.itabPos a = s.nextEntry a ∧ v.anv = g.anv.set a { g.anv[a] with charge := 0, loan := none } ∧
      v.noCtl = ({ g with anv := g.anv.set a { g.anv[a] with charge := 0, loan := none } } : State).noCtl ∧
      v.seqr = s.seqr ∧ v.anv[a].switched = s.anv[a].switched ∧ v.anv[a].charge = 0 ∧ v.anv[a].loan = none ∧
      ∀ b, b ∉ [0x020110 + 0x40 * (a.val / 2)] → v.word b = g.word b := by
  intro g v
  have hnext : s.nextEntry a < 2 ^ 12 := by unfold nextEntry; split <;> omega
  obtain ⟨⟨d, hanv⟩, hg, -⟩ := chargeGated_shows s a (s.idleCycles a gated)
  have hv : v.noCtl = ({ g with anv := g.anv.set a { g.anv[a] with charge := 0, loan := none } } : State).noCtl :=
    setItabPos_noCtl ..
  have hvanv : v.anv = g.anv.set a { g.anv[a] with charge := 0, loan := none } := anv_of_noCtl hv
  have hself (x : Anvil) : (g.anv.set a x)[a] = x := Vector.getElem_set_self _
  have hga : g.anv[a].switched = s.anv[a].switched := by
    rw [show g.anv = _ from hanv]; exact anvil_set_keeps Anvil.switched s.anv a a rfl
  refine ⟨itabPos_setItabPos _ _ hnext, hvanv, hv, ?_, ?_, ?_, ?_, fun b hb => ?_⟩
  · rw [seqr_of_noCtl hv]; exact (congrArg State.seqr hg :)
  · rw [hvanv, hself]; exact hga
  · rw [hvanv, hself]
  · rw [hvanv, hself]
  · exact setItabPos_word _ _ _ hb

/-! A fence row is programmed (R66). -/

/-- A state whose present fence map stands in a further row. -/
def rowAdded (s : State) : State :=
  { s with fuses := { s.fuses with fences := s.fuses.fences ++ [BitVec.ofNat 64 s.fenceMap] } }

theorem programRow_of_new {s : State} (hpow : s.powered = true) (hnew : s.fenceMap ≠ s.rowMap) (hroom : s.fuses.fences.length < 64) :
    s.programRow = s.rowAdded.persist := by
  refine if_neg ?_
  rw [hpow, decide_eq_false hnew, decide_eq_false (Nat.not_le.mpr hroom)]
  decide

/-- A number put together from four of 9 bits, as a fence row is from the Anvils' fences. -/
def nineBits (x : Nat → Nat) : Nat := (List.range 4).foldl (fun m n => m + x n * 2 ^ (9 * n)) 0

theorem nineBits_eq (x : Nat → Nat) :
    nineBits x = 0 + x 0 * 2 ^ (9 * 0) + x 1 * 2 ^ (9 * 1) + x 2 * 2 ^ (9 * 2) + x 3 * 2 ^ (9 * 3) := by
  rw [nineBits, show List.range 4 = [0, 1, 2, 3] by decide, List.foldl_cons, List.foldl_cons, List.foldl_cons, List.foldl_cons,
    List.foldl_nil]

theorem nineBits_parts {x : Nat → Nat} (hx : ∀ n, x n < 512) {n : Nat} (hn : n < 4) :
    bits (nineBits x) (9 * n + 7) (9 * n) = x n % 256 ∧ bits (nineBits x) (9 * n + 8) (9 * n + 8) = x n / 256 := by
  have h0 := hx 0
  have h1 := hx 1
  have h2 := hx 2
  have h3 := hx 3
  rw [nineBits_eq]
  interval_cases n <;> simp only [bits, Nat.shiftRight_eq_div_pow, Nat.reduceMul, Nat.reduceAdd, Nat.reduceSub, Nat.reducePow] <;> omega

theorem nineBits_lt {x : Nat → Nat} (hx : ∀ n, x n < 512) : nineBits x < 2 ^ 64 := by
  have h0 := hx 0
  have h1 := hx 1
  have h2 := hx 2
  have h3 := hx 3
  simp only [nineBits_eq, Nat.reduceMul, Nat.reducePow]
  omega

/-- An Anvil's part of the fence map. -/
def fenceOf (s : State) (n : Nat) : Nat := s.rd Reg.ANV_FENCE_STRIPE n + 256 * s.rd Reg.ANV_FENCE_WITHDRAWN n

theorem fenceMap_eq (s : State) : s.fenceMap = nineBits s.fenceOf := rfl

theorem fenceOf_lt (s : State) (n : Nat) : s.fenceOf n < 512 := by
  have hstripe : s.rd Reg.ANV_FENCE_STRIPE n < 2 ^ 8 := rd_lt ..
  have hwd : s.rd Reg.ANV_FENCE_WITHDRAWN n < 2 ^ 1 := rd_lt ..
  rw [fenceOf]
  omega

/-- The bits of the fence map that an Anvil has. -/
theorem bits_fenceMap (s : State) {n : Nat} (hn : n < 4) :
    bits s.fenceMap (9 * n + 7) (9 * n) = s.rd Reg.ANV_FENCE_STRIPE n ∧
      bits s.fenceMap (9 * n + 8) (9 * n + 8) = s.rd Reg.ANV_FENCE_WITHDRAWN n := by
  have hstripe : s.rd Reg.ANV_FENCE_STRIPE n < 2 ^ 8 := rd_lt ..
  obtain ⟨hlow, hhigh⟩ := nineBits_parts s.fenceOf_lt hn
  rw [fenceMap_eq, hlow, hhigh, fenceOf]
  omega

/-- The fences that both places hold, as an Anvil shows them once brought up to date (R66). -/
theorem rd_persisted (s : State) {n : Nat} (hn : n < 4) :
    s.persist.rd Reg.ANV_FENCE_PERSISTED n = bits (s.fenceMap &&& s.heldMap) (9 * n + 7) (9 * n) ∧
      s.persist.rd Reg.ANV_FENCE_WD_PERSISTED n = bits (s.fenceMap &&& s.heldMap) (9 * n + 8) (9 * n + 8) := by
  have happart : ∀ k n : Fin 4, (apart Reg.ANV_FENCE_WD_PERSISTED k Reg.ANV_FENCE_PERSISTED n = true ∧
      apart Reg.ANV_FENCE_PERSISTED k Reg.ANV_FENCE_WD_PERSISTED n = true) ∧ (k ≠ n →
      apart Reg.ANV_FENCE_PERSISTED k Reg.ANV_FENCE_PERSISTED n = true ∧
      apart Reg.ANV_FENCE_WD_PERSISTED k Reg.ANV_FENCE_WD_PERSISTED n = true) := by decide
  obtain ⟨m, hm⟩ : ∃ m, m = s.fenceMap &&& s.heldMap := ⟨_, rfl⟩
  have hfold : ∀ l : List Nat, (∀ k ∈ l, k < 4) → n ∈ l → ∀ t : State, t = l.foldl (fun s n =>
      (s.wr Reg.ANV_FENCE_PERSISTED n (bits m (9 * n + 7) (9 * n))).wr Reg.ANV_FENCE_WD_PERSISTED n
        (bits m (9 * n + 8) (9 * n + 8))) s →
      t.rd Reg.ANV_FENCE_PERSISTED n = bits m (9 * n + 7) (9 * n) ∧
        t.rd Reg.ANV_FENCE_WD_PERSISTED n = bits m (9 * n + 8) (9 * n + 8) := by
    intro l
    induction l using List.reverseRecOn with
    | nil => exact fun _ h => absurd h List.not_mem_nil
    | append_singleton l k ih =>
      intro hl hin t ht
      obtain ⟨u, hu⟩ : ∃ u : State, u = l.foldl (fun s n =>
        (s.wr Reg.ANV_FENCE_PERSISTED n (bits m (9 * n + 7) (9 * n))).wr Reg.ANV_FENCE_WD_PERSISTED n
          (bits m (9 * n + 8) (9 * n + 8))) s := ⟨_, rfl⟩
      have hk : k < 4 := hl k (by simp)
      obtain ⟨⟨hcross, hcross'⟩, hne⟩ := happart ⟨k, hk⟩ ⟨n, hn⟩
      rw [List.foldl_append, ← hu, List.foldl_cons, List.foldl_nil] at ht
      by_cases hkn : k = n
      · rw [ht, ← hkn]
        obtain ⟨⟨hown, -⟩, -⟩ := happart ⟨k, hk⟩ ⟨k, hk⟩
        rw [rd_wr_other _ _ hown, rd_wr_same _ _ _ _ (by decide), rd_wr_same _ _ _ _ (by decide)]
        have hlow : bits m (9 * k + 7) (9 * k) < 2 ^ 8 := (Nat.mod_lt _ (by positivity)).trans_eq (congrArg (2 ^ ·) (by omega))
        have hhigh : bits m (9 * k + 8) (9 * k + 8) < 2 ^ 1 := (Nat.mod_lt _ (by positivity)).trans_eq (congrArg (2 ^ ·) (by omega))
        exact ⟨Nat.mod_eq_of_lt hlow, Nat.mod_eq_of_lt hhigh⟩
      · obtain ⟨hstripe, hwd⟩ := hne fun h => hkn (congrArg Fin.val h)
        have hrest := ih (fun y hy => hl y (List.mem_append_left _ hy)) (by simpa [Ne.symm hkn] using hin) u hu
        rw [ht, rd_wr_other _ _ hcross, rd_wr_other _ _ hstripe, rd_wr_other _ _ hwd, rd_wr_other _ _ hcross']
        exact hrest
  rw [persist, ← hm]
  exact hfold _ (fun k hk => List.mem_range.mp hk) (List.mem_range.mpr hn) _ rfl

theorem persist_word (s : State) {b : Nat} (hb : b ∉ (List.range 4).map fun n => 0x050004 + 0x1000 * n) :
    s.persist.word b = s.word b := by
  have hwithin : ∀ n : Fin 4, Machine.State.within Reg.ANV_FENCE_PERSISTED n ((List.range 4).map fun n => 0x050004 + 0x1000 * n) = true ∧
      Machine.State.within Reg.ANV_FENCE_WD_PERSISTED n ((List.range 4).map fun n => 0x050004 + 0x1000 * n) = true := by decide
  rw [persist]
  refine List.foldlRecOn _ _ (motive := fun x : State => x.word b = s.word b) rfl fun x hx n hn => ?_
  obtain ⟨hstripe, hwd⟩ := hwithin ⟨n, List.mem_range.mp hn⟩
  rw [word_wr_listed hb hwd, word_wr_listed hb hstripe, hx]

/-- Once the present map stands in the last row, it is what the places hold outside Sealed and Debug (R66). -/
theorem heldMap_rowAdded {s : State} (h1 : s.lifecycle ≠ 1) (h2 : s.lifecycle ≠ 2) : s.rowAdded.heldMap = s.fenceMap := by
  have hlc : s.rowAdded.lifecycle = s.lifecycle := rfl
  have hrow : s.rowAdded.rowMap = s.fenceMap := by
    have hlast : s.rowAdded.fuses.fences.getLast? = some (BitVec.ofNat 64 s.fenceMap) := List.getLast?_concat
    have hlt : s.fenceMap < 2 ^ 64 := by rw [fenceMap_eq]; exact nineBits_lt s.fenceOf_lt
    rw [rowMap, hlast]
    dsimp only
    rw [BitVec.toNat_ofNat, Nat.mod_eq_of_lt hlt]
  rw [heldMap, hlc, if_neg (by simp [h1, h2]), hrow]

theorem rd_rowAdded_persisted {s : State} (h1 : s.lifecycle ≠ 1) (h2 : s.lifecycle ≠ 2) {n : Nat} (hn : n < 4) :
    s.rowAdded.persist.rd Reg.ANV_FENCE_PERSISTED n = s.rd Reg.ANV_FENCE_STRIPE n ∧
      s.rowAdded.persist.rd Reg.ANV_FENCE_WD_PERSISTED n = s.rd Reg.ANV_FENCE_WITHDRAWN n := by
  obtain ⟨hstripe, hwd⟩ := rd_persisted s.rowAdded hn
  have hmap : s.rowAdded.fenceMap &&& s.rowAdded.heldMap = s.fenceMap := by
    rw [heldMap_rowAdded h1 h2]; exact Nat.and_self _
  rw [hstripe, hwd, hmap]
  exact bits_fenceMap s hn

end State

section
variable {s : State} {a : Fin 4}

theorem exec_tileStart {i : Nat} {again : Bool} {t : Tile} {o : Op} (faults : List CellFault) (hrun : s.running = true)
    (hin : s.withdrawn a = false) (hpll : s.pllGated a = false) (hidle : s.anv[a].array = none)
    (hserves : s.serves a = some (i, again, t)) (ho : s.opOf t.op = some o) (hkind : t.kind ≠ .unit) :
    ∃ u, exec (.tileStart ⟨a, faults⟩) s = .next u ∧
      (∃ p, u.anv = s.anv.set a { s.entered o a i again t faults with pll := p }) ∧
      u.rd Reg.ANV_STATUS_STATE a = (if again then 2 else 1) ∧ u.rd Reg.ANV_STATUS_SLOT a = o.slot.val ∧
      u.rd Reg.ANV_STATUS_STREAM a = ringStream o.ring ∧ u.rd Reg.ANV_STATUS_DIE_OF_STREAM a = o.die.val := by
  have hown : ∀ a : Fin 4, ownField Reg.ANV_STATUS_STATE a = true ∧ ownField Reg.ANV_STATUS_SLOT a = true ∧
      ownField Reg.ANV_STATUS_STREAM a = true ∧ ownField Reg.ANV_STATUS_DIE_OF_STREAM a = true := by decide
  obtain ⟨hstate, hslot, hstream, hdie⟩ := hown a
  have hexec : exec (.tileStart ⟨a, faults⟩) s = .next ((s.tileEnters o a i again t faults).done s.pending) :=
    (congrArg (act s) (tileBegins_of_tile hrun hin hpll hidle hserves ho faults hkind)).trans (act_next ..)
  refine ⟨_, hexec, ?_, ?_⟩
  · rw [done_anv]; exact tileEnters_anv ..
  · rw [done_rd _ hstate, done_rd _ hslot, done_rd _ hstream, done_rd _ hdie]
    exact tileEnters_status ..

theorem exec_tileEnd {run : TileRun} {o : Op} (tm : TileTiming) (hrun : s.running = true) (hpll : s.pllGated a = false)
    (harray : s.anv[a].array = some run) (hroom : s.anv[a].hold.length + s.anv[a].leaving.length < 4)
    (ho : s.opOf run.tile.op = some o) :
    let duty := s.endDuty a run tm
    let cycles := tileCycles run tm + duty.1
    ∃ u, exec (.tileEnd a tm) s = .next u ∧
      u.anv = s.anv.set a { s.anv[a] with
        array := none, hold := s.anv[a].hold ++ [run], charge := s.anv[a].charge + cycles, count := s.anv[a].count + cycles
        duty := duty.2 } ∧
      u.ops = (s.ops.map fun y => if y.id = o.id then { y with cycles := y.cycles + cycles } else y) ∧
      u.rd Reg.ANV_STATUS_STATE a = 0 ∧
      u.rd Reg.ANV_BUSY_CYC_COUNT a = (s.rd Reg.ANV_BUSY_CYC_COUNT a + ((if tm.gap then 1024 else 0) + run.steps)) % 2 ^ 64 ∧
      u.rd Reg.PWR_THROTTLE_CYC_COUNT 0 = (s.rd Reg.PWR_THROTTLE_CYC_COUNT 0 + duty.1) % 2 ^ 64 ∧
      u.rd Reg.ANV_DRY_A_CYC_COUNT a = (s.rd Reg.ANV_DRY_A_CYC_COUNT a + (tm.dryA + tm.dryBoth)) % 2 ^ 64 ∧
      u.rd Reg.ANV_DRY_B_CYC_COUNT a = (s.rd Reg.ANV_DRY_B_CYC_COUNT a + (tm.dryB + tm.dryBoth)) % 2 ^ 64 ∧
      u.rd Reg.ANV_DRAIN_WAIT_CYC_COUNT a = (s.rd Reg.ANV_DRAIN_WAIT_CYC_COUNT a + (run.holds + tm.holdWait)) % 2 ^ 64 ∧
      Tab.get (fun _ => 0) u.pw.charged (chargeKey a o) = Tab.get (fun _ => 0) s.pw.charged (chargeKey a o) + cycles ∧
      u.mem = s.mem ∧ u.ms = s.ms ∧ u.rings = s.rings ∧ u.net = s.net ∧ u.tel = s.tel := by
  intro duty cycles
  have hexec : exec (.tileEnd a tm) s = .next ((s.tileEnded a run o tm).done s.pending) :=
    (congrArg (act s) (tileEnds_of_run tm hrun hpll harray hroom ho)).trans (act_next ..)
  have hfields : ∀ a : Fin 4, ∀ f ∈ [Reg.ANV_BUSY_CYC_COUNT, Reg.ANV_DRY_A_CYC_COUNT, Reg.ANV_DRY_B_CYC_COUNT,
      Reg.ANV_DRAIN_WAIT_CYC_COUNT], ownField f a = true ∧ f.len = 64 ∧ 0x036000 ≤ fieldAddr f a ∧
      apart Reg.ANV_STATUS_STATE a f a = true ∧ apart Reg.PWR_THROTTLE_CYC_COUNT 0 f a = true := by decide
  have hcount {f : Field} {n : Nat} (hf : f ∈ [Reg.ANV_BUSY_CYC_COUNT, Reg.ANV_DRY_A_CYC_COUNT, Reg.ANV_DRY_B_CYC_COUNT,
      Reg.ANV_DRAIN_WAIT_CYC_COUNT]) (hmem : ∀ late, (f, n) ∈ endCounts run tm late) :
      ((s.tileEnded a run o tm).done s.pending).rd f a = (s.rd f a + n) % 2 ^ 64 := by
    obtain ⟨hown, hlen, hhigh, hstate, hheld⟩ := hfields a f hf
    rw [done_rd _ hown, tileEnded_count s a run o tm (by omega) hhigh hstate hheld hmem, hlen]
  have hown : ∀ a : Fin 4, ownField Reg.ANV_STATUS_STATE a = true := by decide
  have hrest := tileEnded_noCtl s a run o tm
  refine ⟨_, hexec, ?_, ?_, ?_, hcount (by simp) fun _ => by simp [endCounts], ?_, hcount (by simp) fun _ => by simp [endCounts],
    hcount (by simp) fun _ => by simp [endCounts], hcount (by simp) fun _ => by simp [endCounts], ?_, ?_, ?_, ?_, ?_, ?_⟩
  · rw [done_anv, tileEnded_anv]
  · rw [done_ops, ops_of_noCtl hrest]; rfl
  · rw [done_rd _ (hown a), tileEnded_state]
  · rw [done_rd _ (by decide), tileEnded_throttle]
  · rw [done_pw, pw_of_noCtl hrest]
    exact Tab.get_set_same ..
  · rw [done_mem, mem_of_noCtl hrest]; rfl
  · rw [done_ms, ms_of_noCtl hrest]; rfl
  · rw [done_rings, rings_of_noCtl hrest]; rfl
  · rw [done_net, net_of_noCtl hrest]; rfl
  · rw [done_tel, tel_of_noCtl hrest]; rfl

/-- What the charging of gated cycles leaves, part by part. -/
theorem chargeGated_parts (s : State) (a : Fin 4) (n : Nat) :
    let x := s.anv[a]
    let g := s.chargeGated a n
    let w := s.itabEntry a (s.itabPos a)
    g.anv[a].charge = x.charge + n ∧ g.anv[a].count = x.count + n ∧ (∀ b, b ≠ a → g.anv[b] = s.anv[b]) ∧
      g = { s with anv := g.anv, pw := { s.pw with gated := g.pw.gated }, free := g.free } ∧
      ∃ p, p < 5 ∧ Tab.get (fun _ => 0) g.pw.gated (entSlot w * 8 + p) =
        Tab.get (fun _ => 0) s.pw.gated (entSlot w * 8 + p) + n := by
  intro x g w
  obtain ⟨⟨d, hanv⟩, hrest, hgated⟩ := chargeGated_shows s a n
  have hself : g.anv[a] = { x with charge := x.charge + n, count := x.count + n, duty := d } := by
    rw [show g.anv = _ from hanv]; exact Vector.getElem_set_self _
  refine ⟨congrArg Anvil.charge hself, congrArg Anvil.count hself, fun b hb => ?_, hrest, hgated⟩
  rw [show g.anv = _ from hanv]
  exact Vector.getElem_set_ne _ _ (Fin.val_ne_of_ne (Ne.symm hb))

section
variable (gated : Nat) (hrun : s.running = true) (hin : s.withdrawn a = false) (hidle : s.anv[a].array = none)
include hrun hin hidle

theorem exec_entryEnds_within (hless : s.anv[a].charge + s.idleCycles a gated < entQuota (s.itabEntry a (s.itabPos a))) :
    ∃ u, exec (.itabEntryEnd a gated) s = .next u ∧ RegsOnly (s.chargeGated a (s.idleCycles a gated)) u [] := by
  have hexec : exec (.itabEntryEnd a gated) s = .next ((s.chargeGated a (s.idleCycles a gated)).done s.pending) :=
    (congrArg (act s) ((entryEnds_of_idle gated hrun hin hidle).trans (if_pos hless))).trans (act_next ..)
  obtain ⟨-, hrest, -⟩ := chargeGated_shows s a (s.idleCycles a gated)
  have hpending : (s.chargeGated a (s.idleCycles a gated)).pending = s.pending := (congrArg State.pending hrest :)
  refine ⟨_, hexec, ?_⟩
  rw [← hpending]
  exact done_regsOnly rfl fun _ _ => rfl

theorem exec_entryEnds_over (hlen : s.anv[a].table.length ≤ 4096)
    (hends : entQuota (s.itabEntry a (s.itabPos a)) ≤ s.anv[a].charge + s.idleCycles a gated) :
    let g := s.chargeGated a (s.idleCycles a gated)
    let d : Fin 2 := Fin.ofNat 2 (a.val / 2)
    ∃ u, exec (.itabEntryEnd a gated) s = .next u ∧ u.itabPos a = s.nextEntry a ∧ u.anv[a].charge = 0 ∧ u.anv[a].loan = none ∧
      (s.nextEntry a ≠ 0 ∨ s.seqr[d].pending = none →
        RegsOnly { g with anv := g.anv.set a { g.anv[a] with charge := 0, loan := none } } u [0x020110 + 0x40 * (a.val / 2)]) ∧
      ∀ t lend, s.nextEntry a = 0 → s.seqr[d].pending = some (t, lend) → s.anv[a].switched = false →
        u.anv[a].table = t ∧ u.anv[a].lend = lend := by
  intro g d
  obtain ⟨v, hv⟩ : ∃ v, v = s.pointerMoved a gated := ⟨_, rfl⟩
  obtain ⟨w, hw⟩ : ∃ w, w = if s.nextEntry a = 0 then v.takeTable a else v := ⟨_, rfl⟩
  have hexec : exec (.itabEntryEnd a gated) s = .next (w.done s.pending) := by
    rw [hw, hv]
    exact (congrArg (act s) ((entryEnds_of_idle gated hrun hin hidle).trans (if_neg (Nat.not_lt.mpr hends)))).trans (act_next ..)
  obtain ⟨hpos, hanv, hctl, hseqr, hswitched, hcharge, hloan, hword⟩ := pointerMoved_shows s a gated hlen
  rw [← hv] at hpos hanv hctl hseqr hswitched hcharge hloan hword
  have hwpos : w.itabPos a = v.itabPos a := by
    rw [hw]; split
    · exact itabPos_takeTable v a a
    · rfl
  have hwcharge : w.anv[a].charge = v.anv[a].charge := by
    rw [hw]; split
    · exact anvil_takeTable Anvil.charge (fun _ _ _ => rfl) (fun _ => rfl) v a a
    · rfl
  have hwloan : w.anv[a].loan = v.anv[a].loan := by
    rw [hw]; split
    · exact anvil_takeTable Anvil.loan (fun _ _ _ => rfl) (fun _ => rfl) v a a
    · rfl
  have hitab (u : State) (q : List Instr) : (u.done q).itabPos a = u.itabPos a := by
    have hown : ∀ d : Fin 2, ownField Reg.STR_ITAB_POS_POS_LO d = true ∧ ownField Reg.STR_ITAB_POS_POS_HI d = true := by decide
    have hd : a.val / 2 = (⟨a.val / 2, by omega⟩ : Fin 2).val := rfl
    rw [itabPos, itabPos, hd, done_rd _ (hown _).1, done_rd _ (hown _).2]
  refine ⟨_, hexec, ?_, ?_, ?_, fun hkeeps => ?_, fun t lend hzero hp hnot => ?_⟩
  · rw [hitab, hwpos, hpos]
  · rw [done_anv, hwcharge, hcharge]
  · rw [done_anv, hwloan, hloan]
  · have hsame : w = v := by
      rw [hw]
      rcases hkeeps with hnext | hnone
      · exact if_neg hnext
      · split
        · exact takeTable_of_none (by rw [hseqr]; exact hnone)
        · rfl
    obtain ⟨-, hrest, -⟩ := chargeGated_shows s a (s.idleCycles a gated)
    have hpending : g.pending = s.pending := (congrArg State.pending hrest :)
    rw [hsame, ← hpending]
    exact done_regsOnly (s := { g with anv := g.anv.set a { g.anv[a] with charge := 0, loan := none } }) hctl hword
  · have htakes := takeTable_takes (s := v) (n := a) (t := t) (lend := lend) (by rw [hseqr]; exact hp) (hswitched.trans hnot)
    rw [done_anv, hw, if_pos hzero]
    exact htakes

end

end

/-- Settles O47: the guards hold, and the rules of a tile's start and end, of the pointer and of the fence rows apply. -/
theorem tilesRun : Obligations.TilesRun := by
  unfold Obligations.TilesRun
  intro s a tm gated x pos w idle g next
  refine ⟨?_, ?_, ?_, ?_, ?_⟩
  · intro faults i again t o hrun hin hpll hidle hserves ho hkind
    obtain ⟨u, hu, ⟨p, hanv⟩, hstate, hslot, hstream, hdie⟩ := exec_tileStart faults hrun hin hpll hidle hserves ho hkind
    have hself : u.anv[a] = { s.entered o a i again t faults with pll := p } := by
      rw [hanv]; exact Vector.getElem_set_self _
    have hothers (b : Fin 4) (hb : b ≠ a) : u.anv[b] = s.anv[b] := by
      rw [hanv]; exact Vector.getElem_set_ne _ _ (Fin.val_ne_of_ne (Ne.symm hb))
    refine ⟨u, hu, ?_⟩
    rw [hself]
    exact ⟨rfl, rfl, rfl, rfl, rfl, rfl, rfl, rfl, rfl, hothers, hstate, hslot, hstream, hdie⟩
  · intro faults i again t o v p hrun hin hpll hidle hserves ho hkind hcut o' ho'
    exact (congrArg (act s) (tileBegins_of_unit hrun hin hpll hidle hserves ho faults hkind hcut ho')).trans (act_next ..)
  · intro run o hrun hpll harray hroom ho
    exact exec_tileEnd tm hrun hpll harray hroom ho
  · intro hrun hin hidle hlen
    exact ⟨chargeGated_parts s a idle, fun hless => exec_entryEnds_within gated hrun hin hidle hless,
      fun hends => exec_entryEnds_over gated hrun hin hidle hlen hends⟩
  · intro hpow hnew hroom
    have hexec : exec .fenceRowProgrammed s = .next (s.rowAdded.persist.done s.pending) :=
      (congrArg (act s) (programRow_of_new hpow hnew hroom)).trans (act_next ..)
    refine ⟨_, hexec, ?_, fun n hn hsealed hdebug => ?_⟩
    · exact done_regsOnly (s := s.rowAdded) (persist_noCtl _) fun b hb => persist_word _ hb
    · have hown : ∀ n : Fin 4, ownField Reg.ANV_FENCE_PERSISTED n = true ∧ ownField Reg.ANV_FENCE_WD_PERSISTED n = true := by decide
      obtain ⟨hstripe, hwd⟩ := hown ⟨n, hn⟩
      rw [done_rd _ hstripe, done_rd _ hwd]
      exact rd_rowAdded_persisted hsealed hdebug hn

end Sys2Proof.Machine
end
